-- ==== Sys2Proof/Word.lean ====
section
/-! DEFINITION. Words and bytes of the V7: widths, the 56-bit address arithmetic of R114 and plain sparse tables. -/

namespace Sys2Proof

/-- A 64-bit register or memory word (R89). -/
abbrev Word := BitVec 64

/-- A byte (R1). -/
abbrev Byte := BitVec 8

/-- A number 0 to 31 of an x or v register (R74). -/
abbrev Reg := BitVec 5

/-- A number 0 to 63 of a segment slot (R74). -/
abbrev Slot := BitVec 6

/-- A sparse table: pairs of key and value, keys strictly rising. -/
abbrev Tab (α : Type) := List (Nat × α)

/-- The entry of a table at a key. -/
def Tab.get? {α : Type} (t : Tab α) (k : Nat) : Option α :=
  match t with
  | [] => none
  | (j, v) :: rest => if j = k then some v else Tab.get? rest k

/-- The table with the entry at k set to v. -/
def Tab.set {α : Type} (t : Tab α) (k : Nat) (v : α) : Tab α :=
  match t with
  | [] => [(k, v)]
  | (j, w) :: rest =>
    if j = k then (k, v) :: rest
    else if k < j then (k, v) :: (j, w) :: rest
    else (j, w) :: Tab.set rest k v

/-- The table without the entry at k. -/
def Tab.erase {α : Type} (t : Tab α) (k : Nat) : Tab α :=
  t.filter (fun p => p.1 != k)

/-- The keys of a table, in rising order. -/
def Tab.keys {α : Type} (t : Tab α) : List Nat := t.map Prod.fst

end Sys2Proof
end

