-- ==== Sys2Proof/Syntax.lean ====
section
/-! DEFINITION. The instruction set as data: one constructor of `Instr` for every row of spec/opcode_table.json, the
instructions of files 3 to 18 and the events of files 14 to 20 (the other agents' steps). A field that an encoding fixes is
no operand; operand types leave out reserved codes where one type can. -/

namespace Sys2Proof

/-- The integer condition codes 0 to 9 of R76. -/
inductive IntCc
  | eq | ne | lt | ge | ltn | gen | gt | le | gtn | len
  deriving DecidableEq, Repr

/-- The floating-point condition codes 0 to 7 of R77. -/
inductive FpCc
  | eq | ne | lt | le | gt | ge | un | ord
  deriving DecidableEq, Repr

/-- The operand formats of R78, codes 1 to 14. -/
inductive Fmt
  | f32 | bf16 | f16 | e4m3 | e5m2 | lg6 | i8 | n8 | i16 | n16 | i32 | n32 | i64 | n64
  deriving DecidableEq, Repr

/-- The 32-bit lane formats: type codes 1, 11 and 12 (R149, R152). -/
inductive LaneTy
  | f32 | i32 | n32
  deriving DecidableEq, Repr

/-- The scopes of R79, codes 0 to 4. -/
inductive Scope
  | core | grove | die | device | fabric
  deriving DecidableEq, Repr

/-- The rounding modes of R34. -/
inductive Rm
  | rne | rz | ru | rd
  deriving DecidableEq, Repr

/-- The acquire and release flags of an E parcel with their scope (R81: no scope without a flag). -/
inductive Order
  | plain
  | acq (sc : Scope)
  | rel (sc : Scope)
  | acqRel (sc : Scope)
  deriving DecidableEq, Repr

/-- The completion operation of R81. -/
inductive Cw
  | none | add | set
  deriving DecidableEq, Repr

/-- The mask fields of a V parcel (R81: me = 0 goes with m = mn = mz = 0). -/
inductive Mask
  | all
  | on (inv z : Bool) (m : BitVec 3)
  deriving DecidableEq, Repr

/-- The payload of `fmt` (R82): formats (none is code 0), scale kinds, rounding (none is `status.RM`). -/
structure Prefix where
  fa : Option Fmt
  fb : Option Fmt
  fd : Option Fmt
  ka : Bool
  kb : Bool
  rm : Option Rm
  deriving DecidableEq, Repr

/-- The control registers of R95. -/
inductive Creg
  | status | pfx | fpflags | coreid | groveid | dieid | devid | epid
  | ringhead | faultinfo | fva | fsq | epc | esta | epfx | tvec | imgbase
  | mwgt | rways | isaver | lpool | cyc
  | pmc (k : BitVec 3) | pmsel (k : BitVec 3)
  deriving DecidableEq, Repr

/-- The register and slot fields that the engine and matrix commands share (R193, R81). -/
structure Cmd where
  d : Reg
  a : Reg
  b : Reg
  c : Reg
  sa : Slot
  sb : Slot
  ord : Order
  cw : Cw
  ds : Bool
  deriving DecidableEq, Repr

/-- The fields of `put` and `get` (R341). -/
structure FabCmd where
  d : Reg
  a : Reg
  b : Reg
  c : Reg
  sb : Slot
  ord : Order
  cw : Cw
  ds : Bool
  deriving DecidableEq, Repr

/-- Where an incumbent shadow stands (R374): a die's pool or a core. -/
inductive ShadowAt
  | pool (die : Nat)
  | core (c : Nat)
  deriving DecidableEq, Repr

/-- A place in on-die SRAM that an error can strike (R178, R179): a sector that a slice holds, a sector of a line of a grove L1, 32 bytes
of a grove's cluster memory, a line of an image in a core's register cache, a compute-in-memory bank. -/
inductive SramSite
  | slice (grove sector : Nat)
  | l1 (grove sector : Nat)
  | cluster (grove sector : Nat)
  | regs (core cid line : Nat)
  | bank (grove k : Nat)
  deriving DecidableEq, Repr

/-- What a home slice is asked to do by another agent (R166, R173, R176, R178, R179): a byte-masked write-back of a grove's
line, which the L1 keeps clean or drops; the write-back of a home line to DRAM; an error that the memory corrects or cannot correct. -/
inductive HomeReq
  | writeBack (grove line : Nat) (drop : Bool)
  | toDram (line : Nat)
  | corrected (pa : Nat)
  | uncorrectable (pa : Nat)
  | sram (site : SramSite) (bad : Bool)
  deriving DecidableEq, Repr

/-- The translation caches of R362. -/
inductive TlbAt
  | micro (core : Nat)
  | grove (g : Nat)
  | engine (g : Nat)
  | matrix (g : Nat)
  | gateway (g : Nat)
  deriving DecidableEq, Repr

/-- What an access needs of a leaf (R360 detail 4). -/
inductive Access
  | read | write | atomic | fetch
  deriving DecidableEq, Repr

/-- What a grid is declared with (R260): dimension, format, halo width, stencil radius, depth, extents, block sizes, face rules, constants,
group, stall limit and the owners of its blocks. -/
structure GridDecl where
  dim : Nat
  fmt : Fmt
  h : Nat
  rho : Nat
  depth : Nat
  ext : List Nat
  blk : List Nat
  faces : Nat
  consts : List Nat
  group : Nat
  stall : Nat
  owners : List Nat
  deriving DecidableEq, Repr

/-- The content of a fabric write (R336, R343, R346, R266): bytes of a range (a cluster offset or a virtual address of the
target, with the whole range for the target's translation check), bytes of a `get` reply for the requester's range, a counter
increment, a `pub` version, or the cells of a halo part from the `first` on, with the sender's declaration. -/
inductive FabBody
  | data (virt : Bool) (base len off : Nat) (bytes : List Byte)
  | reply (off : Nat) (bytes : List Byte)
  | counter (off : Nat)
  | version (virt : Bool) (addr : Nat) (value : Word)
  | part (grid : Nat) (decl : GridDecl) (block strip src step first : Nat) (cells : List (Nat × BitVec 32))
  deriving DecidableEq, Repr

/-- A fabric write packet (R328, R336, R337). `xfer` is the sender's number of the transfer it belongs to. -/
structure FabPacket where
  srcEp : Nat
  srcInc : BitVec 4
  dstEp : Nat
  dstInc : BitVec 4
  seq : Nat
  window : Nat
  xfer : Nat
  body : FabBody
  deriving DecidableEq, Repr

/-- A packet that arrives: one of the module's own in flight, or a peer's, at a port. -/
inductive FabSource
  | own (i : Nat)
  | peer (port : Nat) (p : FabPacket)
  deriving DecidableEq, Repr

/-- What an answer answers: a write by its sequence number, a `get` request by its transfer, a message, or a close notice. -/
inductive AckKind
  | write | get | msg | close
  deriving DecidableEq, Repr

/-- An acknowledgement, refusal or echo (R337, R343, R335, R347) for what a source die sent to a device: the fault code of a refusal
(0 for a refused message), and at which port it arrives (of no meaning within the module). -/
structure FabAck where
  kind : AckKind
  die : Nat
  dev : Nat
  srcInc : BitVec 4
  dstInc : BitVec 4
  seq : Nat
  refusal : Option Nat
  echo : Bool
  port : Nat
  deriving DecidableEq, Repr

/-- A gateway's report of the highest number that a source die has sent, and of its window (R337), with the fields that every packet carries
(R328), at a port (of no meaning within the module). -/
structure SeqReport where
  srcDie : Nat
  srcDev : Nat
  srcInc : BitVec 4
  dstInc : BitVec 4
  hi : Nat
  window : Nat
  port : Nat
  deriving DecidableEq, Repr

/-- A close notice for a message number of a source die (R347), likewise. -/
structure CloseNotice where
  srcDie : Nat
  srcDev : Nat
  srcInc : BitVec 4
  dstInc : BitVec 4
  seq : Nat
  port : Nat
  deriving DecidableEq, Repr

/-- The device that a packet of the control channel comes from, and the two incarnations that it carries (R328). -/
structure PeerTag where
  dev : Nat
  srcInc : BitVec 4
  dstInc : BitVec 4
  deriving DecidableEq, Repr

/-- One access of a gather agent (R221): the sector, and the element that it serves alone, if it does not serve all that wait for the sector. -/
structure SectorAccess where
  sector : Nat
  elem : Option Nat
  deriving DecidableEq, Repr

/-- A message packet (R347). -/
structure MsgPacket where
  srcEp : Nat
  srcInc : BitVec 4
  dstEp : Nat
  dstInc : BitVec 4
  seq : Nat
  tag : BitVec 16
  pay : BitVec 192
  deriving DecidableEq, Repr

/-- A message that arrives: one of the module's own in flight, or a peer's, at a port. -/
inductive MsgSource
  | own (i : Nat)
  | peer (port : Nat) (p : MsgPacket)
  deriving DecidableEq, Repr

/-- A `get` request (R343): where it reads, and where its replies go. -/
structure GetReq where
  srcEp : Nat
  srcInc : BitVec 4
  dstEp : Nat
  dstInc : BitVec 4
  virt : Bool
  addr : Nat
  len : Nat
  xfer : Nat
  deriving DecidableEq, Repr

/-- A `get` request that arrives: one of the module's own in flight, or a peer's, at a port. -/
inductive GetSource
  | own (i : Nat)
  | peer (port : Nat) (r : GetReq)
  deriving DecidableEq, Repr

/-- The three logs of a die (R411). -/
inductive LogKind
  | host | die | engine
  deriving DecidableEq, Repr

/-- One access of the host over CXL (R412). -/
inductive HostAccess
  | read (addr n : Nat)
  | write (addr : Nat) (bytes : List Byte)
  deriving DecidableEq, Repr

/-- Why a word decodes to no instruction (R88 checks 2 to 4). -/
inductive IllegalWord
  | length | crossing | encoding
  deriving DecidableEq, Repr

/-- Firmware's free choices at a load (R416): physical pages for the sections in virtual order, 1 GiB heap frames, frames for
page tables, and per die the image area (base, count), the record-and-grid base, the mailbox ring and index bases, and the base of the
diverted-message buffers (R348). -/
structure LoadPlan where
  pages : List Nat
  heap : List Nat
  tables : List Nat
  images : List (Nat × Nat)
  rgBases : List Nat
  rings : List Nat
  indexes : List Nat
  diverts : List Nat
  deriving DecidableEq, Repr

/-- The instructions and events of the V7. -/
inductive Instr
  /-- `ADD` (R115): Adds two x registers modulo 2^64. -/
  | add (d a b : Reg)
  /-- `SUB` (R115): Subtracts x register b from x register a modulo 2^64. -/
  | sub (d a b : Reg)
  /-- `MUL` (R115): Writes the low 64 bits of the product of two x registers. -/
  | mul (d a b : Reg)
  /-- `MULH` (R115): Writes the high 64 bits of the signed 128-bit product. -/
  | mulh (d a b : Reg)
  /-- `MULHN` (R115): Writes the high 64 bits of the natural 128-bit product. -/
  | mulhn (d a b : Reg)
  /-- `DIV` (R116): Signed division truncating toward zero, with fixed results for zero divisor and overflow. -/
  | div (d a b : Reg)
  /-- `DIVN` (R116): Natural division, giving all ones for a zero divisor. -/
  | divn (d a b : Reg)
  /-- `REM` (R116): Signed remainder with the sign of the dividend. -/
  | rem (d a b : Reg)
  /-- `REMN` (R116): Natural remainder, giving the dividend for a zero divisor. -/
  | remn (d a b : Reg)
  /-- `AND` (R115): Bitwise and of two x registers. -/
  | and_ (d a b : Reg)
  /-- `OR` (R115): Bitwise or of two x registers. -/
  | or_ (d a b : Reg)
  /-- `XOR` (R115): Bitwise exclusive or of two x registers. -/
  | xor_ (d a b : Reg)
  /-- `ANDN` (R115): Bitwise and of a with not b. -/
  | andn (d a b : Reg)
  /-- `SLL` (R115): Logical shift left by the count mod 64. -/
  | sll (d a b : Reg)
  /-- `SRL` (R115): Logical shift right by the count mod 64. -/
  | srl (d a b : Reg)
  /-- `SRA` (R115): Arithmetic shift right by the count mod 64. -/
  | sra (d a b : Reg)
  /-- `ROL` (R115): Rotates left by the count mod 64. -/
  | rol (d a b : Reg)
  /-- `ROR` (R115): Rotates right by the count mod 64. -/
  | ror (d a b : Reg)
  /-- `MIN` (R115): Signed minimum of two x registers. -/
  | min_ (d a b : Reg)
  /-- `MAX` (R115): Signed maximum of two x registers. -/
  | max_ (d a b : Reg)
  /-- `MINN` (R115): Natural minimum of two x registers. -/
  | minn (d a b : Reg)
  /-- `MAXN` (R115): Natural maximum of two x registers. -/
  | maxn (d a b : Reg)
  /-- `CLZ` (R115): Counts leading zero bits of x register a. -/
  | clz (d a : Reg)
  /-- `CTZ` (R115): Counts trailing zero bits of x register a. -/
  | ctz (d a : Reg)
  /-- `POPC` (R115): Counts the one bits of x register a. -/
  | popc (d a : Reg)
  /-- `SET_CC` (R115): Writes 1 when integer condition cc holds for a and b, else 0. -/
  | setCc (cc : IntCc) (d a b : Reg)
  /-- `EXT` (R117): Extracts a bit field and sign-extends it (format AQ). -/
  | ext (d a : Reg) (pos lenm1 : BitVec 6)
  /-- `EXTN` (R117): Extracts a bit field and zero-extends it (format AQ). -/
  | extn (d a : Reg) (pos lenm1 : BitVec 6)
  /-- `INS` (R117): Inserts the low bits of a into a field of the destination (format AQ). -/
  | ins (d a : Reg) (pos lenm1 : BitVec 6)
  /-- `SEL` (R117): Selects a or b by whether register c is nonzero (format AQ). -/
  | sel (d a b c : Reg)
  /-- `ADD_IMM` (R118): Adds a signed 11-bit immediate to x register a. -/
  | addImm (d a : Reg) (imm : BitVec 11)
  /-- `AND_IMM` (R118): Ands x register a with a sign-extended 11-bit immediate. -/
  | andImm (d a : Reg) (imm : BitVec 11)
  /-- `OR_IMM` (R118): Ors x register a with a sign-extended 11-bit immediate. -/
  | orImm (d a : Reg) (imm : BitVec 11)
  /-- `XOR_IMM` (R118): Exclusive-ors x register a with a sign-extended 11-bit immediate. -/
  | xorImm (d a : Reg) (imm : BitVec 11)
  /-- `SLL_IMM` (R118): Shifts left by a natural immediate from 0 to 63. -/
  | sllImm (d a : Reg) (sh : BitVec 6)
  /-- `SRL_IMM` (R118): Shifts right logically by a natural immediate from 0 to 63. -/
  | srlImm (d a : Reg) (sh : BitVec 6)
  /-- `SRA_IMM` (R118): Shifts right arithmetically by a natural immediate from 0 to 63. -/
  | sraImm (d a : Reg) (sh : BitVec 6)
  /-- `MUL_IMM` (R118): Multiplies x register a by a signed 11-bit immediate. -/
  | mulImm (d a : Reg) (imm : BitVec 11)
  /-- `ADD_IMM_Q` (R118): Adds a signed 32-bit immediate (format IQ). -/
  | addImmQ (d a : Reg) (imm : BitVec 32)
  /-- `AND_IMM_Q` (R118): Ands with a sign-extended 32-bit immediate (format IQ). -/
  | andImmQ (d a : Reg) (imm : BitVec 32)
  /-- `OR_IMM_Q` (R118): Ors with a sign-extended 32-bit immediate (format IQ). -/
  | orImmQ (d a : Reg) (imm : BitVec 32)
  /-- `XOR_IMM_Q` (R118): Exclusive-ors with a sign-extended 32-bit immediate (format IQ). -/
  | xorImmQ (d a : Reg) (imm : BitVec 32)
  /-- `SLL_IMM_Q` (R118): Shifts left by an immediate in format IQ. -/
  | sllImmQ (d a : Reg) (sh : BitVec 6)
  /-- `SRL_IMM_Q` (R118): Shifts right logically by an immediate in format IQ. -/
  | srlImmQ (d a : Reg) (sh : BitVec 6)
  /-- `SRA_IMM_Q` (R118): Shifts right arithmetically by an immediate in format IQ. -/
  | sraImmQ (d a : Reg) (sh : BitVec 6)
  /-- `MUL_IMM_Q` (R118): Multiplies by a signed 32-bit immediate (format IQ). -/
  | mulImmQ (d a : Reg) (imm : BitVec 32)
  /-- `LI` (R119): Loads an 11-bit immediate sign-extended to 64 bits. -/
  | li (d : Reg) (imm : BitVec 11)
  /-- `LI_Q` (R119): Loads a 32-bit immediate sign-extended to 64 bits (format IQ). -/
  | liQ (d : Reg) (imm : BitVec 32)
  /-- `LIH` (R119): Writes a 32-bit immediate into bits 63:32 and keeps bits 31:0 (format IQ only). -/
  | lih (d : Reg) (imm : BitVec 32)
  /-- `LPC` (R119): Loads the pc plus an 11-bit byte offset. -/
  | lpc (d : Reg) (off : BitVec 11)
  /-- `LPC_Q` (R119): Loads the pc plus a 32-bit byte offset (format IQ). -/
  | lpcQ (d : Reg) (off : BitVec 32)
  /-- `B_CC` (R121): Compares two x registers under cc and branches by a 9-bit word offset when it holds. -/
  | bCc (cc : IntCc) (a b : Reg) (off : BitVec 9)
  /-- `B_CC_Q` (R121): Conditional branch with a 32-bit word offset (format CQ). -/
  | bCcQ (cc : IntCc) (a b : Reg) (off : BitVec 32)
  /-- `JAL` (R123): Writes the return address and jumps by a 19-bit word offset; jmp is the form with d = 0. -/
  | jal (d : Reg) (off : BitVec 19)
  /-- `JAL_Q` (R123): Jump and link with a 32-bit word offset (format JQ). -/
  | jalQ (d : Reg) (off : BitVec 32)
  /-- `LOOP` (R122): Decrements x register a and branches while the result is nonzero. -/
  | loop (a : Reg) (off : BitVec 9)
  /-- `LOOP_Q` (R122): Loop branch with a 32-bit word offset (format CQ). -/
  | loopQ (a : Reg) (off : BitVec 32)
  /-- `JR` (R124): Jumps to the address in x register a and writes the link. -/
  | jr (d a : Reg)
  /-- `FADD` (R126): FP32 add rounded once under rm. -/
  | fadd (d a b : Reg)
  /-- `FSUB` (R126): FP32 subtract rounded once under rm. -/
  | fsub (d a b : Reg)
  /-- `FMUL` (R126): FP32 multiply rounded once under rm. -/
  | fmul (d a b : Reg)
  /-- `FDIV` (R126): FP32 divide rounded once under rm. -/
  | fdiv (d a b : Reg)
  /-- `FSQRT` (R126): FP32 square root rounded once under rm. -/
  | fsqrt (d a : Reg)
  /-- `FMIN` (R126): FP32 minimum under R39. -/
  | fmin (d a b : Reg)
  /-- `FMAX` (R126): FP32 maximum under R39. -/
  | fmax (d a b : Reg)
  /-- `FSGN` (R128): Copies a with the sign of b. -/
  | fsgn (d a b : Reg)
  /-- `FSGNN` (R128): Copies a with the inverted sign of b. -/
  | fsgnn (d a b : Reg)
  /-- `FSGNX` (R128): Copies a with the sign a xor b. -/
  | fsgnx (d a b : Reg)
  /-- `FCMP_CC` (R127): Writes 1 when FP32 relation cc holds, else 0. -/
  | fcmpCc (cc : FpCc) (d a b : Reg)
  /-- `FCVT_I32_F32` (R129): Converts FP32 to .i32 under rm. -/
  | fcvtI32F32 (d a : Reg)
  /-- `FCVT_N32_F32` (R129): Converts FP32 to .n32 under rm. -/
  | fcvtN32F32 (d a : Reg)
  /-- `FCVT_I64_F32` (R129): Converts FP32 to .i64 under rm. -/
  | fcvtI64F32 (d a : Reg)
  /-- `FCVT_N64_F32` (R129): Converts FP32 to .n64 under rm. -/
  | fcvtN64F32 (d a : Reg)
  /-- `FCVT_F32_I32` (R129): Converts .i32 to FP32 under rm. -/
  | fcvtF32I32 (d a : Reg)
  /-- `FCVT_F32_N32` (R129): Converts .n32 to FP32 under rm. -/
  | fcvtF32N32 (d a : Reg)
  /-- `FCVT_F32_I64` (R129): Converts .i64 to FP32 under rm. -/
  | fcvtF32I64 (d a : Reg)
  /-- `FCVT_F32_N64` (R129): Converts .n64 to FP32 under rm. -/
  | fcvtF32N64 (d a : Reg)
  /-- `FMA` (R126): FP32 fused multiply-add with one rounding (format AQ). -/
  | fma (d a b c : Reg)
  /-- `CRD` (R131): Reads a control register into an x register. -/
  | crd (d : Reg) (r : Creg)
  /-- `CWR` (R132): Writes an x register into a control register after privilege, RO, reserved and range checks. -/
  | cwr (r : Creg) (a : Reg)
  /-- `SYS` (R134): Commits and raises the system-call trap with n in DATA. -/
  | sys (n : BitVec 15)
  /-- `BRK` (R135): Raises the breakpoint trap without committing. -/
  | brk (n : BitVec 15)
  /-- `FMT` (R82): Writes the prefix payload into pfx and sets status.PP for the next instruction. -/
  | fmt (p : Prefix)
  /-- `VADD_F32` (R144): FP32 lane add. -/
  | vaddF32 (d a b : Reg) (m : Mask)
  /-- `VSUB_F32` (R144): FP32 lane subtract. -/
  | vsubF32 (d a b : Reg) (m : Mask)
  /-- `VMUL_F32` (R144): FP32 lane multiply. -/
  | vmulF32 (d a b : Reg) (m : Mask)
  /-- `VDIV` (R144): Correctly rounded FP32 lane divide. -/
  | vdiv (d a b : Reg) (m : Mask)
  /-- `VSQRT` (R144): Correctly rounded FP32 lane square root. -/
  | vsqrt (d a : Reg) (m : Mask)
  /-- `VRSQRT` (R144): Correctly rounded FP32 lane reciprocal square root. -/
  | vrsqrt (d a : Reg) (m : Mask)
  /-- `VEXP2` (R144): Correctly rounded FP32 lane power of two. -/
  | vexp2 (d a : Reg) (m : Mask)
  /-- `VMIN_F32` (R144): FP32 lane minimum under R39. -/
  | vminF32 (d a b : Reg) (m : Mask)
  /-- `VMAX_F32` (R144): FP32 lane maximum under R39. -/
  | vmaxF32 (d a b : Reg) (m : Mask)
  /-- `VABS_F32` (R144): Clears bit 31 of each lane. -/
  | vabsF32 (d a : Reg) (m : Mask)
  /-- `VNEG` (R144): Inverts bit 31 of each lane. -/
  | vneg (d a : Reg) (m : Mask)
  /-- `VFMA` (R144): FP32 lane fused multiply-add. -/
  | vfma (d a b c : Reg) (m : Mask)
  /-- `VFMS` (R144): FP32 lane fused multiply-subtract. -/
  | vfms (d a b c : Reg) (m : Mask)
  /-- `VFNMA` (R144): FP32 lane negated fused multiply-add. -/
  | vfnma (d a b c : Reg) (m : Mask)
  /-- `VADD_F32_LIT` (R144): FP32 lane add with a literal operand b (format AVL). -/
  | vaddF32Lit (d a : Reg) (lit : BitVec 32) (m : Mask)
  /-- `VSUB_F32_LIT` (R144): FP32 lane subtract with a literal operand b (format AVL). -/
  | vsubF32Lit (d a : Reg) (lit : BitVec 32) (m : Mask)
  /-- `VMUL_F32_LIT` (R144): FP32 lane multiply with a literal operand b (format AVL). -/
  | vmulF32Lit (d a : Reg) (lit : BitVec 32) (m : Mask)
  /-- `VDIV_LIT` (R144): FP32 lane divide with a literal operand b (format AVL). -/
  | vdivLit (d a : Reg) (lit : BitVec 32) (m : Mask)
  /-- `VMIN_F32_LIT` (R144): FP32 lane minimum with a literal (format AVL). -/
  | vminF32Lit (d a : Reg) (lit : BitVec 32) (m : Mask)
  /-- `VMAX_F32_LIT` (R144): FP32 lane maximum with a literal (format AVL). -/
  | vmaxF32Lit (d a : Reg) (lit : BitVec 32) (m : Mask)
  /-- `VADD_INT` (R145): 32-bit integer lane add. -/
  | vaddInt (nat : Bool) (d a b : Reg) (m : Mask)
  /-- `VSUB_INT` (R145): 32-bit integer lane subtract. -/
  | vsubInt (nat : Bool) (d a b : Reg) (m : Mask)
  /-- `VMUL_INT` (R145): Low 32 bits of the lane product. -/
  | vmulInt (nat : Bool) (d a b : Reg) (m : Mask)
  /-- `VMULH` (R145): High 32 bits of the lane product under ty. -/
  | vmulh (nat : Bool) (d a b : Reg) (m : Mask)
  /-- `VAND` (R145): Lane bitwise and. -/
  | vand (nat : Bool) (d a b : Reg) (m : Mask)
  /-- `VOR` (R145): Lane bitwise or. -/
  | vor (nat : Bool) (d a b : Reg) (m : Mask)
  /-- `VXOR` (R145): Lane bitwise exclusive or. -/
  | vxor (nat : Bool) (d a b : Reg) (m : Mask)
  /-- `VANDN` (R145): Lane and with not b. -/
  | vandn (nat : Bool) (d a b : Reg) (m : Mask)
  /-- `VSLL` (R145): Lane shift left by b mod 32. -/
  | vsll (nat : Bool) (d a b : Reg) (m : Mask)
  /-- `VSRL` (R145): Lane logical shift right by b mod 32. -/
  | vsrl (nat : Bool) (d a b : Reg) (m : Mask)
  /-- `VSRA` (R145): Lane arithmetic shift right by b mod 32. -/
  | vsra (nat : Bool) (d a b : Reg) (m : Mask)
  /-- `VMIN_INT` (R145): Lane integer minimum under ty. -/
  | vminInt (nat : Bool) (d a b : Reg) (m : Mask)
  /-- `VMAX_INT` (R145): Lane integer maximum under ty. -/
  | vmaxInt (nat : Bool) (d a b : Reg) (m : Mask)
  /-- `VABS_I32` (R145): Lane integer absolute value. -/
  | vabsI32 (d a : Reg) (m : Mask)
  /-- `VADDS` (R145): Lane add saturated to the range of ty. -/
  | vadds (nat : Bool) (d a b : Reg) (m : Mask)
  /-- `VSUBS` (R145): Lane subtract saturated to the range of ty. -/
  | vsubs (nat : Bool) (d a b : Reg) (m : Mask)
  /-- `VADD_INT_LIT` (R145): Integer lane add with a literal (format AVL). -/
  | vaddIntLit (nat : Bool) (d a : Reg) (lit : BitVec 32) (m : Mask)
  /-- `VSUB_INT_LIT` (R145): Integer lane subtract with a literal (format AVL). -/
  | vsubIntLit (nat : Bool) (d a : Reg) (lit : BitVec 32) (m : Mask)
  /-- `VMUL_INT_LIT` (R145): Integer lane multiply with a literal (format AVL). -/
  | vmulIntLit (nat : Bool) (d a : Reg) (lit : BitVec 32) (m : Mask)
  /-- `VMULH_LIT` (R145): High lane product with a literal (format AVL). -/
  | vmulhLit (nat : Bool) (d a : Reg) (lit : BitVec 32) (m : Mask)
  /-- `VAND_LIT` (R145): Lane and with a literal (format AVL). -/
  | vandLit (nat : Bool) (d a : Reg) (lit : BitVec 32) (m : Mask)
  /-- `VOR_LIT` (R145): Lane or with a literal (format AVL). -/
  | vorLit (nat : Bool) (d a : Reg) (lit : BitVec 32) (m : Mask)
  /-- `VXOR_LIT` (R145): Lane exclusive or with a literal (format AVL). -/
  | vxorLit (nat : Bool) (d a : Reg) (lit : BitVec 32) (m : Mask)
  /-- `VANDN_LIT` (R145): Lane and-not with a literal (format AVL). -/
  | vandnLit (nat : Bool) (d a : Reg) (lit : BitVec 32) (m : Mask)
  /-- `VSLL_LIT` (R145): Lane shift left by a literal (format AVL). -/
  | vsllLit (nat : Bool) (d a : Reg) (lit : BitVec 32) (m : Mask)
  /-- `VSRL_LIT` (R145): Lane logical shift right by a literal (format AVL). -/
  | vsrlLit (nat : Bool) (d a : Reg) (lit : BitVec 32) (m : Mask)
  /-- `VSRA_LIT` (R145): Lane arithmetic shift right by a literal (format AVL). -/
  | vsraLit (nat : Bool) (d a : Reg) (lit : BitVec 32) (m : Mask)
  /-- `VMIN_INT_LIT` (R145): Lane integer minimum with a literal (format AVL). -/
  | vminIntLit (nat : Bool) (d a : Reg) (lit : BitVec 32) (m : Mask)
  /-- `VMAX_INT_LIT` (R145): Lane integer maximum with a literal (format AVL). -/
  | vmaxIntLit (nat : Bool) (d a : Reg) (lit : BitVec 32) (m : Mask)
  /-- `VADDS_LIT` (R145): Saturating lane add with a literal (format AVL). -/
  | vaddsLit (nat : Bool) (d a : Reg) (lit : BitVec 32) (m : Mask)
  /-- `VSUBS_LIT` (R145): Saturating lane subtract with a literal (format AVL). -/
  | vsubsLit (nat : Bool) (d a : Reg) (lit : BitVec 32) (m : Mask)
  /-- `VCMP_F32` (R146): Writes a lane mask of FP32 relation cc. -/
  | vcmpF32 (cc : FpCc) (d a b : Reg) (m : Mask)
  /-- `VCMP_I32` (R146): Writes a lane mask of integer relation cc. -/
  | vcmpI32 (cc : IntCc) (d a b : Reg) (m : Mask)
  /-- `VSEL` (R146): Selects each lane from va or vb by a mask. -/
  | vsel (d a b : Reg) (m : Mask)
  /-- `VMCNT` (R146): Counts active lanes whose bit 0 is set into an x register. -/
  | vmcnt (d a : Reg) (m : Mask)
  /-- `VFIRST` (R146): Writes the lowest active lane whose bit 0 is set, or 16. -/
  | vfirst (d a : Reg) (m : Mask)
  /-- `VMAND` (R146): Mask and of bit 0 of two sources. -/
  | vmand (d a b : Reg) (m : Mask)
  /-- `VMOR` (R146): Mask or of bit 0 of two sources. -/
  | vmor (d a b : Reg) (m : Mask)
  /-- `VMXOR` (R146): Mask exclusive or of bit 0 of two sources. -/
  | vmxor (d a b : Reg) (m : Mask)
  /-- `VMNOT` (R146): Mask not of bit 0 of the source. -/
  | vmnot (d a : Reg) (m : Mask)
  /-- `VPERM` (R147): Permutes lanes of va by indices in vb. -/
  | vperm (d a b : Reg) (m : Mask)
  /-- `VBCAST` (R147): Broadcasts bits 31:0 of an x register to the active lanes. -/
  | vbcast (d a : Reg) (m : Mask)
  /-- `VBCAST_LIT` (R147): Broadcasts a literal to the active lanes (format AVL). -/
  | vbcastLit (ty : LaneTy) (d : Reg) (lit : BitVec 32) (m : Mask)
  /-- `VEXT` (R147): Moves one lane into an x register. -/
  | vext (sgn : Bool) (d a : Reg) (lane : BitVec 4)
  /-- `VINS` (R147): Inserts bits 31:0 of an x register into one lane. -/
  | vins (d a : Reg) (lane : BitVec 4)
  /-- `VSLIDE` (R147): Slides lanes down by k across va and vb. -/
  | vslide (d a b : Reg) (k : BitVec 4) (m : Mask)
  /-- `VCOMPRESS` (R148): Packs the active lanes of va into the low lanes of vd. -/
  | vcompress (d a : Reg) (m : Mask)
  /-- `VEXPAND` (R148): Spreads the low lanes of va into the active lanes of vd. -/
  | vexpand (d a : Reg) (m : Mask)
  /-- `VMOV` (R147): Copies lanes bit for bit. -/
  | vmov (d a : Reg) (m : Mask)
  /-- `VRED_ADD` (R149): Tree sum of the lanes into an x register. -/
  | vredAdd (ty : LaneTy) (d a : Reg) (m : Mask)
  /-- `VRED_MIN` (R149): Tree minimum of the lanes into an x register. -/
  | vredMin (ty : LaneTy) (d a : Reg) (m : Mask)
  /-- `VRED_MAX` (R149): Tree maximum of the lanes into an x register. -/
  | vredMax (ty : LaneTy) (d a : Reg) (m : Mask)
  /-- `VRED_AND` (R149): Tree bitwise and of the lanes. -/
  | vredAnd (d a : Reg) (m : Mask)
  /-- `VRED_OR` (R149): Tree bitwise or of the lanes. -/
  | vredOr (d a : Reg) (m : Mask)
  /-- `VRED_XOR` (R149): Tree bitwise exclusive or of the lanes. -/
  | vredXor (d a : Reg) (m : Mask)
  /-- `VSCAN_ADD` (R149): Serial running sum across the lanes. -/
  | vscanAdd (ty : LaneTy) (d a : Reg) (m : Mask)
  /-- `VSCAN_MIN` (R149): Serial running minimum across the lanes. -/
  | vscanMin (ty : LaneTy) (d a : Reg) (m : Mask)
  /-- `VSCAN_MAX` (R149): Serial running maximum across the lanes. -/
  | vscanMax (ty : LaneTy) (d a : Reg) (m : Mask)
  /-- `VCVT` (R151): Converts each active lane from the source type to ty. -/
  | vcvt (dst src : Fmt) (d a : Reg) (m : Mask)
  /-- `VPACK` (R152): Converts 32 lanes into half of a dense narrow-element register. -/
  | vpack (dst : Fmt) (src : LaneTy) (d a b : Reg) (q : Bool)
  /-- `VUNPACK` (R152): Converts 16 narrow elements into 32-bit lanes. -/
  | vunpack (dst : LaneTy) (src : Fmt) (d a : Reg) (p : BitVec 2)
  /-- `VQNT` (R153): Quantises 32 FP32 values into one E8-scaled block. -/
  | vqnt (dst : Fmt) (d a b : Reg) (c : Option Reg)
  /-- `VMAXX` (R154): Sends its contribution and waits for the lane maxima of magnitude across row neighbours. -/
  | vmaxx (d a : Reg) (w : BitVec 3)
  /-- `VLD` (R156): Loads 16 consecutive words into the active lanes. -/
  | vld (d xo : Reg) (seg : Slot) (imm : BitVec 16) (m : Mask)
  /-- `VST` (R156): Stores the active lanes to 16 consecutive words. -/
  | vst (d xo : Reg) (seg : Slot) (imm : BitVec 16) (m : Mask)
  /-- `VLDS` (R156): Strided lane load. -/
  | vlds (d xo c : Reg) (seg : Slot) (imm : BitVec 16) (m : Mask)
  /-- `VSTS` (R156): Strided lane store. -/
  | vsts (d xo c : Reg) (seg : Slot) (imm : BitVec 16) (m : Mask)
  /-- `VLDX` (R156): Indexed lane load. -/
  | vldx (d xo c : Reg) (seg : Slot) (imm : BitVec 16) (m : Mask)
  /-- `VSTX` (R156): Indexed lane store. -/
  | vstx (d xo c : Reg) (seg : Slot) (imm : BitVec 16) (m : Mask)
  /-- `VCLAIM` (R159): Claims n lendable vector registers from the grove pool, blocking until granted. -/
  | vclaim (nm1 : BitVec 4)
  /-- `LD_I8` (R181): Loads a sign-extended byte (format M). -/
  | ldI8 (d xo : Reg) (seg : Slot) (disp : BitVec 5)
  /-- `LD_N8` (R181): Loads a zero-extended byte (format M). -/
  | ldN8 (d xo : Reg) (seg : Slot) (disp : BitVec 5)
  /-- `LD_I16` (R181): Loads a sign-extended halfword (format M). -/
  | ldI16 (d xo : Reg) (seg : Slot) (disp : BitVec 5)
  /-- `LD_N16` (R181): Loads a zero-extended halfword (format M). -/
  | ldN16 (d xo : Reg) (seg : Slot) (disp : BitVec 5)
  /-- `LD_I32` (R181): Loads a sign-extended word (format M). -/
  | ldI32 (d xo : Reg) (seg : Slot) (disp : BitVec 5)
  /-- `LD_N32` (R181): Loads a zero-extended word (format M). -/
  | ldN32 (d xo : Reg) (seg : Slot) (disp : BitVec 5)
  /-- `LD_I64` (R181): Loads a doubleword (format M). -/
  | ldI64 (d xo : Reg) (seg : Slot) (disp : BitVec 5)
  /-- `LEA` (R120): Computes a segment address without access (format M). -/
  | lea (d xo : Reg) (seg : Slot) (disp : BitVec 5)
  /-- `LD_I8_MK` (R181): Byte load with disp20 and optional .nc or .acq (format MK). -/
  | ldI8Mk (d xo : Reg) (seg : Slot) (disp : BitVec 20) (nc : Bool) (acq : Option Scope)
  /-- `LD_N8_MK` (R181): Natural byte load in format MK. -/
  | ldN8Mk (d xo : Reg) (seg : Slot) (disp : BitVec 20) (nc : Bool) (acq : Option Scope)
  /-- `LD_I16_MK` (R181): Halfword load in format MK. -/
  | ldI16Mk (d xo : Reg) (seg : Slot) (disp : BitVec 20) (nc : Bool) (acq : Option Scope)
  /-- `LD_N16_MK` (R181): Natural halfword load in format MK. -/
  | ldN16Mk (d xo : Reg) (seg : Slot) (disp : BitVec 20) (nc : Bool) (acq : Option Scope)
  /-- `LD_I32_MK` (R181): Word load in format MK. -/
  | ldI32Mk (d xo : Reg) (seg : Slot) (disp : BitVec 20) (nc : Bool) (acq : Option Scope)
  /-- `LD_N32_MK` (R181): Natural word load in format MK. -/
  | ldN32Mk (d xo : Reg) (seg : Slot) (disp : BitVec 20) (nc : Bool) (acq : Option Scope)
  /-- `LD_I64_MK` (R182): Doubleword load in format MK, an acquire access with .acq. -/
  | ldI64Mk (d xo : Reg) (seg : Slot) (disp : BitVec 20) (nc : Bool) (acq : Option Scope)
  /-- `LEA_MK` (R120): Address computation with disp20. -/
  | leaMk (d xo : Reg) (seg : Slot) (disp : BitVec 20)
  /-- `LD_I8_MKL` (R181): Byte load with a 32-bit displacement (format MKL). -/
  | ldI8Mkl (d xo : Reg) (seg : Slot) (lit : BitVec 32) (nc : Bool) (acq : Option Scope)
  /-- `LD_N8_MKL` (R181): Natural byte load in format MKL. -/
  | ldN8Mkl (d xo : Reg) (seg : Slot) (lit : BitVec 32) (nc : Bool) (acq : Option Scope)
  /-- `LD_I16_MKL` (R181): Halfword load in format MKL. -/
  | ldI16Mkl (d xo : Reg) (seg : Slot) (lit : BitVec 32) (nc : Bool) (acq : Option Scope)
  /-- `LD_N16_MKL` (R181): Natural halfword load in format MKL. -/
  | ldN16Mkl (d xo : Reg) (seg : Slot) (lit : BitVec 32) (nc : Bool) (acq : Option Scope)
  /-- `LD_I32_MKL` (R181): Word load in format MKL. -/
  | ldI32Mkl (d xo : Reg) (seg : Slot) (lit : BitVec 32) (nc : Bool) (acq : Option Scope)
  /-- `LD_N32_MKL` (R181): Natural word load in format MKL. -/
  | ldN32Mkl (d xo : Reg) (seg : Slot) (lit : BitVec 32) (nc : Bool) (acq : Option Scope)
  /-- `LD_I64_MKL` (R181): Doubleword load in format MKL. -/
  | ldI64Mkl (d xo : Reg) (seg : Slot) (lit : BitVec 32) (nc : Bool) (acq : Option Scope)
  /-- `LEA_MKL` (R120): Address computation with a 32-bit displacement. -/
  | leaMkl (d xo : Reg) (seg : Slot) (lit : BitVec 32)
  /-- `ST_I8` (R181): Stores a byte (format M). -/
  | stI8 (d xo : Reg) (seg : Slot) (disp : BitVec 5)
  /-- `ST_I16` (R181): Stores a halfword (format M). -/
  | stI16 (d xo : Reg) (seg : Slot) (disp : BitVec 5)
  /-- `ST_I32` (R181): Stores a word (format M). -/
  | stI32 (d xo : Reg) (seg : Slot) (disp : BitVec 5)
  /-- `ST_I64` (R181): Stores a doubleword (format M). -/
  | stI64 (d xo : Reg) (seg : Slot) (disp : BitVec 5)
  /-- `ST_I8_MK` (R183): Byte store in format MK, a release access with .rel. -/
  | stI8Mk (d xo : Reg) (seg : Slot) (disp : BitVec 20) (rel : Option Scope)
  /-- `ST_I16_MK` (R183): Halfword store in format MK. -/
  | stI16Mk (d xo : Reg) (seg : Slot) (disp : BitVec 20) (rel : Option Scope)
  /-- `ST_I32_MK` (R183): Word store in format MK. -/
  | stI32Mk (d xo : Reg) (seg : Slot) (disp : BitVec 20) (rel : Option Scope)
  /-- `ST_I64_MK` (R183): Doubleword store in format MK, a release access with .rel. -/
  | stI64Mk (d xo : Reg) (seg : Slot) (disp : BitVec 20) (rel : Option Scope)
  /-- `ST_I8_MKL` (R181): Byte store in format MKL. -/
  | stI8Mkl (d xo : Reg) (seg : Slot) (lit : BitVec 32) (rel : Option Scope)
  /-- `ST_I16_MKL` (R181): Halfword store in format MKL. -/
  | stI16Mkl (d xo : Reg) (seg : Slot) (lit : BitVec 32) (rel : Option Scope)
  /-- `ST_I32_MKL` (R181): Word store in format MKL. -/
  | stI32Mkl (d xo : Reg) (seg : Slot) (lit : BitVec 32) (rel : Option Scope)
  /-- `ST_I64_MKL` (R181): Doubleword store in format MKL. -/
  | stI64Mkl (d xo : Reg) (seg : Slot) (lit : BitVec 32) (rel : Option Scope)
  /-- `AMO_ADD` (R185): Atomic wrapping add returning the old value. -/
  | amoAdd (wide : Bool) (d xo b : Reg) (seg : Slot) (disp : BitVec 20) (acq rel : Bool) (sc : Scope)
  /-- `AMO_AND` (R185): Atomic and. -/
  | amoAnd (wide : Bool) (d xo b : Reg) (seg : Slot) (disp : BitVec 20) (acq rel : Bool) (sc : Scope)
  /-- `AMO_OR` (R185): Atomic or. -/
  | amoOr (wide : Bool) (d xo b : Reg) (seg : Slot) (disp : BitVec 20) (acq rel : Bool) (sc : Scope)
  /-- `AMO_XOR` (R185): Atomic exclusive or. -/
  | amoXor (wide : Bool) (d xo b : Reg) (seg : Slot) (disp : BitVec 20) (acq rel : Bool) (sc : Scope)
  /-- `AMO_MIN` (R185): Atomic signed minimum. -/
  | amoMin (wide : Bool) (d xo b : Reg) (seg : Slot) (disp : BitVec 20) (acq rel : Bool) (sc : Scope)
  /-- `AMO_MAX` (R185): Atomic signed maximum. -/
  | amoMax (wide : Bool) (d xo b : Reg) (seg : Slot) (disp : BitVec 20) (acq rel : Bool) (sc : Scope)
  /-- `AMO_MINN` (R185): Atomic natural minimum. -/
  | amoMinn (wide : Bool) (d xo b : Reg) (seg : Slot) (disp : BitVec 20) (acq rel : Bool) (sc : Scope)
  /-- `AMO_MAXN` (R185): Atomic natural maximum. -/
  | amoMaxn (wide : Bool) (d xo b : Reg) (seg : Slot) (disp : BitVec 20) (acq rel : Bool) (sc : Scope)
  /-- `AMO_SWAP` (R185): Atomic swap. -/
  | amoSwap (wide : Bool) (d xo b : Reg) (seg : Slot) (disp : BitVec 20) (acq rel : Bool) (sc : Scope)
  /-- `AMO_CAS` (R185): Atomic compare-and-swap against the old X(d). -/
  | amoCas (wide : Bool) (d xo b : Reg) (seg : Slot) (disp : BitVec 20) (acq rel : Bool) (sc : Scope)
  /-- `AMO_FADD` (R185): Atomic FP32 add rounded with RNE. -/
  | amoFadd (d xo b : Reg) (seg : Slot) (disp : BitVec 20) (acq rel : Bool) (sc : Scope)
  /-- `AMO_FMIN` (R185): Atomic FP32 minimum. -/
  | amoFmin (d xo b : Reg) (seg : Slot) (disp : BitVec 20) (acq rel : Bool) (sc : Scope)
  /-- `AMO_FMAX` (R185): Atomic FP32 maximum. -/
  | amoFmax (d xo b : Reg) (seg : Slot) (disp : BitVec 20) (acq rel : Bool) (sc : Scope)
  /-- `FENCE` (R188): Full fence at scope sc. -/
  | fence (sc : Scope)
  /-- `FENCE_ACQ` (R188): Acquire fence, draining the pending-drain set and invalidating at die scope or wider. -/
  | fenceAcq (sc : Scope)
  /-- `FENCE_REL` (R188): Release fence, draining the core's dirty lines at die scope or wider. -/
  | fenceRel (sc : Scope)
  /-- `WAITA` (R190): Arms a watch and blocks until the word satisfies cc against X(b); a kill point. -/
  | waita (cc : IntCc) (d xo b : Reg) (seg : Slot) (disp : BitVec 20) (acq : Option Scope)
  /-- `CINV` (R177): Discards every copy of a sector range without write-back and counts dirty copies. -/
  | cinv (d xo b : Reg) (seg : Slot) (disp : BitVec 20)
  /-- `CWB` (R192): Writes back dirty sectors of a range from the grove L1 and waits for acknowledgement. -/
  | cwb (xo b : Reg) (seg : Slot) (disp : BitVec 20)
  /-- `CFLUSH` (R192): Writes back and drops every line the range touches from the grove L1. -/
  | cflush (xo b : Reg) (seg : Slot) (disp : BitVec 20)
  /-- `CPREF` (R192): Requests the sectors of a range into the grove L1. -/
  | cpref (xo b : Reg) (seg : Slot) (disp : BitVec 20)
  /-- `DCOPY` (R197): Dispatches a byte copy command to the indirect copy engine. -/
  | dcopy (k : Cmd) (rc : Bool)
  /-- `DFILL` (R198): Dispatches a multicast fill into every member grove of a group. -/
  | dfill (k : Cmd) (rn : Bool)
  /-- `DFREE` (R199): Sends a buffer-free message toward a tile's sender. -/
  | dfree (a b : Reg)
  /-- `GATHER` (R226): Dispatches an indexed gather into packed cluster memory. -/
  | gather (k : Cmd) (es : BitVec 3) (it : BitVec 2)
  /-- `SCATTER` (R228): Dispatches an indexed scatter in store or add mode. -/
  | scatter (k : Cmd) (es : BitVec 3) (it mode : BitVec 2)
  /-- `SPWALK` (R233): Dispatches a walk of a compressed row-pointer array. -/
  | spwalk (k : Cmd) (wide pos : Bool)
  /-- `MERGE` (R236): Dispatches a merge of sorted fibres. -/
  | merge (k : Cmd) (zd : Bool)
  /-- `MLDB` (R204): Dispatches a load of a tile into a compute-in-memory bank. -/
  | mldb (k : Cmd) (ty : Fmt) (sx : Bool) (bank : BitVec 2)
  /-- `MMAC` (R206): Dispatches a matrix multiply-accumulate into C. -/
  | mmac (k : Cmd) (bank : BitVec 2) (pr zc pin : Bool)
  /-- `MMAC_COOP` (R209): Dispatches a cooperative matrix command across four groves. -/
  | mmacCoop (k : Cmd) (bank : BitVec 2) (pr zc : Bool)
  /-- `RNEW` (R252): Creates a record, reserving a directory entry and a slot. -/
  | rnew (d a c : Reg) (sa : Slot) (sp : BitVec 4)
  /-- `RDEL` (R253): Stages the deletion of a record. -/
  | rdel (b c : Reg)
  /-- `RLD` (R254): Copies a whole record into cluster memory. -/
  | rld (a b c : Reg) (sa : Slot) (acq : Option Scope)
  /-- `RST` (R255): Stages coordinate bytes or writes payload bytes of a record. -/
  | rst (d a b c : Reg) (sa : Slot) (rel : Option Scope)
  /-- `RLOC` (R256): Writes the owner and slot of a record. -/
  | rloc (d b c : Reg)
  /-- `QBOX` (R257): Counts and lists records in a box of the snapshot. -/
  | qbox (d a b c : Reg) (sa : Slot) (sp : BitVec 4)
  /-- `QRAD` (R257): Counts and lists records within a radius of the snapshot. -/
  | qrad (d a b c : Reg) (sa : Slot) (sp : BitVec 4)
  /-- `GLD` (R271): Reads a run of grid cells at tag t, blocking on stale halo cells. -/
  | gld (d a b c : Reg) (sa : Slot) (g : BitVec 4)
  /-- `GST` (R272): Writes a run of grid cells at tag t. -/
  | gst (d a b c : Reg) (sa : Slot) (g : BitVec 4)
  /-- `GSTEP` (R273): Commits the owner's block for step t and refreshes halos at refresh steps. -/
  | gstep (c : Reg) (g : BitVec 4)
  /-- `PUT` (R343): Sends a remote write with optional counter increment. -/
  | put (k : FabCmd)
  /-- `GET` (R343): Sends a remote read request whose reply lands locally. -/
  | get (k : FabCmd)
  /-- `MSG` (R347): Sends a 32-byte message to a core's receive queue. -/
  | msg (d a b c : Reg)
  /-- `RECV` (R349): Takes one message, diverted buffer first, blocking unless .nb. -/
  | recv (d a : Reg) (sa : Slot) (nb : Bool)
  /-- `PUB` (R346): Publishes a range with a version to up to 64 subscribers. -/
  | pub (d a b c : Reg) (sb : Slot) (cw : Cw) (ds : Bool)
  /-- `RBLK` (R350): Takes the next reduction-block index from the gateway queue. -/
  | rblk (d : Reg)
  /-- `RBLK_SET` (R350): Sets NEXT and END of the reduction-block queue and increments EPOCH. -/
  | rblkSet (a b : Reg)
  /-- `BADDQ` (R351): Adds two block-scaled blocks and requantises the sum. -/
  | baddq (ty : Fmt) (a b c : Reg) (sa sb : Slot)
  /-- `SSET` (R358): Writes a segment descriptor into a slot of the context. -/
  | sset (a : Reg) (sa sb : Slot)
  /-- `SSET_T` (R358): Writes a segment descriptor into the die's slot template. -/
  | ssetT (a : Reg) (sa sb : Slot)
  /-- `TLBINV` (R364): Invalidates translations of a range module-wide and waits for drains, optionally writing back L1 lines. -/
  | tlbinv (wb : Bool) (d a b c : Reg)
  /-- `GTW` (R367): Writes a group entry and rebuilds the sync and multicast trees. -/
  | gtw (a : Reg) (sa : Slot) (g : BitVec 8)
  /-- `PBIND` (R369): Binds a record space or grid from a header in cluster memory. -/
  | pbind (gd : Bool) (a : Reg) (sa : Slot) (n : BitVec 4)
  /-- `PBIND_U` (R369): Unbinds a record space or grid and releases its memory. -/
  | pbindU (gd : Bool) (n : BitVec 4)
  /-- `CRANGE` (R371): Combines the old entry's update-only lines and writes or clears a commutative range entry. -/
  | crange (clr : Bool) (a b : Reg) (k : BitVec 6)
  /-- `SPAWN` (R307): Posts a task descriptor to a die's pool and reports its status. -/
  | spawn (d a : Reg) (sa : Slot) (rel : Option Scope)
  /-- `IUPD` (R387): Offers a key and payload to an incumbent at its home. -/
  | iupd (d a b : Reg) (k : BitVec 3)
  /-- `IRD` (R388): Reads an incumbent's key and optionally its payload. -/
  | ird (d a : Reg) (k : BitVec 3)
  /-- `BAR` (R380): Arrives at a group barrier and blocks until the episode completes. -/
  | bar (a : Reg)
  /-- `SSTEP` (R380): Arrives at a superstep and returns the new step value. -/
  | sstep (d a : Reg)
  /-- `DSET` (R377): Sets a dependency slot and returns its old value. -/
  | dset (d a b : Reg)
  /-- `DDEC` (R377): Decrements a dependency slot and returns its old value. -/
  | ddec (d a b : Reg)
  /-- `CONTEXT_SWITCH` (R104): The active context blocks and the core switches to the next ready resident context. -/
  | contextSwitch (core : Nat)
  /-- `ACCESS_WAIT_BLOCK` (R104): A data access or image-line miss that has waited 64 cycles blocks its context. -/
  | accessWaitBlock (core : Nat)
  /-- `FAIRNESS_SWITCH` (R106): The issue count reaches 4,096 with another context ready and the core switches. -/
  | fairnessSwitch (core : Nat)
  /-- `CONTEXT_READY` (R104): A blocked context's condition holds or its data arrives and it becomes ready. -/
  | contextReady (cid : Nat)
  /-- `IMAGE_LINE_FILL` (R103): An image line arrives from its home slice into the register cache. -/
  | imageLineFill (core cid line : Nat)
  /-- `RING_ENTRY_COMPLETE` (R141): A coprocessor-ring entry completes, writing its results and flags. -/
  | ringEntryComplete (cid seq : Nat)
  /-- `LATE_FAULT` (R402): A ring entry faults after dispatch; younger entries are cancelled and saved. -/
  | lateFault (cid seq : Nat)
  /-- `PENDING_TRAP_TAKEN` (R400): A pending late or put-status-unknown trap is taken at an instruction boundary. -/
  | pendingTrapTaken (core : Nat)
  /-- `PREEMPTION` (R107): A victim context is stopped, its ring drained, its charge dropped and its task returned to the pool. -/
  | preemption (cid : Nat)
  /-- `VMAXX_CONTRIBUTION` (R155): A vmaxx contribution arrives; the entry completes when all have arrived. -/
  | vmaxxContribution (src dst k : Nat)
  /-- `EXCHANGE_TIMEOUT` (R155): A vmaxx misses contributions for 65,536 cycles and faults late. -/
  | exchangeTimeout (cid seq : Nat)
  /-- `TASK_DISPATCH` (R315): The pool gives the first admitted eligible descriptor to a free resident slot. -/
  | taskDispatch (die : Nat)
  /-- `AGING_PROMOTION` (R316): An eligible descriptor aged 2^AGE cycles moves to the next higher class. -/
  | agingPromotion (die desc : Nat)
  /-- `SHADOW_UPDATE` (R389): An incumbent improvement reaches a pool or core shadow. -/
  | shadowUpdate (at_ : ShadowAt) (k : BitVec 3)
  /-- `INCCTL_WRITE` (R386): A write of incctl starts an incumbent reinitialisation or is ignored. -/
  | incctlWrite (k : BitVec 3) (value : Word)
  /-- `INCUMBENT_REINIT_DONE` (R386): Every shadow has acknowledged and BUSY clears. -/
  | incumbentReinitDone (k : BitVec 3)
  /-- `MAILBOX_POST` (R414): A write of mbpost's last bytes posts a message or is refused full. -/
  | mailboxPost (m : Nat) (msg : BitVec 256)
  /-- `MAILBOX_SPAWN` (R325): A bound mailbox's next message becomes a descriptor when the pool has an entry. -/
  | mailboxSpawn (m : Nat)
  /-- `HOST_QUEUE_POST` (R407): A write of hqdata's last bytes appends a diverted message to a context. -/
  | hostQueuePost (die tag : Nat) (msg : BitVec 256)
  /-- `SYNC_EPISODE` (R381): Every member of a group has arrived; bar completes or mixed kinds fault. -/
  | syncEpisode (g : Nat)
  /-- `SUPERSTEP_BOUNDARY` (R246): Puts have landed and the boundary of each record space of the group runs. -/
  | superstepBoundary (g : Nat)
  /-- `STEP_COUNTER_INCREMENT` (R381): The boundary's moves have landed; the step counter increments and members go to DONE. -/
  | stepCounterIncrement (g : Nat)
  /-- `L1_FILL` (R165): Missing sectors arrive in the grove L1 and merge under the dirty mask. -/
  | l1Fill (grove line : Nat) (sectors : BitVec 4) (victim : Option Nat)
  /-- `HOME_REQUEST` (R166): A home slice performs a request, write-back or drain for a line it homes. -/
  | homeRequest (r : HomeReq)
  /-- `PROXY_INVALIDATE_DONE` (R167): Every proxy copy is invalidated and the home completes the write. -/
  | proxyInvalidateDone (line : Nat)
  /-- `UPDATE_ONLY_EVICTION` (R173): An update-only line leaves an L1 and its partial is combined at the home. -/
  | updateOnlyEviction (grove line : Nat)
  /-- `DRAIN_REQUEST` (R169): A grove L1 writes back lines dirty for the named cores. -/
  | drainRequest (grove : Nat) (cores : BitVec 8)
  /-- `ACQUIRE_COMPLETE` (R169): The drains of an acquire complete and the grove L1 invalidates its clean bytes. -/
  | acquireComplete (core line : Nat) (sc : Scope)
  /-- `RWAYS_RECONFIGURATION` (R168): The die's slices finish reconfiguring their reserved ways. -/
  | rwaysReconfiguration (die : Nat)
  /-- `TRANSLATION_WALK` (R361): A page walk completes and caches the leaf or raises a translation fault. -/
  | translationWalk (agent : TlbAt) (asid va : Nat) (acc : Access)
  /-- `TLBINV_AGENT_REPLY` (R364): An agent replies after every request translated under a removed leaf is performed. -/
  | tlbinvAgentReply (grove cmd : Nat)
  /-- `ENGINE_ACCEPT` (R194): The indirect copy engine has room and checks and accepts a command. -/
  | engineAccept (cid seq : Nat)
  /-- `CHUNK_ISSUE` (R195): A chunk's pages translate and the chunk is issued, or the command stops. -/
  | chunkIssue (grove cmd : Nat)
  /-- `CHUNK_ACK` (R195): A chunk's writes are acknowledged. -/
  | chunkAck (grove cmd chunk : Nat)
  /-- `ENGINE_COMPLETION` (R196): Payload is acknowledged; status, completion word and slot decrement are written. -/
  | engineCompletion (grove cmd : Nat)
  /-- `GATHER_ELEMENT` (R226): An element is translated, checked and sent to its home agent or recorded as faulting. -/
  | gatherElement (grove cmd elem : Nat)
  /-- `AGENT_GROUP_ACCESS` (R221): A gather agent performs one sector-masked access for a group of requests. -/
  | agentGroupAccess (grove cmd : Nat) (access : SectorAccess)
  /-- `PACKED_LINE_RETURN` (R221): A packed 128-byte line arrives in the issuing grove's cluster memory. -/
  | packedLineReturn (grove cmd line : Nat)
  /-- `SPWALK_ROW` (R233): The walk unit reads a row's pointers and columns and writes its entries. -/
  | spwalkRow (grove cmd : Nat)
  /-- `MERGE_RESULT` (R236): The merge unit emits one result entry. -/
  | mergeResult (grove cmd : Nat)
  /-- `DFILL_MEMBER_DELIVERY` (R198): A member grove receives its last payload byte and increments its receiver word. -/
  | dfillMemberDelivery (grove cmd member : Nat)
  /-- `DFREE_ARRIVAL` (R200): A dfree reaches the sender grove and joins or completes its key's set. -/
  | dfreeArrival (idx : Nat)
  /-- `MLDB_ACCEPT` (R205): An mldb enters its core's queue in the matrix unit after checks. -/
  | mldbAccept (cid seq : Nat)
  /-- `BANK_LOAD_COMPLETE` (R205): A bank load ends, setting VALID and GEN or faulting. -/
  | bankLoadComplete (grove core : Nat)
  /-- `MATRIX_ACCEPT` (R208): An mmac is accepted into the unit with an acceptance stamp. -/
  | matrixAccept (cid seq : Nat)
  /-- `MATRIX_STEP` (R208): One 16-row step of a matrix command runs and commits. -/
  | matrixStep (grove : Nat)
  /-- `COOP_SLOT_CLAIM` (R210): A cooperative command claims a member unit's cooperative slot. -/
  | coopSlotClaim (grove core : Nat)
  /-- `MATRIX_MIGRATION` (R213): A command ready for 2,048 cycles moves to an idle neighbour unit. -/
  | matrixMigration (grove core target bank : Nat)
  /-- `MIGRATION_LOAD_COMPLETE` (R214): The target's load of a migrated command's tile ends. -/
  | migrationLoadComplete (target : Nat)
  /-- `BANK_RESTORE` (R216): A lent bank is reloaded from its own source after the migrated command stops. -/
  | bankRestore (grove bank : Nat)
  /-- `HALO_PART_SEND` (R266): A held part is sent once its receiver has committed the step. -/
  | haloPartSend (idx : Nat)
  /-- `HALO_PART_ARRIVAL` (R266): A part lands in the receiver's buffer and the strip's stamp may advance. -/
  | haloPartArrival (idx : Nat)
  /-- `INJECTION_SEND` (R335): An injection-queue entry leaves the core, paced by the rate table. -/
  | injectionSend (core idx : Nat)
  /-- `FABRIC_WRITE_ARRIVAL` (R336): A fabric write arrives and is placed, dropped, or acknowledged again. -/
  | fabricWriteArrival (p : FabSource)
  /-- `FABRIC_ACK_ARRIVAL` (R337): An acknowledgement, refusal or echo reaches the sender. -/
  | fabricAckArrival (a : FabAck)
  /-- `RATE_RECOVERY` (R335): 8 µs without an echo raises an entry's rate by 4. -/
  | rateRecovery (core slot : Nat)
  /-- `RETRANSMIT` (R337): An unacknowledged write is retransmitted after 2 µs. -/
  | retransmit (die dev seq port : Nat)
  /-- `PUT_STATUS_UNKNOWN` (R338): A write unacknowledged at window N + 3 ends as put-status-unknown. -/
  | putStatusUnknown (die dev seq : Nat)
  /-- `SEQUENCE_REPORT_SEND` (R337): Every 1 µs a gateway reports its highest sequence number sent per device. -/
  | sequenceReportSend (die dev : Nat)
  /-- `SEQUENCE_REPORT_ARRIVAL` (R337): A report arrives and schedules closing of lower numbers. -/
  | sequenceReportArrival (port srcdie : Nat) (peer : PeerTag) (hi window : Nat)
  /-- `SEQUENCE_CLOSE` (R337): Window N + 2 begins and lower unplaced numbers close. -/
  | sequenceClose (die srcdie srcdev : Nat)
  /-- `CREDIT_UPDATE_SEND` (R332): Every 512 link cycles a port sends SENT and FREED totals. -/
  | creditUpdateSend (port : Nat)
  /-- `CREDIT_UPDATE_ARRIVAL` (R332): An update arrives and restores lost allowance. It carries SENT and FREED of the control channel, on
  which it travels, and of the other three. -/
  | creditUpdateArrival (port : Nat) (control : BitVec 32 × BitVec 32) (sent freed : Vector (BitVec 32) 3)
  /-- `MSG_ARRIVAL` (R347): A message is delivered, diverted, dropped or refused. -/
  | msgArrival (p : MsgSource)
  /-- `MSG_RETRY` (R347): A refused message is retried after 1 µs. -/
  | msgRetry (core idx : Nat)
  /-- `MSG_SILENCE_TIMEOUT` (R347): A silent message ends put-status-unknown and a close notice is sent. -/
  | msgSilenceTimeout (die dev seq : Nat)
  /-- `CLOSE_NOTICE_ARRIVAL` (R347): A close notice closes an unplaced message number. -/
  | closeNoticeArrival (port srcdie : Nat) (peer : PeerTag) (seq : Nat)
  /-- `GET_REQUEST_SERVE` (R343): A target gateway serves a get request from memory. -/
  | getRequestServe (r : GetSource)
  /-- `PEER_LINK_LOSS` (R329): A peer's links report loss and the peer is marked DOWN. -/
  | peerLinkLoss (dev : Nat)
  /-- `PEER_REJOIN` (R329): A peer rejoins with a new incarnation and sequence state resets. -/
  | peerRejoin (dev : Nat) (inc : BitVec 4)
  /-- `PORT_BRINGUP` (R333): Port ends exchange version and features and the port comes up or fails. -/
  | portBringup (port : Nat) (ver : BitVec 8) (feat : BitVec 32) (win : Nat) (devid : BitVec 14)
  /-- `CLOCK_DRIFT` (R334): Clock drift above 500 ns raises a machine check and stops fabric writes. -/
  | clockDrift (die : Nat)
  /-- `LDCMD_LOAD` (R416): A write of ldcmd with GO loads and starts a resident program. -/
  | ldcmdLoad (value : Word) (plan : LoadPlan)
  /-- `LDCMD_RESTORE` (R424): A write of ldcmd with GO and RES restores a checkpoint. -/
  | ldcmdRestore (value : Word) (ok : Bool)
  /-- `CKCMD_CHECKPOINT` (R421): A write of ckcmd with GO requests a checkpoint at a group boundary. -/
  | ckcmdCheckpoint (value : Word)
  /-- `ATTESTATION` (R420): Setting attcmd bit 0 makes firmware write a signed report. -/
  | attestation (value : Word)
  /-- `MBVER_SELECT` (R413): A write of mbver selects the mailbox protocol version once per reset. -/
  | mbverSelect (value : Word)
  /-- `FABWIN_WRITE` (R340): A write of fabwin sets the window length only while every port is down. -/
  | fabwinWrite (value : Word)
  /-- `LOG_COUNT_CLEAR` (R411): A write of a log's COUNT clears it. -/
  | logCountClear (die : Nat) (log : LogKind)
  /-- `KILLCNT_CLEAR` (R393): A write of killcnt clears it. -/
  | killcntClear (die : Nat)
  /-- `MCPOP` (R409): A write removes the oldest machine-check record. -/
  | mcpop (die : Nat)
  /-- `REGISTER_WRITE` (R3): A management-space write to a register with no row of its own, under its access codes. -/
  | registerWrite (die off : Nat) (value : Word)
  /-- `SERVICE_MACHINE_CHECK` (R408): Service core 0 takes code 32 while the machine-check queue holds a record. -/
  | serviceMachineCheck (die : Nat)
  /-- `SERVICE_INTERRUPT` (R409): Service core 1 takes code 33 for a mailbox, host-queue or DIVFULL cause. -/
  | serviceInterrupt (die : Nat)
  /-- `PORT_RESET` (R425): A port reset clears the port's flow totals. -/
  | portReset (port : Nat)
  /-- `POWER_SAMPLE` (R426): Every 10 µs module power is sampled. -/
  | powerSample (watts : Nat)
  /-- `BOOT_IMAGE_CHECK` (R419): The boot ROM verifies the firmware image signature and security version. -/
  | bootImageCheck (die : Nat) (image : List Byte)
  /-- `STAGED_IMAGE_CHECK` (R419): A die in recovery checks a replacement image written through BAR 2. -/
  | stagedImageCheck (die : Nat) (len : Nat)
  /-- `CXL_MEM_ACCESS` (R412): A host CXL.mem request is performed at the tier line's home slice. -/
  | cxlMemAccess (a : HostAccess)
  /-- `CXL_MEM_DURING_RESET` (R18): The tier island serves a CXL.mem access during a compute-die reset. -/
  | cxlMemDuringReset (a : HostAccess)
  /-- `CXL_CACHE_ACCESS` (R412): A host CXL.cache request is served at a die 0 home slice. -/
  | cxlCacheAccess (a : HostAccess)
  /-- `ILLEGAL_INSTRUCTION` (R88): A word that decodes to no instruction (L = 0b11, an unassigned major or function, a nonzero unused field, a block crossing) is issued and raises its precise fault. -/
  | illegalInstruction (w : IllegalWord)
  /-- `INSTRUCTION_FETCH_FAULT` (R114): The fetch of the block holding a first parcel fails translation or meets uncorrectable data and raises a precise fetch fault. -/
  | instructionFetchFault (code detail : Nat)
  /-- `HALO_STALL_LIMIT` (R268): The grid's stall limit expires for a gld blocked on a stale halo, so it re-executes and raises the halo-stale fault. -/
  | haloStallLimit (cid : Nat)
  /-- `TIER_ISLAND_POWER_LOSS` (R18): A tier island loses its own power rail and its tier contents are lost. -/
  | tierIslandPowerLoss (die : Nat)
  /-- `PORT_LINK_FAILURE` (R337): One scale-up port's link dies, packets and acknowledgements on it are lost, and retransmission takes other paths that are up. -/
  | portLinkFailure (port : Nat)
  /-- `NOP` (R130): Has no effect. -/
  | nop
  /-- `ERET` (R136): Restores status, pfx and pc from esta, epfx and epc and re-dispatches saved ring entries. -/
  | eret
  /-- `EXIT` (R137): Waits for the ring, commits, releases lendable registers, retires the task and frees the slot. -/
  | exit
  /-- `VRELEASE` (R160): Returns the context's lendable registers to the pool. -/
  | vrelease
  /-- `FENCE_W` (R189): Waits until window N + 2 after the latest fabric write. -/
  | fenceW
  /-- `KCHK` (R392): Kills the task when status.KP is 1. -/
  | kchk
  /-- `CHECKPOINT_BEGIN` (R422): The group's boundary has run and cores stop issue and dispatch. -/
  | checkpointBegin
  /-- `CHECKPOINT_QUIESCED` (R422): Accepted commands have ended; firmware writes back caches and the state block. -/
  | checkpointQuiesced
  /-- `CHECKPOINT_STREAM_DONE` (R422): The region and descriptor are written and execution resumes. -/
  | checkpointStreamDone
  /-- `POWER_ON_RESET` (R425): Module power-on resets everything and restarts the boot ROM. -/
  | powerOnReset
  /-- `COMPUTE_DIE_RESET` (R425): The compute dies reset, including on CXL function-level reset, keeping tier and service complexes. -/
  | computeDieReset
  /-- `CLOCK_STEP` (R426): Every 100 µs the arithmetic clock is lowered or raised by 50 MHz. -/
  | clockStep
  /-- `THERMAL_HOLD` (R426): At 105 °C the clock is held at 400 MHz. -/
  | thermalHold
  /-- `THERMAL_TRIP` (R426): At 115 °C a compute-die reset is performed. -/
  | thermalTrip
  /-- `VISIBILITY_WINDOW_BEGIN` (R189): Window N + 2 begins on the synchronised clock and a waiting fence.w completes. -/
  | visibilityWindowBegin
  /-- `CLOCK_DRIFT_RECOVERY` (R334): A drifted device is back within 250 ns of the reference and resumes sending fabric writes. -/
  | clockDriftRecovery
  /-- `THERMAL_HOLD_RELEASE` (R426): The junction temperature falls below 105 °C, the hold ends and pwrcap.HOT clears. -/
  | thermalHoldRelease
  deriving DecidableEq, Repr

/-- The instructions of majors 0x22 to 0x26 that have operands, as the decoder builds them. The compiler numbers constructors up
to 244, and `Instr` has more, so a decoder that the machine runs cannot build these as `Instr`; `LateInstr.instr` (in Decode)
says which `Instr` each one is. This is a limit of the tool and says nothing about the hardware. -/
inductive LateInstr
  | rnew (d a c : Reg) (sa : Slot) (sp : BitVec 4)
  | rdel (b c : Reg)
  | rld (a b c : Reg) (sa : Slot) (acq : Option Scope)
  | rst (d a b c : Reg) (sa : Slot) (rel : Option Scope)
  | rloc (d b c : Reg)
  | qbox (d a b c : Reg) (sa : Slot) (sp : BitVec 4)
  | qrad (d a b c : Reg) (sa : Slot) (sp : BitVec 4)
  | gld (d a b c : Reg) (sa : Slot) (g : BitVec 4)
  | gst (d a b c : Reg) (sa : Slot) (g : BitVec 4)
  | gstep (c : Reg) (g : BitVec 4)
  | put (k : FabCmd)
  | get (k : FabCmd)
  | msg (d a b c : Reg)
  | recv (d a : Reg) (sa : Slot) (nb : Bool)
  | pub (d a b c : Reg) (sb : Slot) (cw : Cw) (ds : Bool)
  | rblk (d : Reg)
  | rblkSet (a b : Reg)
  | baddq (ty : Fmt) (a b c : Reg) (sa sb : Slot)
  | sset (a : Reg) (sa sb : Slot)
  | ssetT (a : Reg) (sa sb : Slot)
  | tlbinv (wb : Bool) (d a b c : Reg)
  | gtw (a : Reg) (sa : Slot) (g : BitVec 8)
  | pbind (gd : Bool) (a : Reg) (sa : Slot) (n : BitVec 4)
  | pbindU (gd : Bool) (n : BitVec 4)
  | crange (clr : Bool) (a b : Reg) (k : BitVec 6)
  | spawn (d a : Reg) (sa : Slot) (rel : Option Scope)
  | iupd (d a b : Reg) (k : BitVec 3)
  | ird (d a : Reg) (k : BitVec 3)
  | bar (a : Reg)
  | sstep (d a : Reg)
  | dset (d a b : Reg)
  | ddec (d a b : Reg)
  deriving DecidableEq, Repr

end Sys2Proof
end

