-- ==== Sys2Proof/WellFormed.lean ====
section
/-! DEFINITION. Which operand combinations the encodings of files 4 to 18 allow. A combination that is refused here is an
illegal-instruction fault under check 4 of R88. The events (rows 278 to 384) carry no encoding and are always well formed. -/

namespace Sys2Proof

/-- Number of an integer condition code (R76). -/
def IntCc.code (cc : IntCc) : Nat :=
  match cc with
  | .eq => 0 | .ne => 1 | .lt => 2 | .ge => 3 | .ltn => 4 | .gen => 5 | .gt => 6 | .le => 7 | .gtn => 8 | .len => 9

/-- A mask without `.z` (R140). -/
def Mask.noZ (m : Mask) : Bool :=
  match m with
  | .all => true
  | .on _ z _ => !z

/-- A mask is written, without `.z` (R146, `vsel`). -/
def Mask.required (m : Mask) : Bool :=
  match m with
  | .all => false
  | .on _ z _ => !z

/-- A 16-bit format (R152). -/
def Fmt.is16 (f : Fmt) : Bool :=
  match f with
  | .bf16 | .f16 | .i16 | .n16 => true
  | _ => false

/-- A narrow element (R150). -/
def Fmt.narrow (f : Fmt) : Bool :=
  match f with
  | .bf16 | .f16 | .i16 | .n16 | .e4m3 | .e5m2 | .i8 | .n8 | .lg6 => true
  | _ => false

/-- A format that VCVT accepts: codes 1 to 12 (R150). -/
def Fmt.upTo12 (f : Fmt) : Bool :=
  match f with
  | .i64 | .n64 => false
  | _ => true

/-- An element format of an E8-scaled block (R32, R153, R351). -/
def Fmt.isBlock (f : Fmt) : Bool :=
  match f with
  | .e4m3 | .e5m2 | .lg6 | .i8 => true
  | _ => false

/-- With cw = 0b00 field d is 0 (R193). -/
def Cmd.okD (k : Cmd) : Bool := k.cw != .none || k.d == 0

/-- With cw = 0b00 field d is 0 (R193, R341). -/
def FabCmd.okD (k : FabCmd) : Bool := k.cw != .none || k.d == 0

/-- The operands an encoding of an instruction of majors 0x22 to 0x26 can hold (check 4 of R88). -/
def LateInstr.wf (l : LateInstr) : Bool :=
  match l with
  | .put k | .get k => k.okD
  | .pub d _ _ _ _ cw _ => cw != .none || d == 0
  | .baddq ty _ _ _ _ _ => ty.isBlock
  | .tlbinv wb d _ _ _ => wb || d == 0
  | .crange clr a b _ => !clr || (a == 0 && b == 0)
  | .ird d a _ => !(a == d && d != 0)
  | _ => true

/-- The operands an encoding of the instruction can hold (check 4 of R88). -/
def Instr.wf (i : Instr) : Bool :=
  match i with
  | .ext _ _ pos lenm1 | .extn _ _ pos lenm1 | .ins _ _ pos lenm1 => pos.toNat + lenm1.toNat + 1 ≤ 64
  | .loop a _ | .loopQ a _ => a != 0
  | .vsel _ _ _ m => m.required
  | .vmcnt _ _ m | .vfirst _ _ m => m.noZ
  | .vredAdd _ _ _ m | .vredMin _ _ _ m | .vredMax _ _ _ m => m.noZ
  | .vredAnd _ _ m | .vredOr _ _ m | .vredXor _ _ m => m.noZ
  | .vcvt dst src _ _ _ => dst.upTo12 && src.upTo12
  | .vpack dst _ _ _ _ q => dst.narrow && (!dst.is16 || !q)
  | .vunpack _ src _ _ p => src.narrow && (!src.is16 || decide (p.toNat ≤ 1))
  | .vqnt dst _ _ _ _ => dst.isBlock
  | .vmaxx _ _ w => decide (1 ≤ w.toNat) && decide (w.toNat ≤ 4)
  | .vst _ _ _ _ m | .vsts _ _ _ _ _ m | .vstx _ _ _ _ _ m => m.noZ
  | .amoAdd _ _ _ _ _ _ _ _ sc | .amoAnd _ _ _ _ _ _ _ _ sc | .amoOr _ _ _ _ _ _ _ _ sc
  | .amoXor _ _ _ _ _ _ _ _ sc | .amoMin _ _ _ _ _ _ _ _ sc | .amoMax _ _ _ _ _ _ _ _ sc
  | .amoMinn _ _ _ _ _ _ _ _ sc | .amoMaxn _ _ _ _ _ _ _ _ sc | .amoSwap _ _ _ _ _ _ _ _ sc
  | .amoCas _ _ _ _ _ _ _ _ sc => sc != .core
  | .amoFadd _ _ _ _ _ _ _ sc | .amoFmin _ _ _ _ _ _ _ sc | .amoFmax _ _ _ _ _ _ _ sc => sc != .core
  | .waita cc _ _ _ _ _ _ => decide (cc.code ≤ 5)
  | .dcopy k _ | .dfill k _ => k.okD
  | .gather k _ _ => k.okD
  | .scatter k es _ mode => k.okD && !(mode == 3 && es == 0)
  | .spwalk k _ _ | .merge k _ => k.okD
  | .mldb k ty sx _ =>
    k.okD && k.sa == 0 && (sx || k.a == 0) &&
      (match ty with
       | .bf16 | .f16 => !sx
       | .e4m3 | .e5m2 | .lg6 | .i8 => true
       | _ => false)
  | .mmac k bank pr _ _ | .mmacCoop k bank pr _ => k.okD && !(pr && bank.toNat % 2 == 1)
  | .put k => LateInstr.wf (.put k)
  | .get k => LateInstr.wf (.get k)
  | .pub d a b c sb cw ds => LateInstr.wf (.pub d a b c sb cw ds)
  | .baddq ty a b c sa sb => LateInstr.wf (.baddq ty a b c sa sb)
  | .tlbinv wb d a b c => LateInstr.wf (.tlbinv wb d a b c)
  | .crange clr a b k => LateInstr.wf (.crange clr a b k)
  | .ird d a k => LateInstr.wf (.ird d a k)
  | _ => true

end Sys2Proof
end

