-- ==== Sys2Proof/Decode.lean ====
section
/-! DEFINITION. Decoding and encoding (file 4 and the encoding rules of files 6 to 18): the fields of R74 and R80 to R82, the
parcels of every instruction, and a decoder that ignores no bit (R75): it reads the fields of its format and refuses the word
unless the parcels of the instruction it has read are that very word. -/

namespace Sys2Proof

/-- What the decoder builds. -/
inductive Code
  | core (i : Instr)
  | late (l : LateInstr)
  deriving DecidableEq, Repr

/-- The integer condition code of a number (R76). -/
def IntCc.ofCode (n : Nat) : Option IntCc :=
  match n with
  | 0 => some .eq | 1 => some .ne | 2 => some .lt | 3 => some .ge | 4 => some .ltn
  | 5 => some .gen | 6 => some .gt | 7 => some .le | 8 => some .gtn | 9 => some .len
  | _ => none

/-- Number of a floating-point condition code (R77). -/
def FpCc.code (cc : FpCc) : Nat :=
  match cc with
  | .eq => 0 | .ne => 1 | .lt => 2 | .le => 3 | .gt => 4 | .ge => 5 | .un => 6 | .ord => 7

/-- The floating-point condition code of a number (R77). -/
def FpCc.ofCode (n : Nat) : Option FpCc :=
  match n with
  | 0 => some .eq | 1 => some .ne | 2 => some .lt | 3 => some .le
  | 4 => some .gt | 5 => some .ge | 6 => some .un | 7 => some .ord
  | _ => none

/-- Type code of a format (R78). -/
def Fmt.code (f : Fmt) : BitVec 4 :=
  match f with
  | .f32 => 1 | .bf16 => 2 | .f16 => 3 | .e4m3 => 4 | .e5m2 => 5 | .lg6 => 6 | .i8 => 7
  | .n8 => 8 | .i16 => 9 | .n16 => 10 | .i32 => 11 | .n32 => 12 | .i64 => 13 | .n64 => 14

/-- Format of a type code; none for the codes 0 and 15 (R78). -/
def Fmt.ofCode (c : BitVec 4) : Option Fmt :=
  match c.toNat with
  | 1 => some .f32 | 2 => some .bf16 | 3 => some .f16 | 4 => some .e4m3 | 5 => some .e5m2
  | 6 => some .lg6 | 7 => some .i8 | 8 => some .n8 | 9 => some .i16 | 10 => some .n16
  | 11 => some .i32 | 12 => some .n32 | 13 => some .i64 | 14 => some .n64
  | _ => none

/-- Type code of a lane format (R78). -/
def LaneTy.code (t : LaneTy) : BitVec 4 :=
  match t with
  | .f32 => 1 | .i32 => 11 | .n32 => 12

/-- Lane format of a type code (R78). -/
def LaneTy.ofCode (c : BitVec 4) : Option LaneTy :=
  match c.toNat with
  | 1 => some .f32 | 11 => some .i32 | 12 => some .n32
  | _ => none

/-- Number of a scope (R79). -/
def Scope.code (s : Scope) : BitVec 3 :=
  match s with
  | .core => 0 | .grove => 1 | .die => 2 | .device => 3 | .fabric => 4

/-- Scope of a number (R79). -/
def Scope.ofCode (c : BitVec 3) : Option Scope :=
  match c.toNat with
  | 0 => some .core | 1 => some .grove | 2 => some .die | 3 => some .device | 4 => some .fabric
  | _ => none

/-- Code of a completion operation (R81). -/
def Cw.code (c : Cw) : BitVec 2 :=
  match c with
  | .none => 0 | .add => 1 | .set => 2

/-- Completion operation of a code (R81). -/
def Cw.ofCode (c : BitVec 2) : Option Cw :=
  match c.toNat with
  | 0 => some .none | 1 => some .add | 2 => some .set
  | _ => none

/-- The number of a control register (R95). -/
def Creg.code (r : Creg) : BitVec 10 :=
  match r with
  | .status => 0x000 | .pfx => 0x001 | .fpflags => 0x002
  | .coreid => 0x010 | .groveid => 0x011 | .dieid => 0x012 | .devid => 0x013 | .epid => 0x014
  | .ringhead => 0x020 | .faultinfo => 0x021 | .fva => 0x022 | .fsq => 0x023 | .epc => 0x024
  | .esta => 0x025 | .epfx => 0x026 | .tvec => 0x027 | .imgbase => 0x028
  | .mwgt => 0x030 | .rways => 0x031 | .isaver => 0x032 | .lpool => 0x033 | .cyc => 0x034
  | .pmc k => 0x8#7 ++ k
  | .pmsel k => 0x9#7 ++ k

/-- The control register of a number; none for a number of no register (R95). -/
def Creg.ofCode (c : BitVec 10) : Option Creg :=
  if c.extractLsb' 3 7 = 0x8#7 then some (.pmc (c.extractLsb' 0 3))
  else if c.extractLsb' 3 7 = 0x9#7 then some (.pmsel (c.extractLsb' 0 3))
  else
    match c.toNat with
    | 0x000 => some .status | 0x001 => some .pfx | 0x002 => some .fpflags
    | 0x010 => some .coreid | 0x011 => some .groveid | 0x012 => some .dieid
    | 0x013 => some .devid | 0x014 => some .epid
    | 0x020 => some .ringhead | 0x021 => some .faultinfo | 0x022 => some .fva | 0x023 => some .fsq
    | 0x024 => some .epc | 0x025 => some .esta | 0x026 => some .epfx | 0x027 => some .tvec
    | 0x028 => some .imgbase
    | 0x030 => some .mwgt | 0x031 => some .rways | 0x032 => some .isaver | 0x033 => some .lpool
    | 0x034 => some .cyc
    | _ => none

/-- Field `op` with L: the low byte of a first parcel is op·4 + L (R71). -/
def fop (p : BitVec 32) : BitVec 6 := p.extractLsb' 2 6
/-- Field L (R71). -/
def fL (p : BitVec 32) : BitVec 2 := p.extractLsb' 0 2
/-- Field d (R74). -/
def fd (p : BitVec 32) : BitVec 5 := p.extractLsb' 8 5
/-- Field a (R74). -/
def fa (p : BitVec 32) : BitVec 5 := p.extractLsb' 13 5
/-- Field b (R74). -/
def fb (p : BitVec 32) : BitVec 5 := p.extractLsb' 18 5
/-- Field fn (R74). -/
def ffn (p : BitVec 32) : BitVec 9 := p.extractLsb' 23 9
/-- Field seg (R74). -/
def fseg (p : BitVec 32) : BitVec 6 := p.extractLsb' 13 6
/-- Field xo (R74). -/
def fxo (p : BitVec 32) : BitVec 5 := p.extractLsb' 19 5
/-- fn3 of format I (R80). -/
def f3 (p : BitVec 32) : BitVec 3 := p.extractLsb' 18 3
/-- imm11 of format I (R80). -/
def fimm (p : BitVec 32) : BitVec 11 := p.extractLsb' 21 11
/-- fn3 of format M (R80). -/
def fm3 (p : BitVec 32) : BitVec 3 := p.extractLsb' 24 3
/-- disp5 of format M (R80). -/
def fdisp (p : BitVec 32) : BitVec 5 := p.extractLsb' 27 5
/-- cc of format C (R80). -/
def cCc (p : BitVec 32) : Nat := (p.extractLsb' 8 4).toNat
/-- The creg number in bits 22:13 (R86). -/
def sMid (p : BitVec 32) : BitVec 10 := p.extractLsb' 13 10
/-- The number n in bits 22:8 (R86). -/
def sN (p : BitVec 32) : BitVec 15 := p.extractLsb' 8 15
/-- Q: register c (R81). -/
def qc (p : BitVec 32) : BitVec 5 := p.extractLsb' 0 5
/-- Q: pos (R81). -/
def qp (p : BitVec 32) : BitVec 6 := p.extractLsb' 0 6
/-- Q: len − 1 (R81). -/
def ql (p : BitVec 32) : BitVec 6 := p.extractLsb' 8 6
/-- K: disp20 (R81). -/
def kd (p : BitVec 32) : BitVec 20 := p.extractLsb' 0 20
/-- K: b (R81). -/
def kb (p : BitVec 32) : BitVec 5 := p.extractLsb' 20 5
/-- K: nc (R81). -/
def knc (p : BitVec 32) : Bool := p.extractLsb' 25 1 == 1#1
/-- K: aq (R81). -/
def kaq (p : BitVec 32) : Bool := p.extractLsb' 26 1 == 1#1
/-- K: rl (R81). -/
def krl (p : BitVec 32) : Bool := p.extractLsb' 27 1 == 1#1
/-- K: sc (R81). -/
def ksc (p : BitVec 32) : BitVec 3 := p.extractLsb' 28 3
/-- V: c (R81). -/
def vc (p : BitVec 32) : BitVec 5 := p.extractLsb' 0 5
/-- V: ty (R81). -/
def vt (p : BitVec 32) : BitVec 4 := p.extractLsb' 11 4
/-- V: imm16 (R81). -/
def vi (p : BitVec 32) : BitVec 16 := p.extractLsb' 16 16
/-- V: the mask fields (R81). -/
def vm (p : BitVec 32) : Mask :=
  bif p.extractLsb' 8 1 == 1#1 then
    .on (p.extractLsb' 9 1 == 1#1) (p.extractLsb' 10 1 == 1#1) (p.extractLsb' 5 3)
  else .all
/-- E: sa (R81). -/
def esa (p : BitVec 32) : BitVec 6 := p.extractLsb' 0 6
/-- E: sb (R81). -/
def esb (p : BitVec 32) : BitVec 6 := p.extractLsb' 6 6
/-- E: aq (R81). -/
def eaq (p : BitVec 32) : Bool := p.extractLsb' 12 1 == 1#1
/-- E: rl (R81). -/
def erl (p : BitVec 32) : Bool := p.extractLsb' 13 1 == 1#1
/-- E: sc (R81). -/
def esc (p : BitVec 32) : BitVec 3 := p.extractLsb' 14 3
/-- E: cw (R81). -/
def ecw (p : BitVec 32) : BitVec 2 := p.extractLsb' 17 2
/-- E: c (R81). -/
def ec (p : BitVec 32) : BitVec 5 := p.extractLsb' 19 5
/-- E: imm8 (R81). -/
def ei (p : BitVec 32) : BitVec 8 := p.extractLsb' 24 8
/-- E: bit k of imm8 (R81). -/
def ib (p : BitVec 32) (k : Nat) : Bool := (ei p).getLsbD k

/-- ty .i32 or .n32: is it natural? (R145). -/
def tyNat (c : BitVec 4) : Option Bool :=
  match c.toNat with
  | 11 => some false
  | 12 => some true
  | _ => none

/-- The type code of .i32 or .n32 (R145). -/
def tyInt (nat : Bool) : BitVec 4 := bif nat then 12#4 else 11#4

/-- A flag with its scope: the scope of an access with the flag set (R81). -/
def acqOf (flag : BitVec 32 → Bool) (sc : BitVec 32 → BitVec 3) (p : BitVec 32) : Option (Option Scope) :=
  bif flag p then (Scope.ofCode (sc p)).bind fun s => some (some s) else some none

/-- The acquire and release flags of E with their scope (R81). Scope code 0, the core, is accepted with either flag: R81 reserves in E only a scope
without a flag (DEDUCED, log 76: a remark of file 16 reads it as reserving a release with code 0 too). -/
def ordOf (p : BitVec 32) : Option Order :=
  match eaq p, erl p with
  | false, false => some .plain
  | true, false => (Scope.ofCode (esc p)).bind fun s => some (.acq s)
  | false, true => (Scope.ofCode (esc p)).bind fun s => some (.rel s)
  | true, true => (Scope.ofCode (esc p)).bind fun s => some (.acqRel s)

/-- The common fields of an engine or matrix command (R193). -/
def cmd (d a b : Reg) (p : BitVec 32) : Option Cmd :=
  (ordOf p).bind fun o => (Cw.ofCode (ecw p)).bind fun w =>
    some { d := d, a := a, b := b, c := ec p, sa := esa p, sb := esb p, ord := o, cw := w, ds := ib p 7 }

/-- The fields of `put` and `get` (R341). -/
def fcmd (d a b : Reg) (p : BitVec 32) : Option FabCmd :=
  (ordOf p).bind fun o => (Cw.ofCode (ecw p)).bind fun w =>
    some { d := d, a := a, b := b, c := ec p, sb := esb p, ord := o, cw := w, ds := ib p 7 }

/-- A format field of `fmt`: code 0 is the instruction's own format (R82). -/
def Fmt.ofCode0 (c : BitVec 4) : Option (Option Fmt) :=
  if c = 0 then some none else (Fmt.ofCode c).bind fun f => some (some f)

/-- The code of a format field of `fmt` (R82). -/
def Fmt.code0 (f : Option Fmt) : BitVec 4 :=
  match f with
  | none => 0
  | some g => g.code

/-- A rounding field of `fmt`: 0 is `status.RM` (R82). -/
def Rm.ofCode0 (c : BitVec 3) : Option (Option Rm) :=
  match c.toNat with
  | 0 => some none | 1 => some (some .rne) | 2 => some (some .rz) | 3 => some (some .ru) | 4 => some (some .rd)
  | _ => none

/-- The code of a rounding field of `fmt` (R82). -/
def Rm.code0 (r : Option Rm) : BitVec 3 :=
  match r with
  | none => 0 | some .rne => 1 | some .rz => 2 | some .ru => 3 | some .rd => 4

/-- The prefix payload in bits 26:8 of a parcel (R82); a scale kind above 1 is refused by `decode`. -/
def prefixOf (p : BitVec 32) : Option Prefix :=
  (Fmt.ofCode0 (p.extractLsb' 8 4)).bind fun fa' => (Fmt.ofCode0 (p.extractLsb' 12 4)).bind fun fb' =>
    (Fmt.ofCode0 (p.extractLsb' 16 4)).bind fun fd' => (Rm.ofCode0 (p.extractLsb' 24 3)).bind fun r =>
      some { fa := fa', fb := fb', fd := fd', ka := p.extractLsb' 20 1 == 1#1, kb := p.extractLsb' 22 1 == 1#1, rm := r }

/-- Bits 31:8 of a `fmt` parcel: the payload that `fmt` writes into `pfx` (R82). -/
def Prefix.payload (p : Prefix) : BitVec 24 :=
  0#5 ++ Rm.code0 p.rm ++ (0#1 ++ BitVec.ofBool p.kb) ++ (0#1 ++ BitVec.ofBool p.ka) ++ Fmt.code0 p.fd ++ Fmt.code0 p.fb ++
    Fmt.code0 p.fa

/-- Format A (R80). -/
def pA (low : BitVec 8) (fn : BitVec 9) (b a d : BitVec 5) : BitVec 32 := fn ++ b ++ a ++ d ++ low
/-- The layout of major SYS: fn and bits 22:8 (R86). -/
def pS (low : BitVec 8) (fn : BitVec 9) (n : BitVec 15) : BitVec 32 := fn ++ n ++ low
/-- Format I (R80). -/
def pI (low : BitVec 8) (imm : BitVec 11) (fn3 : BitVec 3) (a d : BitVec 5) : BitVec 32 := imm ++ fn3 ++ a ++ d ++ low
/-- Format C (R80). -/
def pC (low : BitVec 8) (off : BitVec 9) (b a : BitVec 5) (cc : BitVec 4) : BitVec 32 := off ++ b ++ a ++ 0#1 ++ cc ++ low
/-- Format J (R80). -/
def pJ (low : BitVec 8) (off : BitVec 19) (d : BitVec 5) : BitVec 32 := off ++ d ++ low
/-- Format M (R80). -/
def pM (low : BitVec 8) (disp : BitVec 5) (fn3 : BitVec 3) (xo : BitVec 5) (seg : BitVec 6) (d : BitVec 5) : BitVec 32 :=
  disp ++ fn3 ++ xo ++ seg ++ d ++ low
/-- Format F (R80, R82). -/
def pF (low : BitVec 8) (p : Prefix) : BitVec 32 := p.payload ++ low
/-- Q with register c (R81). -/
def qC (c : BitVec 5) : BitVec 32 := 0#27 ++ c
/-- Q with pos and len − 1 (R81). -/
def qPos (pos lenm1 : BitVec 6) : BitVec 32 := 0#18 ++ lenm1 ++ 0#2 ++ pos
/-- The scope code, acquire and release bits of an order (R81). -/
def Order.bits (o : Order) : BitVec 3 × BitVec 1 × BitVec 1 :=
  match o with
  | .plain => (0, 0, 0)
  | .acq s => (s.code, 1, 0)
  | .rel s => (s.code, 0, 1)
  | .acqRel s => (s.code, 1, 1)
/-- An acquire flag with its scope. -/
def acqO (s : Option Scope) : Order :=
  match s with
  | none => .plain
  | some s => .acq s
/-- A release flag with its scope. -/
def relO (s : Option Scope) : Order :=
  match s with
  | none => .plain
  | some s => .rel s
/-- K (R81). -/
def pK (o : Order) (nc : Bool) (b : BitVec 5) (disp : BitVec 20) : BitVec 32 :=
  0#1 ++ o.bits.1 ++ o.bits.2.2 ++ o.bits.2.1 ++ BitVec.ofBool nc ++ b ++ disp
/-- K of major 0x1A (R184). -/
def pKA (aq rl : Bool) (sc : Scope) (b : BitVec 5) (disp : BitVec 20) : BitVec 32 :=
  0#1 ++ sc.code ++ BitVec.ofBool rl ++ BitVec.ofBool aq ++ 0#1 ++ b ++ disp
/-- The mask fields of V: mz, mn, me and m (R81). -/
def Mask.bits (m : Mask) : BitVec 6 :=
  match m with
  | .all => 0
  | .on inv z r => BitVec.ofBool z ++ BitVec.ofBool inv ++ 1#1 ++ r
/-- V (R81). -/
def pV (imm : BitVec 16) (ty : BitVec 4) (m : Mask) (c : BitVec 5) : BitVec 32 := imm ++ 0#1 ++ ty ++ m.bits ++ c
/-- E (R81). -/
def pE (imm : BitVec 8) (c : BitVec 5) (cw : Cw) (o : Order) (sb sa : BitVec 6) : BitVec 32 :=
  imm ++ c ++ cw.code ++ o.bits.1 ++ o.bits.2.2 ++ o.bits.2.1 ++ sb ++ sa


/-- Major 0x01 (IALU), 32-bit forms. -/
def readIalu (p1 : BitVec 32) : Option Code :=
  let d := fd p1
  let a := fa p1
  let b := fb p1
  let fn := (ffn p1).toNat
  match fn with
  | 0 => some (.core (.add d a b))
  | 1 => some (.core (.sub d a b))
  | 2 => some (.core (.mul d a b))
  | 3 => some (.core (.mulh d a b))
  | 4 => some (.core (.mulhn d a b))
  | 5 => some (.core (.div d a b))
  | 6 => some (.core (.divn d a b))
  | 7 => some (.core (.rem d a b))
  | 8 => some (.core (.remn d a b))
  | 9 => some (.core (.and_ d a b))
  | 10 => some (.core (.or_ d a b))
  | 11 => some (.core (.xor_ d a b))
  | 12 => some (.core (.andn d a b))
  | 13 => some (.core (.sll d a b))
  | 14 => some (.core (.srl d a b))
  | 15 => some (.core (.sra d a b))
  | 16 => some (.core (.rol d a b))
  | 17 => some (.core (.ror d a b))
  | 18 => some (.core (.min_ d a b))
  | 19 => some (.core (.max_ d a b))
  | 20 => some (.core (.minn d a b))
  | 21 => some (.core (.maxn d a b))
  | 22 => some (.core (.clz d a))
  | 23 => some (.core (.ctz d a))
  | 24 => some (.core (.popc d a))
  | _ => (IntCc.ofCode (fn - 32)).bind fun cc => if 32 ≤ fn then some (.core (.setCc cc d a b)) else none

/-- Major 0x01 (IALU), 64-bit forms. -/
def readIaluQ (p1 p2 : BitVec 32) : Option Code :=
  let d := fd p1
  let a := fa p1
  let b := fb p1
  let fn := (ffn p1).toNat
  match fn with
  | 64 => some (.core (.ext d a (qp p2) (ql p2)))
  | 65 => some (.core (.extn d a (qp p2) (ql p2)))
  | 66 => some (.core (.ins d a (qp p2) (ql p2)))
  | 67 => some (.core (.sel d a b (qc p2)))
  | _ => none

/-- Major 0x02 (IALUI), 32-bit forms. -/
def readIalui (p1 : BitVec 32) : Option Code :=
  let d := fd p1
  let a := fa p1
  let imm := fimm p1
  let fn3 := (f3 p1).toNat
  match fn3 with
  | 0 => some (.core (.addImm d a imm))
  | 1 => some (.core (.andImm d a imm))
  | 2 => some (.core (.orImm d a imm))
  | 3 => some (.core (.xorImm d a imm))
  | 4 => some (.core (.sllImm d a (imm.setWidth 6)))
  | 5 => some (.core (.srlImm d a (imm.setWidth 6)))
  | 6 => some (.core (.sraImm d a (imm.setWidth 6)))
  | 7 => some (.core (.mulImm d a imm))
  | _ => none

/-- Major 0x02 (IALUI), 64-bit forms. -/
def readIaluiQ (p1 p2 : BitVec 32) : Option Code :=
  let d := fd p1
  let a := fa p1
  let fn3 := (f3 p1).toNat
  match fn3 with
  | 0 => some (.core (.addImmQ d a p2))
  | 1 => some (.core (.andImmQ d a p2))
  | 2 => some (.core (.orImmQ d a p2))
  | 3 => some (.core (.xorImmQ d a p2))
  | 4 => some (.core (.sllImmQ d a (p2.setWidth 6)))
  | 5 => some (.core (.srlImmQ d a (p2.setWidth 6)))
  | 6 => some (.core (.sraImmQ d a (p2.setWidth 6)))
  | 7 => some (.core (.mulImmQ d a p2))
  | _ => none

/-- Major 0x04 (LIT), 32-bit forms. -/
def readLit (p1 : BitVec 32) : Option Code :=
  let d := fd p1
  let imm := fimm p1
  let fn3 := (f3 p1).toNat
  match fn3 with
  | 0 => some (.core (.li d imm))
  | 2 => some (.core (.lpc d imm))
  | _ => none

/-- Major 0x04 (LIT), 64-bit forms. -/
def readLitQ (p1 p2 : BitVec 32) : Option Code :=
  let d := fd p1
  let fn3 := (f3 p1).toNat
  match fn3 with
  | 0 => some (.core (.liQ d p2))
  | 1 => some (.core (.lih d p2))
  | 2 => some (.core (.lpcQ d p2))
  | _ => none

/-- Major 0x05 (BCC), 32-bit forms. -/
def readBcc (p1 : BitVec 32) : Option Code :=
  let a := fa p1
  let b := fb p1
  (IntCc.ofCode (cCc p1)).bind fun cc => some (.core (.bCc cc a b (p1.extractLsb' 23 9)))

/-- Major 0x05 (BCC), 64-bit forms. -/
def readBccQ (p1 p2 : BitVec 32) : Option Code :=
  let a := fa p1
  let b := fb p1
  (IntCc.ofCode (cCc p1)).bind fun cc => some (.core (.bCcQ cc a b p2))

/-- Major 0x06 (JAL), 32-bit forms. -/
def readJal (p1 : BitVec 32) : Option Code :=
  let d := fd p1
  some (.core (.jal d (p1.extractLsb' 13 19)))

/-- Major 0x06 (JAL), 64-bit forms. -/
def readJalQ (p1 p2 : BitVec 32) : Option Code :=
  let d := fd p1
  some (.core (.jalQ d p2))

/-- Major 0x07 (LOOP), 32-bit forms. -/
def readLoop (p1 : BitVec 32) : Option Code :=
  let a := fa p1
  some (.core (.loop a (p1.extractLsb' 23 9)))

/-- Major 0x07 (LOOP), 64-bit forms. -/
def readLoopQ (p1 p2 : BitVec 32) : Option Code :=
  let a := fa p1
  some (.core (.loopQ a p2))

/-- Major 0x08 (JR), 32-bit forms. -/
def readJr (p1 : BitVec 32) : Option Code :=
  let d := fd p1
  let a := fa p1
  some (.core (.jr d a))

/-- Major 0x09 (SFP), 32-bit forms. -/
def readSfp (p1 : BitVec 32) : Option Code :=
  let d := fd p1
  let a := fa p1
  let b := fb p1
  let fn := (ffn p1).toNat
  match fn with
  | 0 => some (.core (.fadd d a b))
  | 1 => some (.core (.fsub d a b))
  | 2 => some (.core (.fmul d a b))
  | 3 => some (.core (.fdiv d a b))
  | 4 => some (.core (.fsqrt d a))
  | 5 => some (.core (.fmin d a b))
  | 6 => some (.core (.fmax d a b))
  | 7 => some (.core (.fsgn d a b))
  | 8 => some (.core (.fsgnn d a b))
  | 9 => some (.core (.fsgnx d a b))
  | 32 => some (.core (.fcvtI32F32 d a))
  | 33 => some (.core (.fcvtN32F32 d a))
  | 34 => some (.core (.fcvtI64F32 d a))
  | 35 => some (.core (.fcvtN64F32 d a))
  | 36 => some (.core (.fcvtF32I32 d a))
  | 37 => some (.core (.fcvtF32N32 d a))
  | 38 => some (.core (.fcvtF32I64 d a))
  | 39 => some (.core (.fcvtF32N64 d a))
  | _ => (FpCc.ofCode (fn - 16)).bind fun cc => if 16 ≤ fn then some (.core (.fcmpCc cc d a b)) else none

/-- Major 0x09 (SFP), 64-bit forms. -/
def readSfpQ (p1 p2 : BitVec 32) : Option Code :=
  let d := fd p1
  let a := fa p1
  let b := fb p1
  let fn := (ffn p1).toNat
  match fn with
  | 64 => some (.core (.fma d a b (qc p2)))
  | _ => none

/-- Major 0x0B (SYS), 32-bit forms. -/
def readSys (p1 : BitVec 32) : Option Code :=
  let d := fd p1
  let fn := (ffn p1).toNat
  match fn with
  | 0 => some (.core .nop)
  | 1 => (Creg.ofCode (sMid p1)).bind fun r => some (.core (.crd d r))
  | 2 => (Creg.ofCode (sMid p1)).bind fun r => some (.core (.cwr r d))
  | 3 => some (.core (.sys (sN p1)))
  | 4 => some (.core (.brk (sN p1)))
  | 5 => some (.core .eret)
  | 6 => some (.core .exit)
  | _ => none

/-- Major 0x0C (FMT), 32-bit forms. -/
def readFmt (p1 : BitVec 32) : Option Code :=
  (prefixOf p1).bind fun p => some (.core (.fmt p))

/-- Major 0x10 (VFP), 64-bit forms. -/
def readVfpQ (p1 p2 : BitVec 32) : Option Code :=
  let d := fd p1
  let a := fa p1
  let b := fb p1
  let m := vm p2
  let fn := (ffn p1).toNat
  match fn with
  | 0 => some (.core (.vaddF32 d a b m))
  | 1 => some (.core (.vsubF32 d a b m))
  | 2 => some (.core (.vmulF32 d a b m))
  | 3 => some (.core (.vdiv d a b m))
  | 4 => some (.core (.vsqrt d a m))
  | 5 => some (.core (.vrsqrt d a m))
  | 6 => some (.core (.vexp2 d a m))
  | 7 => some (.core (.vminF32 d a b m))
  | 8 => some (.core (.vmaxF32 d a b m))
  | 9 => some (.core (.vabsF32 d a m))
  | 10 => some (.core (.vneg d a m))
  | 11 => some (.core (.vfma d a b (vc p2) m))
  | 12 => some (.core (.vfms d a b (vc p2) m))
  | 13 => some (.core (.vfnma d a b (vc p2) m))
  | _ => none

/-- Major 0x10 (VFP), 96-bit forms. -/
def readVfpL (p1 p2 p3 : BitVec 32) : Option Code :=
  let d := fd p1
  let a := fa p1
  let m := vm p2
  let fn := (ffn p1).toNat
  match fn with
  | 0 => some (.core (.vaddF32Lit d a p3 m))
  | 1 => some (.core (.vsubF32Lit d a p3 m))
  | 2 => some (.core (.vmulF32Lit d a p3 m))
  | 3 => some (.core (.vdivLit d a p3 m))
  | 7 => some (.core (.vminF32Lit d a p3 m))
  | 8 => some (.core (.vmaxF32Lit d a p3 m))
  | _ => none

/-- Major 0x11 (VINT), 64-bit forms. -/
def readVintQ (p1 p2 : BitVec 32) : Option Code :=
  let d := fd p1
  let a := fa p1
  let b := fb p1
  let m := vm p2
  (tyNat (vt p2)).bind fun nat =>
  let fn := (ffn p1).toNat
  match fn with
  | 0 => some (.core (.vaddInt nat d a b m))
  | 1 => some (.core (.vsubInt nat d a b m))
  | 2 => some (.core (.vmulInt nat d a b m))
  | 3 => some (.core (.vmulh nat d a b m))
  | 4 => some (.core (.vand nat d a b m))
  | 5 => some (.core (.vor nat d a b m))
  | 6 => some (.core (.vxor nat d a b m))
  | 7 => some (.core (.vandn nat d a b m))
  | 8 => some (.core (.vsll nat d a b m))
  | 9 => some (.core (.vsrl nat d a b m))
  | 10 => some (.core (.vsra nat d a b m))
  | 11 => some (.core (.vminInt nat d a b m))
  | 12 => some (.core (.vmaxInt nat d a b m))
  | 13 => some (.core (.vabsI32 d a m))
  | 14 => some (.core (.vadds nat d a b m))
  | 15 => some (.core (.vsubs nat d a b m))
  | _ => none

/-- Major 0x11 (VINT), 96-bit forms. -/
def readVintL (p1 p2 p3 : BitVec 32) : Option Code :=
  let d := fd p1
  let a := fa p1
  let m := vm p2
  (tyNat (vt p2)).bind fun nat =>
  let fn := (ffn p1).toNat
  match fn with
  | 0 => some (.core (.vaddIntLit nat d a p3 m))
  | 1 => some (.core (.vsubIntLit nat d a p3 m))
  | 2 => some (.core (.vmulIntLit nat d a p3 m))
  | 3 => some (.core (.vmulhLit nat d a p3 m))
  | 4 => some (.core (.vandLit nat d a p3 m))
  | 5 => some (.core (.vorLit nat d a p3 m))
  | 6 => some (.core (.vxorLit nat d a p3 m))
  | 7 => some (.core (.vandnLit nat d a p3 m))
  | 8 => some (.core (.vsllLit nat d a p3 m))
  | 9 => some (.core (.vsrlLit nat d a p3 m))
  | 10 => some (.core (.vsraLit nat d a p3 m))
  | 11 => some (.core (.vminIntLit nat d a p3 m))
  | 12 => some (.core (.vmaxIntLit nat d a p3 m))
  | 14 => some (.core (.vaddsLit nat d a p3 m))
  | 15 => some (.core (.vsubsLit nat d a p3 m))
  | _ => none

/-- Major 0x12 (VCMP), 64-bit forms. -/
def readVcmpQ (p1 p2 : BitVec 32) : Option Code :=
  let d := fd p1
  let a := fa p1
  let b := fb p1
  let m := vm p2
  let fn := (ffn p1).toNat
  match fn with
  | 32 => some (.core (.vsel d a b m))
  | 33 => some (.core (.vmcnt d a m))
  | 34 => some (.core (.vfirst d a m))
  | 35 => some (.core (.vmand d a b m))
  | 36 => some (.core (.vmor d a b m))
  | 37 => some (.core (.vmxor d a b m))
  | 38 => some (.core (.vmnot d a m))
  | _ => if fn < 8 then (FpCc.ofCode fn).bind fun cc => some (.core (.vcmpF32 cc d a b m)) else (IntCc.ofCode (fn - 8)).bind fun cc => some (.core (.vcmpI32 cc d a b m))

/-- Major 0x13 (VMOVE), 64-bit forms. -/
def readVmoveQ (p1 p2 : BitVec 32) : Option Code :=
  let d := fd p1
  let a := fa p1
  let b := fb p1
  let m := vm p2
  let fn := (ffn p1).toNat
  match fn with
  | 0 => some (.core (.vperm d a b m))
  | 1 => some (.core (.vbcast d a m))
  | 2 => some (.core (.vext (vt p2 == 11) d a ((vi p2).setWidth 4)))
  | 3 => some (.core (.vins d a ((vi p2).setWidth 4)))
  | 4 => some (.core (.vslide d a b ((vi p2).setWidth 4) m))
  | 5 => some (.core (.vcompress d a m))
  | 6 => some (.core (.vexpand d a m))
  | 7 => some (.core (.vmov d a m))
  | _ => none

/-- Major 0x13 (VMOVE), 96-bit forms. -/
def readVmoveL (p1 p2 p3 : BitVec 32) : Option Code :=
  let d := fd p1
  let m := vm p2
  let fn := (ffn p1).toNat
  match fn with
  | 1 => (LaneTy.ofCode (vt p2)).bind fun ty => some (.core (.vbcastLit ty d p3 m))
  | _ => none

/-- Major 0x14 (VRED), 64-bit forms. -/
def readVredQ (p1 p2 : BitVec 32) : Option Code :=
  let d := fd p1
  let a := fa p1
  let m := vm p2
  let fn := (ffn p1).toNat
  match fn with
  | 0 => (LaneTy.ofCode (vt p2)).bind fun ty => some (.core (.vredAdd ty d a m))
  | 1 => (LaneTy.ofCode (vt p2)).bind fun ty => some (.core (.vredMin ty d a m))
  | 2 => (LaneTy.ofCode (vt p2)).bind fun ty => some (.core (.vredMax ty d a m))
  | 3 => some (.core (.vredAnd d a m))
  | 4 => some (.core (.vredOr d a m))
  | 5 => some (.core (.vredXor d a m))
  | 8 => (LaneTy.ofCode (vt p2)).bind fun ty => some (.core (.vscanAdd ty d a m))
  | 9 => (LaneTy.ofCode (vt p2)).bind fun ty => some (.core (.vscanMin ty d a m))
  | 10 => (LaneTy.ofCode (vt p2)).bind fun ty => some (.core (.vscanMax ty d a m))
  | _ => none

/-- Major 0x15 (VCVT), 64-bit forms. -/
def readVcvtQ (p1 p2 : BitVec 32) : Option Code :=
  let d := fd p1
  let a := fa p1
  let b := fb p1
  let m := vm p2
  let fn := (ffn p1).toNat
  match fn with
  | 0 => (Fmt.ofCode (vt p2)).bind fun dst => (Fmt.ofCode ((vi p2).setWidth 4)).bind fun src => some (.core (.vcvt dst src d a m))
  | 1 => (Fmt.ofCode (vt p2)).bind fun dst => (LaneTy.ofCode ((vi p2).setWidth 4)).bind fun src => some (.core (.vpack dst src d a b ((vi p2).getLsbD 4)))
  | 2 => (LaneTy.ofCode (vt p2)).bind fun dst => (Fmt.ofCode ((vi p2).setWidth 4)).bind fun src => some (.core (.vunpack dst src d a ((vi p2).extractLsb' 4 2)))
  | 3 => (Fmt.ofCode (vt p2)).bind fun dst => some (.core (.vqnt dst d a b (bif (vi p2).getLsbD 6 then some (vc p2) else none)))
  | 4 => some (.core (.vmaxx d a ((vi p2).extractLsb' 4 3)))
  | _ => none

/-- Major 0x16 (VMEM), 64-bit forms. -/
def readVmemQ (p1 p2 : BitVec 32) : Option Code :=
  let d := fd p1
  let xo := fxo p1
  let seg := fseg p1
  let m := vm p2
  let fm := (fm3 p1).toNat
  match fm with
  | 0 => some (.core (.vld d xo seg (vi p2) m))
  | 1 => some (.core (.vst d xo seg (vi p2) m))
  | 2 => some (.core (.vlds d xo (vc p2) seg (vi p2) m))
  | 3 => some (.core (.vsts d xo (vc p2) seg (vi p2) m))
  | 4 => some (.core (.vldx d xo (vc p2) seg (vi p2) m))
  | 5 => some (.core (.vstx d xo (vc p2) seg (vi p2) m))
  | _ => none

/-- Major 0x17 (VLEND), 32-bit forms. -/
def readVlend (p1 : BitVec 32) : Option Code :=
  let a := fa p1
  let fn := (ffn p1).toNat
  match fn with
  | 0 => some (.core (.vclaim (a.setWidth 4)))
  | 1 => some (.core .vrelease)
  | _ => none

/-- Major 0x18 (LD), 32-bit forms. -/
def readLd (p1 : BitVec 32) : Option Code :=
  let d := fd p1
  let xo := fxo p1
  let seg := fseg p1
  let disp := fdisp p1
  let fm := (fm3 p1).toNat
  match fm with
  | 0 => some (.core (.ldI8 d xo seg disp))
  | 1 => some (.core (.ldN8 d xo seg disp))
  | 2 => some (.core (.ldI16 d xo seg disp))
  | 3 => some (.core (.ldN16 d xo seg disp))
  | 4 => some (.core (.ldI32 d xo seg disp))
  | 5 => some (.core (.ldN32 d xo seg disp))
  | 6 => some (.core (.ldI64 d xo seg disp))
  | 7 => some (.core (.lea d xo seg disp))
  | _ => none

/-- Major 0x18 (LD), 64-bit forms. -/
def readLdQ (p1 p2 : BitVec 32) : Option Code :=
  let d := fd p1
  let xo := fxo p1
  let seg := fseg p1
  (acqOf kaq ksc p2).bind fun acq =>
  let fm := (fm3 p1).toNat
  match fm with
  | 0 => some (.core (.ldI8Mk d xo seg (kd p2) (knc p2) acq))
  | 1 => some (.core (.ldN8Mk d xo seg (kd p2) (knc p2) acq))
  | 2 => some (.core (.ldI16Mk d xo seg (kd p2) (knc p2) acq))
  | 3 => some (.core (.ldN16Mk d xo seg (kd p2) (knc p2) acq))
  | 4 => some (.core (.ldI32Mk d xo seg (kd p2) (knc p2) acq))
  | 5 => some (.core (.ldN32Mk d xo seg (kd p2) (knc p2) acq))
  | 6 => some (.core (.ldI64Mk d xo seg (kd p2) (knc p2) acq))
  | 7 => some (.core (.leaMk d xo seg (kd p2)))
  | _ => none

/-- Major 0x18 (LD), 96-bit forms. -/
def readLdL (p1 p2 p3 : BitVec 32) : Option Code :=
  let d := fd p1
  let xo := fxo p1
  let seg := fseg p1
  (acqOf kaq ksc p2).bind fun acq =>
  let fm := (fm3 p1).toNat
  match fm with
  | 0 => some (.core (.ldI8Mkl d xo seg p3 (knc p2) acq))
  | 1 => some (.core (.ldN8Mkl d xo seg p3 (knc p2) acq))
  | 2 => some (.core (.ldI16Mkl d xo seg p3 (knc p2) acq))
  | 3 => some (.core (.ldN16Mkl d xo seg p3 (knc p2) acq))
  | 4 => some (.core (.ldI32Mkl d xo seg p3 (knc p2) acq))
  | 5 => some (.core (.ldN32Mkl d xo seg p3 (knc p2) acq))
  | 6 => some (.core (.ldI64Mkl d xo seg p3 (knc p2) acq))
  | 7 => some (.core (.leaMkl d xo seg p3))
  | _ => none

/-- Major 0x19 (ST), 32-bit forms. -/
def readSt (p1 : BitVec 32) : Option Code :=
  let d := fd p1
  let xo := fxo p1
  let seg := fseg p1
  let disp := fdisp p1
  let fm := (fm3 p1).toNat
  match fm with
  | 0 => some (.core (.stI8 d xo seg disp))
  | 1 => some (.core (.stI16 d xo seg disp))
  | 2 => some (.core (.stI32 d xo seg disp))
  | 3 => some (.core (.stI64 d xo seg disp))
  | _ => none

/-- Major 0x19 (ST), 64-bit forms. -/
def readStQ (p1 p2 : BitVec 32) : Option Code :=
  let d := fd p1
  let xo := fxo p1
  let seg := fseg p1
  (acqOf krl ksc p2).bind fun rel =>
  let fm := (fm3 p1).toNat
  match fm with
  | 0 => some (.core (.stI8Mk d xo seg (kd p2) rel))
  | 1 => some (.core (.stI16Mk d xo seg (kd p2) rel))
  | 2 => some (.core (.stI32Mk d xo seg (kd p2) rel))
  | 3 => some (.core (.stI64Mk d xo seg (kd p2) rel))
  | _ => none

/-- Major 0x19 (ST), 96-bit forms. -/
def readStL (p1 p2 p3 : BitVec 32) : Option Code :=
  let d := fd p1
  let xo := fxo p1
  let seg := fseg p1
  (acqOf krl ksc p2).bind fun rel =>
  let fm := (fm3 p1).toNat
  match fm with
  | 0 => some (.core (.stI8Mkl d xo seg p3 rel))
  | 1 => some (.core (.stI16Mkl d xo seg p3 rel))
  | 2 => some (.core (.stI32Mkl d xo seg p3 rel))
  | 3 => some (.core (.stI64Mkl d xo seg p3 rel))
  | _ => none

/-- Major 0x1A (AMO), 64-bit forms. -/
def readAmoQ (p1 p2 : BitVec 32) : Option Code :=
  let d := fd p1
  let xo := fxo p1
  let seg := fseg p1
  (Scope.ofCode (ksc p2)).bind fun sc =>
  let wide := fm3 p1 == 1
  let op5 := (fdisp p1).toNat
  match op5 with
  | 0 => some (.core (.amoAdd wide d xo (kb p2) seg (kd p2) (kaq p2) (krl p2) sc))
  | 1 => some (.core (.amoAnd wide d xo (kb p2) seg (kd p2) (kaq p2) (krl p2) sc))
  | 2 => some (.core (.amoOr wide d xo (kb p2) seg (kd p2) (kaq p2) (krl p2) sc))
  | 3 => some (.core (.amoXor wide d xo (kb p2) seg (kd p2) (kaq p2) (krl p2) sc))
  | 4 => some (.core (.amoMin wide d xo (kb p2) seg (kd p2) (kaq p2) (krl p2) sc))
  | 5 => some (.core (.amoMax wide d xo (kb p2) seg (kd p2) (kaq p2) (krl p2) sc))
  | 6 => some (.core (.amoMinn wide d xo (kb p2) seg (kd p2) (kaq p2) (krl p2) sc))
  | 7 => some (.core (.amoMaxn wide d xo (kb p2) seg (kd p2) (kaq p2) (krl p2) sc))
  | 8 => some (.core (.amoSwap wide d xo (kb p2) seg (kd p2) (kaq p2) (krl p2) sc))
  | 9 => some (.core (.amoCas wide d xo (kb p2) seg (kd p2) (kaq p2) (krl p2) sc))
  | 10 => some (.core (.amoFadd d xo (kb p2) seg (kd p2) (kaq p2) (krl p2) sc))
  | 11 => some (.core (.amoFmin d xo (kb p2) seg (kd p2) (kaq p2) (krl p2) sc))
  | 12 => some (.core (.amoFmax d xo (kb p2) seg (kd p2) (kaq p2) (krl p2) sc))
  | _ => none

/-- Major 0x1B (FENCE), 32-bit forms. -/
def readFence (p1 : BitVec 32) : Option Code :=
  let a := fa p1
  let fn := (ffn p1).toNat
  match fn with
  | 0 => (Scope.ofCode (a.setWidth 3)).bind fun sc => some (.core (.fence sc))
  | 1 => (Scope.ofCode (a.setWidth 3)).bind fun sc => some (.core (.fenceAcq sc))
  | 2 => (Scope.ofCode (a.setWidth 3)).bind fun sc => some (.core (.fenceRel sc))
  | 3 => some (.core .fenceW)
  | _ => none

/-- Major 0x1C (WAITA), 64-bit forms. -/
def readWaitaQ (p1 p2 : BitVec 32) : Option Code :=
  let d := fd p1
  let xo := fxo p1
  let seg := fseg p1
  (acqOf kaq ksc p2).bind fun acq =>
  let fm := (fm3 p1).toNat
  (IntCc.ofCode fm).bind fun cc => some (.core (.waita cc d xo (kb p2) seg (kd p2) acq))

/-- Major 0x1D (CACHE), 64-bit forms. -/
def readCacheQ (p1 p2 : BitVec 32) : Option Code :=
  let d := fd p1
  let xo := fxo p1
  let seg := fseg p1
  let fm := (fm3 p1).toNat
  match fm with
  | 0 => some (.core (.cinv d xo (kb p2) seg (kd p2)))
  | 1 => some (.core (.cwb xo (kb p2) seg (kd p2)))
  | 2 => some (.core (.cflush xo (kb p2) seg (kd p2)))
  | 3 => some (.core (.cpref xo (kb p2) seg (kd p2)))
  | _ => none

/-- Major 0x20 (ENG), 64-bit forms. -/
def readEngQ (p1 p2 : BitVec 32) : Option Code :=
  let d := fd p1
  let a := fa p1
  let b := fb p1
  let fn := (ffn p1).toNat
  match fn with
  | 0 => (cmd d a b p2).bind fun k => some (.core (.dcopy k (ib p2 0)))
  | 1 => (cmd d a b p2).bind fun k => some (.core (.dfill k (ib p2 0)))
  | 2 => some (.core (.dfree a b))
  | 3 => (cmd d a b p2).bind fun k => some (.core (.gather k ((ei p2).setWidth 3) ((ei p2).extractLsb' 3 2)))
  | 4 => (cmd d a b p2).bind fun k => some (.core (.scatter k ((ei p2).setWidth 3) ((ei p2).extractLsb' 3 2) ((ei p2).extractLsb' 5 2)))
  | 5 => (cmd d a b p2).bind fun k => some (.core (.spwalk k (ib p2 0) (ib p2 1)))
  | 6 => (cmd d a b p2).bind fun k => some (.core (.merge k (ib p2 0)))
  | _ => none

/-- Major 0x21 (MAT), 64-bit forms. -/
def readMatQ (p1 p2 : BitVec 32) : Option Code :=
  let d := fd p1
  let a := fa p1
  let b := fb p1
  let fn := (ffn p1).toNat
  match fn with
  | 0 => (cmd d a b p2).bind fun k => (Fmt.ofCode ((ei p2).setWidth 4)).bind fun ty => some (.core (.mldb k ty (ib p2 4) ((ei p2).extractLsb' 5 2)))
  | 1 => (cmd d a b p2).bind fun k => some (.core (.mmac k ((ei p2).setWidth 2) (ib p2 2) (ib p2 3) (ib p2 4)))
  | 2 => (cmd d a b p2).bind fun k => some (.core (.mmacCoop k ((ei p2).setWidth 2) (ib p2 2) (ib p2 3)))
  | _ => none

/-- Major 0x22 (REC), 64-bit forms. -/
def readRecQ (p1 p2 : BitVec 32) : Option Code :=
  let d := fd p1
  let a := fa p1
  let b := fb p1
  (acqOf eaq esc p2).bind fun acq =>
  (acqOf erl esc p2).bind fun rel =>
  let fn := (ffn p1).toNat
  match fn with
  | 0 => some (.late (.rnew d a (ec p2) (esa p2) ((ei p2).setWidth 4)))
  | 1 => some (.late (.rdel b (ec p2)))
  | 2 => some (.late (.rld a b (ec p2) (esa p2) acq))
  | 3 => some (.late (.rst d a b (ec p2) (esa p2) rel))
  | 4 => some (.late (.rloc d b (ec p2)))
  | 5 => some (.late (.qbox d a b (ec p2) (esa p2) ((ei p2).setWidth 4)))
  | 6 => some (.late (.qrad d a b (ec p2) (esa p2) ((ei p2).setWidth 4)))
  | _ => none

/-- Major 0x23 (GRID), 64-bit forms. -/
def readGridQ (p1 p2 : BitVec 32) : Option Code :=
  let d := fd p1
  let a := fa p1
  let b := fb p1
  let fn := (ffn p1).toNat
  match fn with
  | 0 => some (.late (.gld d a b (ec p2) (esa p2) ((ei p2).setWidth 4)))
  | 1 => some (.late (.gst d a b (ec p2) (esa p2) ((ei p2).setWidth 4)))
  | 2 => some (.late (.gstep (ec p2) ((ei p2).setWidth 4)))
  | _ => none

/-- Major 0x24 (FAB), 64-bit forms. -/
def readFabQ (p1 p2 : BitVec 32) : Option Code :=
  let d := fd p1
  let a := fa p1
  let b := fb p1
  let fn := (ffn p1).toNat
  match fn with
  | 0 => (fcmd d a b p2).bind fun k => some (.late (.put k))
  | 1 => (fcmd d a b p2).bind fun k => some (.late (.get k))
  | 2 => some (.late (.msg d a b (ec p2)))
  | 3 => some (.late (.recv d a (esa p2) (ib p2 0)))
  | 4 => (Cw.ofCode (ecw p2)).bind fun cw => some (.late (.pub d a b (ec p2) (esb p2) cw (ib p2 7)))
  | 5 => bif ib p2 0 then some (.late (.rblkSet a b)) else some (.late (.rblk d))
  | 6 => (Fmt.ofCode ((ei p2).setWidth 4)).bind fun ty => some (.late (.baddq ty a b (ec p2) (esa p2) (esb p2)))
  | _ => none

/-- Major 0x25 (TASK), 32-bit forms. -/
def readTask (p1 : BitVec 32) : Option Code :=
  let d := fd p1
  let a := fa p1
  let b := fb p1
  let k := p1.extractLsb' 27 3
  let t4 := (p1.extractLsb' 23 4).toNat
  match t4 with
  | 1 => some (.core .kchk)
  | 2 => some (.late (.iupd d a b k))
  | 3 => some (.late (.ird d a k))
  | 4 => some (.late (.bar a))
  | 5 => some (.late (.sstep d a))
  | 6 => some (.late (.dset d a b))
  | 7 => some (.late (.ddec d a b))
  | _ => none

/-- Major 0x25 (TASK), 64-bit forms. -/
def readTaskQ (p1 p2 : BitVec 32) : Option Code :=
  let d := fd p1
  let a := fa p1
  (acqOf erl esc p2).bind fun rel =>
  let fn := (ffn p1).toNat
  match fn with
  | 0 => some (.late (.spawn d a (esa p2) rel))
  | _ => none

/-- Major 0x26 (TBL), 64-bit forms. -/
def readTblQ (p1 p2 : BitVec 32) : Option Code :=
  let d := fd p1
  let a := fa p1
  let b := fb p1
  let fn := (ffn p1).toNat
  match fn with
  | 0 => bif ib p2 0 then some (.late (.ssetT a (esa p2) (esb p2))) else some (.late (.sset a (esa p2) (esb p2)))
  | 1 => some (.late (.tlbinv (ib p2 0) d a b (ec p2)))
  | 2 => some (.late (.gtw a (esa p2) (ei p2)))
  | 3 => bif ib p2 5 then some (.late (.pbindU (ib p2 4) ((ei p2).setWidth 4))) else some (.late (.pbind (ib p2 4) a (esa p2) ((ei p2).setWidth 4)))
  | 4 => some (.late (.crange (ib p2 6) a b ((ei p2).setWidth 6)))
  | _ => none

/-- The candidate that the fields of an instruction name, by major and length (R84). Fields it does not read are checked by
`decode`. -/
def readFields (p1 p2 p3 : BitVec 32) : Option Code :=
  match (fop p1).toNat, (fL p1).toNat with
  | 1, 0 => readIalu p1
  | 1, 1 => readIaluQ p1 p2
  | 2, 0 => readIalui p1
  | 2, 1 => readIaluiQ p1 p2
  | 4, 0 => readLit p1
  | 4, 1 => readLitQ p1 p2
  | 5, 0 => readBcc p1
  | 5, 1 => readBccQ p1 p2
  | 6, 0 => readJal p1
  | 6, 1 => readJalQ p1 p2
  | 7, 0 => readLoop p1
  | 7, 1 => readLoopQ p1 p2
  | 8, 0 => readJr p1
  | 9, 0 => readSfp p1
  | 9, 1 => readSfpQ p1 p2
  | 11, 0 => readSys p1
  | 12, 0 => readFmt p1
  | 16, 1 => readVfpQ p1 p2
  | 16, 2 => readVfpL p1 p2 p3
  | 17, 1 => readVintQ p1 p2
  | 17, 2 => readVintL p1 p2 p3
  | 18, 1 => readVcmpQ p1 p2
  | 19, 1 => readVmoveQ p1 p2
  | 19, 2 => readVmoveL p1 p2 p3
  | 20, 1 => readVredQ p1 p2
  | 21, 1 => readVcvtQ p1 p2
  | 22, 1 => readVmemQ p1 p2
  | 23, 0 => readVlend p1
  | 24, 0 => readLd p1
  | 24, 1 => readLdQ p1 p2
  | 24, 2 => readLdL p1 p2 p3
  | 25, 0 => readSt p1
  | 25, 1 => readStQ p1 p2
  | 25, 2 => readStL p1 p2 p3
  | 26, 1 => readAmoQ p1 p2
  | 27, 0 => readFence p1
  | 28, 1 => readWaitaQ p1 p2
  | 29, 1 => readCacheQ p1 p2
  | 32, 1 => readEngQ p1 p2
  | 33, 1 => readMatQ p1 p2
  | 34, 1 => readRecQ p1 p2
  | 35, 1 => readGridQ p1 p2
  | 36, 1 => readFabQ p1 p2
  | 37, 0 => readTask p1
  | 37, 1 => readTaskQ p1 p2
  | 38, 1 => readTblQ p1 p2
  | _, _ => none

/-- The parcels of an instruction of majors 0x22 to 0x26 (the encodings of files 12 to 18). -/
def encodeLate (i : LateInstr) : List (BitVec 32) :=
  match i with
  | .rnew d a c sa sp => [pA 0x89#8 0#9 0 a d, pE (0#4 ++ sp) c .none .plain 0 sa]
  | .rdel b c => [pA 0x89#8 1#9 b 0 0, pE 0 c .none .plain 0 0]
  | .rld a b c sa acq => [pA 0x89#8 2#9 b a 0, pE 0 c .none (acqO acq) 0 sa]
  | .rst d a b c sa rel => [pA 0x89#8 3#9 b a d, pE 0 c .none (relO rel) 0 sa]
  | .rloc d b c => [pA 0x89#8 4#9 b 0 d, pE 0 c .none .plain 0 0]
  | .qbox d a b c sa sp => [pA 0x89#8 5#9 b a d, pE (0#4 ++ sp) c .none .plain 0 sa]
  | .qrad d a b c sa sp => [pA 0x89#8 6#9 b a d, pE (0#4 ++ sp) c .none .plain 0 sa]
  | .gld d a b c sa g => [pA 0x8D#8 0#9 b a d, pE (0#4 ++ g) c .none .plain 0 sa]
  | .gst d a b c sa g => [pA 0x8D#8 1#9 b a d, pE (0#4 ++ g) c .none .plain 0 sa]
  | .gstep c g => [pA 0x8D#8 2#9 0 0 0, pE (0#4 ++ g) c .none .plain 0 0]
  | .put k => [pA 0x91#8 0#9 k.b k.a k.d, pE (BitVec.ofBool k.ds ++ 0#7) k.c k.cw k.ord k.sb 0]
  | .get k => [pA 0x91#8 1#9 k.b k.a k.d, pE (BitVec.ofBool k.ds ++ 0#7) k.c k.cw k.ord k.sb 0]
  | .msg d a b c => [pA 0x91#8 2#9 b a d, pE 0 c .none .plain 0 0]
  | .recv d a sa nb => [pA 0x91#8 3#9 0 a d, pE (0#7 ++ BitVec.ofBool nb) 0 .none .plain 0 sa]
  | .pub d a b c sb cw ds => [pA 0x91#8 4#9 b a d, pE (BitVec.ofBool ds ++ 0#7) c cw .plain sb 0]
  | .rblk d => [pA 0x91#8 5#9 0 0 d, pE 0 0 .none .plain 0 0]
  | .rblkSet a b => [pA 0x91#8 5#9 b a 0, pE 1 0 .none .plain 0 0]
  | .baddq ty a b c sa sb => [pA 0x91#8 6#9 b a 0, pE (0#4 ++ ty.code) c .none .plain sb sa]
  | .sset a sa sb => [pA 0x99#8 0#9 0 a 0, pE 0 0 .none .plain sb sa]
  | .ssetT a sa sb => [pA 0x99#8 0#9 0 a 0, pE 1 0 .none .plain sb sa]
  | .tlbinv wb d a b c => [pA 0x99#8 1#9 b a d, pE (0#7 ++ BitVec.ofBool wb) c .none .plain 0 0]
  | .gtw a sa g => [pA 0x99#8 2#9 0 a 0, pE g 0 .none .plain 0 sa]
  | .pbind gd a sa n => [pA 0x99#8 3#9 0 a 0, pE (0#3 ++ BitVec.ofBool gd ++ n) 0 .none .plain 0 sa]
  | .pbindU gd n => [pA 0x99#8 3#9 0 0 0, pE (1#3 ++ BitVec.ofBool gd ++ n) 0 .none .plain 0 0]
  | .crange clr a b k => [pA 0x99#8 4#9 b a 0, pE (0#1 ++ BitVec.ofBool clr ++ k) 0 .none .plain 0 0]
  | .spawn d a sa rel => [pA 0x95#8 0#9 0 a d, pE 0 0 .none (relO rel) 0 sa]
  | .iupd d a b k => [pA 0x94#8 ((0#2 ++ k) ++ 2#4) b a d]
  | .ird d a k => [pA 0x94#8 ((0#2 ++ k) ++ 3#4) 0 a d]
  | .bar a => [pA 0x94#8 (0#5 ++ 4#4) 0 a 0]
  | .sstep d a => [pA 0x94#8 (0#5 ++ 5#4) 0 a d]
  | .dset d a b => [pA 0x94#8 (0#5 ++ 6#4) b a d]
  | .ddec d a b => [pA 0x94#8 (0#5 ++ 7#4) b a d]

/-- The instruction that a `LateInstr` is. -/
noncomputable def LateInstr.instr (l : LateInstr) : Instr :=
  match l with
  | .rnew d a c sa sp => .rnew d a c sa sp
  | .rdel b c => .rdel b c
  | .rld a b c sa acq => .rld a b c sa acq
  | .rst d a b c sa rel => .rst d a b c sa rel
  | .rloc d b c => .rloc d b c
  | .qbox d a b c sa sp => .qbox d a b c sa sp
  | .qrad d a b c sa sp => .qrad d a b c sa sp
  | .gld d a b c sa g => .gld d a b c sa g
  | .gst d a b c sa g => .gst d a b c sa g
  | .gstep c g => .gstep c g
  | .put k => .put k
  | .get k => .get k
  | .msg d a b c => .msg d a b c
  | .recv d a sa nb => .recv d a sa nb
  | .pub d a b c sb cw ds => .pub d a b c sb cw ds
  | .rblk d => .rblk d
  | .rblkSet a b => .rblkSet a b
  | .baddq ty a b c sa sb => .baddq ty a b c sa sb
  | .sset a sa sb => .sset a sa sb
  | .ssetT a sa sb => .ssetT a sa sb
  | .tlbinv wb d a b c => .tlbinv wb d a b c
  | .gtw a sa g => .gtw a sa g
  | .pbind gd a sa n => .pbind gd a sa n
  | .pbindU gd n => .pbindU gd n
  | .crange clr a b k => .crange clr a b k
  | .spawn d a sa rel => .spawn d a sa rel
  | .iupd d a b k => .iupd d a b k
  | .ird d a k => .ird d a k
  | .bar a => .bar a
  | .sstep d a => .sstep d a
  | .dset d a b => .dset d a b
  | .ddec d a b => .ddec d a b

/-- The parcels of an instruction (R80 to R87 and the encodings of files 6 to 18). An event has none. -/
def encode (i : Instr) : List (BitVec 32) :=
  match i with
  | .add d a b => [pA 0x04#8 0#9 b a d]
  | .sub d a b => [pA 0x04#8 1#9 b a d]
  | .mul d a b => [pA 0x04#8 2#9 b a d]
  | .mulh d a b => [pA 0x04#8 3#9 b a d]
  | .mulhn d a b => [pA 0x04#8 4#9 b a d]
  | .div d a b => [pA 0x04#8 5#9 b a d]
  | .divn d a b => [pA 0x04#8 6#9 b a d]
  | .rem d a b => [pA 0x04#8 7#9 b a d]
  | .remn d a b => [pA 0x04#8 8#9 b a d]
  | .and_ d a b => [pA 0x04#8 9#9 b a d]
  | .or_ d a b => [pA 0x04#8 10#9 b a d]
  | .xor_ d a b => [pA 0x04#8 11#9 b a d]
  | .andn d a b => [pA 0x04#8 12#9 b a d]
  | .sll d a b => [pA 0x04#8 13#9 b a d]
  | .srl d a b => [pA 0x04#8 14#9 b a d]
  | .sra d a b => [pA 0x04#8 15#9 b a d]
  | .rol d a b => [pA 0x04#8 16#9 b a d]
  | .ror d a b => [pA 0x04#8 17#9 b a d]
  | .min_ d a b => [pA 0x04#8 18#9 b a d]
  | .max_ d a b => [pA 0x04#8 19#9 b a d]
  | .minn d a b => [pA 0x04#8 20#9 b a d]
  | .maxn d a b => [pA 0x04#8 21#9 b a d]
  | .clz d a => [pA 0x04#8 22#9 0 a d]
  | .ctz d a => [pA 0x04#8 23#9 0 a d]
  | .popc d a => [pA 0x04#8 24#9 0 a d]
  | .setCc cc d a b => [pA 0x04#8 (BitVec.ofNat 9 (32 + cc.code)) b a d]
  | .ext d a pos lenm1 => [pA 0x05#8 64#9 0 a d, qPos pos lenm1]
  | .extn d a pos lenm1 => [pA 0x05#8 65#9 0 a d, qPos pos lenm1]
  | .ins d a pos lenm1 => [pA 0x05#8 66#9 0 a d, qPos pos lenm1]
  | .sel d a b c => [pA 0x05#8 67#9 b a d, qC c]
  | .addImm d a imm => [pI 0x08#8 imm 0#3 a d]
  | .andImm d a imm => [pI 0x08#8 imm 1#3 a d]
  | .orImm d a imm => [pI 0x08#8 imm 2#3 a d]
  | .xorImm d a imm => [pI 0x08#8 imm 3#3 a d]
  | .sllImm d a sh => [pI 0x08#8 (0#5 ++ sh) 4#3 a d]
  | .srlImm d a sh => [pI 0x08#8 (0#5 ++ sh) 5#3 a d]
  | .sraImm d a sh => [pI 0x08#8 (0#5 ++ sh) 6#3 a d]
  | .mulImm d a imm => [pI 0x08#8 imm 7#3 a d]
  | .addImmQ d a imm => [pI 0x09#8 0 0#3 a d, imm]
  | .andImmQ d a imm => [pI 0x09#8 0 1#3 a d, imm]
  | .orImmQ d a imm => [pI 0x09#8 0 2#3 a d, imm]
  | .xorImmQ d a imm => [pI 0x09#8 0 3#3 a d, imm]
  | .sllImmQ d a sh => [pI 0x09#8 0 4#3 a d, 0#26 ++ sh]
  | .srlImmQ d a sh => [pI 0x09#8 0 5#3 a d, 0#26 ++ sh]
  | .sraImmQ d a sh => [pI 0x09#8 0 6#3 a d, 0#26 ++ sh]
  | .mulImmQ d a imm => [pI 0x09#8 0 7#3 a d, imm]
  | .li d imm => [pI 0x10#8 imm 0#3 0 d]
  | .liQ d imm => [pI 0x11#8 0 0#3 0 d, imm]
  | .lih d imm => [pI 0x11#8 0 1#3 0 d, imm]
  | .lpc d off => [pI 0x10#8 off 2#3 0 d]
  | .lpcQ d off => [pI 0x11#8 0 2#3 0 d, off]
  | .bCc cc a b off => [pC 0x14#8 off b a (BitVec.ofNat 4 cc.code)]
  | .bCcQ cc a b off => [pC 0x15#8 0 b a (BitVec.ofNat 4 cc.code), off]
  | .jal d off => [pJ 0x18#8 off d]
  | .jalQ d off => [pJ 0x19#8 0 d, off]
  | .loop a off => [pC 0x1C#8 off 0 a 0]
  | .loopQ a off => [pC 0x1D#8 0 0 a 0, off]
  | .jr d a => [pA 0x20#8 0#9 0 a d]
  | .fadd d a b => [pA 0x24#8 0#9 b a d]
  | .fsub d a b => [pA 0x24#8 1#9 b a d]
  | .fmul d a b => [pA 0x24#8 2#9 b a d]
  | .fdiv d a b => [pA 0x24#8 3#9 b a d]
  | .fsqrt d a => [pA 0x24#8 4#9 0 a d]
  | .fmin d a b => [pA 0x24#8 5#9 b a d]
  | .fmax d a b => [pA 0x24#8 6#9 b a d]
  | .fsgn d a b => [pA 0x24#8 7#9 b a d]
  | .fsgnn d a b => [pA 0x24#8 8#9 b a d]
  | .fsgnx d a b => [pA 0x24#8 9#9 b a d]
  | .fcmpCc cc d a b => [pA 0x24#8 (BitVec.ofNat 9 (16 + cc.code)) b a d]
  | .fcvtI32F32 d a => [pA 0x24#8 32#9 0 a d]
  | .fcvtN32F32 d a => [pA 0x24#8 33#9 0 a d]
  | .fcvtI64F32 d a => [pA 0x24#8 34#9 0 a d]
  | .fcvtN64F32 d a => [pA 0x24#8 35#9 0 a d]
  | .fcvtF32I32 d a => [pA 0x24#8 36#9 0 a d]
  | .fcvtF32N32 d a => [pA 0x24#8 37#9 0 a d]
  | .fcvtF32I64 d a => [pA 0x24#8 38#9 0 a d]
  | .fcvtF32N64 d a => [pA 0x24#8 39#9 0 a d]
  | .fma d a b c => [pA 0x25#8 64#9 b a d, qC c]
  | .nop => [pA 0x2C#8 0#9 0 0 0]
  | .crd d r => [pS 0x2C#8 1#9 (r.code ++ d)]
  | .cwr r a => [pS 0x2C#8 2#9 (r.code ++ a)]
  | .sys n => [pS 0x2C#8 3#9 n]
  | .brk n => [pS 0x2C#8 4#9 n]
  | .eret => [pA 0x2C#8 5#9 0 0 0]
  | .exit => [pA 0x2C#8 6#9 0 0 0]
  | .fmt p => [pF 0x30#8 p]
  | .vaddF32 d a b m => [pA 0x41#8 0#9 b a d, pV 0 1#4 m 0]
  | .vsubF32 d a b m => [pA 0x41#8 1#9 b a d, pV 0 1#4 m 0]
  | .vmulF32 d a b m => [pA 0x41#8 2#9 b a d, pV 0 1#4 m 0]
  | .vdiv d a b m => [pA 0x41#8 3#9 b a d, pV 0 1#4 m 0]
  | .vsqrt d a m => [pA 0x41#8 4#9 0 a d, pV 0 1#4 m 0]
  | .vrsqrt d a m => [pA 0x41#8 5#9 0 a d, pV 0 1#4 m 0]
  | .vexp2 d a m => [pA 0x41#8 6#9 0 a d, pV 0 1#4 m 0]
  | .vminF32 d a b m => [pA 0x41#8 7#9 b a d, pV 0 1#4 m 0]
  | .vmaxF32 d a b m => [pA 0x41#8 8#9 b a d, pV 0 1#4 m 0]
  | .vabsF32 d a m => [pA 0x41#8 9#9 0 a d, pV 0 1#4 m 0]
  | .vneg d a m => [pA 0x41#8 10#9 0 a d, pV 0 1#4 m 0]
  | .vfma d a b c m => [pA 0x41#8 11#9 b a d, pV 0 1#4 m c]
  | .vfms d a b c m => [pA 0x41#8 12#9 b a d, pV 0 1#4 m c]
  | .vfnma d a b c m => [pA 0x41#8 13#9 b a d, pV 0 1#4 m c]
  | .vaddF32Lit d a lit m => [pA 0x42#8 0#9 0 a d, pV 0 1#4 m 0, lit]
  | .vsubF32Lit d a lit m => [pA 0x42#8 1#9 0 a d, pV 0 1#4 m 0, lit]
  | .vmulF32Lit d a lit m => [pA 0x42#8 2#9 0 a d, pV 0 1#4 m 0, lit]
  | .vdivLit d a lit m => [pA 0x42#8 3#9 0 a d, pV 0 1#4 m 0, lit]
  | .vminF32Lit d a lit m => [pA 0x42#8 7#9 0 a d, pV 0 1#4 m 0, lit]
  | .vmaxF32Lit d a lit m => [pA 0x42#8 8#9 0 a d, pV 0 1#4 m 0, lit]
  | .vaddInt nat d a b m => [pA 0x45#8 0#9 b a d, pV 0 (tyInt nat) m 0]
  | .vsubInt nat d a b m => [pA 0x45#8 1#9 b a d, pV 0 (tyInt nat) m 0]
  | .vmulInt nat d a b m => [pA 0x45#8 2#9 b a d, pV 0 (tyInt nat) m 0]
  | .vmulh nat d a b m => [pA 0x45#8 3#9 b a d, pV 0 (tyInt nat) m 0]
  | .vand nat d a b m => [pA 0x45#8 4#9 b a d, pV 0 (tyInt nat) m 0]
  | .vor nat d a b m => [pA 0x45#8 5#9 b a d, pV 0 (tyInt nat) m 0]
  | .vxor nat d a b m => [pA 0x45#8 6#9 b a d, pV 0 (tyInt nat) m 0]
  | .vandn nat d a b m => [pA 0x45#8 7#9 b a d, pV 0 (tyInt nat) m 0]
  | .vsll nat d a b m => [pA 0x45#8 8#9 b a d, pV 0 (tyInt nat) m 0]
  | .vsrl nat d a b m => [pA 0x45#8 9#9 b a d, pV 0 (tyInt nat) m 0]
  | .vsra nat d a b m => [pA 0x45#8 10#9 b a d, pV 0 (tyInt nat) m 0]
  | .vminInt nat d a b m => [pA 0x45#8 11#9 b a d, pV 0 (tyInt nat) m 0]
  | .vmaxInt nat d a b m => [pA 0x45#8 12#9 b a d, pV 0 (tyInt nat) m 0]
  | .vabsI32 d a m => [pA 0x45#8 13#9 0 a d, pV 0 11#4 m 0]
  | .vadds nat d a b m => [pA 0x45#8 14#9 b a d, pV 0 (tyInt nat) m 0]
  | .vsubs nat d a b m => [pA 0x45#8 15#9 b a d, pV 0 (tyInt nat) m 0]
  | .vaddIntLit nat d a lit m => [pA 0x46#8 0#9 0 a d, pV 0 (tyInt nat) m 0, lit]
  | .vsubIntLit nat d a lit m => [pA 0x46#8 1#9 0 a d, pV 0 (tyInt nat) m 0, lit]
  | .vmulIntLit nat d a lit m => [pA 0x46#8 2#9 0 a d, pV 0 (tyInt nat) m 0, lit]
  | .vmulhLit nat d a lit m => [pA 0x46#8 3#9 0 a d, pV 0 (tyInt nat) m 0, lit]
  | .vandLit nat d a lit m => [pA 0x46#8 4#9 0 a d, pV 0 (tyInt nat) m 0, lit]
  | .vorLit nat d a lit m => [pA 0x46#8 5#9 0 a d, pV 0 (tyInt nat) m 0, lit]
  | .vxorLit nat d a lit m => [pA 0x46#8 6#9 0 a d, pV 0 (tyInt nat) m 0, lit]
  | .vandnLit nat d a lit m => [pA 0x46#8 7#9 0 a d, pV 0 (tyInt nat) m 0, lit]
  | .vsllLit nat d a lit m => [pA 0x46#8 8#9 0 a d, pV 0 (tyInt nat) m 0, lit]
  | .vsrlLit nat d a lit m => [pA 0x46#8 9#9 0 a d, pV 0 (tyInt nat) m 0, lit]
  | .vsraLit nat d a lit m => [pA 0x46#8 10#9 0 a d, pV 0 (tyInt nat) m 0, lit]
  | .vminIntLit nat d a lit m => [pA 0x46#8 11#9 0 a d, pV 0 (tyInt nat) m 0, lit]
  | .vmaxIntLit nat d a lit m => [pA 0x46#8 12#9 0 a d, pV 0 (tyInt nat) m 0, lit]
  | .vaddsLit nat d a lit m => [pA 0x46#8 14#9 0 a d, pV 0 (tyInt nat) m 0, lit]
  | .vsubsLit nat d a lit m => [pA 0x46#8 15#9 0 a d, pV 0 (tyInt nat) m 0, lit]
  | .vcmpF32 cc d a b m => [pA 0x49#8 (BitVec.ofNat 9 cc.code) b a d, pV 0 1#4 m 0]
  | .vcmpI32 cc d a b m => [pA 0x49#8 (BitVec.ofNat 9 (8 + cc.code)) b a d, pV 0 11#4 m 0]
  | .vsel d a b m => [pA 0x49#8 32#9 b a d, pV 0 0#4 m 0]
  | .vmcnt d a m => [pA 0x49#8 33#9 0 a d, pV 0 0#4 m 0]
  | .vfirst d a m => [pA 0x49#8 34#9 0 a d, pV 0 0#4 m 0]
  | .vmand d a b m => [pA 0x49#8 35#9 b a d, pV 0 0#4 m 0]
  | .vmor d a b m => [pA 0x49#8 36#9 b a d, pV 0 0#4 m 0]
  | .vmxor d a b m => [pA 0x49#8 37#9 b a d, pV 0 0#4 m 0]
  | .vmnot d a m => [pA 0x49#8 38#9 0 a d, pV 0 0#4 m 0]
  | .vperm d a b m => [pA 0x4D#8 0#9 b a d, pV 0 0#4 m 0]
  | .vbcast d a m => [pA 0x4D#8 1#9 0 a d, pV 0 0#4 m 0]
  | .vbcastLit ty d lit m => [pA 0x4E#8 1#9 0 0 d, pV 0 ty.code m 0, lit]
  | .vext sgn d a lane => [pA 0x4D#8 2#9 0 a d, pV (0#12 ++ lane) (bif sgn then 11#4 else 0#4) .all 0]
  | .vins d a lane => [pA 0x4D#8 3#9 0 a d, pV (0#12 ++ lane) 0#4 .all 0]
  | .vslide d a b k m => [pA 0x4D#8 4#9 b a d, pV (0#12 ++ k) 0#4 m 0]
  | .vcompress d a m => [pA 0x4D#8 5#9 0 a d, pV 0 0#4 m 0]
  | .vexpand d a m => [pA 0x4D#8 6#9 0 a d, pV 0 0#4 m 0]
  | .vmov d a m => [pA 0x4D#8 7#9 0 a d, pV 0 0#4 m 0]
  | .vredAdd ty d a m => [pA 0x51#8 0#9 0 a d, pV 0 ty.code m 0]
  | .vredMin ty d a m => [pA 0x51#8 1#9 0 a d, pV 0 ty.code m 0]
  | .vredMax ty d a m => [pA 0x51#8 2#9 0 a d, pV 0 ty.code m 0]
  | .vredAnd d a m => [pA 0x51#8 3#9 0 a d, pV 0 12#4 m 0]
  | .vredOr d a m => [pA 0x51#8 4#9 0 a d, pV 0 12#4 m 0]
  | .vredXor d a m => [pA 0x51#8 5#9 0 a d, pV 0 12#4 m 0]
  | .vscanAdd ty d a m => [pA 0x51#8 8#9 0 a d, pV 0 ty.code m 0]
  | .vscanMin ty d a m => [pA 0x51#8 9#9 0 a d, pV 0 ty.code m 0]
  | .vscanMax ty d a m => [pA 0x51#8 10#9 0 a d, pV 0 ty.code m 0]
  | .vcvt dst src d a m => [pA 0x55#8 0#9 0 a d, pV (0#12 ++ src.code) dst.code m 0]
  | .vpack dst src d a b q => [pA 0x55#8 1#9 b a d, pV (0#11 ++ BitVec.ofBool q ++ src.code) dst.code .all 0]
  | .vunpack dst src d a p => [pA 0x55#8 2#9 0 a d, pV (0#10 ++ p ++ src.code) dst.code .all 0]
  | .vqnt dst d a b c => [pA 0x55#8 3#9 b a d, pV (0#9 ++ BitVec.ofBool c.isSome ++ 1#6) dst.code .all (c.getD 0)]
  | .vmaxx d a w => [pA 0x55#8 4#9 0 a d, pV (0#9 ++ w ++ 1#4) 1#4 .all 0]
  | .vld d xo seg imm m => [pM 0x59#8 0 0#3 xo seg d, pV imm 0 m 0]
  | .vst d xo seg imm m => [pM 0x59#8 0 1#3 xo seg d, pV imm 0 m 0]
  | .vlds d xo c seg imm m => [pM 0x59#8 0 2#3 xo seg d, pV imm 0 m c]
  | .vsts d xo c seg imm m => [pM 0x59#8 0 3#3 xo seg d, pV imm 0 m c]
  | .vldx d xo c seg imm m => [pM 0x59#8 0 4#3 xo seg d, pV imm 0 m c]
  | .vstx d xo c seg imm m => [pM 0x59#8 0 5#3 xo seg d, pV imm 0 m c]
  | .vclaim nm1 => [pA 0x5C#8 0#9 0 (0#1 ++ nm1) 0]
  | .vrelease => [pA 0x5C#8 1#9 0 0 0]
  | .ldI8 d xo seg disp => [pM 0x60#8 disp 0#3 xo seg d]
  | .ldN8 d xo seg disp => [pM 0x60#8 disp 1#3 xo seg d]
  | .ldI16 d xo seg disp => [pM 0x60#8 disp 2#3 xo seg d]
  | .ldN16 d xo seg disp => [pM 0x60#8 disp 3#3 xo seg d]
  | .ldI32 d xo seg disp => [pM 0x60#8 disp 4#3 xo seg d]
  | .ldN32 d xo seg disp => [pM 0x60#8 disp 5#3 xo seg d]
  | .ldI64 d xo seg disp => [pM 0x60#8 disp 6#3 xo seg d]
  | .lea d xo seg disp => [pM 0x60#8 disp 7#3 xo seg d]
  | .ldI8Mk d xo seg disp nc acq => [pM 0x61#8 0 0#3 xo seg d, pK (acqO acq) nc 0 disp]
  | .ldN8Mk d xo seg disp nc acq => [pM 0x61#8 0 1#3 xo seg d, pK (acqO acq) nc 0 disp]
  | .ldI16Mk d xo seg disp nc acq => [pM 0x61#8 0 2#3 xo seg d, pK (acqO acq) nc 0 disp]
  | .ldN16Mk d xo seg disp nc acq => [pM 0x61#8 0 3#3 xo seg d, pK (acqO acq) nc 0 disp]
  | .ldI32Mk d xo seg disp nc acq => [pM 0x61#8 0 4#3 xo seg d, pK (acqO acq) nc 0 disp]
  | .ldN32Mk d xo seg disp nc acq => [pM 0x61#8 0 5#3 xo seg d, pK (acqO acq) nc 0 disp]
  | .ldI64Mk d xo seg disp nc acq => [pM 0x61#8 0 6#3 xo seg d, pK (acqO acq) nc 0 disp]
  | .leaMk d xo seg disp => [pM 0x61#8 0 7#3 xo seg d, pK .plain false 0 disp]
  | .ldI8Mkl d xo seg lit nc acq => [pM 0x62#8 0 0#3 xo seg d, pK (acqO acq) nc 0 0, lit]
  | .ldN8Mkl d xo seg lit nc acq => [pM 0x62#8 0 1#3 xo seg d, pK (acqO acq) nc 0 0, lit]
  | .ldI16Mkl d xo seg lit nc acq => [pM 0x62#8 0 2#3 xo seg d, pK (acqO acq) nc 0 0, lit]
  | .ldN16Mkl d xo seg lit nc acq => [pM 0x62#8 0 3#3 xo seg d, pK (acqO acq) nc 0 0, lit]
  | .ldI32Mkl d xo seg lit nc acq => [pM 0x62#8 0 4#3 xo seg d, pK (acqO acq) nc 0 0, lit]
  | .ldN32Mkl d xo seg lit nc acq => [pM 0x62#8 0 5#3 xo seg d, pK (acqO acq) nc 0 0, lit]
  | .ldI64Mkl d xo seg lit nc acq => [pM 0x62#8 0 6#3 xo seg d, pK (acqO acq) nc 0 0, lit]
  | .leaMkl d xo seg lit => [pM 0x62#8 0 7#3 xo seg d, pK .plain false 0 0, lit]
  | .stI8 d xo seg disp => [pM 0x64#8 disp 0#3 xo seg d]
  | .stI16 d xo seg disp => [pM 0x64#8 disp 1#3 xo seg d]
  | .stI32 d xo seg disp => [pM 0x64#8 disp 2#3 xo seg d]
  | .stI64 d xo seg disp => [pM 0x64#8 disp 3#3 xo seg d]
  | .stI8Mk d xo seg disp rel => [pM 0x65#8 0 0#3 xo seg d, pK (relO rel) false 0 disp]
  | .stI16Mk d xo seg disp rel => [pM 0x65#8 0 1#3 xo seg d, pK (relO rel) false 0 disp]
  | .stI32Mk d xo seg disp rel => [pM 0x65#8 0 2#3 xo seg d, pK (relO rel) false 0 disp]
  | .stI64Mk d xo seg disp rel => [pM 0x65#8 0 3#3 xo seg d, pK (relO rel) false 0 disp]
  | .stI8Mkl d xo seg lit rel => [pM 0x66#8 0 0#3 xo seg d, pK (relO rel) false 0 0, lit]
  | .stI16Mkl d xo seg lit rel => [pM 0x66#8 0 1#3 xo seg d, pK (relO rel) false 0 0, lit]
  | .stI32Mkl d xo seg lit rel => [pM 0x66#8 0 2#3 xo seg d, pK (relO rel) false 0 0, lit]
  | .stI64Mkl d xo seg lit rel => [pM 0x66#8 0 3#3 xo seg d, pK (relO rel) false 0 0, lit]
  | .amoAdd wide d xo b seg disp acq rel sc => [pM 0x69#8 0#5 (0#2 ++ BitVec.ofBool wide) xo seg d, pKA acq rel sc b disp]
  | .amoAnd wide d xo b seg disp acq rel sc => [pM 0x69#8 1#5 (0#2 ++ BitVec.ofBool wide) xo seg d, pKA acq rel sc b disp]
  | .amoOr wide d xo b seg disp acq rel sc => [pM 0x69#8 2#5 (0#2 ++ BitVec.ofBool wide) xo seg d, pKA acq rel sc b disp]
  | .amoXor wide d xo b seg disp acq rel sc => [pM 0x69#8 3#5 (0#2 ++ BitVec.ofBool wide) xo seg d, pKA acq rel sc b disp]
  | .amoMin wide d xo b seg disp acq rel sc => [pM 0x69#8 4#5 (0#2 ++ BitVec.ofBool wide) xo seg d, pKA acq rel sc b disp]
  | .amoMax wide d xo b seg disp acq rel sc => [pM 0x69#8 5#5 (0#2 ++ BitVec.ofBool wide) xo seg d, pKA acq rel sc b disp]
  | .amoMinn wide d xo b seg disp acq rel sc => [pM 0x69#8 6#5 (0#2 ++ BitVec.ofBool wide) xo seg d, pKA acq rel sc b disp]
  | .amoMaxn wide d xo b seg disp acq rel sc => [pM 0x69#8 7#5 (0#2 ++ BitVec.ofBool wide) xo seg d, pKA acq rel sc b disp]
  | .amoSwap wide d xo b seg disp acq rel sc => [pM 0x69#8 8#5 (0#2 ++ BitVec.ofBool wide) xo seg d, pKA acq rel sc b disp]
  | .amoCas wide d xo b seg disp acq rel sc => [pM 0x69#8 9#5 (0#2 ++ BitVec.ofBool wide) xo seg d, pKA acq rel sc b disp]
  | .amoFadd d xo b seg disp acq rel sc => [pM 0x69#8 10#5 0 xo seg d, pKA acq rel sc b disp]
  | .amoFmin d xo b seg disp acq rel sc => [pM 0x69#8 11#5 0 xo seg d, pKA acq rel sc b disp]
  | .amoFmax d xo b seg disp acq rel sc => [pM 0x69#8 12#5 0 xo seg d, pKA acq rel sc b disp]
  | .fence sc => [pA 0x6C#8 0#9 0 (0#2 ++ sc.code) 0]
  | .fenceAcq sc => [pA 0x6C#8 1#9 0 (0#2 ++ sc.code) 0]
  | .fenceRel sc => [pA 0x6C#8 2#9 0 (0#2 ++ sc.code) 0]
  | .fenceW => [pA 0x6C#8 3#9 0 0 0]
  | .waita cc d xo b seg disp acq => [pM 0x71#8 0 (BitVec.ofNat 3 cc.code) xo seg d, pK (acqO acq) false b disp]
  | .cinv d xo b seg disp => [pM 0x75#8 0 0#3 xo seg d, pK .plain false b disp]
  | .cwb xo b seg disp => [pM 0x75#8 0 1#3 xo seg 0, pK .plain false b disp]
  | .cflush xo b seg disp => [pM 0x75#8 0 2#3 xo seg 0, pK .plain false b disp]
  | .cpref xo b seg disp => [pM 0x75#8 0 3#3 xo seg 0, pK .plain false b disp]
  | .dcopy k rc => [pA 0x81#8 0#9 k.b k.a k.d, pE (BitVec.ofBool k.ds ++ (0#6 ++ BitVec.ofBool rc)) k.c k.cw k.ord k.sb k.sa]
  | .dfill k rn => [pA 0x81#8 1#9 k.b k.a k.d, pE (BitVec.ofBool k.ds ++ (0#6 ++ BitVec.ofBool rn)) k.c k.cw k.ord k.sb k.sa]
  | .dfree a b => [pA 0x81#8 2#9 b a 0, pE 0 0 .none .plain 0 0]
  | .gather k es it => [pA 0x81#8 3#9 k.b k.a k.d, pE (BitVec.ofBool k.ds ++ (0#2 ++ it ++ es)) k.c k.cw k.ord k.sb k.sa]
  | .scatter k es it mode => [pA 0x81#8 4#9 k.b k.a k.d, pE (BitVec.ofBool k.ds ++ (mode ++ it ++ es)) k.c k.cw k.ord k.sb k.sa]
  | .spwalk k wide pos => [pA 0x81#8 5#9 k.b k.a k.d, pE (BitVec.ofBool k.ds ++ (0#5 ++ BitVec.ofBool pos ++ BitVec.ofBool wide)) k.c k.cw k.ord k.sb k.sa]
  | .merge k zd => [pA 0x81#8 6#9 k.b k.a k.d, pE (BitVec.ofBool k.ds ++ (0#6 ++ BitVec.ofBool zd)) k.c k.cw k.ord k.sb k.sa]
  | .mldb k ty sx bank => [pA 0x85#8 0#9 k.b k.a k.d, pE (BitVec.ofBool k.ds ++ bank ++ BitVec.ofBool sx ++ ty.code) k.c k.cw k.ord k.sb k.sa]
  | .mmac k bank pr zc pin => [pA 0x85#8 1#9 k.b k.a k.d, pE (BitVec.ofBool k.ds ++ (0#2 ++ BitVec.ofBool pin ++ BitVec.ofBool zc ++ BitVec.ofBool pr ++ bank)) k.c k.cw k.ord k.sb k.sa]
  | .mmacCoop k bank pr zc => [pA 0x85#8 2#9 k.b k.a k.d, pE (BitVec.ofBool k.ds ++ (0#3 ++ BitVec.ofBool zc ++ BitVec.ofBool pr ++ bank)) k.c k.cw k.ord k.sb k.sa]
  | .rnew d a c sa sp => encodeLate (.rnew d a c sa sp)
  | .rdel b c => encodeLate (.rdel b c)
  | .rld a b c sa acq => encodeLate (.rld a b c sa acq)
  | .rst d a b c sa rel => encodeLate (.rst d a b c sa rel)
  | .rloc d b c => encodeLate (.rloc d b c)
  | .qbox d a b c sa sp => encodeLate (.qbox d a b c sa sp)
  | .qrad d a b c sa sp => encodeLate (.qrad d a b c sa sp)
  | .gld d a b c sa g => encodeLate (.gld d a b c sa g)
  | .gst d a b c sa g => encodeLate (.gst d a b c sa g)
  | .gstep c g => encodeLate (.gstep c g)
  | .put k => encodeLate (.put k)
  | .get k => encodeLate (.get k)
  | .msg d a b c => encodeLate (.msg d a b c)
  | .recv d a sa nb => encodeLate (.recv d a sa nb)
  | .pub d a b c sb cw ds => encodeLate (.pub d a b c sb cw ds)
  | .rblk d => encodeLate (.rblk d)
  | .rblkSet a b => encodeLate (.rblkSet a b)
  | .baddq ty a b c sa sb => encodeLate (.baddq ty a b c sa sb)
  | .sset a sa sb => encodeLate (.sset a sa sb)
  | .ssetT a sa sb => encodeLate (.ssetT a sa sb)
  | .tlbinv wb d a b c => encodeLate (.tlbinv wb d a b c)
  | .gtw a sa g => encodeLate (.gtw a sa g)
  | .pbind gd a sa n => encodeLate (.pbind gd a sa n)
  | .pbindU gd n => encodeLate (.pbindU gd n)
  | .crange clr a b k => encodeLate (.crange clr a b k)
  | .spawn d a sa rel => encodeLate (.spawn d a sa rel)
  | .kchk => [pA 0x94#8 (0#5 ++ 1#4) 0 0 0]
  | .iupd d a b k => encodeLate (.iupd d a b k)
  | .ird d a k => encodeLate (.ird d a k)
  | .bar a => encodeLate (.bar a)
  | .sstep d a => encodeLate (.sstep d a)
  | .dset d a b => encodeLate (.dset d a b)
  | .ddec d a b => encodeLate (.ddec d a b)
  | .contextSwitch _
  | .accessWaitBlock _
  | .fairnessSwitch _
  | .contextReady _
  | .imageLineFill _ _ _
  | .ringEntryComplete _ _
  | .lateFault _ _
  | .pendingTrapTaken _
  | .preemption _
  | .vmaxxContribution _ _ _
  | .exchangeTimeout _ _
  | .taskDispatch _
  | .agingPromotion _ _
  | .shadowUpdate _ _
  | .incctlWrite _ _
  | .incumbentReinitDone _
  | .mailboxPost _ _
  | .mailboxSpawn _
  | .hostQueuePost _ _ _
  | .syncEpisode _
  | .superstepBoundary _
  | .stepCounterIncrement _
  | .l1Fill _ _ _ _
  | .homeRequest _
  | .proxyInvalidateDone _
  | .updateOnlyEviction _ _
  | .drainRequest _ _
  | .acquireComplete _ _ _
  | .rwaysReconfiguration _
  | .translationWalk _ _ _ _
  | .tlbinvAgentReply _ _
  | .engineAccept _ _
  | .chunkIssue _ _
  | .chunkAck _ _ _
  | .engineCompletion _ _
  | .gatherElement _ _ _
  | .agentGroupAccess _ _ _
  | .packedLineReturn _ _ _
  | .spwalkRow _ _
  | .mergeResult _ _
  | .dfillMemberDelivery _ _ _
  | .dfreeArrival _
  | .mldbAccept _ _
  | .bankLoadComplete _ _
  | .matrixAccept _ _
  | .matrixStep _
  | .coopSlotClaim _ _
  | .matrixMigration _ _ _ _
  | .migrationLoadComplete _
  | .bankRestore _ _
  | .haloPartSend _
  | .haloPartArrival _
  | .injectionSend _ _
  | .fabricWriteArrival _
  | .fabricAckArrival _
  | .rateRecovery _ _
  | .retransmit _ _ _ _
  | .putStatusUnknown _ _ _
  | .sequenceReportSend _ _
  | .sequenceReportArrival _ _ _ _ _
  | .sequenceClose _ _ _
  | .creditUpdateSend _
  | .creditUpdateArrival _ _ _ _
  | .msgArrival _
  | .msgRetry _ _
  | .msgSilenceTimeout _ _ _
  | .closeNoticeArrival _ _ _ _
  | .getRequestServe _
  | .peerLinkLoss _
  | .peerRejoin _ _
  | .portBringup _ _ _ _ _
  | .clockDrift _
  | .ldcmdLoad _ _
  | .ldcmdRestore _ _
  | .ckcmdCheckpoint _
  | .checkpointBegin
  | .checkpointQuiesced
  | .checkpointStreamDone
  | .attestation _
  | .mbverSelect _
  | .fabwinWrite _
  | .logCountClear _ _
  | .killcntClear _
  | .mcpop _
  | .registerWrite _ _ _
  | .serviceMachineCheck _
  | .serviceInterrupt _
  | .powerOnReset
  | .computeDieReset
  | .portReset _
  | .powerSample _
  | .clockStep
  | .thermalHold
  | .thermalTrip
  | .bootImageCheck _ _
  | .stagedImageCheck _ _
  | .cxlMemAccess _
  | .cxlMemDuringReset _
  | .cxlCacheAccess _
  | .illegalInstruction _
  | .instructionFetchFault _ _
  | .haloStallLimit _
  | .visibilityWindowBegin
  | .clockDriftRecovery
  | .thermalHoldRelease
  | .tierIslandPowerLoss _
  | .portLinkFailure _ => []

/-- The number of parcels that the length code of a first parcel names; none for L = 0b11 (R71). -/
def lengthOf (p1 : BitVec 32) : Option Nat :=
  match (fL p1).toNat with
  | 0 => some 1
  | 1 => some 2
  | 2 => some 3
  | _ => none

/-- The instruction that the decoder has built. -/
noncomputable def Code.instr (c : Code) : Instr :=
  match c with
  | .core i => i
  | .late l => l.instr

/-- Are the operands such as an encoding can hold (R75)? -/
def Code.wf (c : Code) : Bool :=
  match c with
  | .core i => i.wf
  | .late l => l.wf

/-- The parcels of what the decoder has built. -/
def Code.parcels (c : Code) : List (BitVec 32) :=
  match c with
  | .core i => encode i
  | .late l => encodeLate l

/-- Check 4 of R88: the instruction of the parcels (those that the length code names), or none for an illegal encoding. Every
bit counts (R75): the parcels of the candidate must be the parcels read. -/
def decode (p1 p2 p3 : BitVec 32) : Option Code :=
  match lengthOf p1, readFields p1 p2 p3 with
  | some n, some c => if c.wf && c.parcels == [p1, p2, p3].take n then some c else none
  | _, _ => none

/-- Four bytes as a little-endian parcel (R71). -/
def parcelOf (b0 b1 b2 b3 : Byte) : BitVec 32 := b3 ++ b2 ++ b1 ++ b0

/-- The bytes of a parcel, lowest address first (R71). -/
def parcelBytes (p : BitVec 32) : List Byte :=
  [p.extractLsb' 0 8, p.extractLsb' 8 8, p.extractLsb' 16 8, p.extractLsb' 24 8]

/-- The parcels of a list of bytes; a last parcel that is not whole is left out. -/
def parcelsOf (bs : List Byte) : List (BitVec 32) :=
  match bs with
  | b0 :: b1 :: b2 :: b3 :: rest => parcelOf b0 b1 b2 b3 :: parcelsOf rest
  | _ => []

/-- Checks 2 to 4 of R88 for the bytes that begin at block offset `off` (0 to 31) of a fetch block: the instruction and its
length in bytes, or why there is none. A parcel that the bytes do not hold reads as zero. -/
def decodeAt (off : Nat) (ps : List (BitVec 32)) : Except IllegalWord (Code × Nat) :=
  match ps with
  | [] => .error .encoding
  | p1 :: rest =>
    match lengthOf p1 with
    | none => .error .length
    | some n =>
      if 32 < off + 4 * n then .error .crossing
      else
        match decode p1 (rest.getD 0 0) (rest.getD 1 0) with
        | some c => .ok (c, 4 * n)
        | none => .error .encoding

/-- The decoder on bytes: the instruction that begins the list, and its length (R71). -/
def decodeBytes (bs : List Byte) : Except IllegalWord (Code × Nat) := decodeAt 0 (parcelsOf bs)

/-- The bytes of an instruction, lowest address first. -/
def encodeBytes (i : Instr) : List Byte := (encode i).flatMap parcelBytes

/-- The little-endian bytes of a table word: bit 0 is the least significant bit of the first parcel, and the bits above `nbits`
are 0; twelve bytes, the longest instruction. -/
def tableBytes (nbits w : Nat) : List Byte :=
  (List.range 12).map fun k => if 8 * k < nbits then BitVec.ofNat 8 (w >>> (8 * k)) else 0

/-- The instruction that the decoder reads from a table word. -/
noncomputable def decodeTableWord (nbits w : Nat) : Option Instr :=
  match decodeBytes (tableBytes nbits w) with
  | .ok r => some r.1.instr
  | .error _ => none

end Sys2Proof
end

