-- ==== Sys2Proof/Config.lean ====
section
/-! DEFINITION. What is fixed for the DMV7-768 (file 1): counts and sizes, the numbering of units used as keys, and the values
that the spec leaves open (opaque: nothing can evaluate them). -/

namespace Sys2Proof.Config

/-- Dies of the module (R9). -/
def dies : Nat := 8
/-- Groves of a die (R10). -/
def groves : Nat := 256
/-- Cores of a grove (R11). -/
def cores : Nat := 8
/-- Compute cores of the module. -/
def allCores : Nat := 16384
/-- Service cores of a die (R12). -/
def serviceCores : Nat := 4
/-- Bytes of a grove's cluster memory (R161). -/
def clusterBytes : Nat := 0x180000
/-- Bytes of HBM4E (R162). -/
def hbmBytes : Nat := 0x00C000000000
/-- First physical address of the tier (R162). -/
def tierBase : Nat := 0x100000000000
/-- Bytes of the tier (R162). -/
def tierBytes : Nat := 0x030000000000
/-- First physical address of host memory (R162). -/
def hostBase : Nat := 0x8000000000000
/-- First physical address past host memory (R162). -/
def hostEnd : Nat := 0x10000000000000
/-- HBM bytes homed on one die (R162): 96 GiB. -/
def hbmPerDie : Nat := 0x1800000000
/-- Tier bytes homed on one die (R162): 384 GiB. -/
def tierPerDie : Nat := 0x6000000000

/-- The signature that SM2 gives a report (R420): the spec names the algorithm and not the value (log 7). -/
opaque sm2Sign : List (BitVec 8) → List (BitVec 8)
/-- Does an image of a die verify (R419): the spec names the algorithm and the keys, not their values (log 7). -/
opaque imageVerifies : Nat → List (BitVec 8) → Bool
/-- The module's serial number (R420), which the spec does not give (log 7). -/
opaque serial : BitVec 64
/-- The SM3 digest of the boot ROM (R420), which the spec does not give (log 7). -/
opaque bootRomDigest : BitVec 256
/-- Where the firmware context of service core n of a die begins (R23): the firmware image's layout is not given (log 7). -/
opaque firmwareEntry : Nat → BitVec 64

/-- The record of a corrected error (R178): the spec has it counted in the die's error log and gives the log no SRC for it (R411), so
its first word is open (log 21). The argument is the physical address. -/
opaque correctedRecord : Nat → BitVec 64

/-- The same for an error in SRAM that is corrected (R178, log 21). The argument is a number for the place. -/
opaque correctedSite : Nat → BitVec 64

/-- The DATA of the fault of an instruction fetch whose leaf leads to a physical address of no memory, which R360 does not give
(log 19). The argument is the physical address. -/
opaque fetchDetail : Nat → Nat

/-- Does the sender of a halo strip know, at a cycle, that a receiver on another device has committed a step (R266 step 4)? The spec does
not say how a module learns of it (log 80). The arguments are grid, receiving block, step and cycle. -/
opaque peerCommits : Nat → Nat → Nat → Nat → Bool

/-- The state block that firmware writes to HBM for a checkpoint (R422 step 4), whose layout the spec does not give (log 22). The argument is the
number of checkpoints kept before it. -/
opaque stateBlock : Nat → List (BitVec 8)

/-- Where in HBM firmware puts the state block (R422 step 4), which the spec does not give (log 22). The argument is the same. -/
opaque stateBlockAt : Nat → Nat

end Sys2Proof.Config
end

