-- ==== Sys2Proof/Machine/Flags.lean ====
section
/-! DEFINITION. Number formats, rounding and the floating-point flags (file 2): exact values, the encodings of R24 to R31, the
rounding of R34 to R38, block quantisation (R33), minimum, maximum and keys (R39, R40), the matrix step (R43) and `baddq`
(R45). A value is exact until it is rounded once; a bit below the last one kept stands for a value that lies between. -/

namespace Sys2Proof.Machine

/-- The flags NV, DZ, OF, UF, NX in bits 4 to 0 (R36). -/
abbrev FFlags := BitVec 5

/-- NV (R36). -/
def fNV : FFlags := 0b10000#5
/-- DZ (R36). -/
def fDZ : FFlags := 0b01000#5
/-- OF (R36). -/
def fOF : FFlags := 0b00100#5
/-- UF (R36). -/
def fUF : FFlags := 0b00010#5
/-- NX (R36). -/
def fNX : FFlags := 0b00001#5
/-- No flag. -/
def fNone : FFlags := 0#5

/-- An exact value: NaN, an infinity, or (−1)^neg · m · 2^e (R24 to R29). A zero keeps its sign. -/
inductive FV
  | nan
  | inf (neg : Bool)
  | fin (neg : Bool) (m : Nat) (e : Int)
  deriving DecidableEq, Repr

/-- +0. -/
def FV.zero : FV := .fin false 0 0

/-- A floating-point encoding of R24: exponent and fraction widths, the bias, whether it has infinities, and the bits of its
largest finite magnitude and of its canonical NaN (R25). -/
structure FloatFmt where
  ebits : Nat
  fbits : Nat
  bias : Nat
  hasInf : Bool
  maxMag : Nat
  qnan : Nat
  deriving DecidableEq, Repr

/-- FP32 (R24). -/
def fmtF32 : FloatFmt := ⟨8, 23, 127, true, 0x7F7FFFFF, 0x7FC00000⟩
/-- BF16 (R24). -/
def fmtBf16 : FloatFmt := ⟨8, 7, 127, true, 0x7F7F, 0x7FC0⟩
/-- FP16 (R24). -/
def fmtF16 : FloatFmt := ⟨5, 10, 15, true, 0x7BFF, 0x7E00⟩
/-- E4M3 (R24): no infinities. -/
def fmtE4m3 : FloatFmt := ⟨4, 3, 7, false, 0x7E, 0x7F⟩
/-- E5M2 (R24). -/
def fmtE5m2 : FloatFmt := ⟨5, 2, 15, true, 0x7B, 0x7E⟩

/-- The exact value of an encoding (R24). -/
def FloatFmt.val (f : FloatFmt) (bits : Nat) : FV :=
  let frac := bits % 2 ^ f.fbits
  let ef := (bits / 2 ^ f.fbits) % 2 ^ f.ebits
  let neg := (bits / 2 ^ (f.fbits + f.ebits)) % 2 == 1
  let mag := ef * 2 ^ f.fbits + frac
  if f.maxMag < mag then
    if f.hasInf && frac == 0 then .inf neg else .nan
  else if ef = 0 then .fin neg frac (1 - (f.bias : Int) - (f.fbits : Int))
  else .fin neg (2 ^ f.fbits + frac) ((ef : Int) - (f.bias : Int) - (f.fbits : Int))

/-- Does a magnitude that lies `rem` above `q` units of `2 ^ s` round up (R34)? -/
def roundUp (rm : Rm) (neg : Bool) (q rem s : Nat) : Bool :=
  match rm with
  | .rne => decide (2 ^ s < 2 * rem) || (2 * rem == 2 ^ s && q % 2 == 1)
  | .rz => false
  | .ru => rem != 0 && !neg
  | .rd => rem != 0 && neg

/-- The integer nearest to `m · 2^e` in units of `2^q` under the mode, and whether it is inexact. -/
def roundAt (rm : Rm) (neg : Bool) (m : Nat) (e q : Int) : Nat × Bool :=
  if q ≤ e then (m * 2 ^ (e - q).toNat, false)
  else
    let s := (q - e).toNat
    let k := m / 2 ^ s
    let rem := m % 2 ^ s
    (if roundUp rm neg k rem s then k + 1 else k, rem != 0)

/-- The bits of a sign and magnitude. -/
def FloatFmt.signed (f : FloatFmt) (neg : Bool) (mag : Nat) : Nat :=
  if neg then 2 ^ (f.fbits + f.ebits) + mag else mag

/-- The bits of infinity; the largest finite magnitude where there is none (R35). -/
def FloatFmt.infBits (f : FloatFmt) (neg : Bool) : Nat :=
  f.signed neg (if f.hasInf then f.maxMag + 1 else f.maxMag)

/-- The magnitude of an overflow (R35). -/
def FloatFmt.overflowMag (f : FloatFmt) (rm : Rm) (neg : Bool) : Nat :=
  let toInf :=
    match rm with
    | .rne => true
    | .rz => false
    | .ru => !neg
    | .rd => neg
  if f.hasInf && toInf then f.maxMag + 1 else f.maxMag

/-- Round an exact value once into a floating-point format (R34 to R36, R38): bits and flags. -/
def FloatFmt.round (f : FloatFmt) (rm : Rm) (v : FV) : Nat × FFlags :=
  match v with
  | .nan => (f.qnan, fNone)
  | .inf neg => (f.infBits neg, if f.hasInf then fNone else fOF)
  | .fin neg 0 _ => (f.signed neg 0, fNone)
  | .fin neg m e =>
    let top : Int := (Nat.log2 m : Int) + e
    let emin : Int := 1 - (f.bias : Int)
    let qmin : Int := emin - (f.fbits : Int)
    let q : Int := max (top - (f.fbits : Int)) qmin
    let r := roundAt rm neg m e q
    let mag := (q - qmin).toNat * 2 ^ f.fbits + r.1
    if f.maxMag < mag then (f.signed neg (f.overflowMag rm neg), fOF ||| fNX)
    else
      let free := roundAt rm neg m e (top - (f.fbits : Int))
      let tiny := decide (top < emin - 1) || (top == emin - 1 && free.1 != 2 ^ (f.fbits + 1))
      (f.signed neg mag, if r.2 then (if tiny then fUF ||| fNX else fNX) else fNone)

/-- `RoundF32` (R34): the FP32 bits of an exact value, and its flags. -/
def roundF32 (rm : Rm) (v : FV) : BitVec 32 × FFlags :=
  let r := fmtF32.round rm v
  (BitVec.ofNat 32 r.1, r.2)

/-- The exact value of FP32 bits. -/
def valF32 (b : BitVec 32) : FV := fmtF32.val b.toNat

/-- The canonical FP32 NaN (R25). -/
def qnan32 : BitVec 32 := 0x7FC00000#32

/-- Is an FP32 encoding a NaN (R24)? -/
def isNan32 (b : BitVec 32) : Bool := (b.extractLsb' 23 8 == 0xFF#8) && (b.extractLsb' 0 23 != 0#23)

/-- The signed integer of a sign and magnitude. -/
def sgnInt (neg : Bool) (m : Nat) : Int := if neg then -(m : Int) else (m : Int)

/-- The exact value of an integer: zero is +0 (R38). -/
def FV.ofInt (i : Int) : FV := .fin (decide (i < 0)) i.natAbs 0

/-- Change the sign. -/
def FV.neg (v : FV) : FV :=
  match v with
  | .nan => .nan
  | .inf n => .inf (!n)
  | .fin n m e => .fin (!n) m e

/-- Is the value a zero? -/
def FV.isZero (v : FV) : Bool :=
  match v with
  | .fin _ 0 _ => true
  | _ => false

/-- The exact sum under the zero signs of R26, and NV for ∞ + (−∞). -/
def FV.add (rm : Rm) (x y : FV) : FV × FFlags :=
  match x, y with
  | .nan, _ => (.nan, fNone)
  | _, .nan => (.nan, fNone)
  | .inf a, .inf b => if a == b then (.inf a, fNone) else (.nan, fNV)
  | .inf a, _ => (.inf a, fNone)
  | _, .inf b => (.inf b, fNone)
  | .fin a m e, .fin b n g =>
    if m == 0 && n == 0 then (.fin (if a == b then a else rm == .rd) 0 0, fNone)
    else
      let lo := min e g
      let t := sgnInt a (m * 2 ^ (e - lo).toNat) + sgnInt b (n * 2 ^ (g - lo).toNat)
      if t = 0 then (.fin (rm == .rd) 0 0, fNone) else (.fin (decide (t < 0)) t.natAbs lo, fNone)

/-- The exact product, and NV for 0 · ∞ (R36). -/
def FV.mul (x y : FV) : FV × FFlags :=
  match x, y with
  | .nan, _ => (.nan, fNone)
  | _, .nan => (.nan, fNone)
  | .inf a, .inf b => (.inf (a != b), fNone)
  | .inf a, .fin b n _ => if n = 0 then (.nan, fNV) else (.inf (a != b), fNone)
  | .fin a m _, .inf b => if m = 0 then (.nan, fNV) else (.inf (a != b), fNone)
  | .fin a m e, .fin b n g => (.fin (a != b) (m * n) (e + g), fNone)

/-- The quotient: exact to the last bit kept, which also stands for a remainder (R144). -/
def FV.div (x y : FV) : FV × FFlags :=
  match x, y with
  | .nan, _ => (.nan, fNone)
  | _, .nan => (.nan, fNone)
  | .inf _, .inf _ => (.nan, fNV)
  | .inf a, .fin b _ _ => (.inf (a != b), fNone)
  | .fin a _ _, .inf b => (.fin (a != b) 0 0, fNone)
  | .fin a m e, .fin b n g =>
    if n = 0 then (if m = 0 then (.nan, fNV) else (.inf (a != b), fDZ))
    else
      let q := (m * 2 ^ 64) / n
      let r := (m * 2 ^ 64) % n
      (.fin (a != b) (2 * q + (if r = 0 then 0 else 1)) (e - g - 65), fNone)

/-- The integer square root, bit by bit from bit `k − 1` down. -/
def isqrtFrom (k : Nat) (n r : Nat) : Nat :=
  match k with
  | 0 => r
  | k + 1 => isqrtFrom k n (if (r + 2 ^ k) * (r + 2 ^ k) ≤ n then r + 2 ^ k else r)

/-- The integer square root of a number below 2^(2·80). -/
def isqrt (n : Nat) : Nat := isqrtFrom 80 n 0

/-- The square root, exact to the last bit kept (R126, R144). -/
def FV.sqrt (x : FV) : FV × FFlags :=
  match x with
  | .nan => (.nan, fNone)
  | .inf true => (.nan, fNV)
  | .inf false => (.inf false, fNone)
  | .fin a m e =>
    if m = 0 then (.fin a 0 0, fNone)
    else if a then (.nan, fNV)
    else
      let odd := e % 2
      let n := m * 2 ^ odd.toNat * 2 ^ 60
      let r := isqrt n
      (.fin false (2 * r + (if r * r = n then 0 else 1)) ((e - odd) / 2 - 31), fNone)

/-- The reciprocal square root, exact to the last bit kept (R144). -/
def FV.rsqrt (x : FV) : FV × FFlags :=
  match x with
  | .nan => (.nan, fNone)
  | .inf true => (.nan, fNV)
  | .inf false => (.fin false 0 0, fNone)
  | .fin a m e =>
    if m = 0 then (.inf a, fDZ)
    else if a then (.nan, fNV)
    else
      let odd := e % 2
      let n := m * 2 ^ odd.toNat
      let r := isqrt (2 ^ 140 / n)
      (.fin false (2 * r + (if r * r * n = 2 ^ 140 then 0 else 1)) (-((e - odd) / 2) - 71), fNone)

/-- ln 2 · 2^320, truncated. -/
def ln2Fix : Nat := 0xb17217f7d1cf79abc9e3b39803f2f6af40f343267298b62d8a0d175b8baafa2be7b876206debac98

/-- Terms of the exponential series in units of 2^−320: the term of index `i`, then the rest. -/
def expSeries (k : Nat) (x i term acc : Nat) : Nat :=
  match k with
  | 0 => acc
  | k + 1 => expSeries k x (i + 1) (term * x / 2 ^ 320 / i) (acc + term)

/-- 2^a (R144): exact for an integer a; otherwise to about 300 bits, of which rounding uses 25 and the last kept bit stands for
the rest. DEDUCED (log 9): no FP32 argument brings 2^a so near a rounding boundary that 300 bits do not tell. -/
def FV.exp2 (x : FV) : FV × FFlags :=
  match x with
  | .nan => (.nan, fNone)
  | .inf true => (.fin false 0 0, fNone)
  | .inf false => (.inf false, fNone)
  | .fin a m e =>
    let i := sgnInt a m
    if 0 ≤ e then
      (.fin false 1 (max (-2000) (min 2000 (i * 2 ^ (min e 20).toNat))), fNone)
    else
      let s := (-e).toNat
      let n := i / 2 ^ s
      let f := (i % 2 ^ s).toNat
      if f = 0 then (.fin false 1 (max (-2000) (min 2000 n)), fNone)
      else
        let y := f * ln2Fix / 2 ^ s
        (.fin false (2 * expSeries 90 y 1 (2 ^ 320) 0 + 1) (max (-2000) (min 2000 n) - 321), fNone)

/-- Order of two magnitudes `m · 2^e`: is the first below the second? -/
def magLt (m : Nat) (e : Int) (n : Nat) (g : Int) : Bool :=
  let lo := min e g
  decide (m * 2 ^ (e - lo).toNat < n * 2 ^ (g - lo).toNat)

/-- The ordered key of FP32 bits (R40). -/
def orderedKey (b : BitVec 32) : BitVec 32 := if b.getLsbD 31 then ~~~b else b ^^^ 0x80000000#32

/-- FP32 minimum (R39). -/
def minF32 (a b : BitVec 32) : BitVec 32 :=
  if isNan32 a || isNan32 b then qnan32 else if orderedKey a ≤ orderedKey b then a else b

/-- FP32 maximum (R39). -/
def maxF32 (a b : BitVec 32) : BitVec 32 :=
  if isNan32 a || isNan32 b then qnan32 else if orderedKey a ≤ orderedKey b then b else a

/-- The relation of an FP32 comparison when neither operand is NaN: is a below b, and are they equal? (−0 equals +0, R127.) -/
def cmpF32 (a b : BitVec 32) : Bool × Bool :=
  let za := a.extractLsb' 0 31 == 0#31
  let zb := b.extractLsb' 0 31 == 0#31
  if za && zb then (false, true) else (decide (orderedKey a < orderedKey b), a == b)

/-- A floating-point condition (R77), and NV for an ordering of a NaN (R127, R146). -/
def fpCond (cc : FpCc) (a b : BitVec 32) : Bool × FFlags :=
  if isNan32 a || isNan32 b then
    match cc with
    | .ne | .un => (true, fNone)
    | .eq | .ord => (false, fNone)
    | .lt | .le | .gt | .ge => (false, fNV)
  else
    let c := cmpF32 a b
    (match cc with
     | .eq => c.2
     | .ne => !c.2
     | .lt => c.1
     | .le => c.1 || c.2
     | .gt => !(c.1 || c.2)
     | .ge => !c.1
     | .un => false
     | .ord => true, fNone)

/-- An integer condition on words of a width (R76). -/
def intCond {w : Nat} (cc : IntCc) (a b : BitVec w) : Bool :=
  match cc with
  | .eq => a == b
  | .ne => a != b
  | .lt => a.slt b
  | .ge => !(a.slt b)
  | .ltn => a.ult b
  | .gen => !(a.ult b)
  | .gt => b.slt a
  | .le => !(b.slt a)
  | .gtn => b.ult a
  | .len => !(b.ult a)

/-- T of R29. -/
def lgT (f : Nat) : Nat :=
  match f with
  | 0 => 1024 | 1 => 1218 | 2 => 1448 | _ => 1722

/-- (−1)^neg · 2^(k/4) by the table T (R29, R30). -/
def lgVal (neg : Bool) (k : Int) : FV := .fin neg (lgT (k % 4).toNat) (k / 4 - 10)

/-- The value of an LG6 code in bits 5:0 (R28, R29). -/
def valLg6 (bits : Nat) : FV :=
  let c := bits % 32
  let neg := (bits / 32) % 2 == 1
  if c = 0 then (if neg then .nan else .fin false 0 0) else lgVal neg ((c : Int) - 16)

/-- The product of two LG6 values (R30). -/
def lgMul (x y : Nat) : FV :=
  let cx := x % 32
  let cy := y % 32
  let sx := (x / 32) % 2 == 1
  let sy := (y / 32) % 2 == 1
  if (sx && cx == 0) || (sy && cy == 0) then .nan
  else if cx == 0 || cy == 0 then .fin false 0 0
  else lgVal (sx != sy) ((cx : Int) + (cy : Int) - 32)

/-- The fraction field of threshold m (R31). -/
def lgF (m : Nat) : Nat :=
  match m with
  | 1 => 0x0B95C2 | 3 => 0x25FED7 | 5 => 0x45672A | _ => 0x6AC0C7

/-- The threshold of index j (R31) as a magnitude `m · 2^e`; j = 31 is the overflow threshold. -/
def lgTheta (j : Nat) : Nat × Int :=
  let k : Int := 2 * (j : Int) - 31
  (2 ^ 23 + lgF (k % 8).toNat, k / 8 - 23)

/-- How many of the thresholds 0 to `k − 1` lie below a magnitude, and whether it equals one of them, with its index. -/
def lgCount (k : Nat) (m : Nat) (e : Int) : Nat × Option Nat :=
  match k with
  | 0 => (0, none)
  | k + 1 =>
    let t := lgTheta k
    let rest := lgCount k m e
    if magLt t.1 t.2 m e then (rest.1 + 1, rest.2)
    else if magLt m e t.1 t.2 then rest
    else (rest.1, some k)

/-- `ToLG6` (R31). -/
def toLg6 (v : FV) : Nat × FFlags :=
  match v with
  | .nan => (0x20, fNone)
  | .inf neg => ((if neg then 32 else 0) + 31, fOF ||| fNX)
  | .fin neg m e =>
    let s : Nat := if neg then 32 else 0
    if m = 0 then (0, fNone)
    else if !(magLt m e (lgTheta 31).1 (lgTheta 31).2) then (s + 31, fOF ||| fNX)
    else
      let r := lgCount 31 m e
      let c : Nat :=
        match r.2 with
        | some j => if j % 2 = 0 then j else j + 1
        | none => r.1
      if c = 0 then (0, fUF ||| fNX)
      else
        match lgVal false ((c : Int) - 16) with
        | .fin _ n g => (s + c, if !(magLt m e n g) && !(magLt n g m e) then fNone else fNX)
        | _ => (s + c, fNone)

/-- Width in bits of a format (R5, R28: LG6 is 6). -/
def fmtWidth (f : Fmt) : Nat :=
  match f with
  | .f32 | .i32 | .n32 => 32
  | .bf16 | .f16 | .i16 | .n16 => 16
  | .e4m3 | .e5m2 | .i8 | .n8 => 8
  | .lg6 => 6
  | .i64 | .n64 => 64

/-- The floating-point encoding of a format, if it is one of R24. -/
def fmtFloat (f : Fmt) : Option FloatFmt :=
  match f with
  | .f32 => some fmtF32
  | .bf16 => some fmtBf16
  | .f16 => some fmtF16
  | .e4m3 => some fmtE4m3
  | .e5m2 => some fmtE5m2
  | _ => none

/-- Is a format a signed integer? -/
def fmtSigned (f : Fmt) : Bool :=
  match f with
  | .i8 | .i16 | .i32 | .i64 => true
  | _ => false

/-- Is a format an integer? -/
def fmtInteger (f : Fmt) : Bool :=
  match f with
  | .i8 | .i16 | .i32 | .i64 | .n8 | .n16 | .n32 | .n64 => true
  | _ => false

/-- The two's-complement value of the low `w` bits. -/
def toSigned (w n : Nat) : Int :=
  let k := n % 2 ^ w
  if k < 2 ^ (w - 1) then (k : Int) else (k : Int) - 2 ^ w

/-- The exact value of an element of a format (R24, R27, R29). -/
def valFmt (f : Fmt) (bits : Nat) : FV :=
  match fmtFloat f with
  | some ff => ff.val bits
  | none =>
    match f with
    | .lg6 => valLg6 bits
    | _ =>
      if fmtSigned f then FV.ofInt (toSigned (fmtWidth f) bits)
      else FV.ofInt ((bits % 2 ^ fmtWidth f : Nat) : Int)

/-- The smallest value of an integer format (R27). -/
def intLo (f : Fmt) : Int := if fmtSigned f then -(2 ^ (fmtWidth f - 1)) else 0

/-- The largest value of an integer format (R27). -/
def intHi (f : Fmt) : Int := if fmtSigned f then 2 ^ (fmtWidth f - 1) - 1 else 2 ^ fmtWidth f - 1

/-- The low `w` bits of an integer. -/
def intBits (w : Nat) (i : Int) : Nat := (i % 2 ^ w).toNat

/-- A value rounded to an integer under the mode, with whether it is inexact (R38). -/
def roundInt (rm : Rm) (neg : Bool) (m : Nat) (e : Int) : Int × Bool :=
  let r := roundAt rm neg m e 0
  (sgnInt neg r.1, r.2)

/-- Conversion to an integer format (R38). The source is an integer when `fromInt` holds. -/
def toIntFmt (f : Fmt) (rm : Rm) (fromInt : Bool) (v : FV) : Nat × FFlags :=
  match v with
  | .nan => (0, fNV)
  | .inf neg => (intBits (fmtWidth f) (if neg then intLo f else intHi f), fNV)
  | .fin neg m e =>
    let r := roundInt rm neg m e
    let sat := if r.1 < intLo f then intLo f else if intHi f < r.1 then intHi f else r.1
    (intBits (fmtWidth f) sat,
      if fromInt then fNone else if sat = r.1 then (if r.2 then fNX else fNone) else fNV)

/-- Conversion of an exact value into a format (R31, R38): the bits and the flags. -/
def convertTo (dst : Fmt) (rm : Rm) (fromInt : Bool) (v : FV) : Nat × FFlags :=
  match fmtFloat dst with
  | some ff => ff.round rm v
  | none =>
    match dst with
    | .lg6 => toLg6 v
    | _ => toIntFmt dst rm fromInt v

/-- Conversion between two formats (R38). -/
def convert (dst src : Fmt) (rm : Rm) (bits : Nat) : Nat × FFlags :=
  convertTo dst rm (fmtInteger src) (valFmt src bits)

/-- Is a stored element zero (R49)? -/
def zeroEnc (f : Fmt) (bits : Nat) : Bool :=
  match fmtFloat f with
  | some ff => bits % 2 ^ (ff.fbits + ff.ebits) == 0
  | none => bits % 2 ^ fmtWidth f == 0

/-- Multiply exactly by 2^k. -/
def FV.scale (v : FV) (k : Int) : FV :=
  match v with
  | .fin n m e => .fin n m (e + k)
  | w => w

/-- An element under an E8 scale (R32). -/
def scaled (e8 : Nat) (v : FV) : FV := if e8 = 0xFF then .nan else v.scale ((e8 : Int) - 127)

/-- EMAX of R33. -/
def blockEmax (f : Fmt) : Int :=
  match f with
  | .e4m3 => 8 | .e5m2 => 15 | .lg6 => 3 | _ => 6

/-- floor(log2) of the largest magnitude of finite values; none when all are zero. -/
def maxLog (vs : List FV) : Option Int :=
  vs.foldl (fun acc v =>
    match v with
    | .fin _ m e =>
      if m = 0 then acc
      else
        let t : Int := (Nat.log2 m : Int) + e
        match acc with
        | none => some t
        | some u => some (max t u)
    | _ => acc) none

/-- One element of R33 from the exact y. -/
def blockElem (f : Fmt) (y : FV) : Nat × FFlags :=
  match f with
  | .lg6 => toLg6 y
  | .e4m3 => fmtE4m3.round .rne y
  | .e5m2 =>
    let r := fmtE5m2.round .rne y
    if r.1 % 128 = 0x7C then (r.1 - 1, r.2) else r
  | _ =>
    match y with
    | .fin neg m e =>
      let r := roundInt .rne neg m e
      let c := if r.1 < -127 then -127 else if 127 < r.1 then 127 else r.1
      (intBits 8 c,
        if c ≠ r.1 then fOF ||| fNX
        else if r.2 then (if c = 0 then fUF ||| fNX else fNX) else fNone)
    | _ => (0, fNone)

/-- `BlockQuant` (R33) of the values, with further values that join the maximum only (R153): elements, scale, flags. -/
def blockQuant (f : Fmt) (xs extra : List FV) : List Nat × Nat × FFlags :=
  let all := xs ++ extra
  let isInf := fun v : FV => match v with | .inf _ => true | _ => false
  if all.any (fun v => v == .nan || isInf v) then
    let nanBits := match f with | .e4m3 => 0x7F | .e5m2 => 0x7E | .lg6 => 0x20 | _ => 0x00
    (xs.map (fun _ => nanBits), 0xFF, if all.any isInf then fNV else fNone)
  else
    let e8 : Int :=
      match maxLog all with
      | none => 0
      | some t => max 0 (min 254 (t - blockEmax f + 127))
    let els := xs.map (fun x => blockElem f (x.scale (127 - e8)))
    (els.map Prod.fst, e8.toNat,
      (xs.zip els).foldl (fun acc p =>
        acc ||| p.2.2 ||| (if !p.1.isZero && zeroEnc f p.2.1 then fUF else fNone)) fNone)

/-- `TruncZ` to a multiple of 2^q, in units of 2^q (R43). -/
def truncZ (v : FV) (q : Int) : Int :=
  match v with
  | .fin neg m e =>
    sgnInt neg (if q ≤ e then m * 2 ^ (e - q).toNat else m / 2 ^ (q - e).toNat)
  | _ => 0

/-- Is a value −0? -/
def FV.isNegZero (v : FV) : Bool :=
  match v with
  | .fin true 0 _ => true
  | _ => false

/-- `MatStep` (R43) on the old accumulator and the exact products of one slab (NaN where a product is 0 · ∞). -/
def matStep (cold : BitVec 32) (prods : List FV) : BitVec 32 :=
  let ts := valF32 cold :: prods
  if ts.any (fun v => v == .nan) || (ts.contains (.inf false) && ts.contains (.inf true)) then qnan32
  else if ts.contains (.inf false) then 0x7F800000#32
  else if ts.contains (.inf true) then 0xFF800000#32
  else
    match maxLog ts with
    | none => if ts.all FV.isNegZero then 0x80000000#32 else 0#32
    | some top =>
      let q := top - 47
      let sum := ts.foldl (fun acc v => acc + truncZ v q) 0
      (roundF32 .rne ((FV.ofInt sum).scale q)).1

/-- The sum of two exact values for `baddq` (R45): no range and no rounding. -/
def baddSum (x y : FV) : FV := (FV.add .rne x y).1

/-- FP32 addition rounded with RNE (R48, R185). -/
def addRne (a b : BitVec 32) : BitVec 32 := (roundF32 .rne (FV.add .rne (valF32 a) (valF32 b)).1).1

/-- Bytes of a packed LG6 run of 32 elements (R28). -/
def packLg6 (els : List Nat) : List Byte :=
  let n := els.foldr (fun x acc => acc * 64 + x % 64) 0
  (List.range 24).map fun k => BitVec.ofNat 8 (n >>> (8 * k))

/-- Elements of a packed LG6 run: element i is bits 6i + 5 : 6i (R28). -/
def unpackLg6 (bytes : List Byte) (count : Nat) : List Nat :=
  let n := bytes.foldr (fun b acc => acc * 256 + b.toNat) 0
  (List.range count).map fun i => (n >>> (6 * i)) % 64

/-- The element values of a stored block (R153: 32 elements, then the scale), each under its scale (R32). -/
def blockVals (f : Fmt) (bytes : List Byte) : List FV :=
  let e8 := (bytes.getD 32 0).toNat
  let els := if f = .lg6 then unpackLg6 (bytes.take 24) 32 else (bytes.take 32).map BitVec.toNat
  els.map fun x => scaled e8 (valFmt f x)

/-- The 64 bytes of a block: elements, scale in byte 32, zeros (R153, R351). -/
def blockBytes (f : Fmt) (els : List Nat) (e8 : Nat) : List Byte :=
  let body := if f = .lg6 then packLg6 els ++ List.replicate 8 0 else els.map (BitVec.ofNat 8)
  body ++ [BitVec.ofNat 8 e8] ++ List.replicate 31 0

/-- `baddq` on two stored blocks (R45). -/
def baddq (f : Fmt) (a b : List Byte) : List Byte :=
  let sums := (List.zip (blockVals f a) (blockVals f b)).map fun p => baddSum p.1 p.2
  let r := blockQuant f sums []
  blockBytes f r.1 r.2.1

end Sys2Proof.Machine
end

