-- ==== Sys2Proof/Machine/State.lean ====
section
/-! DEFINITION. The state of one module: contexts, cores, groves, dies, memories and units, as plain data (files 1, 5, 8 to 20),
the reasons a step can stop, and the machine after reset. Tables are sparse: a unit that is not listed is as after reset. Keys:
core = die · 2048 + grove · 8 + core (R366), service core n of die d = 16384 + 4d + n, grove = die · 256 + grove,
context = die · 65536 + image number (R327). -/

namespace Sys2Proof.Machine

open Sys2Proof

/-- Reasons to stop that the machine itself knows: none. Every fault of the V7 is a trap (R396), so this type has one
constructor that nothing raises; it is safe. -/
inductive Fault
  /-- Raised by nothing: the spec describes the entry of every trap. Safe. -/
  | none
  deriving DecidableEq, Repr

/-- Reasons to have no meaning. -/
inductive Refusal
  /-- An arm of `exec` that has no meaning yet. Safe: the machine stops. -/
  | notModelled (mnemonic : String)
  /-- `exec` was asked to run an instruction on a core with no active context: no such step exists (R23). Safe. -/
  | noContext
  deriving DecidableEq, Repr

/-- Memory: pairs of address and byte, addresses strictly rising, no byte equal to 0, what an unlisted address reads as. -/
abbrev Memory := List Host.Cell

/-- A segment descriptor: its 32 bytes as four words (R356). -/
structure Desc where
  w0 : Word
  w1 : Word
  w2 : Word
  w3 : Word
  deriving DecidableEq, Repr

/-- What a fault writes into the fault registers (R100, R399). -/
structure FaultRec where
  code : Nat
  data : Nat
  va : Nat
  w : Bool
  late : Bool
  seq : Option Nat
  step : Nat
  deriving DecidableEq, Repr

/-- A saved ring entry: parcels, captured values and control word (R403). `pc` is the address of its instruction, which the entry
keeps (R399) and the 48 bytes do not hold, `ord` its place in the order of dispatch, by which the area is in order (log 10), and `passed`
what a matrix command has passed (log 78). -/
structure SavedEntry where
  parcels : Word
  captured : BitVec 256
  control : Word
  pc : Word
  ord : Nat
  passed : Option (Nat × Bool)
  deriving DecidableEq, Repr

/-- The context image (R92). The image holds x0 as 0 always. `spare` is what the ring save area holds above the saved entries (R94). -/
structure Image where
  x : Vector Word 32
  v : Vector (BitVec 512) 32
  slots : Vector Desc 64
  pc : Word
  status : Word
  pfx : Word
  fpflags : Word
  epc : Word
  esta : Word
  epfx : Word
  fva : Word
  faultinfo : Word
  fsq : Word
  mwgt : Word
  taskIndex : Word
  bound : Word
  args : BitVec 256
  saved : List SavedEntry
  spare : List SavedEntry
  div0 : Word
  div1 : Word
  dep : Word
  deriving DecidableEq, Repr

/-- How far a ring entry has come: waiting; a `vmaxx` that has read its source and waits for contributions; a command in a matrix
queue; an entry whose operation has failed and whose late fault is still to be raised (R402). -/
inductive RingPhase
  | waiting
  | exchanging (v : BitVec 512)
  | queued
  | faulted (f : FaultRec)
  deriving DecidableEq, Repr

/-- A coprocessor-ring entry (R141, R194, R357, R403): the captured values of fields a (or xo), b, c and d and of the slots
sa (or seg) and sb, the modes, the prefix, the weight, the dependency slot, and the parts of R403 for re-dispatch, `first` being the
sequence number of the first dispatch, `at_` the time of this dispatch and `ord` its place in the order of all dispatches; of a matrix command the
class under which it has passed checks 3 and 4 of R208, and whether it has recorded its GENs (R218). -/
structure RingEntry where
  seq : BitVec 16
  first : BitVec 16
  pc : Word
  instr : Instr
  xa : Word
  xb : Word
  xc : Word
  xd : Word
  sa : Desc
  sb : Desc
  rm : Rm
  duo : Bool
  pay : Option (BitVec 24)
  wgt : BitVec 4
  dep : Word
  k : Nat
  g0 : Nat
  gen0 : BitVec 32
  gen1 : BitVec 32
  packed : Bool
  passed : Option (Nat × Bool)
  again : Bool
  at_ : Nat
  ord : Nat
  phase : RingPhase
  deriving DecidableEq, Repr

/-- What a blocked context waits for (R104, R110, R189). -/
inductive Wait
  | access
  | watch
  | barrier
  | recv
  | halo
  | claim
  | reentry
  deriving DecidableEq, Repr

/-- A `fence.w` that has begun to wait (R189): its pc, the core that it was on, the serial number from which on fabric writes are younger than
it, and the latest window in which an older one has been sent, if any was. -/
structure WinWait where
  pc : Word
  core : Nat
  serial : Nat
  win : Option Nat
  deriving DecidableEq, Repr

/-- Where a context is (R103, R107, R137): in a slot of a core, in its pool, or ended. -/
inductive Residence
  | slot (core k : Nat)
  | queued
  | ended
  deriving DecidableEq, Repr

/-- The region that a `waita` watches (R190, R191): a physical 64-byte region, or one of cluster memory. -/
inductive WatchOn
  | phys (region : Nat)
  | bank (grove region : Nat)
  deriving DecidableEq, Repr

/-- A put-status-unknown that is pending (R345, R400): when its transfer was sent, `fva`, DATA and W. -/
structure PsuFault where
  sent : Nat
  va : Nat
  target : Nat
  w : Bool
  deriving DecidableEq, Repr

/-- What the pool knows of a task (R303, R304, R314, R317): class, placement with its grove or grove · 8 + core on the die, SRCH and
INC, the signal slot, the eligibility time, and how often it was promoted (R316). -/
structure TaskInfo where
  cls : Nat
  place : Nat
  placeArg : Nat
  srch : Bool
  inc : Nat
  signal : Option Nat
  elig : Nat
  promo : Nat
  deriving DecidableEq, Repr

/-- A pool entry (R303, R311, R314, R317): entry point, arguments, bound, the next index and the count, the wait slot while held,
the context of a pre-empted task, and the release that its dispatch acquires (R310): a scope, and the releasing core. -/
structure PoolEntry where
  id : Nat
  entry : Word
  args : BitVec 256
  bound : Word
  next : Nat
  count : Nat
  task : TaskInfo
  hold : Option Nat
  resume : Option Nat
  acq : Option (Scope × Option Nat)
  deriving DecidableEq, Repr

/-- A context: its image and what the machine holds of it outside the image. `uid` is a number of its own (a command may outlive its
context, R406); `leaving` says that a pre-emption has been asked for, and for which pool entry (R317); `born` numbers the
dispatches; `stale` is the first stale
cycle and the pc of a stalled `gld` (R268); `winWait` a `fence.w` that waits (R189); `chosen` says that it has been chosen as a victim
(R317); `psu` the pending put-status-unknown faults; `parked` says that a trap entry has failed
(R396); `hqOpen`, `hqFull` and `hqBuf` are the context's host queue (R407); `divTold`
says that the service complex has been told of this filling of the diverted-message buffer (R347); `homes` is what the home of an image line
held when a register cache took the line, by line (R103, R179). -/
structure Ctx where
  uid : Nat
  img : Image
  task : TaskInfo
  where_ : Residence
  wait : Option Wait
  late : Option FaultRec
  psu : List PsuFault
  parked : Bool
  leaving : Option Nat
  born : Nat
  watch : Option WatchOn
  latch : Bool
  ring : List RingEntry
  stale : Option (Nat × Word)
  winWait : Option WinWait
  chosen : Bool
  hqOpen : Bool
  hqFull : Bool
  hqBuf : BitVec 256
  divTold : Bool
  homes : Tab (BitVec 512)
  deriving DecidableEq, Repr

/-- A leaf in a translation cache (R361, R362): address space, virtual base, log2 of the size, physical base, X, W, R. -/
structure Leaf where
  asid : Nat
  vbase : Nat
  shift : Nat
  pbase : Nat
  x : Bool
  w : Bool
  r : Bool
  deriving DecidableEq, Repr

/-- The pending-drain set of a core (R169 step 2): groves with cores, or all groves. -/
inductive Pending
  | listed (es : List (Nat × BitVec 8))
  | all
  deriving DecidableEq, Repr

/-- An incumbent (R385 to R389): the home's state, the initial key, the improvements applied with their times, and what a shadow
without a value of its own holds: the values of the last reinitialisation that has reached the shadows. -/
structure Incumbent where
  key : Word
  payload : Word
  sense : Bool
  kt : Bool
  v : Bool
  busy : Bool
  init : Word
  hist : List (Nat × Word)
  skey : Word
  ssense : Bool
  skt : Bool
  sv : Bool
  deriving DecidableEq, Repr

/-- The arrival state of a core at a group (R380); no entry is NONE. `sstep` is the kind. -/
inductive Arrival
  | arrived (sstep : Bool) (cid : Nat)
  | done (sstep : Bool) (cid : Nat) (step : Word)
  | fault (cid : Nat)
  deriving DecidableEq, Repr

/-- Where the episode of a group stands (R381): open; every `sstep` member has arrived and the tree waits for the transfers to land;
the boundary has run and its moves are landing. -/
inductive Episode
  | idle
  | landing
  | moving
  deriving DecidableEq, Repr

/-- A group that is valid (R366, R374): its member cores in rising order, its step counter, its episode. -/
structure Group where
  members : List Nat
  step : Word
  phase : Episode
  deriving DecidableEq, Repr

/-- A part of a halo strip (R266): the grid, the blocks it comes from and goes to, the strip, the step, and its cells by index in a
buffer of the receiver's frame; `old` says that the binding it belongs to has gone. -/
structure HaloPart where
  grid : Nat
  src : Nat
  dst : Nat
  strip : Nat
  step : Nat
  cells : List (Nat × BitVec 32)
  old : Bool
  deriving DecidableEq, Repr

/-- One target of a fabric transfer (R343, R346): endpoint, M, remote address; payload bytes sent, sequence numbers that wait for an
answer, whether it has left the injection queue, whether the last write (a counter increment or a version) has been sent, the failure
(code, REMOTE), whether one write ended put-status-unknown, and whether it has ended. -/
structure Leg where
  dst : Nat
  virt : Bool
  addr : Nat
  next : Nat
  waits : List (BitVec 32)
  left : Bool
  tailSent : Bool
  fail : Option (Nat × Bool)
  psu : Bool
  done : Bool
  deriving DecidableEq, Repr

/-- The kind of a fabric transfer: a `put` or a `get` with the offset of its counter, a `pub` with its version, a halo part to another
device. -/
inductive XferKind
  | put (cnt : Option Nat)
  | get (cnt : Option Nat)
  | pub (version : Word)
  | part (p : HaloPart)
  deriving DecidableEq, Repr

/-- A fabric transfer (R343 to R346): issuing core, context and its number, local slot, offset and length, completion operand, cw, DS,
dependency slot, targets; the window in which a `get` request left, the incarnation it was sent to, and the reply packets that have landed;
its place in the order of sending, once its first packet has been sent (R400). -/
structure Xfer where
  id : Nat
  kind : XferKind
  core : Nat
  cid : Nat
  uid : Nat
  desc : Desc
  off : Nat
  len : Nat
  xd : Word
  cw : Cw
  ds : Bool
  dep : Word
  legs : List Leg
  window : Nat
  inc : BitVec 4
  got : List Nat
  sentNo : Option Nat
  deriving DecidableEq, Repr

/-- A message that waits in an injection queue until it is answered (R347): its number in issue order; once it has been sent, its sequence
number, the target's incarnation that it was sent to and its place in the order of sending (R400); the times of the first and the last
transmission and of the last answer, and whether that was a refusal. -/
structure MsgOut where
  id : Nat
  dst : Nat
  tag : BitVec 16
  pay : BitVec 192
  cid : Nat
  uid : Nat
  seq : Option (BitVec 32)
  inc : BitVec 4
  sentNo : Nat
  first : Nat
  last : Nat
  answer : Option Nat
  refused : Bool
  deriving DecidableEq, Repr

/-- An entry of an injection queue (R302). -/
inductive Inj
  | xfer (id : Nat)
  | msg (m : MsgOut)
  deriving DecidableEq, Repr

/-- An entry of a rate table (R335): target device and die, q, the last halving if there was one, the last echo or recovery, the earliest next packet. -/
structure RateEntry where
  dev : Nat
  die : Nat
  q : Nat
  halved : Option Nat
  echo : Nat
  next : Nat
  deriving DecidableEq, Repr

/-- Where bytes stand: a physical address, or an offset of a grove's cluster memory. -/
inductive Place
  | phys (pa : Nat)
  | bank (grove off : Nat)
  deriving DecidableEq, Repr

/-- A load that a core has performed ahead of older instructions (R277, R283; log 89): its place and the bytes that it read. -/
structure EarlyLoad where
  place : Place
  bytes : List Byte
  deriving DecidableEq, Repr

/-- A contribution to a maximum exchange that a core has received (R155): instance, sending core, w, time of arrival, value. -/
structure Contribution where
  k : Nat
  src : Nat
  w : Nat
  time : Nat
  value : BitVec 512
  deriving DecidableEq, Repr

/-- A core (R95, R101 to R106, R155, R169, R302, R335, R378 to R380). `holding` says that the active context stalls in an instruction that is
not interrupted while it stalls (R405); `early` holds the loads performed ahead of their turn; `beyond` is the model's own: what acquire
fences have cleared from `pending` without draining it, for a wider fence (R280; log 71). -/
structure Core where
  slots : Vector (Option Nat) 4
  active : Option (Fin 4)
  last : Fin 4
  next : BitVec 16
  issue : Nat
  pmc : Vector Word 8
  pmsel : Vector Word 8
  xchg : Word
  contribs : List Contribution
  pending : Pending
  beyond : Pending
  arrival : Tab Arrival
  lastWin : Option Nat
  psent : Word
  pland : Word
  lines : List (Nat × Nat)
  evict : List Nat
  holding : Bool
  utlb : List Leaf
  mcHeld : Bool
  mcPopped : Bool
  svHeld : Bool
  recvq : List (BitVec 256)
  inj : List Inj
  rate : Tab RateEntry
  early : List EarlyLoad
  deriving DecidableEq, Repr

/-- A line of a grove L1 (R165, R171): line number, bytes, valid and dirty masks, dirty-by-core bits for stores and for atomics, and for an update-only
line the entry of the commutative range table it is under; `recs` is what the release records returned that came with its fills (R169
step 2); `stream` says that the latest access to it was under policy 1 (R163). -/
structure L1Line where
  line : Nat
  data : BitVec 1024
  valid : BitVec 128
  dirty : BitVec 128
  byCore : BitVec 8
  byAtom : BitVec 8
  upd : Option Nat
  recs : List (Nat × BitVec 8)
  stream : Bool
  deriving DecidableEq, Repr

/-- The word-update function of a commutative range (R171, R370). -/
structure CRange where
  base : Nat
  z : Nat
  op : Nat
  fmt : Nat
  deriving DecidableEq, Repr

/-- A claim in a grove's lending queue (R109, R110). -/
structure Claim where
  cid : Nat
  n : Nat
  re : Bool
  deriving DecidableEq, Repr

/-- A chunk in flight (R195): its number, the ranges translated for it (address space, virtual address, length), its writes. -/
structure Flight where
  num : Nat
  trans : List (Nat × Nat × Nat)
  writes : List (Place × List Byte)
  deriving DecidableEq, Repr

/-- One piece of a gathered or scattered element (R230): its place within one sector, its offset in the element, its bytes once they
are read (gather), and whether it has been performed. -/
structure Piece where
  pa : Nat
  off : Nat
  n : Nat
  data : List Byte
  done : Bool
  deriving DecidableEq, Repr

/-- An element of a `gather` or `scatter` that has been translated (R226, R231): its pieces, or its fault code. -/
structure Elem where
  trans : List (Nat × Nat × Nat)
  pieces : List Piece
  code : Nat
  deriving DecidableEq, Repr

/-- A fibre of a `merge` (R235, R236): start, length, entries taken, the last coordinate taken, the head if it has been read. -/
structure Fibre where
  start : Nat
  len : Nat
  pos : Nat
  last : Option Nat
  head : Option (Nat × BitVec 32)
  deriving DecidableEq, Repr

/-- An accepted command of an indirect copy engine (R194 to R198, R220 to R237): issuing core, ring entry, whether it has started and whether
its completion has been written while chunks are still on their way (R196); member groves of a `dfill`,
the next chunk or row, chunks in flight, the stop (code, side), members delivered; elements, lines returned and the highest element
that wrote a byte; walk descriptor, pointer read last, entries; fibres, results, entries skipped; OVF, and whether it has run out; payload bytes that it
has sent to the grove's banks and that have not landed, by offset (R196, R281). -/
structure EngCmd where
  id : Nat
  core : Nat
  entry : RingEntry
  started : Bool
  finished : Bool
  members : List Nat
  next : Nat
  flight : List Flight
  stop : Option (Nat × Bool)
  told : List Nat
  elems : Tab Elem
  lines : List Nat
  top : Tab Nat
  desc : List Byte
  ptr : Option Nat
  count : Nat
  fibres : List Fibre
  bad : Nat
  ovf : Bool
  ended : Bool
  pending : List (Nat × List Byte)
  deriving DecidableEq, Repr

/-- A `dfree` message on its way (R199, R200): sender grove, counter offset, group, tag, member groves, the grove it comes from. -/
structure DfreeMsg where
  sender : Nat
  off : Nat
  group : Nat
  tag : Nat
  members : List Nat
  source : Nat
  deriving DecidableEq, Repr

/-- The set that a sender grove keeps for one key (R200): groves heard from, and groves whose next message is held. -/
structure DfreeSet where
  sender : Nat
  off : Nat
  group : Nat
  tag : Nat
  heard : List Nat
  held : List Nat
  deriving DecidableEq, Repr

/-- A `tlbinv` in progress (R364): the chunks and elements, by grove and command, that were translated under a removed leaf and have
still to be performed. -/
structure Inval where
  waits : List (Nat × Nat × List Nat)
  deriving DecidableEq, Repr

/-- A tile (R203, R204): element format, does it carry scales, its 256 rows and its scale bytes as they were read. -/
structure Tile where
  fmt : Fmt
  sc : Bool
  rows : List (List Byte)
  scales : List Byte
  deriving DecidableEq, Repr

/-- The source of a bank (R202): slot sb, tile offset, row stride, scale offset, format and SC. -/
structure TileSrc where
  desc : Desc
  off : Nat
  stride : Nat
  scaleOff : Nat
  fmt : Fmt
  sc : Bool
  deriving DecidableEq, Repr

/-- A compute-in-memory bank (R202): VALID is `tile` being there; SRC, GEN, LENT; and the format of the latest `mldb` accepted for it
(R208). -/
structure Bank where
  tile : Option Tile
  src : Option TileSrc
  gen : BitVec 32
  lent : Bool
  lastTy : Option Fmt
  deriving DecidableEq, Repr

/-- One strip of a cooperative step that has been computed (R209): the C words by offset in the member grove's banks. -/
structure Strip where
  grove : Nat
  words : List (Nat × BitVec 32)
  deriving DecidableEq, Repr

/-- An accepted matrix command (R201, R205, R208, R213): acceptance stamp, issuing core, context and its number, ring entry, next step,
whether the step-0 checks have passed; member groves and slots held of a cooperative command, its A rows of the step and strips; since
when it has been ready; the target unit, first bank and tiles of a migrated command; whether it may no longer move. -/
structure MatCmd where
  stamp : Nat
  core : Nat
  cid : Nat
  uid : Nat
  entry : RingEntry
  g : Nat
  started : Bool
  members : List Nat
  slots : List Nat
  rows : Option (List (List Byte))
  strips : List Strip
  since : Option Nat
  moved : Option (Nat × Nat)
  tiles : List Tile
  fixed : Bool
  deriving DecidableEq, Repr

/-- A matrix unit (R201, R210, R211, R214): banks, accepted commands in acceptance order, arbiter pointer, steps of the turn and whether the turn has ended, the
cooperative slot's and the guest's command by home grove and stamp, the last time that a step ran or a command was in the queue. -/
structure MatUnit where
  banks : Vector Bank 4
  queue : List MatCmd
  ptr : Nat
  used : Nat
  spent : Bool
  coop : Option (Nat × Nat)
  guest : Option (Nat × Nat)
  busy : Nat
  deriving DecidableEq, Repr

/-- A grove: L1 (most recently used line first), cluster memory, translation caches, lending pool,
accepted engine commands in acceptance order, matrix unit, reduction-block queue (R350). -/
structure Grove where
  l1 : List L1Line
  cluster : Memory
  tlb : List Leaf
  etlb : List Leaf
  mtlb : List Leaf
  gtlb : List Leaf
  lpool : Word
  claims : List Claim
  eng : List EngCmd
  mat : MatUnit
  rbNext : BitVec 32
  rbEnd : BitVec 32
  rbEpoch : BitVec 16
  deriving DecidableEq, Repr

/-- A machine-check record (R409). -/
structure McRec where
  rec0 : Word
  rec1 : Word
  deriving DecidableEq, Repr

/-- A record of a log (R411). -/
structure LogRec where
  w0 : Word
  w1 : Word
  deriving DecidableEq, Repr

/-- An error log of a die (R411): COUNT, and the ring of 256 records by place. -/
structure Log where
  count : Word
  ring : Tab LogRec
  deriving DecidableEq, Repr

/-- A die (R95, R102, R302, R313, R354, R355, R374, R393, R408, R409, R411). `rwaysPend` is N before the writes of `rways` whose
reconfiguration is still to end, and the time of the latest of them in picoseconds (R168). `paused` says that a checkpoint has stopped dispatch and
issue (R422); `causes` are the
service causes that wait for service core 1 (R409); `mcLost` that a machine-check record has been dropped and no record tells of it yet (R408); `drift` says that the clock has drifted (R334); `divBase` and `mbArea`
are where firmware has put the diverted-message buffers and the mailbox areas, once a program is loaded (R348, R416); `boot` is the
digest of the firmware image that the die has accepted (R419). -/
structure Die where
  tvec : Word
  rways : Word
  rwaysPend : Option (Nat × Nat)
  imgBase : Nat
  imgCount : Nat
  template : Vector Desc 64
  rgarea : Word
  mcq : List McRec
  mcOvf : Bool
  mcLost : Bool
  hostLog : Log
  dieLog : Log
  engLog : Log
  pool : List PoolEntry
  poolcfg : Word
  dslots : Tab (BitVec 32)
  killcnt : Word
  paused : Bool
  fabcnt : Vector Word 4
  causes : List Nat
  drift : Bool
  divBase : Nat
  mbArea : Option (Nat × Nat)
  boot : Option (BitVec 256)
  deriving DecidableEq, Repr

/-- A line that a slice holds (R166, R167): its number, and the sectors that are there. A line of the slice's own die stands in a way for home
lines, a line of another die in a reserved way. -/
structure Way where
  line : Nat
  sectors : BitVec 4
  deriving DecidableEq, Repr

/-- An entry of a release record (R169). -/
structure RelEntry where
  grove : Nat
  cores : BitVec 8
  scope : Scope
  deriving DecidableEq, Repr

/-- One line of a combine buffer (R173): the exact sum of each word that has one, by byte offset in the line. -/
structure CombLine where
  line : Nat
  sums : List (Nat × FV)
  deriving DecidableEq, Repr

/-- The state of a directory entry (R242). -/
inductive DirState
  | free
  | new
  | live
  deriving DecidableEq, Repr

/-- A directory entry of a record space (R242): state, generation, owner core and slot. -/
structure DirEntry where
  state : DirState
  gen : BitVec 16
  owner : Nat
  slot : Nat
  deriving DecidableEq, Repr

/-- A bound record space (R238, R242 to R246): its parameters; the 64 KiB units of its directory by die and of its stores by owner
core (R442); the entries that are not FREE with generation 0; serials staged for deletion; words staged, in arrival order, by serial
and byte offset. -/
structure Space where
  dim : Nat
  bounds : List (List (BitVec 32))
  owners : List Nat
  spill : Nat
  group : Nat
  size : Nat
  cdir : Nat
  cap : Nat
  dirUnits : Tab (List Nat)
  stores : Tab (List Nat)
  dir : Tab DirEntry
  dels : List Nat
  words : List (Nat × Nat × BitVec 32)
  deriving DecidableEq, Repr

/-- A bound grid (R260 to R262, R265, R266): dimension, element format and size, halo width h, radius ρ, depth d, extents, block sizes,
face rules and constants in the order of R368, group, stall limit, owner endpoints by block, the device number of this module when it
was bound, the units of the frames by block; committed steps by block (no entry is "none"), the latest step
of which each source of a strip has written its part, the packets of parts that have come only in part (strip, source, step, first cell), and
the parts held. -/
structure Grid where
  dim : Nat
  fmt : Fmt
  h : Nat
  rho : Nat
  depth : Nat
  ext : List Nat
  blk : List Nat
  faces : Nat
  consts : List Nat
  group : Nat
  stall : Nat
  owners : List Nat
  dev : Nat
  frames : Tab (List Nat)
  steps : Tab Nat
  landed : List (Nat × Nat × Nat)
  arrived : List (Nat × Nat × Nat × Nat)
  held : List HaloPart
  deriving DecidableEq, Repr

/-- A write that waits for its answer (R337): window, packet, time of the last transmission, and the transfer and target it belongs
to (none for the reply to a `get`). -/
structure OpenWrite where
  packet : FabPacket
  time : Nat
  owner : Option (Nat × Nat)
  deriving DecidableEq, Repr

/-- A close notice that waits for its answer (R347): message number, the target's incarnation, when it was last sent. -/
structure OpenClose where
  seq : BitVec 32
  inc : BitVec 4
  time : Nat
  deriving DecidableEq, Repr

/-- What a source die keeps for a destination device (R337, R347): next number of writes and of messages, the window of the last write,
the writes that wait, and close notices that wait for their answer. -/
structure SendSeq where
  next : BitVec 32
  window : Nat
  waits : List OpenWrite
  msgNext : BitVec 32
  closes : List OpenClose
  deriving DecidableEq, Repr

/-- What the module keeps for a source die (R337): the low edge, the numbers placed, closed or refused (with the code), and the numbers
below which all close when window N + 2 begins. -/
structure RecvSeq where
  low : BitVec 32
  placed : List (BitVec 32)
  closed : List (BitVec 32)
  refused : List (BitVec 32 × Nat)
  due : List (BitVec 32 × Nat)
  deriving DecidableEq, Repr

/-- A scale-up port (R331 to R333): is it up, version and features; by channel the flits sent, the FREED last heard, the flits received
and the flits freed. -/
structure Port where
  up : Bool
  version : Nat
  features : BitVec 32
  sent : Vector (BitVec 32) 4
  heard : Vector (BitVec 32) 4
  got : Vector (BitVec 32) 4
  freed : Vector (BitVec 32) 4
  deriving DecidableEq, Repr

/-- An entry of the peer table (R328). -/
structure Peer where
  up : Bool
  inc : BitVec 4
  deriving DecidableEq, Repr

/-- A mailbox (R323 to R325, R413, R414): the bytes of `mbpost`, FULL, and its binding. -/
structure Mbox where
  post : BitVec 256
  full : Bool
  bind : BitVec 128
  deriving DecidableEq, Repr

/-- What a checkpoint holds (R422, R423): of the descriptor, the step value of the group, the digest of the running image, the device
number and the incarnation; HBM, and every on-chip state that a program can observe. -/
structure Checkpoint where
  step : Word
  digest : BitVec 256
  devid : BitVec 14
  incarnation : BitVec 4
  dram : Memory
  ctxs : Tab Ctx
  cores : Tab Core
  groves : Tab Grove
  dies : Tab Die
  groups : Tab Group
  dfreeSets : List DfreeSet
  spaces : Tab Space
  grids : Tab Grid
  halos : List (Nat × HaloPart)
  ranges : Tab CRange
  incumbents : Vector Incumbent 8
  shadows : Tab Word
  mboxes : Tab Mbox
  ptroot : Tab Word
  rasid : Word
  deriving DecidableEq, Repr

/-- Whose turn it is: a core issues its next instruction, an event happens, time passes, a register write that a service core has sent
arrives (R410), firmware finishes the call of a context whose system-call trap it handles (R415), or appends a record of its own to the die
error log, of a core where it concerns one (R411; log 1), the host writes bytes of BAR 2 (R412, R419, R420), firmware carries out the load that a
write of `ldcmd` has started, with its plan (R416), or reopens the tier (R18), payload that an engine command has sent lands (R196), or a core performs a
load of a context through one of its slots ahead of its turn (log 89). -/
inductive Turn
  | core (c : Nat)
  | event (i : Instr)
  | elapse (n : Nat)
  | write (die off : Nat) (value : Word)
  | call (cid : Nat)
  | record (die grove core src code info : Nat)
  | stage (off : Nat) (bytes : List Byte)
  | load (plan : LoadPlan)
  | reopen
  | land (grove cmd idx : Nat)
  | early (core cid : Nat) (seg : Slot) (off : Int) (n : Nat)
  deriving DecidableEq, Repr

/-- The machine. `here` is the core that `exec` acts on; `agenda` says who moves next; `stalled` says that the last turn of
`here` could not proceed; `serial` numbers contexts and pool entries; `shadows` holds the shadows that differ from their base, by
8 · agent + number, an agent being a core or 16416 + die; `now` counts cycles since the compute-die reset (logs 1 and 4). `sync`
is the synchronised clock in picoseconds (R334); the transfers, packets, requests, messages, answers and reports are those on their
way within the module; `sends` is kept by 16384 · die + device, `recvs` and `msgRecvs` by 8 · device + die (R337, R347); `linked` says
that a link has come up since the last reset (R328). `slice` holds the bytes that home slices hold dirty, `ways` the lines of each set of a slice, by 512 · grove + set,
the most recently used first (R161, R166, R167); `bad` the sectors of memory behind the homes, and `badSram` the places in SRAM, whose
data is uncorrectable (R179). `waiting` holds the write-backs that wait for proxies: grove, line, and whether the line is dropped (R167). The fields from `ldcmd` on are those of file 20: the registers of the module block, the staging
area, the checkpoints taken so far, how far a checkpoint has come (0 none, 1 begun, 2 quiescent) and the step counter when it was
requested, the power samples of the last 1 ms and the time of the last clock step; `ckReq` is `ckcmd` as the request under way wrote it,
`ckHit` says that the boundary of its group has run since (R422); `tierSelf` and `tierPower` say by die whether the tier's channels
are in self-refresh and whether the island is powered (R18). -/
structure State where
  agenda : List Turn
  here : Nat
  stalled : Bool
  now : Nat
  ctxs : Tab Ctx
  cores : Tab Core
  groves : Tab Grove
  dies : Tab Die
  dram : Memory
  slice : Tab Byte
  ways : Tab (List Way)
  proxies : Tab (BitVec 8)
  waiting : List (Nat × Nat × Bool)
  records : Tab (List RelEntry)
  combine : List CombLine
  bad : List Nat
  badSram : List SramSite
  ranges : Tab CRange
  serial : Nat
  incumbents : Vector Incumbent 8
  shadows : Tab Word
  groups : Tab Group
  dfrees : List DfreeMsg
  dfreeSets : List DfreeSet
  invals : Tab Inval
  spaces : Tab Space
  grids : Tab Grid
  halos : List (Nat × HaloPart)
  sync : Nat
  fabwin : Word
  xfers : List Xfer
  packets : List FabPacket
  gets : List GetReq
  msgs : List MsgPacket
  answers : List FabAck
  reports : List SeqReport
  sends : Tab SendSeq
  recvs : Tab RecvSeq
  msgRecvs : Tab RecvSeq
  ports : Tab Port
  peers : Tab Peer
  linked : Bool
  ptroot : Tab Word
  rasid : Word
  devid : BitVec 14
  incarnation : BitVec 4
  mboxes : Tab Mbox
  ldcmd : Word
  ldsts : Word
  ckcmd : Word
  cksts : Word
  mbsel : BitVec 8
  attcmd : Bool
  watts : BitVec 12
  clk : Nat
  hot : Bool
  staging : Memory
  saves : List Checkpoint
  ckPhase : Nat
  ckStep : Word
  digest : BitVec 256
  samples : List Nat
  clkAt : Nat
  ckReq : Word
  ckHit : Bool
  tierSelf : BitVec 8
  tierPower : BitVec 8
  deriving DecidableEq, Repr

/-- An incumbent after reset (R385): not valid. -/
def Incumbent.fresh : Incumbent :=
  { key := 0, payload := 0, sense := false, kt := false, v := false, busy := false, init := 0, hist := [], skey := 0
    ssense := false, skt := false, sv := false }

/-- The machine right after reset (R425; logs 2 and 3): no context, every unit as `Units` gives a unit that is not listed, memory
with nothing listed, the module registers at the values of R355. -/
def State.reset : State :=
  { agenda := []
    here := 0
    stalled := false
    now := 0
    ctxs := []
    cores := []
    groves := []
    dies := []
    dram := []
    slice := []
    ways := []
    proxies := []
    waiting := []
    records := []
    combine := []
    bad := []
    badSram := []
    ranges := []
    serial := 0
    incumbents := Vector.replicate 8 Incumbent.fresh
    shadows := []
    groups := []
    dfrees := []
    dfreeSets := []
    invals := []
    spaces := []
    grids := []
    halos := []
    sync := 0
    fabwin := 8
    xfers := []
    packets := []
    gets := []
    msgs := []
    answers := []
    reports := []
    sends := []
    recvs := []
    msgRecvs := []
    ports := []
    peers := []
    linked := false
    ptroot := []
    rasid := 1
    devid := 0
    incarnation := 0
    mboxes := []
    ldcmd := 0
    ldsts := 0
    ckcmd := 0
    cksts := 0
    mbsel := 0
    attcmd := false
    watts := 3200
    clk := 800
    hot := false
    staging := []
    saves := []
    ckPhase := 0
    ckStep := 0
    digest := 0
    samples := []
    clkAt := 0
    ckReq := 0
    ckHit := false
    tierSelf := 0xFF
    tierPower := 0xFF }

end Sys2Proof.Machine
end

