-- ==== Sys2Proof/Machine/Units.lean ====
section
/-! DEFINITION. Reading and writing the units of the machine and the registers of a context: units as after reset, keys,
x and v registers, the fields of `status`, the bytes of an image (R92), counters of events (R102), logs and machine checks. -/

namespace Sys2Proof.Machine

open Sys2Proof

/-- An invalid descriptor: kind 0 (R91). -/
def Desc.zero : Desc := ⟨0, 0, 0, 0⟩
/-- BASE (R356). -/
def Desc.base (d : Desc) : Nat := d.w0.toNat % 2 ^ 56
/-- LEN (R356). -/
def Desc.len (d : Desc) : Nat := d.w1.toNat
/-- KIND (R356). -/
def Desc.kind (d : Desc) : Nat := d.w2.toNat % 16
/-- POL (R356). -/
def Desc.pol (d : Desc) : Nat := (d.w2.toNat / 16) % 4
/-- R (R356). -/
def Desc.canR (d : Desc) : Bool := d.w2.getLsbD 6
/-- W (R356). -/
def Desc.canW (d : Desc) : Bool := d.w2.getLsbD 7
/-- ASID (R356). -/
def Desc.asid (d : Desc) : Nat := (d.w2.toNat / 256) % 4096

/-- Kind codes (R163). -/
def kGlobal : Nat := 1
/-- Kind code of `cluster` (R163). -/
def kCluster : Nat := 2
/-- Kind code of `hostm` (R163). -/
def kHostm : Nat := 3
/-- Kind code of `tier` (R163). -/
def kTier : Nat := 4

/-- An image in which every field is zero but `mwgt`, which is 1 (R93). -/
def Image.zero : Image :=
  { x := Vector.replicate 32 0, v := Vector.replicate 32 0, slots := Vector.replicate 64 Desc.zero
    pc := 0, status := 0, pfx := 0, fpflags := 0, epc := 0, esta := 0, epfx := 0, fva := 0, faultinfo := 0, fsq := 0
    mwgt := 1, taskIndex := 0, bound := 0, args := 0, saved := [], spare := [], div0 := 0, div1 := 0, dep := 0 }

/-- A core after reset (R101, R102, R155, R374, R379, R425; log 3). -/
def Core.fresh : Core :=
  { slots := Vector.replicate 4 none, active := none, last := 0, next := 0, issue := 0
    pmc := Vector.replicate 8 0, pmsel := Vector.replicate 8 0
    xchg := 0, contribs := [], pending := .listed [], beyond := .listed [], arrival := [], lastWin := none, psent := 0, pland := 0
    lines := [], evict := [], holding := false, utlb := [], mcHeld := false, mcPopped := false, svHeld := false
    recvq := [], inj := [], rate := [], early := [] }

/-- A bank after reset (R202). -/
def Bank.empty : Bank := { tile := none, src := none, gen := 0, lent := false, lastTy := none }

/-- A matrix unit after reset. -/
def MatUnit.fresh : MatUnit :=
  { banks := Vector.replicate 4 Bank.empty, queue := [], ptr := 0, used := 0, spent := false, coop := none, guest := none, busy := 0 }

/-- A grove after reset (R102, R425; log 2 for the cluster memory). -/
def Grove.fresh : Grove :=
  { l1 := [], cluster := [], tlb := [], etlb := [], mtlb := [], gtlb := [], lpool := 256, claims := [], eng := [], mat := MatUnit.fresh
    rbNext := 0, rbEnd := 0, rbEpoch := 0 }

/-- A log with no record. -/
def Log.empty : Log := ⟨0, []⟩

/-- Append a record to a log (R411): record j stands at place j mod 256. -/
def Log.add (l : Log) (r : LogRec) : Log := ⟨l.count + 1, l.ring.set (l.count.toNat % 256) r⟩

/-- A die after reset (R102, R355, R409, R411). -/
def Die.fresh : Die :=
  { tvec := 0, rways := 4, rwaysPend := none, imgBase := 0, imgCount := 0, template := Vector.replicate 64 Desc.zero, rgarea := 0
    mcq := [], mcOvf := false, mcLost := false, hostLog := Log.empty, dieLog := Log.empty, engLog := Log.empty
    pool := [], poolcfg := 0x114, dslots := [], killcnt := 0, paused := false
    fabcnt := Vector.replicate 4 0, causes := [], drift := false, divBase := 0, mbArea := none, boot := none }

/-- A core. -/
def State.core (s : State) (k : Nat) : Core := (s.cores.get? k).getD Core.fresh
/-- Replace a core. -/
def State.setCore (s : State) (k : Nat) (c : Core) : State := { s with cores := s.cores.set k c }
/-- A grove. -/
def State.grove (s : State) (g : Nat) : Grove := (s.groves.get? g).getD Grove.fresh
/-- Replace a grove. -/
def State.setGrove (s : State) (g : Nat) (v : Grove) : State := { s with groves := s.groves.set g v }
/-- A die. -/
def State.die (s : State) (d : Nat) : Die := (s.dies.get? d).getD Die.fresh
/-- Replace a die. -/
def State.setDie (s : State) (d : Nat) (v : Die) : State := { s with dies := s.dies.set d v }
/-- A context. -/
def State.ctx? (s : State) (cid : Nat) : Option Ctx := s.ctxs.get? cid
/-- Replace a context. -/
def State.setCtx (s : State) (cid : Nat) (c : Ctx) : State := { s with ctxs := s.ctxs.set cid c }
/-- Change a context that exists. -/
def State.updCtx (s : State) (cid : Nat) (f : Ctx → Ctx) : State :=
  match s.ctx? cid with
  | some c => s.setCtx cid (f c)
  | none => s

/-- Is a core a service core (R12)? -/
def isService (k : Nat) : Bool := decide (Config.allCores ≤ k)
/-- The die of a core (R366). -/
def coreDie (k : Nat) : Nat := if k < Config.allCores then k / 2048 else (k - Config.allCores) / 4
/-- The grove key of a compute core (R366). -/
def coreGrove (k : Nat) : Nat := k / 8
/-- The number of a compute core within its grove, or of a service core within its complex (R95). -/
def coreInGrove (k : Nat) : Nat := if k < Config.allCores then k % 8 else (k - Config.allCores) % 4
/-- The bit of a core among its grove's eight. -/
def coreBit (k : Nat) : BitVec 8 := (1#8 <<< (coreInGrove k))
/-- The die of a grove key. -/
def groveDie (g : Nat) : Nat := g / 256
/-- The die of a context key. -/
def ctxDie (cid : Nat) : Nat := if cid < 524288 then cid / 65536 else (cid - 524288) / 4
/-- The image number of a context key: its CTAG (R315, R327). -/
def ctxTag (cid : Nat) : Nat := if cid < 524288 then cid % 65536 else 0

/-- The active context of a core (R103). -/
def State.activeCid (s : State) (k : Nat) : Option Nat :=
  match (s.core k).active with
  | none => none
  | some i => (s.core k).slots[i]

/-- The active context of the core whose turn it is. -/
def State.active? (s : State) : Option (Nat × Ctx) :=
  match s.activeCid s.here with
  | none => none
  | some cid =>
    match s.ctx? cid with
    | none => none
    | some c => some (cid, c)

/-- `X(n)`; x0 reads as 0 (R74, R112). -/
def Image.getX (m : Image) (r : Reg) : Word := if r = 0 then 0 else m.x[r.toNat]
/-- `X(n) := v`; a write to x0 is discarded (R74, R112). -/
def Image.setX (m : Image) (r : Reg) (v : Word) : Image := if r = 0 then m else { m with x := m.x.set r.toNat v }
/-- A vector register. -/
def Image.getV (m : Image) (r : Reg) : BitVec 512 := m.v[r.toNat]
/-- Write a vector register. -/
def Image.setV (m : Image) (r : Reg) (v : BitVec 512) : Image := { m with v := m.v.set r.toNat v }
/-- A segment slot. -/
def Image.slot (m : Image) (n : Slot) : Desc := m.slots[n.toNat]
/-- Write a segment slot. -/
def Image.setSlot (m : Image) (n : Slot) (d : Desc) : Image := { m with slots := m.slots.set n.toNat d }
/-- `Lane(v, i)` (R89). -/
def lane (v : BitVec 512) (i : Nat) : BitVec 32 := v.extractLsb' (32 * i) 32
/-- A vector from its sixteen lanes, lane 0 first. -/
def ofLanes (ls : List (BitVec 32)) : BitVec 512 :=
  BitVec.ofNat 512 (ls.foldr (fun l acc => acc * 2 ^ 32 + l.toNat) 0)
/-- The lanes of a vector. -/
def lanes (v : BitVec 512) : List (BitVec 32) := (List.range 16).map (lane v)

/-- `A56` (R112). -/
def a56 (v : Word) : Word := (v.extractLsb' 0 56).setWidth 64

/-- The rounding mode of a code (R34). -/
def rmOf (c : BitVec 2) : Rm :=
  match c.toNat with
  | 0 => .rne | 1 => .rz | 2 => .ru | _ => .rd
/-- The code of a rounding mode (R34). -/
def rmCode (r : Rm) : BitVec 2 :=
  match r with
  | .rne => 0 | .rz => 1 | .ru => 2 | .rd => 3

/-- `status.RM` (R96). -/
def Image.rm (m : Image) : Rm := rmOf (m.status.extractLsb' 0 2)
/-- `status.PP` (R96). -/
def Image.pp (m : Image) : Bool := m.status.getLsbD 2
/-- `status.DUO` (R96). -/
def Image.duo (m : Image) : Bool := m.status.getLsbD 3
/-- `status.PRV` (R96). -/
def Image.prv (m : Image) : Bool := m.status.getLsbD 4
/-- `status.KP` (R96). -/
def Image.kp (m : Image) : Bool := m.status.getLsbD 5
/-- `status.LN` (R96). -/
def Image.ln (m : Image) : Nat := (m.status.extractLsb' 6 5).toNat
/-- Set one bit of a word. -/
def setBit (w : Word) (i : Nat) (b : Bool) : Word := if b then w ||| (1#64 <<< i) else w &&& ~~~(1#64 <<< i)
/-- Write `status.PP`. -/
def Image.setPp (m : Image) (b : Bool) : Image := { m with status := setBit m.status 2 b }
/-- Write `status.KP`. -/
def Image.setKp (m : Image) (b : Bool) : Image := { m with status := setBit m.status 5 b }
/-- A status word with LN. -/
def withLn (w : Word) (n : Nat) : Word := (w &&& ~~~(0x7C0#64)) ||| (BitVec.ofNat 64 (n % 32) <<< 6)
/-- Write `status.LN`. -/
def Image.setLn (m : Image) (n : Nat) : Image := { m with status := withLn m.status n }
/-- OR flags into `fpflags` (R37). -/
def Image.orFlags (m : Image) (f : FFlags) : Image := { m with fpflags := m.fpflags ||| f.setWidth 64 }

/-- The prefix that a payload holds (R82, R98). -/
def payloadOf (p : BitVec 24) : Option Prefix := prefixOf (p ++ 0#8)

/-- The bytes of a natural number, least significant first (R1). -/
def leBytes (n : Nat) (v : Nat) : List Byte := (List.range n).map fun k => BitVec.ofNat 8 (v >>> (8 * k))
/-- The natural number of bytes, least significant first (R1). -/
def leNat (bs : List Byte) : Nat := bs.foldr (fun b acc => acc * 256 + b.toNat) 0

/-- The 32 bytes of a descriptor (R356). -/
def Desc.bytes (d : Desc) : List Byte :=
  leBytes 8 d.w0.toNat ++ leBytes 8 d.w1.toNat ++ leBytes 8 d.w2.toNat ++ leBytes 8 d.w3.toNat
/-- A word at an offset of a list of bytes. -/
def wordAt (bs : List Byte) (off : Nat) : Word := BitVec.ofNat 64 (leNat ((bs.drop off).take 8))
/-- A 32-bit word at an offset of a list of bytes. -/
def halfAt (bs : List Byte) (off : Nat) : Nat := leNat ((bs.drop off).take 4)
/-- The descriptor of 32 bytes. -/
def Desc.ofBytes (bs : List Byte) : Desc := ⟨wordAt bs 0, wordAt bs 8, wordAt bs 16, wordAt bs 24⟩

/-- A saved entry's 48 bytes (R403). -/
def SavedEntry.bytes (e : SavedEntry) : List Byte :=
  leBytes 8 e.parcels.toNat ++ leBytes 32 e.captured.toNat ++ leBytes 8 e.control.toNat

/-- What the ring save area holds (R92, R403): the saved entries, and what stands above them. -/
def Image.saveArea (m : Image) : List SavedEntry := (m.saved ++ m.spare).take 64

/-- The 8 KiB of an image (R92). -/
def Image.bytes (m : Image) : List Byte :=
  (List.range 32).flatMap (fun n => leBytes 8 (m.getX (BitVec.ofNat 5 n)).toNat) ++
  m.v.toList.flatMap (fun v => leBytes 64 v.toNat) ++
  m.slots.toList.flatMap Desc.bytes ++
  [m.pc, m.status, m.pfx, m.fpflags, m.epc, m.esta, m.epfx, m.fva, m.faultinfo, m.fsq, m.mwgt, m.taskIndex, m.bound].flatMap
    (fun w => leBytes 8 w.toNat) ++
  leBytes 32 m.args.toNat ++ leBytes 8 m.saved.length ++ leBytes 8 m.div0.toNat ++ leBytes 8 m.div1.toNat ++
  leBytes 8 m.dep.toNat ++ leBytes 2 1 ++ List.replicate 86 0 ++
  m.saveArea.flatMap SavedEntry.bytes ++ List.replicate (3072 - 48 * m.saveArea.length) 0 ++ List.replicate 512 0

/-- The defined bits of a field of the image (R4, R92, R96, R98 to R100, R102): reserved bits read as 0 whatever is written. -/
def imageField (off : Nat) (w : Word) : Word :=
  match off with
  | 0x1100 | 0x1120 | 0x1138 => w &&& 0x00FFFFFFFFFFFFFF#64
  | 0x1108 | 0x1128 => w &&& 0x7FF#64
  | 0x1110 | 0x1130 => w &&& 0xFFFFFF#64
  | 0x1118 => w &&& 0x1F#64
  | 0x1140 => w &&& 0xFFFFFFFF00000EFF#64
  | 0x1148 => w &&& 0x1FFFFFFFF#64
  | 0x1150 => w &&& 0xF#64
  | 0x1158 => w &&& 0xFFFF#64
  | _ => w

/-- A list of saved entries without the zeros at its end. -/
def trimArea (es : List SavedEntry) : List SavedEntry :=
  (es.reverse.dropWhile fun e => e.parcels == 0 && e.captured == 0 && e.control == 0).reverse

/-- The image of 8 KiB of bytes (R92), as firmware's edits leave it (R94); the x0 field reads as 0 whatever is written, and so do the reserved bits
of a saved entry's control word (R4, R403). -/
def Image.ofBytes (bs : List Byte) : Image :=
  let w := fun off => imageField off (wordAt bs off)
  let area := (List.range 64).map fun k =>
    let o := 0x1200 + 48 * k
    ({ parcels := wordAt bs o, captured := BitVec.ofNat 256 (leNat ((bs.drop (o + 8)).take 32)), control := wordAt bs (o + 40) &&& 0x1FFFFFFFFFFFFFF#64
       pc := 0, ord := 0, passed := none } : SavedEntry)
  let n := min 64 (w 0x1188).toNat
  { x := Vector.ofFn fun i => if i.val = 0 then 0 else wordAt bs (8 * i.val)
    v := Vector.ofFn fun i => BitVec.ofNat 512 (leNat ((bs.drop (0x100 + 64 * i.val)).take 64))
    slots := Vector.ofFn fun i => Desc.ofBytes ((bs.drop (0x900 + 32 * i.val)).take 32)
    pc := w 0x1100, status := w 0x1108, pfx := w 0x1110, fpflags := w 0x1118, epc := w 0x1120, esta := w 0x1128
    epfx := w 0x1130, fva := w 0x1138, faultinfo := w 0x1140, fsq := w 0x1148, mwgt := w 0x1150
    taskIndex := w 0x1158, bound := w 0x1160, args := BitVec.ofNat 256 (leNat ((bs.drop 0x1168).take 32))
    saved := area.take n, spare := trimArea (area.drop n)
    div0 := w 0x1190, div1 := w 0x1198, dep := w 0x11A0 }

/-- A saved entry takes its place in the order of dispatch (R403). -/
def insertSaved (e : SavedEntry) (es : List SavedEntry) : List SavedEntry :=
  es.takeWhile (fun x => decide (x.ord ≤ e.ord)) ++ e :: es.dropWhile (fun x => decide (x.ord ≤ e.ord))

/-- Entries are saved (R402, R403), in sequence order with those that are there, over what the area held above. -/
def Image.saveMore (m : Image) (es : List SavedEntry) : Image :=
  let saved := (es.foldl (fun (acc : List SavedEntry) e => insertSaved e acc) m.saved).take 64
  { m with saved := saved, spare := m.spare.drop (saved.length - m.saved.length) }

/-- The saved ring entry count becomes 0 (R404); the area keeps its bytes. -/
def Image.unsave (m : Image) : Image := { m with saved := [], spare := trimArea m.saveArea }

/-- Count an event on a core (R102): every counter whose EV is the code, at user privilege, or with SYS at either. -/
def Core.count (c : Core) (sys : Bool) (ev n : Nat) : Core :=
  { c with pmc := Vector.ofFn fun i =>
      let sel := c.pmsel[i]
      if sel.toNat % 256 = ev && (!sys || sel.getLsbD 8) then c.pmc[i] + BitVec.ofNat 64 n else c.pmc[i] }

/-- Does a context run at system privilege? -/
def State.atSystem (s : State) (cid : Nat) : Bool := match s.ctx? cid with | some c => c.img.prv | none => false

/-- Does the context in a slot of a core run at system privilege? -/
def State.slotSystem (s : State) (k : Nat) (i : Fin 4) : Bool :=
  match (s.core k).slots[i] with | some cid => s.atSystem cid | none => false

/-- Count an event on the core of a context. -/
def State.count (s : State) (k : Nat) (sys : Bool) (ev n : Nat) : State := s.setCore k ((s.core k).count sys ev n)

/-- The loads that a core has performed ahead of their turn are forgotten: they are performed again in their turn (log 89). -/
def State.dropEarly (s : State) (core : Nat) : State :=
  if (s.core core).early.isEmpty then s else s.setCore core { s.core core with early := [] }

/-- A record of a log (R411), dated by `cyc`. -/
def State.logRec (s : State) (src code info d grove core : Nat) : LogRec :=
  { w0 := BitVec.ofNat 64 (src * 2 ^ 56 + code * 2 ^ 48 + (info % 2 ^ 32) * 2 ^ 16 + d * 2 ^ 11 + (grove % 256) * 8 + core % 8)
    w1 := BitVec.ofNat 64 s.now }

/-- Append to the engine error log of a die (R411). -/
def State.logEngine (s : State) (d src code info grove core : Nat) : State :=
  s.setDie d { s.die d with engLog := (s.die d).engLog.add (s.logRec src code info d grove core) }

/-- Append to the host error log of a die (R411). -/
def State.logHost (s : State) (d src info : Nat) : State :=
  s.setDie d { s.die d with hostLog := (s.die d).hostLog.add (s.logRec src 0 info d 0 0) }

/-- Append to the die error log of a die (R411), of a core where it concerns one. -/
def State.logDie (s : State) (d grove core src code info : Nat) : State :=
  s.setDie d { s.die d with dieLog := (s.die d).dieLog.add (s.logRec src code info d grove core) }

/-- Raise a machine check to the complex of a die (R408): a record, or OVF when the queue is full; a record of source 6 then follows when
the queue has room again (log 66). -/
def State.machineCheck (s : State) (d src mem info pa grove core : Nat) : State :=
  let die := s.die d
  let r : McRec :=
    { rec0 := BitVec.ofNat 64 (src * 2 ^ 56 + mem * 2 ^ 48 + (info % 2 ^ 32) * 2 ^ 16 + d * 2 ^ 11 + (grove % 256) * 8 + core % 8)
      rec1 := BitVec.ofNat 64 (pa % 2 ^ 52) }
  if die.mcq.length < 16 then s.setDie d { die with mcq := die.mcq ++ [r] }
  else s.setDie d { die with mcOvf := true, mcLost := true }

/-- GROUP of the checkpoint request under way (R421). -/
def State.ckGroup (s : State) : Nat := s.ckReq.toNat / 2 ^ 26 % 256
/-- OFF of the checkpoint request under way, in 64 KiB (R421). -/
def State.ckOff (s : State) : Nat := s.ckReq.toNat % 2 ^ 26

/-- Is a reference to a physical address made to HBM, the tier or the host (R162)? The segment kind that reaches it. -/
def kindOfPa (pa : Nat) : Nat :=
  if pa < Config.hbmBytes then kGlobal
  else if Config.tierBase ≤ pa ∧ pa < Config.tierBase + Config.tierBytes then kTier
  else if Config.hostBase ≤ pa ∧ pa < Config.hostEnd then kHostm
  else 0

/-- The home die of a physical address (R162). -/
def homeDie (pa : Nat) : Nat :=
  if pa < Config.hbmBytes then pa / Config.hbmPerDie
  else if Config.tierBase ≤ pa ∧ pa < Config.tierBase + Config.tierBytes then (pa - Config.tierBase) / Config.tierPerDie
  else 0

/-- The hash of R162. -/
def homeHash (pa : Nat) : Nat := ((pa / 128) % 256) ^^^ ((pa / 32768) % 256)

/-- The home grove of a physical address as a grove key (R162). -/
def homeGrove (pa : Nat) : Nat := homeDie pa * 256 + homeHash pa

end Sys2Proof.Machine
end

