-- ==== Sys2Proof/Machine/Mem.lean ====
section
/-! DEFINITION. The memories (file 8): bytes, home slices, the grove L1 with its byte masks, update-only lines and their
combination, release records, drains and invalidation, watches. Every function here is one indivisible action (log 4). -/

namespace Sys2Proof.Machine

open Sys2Proof

/-- What a byte that nothing has written reads as (log 2). -/
def unwritten : Byte := 0

/-- The byte at an address. -/
def Memory.read (m : Memory) (a : Nat) : Byte :=
  match m with
  | [] => unwritten
  | (j, b) :: rest => if j = a then b else Memory.read rest a

/-- Write a byte, keeping the canonical form: a byte that an unlisted address reads as is not listed. -/
def Memory.write (m : Memory) (a : Nat) (v : Byte) : Memory :=
  match m with
  | [] => if v = unwritten then [] else [(a, v)]
  | (j, b) :: rest =>
    if j = a then (if v = unwritten then rest else (a, v) :: rest)
    else if a < j then (if v = unwritten then (j, b) :: rest else (a, v) :: (j, b) :: rest)
    else (j, b) :: Memory.write rest a v

/-- The canonical form: addresses strictly rising and no listed byte equal to what an unlisted address reads as. -/
def Memory.wf (m : Memory) : Bool :=
  match m with
  | [] => true
  | (_, b) :: [] => b != unwritten
  | (a, b) :: (a', b') :: rest => b != unwritten && decide (a < a') && Memory.wf ((a', b') :: rest)

/-- The bytes from an address on. -/
def Memory.reads (m : Memory) (a n : Nat) : List Byte := (List.range n).map fun k => m.read (a + k)

/-- Write bytes from an address on. -/
def Memory.writes (m : Memory) (a : Nat) (bs : List Byte) : Memory :=
  match bs with
  | [] => m
  | b :: rest => Memory.writes (m.write a b) (a + 1) rest

/-- The line number of a physical address (R165). -/
def lineOf (pa : Nat) : Nat := pa / 128

/-- The context whose image holds a physical address, and the offset in the image (R94, R416): an image is in use once a context has
been dispatched into it. -/
def State.imageAt? (s : State) (pa : Nat) : Option (Nat × Nat) :=
  if Config.hbmBytes ≤ pa then none
  else
    let d := homeDie pa
    let die := s.die d
    if die.imgBase ≤ pa ∧ pa < die.imgBase + 8192 * die.imgCount then
      let cid := 65536 * d + (pa - die.imgBase) / 8192
      if (s.ctx? cid).isSome then some (cid, (pa - die.imgBase) % 8192) else none
    else none

/-- The byte at a home: the slice's byte, or the one in the memory behind it (R166); a line of an image is recalled (R94). -/
def State.homeByte (s : State) (pa : Nat) : Byte :=
  match s.imageAt? pa with
  | some (cid, o) =>
    (match s.ctx? cid with | some c => c.img.bytes.getD o 0 | none => 0)
  | none =>
    match s.slice.get? pa with
    | some b => b
    | none => s.dram.read pa

/-- The bytes at their homes. -/
def State.homeBytes (s : State) (pa n : Nat) : List Byte := (List.range n).map fun k => s.homeByte (pa + k)

/-- A little-endian word at its home. -/
def State.homeWord (s : State) (pa : Nat) : Word := BitVec.ofNat 64 (leNat (s.homeBytes pa 8))

/-- Set the latch of every watch on the regions that `n` bytes from a physical address touch (R191). -/
def State.latchPhys (s : State) (pa n : Nat) : State :=
  if n = 0 then s
  else
    { s with ctxs := s.ctxs.map fun p =>
        match p.2.watch with
        | some (.phys r) => if pa / 64 ≤ r ∧ r ≤ (pa + n - 1) / 64 then (p.1, { p.2 with latch := true }) else p
        | _ => p }

/-- Set the latch of every watch on a region of a grove's cluster memory (R191). -/
def State.latchBank (s : State) (g off n : Nat) : State :=
  if n = 0 then s
  else
    { s with ctxs := s.ctxs.map fun p =>
        match p.2.watch with
        | some (.bank h r) =>
          if h = g ∧ off / 64 ≤ r ∧ r ≤ (off + n - 1) / 64 then (p.1, { p.2 with latch := true }) else p
        | _ => p }

/-- Set the latch of the watches of a grove's own cores on a physical region: a store into the grove L1 copy (R191). -/
def State.latchGrove (s : State) (g pa n : Nat) : State :=
  if n = 0 then s
  else
    { s with ctxs := s.ctxs.map fun p =>
        match p.2.watch, p.2.where_ with
        | some (.phys r), .slot c _ =>
          if coreGrove c = g ∧ pa / 64 ≤ r ∧ r ≤ (pa + n - 1) / 64 then (p.1, { p.2 with latch := true }) else p
        | _, _ => p }

/-- An image with some of its bytes replaced (R94); the saved entries keep what the bytes do not hold. -/
def Image.patch (m : Image) (edits : List (Nat × Byte)) : Image :=
  let bs := m.bytes.zipIdx.map fun p => match edits.find? fun e => e.1 == p.2 with | some e => e.2 | none => p.1
  let n := Image.ofBytes bs
  let old := m.saved ++ m.spare
  let keep := fun (k : Nat) (es : List SavedEntry) => es.zipIdx.map fun p =>
    match old[k + p.2]? with
    | some e => { p.1 with pc := e.pc, ord := e.ord, passed := e.passed }
    | none => p.1
  { n with saved := keep 0 n.saved, spare := keep n.saved.length n.spare }

/-- The 64 bytes of a line of an image (R92). -/
def Image.line (m : Image) (line : Nat) : BitVec 512 := BitVec.ofNat 512 (leNat ((m.bytes.drop (64 * line)).take 64))

/-- A line of an image leaves the register caches (R94, R103). One that is uncorrectable there is not written back: its home keeps what it
held when the line was fetched (R179). -/
def State.dropReg (s : State) (cid line : Nat) : State :=
  if !s.cores.any fun p => p.2.lines.contains (cid, line) then s
  else
    let lost := s.badSram.any fun p => match p with | .regs _ c l => c == cid && l == line | _ => false
    ({ s with
      cores := s.cores.map fun p =>
        if p.2.lines.contains (cid, line) then (p.1, { p.2 with lines := p.2.lines.filter fun l => l != (cid, line) }) else p
      badSram := s.badSram.filter fun p => match p with | .regs _ c l => !(c == cid && l == line) | _ => true } : State).updCtx cid fun c =>
        let img := match c.homes.get? line with
          | some w => if lost then c.img.patch ((leBytes 64 w.toNat).zipIdx.map fun b => (64 * line + b.2, b.1)) else c.img
          | none => c.img
        { c with img := img, homes := c.homes.erase line }

/-- An access of an agent to a physical line recalls what it holds of the image of a context that is not resident (R94). -/
def State.recallImage (s : State) (line : Nat) : State :=
  match s.imageAt? (128 * line) with
  | none => s
  | some (cid, o) =>
    match (s.ctx? cid).map Ctx.where_ with
    | some (.slot _ _) => s
    | _ => (s.dropReg cid (o / 64)).dropReg cid (o / 64 + 1)

/-- A store at the home to a line of an image (R94): discarded with a machine check while the context is resident. Else it is a write as any
other, which watches see (R191). -/
def State.imageWrite (s : State) (cid pa : Nat) (edits : List (Nat × Byte)) : State :=
  match s.ctx? cid with
  | none => s
  | some c =>
    match c.where_ with
    | .slot _ _ => s.machineCheck (homeDie pa) 2 0 (ctxTag cid) pa (homeHash pa) 0
    | _ => (s.setCtx cid { c with img := c.img.patch edits }).latchPhys pa edits.length

/-- The lines that `n` bytes from an address touch. -/
def linesOf (pa n : Nat) : List Nat := if n = 0 then [] else (List.range ((pa + n - 1) / 128 + 1 - pa / 128)).map (pa / 128 + ·)

/-- The sectors of a line that `n` bytes from a physical address touch (R165). -/
def sectorsOf (line pa n : Nat) : BitVec 4 :=
  BitVec.ofNat 4 (((List.range 4).map fun q =>
    if 128 * line + 32 * q < pa + n ∧ pa < 128 * line + 32 * q + 32 then 2 ^ q else 0).sum)

/-- The mask of `n` bytes from byte k. -/
def byteMask (k n : Nat) : BitVec 128 := (BitVec.ofNat 128 (2 ^ n - 1)) <<< k

/-- Byte k of an L1 line. -/
def lineByte (d : BitVec 1024) (k : Nat) : Byte := d.extractLsb' (8 * k) 8

/-- Set byte k of an L1 line. -/
def setLineByte (d : BitVec 1024) (k : Nat) (b : Byte) : BitVec 1024 :=
  (d &&& ~~~((0xFF#1024) <<< (8 * k))) ||| (b.setWidth 1024 <<< (8 * k))

/-- The line of a grove's L1, if it is there. -/
def Grove.line? (g : Grove) (line : Nat) : Option L1Line := g.l1.find? fun l => l.line == line

/-- Drop a line from a grove's L1. -/
def Grove.dropLine (g : Grove) (line : Nat) : Grove := { g with l1 := g.l1.filter fun l => l.line != line }

/-- Put a line first: it is the most recently used; a streaming line goes last, and its write-back into the slice likewise (R163). -/
def Grove.putLine (g : Grove) (l : L1Line) (streaming : Bool) : Grove :=
  let rest := g.l1.filter fun m => m.line != l.line
  let l := { l with stream := streaming }
  { g with l1 := if streaming then rest ++ [l] else l :: rest }

/-- The set of a slice that a line falls in: the line number divided by 256, modulo 512, the other bits of it choosing the grove (R161, R162).
DESIGN CHOICE (log 70): the spec gives 512 sets and no index. -/
def wayKey (g line : Nat) : Nat := 512 * g + line / 256 % 512

/-- The slice that holds a line for a die (R166, R167): its home slice on the home's own die, else the proxy slice of the same hash. -/
def sliceOf (d line : Nat) : Nat := 256 * d + homeHash (128 * line)

/-- A line in a slice, if it is there. -/
def State.way? (s : State) (g line : Nat) : Option Way := ((s.ways.get? (wayKey g line)).getD []).find? fun w => w.line == line

/-- Does a slice hold a sector? -/
def State.holdsSector (s : State) (g q : Nat) : Bool :=
  match s.way? g (q / 4) with
  | some w => w.sectors.getLsbD (q % 4)
  | none => false

/-- Does a place in SRAM still hold the data that went bad (R179)? -/
def State.siteLives (s : State) (p : SramSite) : Bool :=
  match p with
  | .slice g q => s.holdsSector g q
  | .l1 g q =>
    (match (s.grove g).line? (q / 4) with
     | some l => l.upd.isSome || l.valid.extractLsb' (32 * (q % 4)) 32 != 0#32
     | none => false)
  | .regs core cid line => (s.core core).lines.contains (cid, line)
  | .cluster _ _ => true
  | .bank _ _ => true

/-- Forget the errors of data that has left its place. -/
def State.sweep (s : State) : State := if s.badSram.isEmpty then s else { s with badSram := s.badSram.filter s.siteLives }

/-- Drop a line from a grove's L1. -/
def State.dropL1 (s : State) (g line : Nat) : State := (s.setGrove g ((s.grove g).dropLine line)).sweep

/-- The sectors that a range of bytes covers whole are no longer bad once all their bytes are written (R179). -/
def clearBad (bad : List Nat) (pa n : Nat) : List Nat :=
  bad.filter fun q => !(decide (pa ≤ 32 * q) && decide (32 * q + 32 ≤ pa + n))

/-- Is a sector of a range bad in the memory behind the home (R179)? What the home's slice holds is not read from there. -/
def State.badMemory (s : State) (pa n : Nat) : Bool :=
  s.bad.any fun q => decide (pa / 32 ≤ q) && decide (q ≤ (pa + n - 1) / 32) && !s.holdsSector (homeGrove (32 * q)) q

/-- Is a sector of a range bad in the slice in which a die looks for it (R167, R179)? -/
def State.badSlice (s : State) (d pa n : Nat) : Bool :=
  s.badSram.any fun p => match p with
    | .slice g q => decide (pa / 32 ≤ q) && decide (q ≤ (pa + n - 1) / 32) && (g == homeGrove (32 * q) || g == sliceOf d (q / 4))
    | _ => false

/-- Would a read by an agent of a die, or at the home, of a range consume bad data (R179)? -/
def State.badAt (s : State) (d pa n : Nat) : Bool := s.badMemory pa n || s.badSlice d pa n

/-- The memory code of R399 for a physical address: HBM, tier, or SRAM. -/
def memCode (pa : Nat) : Nat := if kindOfPa pa = kGlobal then 2 else if kindOfPa pa = kTier then 3 else 1

/-- The bad data that a read of `n` bytes by an agent of a die meets first (R179): its address, and the code of the memory that holds it. A
grove L1 or a slice is SRAM. -/
def State.badPlace (s : State) (d pa n : Nat) : Nat × Nat :=
  let first := fun q : Nat => max pa (32 * q)
  match ((List.range ((pa + n - 1) / 32 + 1 - pa / 32)).map (pa / 32 + ·)).find? fun q => s.badAt d (32 * q) 32 with
  | some q => (first q, if s.badSlice d (32 * q) 32 then 1 else memCode pa)
  | none => (pa, 1)

/-- Does a write to the memory behind a home go to a tier island without power, where it is lost? DESIGN CHOICE (log 84): the spec speaks of host
accesses to such an island alone (R18). -/
def State.tierDark (s : State) (pa : Nat) : Bool := kindOfPa pa == kTier && !s.tierPower.getLsbD (homeDie pa)

/-- Move the dirty bytes of some sectors of a line from its home slice to the memory behind it (R166). A line with a dirty sector among them that
is bad in the slice is not written (R179); a tier island without power takes nothing. -/
def State.spillSectors (s : State) (line : Nat) (m : BitVec 4) : State :=
  let g := homeGrove (128 * line)
  let out := fun p : Nat × Byte => lineOf p.1 == line && m.getLsbD (p.1 / 32 % 4)
  let lost := s.tierDark (128 * line) || s.slice.any fun p => out p && s.badSram.contains (.slice g (p.1 / 32))
  { s with
    dram := if lost then s.dram else (s.slice.filter out).foldr (fun p (m : Memory) => m.write p.1 p.2) s.dram
    slice := s.slice.filter fun p => !out p }

/-- A line leaves a slice (R166 to R168): a home line writes its dirty bytes back; a proxy copy is clean, and its die's presence bit goes. -/
def State.leaveSlice (s : State) (g line : Nat) : State :=
  let t := if homeGrove (128 * line) = g then s.spillSectors line 0xF
    else { s with proxies := match s.proxies.get? line with
      | some b => if b &&& ~~~(1#8 <<< groveDie g) = 0#8 then s.proxies.erase line
        else s.proxies.set line (b &&& ~~~(1#8 <<< groveDie g))
      | none => s.proxies }
  let ws := ((t.ways.get? (wayKey g line)).getD []).filter fun w => w.line != line
  ({ t with ways := if ws.isEmpty then t.ways.erase (wayKey g line) else t.ways.set (wayKey g line) ws } : State).sweep

/-- A line with dirty bytes at home leaves its slice for the memory behind it. -/
def State.spill (s : State) (line : Nat) : State := s.leaveSlice (homeGrove (128 * line)) line

/-- The ways of a set of a die's slices for home lines and for lines of other dies (R166, R167); while a reconfiguration is under way, the
lower of the old and the new (R168). -/
def State.slicePlan (s : State) (d : Nat) : Nat × Nat :=
  let n := (s.die d).rways.toNat % 16
  match (s.die d).rwaysPend with
  | some (old, _) => (16 - max old n, min old n)
  | none => (16 - n, n)

/-- The sums of a line in the combine buffer (R173). -/
def State.comb? (s : State) (line : Nat) : Option CombLine := s.combine.find? fun c => c.line == line

/-- A slice takes sectors of a line (R163, R166, R167): as the most recently used line, a streaming one as the least. A full set gives up its
least recently used line of the same kind, but no line with an entry in the combine buffer (R173); where there is none to give up, or no way,
the line is not held. -/
def State.hold (s : State) (g line : Nat) (m : BitVec 4) (streaming : Bool) : State :=
  let key := wayKey g line
  let ws := (s.ways.get? key).getD []
  let isHome := fun w : Nat => homeGrove (128 * w) == g
  let put := fun (t : State) (w : Way) =>
    let rest := ((t.ways.get? key).getD []).filter fun x => x.line != line
    { t with ways := t.ways.set key (if streaming then rest ++ [w] else w :: rest) }
  match ws.find? fun w => w.line == line with
  | some w => put s { w with sectors := w.sectors ||| m }
  | none =>
    let plan := s.slicePlan (groveDie g)
    let cap := if isHome line then plan.1 else plan.2
    let mine := ws.filter fun w => isHome w.line == isHome line
    if mine.length < cap then put s ⟨line, m⟩
    else
      match mine.reverse.find? fun w => (s.comb? w.line).isNone with
      | some v => if cap = 0 then s else put (s.leaveSlice g v.line) ⟨line, m⟩
      | none => s

/-- The sectors of a line that the memory behind its home holds good data of: a slice allocates no others (R179). -/
def State.goodSectors (s : State) (line : Nat) (m : BitVec 4) : BitVec 4 :=
  m &&& ~~~(BitVec.ofNat 4 (((List.range 4).map fun q => if s.bad.contains (4 * line + q) then 2 ^ q else 0).sum))

/-- The home slice takes the sectors of a line that a request names (R166). -/
def State.holdHome (s : State) (line : Nat) (m : BitVec 4) (streaming : Bool) : State :=
  let m' := s.goodSectors line m
  if kindOfPa (128 * line) = 0 || m' = 0#4 then s else s.hold (homeGrove (128 * line)) line m' streaming

/-- Dirty bytes of a line that no way of its slice holds go to the memory behind it at once. -/
def State.spillUnheld (s : State) (line : Nat) : State :=
  let m := match s.way? (homeGrove (128 * line)) line with | some w => w.sectors | none => 0
  if s.slice.any fun p => lineOf p.1 == line && !m.getLsbD (p.1 / 32 % 4) then s.spillSectors line (~~~m) else s

/-- Does a die take a copy of a line into its proxy slice (R163, R167)? Host lines are held on die 0 only. -/
def State.proxied (s : State) (d line : Nat) : Bool :=
  homeDie (128 * line) != d && kindOfPa (128 * line) != kHostm && kindOfPa (128 * line) != 0 && (s.slicePlan d).2 != 0

/-- A request of a die reads sectors of a line (R166, R167): where its proxy slice has them, the home is not asked; else the home slice takes
them, and the proxy, whose presence the home notes. -/
def State.touch (s : State) (d line : Nat) (m : BitVec 4) (streaming : Bool) : State :=
  if s.proxied d line then
    let g := sliceOf d line
    let have_ := match s.way? g line with | some w => m &&& ~~~w.sectors == 0#4 | none => false
    let s1 := if have_ then s else s.holdHome line m streaming
    let s2 := s1.hold g line m streaming
    if (s2.way? g line).isSome then
      { s2 with proxies := s2.proxies.set line (((s2.proxies.get? line).getD 0) ||| (1#8 <<< d)) }
    else s2
  else s.holdHome line m streaming

/-- A request of a die reads a range. -/
def State.touchRange (s : State) (d pa n : Nat) (streaming : Bool) : State :=
  (linesOf pa n).foldl (fun (t : State) line => t.touch d line (sectorsOf line pa n) streaming) s

/-- Every proxy copy of a line is invalidated, but for that of one die, which a write-back updates on its way (R167). -/
def State.dropProxies (s : State) (line : Nat) (keep : Option Nat) : State :=
  match s.proxies.get? line with
  | none => s
  | some b => ((List.range Config.dies).filter fun d => b.getLsbD d && some d != keep).foldl
      (fun (t : State) d => t.leaveSlice (sliceOf d line) line) s

/-- Bytes are written into their line at the home slice: the proxy copies are invalidated (R167), a sector that is written whole is good again
(R179), the slice holds what is written (R166), watches see it (R191). -/
def State.placeBytes (s : State) (line : Nat) (bs : List (Nat × Byte)) (keep : Option Nat) (streaming : Bool) : State :=
  let g := homeGrove (128 * line)
  let has := fun q k : Nat => bs.any fun p => p.1 == 128 * line + 32 * q + k
  let whole := (List.range 4).filter fun q => (List.range 32).all fun k => has q k
  let some_ := (List.range 4).filter fun q => (List.range 32).any fun k => has q k
  let m := BitVec.ofNat 4 ((some_.map fun q => 2 ^ q).sum)
  let s1 := s.dropProxies line keep
  let s2 : State := { s1 with
    slice := bs.foldl (fun (t : Tab Byte) p => t.set p.1 p.2) s1.slice
    bad := s1.bad.filter fun q => !(q / 4 == line && whole.contains (q % 4))
    badSram := s1.badSram.filter fun p => match p with
      | .slice h q => !(h == g && q / 4 == line && whole.contains (q % 4))
      | _ => true }
  (s2.holdHome line m streaming).spillUnheld line

/-- Bytes go to their homes with no sum of the combine buffer concerned, under policy 1 or another (R163). -/
def State.rawWriteAs (s : State) (pa : Nat) (bs : List Byte) (streaming : Bool) : State :=
  ((linesOf pa bs.length).foldl (fun (t : State) line =>
    t.placeBytes line ((bs.zipIdx.map fun p => (pa + p.2, p.1)).filter fun p => lineOf p.1 == line) none streaming) s).latchPhys pa bs.length

/-- Bytes go to their homes under policy 0. -/
def State.rawWrite (s : State) (pa : Nat) (bs : List Byte) : State := s.rawWriteAs pa bs false

/-- Round the sums of some words of a line, by byte offset, into the words (R173); the entry keeps its place in the order of use. -/
def State.roundWords (s : State) (line : Nat) (hit : Nat → Bool) : State :=
  match s.comb? line with
  | none => s
  | some c =>
    let t := (c.sums.filter fun p => hit p.1).foldl (fun (t : State) p =>
      t.rawWrite (128 * line + p.1) (leBytes 4 (roundF32 .rne p.2).1.toNat)) s
    let keep := c.sums.filter fun p => !hit p.1
    { t with combine := (t.combine.map fun q => if q.line = line then { q with sums := keep } else q).filter fun q => !q.sums.isEmpty }

/-- Round the sums of the words that `n` bytes from an address touch, into the words (R173). -/
def State.roundSums (s : State) (pa n : Nat) : State :=
  (linesOf pa n).foldl (fun (t : State) line =>
    t.roundWords line fun o => decide (pa < 128 * line + o + 4) && decide (128 * line + o < pa + n)) s

/-- What a store makes of the waiting sums of a line (R173): one whose word it replaces whole goes; one whose word it writes in part is
rounded first, since the word's other bytes are part of the sum. -/
def State.yieldSums (s : State) (line : Nat) (writes : Nat → Bool) : State :=
  match s.comb? line with
  | none => s
  | some _ =>
    let count := fun o : Nat => ((List.range 4).filter fun k => writes (o + k)).length
    let t := s.roundWords line fun o => count o != 0 && count o != 4
    { t with combine := (t.combine.map fun q =>
        if q.line = line then { q with sums := q.sums.filter fun p => count p.1 != 4 } else q).filter fun q => !q.sums.isEmpty }

/-- A HEAD word that a write has put outside TAIL − 64 to TAIL is put back, and the write is counted in the host error log (R325). `s` is the
state before the write. -/
def State.keepHeads (s t : State) (pa n : Nat) : State :=
  t.dies.foldl (fun (u : State) p =>
    match p.2.mbArea with
    | none => u
    | some a =>
      if pa + n ≤ a.2 || a.2 + 65536 ≤ pa then u
      else
        (List.range (n / 16 + 2)).foldl (fun (u : State) i =>
          let k := (pa - a.2) / 16 + i
          let w := a.2 + 16 * k
          if 4096 ≤ k || pa + n ≤ w + 8 || w + 16 ≤ pa || (u.homeWord w - u.homeWord (w + 8)).toNat ≤ 64 then u
          else (u.rawWrite (w + 8) (leBytes 8 (s.homeWord (w + 8)).toNat)).logHost p.1 2 (4096 * p.1 + k)) u) t

/-- Write bytes at their home: sums of the words give way (R173), proxy copies of the lines are invalidated (R167), watches see it (R191). -/
def State.homeWriteAs (s : State) (pa : Nat) (bs : List Byte) (streaming : Bool) : State :=
  match s.imageAt? pa with
  | some (cid, o) => s.imageWrite cid pa (bs.zipIdx.map fun p => (o + p.2, p.1))
  | none =>
    let s1 := if s.combine.isEmpty then s else (linesOf pa bs.length).foldl (fun (t : State) line =>
      t.yieldSums line fun o => decide (pa ≤ 128 * line + o) && decide (128 * line + o < pa + bs.length)) s
    s1.keepHeads (s1.rawWriteAs pa bs streaming) pa bs.length

/-- Write bytes at their home under policy 0. -/
def State.homeWrite (s : State) (pa : Nat) (bs : List Byte) : State := s.homeWriteAs pa bs false

/-- Writes by address, those that follow one another joined. -/
def joinRuns (ps : List (Nat × List Byte)) : List (Nat × List Byte) :=
  ps.foldr (fun p rs =>
    match rs with
    | (a, bs) :: rest => if p.1 + p.2.length = a then (p.1, p.2 ++ bs) :: rest else p :: rs
    | [] => [p]) []

/-- Several writes at their homes; what follows one another is one write, so that a sector it covers whole is good again (R179). -/
def State.homeWritesAs (s : State) (ps : List (Nat × List Byte)) (streaming : Bool) : State :=
  (joinRuns ps).foldl (fun (t : State) p => t.homeWriteAs p.1 p.2 streaming) s

/-- Several writes at their homes under policy 0. -/
def State.homeWrites (s : State) (ps : List (Nat × List Byte)) : State := s.homeWritesAs ps false

/-- The bytes of a line of a grove's L1 that are bad there (R179). -/
def State.badL1 (s : State) (g line : Nat) : BitVec 128 :=
  (List.range 4).foldl (fun (m : BitVec 128) q => if s.badSram.contains (.l1 g (4 * line + q)) then m ||| byteMask (32 * q) 32 else m) 0

/-- Apply a byte-masked write-back of a grove at the home, as one indivisible update (R176). The proxy copy of the grove's own die is updated on
the way (R167). A line with a dirty byte among them that is bad in the L1 is not written (R179). -/
def State.homeMasked (s : State) (g line : Nat) (data : BitVec 1024) (mask : BitVec 128) (streaming : Bool) : State :=
  if mask = 0 || mask &&& s.badL1 g line != 0 then s
  else
    let bs := ((List.range 128).filter fun k => mask.getLsbD k).map fun k => (128 * line + k, lineByte data k)
    match s.imageAt? (128 * line) with
    | some (cid, o) => s.imageWrite cid (128 * line) (bs.map fun p => (o + p.1 - 128 * line, p.2))
    | none =>
      let s1 := if s.combine.isEmpty then s else s.yieldSums line fun o => mask.getLsbD o
      s1.keepHeads ((s1.placeBytes line bs (some (groveDie g)) streaming).latchPhys (128 * line) 128) (128 * line) 128

/-- The identity of a partial (R171). -/
def rangeIdentity (op fmt : Nat) : Nat :=
  match op with
  | 0 => 0
  | 1 => 0x80000000
  | 2 => if fmt = 11 then 0x7FFFFFFF else if fmt = 13 then 0x7FFFFFFFFFFFFFFF else 0x7F800000
  | 3 => if fmt = 11 then 0x80000000 else if fmt = 13 then 0x8000000000000000 else 0xFF800000
  | _ => 0

/-- The operation of a range on two words (R171, R172): an FP32 add rounds under RNE. -/
def rangeOp (op fmt a b : Nat) : Nat :=
  let w := if fmt = 13 then 64 else 32
  match op with
  | 0 => (a + b) % 2 ^ w
  | 1 => (addRne (BitVec.ofNat 32 a) (BitVec.ofNat 32 b)).toNat
  | 2 =>
    if fmt = 1 then (minF32 (BitVec.ofNat 32 a) (BitVec.ofNat 32 b)).toNat
    else if toSigned w a ≤ toSigned w b then a else b
  | 3 =>
    if fmt = 1 then (maxF32 (BitVec.ofNat 32 a) (BitVec.ofNat 32 b)).toNat
    else if toSigned w a ≤ toSigned w b then b else a
  | _ => a ||| b

/-- Bytes of a word of a range format. -/
def rangeBytes (fmt : Nat) : Nat := if fmt = 13 then 8 else 4

/-- A line with every word at the identity of a range (R172). -/
def rangeLine (r : CRange) : BitVec 1024 :=
  let w := rangeBytes r.fmt
  BitVec.ofNat 1024 ((List.range (128 / w)).foldl (fun acc i => acc + rangeIdentity r.op r.fmt * 2 ^ (8 * w * i)) 0)

/-- The lines of a home slice in the combine buffer, and the least recently combined of them when another line would find no entry (R173). The
list is in order of use, the most recent first. -/
def State.combOldest (s : State) (line : Nat) : Option CombLine :=
  let home := homeGrove (128 * line)
  let mine := s.combine.filter fun c => homeGrove (128 * c.line) == home && c.line != line
  if 64 ≤ mine.length then mine.getLast? else none

/-- Make room for one more line in the combine buffer of a home slice: its least recently combined entry is rounded out when the
buffer holds 64 (R173). -/
def State.combRoom (s : State) (line : Nat) : State :=
  match s.combOldest line with
  | some old => s.roundSums (128 * old.line) 128
  | none => s

/-- Combine one grove's partial of a line at its home (R173): exact sums for FP32 add, the operation for the others. Watches see either (R191). -/
def State.combinePartial (s : State) (r : CRange) (l : L1Line) : State :=
  let w := rangeBytes r.fmt
  if r.op = 1 then
    let t := (s.combRoom l.line).holdHome l.line 0xF l.stream
    let old := match t.comb? l.line with | some c => c.sums | none => []
    let sums := (List.range 32).map fun i =>
      let part := valF32 (l.data.extractLsb' (32 * i) 32)
      let base :=
        match old.find? fun p => p.1 == 4 * i with
        | some p => p.2
        | none => valF32 (BitVec.ofNat 32 (leNat (t.homeBytes (128 * l.line + 4 * i) 4)))
      (4 * i, (FV.add .rne base part).1)
    ({ t with combine := { line := l.line, sums := sums } :: (t.combine.filter fun q => q.line != l.line) } : State).latchPhys (128 * l.line) 128
  else
    (List.range (128 / w)).foldl (fun (t : State) i =>
      let pa := 128 * l.line + w * i
      let part := (l.data.extractLsb' (8 * w * i) (8 * w)).toNat
      t.homeWriteAs pa (leBytes w (rangeOp r.op r.fmt (leNat (t.homeBytes pa w)) part)) l.stream) s

/-- Write a line of a grove back to its home: dirty bytes under their mask, or an update-only partial (R165, R173), unless it is uncorrectable
(R179). -/
def State.writeBackLine (s : State) (g : Nat) (l : L1Line) : State :=
  match l.upd with
  | none => s.homeMasked g l.line l.data l.dirty l.stream
  | some k =>
    match s.ranges.get? k with
    | some r => if s.badL1 g l.line = 0 then s.combinePartial r l else s
    | none => s

/-- An access other than a matching atomic reaches a line: every update-only copy is recalled and combined, holders in ascending
grove number (R173); a line of an image comes back from the register caches (R94). -/
def State.recallLine (s : State) (line : Nat) : State :=
  s.groves.keys.foldl (fun (t : State) g =>
    match (t.grove g).line? line with
    | some l => if l.upd.isSome then (t.writeBackLine g l).dropL1 g line else t
    | none => t) (s.recallImage line)

/-- A read at the home of the words that `n` bytes touch: partials are recalled and sums rounded first (R173). -/
def State.settle (s : State) (pa n : Nat) : State :=
  ((linesOf pa n).foldl (fun (t : State) line => t.recallLine line) s).roundSums pa n

/-- A read by an agent of a die at the home of a range (R163, R166, R167, R173, R179): the bytes, or none when bad data would be consumed. -/
def State.readHomeAs (s : State) (d pa n : Nat) (streaming : Bool) : State × Option (List Byte) :=
  let s1 := s.settle pa n
  if s1.badAt d pa n then (s1, none) else (s1.touchRange d pa n streaming, some (s1.homeBytes pa n))

/-- A read at the home under policy 0. -/
def State.readHome (s : State) (d pa n : Nat) : State × Option (List Byte) := s.readHomeAs d pa n false

/-- A grove L1 has room for a line: the least recently used line of a full set is evicted (R165; log 5). DESIGN CHOICE (log 5): the set of a line
is its number modulo 64; the spec gives 64 sets, physically indexed, and not the bits. -/
def State.l1Room (s : State) (g line : Nat) : State :=
  let inSet := (s.grove g).l1.filter fun l => l.line % 64 == line % 64 && l.line != line
  match inSet.getLast? with
  | some old => if 8 ≤ inSet.length then (s.writeBackLine g old).dropL1 g old.line else s
  | none => s

/-- Add to the set of groves to drain (R169 step 2): 16 groves, then all. -/
def Pending.add (p : Pending) (g : Nat) (cores : BitVec 8) : Pending :=
  match p with
  | .all => .all
  | .listed es =>
    match es.find? fun e => e.1 == g with
    | some _ => .listed (es.map fun e => if e.1 = g then (e.1, e.2 ||| cores) else e)
    | none => if es.length < 16 then .listed (es ++ [(g, cores)]) else .all

/-- What the release record of a line returns: groves and cores (R169 step 2). -/
def State.recordOf (s : State) (line : Nat) : List (Nat × BitVec 8) :=
  ((s.records.get? line).getD []).map fun e => (e.grove, e.cores)

/-- A core adds what a record has returned to its pending-drain set (R169 step 2). -/
def State.pend (s : State) (core : Nat) (es : List (Nat × BitVec 8)) : State :=
  if es.isEmpty then s
  else
    let c := s.core core
    s.setCore core { c with pending := es.foldl (fun p e => p.add e.1 e.2) c.pending }

/-- A load performed at a home brings the release record of the line back to the core (R169 step 2). -/
def State.takeRecord (s : State) (core line : Nat) : State := s.pend core (s.recordOf line)

/-- The sectors of a line that hold a byte of the range that is not valid (R165). -/
def missingSectors (l : L1Line) (k n : Nat) : List Nat :=
  (List.range 4).filter fun q =>
    (List.range n).any fun i => (k + i) / 32 == q && !(l.valid.getLsbD (k + i))

/-- Fill a sector of a line from its home under the dirty mask (R165). -/
def State.fillSector (s : State) (l : L1Line) (q : Nat) : L1Line :=
  let data := (List.range 32).foldl (fun (d : BitVec 1024) i =>
    let k := 32 * q + i
    if l.dirty.getLsbD k then d else setLineByte d k (s.homeByte (128 * l.line + k))) l.data
  { l with data := data, valid := l.valid ||| byteMask (32 * q) 32 }

/-- An empty line. -/
def L1Line.fresh (line : Nat) : L1Line :=
  { line := line, data := 0, valid := 0, dirty := 0, byCore := 0, byAtom := 0, upd := none, recs := [], stream := false }

/-- A line whose dirty bytes under a mask have been written back; where one of them was bad, none was written, and they and the bad ones are no
longer there (R179). -/
def L1Line.written (l : L1Line) (mask bad : BitVec 128) : L1Line :=
  let out := l.dirty &&& mask
  let dirty := l.dirty &&& ~~~mask
  { l with
    dirty := dirty, byCore := if dirty = 0 then 0 else l.byCore, byAtom := if dirty = 0 then 0 else l.byAtom
    valid := if bad &&& out = 0 then l.valid else l.valid &&& ~~~(out ||| (bad &&& ~~~dirty)) }

/-- A line with no dirty byte, once it has been written back. -/
def L1Line.clean (l : L1Line) (bad : BitVec 128) : L1Line := l.written (~~~0) bad

/-- Bytes of a line. -/
def L1Line.bytes (l : L1Line) (k n : Nat) : List Byte := (List.range n).map fun i => lineByte l.data (k + i)

/-- Would a read of bytes of a line that are in a grove's L1 consume bad data (R179)? -/
def State.badInL1 (s : State) (g line k n : Nat) : Bool := !s.badSram.isEmpty && s.badL1 g line &&& byteMask k n != 0

/-- The release records that a line's fills have brought join with those of one more fill (R169 step 2). -/
def joinRecs (old new : List (Nat × BitVec 8)) : List (Nat × BitVec 8) :=
  new.foldl (fun acc e => if acc.any fun a => a.1 == e.1 then acc.map fun a => if a.1 = e.1 then (a.1, a.2 ||| e.2) else a
    else acc ++ [e]) old

/-- A load through the grove L1 (R165) of bytes of one line, or none when bad data would be consumed. A hit takes the
release record that came with the line's fills, whichever core of the grove asked for them (R169 step 2, R280; log 71). -/
def State.l1Load (s : State) (core pa n : Nat) (streaming : Bool) : State × Option (List Byte) :=
  let g := coreGrove core
  let d := coreDie core
  let line := lineOf pa
  let k := pa % 128
  let s0 := s.recallLine line
  let l := ((s0.grove g).line? line).getD (L1Line.fresh line)
  let miss := missingSectors l k n
  if s0.badInL1 g line k n then (s0, none)
  else if miss.isEmpty then
    ((s0.setGrove g ((s0.grove g).putLine l streaming)).pend core l.recs, some (l.bytes k n))
  else if miss.any (fun q => s0.badAt d (128 * line + 32 * q) 32) then (s0, none)
  else
    let s1 := miss.foldl (fun (t : State) q => t.roundSums (128 * line + 32 * q) 32) s0
    let m := BitVec.ofNat 4 ((miss.map fun q => 2 ^ q).sum)
    let recs := joinRecs l.recs (s1.recordOf line)
    let s2 := ((s1.l1Room g line).pend core recs).touch d line m streaming
    let l' := miss.foldl (fun l q => s2.fillSector l q) { l with recs := recs }
    (s2.setGrove g ((s2.grove g).putLine l' streaming), some (l'.bytes k n))

/-- A write into the grove L1 (R165), of bytes of one line: allocates without a fetch; a bad sector that it replaces whole is good again (R179). The dirty-by-core bit of a core is set by its stores; what an atomic leaves is
the core's own dirty data all the same (R169 step 6), and no drain request for a record names it (R301; log 72). -/
def State.l1Put (s : State) (core pa : Nat) (bs : List Byte) (streaming atomic : Bool) : State :=
  let g := coreGrove core
  let line := lineOf pa
  let k := pa % 128
  let s0 := s.recallLine line
  let s1 := if ((s0.grove g).line? line).isSome then s0 else s0.l1Room g line
  let l := ((s1.grove g).line? line).getD (L1Line.fresh line)
  let data := bs.zipIdx.foldl (fun d p => setLineByte d (k + p.2) p.1) l.data
  let m := byteMask k bs.length
  let l' := { l with
    data := data, valid := l.valid ||| m, dirty := l.dirty ||| m
    byCore := if atomic then l.byCore else l.byCore ||| coreBit core
    byAtom := if atomic then l.byAtom ||| coreBit core else l.byAtom }
  let s2 := s1.setGrove g ((s1.grove g).putLine l' streaming)
  let s3 := if s2.badSram.isEmpty then s2 else
    { s2 with badSram := s2.badSram.filter fun p => match p with
      | .l1 h q => !(h == g && decide (pa ≤ 32 * q) && decide (32 * q + 32 ≤ pa + bs.length))
      | _ => true }
  s3.latchGrove g pa bs.length

/-- A store into the grove L1 (R165). -/
def State.l1Store (s : State) (core pa : Nat) (bs : List Byte) (streaming : Bool) : State := s.l1Put core pa bs streaming false

/-- A load at the slice level of bytes of one line, which merges those dirty in a grove's L1 (R165 `.nc`, R181 policy 2): it changes no L1 state. -/
def State.ncLoad (s : State) (core : Nat) (grove? : Option Nat) (pa n : Nat) (streaming : Bool) : State × Option (List Byte) :=
  let line := lineOf pa
  let d := coreDie core
  let s0 := s.settle pa n
  let own := grove?.bind fun g => (s0.grove g).line? line
  let dirty := fun i : Nat => match own with | some l => l.dirty.getLsbD (pa % 128 + i) | none => false
  let byte := fun i : Nat =>
    match own with
    | some l => if dirty i then lineByte l.data (pa % 128 + i) else s0.homeByte (pa + i)
    | none => s0.homeByte (pa + i)
  let badOwn := match grove? with
    | some g => !s0.badSram.isEmpty && (List.range n).any fun i => dirty i && (s0.badL1 g line).getLsbD (pa % 128 + i)
    | none => false
  if badOwn || ((List.range n).any fun i => !dirty i) && s0.badAt d pa n then (s0, none)
  else ((s0.takeRecord core line).touchRange d pa n streaming, some ((List.range n).map byte))

/-- A grove writes back its dirty bytes of a line and drops the line (R175, R181, R183). -/
def State.pushLine (s : State) (g line : Nat) : State :=
  match (s.grove g).line? line with
  | some l => (s.writeBackLine g l).dropL1 g line
  | none => s

/-- The partials of the lines of a range are recalled before a store at their home (R173). -/
def State.recallRange (s : State) (pa n : Nat) : State := (linesOf pa n).foldl (fun (t : State) line => t.recallLine line) s

/-- A store at the home (R181 policy 2): the own grove first pushes its line. -/
def State.homeStore (s : State) (grove? : Option Nat) (pa : Nat) (bs : List Byte) (streaming : Bool) : State :=
  let s0 := s.recallRange pa bs.length
  let s1 := match grove? with | some g => s0.pushLine g (lineOf pa) | none => s0
  s1.homeWriteAs pa bs streaming

/-- Write back the lines of a grove that a test names; they stay, clean (R169 step 3). -/
def State.drainLines (s : State) (g : Nat) (hit : L1Line → Bool) : State :=
  let out := (s.grove g).l1.filter hit
  let s1 := out.foldl (fun (t : State) l => t.homeMasked g l.line l.data l.dirty l.stream) s
  let gr := s1.grove g
  (s1.setGrove g { gr with l1 := gr.l1.map fun l => if hit l then l.clean (s1.badL1 g l.line) else l }).sweep

/-- Drain the lines of a grove whose dirty-by-core bit of a named core is set (R169 step 3). -/
def State.drain (s : State) (g : Nat) (cores : BitVec 8) : State :=
  s.drainLines g fun l => l.upd.isNone && l.byCore &&& cores != 0

/-- Drain every dirty line of a grove (R281, R282). -/
def State.drainGrove (s : State) (g : Nat) : State := s.drainLines g fun l => l.upd.isNone && l.dirty != 0

/-- Invalidate every byte of a grove's L1 that is valid and not dirty (R169 step 4). -/
def State.invalidate (s : State) (g : Nat) : State :=
  let gr := s.grove g
  let kept := gr.l1.map fun l => if l.upd.isSome then l else { l with valid := l.dirty, recs := [] }
  (s.setGrove g { gr with l1 := kept.filter fun l => l.upd.isSome || l.valid != 0 }).sweep

/-- Does a scope named by an agent of one die and grove contain another grove (R279, R441)? -/
def scopeHas (sc : Scope) (own : Option Nat) (ownDie g : Nat) : Bool :=
  match sc with
  | .core | .grove => own == some g
  | .die => groveDie g == ownDie
  | .device | .fabric => true

/-- Does a scope reach beyond the grove? -/
def scopeWide (sc : Scope) : Bool :=
  match sc with
  | .core | .grove => false
  | _ => true

/-- The grove of a core; a service core has none (R441). -/
def groveOf (core : Nat) : Option Nat := if isService core then none else some (coreGrove core)

/-- The wider of two scopes. -/
def scopeJoin (a b : Scope) : Scope := if a.code.toNat ≤ b.code.toNat then b else a

/-- A release access adds its entry to the record of the line (R169 step 1, R183): one entry per grove; a ninth grove drains and
removes the oldest. DESIGN CHOICE (log 5): an entry that a later release of its grove replaces keeps its place in the order of age; the spec
does not say whether it counts as new. -/
def State.addRecord (s : State) (core line : Nat) (sc : Scope) : State :=
  match groveOf core with
  | none => s
  | some g =>
    let es := (s.records.get? line).getD []
    match es.find? fun e => e.grove == g with
    | some _ =>
      { s with records := s.records.set line (es.map fun e =>
          if e.grove = g then { e with cores := e.cores ||| coreBit core, scope := scopeJoin e.scope sc } else e) }
    | none =>
      let e : RelEntry := { grove := g, cores := coreBit core, scope := sc }
      match es with
      | old :: rest =>
        if 8 ≤ es.length then
          let t := s.drain old.grove old.cores
          { t with records := t.records.set line (rest ++ [e]) }
        else { s with records := s.records.set line (es ++ [e]) }
      | [] => { s with records := s.records.set line [e] }

/-- The acquire steps at a home: select, drain and remove the entries that both scopes order, then invalidate the acquirer's clean
bytes (R169 step 4, R441). -/
def State.acquireLine (s : State) (core line : Nat) (sc : Scope) : State :=
  let own := groveOf core
  let d := coreDie core
  let es := (s.records.get? line).getD []
  let sel := fun e : RelEntry =>
    some e.grove != own && scopeHas sc own d e.grove &&
      (match own with
       | some h => scopeHas e.scope (some e.grove) (groveDie e.grove) h
       | none => (match e.scope with | .die => groveDie e.grove == d | .device | .fabric => true | _ => false))
  let s1 := (es.filter sel).foldl (fun (t : State) e => t.drain e.grove e.cores) s
  let keep := es.filter fun e => !sel e
  let s2 := { s1 with records := if keep.isEmpty then s1.records.erase line else s1.records.set line keep }
  match own with
  | some h => s2.invalidate h
  | none => s2

/-- The groves whose releases a core has read and not drained: its pending-drain set, with what narrower fences have cleared from it
undrained, which R280 still counts (log 71). -/
def Core.undrained (c : Core) : Pending :=
  match c.beyond with
  | .all => .all
  | .listed es => es.foldl (fun p e => p.add e.1 e.2) c.pending

/-- What lies outside a scope: the groves that a fence of that scope sends no drain request to (R169 step 5). -/
def Pending.outside (p : Pending) (sc : Scope) (own : Option Nat) (d : Nat) : Pending :=
  match p with
  | .listed es => .listed (es.filter fun e => !scopeHas sc own d e.1)
  | .all => if sc = .die then .all else .listed []

/-- Drain what the core's pending-drain set names within a scope (R169 step 5); the set is kept. -/
def State.drainPending (s : State) (core : Nat) (sc : Scope) : State :=
  let own := groveOf core
  let d := coreDie core
  match (s.core core).undrained with
  | .listed es => (es.filter fun e => scopeHas sc own d e.1).foldl (fun (t : State) e => t.drain e.1 e.2) s
  | .all => (s.groves.keys.filter fun g => scopeHas sc own d g).foldl (fun (t : State) g => t.drain g 0xFF) s

/-- The actions of an acquire fence at die scope or wider (R169 step 5): the drains, the set cleared, and the invalidation. A grove outside
the scope is remembered for a wider fence (R280; log 71). -/
def State.acquireFence (s : State) (core : Nat) (sc : Scope) : State :=
  let s1 := s.drainPending core sc
  let k := s1.core core
  let s2 := s1.setCore core { k with pending := .listed [], beyond := k.undrained.outside sc (groveOf core) (coreDie core) }
  match groveOf core with
  | some h => s2.invalidate h
  | none => s2

/-- The actions of a release fence at die scope or wider: the core's own dirty lines are drained (R169 step 6). -/
def State.releaseFence (s : State) (core : Nat) : State :=
  match groveOf core with
  | some g => s.drainLines g fun l => l.upd.isNone && (l.byCore ||| l.byAtom) &&& coreBit core != 0
  | none => s

/-- Cluster memory: the bytes of a grove's banks (R161). -/
def State.bankBytes (s : State) (g off n : Nat) : List Byte := (s.grove g).cluster.reads off n

/-- Would a read of a grove's banks consume bad data (R179)? -/
def State.badBank (s : State) (g off n : Nat) : Bool :=
  s.badSram.any fun p => match p with
    | .cluster h q => h == g && decide (0 < n) && decide (off / 32 ≤ q) && decide (q ≤ (off + n - 1) / 32)
    | _ => false

/-- A read of a grove's banks: the bytes, or none when bad data would be consumed. -/
def State.readBank (s : State) (g off n : Nat) : Option (List Byte) := if s.badBank g off n then none else some (s.bankBytes g off n)

/-- The lines of one kind that a set no longer has ways for: the least recently used ones. Which way holds a line is not told, so which lines a
reconfiguration takes is the model's choice (DESIGN CHOICE, log 16). -/
def surplus (ws : List Way) (mine : Way → Bool) (cap : Nat) : List Nat := ((ws.filter mine).drop cap).map Way.line

/-- The way sets of a die reconfigure (R168, R173): a way that becomes reserved writes back its dirty local line, whose sums are rounded first,
and drops it; a way that stops being reserved drops its remote line. -/
def State.rewayed (s : State) (d : Nat) : State :=
  match (s.die d).rwaysPend with
  | none => s
  | some _ =>
    let s1 := s.setDie d { s.die d with rwaysPend := none }
    let plan := s1.slicePlan d
    (s1.ways.filter fun p => groveDie (p.1 / 512) == d).foldl (fun (t : State) p =>
      let g := p.1 / 512
      let isHome := fun w : Way => homeGrove (128 * w.line) == g
      let out := surplus p.2 isHome plan.1 ++ surplus p.2 (fun w => !isHome w) plan.2
      out.foldl (fun (u : State) line =>
        (if homeGrove (128 * line) = g then u.roundSums (128 * line) 128 else u).leaveSlice g line) t) s1

/-- 65,536 cycles of the mesh, at 1.6 GHz, in picoseconds: the limit of a reconfiguration (R2, R168). -/
def rewayLimit : Nat := 40960000

/-- Reconfigurations that have had their whole time have ended (R168). -/
def State.rewayDue (s : State) : State :=
  (s.dies.filter fun p => match p.2.rwaysPend with | some (_, t) => decide (t + rewayLimit ≤ s.sync) | none => false).foldl
    (fun (t : State) p => t.rewayed p.1) s

/-- Write bytes of a grove's banks; what is written whole is good again (R179); watches see it (R191). -/
def State.bankWrite (s : State) (g off : Nat) (bs : List Byte) : State :=
  let gr := s.grove g
  let s1 := s.setGrove g { gr with cluster := gr.cluster.writes off bs }
  let s2 := if s1.badSram.isEmpty then s1 else
    { s1 with badSram := s1.badSram.filter fun p => match p with
      | .cluster h q => !(h == g && decide (off ≤ 32 * q) && decide (32 * q + 32 ≤ off + bs.length))
      | _ => true }
  s2.latchBank g off bs.length

end Sys2Proof.Machine
end

