-- ==== Sys2Proof/Machine/Regs.lean ====
section
/-! DEFINITION. The management space as a read sees it (R410, R411 and the field maps of R313, R340, R355, R373, R379, R385, R393,
R407, R409, R413, R416, R420, R421, R426): registers of 8 bytes by die and offset. The writes are in `Host`. -/

namespace Sys2Proof.Machine

open Sys2Proof

/-- The first physical address of the management windows (R410). -/
def mgmtBase : Nat := 0x4000000000000
/-- Bytes of one die's window (R410). -/
def mgmtBytes : Nat := 0x10000000

/-- The die and the offset of an address in the management windows. -/
def mgmtAt? (pa : Nat) : Option (Nat × Nat) :=
  if mgmtBase ≤ pa ∧ pa < mgmtBase + Config.dies * mgmtBytes then some ((pa - mgmtBase) / mgmtBytes, (pa - mgmtBase) % mgmtBytes)
  else none

/-- Where an offset of a window lies (R410). `word` numbers the 8-byte word of a block or of a register. -/
inductive RegAt
  /-- The module block: `ldcmd` to `incinit[7]`. -/
  | module_ (i : Nat)
  /-- `ptroot[i]`. -/
  | ptroot (i : Nat)
  /-- The die registers: `poolcfg` to `rgarea`. -/
  | die (i : Nat)
  /-- Word `word` of template slot n. -/
  | template (n word : Nat)
  /-- Word `word` of a log (0 host, 1 die, 2 engine): 0 is COUNT. -/
  | log (which word : Nat)
  /-- `psent` and `pland` (0 and 1) of a core of the die. -/
  | counter (core i : Nat)
  /-- An entry of a core's rate table. -/
  | rate (core i : Nat)
  /-- Word `word` of the registers of tag c: 0 to 3 `hqdata`, 4 `hqtail`, 5 `hqprog`, 6 `hqstat`. -/
  | queue (c word : Nat)
  /-- Word `word` of the registers of a mailbox of the die: 0 to 3 `mbpost`, 4 `mbstat`. -/
  | mailbox (m word : Nat)
  /-- No register. -/
  | unassigned
  deriving DecidableEq, Repr

/-- The register at an offset (R410); the three logs stand one after the other, host, die, engine. -/
def regAt (off : Nat) : RegAt :=
  let o := off / 8 * 8
  if o < 0x10000 then (if o / 8 < 26 && o / 8 != 8 then .module_ (o / 8) else .unassigned)
  else if o < 0x18000 then .ptroot ((o - 0x10000) / 8)
  else if o < 0x100000 then .unassigned
  else if o < 0x100060 then .die ((o - 0x100000) / 8)
  else if o < 0x200000 then .unassigned
  else if o < 0x200800 then .template ((o - 0x200000) / 32) ((o - 0x200000) / 8 % 4)
  else if o < 0x300000 then .unassigned
  else if o < 0x300000 + 3 * 4104 then .log ((o - 0x300000) / 4104) ((o - 0x300000) % 4104 / 8)
  else if o < 0x1000000 then .unassigned
  else if o < 0x1000000 + 2048 * 4096 then
    let k := (o - 0x1000000) / 4096
    let r := (o - 0x1000000) % 4096
    if r < 16 then .counter k (r / 8) else if 0x200 ≤ r ∧ r < 0x400 then .rate k ((r - 0x200) / 8) else .unassigned
  else if o < 0x4000000 then .unassigned
  else if o < 0x4400000 then
    (if (o - 0x4000000) % 64 < 56 then .queue ((o - 0x4000000) / 64) ((o - 0x4000000) % 64 / 8) else .unassigned)
  else if o < 0x8000000 then .unassigned
  else if o < 0x8040000 then
    (if (o - 0x8000000) % 64 < 40 then .mailbox ((o - 0x8000000) / 64) ((o - 0x8000000) % 64 / 8) else .unassigned)
  else .unassigned

/-- `mbver` (R413). -/
def State.mbver (s : State) : Word := BitVec.ofNat 64 (s.mbsel.toNat * 256 + 1)

/-- `pwrcap` (R426). -/
def State.pwrcap (s : State) : Word :=
  BitVec.ofNat 64 ((if s.hot then 2 ^ 32 else 0) + s.clk % 2 ^ 16 * 2 ^ 16 + s.watts.toNat)

/-- `incctl[k]` (R385). -/
def Incumbent.ctl (i : Incumbent) : Word :=
  BitVec.ofNat 64 ((if i.busy then 128 else 0) + (if i.kt then 4 else 0) + (if i.sense then 2 else 0) + (if i.v then 1 else 0))

/-- A word of the module block (R410). -/
def State.moduleReg (s : State) (i : Nat) : Word :=
  match i with
  | 0 => s.ldcmd
  | 1 => s.ldsts
  | 2 => s.ckcmd
  | 3 => s.cksts
  | 4 => s.mbver
  | 5 => s.pwrcap
  | 6 => s.fabwin
  | 7 => s.rasid
  | 9 => if s.attcmd then 1 else 0
  | _ =>
    if 10 ≤ i ∧ i < 18 then (s.incumbents.toList.getD (i - 10) Incumbent.fresh).ctl
    else if 18 ≤ i ∧ i < 26 then (s.incumbents.toList.getD (i - 18) Incumbent.fresh).init
    else 0

/-- `poolstat` (R313). -/
def Die.poolstat (d : Die) : Word :=
  BitVec.ofNat 64 ((d.pool.filter fun e => e.hold.isSome).length * 2 ^ 32 + d.pool.length)

/-- A die register (R313, R340, R355, R393, R409). -/
def Die.reg (d : Die) (i : Nat) : Word :=
  match i with
  | 0 => d.poolcfg
  | 1 => d.poolstat
  | 2 => d.killcnt
  | 3 => d.fabcnt[0]
  | 4 => d.fabcnt[1]
  | 5 => d.fabcnt[2]
  | 6 => d.fabcnt[3]
  | 7 => BitVec.ofNat 64 ((if d.mcOvf then 256 else 0) + d.mcq.length)
  | 8 => match d.mcq with | r :: _ => r.rec0 | [] => 0
  | 9 => match d.mcq with | r :: _ => r.rec1 | [] => 0
  | 11 => d.rgarea
  | _ => 0

/-- A word of a descriptor. -/
def Desc.word (d : Desc) (i : Nat) : Word :=
  match i with
  | 0 => d.w0
  | 1 => d.w1
  | 2 => d.w2
  | _ => d.w3

/-- A log of a die: 0 host, 1 die, 2 engine. -/
def Die.log (d : Die) (which : Nat) : Log :=
  match which with
  | 0 => d.hostLog
  | 1 => d.dieLog
  | _ => d.engLog

/-- A word of a log (R411). -/
def Log.word (l : Log) (i : Nat) : Word :=
  match i with
  | 0 => l.count
  | j + 1 =>
    match l.ring.get? (j / 2) with
    | some r => if j % 2 = 0 then r.w0 else r.w1
    | none => 0

/-- A rate-table entry as firmware reads it (R373). -/
def rateWord (e : Option RateEntry) : Word :=
  match e with
  | some e => BitVec.ofNat 64 (2 ^ 63 + e.q % 128 * 2 ^ 17 + e.die % 8 * 2 ^ 14 + e.dev % 2 ^ 14)
  | none => 0

/-- The mailbox m (R323). -/
def State.mbox (s : State) (m : Nat) : Mbox := (s.mboxes.get? m).getD { post := 0, full := false, bind := 0 }

/-- The physical address of a mailbox's index pair (R323): TAIL, and HEAD 8 bytes above. -/
def State.mbIndex (s : State) (m : Nat) : Option Nat := (s.die (m / 4096)).mbArea.map fun a => a.2 + 16 * (m % 4096)

/-- TAIL of a mailbox. -/
def State.mbTail (s : State) (m : Nat) : Word := match s.mbIndex m with | some pa => s.homeWord pa | none => 0

/-- HEAD of a mailbox as the device takes it (R325): a value outside TAIL − 64 to TAIL is ignored, so the last one in range holds. -/
def State.mbHead (s : State) (m : Nat) : Word := match s.mbIndex m with | some pa => s.homeWord (pa + 8) | none => 0

/-- `mbstat[m]` (R413). -/
def State.mbstat (s : State) (m : Nat) : Word :=
  BitVec.ofNat 64 ((s.mbTail m - s.mbHead m).toNat % 128 * 2 ^ 32 + (if (s.mbox m).bind.getLsbD 63 then 2 else 0) +
    (if (s.mbox m).full then 1 else 0))

/-- The host-queue registers of a tag (R407); without a context they read 0. -/
def State.queueReg (s : State) (d c i : Nat) : Word :=
  match s.ctx? (65536 * d + c) with
  | none => 0
  | some x =>
    match i with
    | 4 => (x.img.div1.extractLsb' 32 32).setWidth 64
    | 5 => (x.img.div1.extractLsb' 0 32).setWidth 64
    | 6 => BitVec.ofNat 64 ((if x.hqOpen then 2 else 0) + (if x.hqFull then 1 else 0))
    | _ => 0

/-- A read of a management register (R3, R410): WO fields read 0, an unassigned offset reads 0, and the module block is on die 0. -/
def State.readReg (s : State) (d off : Nat) : Word :=
  match regAt off with
  | .module_ i => if d = 0 then s.moduleReg i else 0
  | .ptroot i => if d = 0 then (s.ptroot.get? i).getD 0 else 0
  | .die i => (s.die d).reg i
  | .template n w => ((s.die d).template.toList.getD n Desc.zero).word w
  | .log k w => ((s.die d).log k).word w
  | .counter k i => let c := s.core (2048 * d + k); if i = 0 then c.psent else c.pland
  | .rate k i => rateWord ((s.core (2048 * d + k)).rate.get? i)
  | .queue c i => s.queueReg d c i
  | .mailbox m i => if i = 4 then s.mbstat (4096 * d + m) else 0
  | .unassigned => 0

/-- Bytes of a management register. -/
def State.readRegBytes (s : State) (d off n : Nat) : List Byte :=
  ((leBytes 8 (s.readReg d off).toNat).drop (off % 8)).take n

/-- Is a turn a write that a service core has sent? -/
def Turn.isPosted (t : Turn) : Bool :=
  match t with
  | .write _ _ _ => true
  | _ => false

/-- What the bytes of a register that a narrow store leaves out are written as: as an earlier store still on its way writes them; the bytes of
the previous post in `mbpost` and `hqdata` (R407, R414); 0 in a register with a field of code W1C (`mcsts`, `hqstat`, `mbstat`); and as
they read in the others (R3; log 27). -/
def State.restOfReg (s : State) (d off : Nat) : Word :=
  let earlier := (s.agenda.takeWhile Turn.isPosted).reverse.findSome? fun t =>
    match t with
    | .write dd o w => if dd = d ∧ o = off / 8 * 8 then some w else none
    | _ => none
  match earlier with
  | some w => w
  | none =>
    match regAt off with
    | .die 7 | .queue _ 6 | .mailbox _ 4 => 0
    | .queue c i =>
      if i < 4 then (match s.ctx? (65536 * d + c) with | some x => x.hqBuf.extractLsb' (64 * i) 64 | none => 0) else s.readReg d off
    | .mailbox m i => (s.mbox (4096 * d + m)).post.extractLsb' (64 * i) 64
    | _ => s.readReg d off

/-- A store of a service core to the management space (R410): the write goes to its register in a turn of its own, after those of the
stores before it and before every other turn (log 28). -/
def State.postReg (s : State) (d off : Nat) (bs : List Byte) : State :=
  let old := leBytes 8 (s.restOfReg d off).toNat
  let new := old.take (off % 8) ++ bs ++ old.drop (off % 8 + bs.length)
  let posted := s.agenda.takeWhile Turn.isPosted
  { s with agenda := posted ++ .write d (off / 8 * 8) (BitVec.ofNat 64 (leNat new)) :: s.agenda.drop posted.length }

end Sys2Proof.Machine
end

