-- ==== Sys2Proof/Machine/Operands.lean ====
section
/-! DEFINITION. Operand forms and the checks on them: segment checks (R164), translation (R359 to R362), the accesses of scalar
instructions (R181 to R183), masks (R90), prefixes (R83), lendable registers (R108). -/

namespace Sys2Proof.Machine

open Sys2Proof

/-- A fault with no address of its own. -/
def FaultRec.mk0 (code data va : Nat) : FaultRec :=
  { code := code, data := data, va := va % 2 ^ 56, w := false, late := false, seq := none, step := 0 }

/-- Fault codes (R399). -/
def cIllegal : Nat := 1
/-- misaligned-instruction. -/
def cMisInstr : Nat := 2
/-- privilege. -/
def cPriv : Nat := 3
/-- illegal-prefix. -/
def cPfx : Nat := 4
/-- illegal-register. -/
def cReg : Nat := 5
/-- illegal-claim. -/
def cClaim : Nat := 6
/-- illegal-operand. -/
def cOperand : Nat := 7
/-- segment. -/
def cSegment : Nat := 8
/-- misaligned-access. -/
def cMisAccess : Nat := 9
/-- fetch-translation. -/
def cFetch : Nat := 10
/-- data-translation. -/
def cData : Nat := 11
/-- uncorrectable-data. -/
def cUncorr : Nat := 12
/-- halo-stale. -/
def cHalo : Nat := 13
/-- exchange-timeout. -/
def cExchange : Nat := 14
/-- put-status-unknown. -/
def cPsu : Nat := 15
/-- system-call. -/
def cSys : Nat := 16
/-- breakpoint. -/
def cBrk : Nat := 17

/-- Does a leaf cover a virtual address of an address space? -/
def Leaf.hits (l : Leaf) (asid va : Nat) : Bool := l.asid == asid && va / 2 ^ l.shift == l.vbase / 2 ^ l.shift

/-- Does a leaf allow an access (R360 detail 4)? -/
def Leaf.allows (l : Leaf) (acc : Access) : Bool :=
  match acc with
  | .read => l.r
  | .write => l.w
  | .atomic => l.r && l.w
  | .fetch => l.x

/-- Does a physical range meet the record-and-grid area of some die (R360 detail 5)? -/
def State.meetsRg (s : State) (pa size : Nat) : Bool :=
  (List.range Config.dies).any fun d =>
    let r := (s.die d).rgarea
    let base := (r.extractLsb' 21 31).toNat * 2 ^ 21
    let sz := (r.extractLsb' 0 21).toNat * 2 ^ 21
    decide (sz ≠ 0) && decide (pa < base + sz) && decide (base < pa + size)

/-- The levels of a walk (R359): lowest VA bit, number of bits, log2 of the size that ADDR is aligned to when the entry names a
table of the next level, whether a leaf may or must stand here. -/
def walkPlan : List (Nat × Nat × Nat × Bool × Bool) :=
  [(48, 8, 12, false, false), (39, 9, 12, false, false), (30, 9, 12, true, false), (21, 9, 8, true, false),
   (16, 5, 0, true, true)]

/-- The bad data that a read meets first, its memory's code, the die and the grove that detect it (R179, R399, R408): a grove L1 detects what is
bad there, the home what is bad behind it or in its slice, a proxy slice what is bad in it. -/
def State.badMet (s : State) (g? : Option Nat) (d pa n : Nat) : Nat × Nat × Nat × Nat :=
  let inL1 := match g? with | some g => s.badInL1 g (lineOf pa) (pa % 128) n | none => false
  let p := s.badPlace d pa n
  if inL1 then (pa, 1, (g?.map groveDie).getD d, (g?.getD 0) % 256)
  else if s.badSram.contains (.slice (sliceOf d (lineOf p.1)) (p.1 / 32)) then (p.1, 1, d, homeHash p.1)
  else (p.1, p.2, homeDie p.1, homeHash p.1)

/-- Report the bad data that a read has met: a machine check of source 1 (R179, R408). -/
def State.reportBad (s : State) (g? : Option Nat) (d pa n core : Nat) : State :=
  let p := s.badMet g? d pa n
  s.machineCheck p.2.2.1 1 p.2.1 0 p.1 p.2.2.2 (coreInGrove core)

/-- The memory code of the bad data that a read has met (R399 code 12). -/
def State.badCode (s : State) (g? : Option Nat) (d pa n : Nat) : Nat := (s.badMet g? d pa n).2.1

/-- An entry of a page table as a walk reads it at its home, an H-class read (R276, R361). One with uncorrectable data is reported (R179) and
counts as not valid (DESIGN CHOICE, log 73). -/
def State.readEntry (s : State) (d pa : Nat) : State × Word :=
  match s.readHome d pa 8 with
  | (s1, some bs) => (s1, BitVec.ofNat 64 (leNat bs))
  | (s1, none) => (s1.reportBad none d pa 8 0, 0)

/-- Walk from a table (R359, R360): the leaf, or the detail of the translation fault. -/
def State.walkFrom (s : State) (d : Nat) (plan : List (Nat × Nat × Nat × Bool × Bool)) (table asid va : Nat) :
    State × Except Nat Leaf :=
  match plan with
  | [] => (s, .error 3)
  | (lo, bits, nextAlign, mayLeaf, mustLeaf) :: rest =>
    match s.readEntry d (table + 8 * ((va / 2 ^ lo) % 2 ^ bits)) with
    | (s1, e) =>
      let addr := (e.extractLsb' 8 44).toNat * 256
      let leaf := e.getLsbD 1
      if !e.getLsbD 0 then (s1, .error 2)
      else if e.extractLsb' 52 12 != 0#12 || e.extractLsb' 5 3 != 0#3 then (s1, .error 3)
      else if leaf then
        if !mayLeaf || addr % 2 ^ lo ≠ 0 then (s1, .error 3)
        else
          (s1, .ok { asid := asid, vbase := va / 2 ^ lo * 2 ^ lo, shift := lo, pbase := addr
                     x := e.getLsbD 4, w := e.getLsbD 3, r := e.getLsbD 2 })
      else if mustLeaf || addr % 2 ^ nextAlign ≠ 0 then (s1, .error 3)
      else State.walkFrom s1 d rest addr asid va

/-- The walk of an address for an agent of a die (R359 to R361): details 1 to 3. -/
def State.walk (s : State) (d asid va : Nat) : State × Except Nat Leaf :=
  let root := (s.ptroot.get? asid).getD 0
  if !root.getLsbD 0 then (s, .error 1)
  else s.walkFrom d walkPlan ((root.extractLsb' 11 41).toNat * 2048) asid va

/-- The physical address of a leaf, with details 4 and 5 of R360. -/
def State.useLeaf (s : State) (l : Leaf) (va : Nat) (acc : Access) : Except Nat Nat :=
  if !l.allows acc then .error 4
  else if s.meetsRg l.pbase (2 ^ l.shift) then .error 5
  else .ok (l.pbase + va % 2 ^ l.shift)

/-- A list of leaves with one more in front, cut to the size of its cache (R362; log 6). -/
def cacheLeaf (ls : List Leaf) (l : Leaf) (size : Nat) : List Leaf := (l :: ls.filter fun m => m != l).take size

/-- The leaf that a core uses for an address: its micro-TLB, then its grove's TLB, then a walk, whose leaf both cache (R362). -/
def State.coreLeaf (s : State) (core asid va : Nat) : State × Except Nat Leaf :=
  let c := s.core core
  match c.utlb.find? fun l => l.hits asid va with
  | some l => (s, .ok l)
  | none =>
    match groveOf core with
    | none =>
      match s.walk (coreDie core) asid va with
      | (s1, .error e) => (s1, .error e)
      | (s1, .ok l) => (s1.setCore core { s1.core core with utlb := cacheLeaf c.utlb l 64 }, .ok l)
    | some g =>
      match (s.grove g).tlb.find? fun l => l.hits asid va with
      | some l => (s.setCore core { c with utlb := cacheLeaf c.utlb l 64 }, .ok l)
      | none =>
        match s.walk (coreDie core) asid va with
        | (s1, .error e) => (s1, .error e)
        | (s1, .ok l) =>
          let s2 := s1.setCore core { s1.core core with utlb := cacheLeaf c.utlb l 64 }
          (s2.setGrove g { s2.grove g with tlb := cacheLeaf (s2.grove g).tlb l 512 }, .ok l)

/-- Translation by a core (R355, R360, R362): the physical address, or the detail of the fault. -/
def State.translate (s : State) (core asid va : Nat) (acc : Access) : State × Except Nat Nat :=
  match s.coreLeaf core asid va with
  | (s1, .error e) => (s1, .error e)
  | (s1, .ok l) => (s1, s1.useLeaf l va acc)

/-- N of a word as an integer. -/
def nOf (w : Word) : Int := (w.toNat : Int)

/-- The accessed address of an offset: base plus offset, modulo 2^56 (R399). -/
def segVa (d : Desc) (off : Int) : Nat := (((d.base : Int) + off) % 2 ^ 56).toNat

/-- Checks 1 to 4 of R164, in order: kind, alignment, bounds, permission. `service` refuses `cluster` (R441). -/
def segChecks (d : Desc) (kinds : List Nat) (service misaligned : Bool) (off : Int) (n : Nat) (needR needW wr : Bool) : Option FaultRec :=
  let f := fun code data : Nat =>
    some { code := code, data := data, va := segVa d off, w := wr, late := false, seq := none, step := 0 }
  if d.kind = 0 then f cSegment 1
  else if !kinds.contains d.kind || (service && d.kind == kCluster) then f cSegment 2
  else if misaligned then f cMisAccess 0
  else if off < 0 || (d.len : Int) < off + (n : Int) then f cSegment 3
  else if (needR && !d.canR) || (needW && !d.canW) then f cSegment 4
  else none

/-- The checks of an instruction that requires its offset to be a multiple of `align` (R157, R181). -/
def segCheck (d : Desc) (kinds : List Nat) (service : Bool) (off : Int) (n align : Nat) (needR needW wr : Bool) : Option FaultRec :=
  segChecks d kinds service (off % (align : Int) != 0) off n needR needW wr

/-- The checks of an instruction that requires its word to be naturally aligned (R186, R190): the address, with the base of the segment in it
(log 83). -/
def segCheckWord (d : Desc) (service : Bool) (off : Int) (n : Nat) (needR needW wr : Bool) : Option FaultRec :=
  segChecks d [kGlobal, kCluster, kHostm, kTier] service (((d.base : Int) + off) % (n : Int) != 0) off n needR needW wr

/-- May an access of a core to an address of the management space be made (R410): a load or a store of a service core through a
`global` segment? -/
def reachesRegs (core : Nat) (d : Desc) (pa : Nat) (acc : Access) : Bool :=
  isService core && d.kind == kGlobal && (mgmtAt? pa).isSome && (match acc with | .read | .write => true | _ => false)

/-- Checks 5 and 6 of R164 for an access within one page: the physical address. -/
def State.accessPa (s : State) (core : Nat) (d : Desc) (off : Int) (acc : Access) (wr : Bool) :
    State × Except FaultRec Nat :=
  let va := segVa d off
  let f := fun code data : Nat => FaultRec.mk code data va wr false none 0
  match s.translate core d.asid va acc with
  | (s1, .error e) => (s1, .error (f cData e))
  | (s1, .ok pa) =>
    if kindOfPa pa = d.kind || reachesRegs core d pa acc then (s1, .ok pa) else (s1, .error (f cSegment 5))

/-- Checks 5 and 6 of R164 for an access of at most 128 bytes: its parts by line, each a physical address and a length. A base need not be
aligned (R356), so an access may reach into the next line, and into the next page, which is then checked after the first. -/
def State.accessParts (s : State) (core : Nat) (d : Desc) (off : Int) (n : Nat) (acc : Access) (wr : Bool) :
    State × Except FaultRec (List (Nat × Nat)) :=
  let k := 128 - segVa d off % 128
  match s.accessPa core d off acc wr with
  | (s1, .error f) => (s1, .error f)
  | (s1, .ok pa) =>
    if n ≤ k then (s1, .ok [(pa, n)])
    else
      match s1.accessPa core d (off + k) acc wr with
      | (s2, .error f) => (s2, .error f)
      | (s2, .ok pb) => (s2, .ok [(pa, k), (pb, n - k)])

/-- All kinds that a load or store accepts. -/
def kindsAll : List Nat := [kGlobal, kCluster, kHostm, kTier]

/-- The uncorrectable-data fault of an access (R179, R399 code 12), with the code of the memory. -/
def uncorr (d : Desc) (off : Int) (code : Nat) (wr : Bool) : FaultRec := FaultRec.mk cUncorr code (segVa d off) wr false none 0

/-- A read of a grove's banks has met bad data: a machine check of source 1. Cluster memory has no physical address; DESIGN CHOICE (log 70):
the record holds the offset. -/
def State.reportBank (s : State) (g off core : Nat) : State :=
  s.machineCheck (groveDie g) 1 1 0 off (g % 256) (coreInGrove core)

/-- Count a grove L1 miss (R102 event 6) when the line holds not all of the bytes. DESIGN CHOICE (log 85): it counts at the privilege of the context
that is active on the core, and as user when there is none, also for the access of a ring entry whose context has been switched away. -/
def State.countMiss (s : State) (core pa n : Nat) (store : Bool) : State :=
  let sys := match s.activeCid core with
    | some cid => (match s.ctx? cid with | some c => c.img.prv | none => false)
    | none => false
  let hit := match (s.grove (coreGrove core)).line? (lineOf pa) with
    | some l => l.upd.isNone && (store || (missingSectors l (pa % 128) n).isEmpty)
    | none => false
  if hit then s else s.count core sys 6 1

/-- Is an access under policy 1 (R163)? A `cluster` or `hostm` segment ignores its policy field. -/
def Desc.streams (d : Desc) : Bool := d.pol == 1 && d.kind != kHostm && d.kind != kCluster

/-- The read of one part of an access at its place (R181): through the L1, at the slice level, or at die 0; a service core's in the
management space reads the register (R410). -/
def State.readAt (s : State) (core : Nat) (d : Desc) (pa n : Nat) (slice : Bool) : State × Option (List Byte) :=
  match mgmtAt? pa with
  | some (dd, off) => (s, some (s.readRegBytes dd off n))
  | none =>
    if d.kind = kHostm then s.ncLoad core none pa n false
    else
      match groveOf core with
      | none => s.ncLoad core none pa n d.streams
      | some g =>
        if slice || d.pol == 2 then s.ncLoad core (some g) pa n d.streams
        else (s.countMiss core pa n false).l1Load core pa n d.streams

/-- The reads of the parts of an access in ascending order: the bytes, or the part that meets bad data (R179). -/
def State.readParts (s : State) (core : Nat) (d : Desc) (parts : List (Nat × Nat)) (slice : Bool) :
    State × Except (Nat × Nat) (List Byte) :=
  match parts with
  | [] => (s, .ok [])
  | p :: rest =>
    match s.readAt core d p.1 p.2 slice with
    | (s1, none) => (s1, .error p)
    | (s1, some bs) =>
      match s1.readParts core d rest slice with
      | (s2, .error q) => (s2, .error q)
      | (s2, .ok more) => (s2, .ok (bs ++ more))

/-- Do n bytes at a place have a byte in common with an early load? -/
def EarlyLoad.meets (e : EarlyLoad) (p : Place) (n : Nat) : Bool :=
  match e.place, p with
  | .phys a, .phys b => decide (a < b + n) && decide (b < a + e.bytes.length)
  | .bank g a, .bank h b => g == h && decide (a < b + n) && decide (b < a + e.bytes.length)
  | _, _ => false

/-- A core reads n bytes at a place (R283 case 4): what a load performed ahead of its turn has read there is what the load of that place and length
returns, unless it is `nc` or an acquire; the early loads of those bytes end with it. -/
def State.takeEarly (s : State) (core : Nat) (p : Place) (plain : Bool) (bs : List Byte) : State × List Byte :=
  let c := s.core core
  if c.early.isEmpty then (s, bs)
  else
    let t := s.setCore core { c with early := c.early.filter fun e => !e.meets p bs.length }
    match c.early.find? fun e => e.place == p && e.bytes.length == bs.length with
    | some e => (t, if plain then e.bytes else bs)
    | none => (t, bs)

/-- The same for the parts of an access: only one that lies in one line is performed ahead of its turn. -/
def State.takeEarlyParts (s : State) (core : Nat) (parts : List (Nat × Nat)) (plain : Bool) (bs : List Byte) : State × List Byte :=
  match parts with
  | [p] => s.takeEarly core (.phys p.1) plain bs
  | _ => (s.dropEarly core, bs)

/-- A load whose checks 1 to 4 have passed (R181, R182). An acquire at die scope or wider drains first, and reads as its home replies (R169
step 4). -/
def State.loadPast (s : State) (core : Nat) (d : Desc) (off : Int) (n : Nat) (nc : Bool) (acq : Option Scope) :
    State × Except FaultRec (List Byte) :=
  let far := match acq with | some sc => scopeWide sc | none => false
  if d.kind = kCluster then
    let g := coreGrove core
    match s.readBank g (d.base + off.toNat) n with
    | none => (s.reportBank g (d.base + off.toNat) core, .error (uncorr d off 1 false))
    | some bs =>
      let r := s.takeEarly core (.bank g (d.base + off.toNat)) (!nc && acq.isNone) bs
      (if far then r.1.invalidate g else r.1, .ok r.2)
  else
    match s.accessParts core d off n .read false with
    | (s1, .error f) => (s1, .error f)
    | (s1, .ok parts) =>
      let s2 := match acq with
        | some sc => if far then parts.foldl (fun (t : State) (p : Nat × Nat) => t.acquireLine core (lineOf p.1) sc) s1 else s1
        | none => s1
      match s2.readParts core d parts (nc || far) with
      | (s3, .error (pa, k)) =>
        let g? := if d.kind = kHostm then none else groveOf core
        (s3.reportBad g? (coreDie core) pa k core, .error (uncorr d off (s3.badCode g? (coreDie core) pa k) false))
      | (s3, .ok bs) =>
        let r := s3.takeEarlyParts core parts (!nc && acq.isNone) bs
        (r.1, .ok r.2)

/-- One load of n bytes (R181, R182). -/
def State.segLoad (s : State) (core : Nat) (d : Desc) (off : Int) (n : Nat) (nc : Bool) (acq : Option Scope) :
    State × Except FaultRec (List Byte) :=
  match segCheck d kindsAll (isService core) off n n true false false with
  | some f => (s, .error f)
  | none => s.loadPast core d off n nc acq

/-- The write of one part of an access at its place (R181, R183). -/
def State.writeAt (s : State) (core : Nat) (d : Desc) (pa : Nat) (bs : List Byte) (rel : Option Scope) : State :=
  let far := match rel with | some sc => scopeWide sc | none => false
  if let some (dd, off) := mgmtAt? pa then s.postReg dd off bs else
  let s1 :=
    if far || d.kind == kHostm || isService core || d.pol == 2 then
      s.homeStore (if d.kind = kHostm && !far then none else groveOf core) pa bs d.streams
    else (s.countMiss core pa bs.length true).l1Store core pa bs d.streams
  match rel with
  | some sc => if far then s1.addRecord core (lineOf pa) sc else s1
  | none => s1

/-- The writes of the parts of an access in ascending order. -/
def State.writeParts (s : State) (core : Nat) (d : Desc) (parts : List (Nat × Nat)) (bs : List Byte) (rel : Option Scope) : State :=
  match parts with
  | [] => s
  | p :: rest => (s.writeAt core d p.1 (bs.take p.2) rel).writeParts core d rest (bs.drop p.2) rel

/-- One store (R181, R183). -/
def State.segStore (s : State) (core : Nat) (d : Desc) (off : Int) (bs : List Byte) (rel : Option Scope) :
    State × Except FaultRec Unit :=
  match segCheck d kindsAll (isService core) off bs.length bs.length false true true with
  | some f => (s, .error f)
  | none =>
    if d.kind = kCluster then (s.bankWrite (coreGrove core) (d.base + off.toNat) bs, .ok ())
    else
      match s.accessParts core d off bs.length .write true with
      | (s1, .error f) => (s1, .error f)
      | (s1, .ok parts) => (s1.writeParts core d parts bs rel, .ok ())

/-- Is lane i active under a mask (R90)? -/
def activeLane (m : Image) (k : Mask) (i : Nat) : Bool :=
  match k with
  | .all => true
  | .on inv _ r => (lane (m.getV (0#2 ++ r)) i).getLsbD 0 != inv

/-- Is `.z` written? -/
def maskZ (k : Mask) : Bool :=
  match k with
  | .all => false
  | .on _ z _ => z

/-- Does the context hold a vector register (R108)? -/
def Image.holdsV (m : Image) (r : Reg) : Bool := decide (r.toNat < 16 + m.ln)

/-- The lowest field that names a lendable register the context does not hold (R108). -/
def Image.badV (m : Image) (rs : List Reg) : Option Reg := rs.find? fun r => !m.holdsV r

/-- A prefix that names no format and no scale: only its rounding is taken (R125, R144). -/
def rmOnly (p : Prefix) : Bool := p.fa.isNone && p.fb.isNone && p.fd.isNone && !p.ka && !p.kb

/-- No prefix is taken (R83). -/
def noPrefix (_ : Prefix) : Bool := false

/-- The pending prefix of an image (R83, R98). -/
def Image.pending? (m : Image) : Option (BitVec 24) := if m.pp then some (m.pfx.extractLsb' 0 24) else none

/-- Check 6 of R88: none when there is no prefix or it is accepted; otherwise the illegal-prefix fault (R83, R399). A payload
that `fmt` cannot write, which a handler put into `epfx` (R99), is accepted by nothing. -/
def pfxCheck (m : Image) (accept : Prefix → Bool) : Option FaultRec :=
  match m.pending? with
  | none => none
  | some p =>
    match payloadOf p with
    | some q => if accept q && q.payload == p then none else some (FaultRec.mk0 cPfx p.toNat m.pc.toNat)
    | none => some (FaultRec.mk0 cPfx p.toNat m.pc.toNat)

/-- The rounding mode of an instruction: the prefix's, or `status.RM` (R125). -/
def rmUnder (rm : Rm) (pay : Option (BitVec 24)) : Rm :=
  match pay.bind payloadOf with
  | some q => q.rm.getD rm
  | none => rm

end Sys2Proof.Machine
end

