-- ==== Sys2Proof/Machine/Ops.lean ====
section
/-! DEFINITION. The named operations that the meanings share: what an instruction can do (commit, trap, block, wait, leave),
switching contexts (R104 to R106), taking a trap (R396, R397) and returning from one (R136), dispatch into the coprocessor ring
(R141). -/

namespace Sys2Proof.Machine

open Sys2Proof

/-- The outcome type of a step. -/
abbrev Out := Host.Outcome State Fault Refusal

/-- May a context be active (R104, R105)? A fault-pending context is ready whatever it is blocked on; one whose trap entry failed
is not (R396); one that waits for its charge does not issue (R110). -/
def Ctx.ready (c : Ctx) : Bool :=
  !c.parked && c.wait != some .reentry && (c.late.isSome || c.wait.isNone)

/-- Is the context in a slot of a core ready? -/
def State.slotReady (s : State) (k : Nat) (i : Fin 4) : Bool :=
  match (s.core k).slots[i] with
  | none => false
  | some cid =>
    match s.ctx? cid with
    | none => false
    | some c => c.ready

/-- The next ready slot in the order of R104, counted from a slot; the slot itself comes last when `self` holds. -/
def State.nextReady (s : State) (k : Nat) (from_ : Fin 4) (self : Bool) : Option (Fin 4) :=
  ((if self then [from_ + 1, from_ + 2, from_ + 3, from_] else [from_ + 1, from_ + 2, from_ + 3])).find? fun i =>
    s.slotReady k i

/-- Switch a core from its active slot to the next ready context, or to none (R104, R105). Event 4 of R102 is counted at the privilege of the
context that the core goes on with (DESIGN CHOICE, log 67). -/
def State.switchCore (s : State) (k : Nat) : State :=
  let c := s.core k
  let from_ := c.active.getD c.last
  match s.nextReady k from_ false with
  | some i => (s.setCore k { c with active := some i, last := i, issue := 0, holding := false }).count k (s.slotSystem k i) 4 1
  | none => s.setCore k { c with active := none, last := from_, issue := 0, holding := false }

/-- An idle core resumes the first ready context in the order counted from its last active slot (R104). -/
def State.wakeCore (s : State) (k : Nat) : State :=
  let c := s.core k
  match c.active with
  | some _ => s
  | none =>
    match s.nextReady k c.last true with
    | some i => (s.setCore k { c with active := some i, last := i, issue := 0 }).count k (s.slotSystem k i) 4 1
    | none => s

/-- The line that a fill replaces in a full register cache (R103): the least recently used of an evictable image, else of a resident
context that is not active. The list is in order of use, the most recent first. -/
def State.lineVictim (s : State) (core : Nat) : Option (Nat × Nat) :=
  let k := s.core core
  let old := k.lines.reverse
  match old.find? fun l => k.evict.contains l.1 with
  | some l => some l
  | none => old.find? fun l => some l.1 != s.activeCid core

/-- The physical address of an image line (R94, R416). -/
def State.linePa (s : State) (cid line : Nat) : Nat := (s.die (ctxDie cid)).imgBase + 8192 * ctxTag cid + 64 * line

/-- An image line is fetched from its home slice into a core's register cache (R103), recalled from any other (R94); a full cache gives up the
line that `lineVictim` names. -/
def State.takeLine (s : State) (core cid line : Nat) : State :=
  let s1 := (s.dropReg cid line).touchRange (coreDie core) (s.linePa cid line) 64 false
  let s2 := if (s1.core core).lines.length < 512 then s1 else
    match s1.lineVictim core with | some v => s1.dropReg v.1 v.2 | none => s1
  let s3 := s2.updCtx cid fun c => { c with homes := c.homes.set line (c.img.line line) }
  (s3.setCore core { s3.core core with lines := (cid, line) :: (s3.core core).lines }).count core (s.atSystem cid) 5 1

/-- A line that a core holds is used (R103): it is the most recently used; one with an uncorrectable error gives the memory code of the register
cache (R179, R399). -/
def State.touchLine (s : State) (core cid line : Nat) : State × Option Nat :=
  if s.badSram.contains (.regs core cid line) then
    (s.machineCheck (coreDie core) 1 4 0 (s.linePa cid line) ((groveOf core).getD 0) (coreInGrove core), some 4)
  else
    let k := s.core core
    (s.setCore core { k with lines := (cid, line) :: k.lines.filter fun l => l != (cid, line) }, none)

/-- Use one line of the active context (R103): a line that is not there is fetched first. The memory code, if bad data is met (R179, R399). -/
def State.useLine (s : State) (core cid line : Nat) : State × Option Nat :=
  if (s.core core).lines.contains (cid, line) then s.touchLine core cid line
  else
    let pa := s.linePa cid line
    let d := coreDie core
    if s.badAt d pa 64 then (s.reportBad none d pa 64 core, some (s.badCode none d pa 64))
    else (s.takeLine core cid line, none)

/-- Use lines of the active context in order, up to the first that meets bad data. A service core has no resident images (R23). -/
def State.useLines (s : State) (core cid : Nat) (lines : List Nat) : State × Option Nat :=
  if isService core then (s, none)
  else lines.foldl (fun (t : State × Option Nat) l => match t.2 with | some _ => t | none => t.1.useLine core cid l) (s, none)

/-- The machine itself uses lines of a context on a core (R103). DESIGN CHOICE (log 86): bad data that it meets there makes its machine check and no
fault, since no instruction has consumed it. -/
def State.fetchLines (s : State) (core cid : Nat) (lines : List Nat) : State :=
  if isService core then s else lines.foldl (fun (t : State) l => (t.useLine core cid l).1) s

/-- The lines of the ring save area that hold n entries from the i-th on (R92, R403). -/
def areaLines (i n : Nat) : List Nat :=
  if n = 0 then [] else (List.range ((48 * (i + n) - 1) / 64 + 1 - 48 * i / 64)).map fun k => 72 + 48 * i / 64 + k

/-- The core on which a context is resident. -/
def Ctx.core? (c : Ctx) : Option Nat :=
  match c.where_ with
  | .slot k _ => some k
  | _ => none

/-- The core of a context resumes a ready one if it is idle (R104). -/
def State.wakeCtx (s : State) (cid : Nat) : State :=
  match (s.ctx? cid).bind Ctx.core? with
  | some k => s.wakeCore k
  | none => s

/-- The conditions of blocked contexts hold: they become ready, all of them before an idle core resumes the first in slot order (R104). -/
def State.makeAllReady (s : State) (cids : List Nat) : State :=
  let s1 := cids.foldl (fun (t : State) cid => t.updCtx cid fun c => { c with wait := none }) s
  cids.foldl (fun (t : State) cid => t.wakeCtx cid) s1

/-- The condition of a blocked context holds: it becomes ready, and an idle core resumes it (R104). -/
def State.makeReady (s : State) (cid : Nat) : State := s.makeAllReady [cid]

/-- The active context of a core blocks and the core switches (R104). -/
def State.block (s : State) (cid : Nat) (w : Wait) : State :=
  match s.ctx? cid with
  | none => s
  | some c =>
    let s1 := s.setCtx cid { c with wait := some w }
    match c.core? with
    | some k => { s1.switchCore k with stalled := false }
    | none => s1

/-- Does the active context of a core stall in an instruction that is not interrupted (R405)? -/
def State.setHolding (s : State) (k : Nat) (b : Bool) : State :=
  if (s.core k).holding == b then s else s.setCore k { s.core k with holding := b }

/-- `faultinfo` as trap entry writes it (R100, R396). -/
def faultWord (f : FaultRec) (prv : Bool) : Word :=
  BitVec.ofNat 64 ((f.data % 2 ^ 32) * 2 ^ 32 + (if f.w then 2 ^ 11 else 0) + (if prv then 2 ^ 10 else 0) +
    (if f.late then 2 ^ 9 else 0) + f.code % 256)

/-- `fsq` as trap entry writes it (R100). -/
def fsqWord (f : FaultRec) : Word :=
  match f.seq with
  | none => 0
  | some q => BitVec.ofNat 64 (2 ^ 32 + (f.step % 2 ^ 16) * 2 ^ 16 + q % 2 ^ 16)

/-- Steps 1 and 2 of R396 on an image, with the given `epc` (R99, R100). -/
def Image.enter (m : Image) (f : FaultRec) (epc : Word) : Image :=
  { m with
    faultinfo := faultWord f m.prv
    fva := BitVec.ofNat 64 (f.va % 2 ^ 56)
    fsq := fsqWord f
    esta := m.status
    epfx := m.pfx
    epc := epc
    status := setBit (setBit m.status 2 false) 4 true }

/-- Bytes of one page read with fetch permission under ASID 0 at their home, for trap entry (R372, R396); bad data is reported (R179). -/
def State.fetchPart0 (s : State) (core va n : Nat) : State × Option (List Byte) :=
  match s.translate core 0 va .fetch with
  | (s1, .error _) => (s1, none)
  | (s1, .ok pa) =>
    if kindOfPa pa = 0 then (s1, none)
    else
      match s1.readHome (coreDie core) pa n with
      | (s2, some bs) => (s2, some bs)
      | (s2, none) => (s2.reportBad none (coreDie core) pa n core, none)

/-- An entry of the table at `tvec` (R372). `tvec` is a multiple of 4, so an entry may lie on two pages. -/
def State.fetchWord0 (s : State) (core va : Nat) : State × Option Word :=
  let k := min 8 (65536 - va % 65536)
  match s.fetchPart0 core va k with
  | (s1, none) => (s1, none)
  | (s1, some bs) =>
    if k = 8 then (s1, some (BitVec.ofNat 64 (leNat bs)))
    else
      match s1.fetchPart0 core ((va + k) % 2 ^ 56) (8 - k) with
      | (s2, none) => (s2, none)
      | (s2, some more) => (s2, some (BitVec.ofNat 64 (leNat (bs ++ more))))

/-- Step 3 of R396: the handler's address from entry `code` of the table at `tvec`, when the entry is good and the handler's first
fetch does not fault (R372). -/
def State.vector (s : State) (core code : Nat) : State × Option Word :=
  let base := ((s.die (coreDie core)).tvec.extractLsb' 2 54).toNat * 4
  match s.fetchWord0 core ((base + 8 * code) % 2 ^ 56) with
  | (s1, none) => (s1, none)
  | (s1, some e) =>
    let h := (e.extractLsb' 2 54).setWidth 64 <<< 2
    if !e.getLsbD 0 || e.getLsbD 1 || e.extractLsb' 56 8 != 0#8 then (s1, none)
    else
      match s1.fetchPart0 core (h.toNat / 32 * 32) 32 with
      | (s2, some _) => (s2, some h)
      | (s2, none) => (s2, none)

/-- TAKING A TRAP (R396): the fault registers and the copies of R99 with the given `epc`, in lines of the image that the core has fetched (R103), then
the handler's address. A `fence.w` that waited begins anew when it runs again (R189). When step 3
fails, steps 1 and 2 are undone, a machine check of source 5 is raised, and the context stays fault-pending and not ready until
the die's `tvec` is next written; the trap that is pending is then taken with the same `epc`. -/
def State.takeTrap (s : State) (cid core : Nat) (f : FaultRec) (epc : Word) : State :=
  match s.ctx? cid with
  | none => s
  | some _ =>
    match s.vector core f.code with
    | (s1, some h) =>
      { ((s1.fetchLines core cid [68, 69]).updCtx cid (fun c =>
          { c with img := { c.img.enter f epc with pc := h }, wait := none, late := none, watch := none, latch := false,
                   parked := false, winWait := none })).setHolding core false with stalled := false }
    | (s1, none) =>
      let s2 := (s1.fetchLines core cid [68, 69]).machineCheck (coreDie core) 5 0 f.code 0 ((groveOf core).getD 0) (coreInGrove core)
      let s3 := s2.updCtx cid fun c =>
        { c with img := { c.img with pc := epc }, wait := none, late := some f, watch := none, latch := false, parked := true, winWait := none }
      { s3.switchCore core with stalled := false }

/-- A service cause is raised to service core 1 of a die (R409). One that is raised while the core holds code 33 is merged into the held trap: its
bits go into DATA. DESIGN CHOICE (log 30): where a nested trap has overwritten `faultinfo` (R398), it waits for the handler's `eret`. -/
def State.raiseCause (s : State) (d cause : Nat) : State :=
  let k := Config.allCores + 4 * d + 1
  let held := match s.activeCid k with
    | some cid => if (s.core k).svHeld && ((s.ctx? cid).any fun c => c.img.faultinfo.toNat % 256 == 33) then some cid else none
    | none => none
  match held with
  | some cid => s.updCtx cid fun c => { c with img := { c.img with faultinfo := c.img.faultinfo ||| BitVec.ofNat 64 (cause * 2 ^ 32) } }
  | none => s.setDie d { s.die d with causes := (s.die d).causes ++ [cause] }

/-- What an instruction does, once its checks are made. -/
inductive Eff
  /-- It commits with this image (the pc included). -/
  | done (s : State) (img : Image)
  /-- A precise fault: none of its effects (R113). -/
  | trap (s : State) (f : FaultRec)
  /-- It commits with this image and then traps (R134). -/
  | after (s : State) (img : Image) (f : FaultRec)
  /-- It blocks its context, uncommitted (R104). -/
  | block (s : State) (w : Wait)
  /-- It cannot proceed now: an older ring entry must end first (R113). -/
  | stall (s : State)
  /-- It cannot proceed now, and is not interrupted while it waits (R405). -/
  | hold (s : State)
  /-- Its context has left the core. -/
  | left (s : State)

/-- The count of R106: an instruction issues while another resident context is ready. DESIGN CHOICE (log 4): the model gives instructions no
cycles, and each instruction that commits counts as one issue cycle of the 4,096. -/
def State.issued (s : State) (k : Nat) : State :=
  let c := s.core k
  let other := match c.active with | some i => (s.nextReady k i false).isSome | none => false
  if other then s.setCore k { c with issue := c.issue + 1 } else s

/-- An instruction of a context commits: its image, with `status.PP` cleared if a prefix was pending (R83), the counts of R102 and
R106, and the records of a stale `gld` (R268) and of a waiting `fence.w` (R189) cleared. DESIGN CHOICE (log 85): it counts after it has acted, so a
`cwr` that sets `pmselk` to event 2 is itself counted in `pmck`. -/
def State.commit (s : State) (cid : Nat) (img : Image) : State :=
  match s.ctx? cid with
  | none => { s with stalled := false }
  | some c =>
    let s1 := s.setCtx cid { c with img := if c.img.pp then img.setPp false else img, stale := none, winWait := none }
    { ((s1.count s.here c.img.prv 2 1).issued s.here).setHolding s.here false with stalled := false }

/-- The state after an effect. -/
def Eff.state (e : Eff) (cid : Nat) (c : Ctx) : State :=
  match e with
  | .done s img => s.commit cid img
  | .trap s f => s.takeTrap cid s.here f c.img.pc
  | .after s img f => (s.commit cid img).takeTrap cid s.here f img.pc
  | .block s w => s.block cid w
  | .stall s => { s with stalled := true }
  | .hold s => { s.setHolding s.here true with stalled := true }
  | .left s => { s with stalled := false }

/-- The x register that a ring entry's instruction writes at completion (R113). -/
def ringWritesX (i : Instr) : Option Reg :=
  match i with
  | .vmcnt d _ _ => some d
  | .vfirst d _ _ => some d
  | .vext _ d _ _ => some d
  | .vredAdd _ d _ _ => some d
  | .vredMin _ d _ _ => some d
  | .vredMax _ d _ _ => some d
  | .vredAnd d _ _ => some d
  | .vredOr d _ _ => some d
  | .vredXor d _ _ => some d
  | _ => none

/-- Does an older ring entry still have to write one of these x registers (R113)? x0 is never written. -/
def interlocked (ring : List RingEntry) (regs : List Reg) : Bool :=
  ring.any fun e =>
    match ringWritesX e.instr with
    | some d => d != 0 && regs.contains d
    | none => false

/-- Checks 5 and 6 of R88 and the interlock of R113, then the instruction's own part. `sys` marks a privileged encoding. -/
def runInstr (sys : Bool) (accept : Prefix → Bool) (regs : List Reg) (f : State → Nat → Ctx → Eff) (s : State) : Out :=
  match s.active? with
  | none => .refused .noContext
  | some (cid, c) =>
    let e :=
      if sys && !c.img.prv then Eff.trap s (FaultRec.mk0 cPriv 0 c.img.pc.toNat)
      else
        match pfxCheck c.img accept with
        | some p => Eff.trap s p
        | none => if interlocked c.ring regs then Eff.stall s else f s cid c
    .next (e.state cid c)

/-- pc + len, modulo 2^56 (R114). -/
def Image.next (m : Image) (len : Nat) : Image := { m with pc := a56 (m.pc + BitVec.ofNat 64 len) }

/-- An instruction on registers only: it reads and writes the image, may take a rounding prefix, and never blocks. -/
def runRegs (rmTaken : Bool) (regs : List Reg) (f : Image → Except FaultRec Image) (s : State) : Out :=
  runInstr false (if rmTaken then rmOnly else noPrefix) regs
    (fun s _ c =>
      match f c.img with
      | .ok m => .done s m
      | .error e => .trap s e) s

/-- `X(d) := v` and on to the next instruction. -/
def runAlu (len : Nat) (d : Reg) (srcs : List Reg) (f : Image → Word) (s : State) : Out :=
  runRegs false (d :: srcs) (fun m => .ok ((m.setX d (f m)).next len)) s

/-- The fault of an instruction's own check (code 7, R399). -/
def operandFault (m : Image) (data : Nat) : FaultRec := FaultRec.mk0 cOperand data m.pc.toNat

/-- What a form puts into the ring besides its instruction (R141, R403): the x registers of fields a (or xo), b, c and d (none
captures 0) and the slots sa (or seg) and sb. -/
structure RingForm where
  ra : Option Reg
  rb : Option Reg
  rc : Option Reg
  rd : Option Reg
  sa : Option Slot
  sb : Option Slot

/-- The form of an engine command, or of `mmac` (R193, R206). -/
def Cmd.form (k : Cmd) : RingForm := ⟨some k.a, some k.b, some k.c, some k.d, some k.sa, some k.sb⟩

/-- What an instruction captures at dispatch. A destination x register is no captured operand. -/
def ringForm (i : Instr) : RingForm :=
  match i with
  | .vbcast _ a _ => ⟨some a, none, none, none, none, none⟩
  | .vins _ a _ => ⟨some a, none, none, none, none, none⟩
  | .vld _ xo seg _ _ => ⟨some xo, none, none, none, some seg, none⟩
  | .vst _ xo seg _ _ => ⟨some xo, none, none, none, some seg, none⟩
  | .vlds _ xo c seg _ _ => ⟨some xo, none, some c, none, some seg, none⟩
  | .vsts _ xo c seg _ _ => ⟨some xo, none, some c, none, some seg, none⟩
  | .vldx _ xo _ seg _ _ => ⟨some xo, none, none, none, some seg, none⟩
  | .vstx _ xo _ seg _ _ => ⟨some xo, none, none, none, some seg, none⟩
  | .dcopy k _ => Cmd.form k
  | .dfill k _ => Cmd.form k
  | .dfree a b => ⟨some a, some b, none, none, none, none⟩
  | .gather k _ _ => Cmd.form k
  | .scatter k _ _ _ => Cmd.form k
  | .spwalk k _ _ => Cmd.form k
  | .merge k _ => Cmd.form k
  | .mldb k _ _ _ => { Cmd.form k with sa := none }
  | .mmac k _ _ _ _ => Cmd.form k
  | .mmacCoop k _ _ _ => Cmd.form k
  | _ => ⟨none, none, none, none, none, none⟩

/-- The vector registers that an instruction's fields name, in the order d, a, b, c: what R108 checks. -/
def vFields (i : Instr) : List Reg :=
  match i with
  | .vaddF32 d a b _ => [d, a, b]
  | .vsubF32 d a b _ => [d, a, b]
  | .vmulF32 d a b _ => [d, a, b]
  | .vdiv d a b _ => [d, a, b]
  | .vsqrt d a _ => [d, a]
  | .vrsqrt d a _ => [d, a]
  | .vexp2 d a _ => [d, a]
  | .vminF32 d a b _ => [d, a, b]
  | .vmaxF32 d a b _ => [d, a, b]
  | .vabsF32 d a _ => [d, a]
  | .vneg d a _ => [d, a]
  | .vfma d a b c _ => [d, a, b, c]
  | .vfms d a b c _ => [d, a, b, c]
  | .vfnma d a b c _ => [d, a, b, c]
  | .vaddF32Lit d a _ _ => [d, a]
  | .vsubF32Lit d a _ _ => [d, a]
  | .vmulF32Lit d a _ _ => [d, a]
  | .vdivLit d a _ _ => [d, a]
  | .vminF32Lit d a _ _ => [d, a]
  | .vmaxF32Lit d a _ _ => [d, a]
  | .vaddInt _ d a b _ => [d, a, b]
  | .vsubInt _ d a b _ => [d, a, b]
  | .vmulInt _ d a b _ => [d, a, b]
  | .vmulh _ d a b _ => [d, a, b]
  | .vand _ d a b _ => [d, a, b]
  | .vor _ d a b _ => [d, a, b]
  | .vxor _ d a b _ => [d, a, b]
  | .vandn _ d a b _ => [d, a, b]
  | .vsll _ d a b _ => [d, a, b]
  | .vsrl _ d a b _ => [d, a, b]
  | .vsra _ d a b _ => [d, a, b]
  | .vminInt _ d a b _ => [d, a, b]
  | .vmaxInt _ d a b _ => [d, a, b]
  | .vabsI32 d a _ => [d, a]
  | .vadds _ d a b _ => [d, a, b]
  | .vsubs _ d a b _ => [d, a, b]
  | .vaddIntLit _ d a _ _ => [d, a]
  | .vsubIntLit _ d a _ _ => [d, a]
  | .vmulIntLit _ d a _ _ => [d, a]
  | .vmulhLit _ d a _ _ => [d, a]
  | .vandLit _ d a _ _ => [d, a]
  | .vorLit _ d a _ _ => [d, a]
  | .vxorLit _ d a _ _ => [d, a]
  | .vandnLit _ d a _ _ => [d, a]
  | .vsllLit _ d a _ _ => [d, a]
  | .vsrlLit _ d a _ _ => [d, a]
  | .vsraLit _ d a _ _ => [d, a]
  | .vminIntLit _ d a _ _ => [d, a]
  | .vmaxIntLit _ d a _ _ => [d, a]
  | .vaddsLit _ d a _ _ => [d, a]
  | .vsubsLit _ d a _ _ => [d, a]
  | .vcmpF32 _ d a b _ => [d, a, b]
  | .vcmpI32 _ d a b _ => [d, a, b]
  | .vsel d a b _ => [d, a, b]
  | .vmcnt _ a _ => [a]
  | .vfirst _ a _ => [a]
  | .vmand d a b _ => [d, a, b]
  | .vmor d a b _ => [d, a, b]
  | .vmxor d a b _ => [d, a, b]
  | .vmnot d a _ => [d, a]
  | .vperm d a b _ => [d, a, b]
  | .vbcast d _ _ => [d]
  | .vbcastLit _ d _ _ => [d]
  | .vext _ _ a _ => [a]
  | .vins d _ _ => [d]
  | .vslide d a b _ _ => [d, a, b]
  | .vcompress d a _ => [d, a]
  | .vexpand d a _ => [d, a]
  | .vmov d a _ => [d, a]
  | .vredAdd _ _ a _ => [a]
  | .vredMin _ _ a _ => [a]
  | .vredMax _ _ a _ => [a]
  | .vredAnd _ a _ => [a]
  | .vredOr _ a _ => [a]
  | .vredXor _ a _ => [a]
  | .vscanAdd _ d a _ => [d, a]
  | .vscanMin _ d a _ => [d, a]
  | .vscanMax _ d a _ => [d, a]
  | .vcvt _ _ d a _ => [d, a]
  | .vpack _ _ d a b _ => [d, a, b]
  | .vunpack _ _ d a _ => [d, a]
  | .vqnt _ d a b c => [d, a, b] ++ c.toList
  | .vmaxx d a _ => [d, a]
  | .vld d _ _ _ _ => [d]
  | .vst d _ _ _ _ => [d]
  | .vlds d _ _ _ _ _ => [d]
  | .vsts d _ _ _ _ _ => [d]
  | .vldx d _ c _ _ _ => [d, c]
  | .vstx d _ c _ _ _ => [d, c]
  | _ => []

/-- The mask of a vector instruction. -/
def vMask (i : Instr) : Mask :=
  match i with
  | .vaddF32 _ _ _ m => m
  | .vsubF32 _ _ _ m => m
  | .vmulF32 _ _ _ m => m
  | .vdiv _ _ _ m => m
  | .vsqrt _ _ m => m
  | .vrsqrt _ _ m => m
  | .vexp2 _ _ m => m
  | .vminF32 _ _ _ m => m
  | .vmaxF32 _ _ _ m => m
  | .vabsF32 _ _ m => m
  | .vneg _ _ m => m
  | .vfma _ _ _ _ m => m
  | .vfms _ _ _ _ m => m
  | .vfnma _ _ _ _ m => m
  | .vaddF32Lit _ _ _ m => m
  | .vsubF32Lit _ _ _ m => m
  | .vmulF32Lit _ _ _ m => m
  | .vdivLit _ _ _ m => m
  | .vminF32Lit _ _ _ m => m
  | .vmaxF32Lit _ _ _ m => m
  | .vaddInt _ _ _ _ m => m
  | .vsubInt _ _ _ _ m => m
  | .vmulInt _ _ _ _ m => m
  | .vmulh _ _ _ _ m => m
  | .vand _ _ _ _ m => m
  | .vor _ _ _ _ m => m
  | .vxor _ _ _ _ m => m
  | .vandn _ _ _ _ m => m
  | .vsll _ _ _ _ m => m
  | .vsrl _ _ _ _ m => m
  | .vsra _ _ _ _ m => m
  | .vminInt _ _ _ _ m => m
  | .vmaxInt _ _ _ _ m => m
  | .vabsI32 _ _ m => m
  | .vadds _ _ _ _ m => m
  | .vsubs _ _ _ _ m => m
  | .vaddIntLit _ _ _ _ m => m
  | .vsubIntLit _ _ _ _ m => m
  | .vmulIntLit _ _ _ _ m => m
  | .vmulhLit _ _ _ _ m => m
  | .vandLit _ _ _ _ m => m
  | .vorLit _ _ _ _ m => m
  | .vxorLit _ _ _ _ m => m
  | .vandnLit _ _ _ _ m => m
  | .vsllLit _ _ _ _ m => m
  | .vsrlLit _ _ _ _ m => m
  | .vsraLit _ _ _ _ m => m
  | .vminIntLit _ _ _ _ m => m
  | .vmaxIntLit _ _ _ _ m => m
  | .vaddsLit _ _ _ _ m => m
  | .vsubsLit _ _ _ _ m => m
  | .vcmpF32 _ _ _ _ m => m
  | .vcmpI32 _ _ _ _ m => m
  | .vsel _ _ _ m => m
  | .vmcnt _ _ m => m
  | .vfirst _ _ m => m
  | .vmand _ _ _ m => m
  | .vmor _ _ _ m => m
  | .vmxor _ _ _ m => m
  | .vmnot _ _ m => m
  | .vperm _ _ _ m => m
  | .vbcast _ _ m => m
  | .vbcastLit _ _ _ m => m
  | .vslide _ _ _ _ m => m
  | .vcompress _ _ m => m
  | .vexpand _ _ m => m
  | .vmov _ _ m => m
  | .vredAdd _ _ _ m => m
  | .vredMin _ _ _ m => m
  | .vredMax _ _ _ m => m
  | .vredAnd _ _ m => m
  | .vredOr _ _ m => m
  | .vredXor _ _ m => m
  | .vscanAdd _ _ _ m => m
  | .vscanMin _ _ _ m => m
  | .vscanMax _ _ _ m => m
  | .vcvt _ _ _ _ m => m
  | .vld _ _ _ _ m => m
  | .vst _ _ _ _ m => m
  | .vlds _ _ _ _ _ m => m
  | .vsts _ _ _ _ _ m => m
  | .vldx _ _ _ _ _ m => m
  | .vstx _ _ _ _ _ m => m
  | _ => .all

/-- A captured register. -/
def capX (m : Image) (r : Option Reg) : Word :=
  match r with
  | some r => m.getX r
  | none => 0

/-- A captured slot. -/
def capS (m : Image) (n : Option Slot) : Desc :=
  match n with
  | some n => m.slot n
  | none => Desc.zero

/-- The ring entry that a context dispatches (R141, R194, R357, R403). -/
def mkEntry (s : State) (c : Ctx) (i : Instr) (k : Nat) : RingEntry :=
  let r := ringForm i
  { seq := (s.core s.here).next, first := (s.core s.here).next, pc := c.img.pc, instr := i
    xa := capX c.img r.ra, xb := capX c.img r.rb, xc := capX c.img r.rc, xd := capX c.img r.rd
    sa := capS c.img r.sa, sb := capS c.img r.sb, rm := c.img.rm, duo := c.img.duo, pay := c.img.pending?
    wgt := c.img.mwgt.setWidth 4, dep := c.img.dep, k := k, g0 := 0, gen0 := 0, gen1 := 0, packed := false, passed := none
    again := false, at_ := s.now, ord := s.serial, phase := .waiting }

/-- The entries in the coprocessor ring of a core (R11, R101): those of every context in its slots, also of one that is switched away
(R105). -/
def State.coreRing (s : State) (k : Nat) : List RingEntry :=
  (s.core k).slots.toList.flatMap fun o =>
    match o.bind s.ctx? with
    | some c => c.ring
    | none => []

/-- Append an entry to a context's ring and take the core's sequence number (R101, R141) and the next place in the order of dispatch. -/
def State.pushRing (s : State) (cid : Nat) (e : RingEntry) : State :=
  let s1 := s.updCtx cid fun c => { c with ring := c.ring ++ [e] }
  let k := s.here
  { s1.setCore k { s1.core k with next := (s1.core k).next + 1 } with serial := s.serial + 1 }

/-- The x registers that a ring instruction captures or writes: a younger instruction waits for an older entry that is still to
write one of them (R113, R141). -/
def ringRegs (i : Instr) : List Reg :=
  let r := ringForm i
  r.ra.toList ++ r.rb.toList ++ r.rc.toList ++ r.rd.toList ++ (ringWritesX i).toList

/-- Dispatch into the ring (R141): checks 5 to 7 of R88 (the lendable registers of R108), room among 64 entries, the capture, and
the sequence number; `status.PP` is cleared (R83). -/
def runRing (accept : Prefix → Bool) (len : Nat) (i : Instr) (s : State) : Out :=
  runInstr false accept (ringRegs i)
    (fun s cid c =>
      match c.img.badV (vFields i) with
      | some v => .trap s (FaultRec.mk0 cReg v.toNat c.img.pc.toNat)
      | none =>
        if 64 ≤ (s.coreRing s.here).length then .stall s
        else .done ((s.pushRing cid (mkEntry s c i 0)).count s.here c.img.prv 3 1) (c.img.next len)) s

/-- Does a ring hold a vector memory entry? Scalar memory accesses take their place in program order after the accesses of older ones, of
whatever context of the core (R105, R158, R183): they wait until those entries have ended (log 8). -/
def ringHasMem (ring : List RingEntry) : Bool :=
  ring.any fun e =>
    match e.instr with
    | .vld _ _ _ _ _ => true
    | .vst _ _ _ _ _ => true
    | .vlds _ _ _ _ _ _ => true
    | .vsts _ _ _ _ _ _ => true
    | .vldx _ _ _ _ _ _ => true
    | .vstx _ _ _ _ _ _ => true
    | _ => false

/-- A scalar memory instruction: as `runInstr`, after older vector accesses. -/
def runMem (sys : Bool) (regs : List Reg) (f : State → Nat → Ctx → Eff) (s : State) : Out :=
  runInstr sys noPrefix regs (fun s cid c => if ringHasMem (s.coreRing s.here) then .stall s else f s cid c) s

/-- The shared fields of an engine command, if the instruction is one with a completion area. -/
def engCmd? (i : Instr) : Option Cmd :=
  match i with
  | .dcopy k _ => some k
  | .dfill k _ => some k
  | .gather k _ _ => some k
  | .scatter k _ _ _ => some k
  | .spwalk k _ _ => some k
  | .merge k _ => some k
  | _ => none

/-- Is an instruction one of major 0x20? -/
def isEngine (i : Instr) : Bool :=
  match i with
  | .dfree _ _ => true
  | _ => (engCmd? i).isSome

/-- Is an instruction a command of the matrix unit (major 0x21)? -/
def isMatrix (i : Instr) : Bool :=
  match i with
  | .mldb _ _ _ _ => true
  | .mmac _ _ _ _ _ => true
  | .mmacCoop _ _ _ _ => true
  | _ => false

/-- A release waits until every older engine and matrix command in the ring has been accepted (R188, R281). -/
def acceptWait (ring : List RingEntry) : Bool := ring.any fun e => (isEngine e.instr || isMatrix e.instr) && e.phase == .waiting

/-- Must a release access still wait for older ring entries that access memory (R183): a matrix command until it ends, an engine command until
it is accepted? Vector accesses are waited for by every scalar access. -/
def relWait (ring : List RingEntry) : Bool := ring.any fun e => isMatrix e.instr || (isEngine e.instr && e.phase == .waiting)

/-- What an instruction reads through a slot from cluster memory (R179): the fault of bad data there. -/
def State.saBad (s : State) (d : Desc) (off n : Nat) : Option Eff :=
  if s.badBank (coreGrove s.here) (d.base + off) n then
    some (.trap (s.reportBank (coreGrove s.here) (d.base + off) s.here) (uncorr d off 1 false))
  else none

/-- The largest trap of those due at a boundary is the pending one (R400): a pending late fault, then a put-status-unknown. -/
def State.pendingTrap (s : State) (k : Nat) : Option (Nat × FaultRec × Bool) :=
  match s.activeCid k with
  | none => none
  | some cid =>
    match s.ctx? cid with
    | none => none
    | some c =>
      match c.late with
      | some f => some (cid, f, false)
      | none =>
        match c.psu with
        | p :: _ => some (cid, FaultRec.mk cPsu p.target p.va p.w false none 0, true)
        | [] => none

end Sys2Proof.Machine
end

