-- ==== Sys2Proof/Machine/Control.lean ====
section
/-! DEFINITION. Branches, loops and jumps (majors 0x05 to 0x08; R114, R121 to R124), and what stands in the place of an
instruction when there is none (R88 checks 1 to 4). -/

namespace Sys2Proof.Machine

open Sys2Proof

/-- `A56(pc + 4 · off)` (R114). -/
def branchTo {w : Nat} (m : Image) (off : BitVec w) : Word := a56 (m.pc + (off.signExtend 64 <<< 2))

/-- `b.cc` (R121). -/
def runBranch {w : Nat} (len : Nat) (cc : IntCc) (a b : Reg) (off : BitVec w) (s : State) : Out :=
  runRegs false [a, b]
    (fun m => .ok (if intCond cc (m.getX a) (m.getX b) then { m with pc := branchTo m off } else m.next len)) s

/-- `b.cc` in format C (R121). -/
def execBCc (cc : IntCc) (a b : Reg) (off : BitVec 9) (s : State) : Out := runBranch 4 cc a b off s

/-- `b.cc` in format CQ (R121). -/
def execBCcQ (cc : IntCc) (a b : Reg) (off : BitVec 32) (s : State) : Out := runBranch 8 cc a b off s

/-- `jal` (R123): the link is the next address, modulo 2^56 (R114). -/
def runJal {w : Nat} (len : Nat) (d : Reg) (off : BitVec w) (s : State) : Out :=
  runRegs false [d]
    (fun m => .ok { m.setX d (a56 (m.pc + BitVec.ofNat 64 len)) with pc := branchTo m off }) s

/-- `jal` in format J (R123). -/
def execJal (d : Reg) (off : BitVec 19) (s : State) : Out := runJal 4 d off s

/-- `jal` in format JQ (R123). -/
def execJalQ (d : Reg) (off : BitVec 32) (s : State) : Out := runJal 8 d off s

/-- `loop` (R122). -/
def runLoop {w : Nat} (len : Nat) (a : Reg) (off : BitVec w) (s : State) : Out :=
  runRegs false [a]
    (fun m =>
      let t := m.getX a - 1
      let m' := m.setX a t
      .ok (if t ≠ 0 then { m' with pc := branchTo m off } else m'.next len)) s

/-- `loop` in format C (R122). -/
def execLoop (a : Reg) (off : BitVec 9) (s : State) : Out := runLoop 4 a off s

/-- `loop` in format CQ (R122). -/
def execLoopQ (a : Reg) (off : BitVec 32) (s : State) : Out := runLoop 8 a off s

/-- The checks of a register target (R124, R136). -/
def targetFault (m : Image) (t : Word) : Option FaultRec :=
  if t.extractLsb' 56 8 ≠ 0#8 then some (operandFault m 0)
  else if t.extractLsb' 0 2 ≠ 0#2 then some (FaultRec.mk0 cMisInstr 0 t.toNat)
  else none

/-- `jr` (R124): the target is read before the link is written. -/
def execJr (d a : Reg) (s : State) : Out :=
  runRegs false [d, a]
    (fun m =>
      match targetFault m (m.getX a) with
      | some f => .error f
      | none => .ok { m.setX d (a56 (m.pc + 4)) with pc := m.getX a }) s

/-- The word at the pc is no instruction (R88 checks 2 to 4): illegal-instruction, or misaligned-instruction for a crossing. -/
def execIllegalInstruction (w : IllegalWord) (s : State) : Out :=
  match s.active? with
  | none => .refused .noContext
  | some (cid, c) =>
    let code := match w with | .crossing => cMisInstr | _ => cIllegal
    .next (s.takeTrap cid s.here (FaultRec.mk0 code 0 c.img.pc.toNat) c.img.pc)

/-- The fetch of the block at the pc faults (R88 check 1, R114, R179). -/
def execInstructionFetchFault (code detail : Nat) (s : State) : Out :=
  match s.active? with
  | none => .refused .noContext
  | some (cid, c) => .next (s.takeTrap cid s.here (FaultRec.mk0 code detail c.img.pc.toNat) c.img.pc)

end Sys2Proof.Machine
end

