-- ==== Sys2Proof/Machine/Float.lean ====
section
/-! DEFINITION. Scalar FP32 (major 0x09; R125 to R129). -/

namespace Sys2Proof.Machine

open Sys2Proof

/-- `F(X(r))` (R112). -/
def Image.getF (m : Image) (r : Reg) : BitVec 32 := (m.getX r).setWidth 32

/-- A rounding instruction (R125, R126): the exact value with its flags, rounded once under rm, written as `Z(r)`. -/
def runFp (len : Nat) (d : Reg) (srcs : List Reg) (f : Rm → Image → FV × FFlags) (s : State) : Out :=
  runRegs true (d :: srcs)
    (fun m =>
      let rm := rmUnder m.rm m.pending?
      let v := f rm m
      let r := roundF32 rm v.1
      .ok (((m.setX d (r.1.setWidth 64)).orFlags (v.2 ||| r.2)).next len)) s

/-- An instruction that never rounds and takes no prefix (R125, R127, R128). -/
def runFpBits (d : Reg) (srcs : List Reg) (f : Image → Word × FFlags) (s : State) : Out :=
  runRegs false (d :: srcs)
    (fun m => let r := f m; .ok (((m.setX d r.1).orFlags r.2).next 4)) s

/-- The product and sum of `fma` (R126): one rounding; 0 · ∞ sets NV even when c is NaN. -/
def fmaVal (rm : Rm) (a b c : FV) : FV × FFlags :=
  let p := FV.mul a b
  let q := FV.add rm p.1 c
  (q.1, p.2 ||| q.2)

/-- A conversion of FP32 to an integer (R129): sign-extended for .i32. -/
def runToInt (dst : Fmt) (d a : Reg) (s : State) : Out :=
  runRegs true [d, a]
    (fun m =>
      let r := convert dst .f32 (rmUnder m.rm m.pending?) (m.getF a).toNat
      let w : Word := if dst = .i32 then (BitVec.ofNat 32 r.1).signExtend 64 else BitVec.ofNat 64 r.1
      .ok (((m.setX d w).orFlags r.2).next 4)) s

/-- A conversion of an integer to FP32 (R129). -/
def runOfInt (src : Fmt) (d a : Reg) (s : State) : Out :=
  runRegs true [d, a]
    (fun m =>
      let r := convert .f32 src (rmUnder m.rm m.pending?) (m.getX a).toNat
      .ok (((m.setX d (BitVec.ofNat 64 r.1)).orFlags r.2).next 4)) s

/-- `fadd` (R126). -/
def execFadd (d a b : Reg) (s : State) : Out :=
  runFp 4 d [a, b] (fun rm m => FV.add rm (valF32 (m.getF a)) (valF32 (m.getF b))) s

/-- `fsub` (R126). -/
def execFsub (d a b : Reg) (s : State) : Out :=
  runFp 4 d [a, b] (fun rm m => FV.add rm (valF32 (m.getF a)) (valF32 (m.getF b)).neg) s

/-- `fmul` (R126). -/
def execFmul (d a b : Reg) (s : State) : Out :=
  runFp 4 d [a, b] (fun _ m => FV.mul (valF32 (m.getF a)) (valF32 (m.getF b))) s

/-- `fdiv` (R126). -/
def execFdiv (d a b : Reg) (s : State) : Out :=
  runFp 4 d [a, b] (fun _ m => FV.div (valF32 (m.getF a)) (valF32 (m.getF b))) s

/-- `fsqrt` (R126). -/
def execFsqrt (d a : Reg) (s : State) : Out :=
  runFp 4 d [a] (fun _ m => FV.sqrt (valF32 (m.getF a))) s

/-- `fmin` (R126, R39). -/
def execFmin (d a b : Reg) (s : State) : Out :=
  runFpBits d [a, b] (fun m => ((minF32 (m.getF a) (m.getF b)).setWidth 64, fNone)) s

/-- `fmax` (R126, R39). -/
def execFmax (d a b : Reg) (s : State) : Out :=
  runFpBits d [a, b] (fun m => ((maxF32 (m.getF a) (m.getF b)).setWidth 64, fNone)) s

/-- `fsgn` (R128). -/
def execFsgn (d a b : Reg) (s : State) : Out :=
  runFpBits d [a, b] (fun m =>
    ((BitVec.ofBool ((m.getF b).getLsbD 31) ++ (m.getF a).extractLsb' 0 31).setWidth 64, fNone)) s

/-- `fsgnn` (R128). -/
def execFsgnn (d a b : Reg) (s : State) : Out :=
  runFpBits d [a, b] (fun m =>
    ((BitVec.ofBool (!(m.getF b).getLsbD 31) ++ (m.getF a).extractLsb' 0 31).setWidth 64, fNone)) s

/-- `fsgnx` (R128). -/
def execFsgnx (d a b : Reg) (s : State) : Out :=
  runFpBits d [a, b] (fun m =>
    ((BitVec.ofBool ((m.getF a).getLsbD 31 != (m.getF b).getLsbD 31) ++ (m.getF a).extractLsb' 0 31).setWidth 64, fNone)) s

/-- `fcmp.cc` (R127). -/
def execFcmpCc (cc : FpCc) (d a b : Reg) (s : State) : Out :=
  runFpBits d [a, b] (fun m =>
    let r := fpCond cc (m.getF a) (m.getF b)
    (if r.1 then 1 else 0, r.2)) s

/-- `fcvt.i32.f32` (R129). -/
def execFcvtI32F32 (d a : Reg) (s : State) : Out :=
  runToInt .i32 d a s

/-- `fcvt.n32.f32` (R129). -/
def execFcvtN32F32 (d a : Reg) (s : State) : Out :=
  runToInt .n32 d a s

/-- `fcvt.i64.f32` (R129). -/
def execFcvtI64F32 (d a : Reg) (s : State) : Out :=
  runToInt .i64 d a s

/-- `fcvt.n64.f32` (R129). -/
def execFcvtN64F32 (d a : Reg) (s : State) : Out :=
  runToInt .n64 d a s

/-- `fcvt.f32.i32` (R129). -/
def execFcvtF32I32 (d a : Reg) (s : State) : Out :=
  runOfInt .i32 d a s

/-- `fcvt.f32.n32` (R129). -/
def execFcvtF32N32 (d a : Reg) (s : State) : Out :=
  runOfInt .n32 d a s

/-- `fcvt.f32.i64` (R129). -/
def execFcvtF32I64 (d a : Reg) (s : State) : Out :=
  runOfInt .i64 d a s

/-- `fcvt.f32.n64` (R129). -/
def execFcvtF32N64 (d a : Reg) (s : State) : Out :=
  runOfInt .n64 d a s

/-- `fma` (R126). -/
def execFma (d a b c : Reg) (s : State) : Out :=
  runFp 8 d [a, b, c] (fun rm m => fmaVal rm (valF32 (m.getF a)) (valF32 (m.getF b)) (valF32 (m.getF c))) s

end Sys2Proof.Machine
end

