-- ==== Sys2Proof/Machine/Vector.lean ====
section
/-! DEFINITION. Vector instructions (majors 0x10 to 0x16; R139 to R158). Each `exec` dispatches a ring entry; `vecEffect` is what
the entry does to the image when it completes, and `vmemRun` what a vector load or store does. -/

namespace Sys2Proof.Machine

open Sys2Proof

/-- Compute the active lanes and write them; the other lanes are kept or zeroed; the flags of the active lanes are ORed (R142). -/
def vecWrite (m : Image) (k : Mask) (d : Reg) (f : Nat → BitVec 32 × FFlags) : Image :=
  let rs := (List.range 16).map fun i => if activeLane m k i then some (f i) else none
  let v := ofLanes (rs.zipIdx.map fun p =>
    match p.1 with
    | some r => r.1
    | none => if maskZ k then 0 else lane (m.getV d) p.2)
  (m.setV d v).orFlags (rs.foldl (fun acc r => match r with | some r => acc ||| r.2 | none => acc) fNone)

/-- The same for an operation that sets no flag. -/
def vecBits (m : Image) (k : Mask) (d : Reg) (f : Nat → BitVec 32) : Image := vecWrite m k d fun i => (f i, fNone)

/-- Operand b: a register, or the literal in every lane (R140). -/
inductive VOp
  | reg (r : Reg)
  | lit (w : BitVec 32)

/-- Lane i of operand b. -/
def VOp.lane (m : Image) (o : VOp) (i : Nat) : BitVec 32 :=
  match o with
  | .reg r => Machine.lane (m.getV r) i
  | .lit w => w

/-- Round an exact value once, with the flags of the operation (R144). -/
def rounded (rm : Rm) (v : FV × FFlags) : BitVec 32 × FFlags :=
  let r := roundF32 rm v.1
  (r.1, v.2 ||| r.2)

/-- A rounding operation on two operands (R144). -/
def vfp2 (m : Image) (k : Mask) (d a : Reg) (b : VOp) (rm : Rm) (f : FV → FV → FV × FFlags) : Image :=
  vecWrite m k d fun i => rounded rm (f (valF32 (lane (m.getV a) i)) (valF32 (b.lane m i)))

/-- A rounding operation on one operand (R144). -/
def vfp1 (m : Image) (k : Mask) (d a : Reg) (rm : Rm) (f : FV → FV × FFlags) : Image :=
  vecWrite m k d fun i => rounded rm (f (valF32 (lane (m.getV a) i)))

/-- A fused operation on three operands (R144). -/
def vfp3 (m : Image) (k : Mask) (d a b c : Reg) (rm : Rm) (f : FV → FV → FV → FV × FFlags) : Image :=
  vecWrite m k d fun i =>
    rounded rm (f (valF32 (lane (m.getV a) i)) (valF32 (lane (m.getV b) i)) (valF32 (lane (m.getV c) i)))

/-- An operation on bits of two operands (R144 codes 7 and 8, R145, R147). -/
def vbits2 (m : Image) (k : Mask) (d a : Reg) (b : VOp) (f : BitVec 32 → BitVec 32 → BitVec 32) : Image :=
  vecBits m k d fun i => f (lane (m.getV a) i) (b.lane m i)

/-- The value of a lane under .i32 or .n32 (R145). -/
def laneInt (nat : Bool) (w : BitVec 32) : Int := if nat then (w.toNat : Int) else w.toInt

/-- The high half of a 64-bit product (R145 code 3). -/
def vmulHigh (nat : Bool) (a b : BitVec 32) : BitVec 32 := BitVec.ofInt 32 ((laneInt nat a * laneInt nat b) / 2 ^ 32)

/-- The smaller of two lanes (R145 code 11). -/
def vminI (nat : Bool) (a b : BitVec 32) : BitVec 32 := if laneInt nat a ≤ laneInt nat b then a else b

/-- The larger of two lanes (R145 code 12). -/
def vmaxI (nat : Bool) (a b : BitVec 32) : BitVec 32 := if laneInt nat a ≤ laneInt nat b then b else a

/-- Saturate to the range of .i32 or .n32 (R145 codes 14 and 15). -/
def vsat (nat : Bool) (v : Int) : BitVec 32 :=
  let lo : Int := if nat then 0 else -(2 ^ 31)
  let hi : Int := if nat then 2 ^ 32 - 1 else 2 ^ 31 - 1
  BitVec.ofInt 32 (max lo (min hi v))

/-- Arithmetic shift right of a lane by b mod 32 (R145). -/
def vsraL (a b : BitVec 32) : BitVec 32 := a.sshiftRight (b.toNat % 32)

/-- 1 or 0 in a lane (R146). -/
def bit0 (b : Bool) : BitVec 32 := if b then 1 else 0

/-- Combine two operands of which either may be absent (R41). -/
def combOpt {α : Type} (op : α → α → α) (x y : Option α) : Option α :=
  match x, y with
  | some a, some b => some (op a b)
  | some a, none => some a
  | none, y => y

/-- One level of the tree of R41: neighbours combined in pairs. -/
def pairUp {α : Type} (op : α → α → α) (ls : List (Option α)) : List (Option α) :=
  match ls with
  | x :: y :: rest => combOpt op x y :: pairUp op rest
  | rest => rest

/-- The tree of R41 over sixteen lanes: widths 1, 2, 4 and 8. -/
def treeOf {α : Type} (op : α → α → α) (ls : List (Option α)) : Option α :=
  ((pairUp op (pairUp op (pairUp op (pairUp op ls)))).head?).getD none

/-- The active lanes of a register, each under a reading; a masked-off lane is absent. -/
def activeLanes {α : Type} (m : Image) (k : Mask) (a : Reg) (f : BitVec 32 → α) : List (Option α) :=
  (List.range 16).map fun i => if activeLane m k i then some (f (lane (m.getV a) i)) else none

/-- An FP32 sum of two lanes with the flags gathered so far (R41, R42). -/
def addLanes (rm : Rm) (x y : BitVec 32 × FFlags) : BitVec 32 × FFlags :=
  let r := rounded rm (FV.add rm (valF32 x.1) (valF32 y.1))
  (r.1, x.2 ||| y.2 ||| r.2)

/-- `vred.add` (R149): the value of X(d) and the flags. -/
def redAdd (ty : LaneTy) (rm : Rm) (m : Image) (k : Mask) (a : Reg) : Word × FFlags :=
  match ty with
  | .f32 =>
    match treeOf (addLanes rm) (activeLanes m k a fun w => (w, fNone)) with
    | some r => (r.1.setWidth 64, r.2)
    | none => (0, fNone)
  | .i32 => (BitVec.ofInt 64 ((treeOf (· + ·) (activeLanes m k a (laneInt false))).getD 0), fNone)
  | .n32 => (BitVec.ofInt 64 ((treeOf (· + ·) (activeLanes m k a (laneInt true))).getD 0), fNone)

/-- `vred.min` (R149). -/
def redMin (ty : LaneTy) (m : Image) (k : Mask) (a : Reg) : Word :=
  let ls := activeLanes m k a id
  match ty with
  | .f32 => ((treeOf minF32 ls).getD 0x7F800000#32).setWidth 64
  | .i32 => ((treeOf (vminI false) ls).getD 0x7FFFFFFF#32).signExtend 64
  | .n32 => ((treeOf (vminI true) ls).getD 0xFFFFFFFF#32).setWidth 64

/-- `vred.max` (R149). -/
def redMax (ty : LaneTy) (m : Image) (k : Mask) (a : Reg) : Word :=
  let ls := activeLanes m k a id
  match ty with
  | .f32 => ((treeOf maxF32 ls).getD 0xFF800000#32).setWidth 64
  | .i32 => ((treeOf (vmaxI false) ls).getD 0x80000000#32).signExtend 64
  | .n32 => ((treeOf (vmaxI true) ls).getD 0#32).setWidth 64

/-- A bitwise reduction (R149). -/
def redBits (op : BitVec 32 → BitVec 32 → BitVec 32) (absent : BitVec 32) (m : Image) (k : Mask) (a : Reg) : Word :=
  ((treeOf op (activeLanes m k a id)).getD absent).setWidth 64

/-- The running values of a scan (R42), lane by lane; an absent lane has none. -/
def scanFrom {α : Type} (op : α → α → α) (acc : Option α) (ls : List (Option α)) : List (Option α) :=
  match ls with
  | [] => []
  | none :: rest => none :: scanFrom op acc rest
  | some x :: rest =>
    let r := match acc with | some y => op y x | none => x
    some r :: scanFrom op (some r) rest

/-- Write the running values of a scan into the active lanes, with the flags of the last (R149). -/
def vscan (m : Image) (k : Mask) (d a : Reg) (op : BitVec 32 × FFlags → BitVec 32 × FFlags → BitVec 32 × FFlags) : Image :=
  let rs := scanFrom op none (activeLanes m k a fun w => (w, fNone))
  vecWrite m k d fun i => (rs.getD i none).getD (0, fNone)

/-- A scan operation without flags. -/
def scanBits (op : BitVec 32 → BitVec 32 → BitVec 32) (x y : BitVec 32 × FFlags) : BitVec 32 × FFlags := (op x.1 y.1, fNone)

/-- Minimum of lanes under a type (R149). -/
def minLane (ty : LaneTy) : BitVec 32 → BitVec 32 → BitVec 32 :=
  match ty with
  | .f32 => minF32 | .i32 => vminI false | .n32 => vminI true

/-- Maximum of lanes under a type (R149). -/
def maxLane (ty : LaneTy) : BitVec 32 → BitVec 32 → BitVec 32 :=
  match ty with
  | .f32 => maxF32 | .i32 => vmaxI false | .n32 => vmaxI true

/-- The format that a lane type names. -/
def laneFmt (ty : LaneTy) : Fmt :=
  match ty with
  | .f32 => .f32 | .i32 => .i32 | .n32 => .n32

/-- Convert a lane (R151): the low bits of the source's width, to the low bits of the destination's. -/
def cvtLane (dst src : Fmt) (rm : Rm) (w : BitVec 32) : BitVec 32 × FFlags :=
  let r := convert dst src rm (w.toNat % 2 ^ fmtWidth src)
  (BitVec.ofNat 32 r.1, r.2)

/-- The bytes of a register, byte 0 first. -/
def vBytes (v : BitVec 512) : List Byte := leBytes 64 v.toNat

/-- Element j of the dense array of a register (R152). -/
def packedElem (f : Fmt) (v : BitVec 512) (j : Nat) : Nat :=
  match f with
  | .lg6 => (v.toNat >>> (256 * (j / 32) + 6 * (j % 32))) % 64
  | _ => (v.toNat >>> (fmtWidth f * j)) % 2 ^ fmtWidth f

/-- `vpack` (R152). -/
def vpackEffect (dst : Fmt) (src : LaneTy) (q : Bool) (rm : Rm) (m : Image) (d a b : Reg) : Image :=
  let rs := (lanes (m.getV a) ++ lanes (m.getV b)).map (cvtLane dst (laneFmt src) rm)
  let els := rs.map fun r => r.1.toNat
  let bytes : List Byte :=
    match dst with
    | .lg6 => packLg6 els ++ List.replicate 8 0
    | _ => els.flatMap (leBytes (fmtWidth dst / 8))
  let old := vBytes (m.getV d)
  let all := if bytes.length = 64 then bytes else if q then old.take 32 ++ bytes else bytes ++ old.drop 32
  (m.setV d (BitVec.ofNat 512 (leNat all))).orFlags (rs.foldl (fun acc r => acc ||| r.2) fNone)

/-- `vunpack` (R152). -/
def vunpackEffect (dst : LaneTy) (src : Fmt) (p : Nat) (rm : Rm) (m : Image) (d a : Reg) : Image :=
  vecWrite m .all d fun i => cvtLane (laneFmt dst) src rm (BitVec.ofNat 32 (packedElem src (m.getV a) (16 * p + i)))

/-- `vqnt` (R153). -/
def vqntEffect (dst : Fmt) (m : Image) (d a b : Reg) (c : Option Reg) : Image :=
  let xs := (lanes (m.getV a) ++ lanes (m.getV b)).map valF32
  let extra := match c with | some c => [valF32 (lane (m.getV c) 0)] | none => []
  let r := blockQuant dst xs extra
  (m.setV d (BitVec.ofNat 512 (leNat (blockBytes dst r.1 r.2.1)))).orFlags r.2.2

/-- The lanes that `vcompress` gathers (R148). -/
def gathered (m : Image) (k : Mask) (a : Reg) : List (BitVec 32) :=
  ((List.range 16).filter (activeLane m k)).map (lane (m.getV a))

/-- `vcompress` (R148). -/
def vcompressEffect (m : Image) (k : Mask) (d a : Reg) : Image :=
  let t := gathered m k a
  m.setV d (ofLanes ((List.range 16).map fun i =>
    if i < t.length then t.getD i 0 else if maskZ k then 0 else lane (m.getV d) i))

/-- `vexpand` (R148): the loop's iterations see what earlier ones have written, so that with the source as the destination a lane may be read after
it was written (R8). -/
def vexpandEffect (m : Image) (k : Mask) (d a : Reg) : Image :=
  let put := fun (v : BitVec 512) (i : Nat) (w : BitVec 32) => ofLanes ((lanes v).set i w)
  let turn := fun (p : BitVec 512 × Nat) (i : Nat) =>
    if activeLane m k i then (put p.1 i (lane (if a = d then p.1 else m.getV a) p.2), p.2 + 1)
    else (if maskZ k then put p.1 i 0 else p.1, p.2)
  m.setV d ((List.range 16).foldl turn (m.getV d, 0)).1

/-- The result of a maximum exchange (R154): NaN where some value is NaN, else the largest magnitude; −0 counts as +0. -/
def vmaxxOf (vs : List (BitVec 512)) : BitVec 512 :=
  ofLanes ((List.range 16).map fun i =>
    let ls := vs.map fun v => lane v i
    if ls.any isNan32 then qnan32
    else ls.foldl (fun acc w => let u := w &&& 0x7FFFFFFF#32; if acc.toNat < u.toNat then u else acc) 0)

/-- What a ring entry that is no memory access, exchange or command does to its context's image when it completes (R142 to R153); `vfnma` raises NV
where the sum of −(a × b) and c is of opposite infinities, as R36 reads (DEDUCED, log 82): its row of R144 says only "as `vfma`". -/
def vecEffect (e : RingEntry) (m : Image) : Image :=
  let rm := rmUnder e.rm e.pay
  match e.instr with
  | .vaddF32 d a b k => vfp2 m k d a (.reg b) rm (FV.add rm)
  | .vaddF32Lit d a w k => vfp2 m k d a (.lit w) rm (FV.add rm)
  | .vsubF32 d a b k => vfp2 m k d a (.reg b) rm fun x y => FV.add rm x y.neg
  | .vsubF32Lit d a w k => vfp2 m k d a (.lit w) rm fun x y => FV.add rm x y.neg
  | .vmulF32 d a b k => vfp2 m k d a (.reg b) rm FV.mul
  | .vmulF32Lit d a w k => vfp2 m k d a (.lit w) rm FV.mul
  | .vdiv d a b k => vfp2 m k d a (.reg b) rm FV.div
  | .vdivLit d a w k => vfp2 m k d a (.lit w) rm FV.div
  | .vsqrt d a k => vfp1 m k d a rm FV.sqrt
  | .vrsqrt d a k => vfp1 m k d a rm FV.rsqrt
  | .vexp2 d a k => vfp1 m k d a rm FV.exp2
  | .vminF32 d a b k => vbits2 m k d a (.reg b) minF32
  | .vminF32Lit d a w k => vbits2 m k d a (.lit w) minF32
  | .vmaxF32 d a b k => vbits2 m k d a (.reg b) maxF32
  | .vmaxF32Lit d a w k => vbits2 m k d a (.lit w) maxF32
  | .vabsF32 d a k => vecBits m k d fun i => lane (m.getV a) i &&& 0x7FFFFFFF#32
  | .vneg d a k => vecBits m k d fun i => lane (m.getV a) i ^^^ 0x80000000#32
  | .vfma d a b c k => vfp3 m k d a b c rm fun x y z => fmaVal rm x y z
  | .vfms d a b c k => vfp3 m k d a b c rm fun x y z => fmaVal rm x y z.neg
  | .vfnma d a b c k => vfp3 m k d a b c rm fun x y z => fmaVal rm x.neg y z
  | .vaddInt _ d a b k => vbits2 m k d a (.reg b) (· + ·)
  | .vaddIntLit _ d a w k => vbits2 m k d a (.lit w) (· + ·)
  | .vsubInt _ d a b k => vbits2 m k d a (.reg b) (· - ·)
  | .vsubIntLit _ d a w k => vbits2 m k d a (.lit w) (· - ·)
  | .vmulInt _ d a b k => vbits2 m k d a (.reg b) (· * ·)
  | .vmulIntLit _ d a w k => vbits2 m k d a (.lit w) (· * ·)
  | .vmulh n d a b k => vbits2 m k d a (.reg b) (vmulHigh n)
  | .vmulhLit n d a w k => vbits2 m k d a (.lit w) (vmulHigh n)
  | .vand _ d a b k => vbits2 m k d a (.reg b) (· &&& ·)
  | .vandLit _ d a w k => vbits2 m k d a (.lit w) (· &&& ·)
  | .vor _ d a b k => vbits2 m k d a (.reg b) (· ||| ·)
  | .vorLit _ d a w k => vbits2 m k d a (.lit w) (· ||| ·)
  | .vxor _ d a b k => vbits2 m k d a (.reg b) (· ^^^ ·)
  | .vxorLit _ d a w k => vbits2 m k d a (.lit w) (· ^^^ ·)
  | .vandn _ d a b k => vbits2 m k d a (.reg b) fun x y => x &&& ~~~y
  | .vandnLit _ d a w k => vbits2 m k d a (.lit w) fun x y => x &&& ~~~y
  | .vsll _ d a b k => vbits2 m k d a (.reg b) fun x y => x <<< (y.toNat % 32)
  | .vsllLit _ d a w k => vbits2 m k d a (.lit w) fun x y => x <<< (y.toNat % 32)
  | .vsrl _ d a b k => vbits2 m k d a (.reg b) fun x y => x >>> (y.toNat % 32)
  | .vsrlLit _ d a w k => vbits2 m k d a (.lit w) fun x y => x >>> (y.toNat % 32)
  | .vsra _ d a b k => vbits2 m k d a (.reg b) vsraL
  | .vsraLit _ d a w k => vbits2 m k d a (.lit w) vsraL
  | .vminInt n d a b k => vbits2 m k d a (.reg b) (vminI n)
  | .vminIntLit n d a w k => vbits2 m k d a (.lit w) (vminI n)
  | .vmaxInt n d a b k => vbits2 m k d a (.reg b) (vmaxI n)
  | .vmaxIntLit n d a w k => vbits2 m k d a (.lit w) (vmaxI n)
  | .vabsI32 d a k => vecBits m k d fun i => let w := lane (m.getV a) i; if w.getLsbD 31 then -w else w
  | .vadds n d a b k => vbits2 m k d a (.reg b) fun x y => vsat n (laneInt n x + laneInt n y)
  | .vaddsLit n d a w k => vbits2 m k d a (.lit w) fun x y => vsat n (laneInt n x + laneInt n y)
  | .vsubs n d a b k => vbits2 m k d a (.reg b) fun x y => vsat n (laneInt n x - laneInt n y)
  | .vsubsLit n d a w k => vbits2 m k d a (.lit w) fun x y => vsat n (laneInt n x - laneInt n y)
  | .vcmpF32 cc d a b k => vecWrite m k d fun i =>
      let r := fpCond cc (lane (m.getV a) i) (lane (m.getV b) i)
      (bit0 r.1, r.2)
  | .vcmpI32 cc d a b k => vecBits m k d fun i => bit0 (intCond cc (lane (m.getV a) i) (lane (m.getV b) i))
  | .vsel d a b k => vecBits m .all d fun i => if activeLane m k i then lane (m.getV a) i else lane (m.getV b) i
  | .vmcnt d a k =>
    m.setX d (BitVec.ofNat 64
      ((List.range 16).filter fun i => activeLane m k i && (lane (m.getV a) i).getLsbD 0).length)
  | .vfirst d a k =>
    m.setX d (BitVec.ofNat 64
      (((List.range 16).find? fun i => activeLane m k i && (lane (m.getV a) i).getLsbD 0).getD 16))
  | .vmand d a b k => vecBits m k d fun i => (lane (m.getV a) i &&& lane (m.getV b) i) &&& 1
  | .vmor d a b k => vecBits m k d fun i => (lane (m.getV a) i ||| lane (m.getV b) i) &&& 1
  | .vmxor d a b k => vecBits m k d fun i => (lane (m.getV a) i ^^^ lane (m.getV b) i) &&& 1
  | .vmnot d a k => vecBits m k d fun i => ~~~(lane (m.getV a) i) &&& 1
  | .vperm d a b k => vecBits m k d fun i => lane (m.getV a) ((lane (m.getV b) i).toNat % 16)
  | .vbcast d _ k => vecBits m k d fun _ => e.xa.setWidth 32
  | .vbcastLit _ d w k => vecBits m k d fun _ => w
  | .vext sgn d a l => m.setX d (let w := lane (m.getV a) l.toNat; if sgn then w.signExtend 64 else w.setWidth 64)
  | .vins d _ l => vecBits m .all d fun i => if i = l.toNat then e.xa.setWidth 32 else lane (m.getV d) i
  | .vslide d a b n k => vecBits m k d fun i =>
      if i + n.toNat < 16 then lane (m.getV a) (i + n.toNat) else lane (m.getV b) (i + n.toNat - 16)
  | .vcompress d a k => vcompressEffect m k d a
  | .vexpand d a k => vexpandEffect m k d a
  | .vmov d a k => vecBits m k d fun i => lane (m.getV a) i
  | .vredAdd ty d a k => let r := redAdd ty rm m k a; (m.setX d r.1).orFlags r.2
  | .vredMin ty d a k => m.setX d (redMin ty m k a)
  | .vredMax ty d a k => m.setX d (redMax ty m k a)
  | .vredAnd d a k => m.setX d (redBits (· &&& ·) 0xFFFFFFFF m k a)
  | .vredOr d a k => m.setX d (redBits (· ||| ·) 0 m k a)
  | .vredXor d a k => m.setX d (redBits (· ^^^ ·) 0 m k a)
  | .vscanAdd ty d a k =>
    if ty = .f32 then vscan m k d a (addLanes rm) else vscan m k d a (scanBits (· + ·))
  | .vscanMin ty d a k => vscan m k d a (scanBits (minLane ty))
  | .vscanMax ty d a k => vscan m k d a (scanBits (maxLane ty))
  | .vcvt dst src d a k => vecWrite m k d fun i => cvtLane dst src rm (lane (m.getV a) i)
  | .vpack dst src d a b q => vpackEffect dst src q rm m d a b
  | .vunpack dst src d a p => vunpackEffect dst src p.toNat rm m d a
  | .vqnt dst d a b c => vqntEffect dst m d a b c
  | _ => m

/-- A vector access: the offset of lane i from the captured operands (R156). -/
def laneOffset (e : RingEntry) (m : Image) (i : Nat) : Int :=
  match e.instr with
  | .vld _ _ _ imm _ => nOf e.xa + imm.toInt + 4 * i
  | .vst _ _ _ imm _ => nOf e.xa + imm.toInt + 4 * i
  | .vlds _ _ _ _ imm _ => nOf e.xa + imm.toInt + i * e.xc.toInt
  | .vsts _ _ _ _ imm _ => nOf e.xa + imm.toInt + i * e.xc.toInt
  | .vldx _ _ c _ imm _ => nOf e.xa + imm.toInt + 4 * (lane (m.getV c) i).toInt
  | .vstx _ _ c _ imm _ => nOf e.xa + imm.toInt + 4 * (lane (m.getV c) i).toInt
  | _ => 0

/-- The data register of a vector access and whether it stores. -/
def vmemReg (i : Instr) : Option (Reg × Bool) :=
  match i with
  | .vld d _ _ _ _ => some (d, false)
  | .vst d _ _ _ _ => some (d, true)
  | .vlds d _ _ _ _ _ => some (d, false)
  | .vsts d _ _ _ _ _ => some (d, true)
  | .vldx d _ _ _ _ _ => some (d, false)
  | .vstx d _ _ _ _ _ => some (d, true)
  | _ => none

/-- The checks of one lane (R157) and, for a load, its four bytes; for a store, its places: an offset in cluster memory, or the physical
parts. -/
def laneAccess (s : State) (core : Nat) (d : Desc) (store : Bool) (off : Int) :
    State × Except FaultRec (List Byte × List (Nat × Nat)) :=
  match segCheck d [kGlobal, kCluster] (isService core) off 4 4 (!store) store store with
  | some f => (s, .error f)
  | none =>
    if store then
      if d.kind = kCluster then (s, .ok ([], [(d.base + off.toNat, 4)]))
      else
        match s.accessParts core d off 4 .write true with
        | (s1, .error f) => (s1, .error f)
        | (s1, .ok parts) => (s1, .ok ([], parts))
    else
      match s.loadPast core d off 4 false none with
      | (s1, .error f) => (s1, .error f)
      | (s1, .ok bs) => (s1, .ok (bs, []))

/-- The accesses of the active lanes in ascending lane number up to the first that fails (R157). -/
def lanesAccess (s : State) (core : Nat) (e : RingEntry) (m : Image) (store : Bool) (ls : List Nat) :
    State × Except FaultRec (List (Nat × List Byte × List (Nat × Nat))) :=
  match ls with
  | [] => (s, .ok [])
  | i :: rest =>
    match laneAccess s core e.sa store (laneOffset e m i) with
    | (s1, .error f) => (s1, .error f)
    | (s1, .ok r) =>
      match lanesAccess s1 core e m store rest with
      | (s2, .error f) => (s2, .error f)
      | (s2, .ok rs) => (s2, .ok ((i, r) :: rs))

/-- The bytes that lanes store, as runs in rising address order: the highest lane supplies a byte that several store to (R158). A run is cut
where a line ends. -/
def laneRuns (ws : List (Nat × List Byte)) : List (Nat × List Byte) :=
  let bytes := ws.foldl (fun (t : Tab Byte) w => w.2.zipIdx.foldl (fun (t : Tab Byte) b => t.set (w.1 + b.2) b.1) t) []
  bytes.foldr (fun p rs =>
    match rs with
    | (a, bs) :: rest => if p.1 + 1 = a && a % 128 != 0 then (p.1, p.2 :: bs) :: rest else (p.1, [p.2]) :: rs
    | [] => [(p.1, [p.2])]) []

/-- The stores of the lanes (R158): what lies side by side is one write, but registers of the management space take each lane by itself. -/
def State.storeLanes (s : State) (core : Nat) (d : Desc) (ws : List (Nat × List Byte)) : State :=
  let regs := ws.filter fun w => d.kind != kCluster && (mgmtAt? w.1).isSome
  let mem := ws.filter fun w => !(d.kind != kCluster && (mgmtAt? w.1).isSome)
  let s1 := regs.foldl (fun (t : State) w => t.writeAt core d w.1 w.2 none) s
  (laneRuns mem).foldl (fun (t : State) w =>
    if d.kind = kCluster then t.bankWrite (coreGrove core) w.1 w.2 else t.writeAt core d w.1 w.2 none) s1

/-- What a vector load or store does (R156 to R158): all of it, or the fault of the lowest failing lane and nothing. Where lanes
store to the same byte the highest lane supplies it. -/
def vmemRun (s : State) (core : Nat) (e : RingEntry) (m : Image) : State × Except FaultRec Image :=
  match vmemReg e.instr with
  | none => (s, .ok m)
  | some (d, store) =>
    let k := vMask e.instr
    match lanesAccess s core e m store ((List.range 16).filter (activeLane m k)) with
    | (s1, .error f) => (s1, .error f)
    | (s1, .ok rs) =>
      if store then
        (s1.storeLanes core e.sa (rs.flatMap fun r =>
          (r.2.2.foldl (fun (t : List (Nat × List Byte) × List Byte) p => (t.1 ++ [(p.1, t.2.take p.2)], t.2.drop p.2))
            ([], leBytes 4 (lane (m.getV d) r.1).toNat)).1),
          .ok m)
      else
        (s1, .ok (vecBits m k d fun i =>
          match rs.find? fun r => r.1 == i with
          | some r => BitVec.ofNat 32 (leNat r.2.1)
          | none => 0))

/-- Does an older entry hold back an exchange's source, which it has still to write? -/
def sourceHeld (ring : List RingEntry) (a : Reg) : Bool :=
  ring.any fun o => match vmemReg o.instr with
    | some (d, store) => !store && d == a
    | none => (ringWritesX o.instr).isNone && (vFields o.instr).head? == some a

/-- `VMAXX` (R154, R155): dispatch with the core's exchange number, which every first dispatch increments; the number is the count before
the increment, so that the first is 0 (DESIGN CHOICE, log 69). Its source is read at once unless an older entry has still to write it. -/
def execVmaxx (d a : Reg) (w : BitVec 3) (s : State) : Out :=
  runInstr false noPrefix []
    (fun s cid c =>
      match c.img.badV [d, a] with
      | some v => .trap s (FaultRec.mk0 cReg v.toNat c.img.pc.toNat)
      | none =>
        if 64 ≤ (s.coreRing s.here).length then .stall s
        else
          let k := (s.core s.here).xchg
          let e := mkEntry s c (.vmaxx d a w) k.toNat
          let e := if sourceHeld c.ring a then e else { e with phase := .exchanging (c.img.getV a) }
          let s1 := (s.pushRing cid e).count s.here c.img.prv 3 1
          .done (s1.setCore s.here { s1.core s.here with xchg := k + 1 }) (c.img.next 8)) s


/-- `VADD_F32` (R144): dispatch; `vecEffect` is its effect. -/
def execVaddF32 (d a b : Reg) (m : Mask) (s : State) : Out :=
  runRing rmOnly 8 (.vaddF32 d a b m) s

/-- `VSUB_F32` (R144): dispatch; `vecEffect` is its effect. -/
def execVsubF32 (d a b : Reg) (m : Mask) (s : State) : Out :=
  runRing rmOnly 8 (.vsubF32 d a b m) s

/-- `VMUL_F32` (R144): dispatch; `vecEffect` is its effect. -/
def execVmulF32 (d a b : Reg) (m : Mask) (s : State) : Out :=
  runRing rmOnly 8 (.vmulF32 d a b m) s

/-- `VDIV` (R144): dispatch; `vecEffect` is its effect. -/
def execVdiv (d a b : Reg) (m : Mask) (s : State) : Out :=
  runRing rmOnly 8 (.vdiv d a b m) s

/-- `VSQRT` (R144): dispatch; `vecEffect` is its effect. -/
def execVsqrt (d a : Reg) (m : Mask) (s : State) : Out :=
  runRing rmOnly 8 (.vsqrt d a m) s

/-- `VRSQRT` (R144): dispatch; `vecEffect` is its effect. -/
def execVrsqrt (d a : Reg) (m : Mask) (s : State) : Out :=
  runRing rmOnly 8 (.vrsqrt d a m) s

/-- `VEXP2` (R144): dispatch; `vecEffect` is its effect. -/
def execVexp2 (d a : Reg) (m : Mask) (s : State) : Out :=
  runRing rmOnly 8 (.vexp2 d a m) s

/-- `VMIN_F32` (R144): dispatch; `vecEffect` is its effect. -/
def execVminF32 (d a b : Reg) (m : Mask) (s : State) : Out :=
  runRing noPrefix 8 (.vminF32 d a b m) s

/-- `VMAX_F32` (R144): dispatch; `vecEffect` is its effect. -/
def execVmaxF32 (d a b : Reg) (m : Mask) (s : State) : Out :=
  runRing noPrefix 8 (.vmaxF32 d a b m) s

/-- `VABS_F32` (R144): dispatch; `vecEffect` is its effect. -/
def execVabsF32 (d a : Reg) (m : Mask) (s : State) : Out :=
  runRing noPrefix 8 (.vabsF32 d a m) s

/-- `VNEG` (R144): dispatch; `vecEffect` is its effect. -/
def execVneg (d a : Reg) (m : Mask) (s : State) : Out :=
  runRing noPrefix 8 (.vneg d a m) s

/-- `VFMA` (R144): dispatch; `vecEffect` is its effect. -/
def execVfma (d a b c : Reg) (m : Mask) (s : State) : Out :=
  runRing rmOnly 8 (.vfma d a b c m) s

/-- `VFMS` (R144): dispatch; `vecEffect` is its effect. -/
def execVfms (d a b c : Reg) (m : Mask) (s : State) : Out :=
  runRing rmOnly 8 (.vfms d a b c m) s

/-- `VFNMA` (R144): dispatch; `vecEffect` is its effect. -/
def execVfnma (d a b c : Reg) (m : Mask) (s : State) : Out :=
  runRing rmOnly 8 (.vfnma d a b c m) s

/-- `VADD_F32_LIT` (R144): dispatch; `vecEffect` is its effect. -/
def execVaddF32Lit (d a : Reg) (lit : BitVec 32) (m : Mask) (s : State) : Out :=
  runRing rmOnly 12 (.vaddF32Lit d a lit m) s

/-- `VSUB_F32_LIT` (R144): dispatch; `vecEffect` is its effect. -/
def execVsubF32Lit (d a : Reg) (lit : BitVec 32) (m : Mask) (s : State) : Out :=
  runRing rmOnly 12 (.vsubF32Lit d a lit m) s

/-- `VMUL_F32_LIT` (R144): dispatch; `vecEffect` is its effect. -/
def execVmulF32Lit (d a : Reg) (lit : BitVec 32) (m : Mask) (s : State) : Out :=
  runRing rmOnly 12 (.vmulF32Lit d a lit m) s

/-- `VDIV_LIT` (R144): dispatch; `vecEffect` is its effect. -/
def execVdivLit (d a : Reg) (lit : BitVec 32) (m : Mask) (s : State) : Out :=
  runRing rmOnly 12 (.vdivLit d a lit m) s

/-- `VMIN_F32_LIT` (R144): dispatch; `vecEffect` is its effect. -/
def execVminF32Lit (d a : Reg) (lit : BitVec 32) (m : Mask) (s : State) : Out :=
  runRing noPrefix 12 (.vminF32Lit d a lit m) s

/-- `VMAX_F32_LIT` (R144): dispatch; `vecEffect` is its effect. -/
def execVmaxF32Lit (d a : Reg) (lit : BitVec 32) (m : Mask) (s : State) : Out :=
  runRing noPrefix 12 (.vmaxF32Lit d a lit m) s

/-- `VADD_INT` (R145): dispatch; `vecEffect` is its effect. -/
def execVaddInt (nat : Bool) (d a b : Reg) (m : Mask) (s : State) : Out :=
  runRing noPrefix 8 (.vaddInt nat d a b m) s

/-- `VSUB_INT` (R145): dispatch; `vecEffect` is its effect. -/
def execVsubInt (nat : Bool) (d a b : Reg) (m : Mask) (s : State) : Out :=
  runRing noPrefix 8 (.vsubInt nat d a b m) s

/-- `VMUL_INT` (R145): dispatch; `vecEffect` is its effect. -/
def execVmulInt (nat : Bool) (d a b : Reg) (m : Mask) (s : State) : Out :=
  runRing noPrefix 8 (.vmulInt nat d a b m) s

/-- `VMULH` (R145): dispatch; `vecEffect` is its effect. -/
def execVmulh (nat : Bool) (d a b : Reg) (m : Mask) (s : State) : Out :=
  runRing noPrefix 8 (.vmulh nat d a b m) s

/-- `VAND` (R145): dispatch; `vecEffect` is its effect. -/
def execVand (nat : Bool) (d a b : Reg) (m : Mask) (s : State) : Out :=
  runRing noPrefix 8 (.vand nat d a b m) s

/-- `VOR` (R145): dispatch; `vecEffect` is its effect. -/
def execVor (nat : Bool) (d a b : Reg) (m : Mask) (s : State) : Out :=
  runRing noPrefix 8 (.vor nat d a b m) s

/-- `VXOR` (R145): dispatch; `vecEffect` is its effect. -/
def execVxor (nat : Bool) (d a b : Reg) (m : Mask) (s : State) : Out :=
  runRing noPrefix 8 (.vxor nat d a b m) s

/-- `VANDN` (R145): dispatch; `vecEffect` is its effect. -/
def execVandn (nat : Bool) (d a b : Reg) (m : Mask) (s : State) : Out :=
  runRing noPrefix 8 (.vandn nat d a b m) s

/-- `VSLL` (R145): dispatch; `vecEffect` is its effect. -/
def execVsll (nat : Bool) (d a b : Reg) (m : Mask) (s : State) : Out :=
  runRing noPrefix 8 (.vsll nat d a b m) s

/-- `VSRL` (R145): dispatch; `vecEffect` is its effect. -/
def execVsrl (nat : Bool) (d a b : Reg) (m : Mask) (s : State) : Out :=
  runRing noPrefix 8 (.vsrl nat d a b m) s

/-- `VSRA` (R145): dispatch; `vecEffect` is its effect. -/
def execVsra (nat : Bool) (d a b : Reg) (m : Mask) (s : State) : Out :=
  runRing noPrefix 8 (.vsra nat d a b m) s

/-- `VMIN_INT` (R145): dispatch; `vecEffect` is its effect. -/
def execVminInt (nat : Bool) (d a b : Reg) (m : Mask) (s : State) : Out :=
  runRing noPrefix 8 (.vminInt nat d a b m) s

/-- `VMAX_INT` (R145): dispatch; `vecEffect` is its effect. -/
def execVmaxInt (nat : Bool) (d a b : Reg) (m : Mask) (s : State) : Out :=
  runRing noPrefix 8 (.vmaxInt nat d a b m) s

/-- `VABS_I32` (R145): dispatch; `vecEffect` is its effect. -/
def execVabsI32 (d a : Reg) (m : Mask) (s : State) : Out :=
  runRing noPrefix 8 (.vabsI32 d a m) s

/-- `VADDS` (R145): dispatch; `vecEffect` is its effect. -/
def execVadds (nat : Bool) (d a b : Reg) (m : Mask) (s : State) : Out :=
  runRing noPrefix 8 (.vadds nat d a b m) s

/-- `VSUBS` (R145): dispatch; `vecEffect` is its effect. -/
def execVsubs (nat : Bool) (d a b : Reg) (m : Mask) (s : State) : Out :=
  runRing noPrefix 8 (.vsubs nat d a b m) s

/-- `VADD_INT_LIT` (R145): dispatch; `vecEffect` is its effect. -/
def execVaddIntLit (nat : Bool) (d a : Reg) (lit : BitVec 32) (m : Mask) (s : State) : Out :=
  runRing noPrefix 12 (.vaddIntLit nat d a lit m) s

/-- `VSUB_INT_LIT` (R145): dispatch; `vecEffect` is its effect. -/
def execVsubIntLit (nat : Bool) (d a : Reg) (lit : BitVec 32) (m : Mask) (s : State) : Out :=
  runRing noPrefix 12 (.vsubIntLit nat d a lit m) s

/-- `VMUL_INT_LIT` (R145): dispatch; `vecEffect` is its effect. -/
def execVmulIntLit (nat : Bool) (d a : Reg) (lit : BitVec 32) (m : Mask) (s : State) : Out :=
  runRing noPrefix 12 (.vmulIntLit nat d a lit m) s

/-- `VMULH_LIT` (R145): dispatch; `vecEffect` is its effect. -/
def execVmulhLit (nat : Bool) (d a : Reg) (lit : BitVec 32) (m : Mask) (s : State) : Out :=
  runRing noPrefix 12 (.vmulhLit nat d a lit m) s

/-- `VAND_LIT` (R145): dispatch; `vecEffect` is its effect. -/
def execVandLit (nat : Bool) (d a : Reg) (lit : BitVec 32) (m : Mask) (s : State) : Out :=
  runRing noPrefix 12 (.vandLit nat d a lit m) s

/-- `VOR_LIT` (R145): dispatch; `vecEffect` is its effect. -/
def execVorLit (nat : Bool) (d a : Reg) (lit : BitVec 32) (m : Mask) (s : State) : Out :=
  runRing noPrefix 12 (.vorLit nat d a lit m) s

/-- `VXOR_LIT` (R145): dispatch; `vecEffect` is its effect. -/
def execVxorLit (nat : Bool) (d a : Reg) (lit : BitVec 32) (m : Mask) (s : State) : Out :=
  runRing noPrefix 12 (.vxorLit nat d a lit m) s

/-- `VANDN_LIT` (R145): dispatch; `vecEffect` is its effect. -/
def execVandnLit (nat : Bool) (d a : Reg) (lit : BitVec 32) (m : Mask) (s : State) : Out :=
  runRing noPrefix 12 (.vandnLit nat d a lit m) s

/-- `VSLL_LIT` (R145): dispatch; `vecEffect` is its effect. -/
def execVsllLit (nat : Bool) (d a : Reg) (lit : BitVec 32) (m : Mask) (s : State) : Out :=
  runRing noPrefix 12 (.vsllLit nat d a lit m) s

/-- `VSRL_LIT` (R145): dispatch; `vecEffect` is its effect. -/
def execVsrlLit (nat : Bool) (d a : Reg) (lit : BitVec 32) (m : Mask) (s : State) : Out :=
  runRing noPrefix 12 (.vsrlLit nat d a lit m) s

/-- `VSRA_LIT` (R145): dispatch; `vecEffect` is its effect. -/
def execVsraLit (nat : Bool) (d a : Reg) (lit : BitVec 32) (m : Mask) (s : State) : Out :=
  runRing noPrefix 12 (.vsraLit nat d a lit m) s

/-- `VMIN_INT_LIT` (R145): dispatch; `vecEffect` is its effect. -/
def execVminIntLit (nat : Bool) (d a : Reg) (lit : BitVec 32) (m : Mask) (s : State) : Out :=
  runRing noPrefix 12 (.vminIntLit nat d a lit m) s

/-- `VMAX_INT_LIT` (R145): dispatch; `vecEffect` is its effect. -/
def execVmaxIntLit (nat : Bool) (d a : Reg) (lit : BitVec 32) (m : Mask) (s : State) : Out :=
  runRing noPrefix 12 (.vmaxIntLit nat d a lit m) s

/-- `VADDS_LIT` (R145): dispatch; `vecEffect` is its effect. -/
def execVaddsLit (nat : Bool) (d a : Reg) (lit : BitVec 32) (m : Mask) (s : State) : Out :=
  runRing noPrefix 12 (.vaddsLit nat d a lit m) s

/-- `VSUBS_LIT` (R145): dispatch; `vecEffect` is its effect. -/
def execVsubsLit (nat : Bool) (d a : Reg) (lit : BitVec 32) (m : Mask) (s : State) : Out :=
  runRing noPrefix 12 (.vsubsLit nat d a lit m) s

/-- `VCMP_F32` (R146): dispatch; `vecEffect` is its effect. -/
def execVcmpF32 (cc : FpCc) (d a b : Reg) (m : Mask) (s : State) : Out :=
  runRing noPrefix 8 (.vcmpF32 cc d a b m) s

/-- `VCMP_I32` (R146): dispatch; `vecEffect` is its effect. -/
def execVcmpI32 (cc : IntCc) (d a b : Reg) (m : Mask) (s : State) : Out :=
  runRing noPrefix 8 (.vcmpI32 cc d a b m) s

/-- `VSEL` (R146): dispatch; `vecEffect` is its effect. -/
def execVsel (d a b : Reg) (m : Mask) (s : State) : Out :=
  runRing noPrefix 8 (.vsel d a b m) s

/-- `VMCNT` (R146): dispatch; `vecEffect` is its effect. -/
def execVmcnt (d a : Reg) (m : Mask) (s : State) : Out :=
  runRing noPrefix 8 (.vmcnt d a m) s

/-- `VFIRST` (R146): dispatch; `vecEffect` is its effect. -/
def execVfirst (d a : Reg) (m : Mask) (s : State) : Out :=
  runRing noPrefix 8 (.vfirst d a m) s

/-- `VMAND` (R146): dispatch; `vecEffect` is its effect. -/
def execVmand (d a b : Reg) (m : Mask) (s : State) : Out :=
  runRing noPrefix 8 (.vmand d a b m) s

/-- `VMOR` (R146): dispatch; `vecEffect` is its effect. -/
def execVmor (d a b : Reg) (m : Mask) (s : State) : Out :=
  runRing noPrefix 8 (.vmor d a b m) s

/-- `VMXOR` (R146): dispatch; `vecEffect` is its effect. -/
def execVmxor (d a b : Reg) (m : Mask) (s : State) : Out :=
  runRing noPrefix 8 (.vmxor d a b m) s

/-- `VMNOT` (R146): dispatch; `vecEffect` is its effect. -/
def execVmnot (d a : Reg) (m : Mask) (s : State) : Out :=
  runRing noPrefix 8 (.vmnot d a m) s

/-- `VPERM` (R147): dispatch; `vecEffect` is its effect. -/
def execVperm (d a b : Reg) (m : Mask) (s : State) : Out :=
  runRing noPrefix 8 (.vperm d a b m) s

/-- `VBCAST` (R147): dispatch; `vecEffect` is its effect. -/
def execVbcast (d a : Reg) (m : Mask) (s : State) : Out :=
  runRing noPrefix 8 (.vbcast d a m) s

/-- `VBCAST_LIT` (R147): dispatch; `vecEffect` is its effect. -/
def execVbcastLit (ty : LaneTy) (d : Reg) (lit : BitVec 32) (m : Mask) (s : State) : Out :=
  runRing noPrefix 12 (.vbcastLit ty d lit m) s

/-- `VEXT` (R147): dispatch; `vecEffect` is its effect. -/
def execVext (sgn : Bool) (d a : Reg) (lane : BitVec 4) (s : State) : Out :=
  runRing noPrefix 8 (.vext sgn d a lane) s

/-- `VINS` (R147): dispatch; `vecEffect` is its effect. -/
def execVins (d a : Reg) (lane : BitVec 4) (s : State) : Out :=
  runRing noPrefix 8 (.vins d a lane) s

/-- `VSLIDE` (R147): dispatch; `vecEffect` is its effect. -/
def execVslide (d a b : Reg) (k : BitVec 4) (m : Mask) (s : State) : Out :=
  runRing noPrefix 8 (.vslide d a b k m) s

/-- `VCOMPRESS` (R148): dispatch; `vecEffect` is its effect. -/
def execVcompress (d a : Reg) (m : Mask) (s : State) : Out :=
  runRing noPrefix 8 (.vcompress d a m) s

/-- `VEXPAND` (R148): dispatch; `vecEffect` is its effect. -/
def execVexpand (d a : Reg) (m : Mask) (s : State) : Out :=
  runRing noPrefix 8 (.vexpand d a m) s

/-- `VMOV` (R147): dispatch; `vecEffect` is its effect. -/
def execVmov (d a : Reg) (m : Mask) (s : State) : Out :=
  runRing noPrefix 8 (.vmov d a m) s

/-- `VRED_ADD` (R149): dispatch; `vecEffect` is its effect. -/
def execVredAdd (ty : LaneTy) (d a : Reg) (m : Mask) (s : State) : Out :=
  runRing (if ty = .f32 then rmOnly else noPrefix) 8 (.vredAdd ty d a m) s

/-- `VRED_MIN` (R149): dispatch; `vecEffect` is its effect. -/
def execVredMin (ty : LaneTy) (d a : Reg) (m : Mask) (s : State) : Out :=
  runRing noPrefix 8 (.vredMin ty d a m) s

/-- `VRED_MAX` (R149): dispatch; `vecEffect` is its effect. -/
def execVredMax (ty : LaneTy) (d a : Reg) (m : Mask) (s : State) : Out :=
  runRing noPrefix 8 (.vredMax ty d a m) s

/-- `VRED_AND` (R149): dispatch; `vecEffect` is its effect. -/
def execVredAnd (d a : Reg) (m : Mask) (s : State) : Out :=
  runRing noPrefix 8 (.vredAnd d a m) s

/-- `VRED_OR` (R149): dispatch; `vecEffect` is its effect. -/
def execVredOr (d a : Reg) (m : Mask) (s : State) : Out :=
  runRing noPrefix 8 (.vredOr d a m) s

/-- `VRED_XOR` (R149): dispatch; `vecEffect` is its effect. -/
def execVredXor (d a : Reg) (m : Mask) (s : State) : Out :=
  runRing noPrefix 8 (.vredXor d a m) s

/-- `VSCAN_ADD` (R149): dispatch; `vecEffect` is its effect. -/
def execVscanAdd (ty : LaneTy) (d a : Reg) (m : Mask) (s : State) : Out :=
  runRing (if ty = .f32 then rmOnly else noPrefix) 8 (.vscanAdd ty d a m) s

/-- `VSCAN_MIN` (R149): dispatch; `vecEffect` is its effect. -/
def execVscanMin (ty : LaneTy) (d a : Reg) (m : Mask) (s : State) : Out :=
  runRing noPrefix 8 (.vscanMin ty d a m) s

/-- `VSCAN_MAX` (R149): dispatch; `vecEffect` is its effect. -/
def execVscanMax (ty : LaneTy) (d a : Reg) (m : Mask) (s : State) : Out :=
  runRing noPrefix 8 (.vscanMax ty d a m) s

/-- `VCVT` (R151): dispatch; `vecEffect` is its effect. -/
def execVcvt (dst src : Fmt) (d a : Reg) (m : Mask) (s : State) : Out :=
  runRing rmOnly 8 (.vcvt dst src d a m) s

/-- `VPACK` (R152): dispatch; `vecEffect` is its effect. -/
def execVpack (dst : Fmt) (src : LaneTy) (d a b : Reg) (q : Bool) (s : State) : Out :=
  runRing rmOnly 8 (.vpack dst src d a b q) s

/-- `VUNPACK` (R152): dispatch; `vecEffect` is its effect. -/
def execVunpack (dst : LaneTy) (src : Fmt) (d a : Reg) (p : BitVec 2) (s : State) : Out :=
  runRing rmOnly 8 (.vunpack dst src d a p) s

/-- `VQNT` (R153): dispatch; `vecEffect` is its effect. -/
def execVqnt (dst : Fmt) (d a b : Reg) (c : Option Reg) (s : State) : Out :=
  runRing noPrefix 8 (.vqnt dst d a b c) s

/-- `VLD` (R156): dispatch; `vmemRun` is its effect. -/
def execVld (d xo : Reg) (seg : Slot) (imm : BitVec 16) (m : Mask) (s : State) : Out :=
  runRing noPrefix 8 (.vld d xo seg imm m) s

/-- `VST` (R156): dispatch; `vmemRun` is its effect. -/
def execVst (d xo : Reg) (seg : Slot) (imm : BitVec 16) (m : Mask) (s : State) : Out :=
  runRing noPrefix 8 (.vst d xo seg imm m) s

/-- `VLDS` (R156): dispatch; `vmemRun` is its effect. -/
def execVlds (d xo c : Reg) (seg : Slot) (imm : BitVec 16) (m : Mask) (s : State) : Out :=
  runRing noPrefix 8 (.vlds d xo c seg imm m) s

/-- `VSTS` (R156): dispatch; `vmemRun` is its effect. -/
def execVsts (d xo c : Reg) (seg : Slot) (imm : BitVec 16) (m : Mask) (s : State) : Out :=
  runRing noPrefix 8 (.vsts d xo c seg imm m) s

/-- `VLDX` (R156): dispatch; `vmemRun` is its effect. -/
def execVldx (d xo c : Reg) (seg : Slot) (imm : BitVec 16) (m : Mask) (s : State) : Out :=
  runRing noPrefix 8 (.vldx d xo c seg imm m) s

/-- `VSTX` (R156): dispatch; `vmemRun` is its effect. -/
def execVstx (d xo c : Reg) (seg : Slot) (imm : BitVec 16) (m : Mask) (s : State) : Out :=
  runRing noPrefix 8 (.vstx d xo c seg imm m) s

end Sys2Proof.Machine
end

