-- ==== Sys2Proof/Machine/Exchange.lean ====
section
/-! DEFINITION. The maximum exchange between cores (R154, R155): participants, contributions, and what an entry has sent. -/

namespace Sys2Proof.Machine

open Sys2Proof

/-- Is an entry a maximum exchange, and of which w? -/
def vmaxxW (i : Instr) : Option Nat :=
  match i with
  | .vmaxx _ _ w => some w.toNat
  | _ => none

/-- The participants of an exchange (R154): the cores with the same number in the groves of the row whose column divided by 2^w is
the same. DESIGN CHOICE (log 87): a service core has no grove (R12, R441), so the numbers name no core that could answer, and its exchange times
out. -/
def participants (core w : Nat) : List Nat :=
  let g := coreGrove core
  let x := g % 16
  (List.range (2 ^ w)).map fun j => (g - x + (x / 2 ^ w * 2 ^ w + j)) * 8 + core % 8

/-- The contribution that a core has received for an instance from a core (R155). -/
def Core.contribution (c : Core) (k src : Nat) : Option Contribution := c.contribs.find? fun p => p.k == k && p.src == src

/-- A received contribution of the instance has a different w (R155). -/
def Core.mismatch (c : Core) (k w : Nat) : Bool := c.contribs.any fun p => p.k == k && p.w != w

/-- The values of the other participants of an exchange on a core, once every contribution with the instance number and the same w has
arrived, within 65,536 cycles of the dispatch of the entry (R155). -/
def State.exchanged (s : State) (core k w at_ : Nat) : Option (List (BitVec 512)) :=
  let got := ((participants core w).filter (· != core)).map fun p => (s.core core).contribution k p
  if got.all (fun g => match g with | some q => q.w == w && decide (q.time ≤ at_ + 65536) | none => false) then
    some (got.map fun g => match g with | some q => q.value | none => 0)
  else none

/-- A contribution arrives at a participant (R155): stamped with k and w; a second one with the same k from the same core is discarded. It is kept
for an entry that waits, or for the re-dispatch of one that has failed. -/
def State.deliver (s : State) (src dst k w : Nat) (v : BitVec 512) : State :=
  let d := s.core dst
  if dst == src || !(participants src w).contains dst || (d.contribution k src).isSome then s
  else s.setCore dst { d with contribs := d.contribs ++ [⟨k, src, w, s.now, v⟩] }

/-- The value that an exchange contributes: the one it has read, or its source while no older entry has still to write it (R155). -/
def exchangeValue (m : Image) (older : List RingEntry) (e : RingEntry) : Option (BitVec 512) :=
  match e.instr, e.phase with
  | .vmaxx _ _ _, .exchanging v => some v
  | .vmaxx _ a _, .waiting => if sourceHeld older a then none else some (m.getV a)
  | _, _ => none

/-- The contributions of an exchange are all sent (R155), whatever becomes of the entry. -/
def State.sendRest (s : State) (core : Nat) (m : Image) (older : List RingEntry) (e : RingEntry) : State :=
  match vmaxxW e.instr, exchangeValue m older e with
  | some w, some v => (participants core w).foldl (fun (t : State) p => t.deliver core p e.k w v) s
  | _, _ => s

/-- The contributions of every exchange in a ring are sent, `older` being what stands before it. -/
def State.sendRests (s : State) (core : Nat) (m : Image) (older ring : List RingEntry) : State :=
  match ring with
  | [] => s
  | e :: rest => (s.sendRest core m older e).sendRests core m (older ++ [e]) rest

end Sys2Proof.Machine
end

