-- ==== Sys2Proof/Machine/Ring.lean ====
section
/-! DEFINITION. The coprocessor ring (R101, R141, R155, R401 to R404): when an entry may complete, completion, the maximum
exchange, saved entries and `eret`. -/

namespace Sys2Proof.Machine

open Sys2Proof

/-- The entries older than a sequence number, and the entry that has it. -/
def splitRing (ring : List RingEntry) (seq : Nat) : Option (List RingEntry × RingEntry) :=
  match ring with
  | [] => none
  | e :: rest =>
    if e.seq.toNat = seq then some ([], e)
    else match splitRing rest seq with
      | some (o, x) => some (e :: o, x)
      | none => none

/-- The vector register that an entry writes, if any. -/
def vWrites (i : Instr) : Option Reg :=
  match vmemReg i with
  | some (d, store) => if store then none else some d
  | none => if (ringWritesX i).isSome then none else (vFields i).head?

/-- The vector registers that an entry reads or writes, its mask among them. -/
def vNames (i : Instr) : List Reg :=
  match vMask i with
  | .all => vFields i
  | .on _ _ r => (0#2 ++ r) :: vFields i

/-- Does an entry access memory from the ring (major 0x16)? -/
def isVmem (e : RingEntry) : Bool := (vmemReg e.instr).isSome

/-- Is an entry a command of the engine or the matrix unit (majors 0x20 and 0x21)? -/
def isCommand (i : Instr) : Bool :=
  match i with
  | .dcopy _ _ => true
  | .dfill _ _ => true
  | .dfree _ _ => true
  | .gather _ _ _ => true
  | .scatter _ _ _ _ => true
  | .spwalk _ _ _ => true
  | .merge _ _ => true
  | .mldb _ _ _ _ => true
  | .mmac _ _ _ _ _ => true
  | .mmacCoop _ _ _ _ => true
  | _ => false

/-- Does an older entry hold back a younger one (R141, R401)? Registers that either writes; vector memory in order; an exchange that
has read its source holds back only what names its destination. -/
def holdsBack (old young : RingEntry) : Bool :=
  let names := match old.phase with
    | .exchanging _ => (vWrites old.instr).toList
    | _ => vNames old.instr
  (vWrites old.instr).any (fun r => (vNames young.instr).contains r) ||
    (vWrites young.instr).any (fun r => names.contains r) ||
    (isVmem old && isVmem young)

/-- Replace an entry of a context's ring, or remove it. -/
def State.setEntry (s : State) (cid seq : Nat) (e : Option RingEntry) : State :=
  s.updCtx cid fun c => { c with ring := c.ring.filterMap fun x => if x.seq.toNat = seq then e else some x }

/-- The late illegal-register fault of a re-dispatched entry (R404 step 4). -/
def againFault (e : RingEntry) (m : Image) : Option FaultRec :=
  if e.again then
    match m.badV (vFields e.instr) with
    | some v => some (FaultRec.mk0 cReg v.toNat e.pc.toNat)
    | none => none
  else none

/-- The fault that a ring entry meets now, if any (R143, R155, R402). -/
def State.entryFault (s : State) (core : Nat) (c : Ctx) (older : List RingEntry) (e : RingEntry) : Option FaultRec :=
  match e.phase with
  | .faulted f => some f
  | _ =>
    match againFault e c.img with
    | some f => some f
    | none =>
      match vmaxxW e.instr with
      | some w => if (s.core core).mismatch e.k w then some (FaultRec.mk0 cOperand 24 e.pc.toNat) else none
      | none =>
        if isVmem e && !(older.any fun o => holdsBack o e) then
          match vmemRun s core e c.img with
          | (_, .error f) => some f
          | (_, .ok _) => none
        else none

/-- Has an older entry failed the lendable-register check of its re-dispatch (R404 step 4)? Every entry after it is saved again. -/
def barred (older : List RingEntry) : Bool :=
  older.any fun o => match o.phase with | .faulted f => f.code == cReg | _ => false

/-- The `vmaxx` of an instance on a core: its context, the older entries and the entry. -/
def State.exchangeOn (s : State) (core k : Nat) : Option (Nat × Ctx × List RingEntry × RingEntry) :=
  ((s.core core).slots.toList.filterMap id).findSome? fun cid =>
    match s.ctx? cid with
    | none => none
    | some c =>
      match c.ring.find? fun e => (vmaxxW e.instr).isSome && e.k == k with
      | none => none
      | some e => (splitRing c.ring e.seq.toNat).map fun r => (cid, c, r.1, r.2)

/-- Has an exchange waited for 65,536 cycles since its dispatch with a contribution missing (R155)? -/
def State.exchangeLate (s : State) (core : Nat) (e : RingEntry) : Bool :=
  match vmaxxW e.instr with
  | none => false
  | some w =>
    decide (e.at_ + 65536 ≤ s.now) && (s.exchanged core e.k w e.at_).isNone &&
      (match e.phase with | .faulted _ => false | _ => true)

/-- An exchange that is late fails (R155): what it has to send reaches the other participants, and its late fault is due. -/
def State.failLate (s : State) (core cid : Nat) (m : Image) (older : List RingEntry) (e : RingEntry) : State :=
  if s.exchangeLate core e then
    (s.sendRest core m older e).setEntry cid e.seq.toNat
      (some { e with phase := .faulted (FaultRec.mk0 cExchange (e.k % 2 ^ 32) e.pc.toNat) })
  else s

/-- A ring entry completes (R141, R142, R155, R157): its effect on the image, or its accesses; an entry that would fault stays. -/
def State.completeEntry (s : State) (cid seq : Nat) : State :=
  match s.ctx? cid with
  | none => s
  | some c =>
    match c.core?, splitRing c.ring seq with
    | some k, some (older, e) =>
      if older.any (fun o => holdsBack o e) || barred older || (againFault e c.img).isSome || isCommand e.instr then s
      else
        let fin := fun (t : State) (m : Image) => (t.updCtx cid fun x => { x with img := m }).setEntry cid seq none
        match vmaxxW e.instr, e.phase with
        | some w, .exchanging v =>
          if (s.core k).mismatch e.k w then s
          else
            match s.exchanged k e.k w e.at_, vWrites e.instr with
            | some vs, some d => fin (s.sendRest k c.img older e) (c.img.setV d (vmaxxOf (v :: vs)))
            | _, _ => s
        | none, .waiting =>
          if isVmem e then
            match vmemRun s k e c.img with
            | (t, .ok m) => fin t m
            | (_, .error _) => s
          else fin s (vecEffect e c.img)
        | _, _ => s
    | _, _ => s

/-- `RING_ENTRY_COMPLETE` (R141). -/
def execRingEntryComplete (cid seq : Nat) (s : State) : Out := .next (s.completeEntry cid seq)

/-- The contribution of one participant arrives at another (R155): it is read once the older entries let it. -/
def State.contribute (s : State) (src dst k : Nat) : State :=
  match s.exchangeOn src k with
  | none => s
  | some (cid, c, older, e) =>
    match e.instr, e.phase with
    | .vmaxx _ _ w, .exchanging v => s.deliver src dst k w.toNat v
    | .vmaxx _ a w, .waiting =>
      if older.any (fun o => holdsBack o e) || barred older then s
      else
        let v := c.img.getV a
        (s.setEntry cid e.seq.toNat (some { e with phase := .exchanging v })).deliver src dst k w.toNat v
    | _, _ => s

/-- `VMAXX_CONTRIBUTION` (R155). -/
def execVmaxxContribution (src dst k : Nat) (s : State) : Out := .next (s.contribute src dst k)

/-- 65,536 cycles after its dispatch an exchange that lacks a contribution fails (R155). -/
def State.exchangeExpire (s : State) (cid seq : Nat) : State :=
  match s.ctx? cid with
  | none => s
  | some c =>
    match c.core?, splitRing c.ring seq with
    | some core, some (older, e) => s.failLate core cid c.img older e
    | _, _ => s

/-- `EXCHANGE_TIMEOUT` (R155). -/
def execExchangeTimeout (cid seq : Nat) (s : State) : Out := .next (s.exchangeExpire cid seq)

/-- The captured values of an entry as its saved form holds them (R403): packed, literal, exchange or generic. -/
def RingEntry.captured (e : RingEntry) : BitVec 256 :=
  if e.packed then
    0#3 ++ e.gen1 ++ e.gen0 ++ e.xd.extractLsb' 32 32 ++ e.xd.extractLsb' 0 21 ++ e.xc.extractLsb' 56 8 ++
      e.xc.extractLsb' 32 24 ++ e.xc.extractLsb' 16 16 ++ e.xc.extractLsb' 0 11 ++ e.xb.extractLsb' 0 56 ++ e.xa.extractLsb' 0 21
  else if (encode e.instr).length = 3 then ((encode e.instr).getD 2 0).setWidth 256
  else if (vmaxxW e.instr).isSome then BitVec.ofNat 256 (e.k % 2 ^ 64)
  else e.xd ++ e.xc ++ e.xb ++ e.xa

/-- The control word of a saved entry (R403). -/
def RingEntry.control (e : RingEntry) (flt : Bool) : Word :=
  0#7 ++ BitVec.ofBool flt ++ e.pay.getD 0 ++ BitVec.ofBool e.pay.isSome ++ e.wgt ++ BitVec.ofBool e.duo ++ rmCode e.rm ++
    BitVec.ofBool e.packed ++ BitVec.ofNat 7 e.g0 ++ e.first

/-- The saved form of an entry (R403). -/
def RingEntry.save (e : RingEntry) (flt : Bool) : SavedEntry :=
  { parcels := (encode e.instr).getD 1 0 ++ (encode e.instr).getD 0 0, captured := e.captured, control := e.control flt, pc := e.pc
    ord := e.ord, passed := e.passed }

/-- The entry that a saved form re-dispatches (R404 steps 1 to 3): a new sequence number, the slots as they stand now. A form that
decodes to no ring instruction (firmware may have written it) gives none. -/
def SavedEntry.restore (v : SavedEntry) (m : Image) (dep : Word) (seq : BitVec 16) (now ord : Nat) : Option RingEntry :=
  match decode (v.parcels.extractLsb' 0 32) (v.parcels.extractLsb' 32 32) (v.captured.extractLsb' 0 32) with
  | some (.core i) =>
    let r := ringForm i
    let cap := v.captured
    let ctl := v.control
    let packed := ctl.getLsbD 23
    let lit := (encode i).length == 3 || (vmaxxW i).isSome
    let xw := fun o : Nat => if packed || lit then 0 else cap.extractLsb' o 64
    some {
      seq := seq, first := ctl.extractLsb' 0 16, pc := v.pc, instr := i
      xa := if packed then (cap.extractLsb' 0 21).setWidth 64 else xw 0
      xb := if packed then (cap.extractLsb' 21 56).setWidth 64 else xw 64
      xc := if packed then
          cap.extractLsb' 128 8 ++ cap.extractLsb' 104 24 ++ cap.extractLsb' 88 16 ++ 0#5 ++ cap.extractLsb' 77 11
        else xw 128
      xd := if packed then cap.extractLsb' 157 32 ++ 0#11 ++ cap.extractLsb' 136 21 else xw 192
      sa := capS m r.sa, sb := capS m r.sb, rm := rmOf (ctl.extractLsb' 24 2), duo := ctl.getLsbD 26
      pay := if ctl.getLsbD 31 then some (ctl.extractLsb' 32 24) else none
      wgt := ctl.extractLsb' 27 4, dep := dep
      k := if (vmaxxW i).isSome then (cap.extractLsb' 0 64).toNat else 0
      g0 := (ctl.extractLsb' 16 7).toNat
      gen0 := if packed then cap.extractLsb' 189 32 else 0, gen1 := if packed then cap.extractLsb' 221 32 else 0
      packed := packed, passed := v.passed, again := true, at_ := now, ord := ord, phase := .waiting }
  | _ => none

/-- Re-dispatch saved entries in order (R404). One that fails the lendable-register check of R108 is the context's late fault to come; the
entries after it are not re-dispatched but saved behind it again (`barred`, `raiseLate`). -/
def State.redispatch (s : State) (cid : Nat) (m : Image) (prv : Bool) (vs : List SavedEntry) : State :=
  match vs with
  | [] => s
  | v :: rest =>
    match v.restore m m.dep (s.core s.here).next s.now s.serial with
    | some e =>
      let e := match againFault e m with
        | some f => { e with phase := .faulted f }
        | none => e
      ((s.pushRing cid e).count s.here prv 3 1).redispatch cid m prv rest
    | none => s.redispatch cid m prv rest

/-- The image after `eret` (R99, R136): `esta` takes the current LN and KP, then `status`, `pfx` and pc are restored; the saved count is 0
(R404 step 5). -/
def Image.leave (m : Image) : Image :=
  let e := setBit (withLn m.esta m.ln) 5 m.kp
  { m.unsave with esta := e, status := e, pfx := m.epfx, pc := m.epc }

/-- `eret` on a service core ends the handler of code 33, and of code 32 once it has popped a record (R408, R409). -/
def State.acknowledge (s : State) (core : Nat) : State :=
  if isService core then
    let k := s.core core
    s.setCore core { k with mcHeld := k.mcHeld && !k.mcPopped, mcPopped := false, svHeld := false }
  else s

/-- `eret` (R136, R404): waits until the ring has room for the saved entries. -/
def execEret (s : State) : Out :=
  runInstr true noPrefix []
    (fun s cid c =>
      match targetFault c.img c.img.epc with
      | some f => .trap s f
      | none =>
        if 64 < (s.coreRing s.here).length + c.img.saved.length then .stall s
        else .done ((s.redispatch cid c.img c.img.prv c.img.saved).acknowledge s.here) c.img.leave) s

end Sys2Proof.Machine
end

