-- ==== Sys2Proof/Machine/Cache.lean ====
section
/-! DEFINITION. Cache control (major 0x1D; R177, R192). -/

namespace Sys2Proof.Machine

open Sys2Proof

/-- The physical pieces of a range, page by page in ascending address order, up to the first page that fails R164 check 5 or 6: the
pieces before it, and its fault. `fuel` bounds the number of pages (the smallest page has 64 KiB). -/
def State.pieces (fuel : Nat) (s : State) (core : Nat) (d : Desc) (off : Int) (len : Nat) (acc : Access) (wr : Bool) :
    State × List (Nat × Nat) × Option FaultRec :=
  match fuel with
  | 0 => (s, [], none)
  | k + 1 =>
    if len = 0 then (s, [], none)
    else
      let va := segVa d off
      let f := fun code data : Nat => FaultRec.mk code data va wr false none 0
      match s.coreLeaf core d.asid va with
      | (s1, .error e) => (s1, [], some (f cData e))
      | (s1, .ok l) =>
        match s1.useLeaf l va acc with
        | .error e => (s1, [], some (f cData e))
        | .ok pa =>
          if kindOfPa pa ≠ d.kind then (s1, [], some (f cSegment 5))
          else
            let n := min len (2 ^ l.shift - va % 2 ^ l.shift)
            match State.pieces k s1 core d (off + n) (len - n) acc wr with
            | (s2, ps, e) => (s2, (pa, n) :: ps, e)

/-- The number of pages that a range can touch. -/
def pageFuel (len : Nat) : Nat := len / 65536 + 2

/-- Does a line meet a physical range? -/
def lineMeets (line pa n : Nat) : Bool := decide (0 < n) && decide (pa / 128 ≤ line) && decide (line ≤ (pa + n - 1) / 128)

/-- The bytes of a line that lie in the sectors a physical range touches. -/
def sectorMask (line pa n : Nat) : BitVec 128 :=
  if n = 0 then 0
  else (List.range 4).foldl (fun m q =>
    if pa / 32 ≤ 4 * line + q ∧ 4 * line + q ≤ (pa + n - 1) / 32 then m ||| byteMask (32 * q) 32 else m) 0

/-- The words of a range are read at their homes: partials of its lines are recalled, and the sums of the words rounded (R173). -/
def State.settleRange (s : State) (pa n : Nat) : State :=
  let held := s.groves.flatMap fun g => (g.2.l1.filter fun l => l.upd.isSome && lineMeets l.line pa n).map L1Line.line
  let s1 := held.foldl (fun (t : State) line => t.recallLine line) s
  (s1.combine.filter fun c => lineMeets c.line pa n).foldl (fun (t : State) c =>
    t.roundWords c.line fun o => decide (pa < 128 * c.line + o + 4) && decide (128 * c.line + o < pa + n)) s1

/-- The presence bits of the lines of a range are those of the dies whose proxy slice still has the line (R167). -/
def State.present (s : State) (pa n : Nat) : State :=
  let bits := fun (line : Nat) (b : BitVec 8) =>
    (List.range Config.dies).foldl (fun (acc : BitVec 8) d =>
      if b.getLsbD d && (s.way? (sliceOf d line) line).isSome then acc ||| (1#8 <<< d) else acc) 0#8
  { s with proxies := (s.proxies.map fun p => if lineMeets p.1 pa n then (p.1, bits p.1 p.2) else p).filter fun p => p.2 != 0#8 }

/-- What a discard of the sectors under a mask leaves of a line of the issuing grove's L1. An update-only line keeps the partials of the other
words, these words being at the identity again (log 42). -/
def State.cutLine (s : State) (l : L1Line) (m : BitVec 128) : L1Line :=
  let valid := l.valid &&& ~~~m
  let dirty := l.dirty &&& ~~~m
  let empty := match l.upd.bind s.ranges.get? with | some r => rangeLine r | none => l.data
  let data := (List.range 128).foldl (fun (d : BitVec 1024) k => if m.getLsbD k then setLineByte d k (lineByte empty k) else d) l.data
  { l with
    data := if l.upd.isSome then data else l.data, valid := valid, dirty := dirty
    byCore := if dirty = 0 then 0 else l.byCore, byAtom := if dirty = 0 then 0 else l.byAtom }

/-- Discard every copy of the sectors of a physical range in a grove's L1 and in the slices, and count the dirty ones (R177); nothing is read, so
no sum is rounded, and no other grove's L1 is touched. A partial, and a sum that waits in the combine buffer, are dirty copies (DESIGN CHOICE,
log 42). -/
def State.discard (s : State) (g? : Option Nat) (pa n : Nat) : State × Nat :=
  if n = 0 then (s, 0)
  else
    let lo := pa / 32 * 32
    let hi := (pa + n - 1) / 32 * 32 + 32
    let inRange := fun a : Nat => decide (lo ≤ a) && decide (a < hi)
    let waiting := s.combine.flatMap fun c => c.sums.map fun p => 128 * c.line + p.1
    let dirtyHome := (((s.slice.keys ++ waiting).filter inRange).map fun a => a / 32).eraseDups.length
    let cut := fun w : Way => { w with sectors := w.sectors &&& ~~~sectorsOf w.line lo (hi - lo) }
    let s1 := ({ s with
      slice := s.slice.filter fun p => !inRange p.1
      combine := (s.combine.map fun c => { c with sums := c.sums.filter fun p => !inRange (128 * c.line + p.1) }).filter fun c => !c.sums.isEmpty
      ways := (s.ways.map fun p => (p.1, (p.2.map cut).filter fun w => w.sectors != 0#4)).filter fun p => !p.2.isEmpty } : State).present pa n
    match g? with
    | none => (s1.sweep, dirtyHome)
    | some g =>
      let gr := s1.grove g
      let own := (gr.l1.map fun l =>
        ((List.range 4).filter fun q =>
          inRange (128 * l.line + 32 * q) && (l.upd.isSome || l.dirty.extractLsb' (32 * q) 32 != 0#32)).length).sum
      let mask := fun l : L1Line => sectorMask l.line pa n
      let kept := gr.l1.filter fun l => if l.upd.isSome then mask l != ~~~0 else l.valid &&& ~~~mask l != 0
      ((s1.setGrove g { gr with l1 := kept.map fun l => s1.cutLine l (mask l) }).sweep, dirtyHome + own)

/-- Discard the pieces in order (R177). -/
def State.discardAll (s : State) (g? : Option Nat) (ps : List (Nat × Nat)) : State × Nat :=
  ps.foldl (fun (t : State × Nat) p => let r := t.1.discard g? p.1 p.2; (r.1, t.2 + r.2)) (s, 0)

/-- Write back the dirty bytes of the sectors of a physical range in a grove's L1; an update-only line is combined and dropped
(R192 `cwb`). -/
def State.writeBackRange (s : State) (g pa n : Nat) : State :=
  let ls := (s.grove g).l1.filter fun l => lineMeets l.line pa n
  ls.foldl (fun (t : State) l =>
    if l.upd.isSome then (t.writeBackLine g l).dropL1 g l.line
    else
      let m := sectorMask l.line pa n
      let t1 := t.homeMasked g l.line l.data (l.dirty &&& m) l.stream
      let l' := l.written m (t.badL1 g l.line)
      (t1.setGrove g { t1.grove g with l1 := (t1.grove g).l1.map fun x => if x.line = l.line then l' else x }).sweep) s

/-- Drop every line that a physical range touches, each written back whole first (R192 `cflush`). -/
def State.flushRange (s : State) (g pa n : Nat) : State :=
  let ls := ((s.grove g).l1.filter fun l => lineMeets l.line pa n).map L1Line.line
  ls.foldl (fun (t : State) line => t.pushLine g line) s

/-- Do to the pieces of a range what an instruction does, in order, in the issuing grove L1; a service core has none (R441). -/
def State.overPieces (s : State) (core : Nat) (ps : List (Nat × Nat)) (f : State → Nat → Nat → Nat → State) : State :=
  match groveOf core with
  | none => s
  | some g => ps.foldl (fun (t : State) p => f t g p.1 p.2) s

/-- `cwb` and `cflush` (R192): checks, then the pieces before the first page that fails; a failing page faults precisely. -/
def runCleaning (f : State → Nat → Nat → Nat → State) (xo b : Reg) (seg : Slot) (disp : Int) (s : State) : Out :=
  runMem false [xo, b]
    (fun s _ c =>
      let d := c.img.slot seg
      let len := (c.img.getX b).toNat
      let off := nOf (c.img.getX xo) + disp
      if d.kind = 0 then .trap s (FaultRec.mk0 cSegment 1 (segVa d off))
      else if !(d.kind == kGlobal || d.kind == kTier) || decide (2 ^ 40 < len) then .trap s (operandFault c.img 0)
      else if len = 0 then .done s (c.img.next 8)
      else
        match segCheck d [kGlobal, kTier] false off len 1 true false false with
        | some e => .trap s e
        | none =>
          match s.pieces (pageFuel len) s.here d off len .read false with
          | (s1, ps, e) =>
            let s2 := s1.overPieces s.here ps f
            match e with
            | some e => .trap s2 e
            | none => .done s2 (c.img.next 8)) s

/-- `cwb` (R192). -/
def execCwb (xo b : Reg) (seg : Slot) (disp : BitVec 20) (s : State) : Out :=
  runCleaning State.writeBackRange xo b seg disp.toInt s

/-- `cflush` (R192): as `cwb`, then the lines are dropped. -/
def execCflush (xo b : Reg) (seg : Slot) (disp : BitVec 20) (s : State) : Out :=
  runCleaning (fun t g pa n => (t.writeBackRange g pa n).flushRange g pa n) xo b seg disp.toInt s

/-- `cinv` (R177): a fault on a later page leaves the earlier sectors discarded and DATA holding the count so far. -/
def execCinv (d xo b : Reg) (seg : Slot) (disp : BitVec 20) (s : State) : Out :=
  runMem true [d, xo, b]
    (fun s _ c =>
      let g := c.img.slot seg
      let len := (c.img.getX b).toNat
      let off := nOf (c.img.getX xo) + disp.toInt
      let fin := fun (t : State) (n : Nat) =>
        let data := BitVec.ofNat 64 (min n (2 ^ 32 - 1) * 2 ^ 32)
        Eff.done t ({ c.img.setX d (BitVec.ofNat 64 n) with
          faultinfo := (c.img.faultinfo &&& 0xFFFFFFFF#64) ||| data }.next 8)
      if g.kind = 0 then .trap s (FaultRec.mk0 cSegment 1 (segVa g off))
      else if !(g.kind == kGlobal || g.kind == kTier) || off % 32 ≠ 0 || len % 32 ≠ 0 || decide (2 ^ 40 < len) then
        .trap s (operandFault c.img 0)
      else if len = 0 then fin s 0
      else
        match segCheck g [kGlobal, kTier] false off len 1 false true true with
        | some e => .trap s e
        | none =>
          match s.pieces (pageFuel len) s.here g off len .write true with
          | (s1, ps, e) =>
            let r := s1.discardAll (groveOf s.here) ps
            match e with
            | some e => .trap r.1 (if ps.isEmpty then e else { e with data := min r.2 (2 ^ 32 - 1) })
            | none => fin r.1 r.2) s

/-- Request one sector of a `cpref` range (R192): a sector that fails a check from check 3 on is skipped; a `hostm` one goes to its slice on
die 0. -/
def State.prefetchSector (s : State) (core : Nat) (d : Desc) (off : Int) (n : Nat) : State :=
  match segCheck d [kGlobal, kHostm, kTier] false off n 1 true false false with
  | some _ => s
  | none =>
    match s.accessPa core d off .read false with
    | (s1, .error _) => s1
    | (s1, .ok pa) =>
      if d.kind = kHostm then
        match s1.readHome 0 pa n with
        | (s2, none) => s2.reportBad none 0 pa n core
        | (s2, some _) => s2
      else
        match groveOf core with
        | none => s1
        | some g =>
          match (s1.countMiss core pa n false).l1Load core pa n d.streams with
          | (s2, none) => s2.reportBad (some g) (coreDie core) pa n core
          | (s2, some _) => s2

/-- The parts of a range by sector of its virtual address. -/
def sectorParts (fuel : Nat) (va : Nat) (off : Int) (len : Nat) : List (Int × Nat) :=
  match fuel with
  | 0 => []
  | k + 1 =>
    if len = 0 then []
    else
      let n := min len (32 - va % 32)
      (off, n) :: sectorParts k (va + n) (off + n) (len - n)

/-- `cpref` (R192): the first 65,536 bytes are taken. -/
def execCpref (xo b : Reg) (seg : Slot) (disp : BitVec 20) (s : State) : Out :=
  runMem false [xo, b]
    (fun s _ c =>
      let d := c.img.slot seg
      let len := min 65536 (c.img.getX b).toNat
      let off := nOf (c.img.getX xo) + disp.toInt
      if d.kind = 0 then .trap s (FaultRec.mk0 cSegment 1 (segVa d off))
      else if d.kind = kCluster then .trap s (operandFault c.img 0)
      else
        .done ((sectorParts 2050 (segVa d off) off len).foldl (fun (t : State) p => t.prefetchSector t.here d p.1 p.2) s)
          (c.img.next 8)) s

end Sys2Proof.Machine
end

