-- ==== Sys2Proof/Machine/Lend.lean ====
section
/-! DEFINITION. The lending pool of a grove (R108 to R111) and `vclaim` and `vrelease` (R159, R160). -/

namespace Sys2Proof.Machine

open Sys2Proof

/-- The charge of a context in a grove (R109): its LN while it is resident, and 0 while it waits to re-enter (R110). -/
def Ctx.charge (c : Ctx) (g : Nat) : Nat :=
  match c.where_ with
  | .slot k _ => if !isService k && coreGrove k == g && c.wait != some .reentry then c.img.ln else 0
  | _ => 0

/-- The grove's total charge (R109). -/
def State.totalCharge (s : State) (g : Nat) : Nat := (s.ctxs.map fun p => p.2.charge g).sum

/-- `lpool.SIZE` (R102). -/
def Grove.poolSize (g : Grove) : Nat := (g.lpool.extractLsb' 0 9).toNat

/-- v16 to v16 + n − 1 become zero (R109). -/
def Image.zeroLent (m : Image) (n : Nat) : Image :=
  { m with v := Vector.ofFn fun i : Fin 32 => if 16 ≤ i.val ∧ i.val < 16 + n then 0 else m.v[i] }

/-- May the claim at the head be granted (R109, R110)? -/
def claimFits (total size : Nat) (c : Claim) : Bool :=
  decide (total + c.n ≤ size) || (c.re && decide (size < c.n) && total == 0)

/-- A `vclaim` that has blocked commits with its grant, and is counted then (R102 event 2); one that is granted at once is counted where it
commits. -/
def State.countGrant (s : State) (cid : Nat) : State :=
  match (s.ctx? cid).bind Ctx.core? with
  | some k => if s.activeCid k == some cid then s else s.count k (s.atSystem cid) 2 1
  | none => s

/-- Grant one claim (R109, R110): a new claim commits its `vclaim`, the zeros going into lines that the core fetches (R103); a re-entering one keeps
its registers. -/
def State.grantOne (s : State) (c : Claim) : State :=
  let s1 := if c.re then s else
    let t := match (s.ctx? c.cid).bind Ctx.core? with
      | some k => s.fetchLines k c.cid ((List.range c.n).map (20 + ·))
      | none => s
    (t.updCtx c.cid fun x => { x with img := ((x.img.setLn c.n).zeroLent c.n).next 4 }).countGrant c.cid
  s1.updCtx c.cid fun x => { x with wait := none }

/-- Grant from the head of the queue for as long as the head fits (R109): the state, and the contexts granted, in order. -/
def State.grantFrom (s : State) (g : Nat) (q : List Claim) : State × List Nat :=
  match q with
  | [] => (s.setGrove g { s.grove g with claims := [] }, [])
  | c :: rest =>
    if claimFits (s.totalCharge g) (s.grove g).poolSize c then
      let r := State.grantFrom (s.grantOne c) g rest
      (r.1, c.cid :: r.2)
    else (s.setGrove g { s.grove g with claims := c :: rest }, [])

/-- On each change of the total the pool grants from the head (R109); idle cores then resume (R104). -/
def State.grantClaims (s : State) (g : Nat) : State :=
  let r := s.grantFrom g (s.grove g).claims
  r.2.foldl (fun (t : State) cid => t.wakeCtx cid) r.1

/-- A context's charge returns to its pool and LN becomes 0 (R109: `vrelease`, `exit`, a kill). -/
def State.releaseLent (s : State) (cid : Nat) : State :=
  match s.ctx? cid with
  | none => s
  | some c =>
    let s1 := s.setCtx cid { c with img := c.img.setLn 0 }
    match c.core? with
    | some k => if isService k then s1 else s1.grantClaims (coreGrove k)
    | none => s1

/-- A claim is withdrawn (R107). -/
def State.withdrawClaim (s : State) (cid g : Nat) : State :=
  s.setGrove g { s.grove g with claims := (s.grove g).claims.filter fun c => c.cid != cid }

/-- A re-entering claim joins ahead of every new claim and behind any earlier re-entering one (R110). -/
def queueReentry (q : List Claim) (c : Claim) : List Claim :=
  q.filter (fun x => x.re) ++ [c] ++ q.filter (fun x => !x.re)

/-- `vclaim` (R109, R159). On a service core, which has no grove (R441), every claim exceeds the pool (log 11). -/
def execVclaim (nm1 : BitVec 4) (s : State) : Out :=
  runInstr false noPrefix []
    (fun s cid c =>
      let n := nm1.toNat + 1
      let size := if isService s.here then 0 else (s.grove (coreGrove s.here)).poolSize
      if !c.ring.isEmpty then .stall s
      else if c.img.ln ≠ 0 || size < n then .trap s (FaultRec.mk0 cClaim n c.img.pc.toNat)
      else
        let g := coreGrove s.here
        let s1 := s.updCtx cid fun x => { x with wait := some .claim }
        let s2 := s1.setGrove g { s1.grove g with claims := (s1.grove g).claims ++ [{ cid := cid, n := n, re := false }] }
        let s3 := s2.grantClaims g
        match s3.ctx? cid with
        | some x => if x.wait = none then .done s3 x.img else .block s3 .claim
        | none => .left s3) s

/-- `vrelease` (R109, R160). -/
def execVrelease (s : State) : Out :=
  runInstr false noPrefix []
    (fun s cid c =>
      if !c.ring.isEmpty then .stall s
      else .done (s.releaseLent cid) ((c.img.setLn 0).next 4)) s

end Sys2Proof.Machine
end

