-- ==== Sys2Proof/Machine/Pool.lean ====
section
/-! DEFINITION. The task pool of a die (R302 to R322): dependency slots and held descriptors, shadows and bounds, the order of
dispatch, dispatch, retirement, pre-emption. -/

namespace Sys2Proof.Machine

open Sys2Proof

/-- The value of a dependency slot (R376). -/
def State.dslot (s : State) (d n : Nat) : Nat := (((s.die d).dslots.get? n).getD 0).toNat

/-- A held entry of a slot becomes eligible now, and its dispatch an acquire at device scope (R311, R322), also from the core that spawned
it. -/
def PoolEntry.release (e : PoolEntry) (now : Nat) : PoolEntry :=
  { e with hold := none, task := { e.task with elig := now }
           acq := some (.device, e.acq.bind Prod.snd) }

/-- Write a slot; a slot left at 0 makes the descriptors on its hold list eligible, in order (R311, R376). -/
def State.dslotSet (s : State) (d n v : Nat) : State :=
  let die := s.die d
  let pool := if v = 0 then die.pool.map fun e => if e.hold = some n then e.release s.now else e else die.pool
  s.setDie d { die with dslots := die.dslots.set n (BitVec.ofNat 32 v), pool := pool }

/-- Subtract from a slot; a decrement past 0 leaves 0 and is counted in the engine error log (R312, R377). -/
def State.dslotDec (s : State) (d n amount : Nat) : State :=
  let old := s.dslot d n
  if old < amount then (s.dslotSet d n 0).logEngine d 3 0 n 0 0
  else if amount = 0 then s
  else s.dslotSet d n (old - amount)

/-- Add to a slot, saturating (R376). -/
def State.dslotInc (s : State) (d n amount : Nat) : State :=
  let v := s.dslot d n + amount
  if 2 ^ 32 ≤ v then (s.dslotSet d n (2 ^ 32 - 1)).logEngine d 3 0 n 0 0 else s.dslotSet d n v

/-- Decrement the slot that a 15-bit number names (R304, R376). -/
def State.signalDec (s : State) (sig : Option Nat) : State :=
  match sig with
  | some n => s.dslotDec (n / 4096 % 8) (n % 4096) 1
  | none => s

/-- Does a bound or key strictly beat a key (R319)? -/
def beats (sense kt : Bool) (b k : Word) : Bool :=
  if kt then (if sense then k.ult b else b.ult k) else (if sense then k.slt b else b.slt k)

/-- The agent number of a die's pool among the shadows. -/
def poolAgent (d : Nat) : Nat := 16416 + d

/-- The key in a shadow (R374, R389). -/
def State.shadowKey (s : State) (agent k : Nat) : Word :=
  match s.shadows.get? (8 * agent + k) with
  | some w => w
  | none => (s.incumbents.toList.getD k Incumbent.fresh).skey

/-- Can a bound strictly beat a shadow (R319, R320, R390)? A shadow that is not valid is beaten by nothing. -/
def State.beatsShadow (s : State) (agent k : Nat) (bound : Word) : Bool :=
  let i := s.incumbents.toList.getD k Incumbent.fresh
  i.sv && beats i.ssense i.skt bound (s.shadowKey agent k)

/-- Retire n indices without running (R321): the kill counter, and the exit action once each. -/
def State.killIndices (s : State) (d : Nat) (sig : Option Nat) (n : Nat) : State :=
  let s1 := s.setDie d { s.die d with killcnt := (s.die d).killcnt + BitVec.ofNat 64 n }
  (List.range n).foldl (fun (t : State) _ => t.signalDec sig) s1

/-- Remove an entry from a pool. -/
def State.poolRemove (s : State) (d id : Nat) : State :=
  s.setDie d { s.die d with pool := (s.die d).pool.filter fun e => e.id != id }

/-- Discard a search descriptor (R320). -/
def State.discardEntry (s : State) (d : Nat) (e : PoolEntry) : State :=
  (s.poolRemove d e.id).killIndices d e.task.signal (e.count - e.next)

/-- The search descriptors of an incumbent whose bound cannot beat the pool's shadow are discarded (R320). A pre-empted task is no
descriptor that was never dispatched: it is killed at a kill point. -/
def State.discardBeaten (s : State) (d k : Nat) : State :=
  let out := (s.die d).pool.filter fun e =>
    e.task.srch && e.task.inc == k && e.resume.isNone && !s.beatsShadow (poolAgent d) k e.bound
  out.foldl (fun (t : State) e => t.discardEntry d e) s

/-- Insert into a list kept in order, behind what may stand before it. -/
def insertBy {α : Type} (le : α → α → Bool) (x : α) (ls : List α) : List α :=
  ls.takeWhile (fun y => le y x) ++ x :: ls.dropWhile fun y => le y x

/-- Sort, keeping the order of equals. -/
def sortBy {α : Type} (le : α → α → Bool) (ls : List α) : List α := ls.foldl (fun acc x => insertBy le x acc) []

/-- The queue whose head has the oldest eligibility time, the first of equals (R314): its head and the queues without it. -/
def oldestHead (qs : List (List PoolEntry)) : Option (PoolEntry × List (List PoolEntry)) :=
  match qs with
  | [] => none
  | [] :: rest => (oldestHead rest).map fun r => (r.1, [] :: r.2)
  | (e :: q) :: rest =>
    match oldestHead rest with
    | some (f, rest') => if e.task.elig ≤ f.task.elig then some (e, q :: rest) else some (f, (e :: q) :: rest')
    | none => some (e, q :: rest)

/-- Merge queues by their heads (R314). -/
def mergeHeads (fuel : Nat) (qs : List (List PoolEntry)) : List PoolEntry :=
  match fuel with
  | 0 => []
  | n + 1 =>
    match oldestHead qs with
    | some (e, rest) => e :: mergeHeads n rest
    | none => []

/-- The eligible descriptors of one class in the order of R314: the ordinary queue and eight search queues, merged by their
heads. -/
def State.classOrder (s : State) (d c : Nat) : List PoolEntry :=
  let here := (s.die d).pool.filter fun e => e.hold.isNone && e.task.cls == c
  let older := fun a b : PoolEntry => decide (a.task.elig ≤ b.task.elig)
  let ord := sortBy older (here.filter fun e => !e.task.srch)
  let search := (List.range 8).map fun k =>
    let i := s.incumbents.toList.getD k Incumbent.fresh
    sortBy (fun a b : PoolEntry =>
      beats i.ssense i.skt a.bound b.bound || (!beats i.ssense i.skt b.bound a.bound && older a b))
      (here.filter fun e => e.task.srch && e.task.inc == k)
  mergeHeads here.length (ord :: search)

/-- All eligible descriptors in the order of R314. -/
def State.dispatchOrder (s : State) (d : Nat) : List PoolEntry :=
  [3, 2, 1, 0].flatMap fun c => s.classOrder d c

/-- The cores of a die that a placement admits (R315), in ascending number. -/
def TaskInfo.admits (t : TaskInfo) (d : Nat) : List Nat :=
  match t.place with
  | 0 => (List.range 2048).map fun c => d * 2048 + c
  | 1 => (List.range 8).map fun c => d * 2048 + t.placeArg * 8 + c
  | _ => [d * 2048 + t.placeArg]

/-- Resident contexts of a core. -/
def State.residents (s : State) (k : Nat) : List Nat := (s.core k).slots.toList.filterMap id

/-- The core that a descriptor goes to (R315): the admitted core with a free slot and the fewest resident contexts, the lowest of
equals. -/
def State.targetCore (s : State) (d : Nat) (t : TaskInfo) : Option Nat :=
  let cs := t.admits d
  let withN := fun n : Nat => cs.find? fun k => (s.residents k).length == n
  [0, 1, 2, 3].findSome? withN

/-- Is an image of a die free (R315)? -/
def State.imageFree (s : State) (cid : Nat) : Bool :=
  match s.ctx? cid with
  | none => true
  | some c => (match c.where_ with | .ended => true | _ => false)

/-- The free image with the lowest number (R315). -/
def State.freeImage (s : State) (d : Nat) : Option Nat :=
  ((List.range (s.die d).imgCount).find? fun i => s.imageFree (d * 65536 + i)).map fun i => d * 65536 + i

/-- The image of a fresh task (R93, R304). -/
def freshImage (template : Vector Desc 64) (e : PoolEntry) : Image :=
  let w := fun k : Nat => e.args.extractLsb' (64 * k) 64
  { Image.zero with
    x := ((((((Image.zero.x.set 3 (w 0)).set 4 (w 1)).set 5 (w 2)).set 6 (w 3)).set 7 (BitVec.ofNat 64 e.next)).set 8 e.bound)
    slots := template
    pc := e.entry
    taskIndex := BitVec.ofNat 64 e.next
    bound := e.bound
    args := e.args
    dep := match e.task.signal with | some n => BitVec.ofNat 64 n | none => 1#64 <<< 63 }

/-- A context in a fresh image. -/
def Ctx.start (img : Image) (uid : Nat) (t : TaskInfo) : Ctx :=
  { uid := uid, img := img, task := t, where_ := .queued, wait := none, late := none, psu := [], parked := false
    leaving := none, born := uid, watch := none, latch := false, ring := [], stale := none, hqOpen := false, hqFull := false
    hqBuf := 0, divTold := false, homes := [], winWait := none, chosen := false }

/-- The lowest free slot of a core. -/
def Core.freeSlot (c : Core) : Option (Fin 4) := ([0, 1, 2, 3] : List (Fin 4)).find? fun i => c.slots[i].isNone

/-- Set KP when a search context's bound cannot beat its core's shadow (R390). -/
def State.checkKp (s : State) (cid : Nat) : State :=
  match s.ctx? cid with
  | none => s
  | some c =>
    match c.core? with
    | some k =>
      if c.task.srch && !s.beatsShadow k c.task.inc c.img.bound then s.setCtx cid { c with img := c.img.setKp true } else s
    | none => s

/-- Put a context into a slot of a core (R103, R110, R315, R390): a context with charge re-enters the claim queue. -/
def State.place (s : State) (cid core : Nat) : State :=
  match (s.core core).freeSlot, s.ctx? cid with
  | some i, some c =>
    let re := c.img.ln ≠ 0
    let s1 := s.setCore core { s.core core with
      slots := (s.core core).slots.set i.val (some cid), early := [], evict := (s.core core).evict.filter (· != cid) }
    let s2 := s1.setCtx cid { c with where_ := .slot core i.val, wait := if re then some .reentry else none, born := s.serial }
    let s3 := ({ s2 with serial := s.serial + 1 }).checkKp cid
    let g := coreGrove core
    if re then
      ((s3.setGrove g { s3.grove g with
        claims := queueReentry (s3.grove g).claims { cid := cid, n := c.img.ln, re := true } }).grantClaims g).wakeCore core
    else s3.wakeCore core
  | _, _ => s

/-- The acquire that a dispatch performs (R310, R322, R325): the releasing core's dirty lines are drained where the scope holds both
cores, and the dispatched grove's clean bytes are invalidated. -/
def State.acquireDispatch (s : State) (core : Nat) (acq : Option (Scope × Option Nat)) : State :=
  match acq with
  | none => s
  | some (sc, from?) =>
    if !scopeWide sc then s
    else
      let s1 := match from? with
        | some k =>
          (match groveOf k with
           | some g => if scopeHas sc (some g) (coreDie k) (coreGrove core) then s.drain g (coreBit k) else s
           | none => s)
        | none => s
      s1.invalidate (coreGrove core)

/-- Dispatch a descriptor to a core (R304, R308, R315, R317): its next index into a fresh image, whose diverted-message buffer is the one
that firmware assigns to it (R348), or a pre-empted task into its own. -/
def State.dispatchTo (s : State) (d : Nat) (e : PoolEntry) (core : Nat) : State :=
  match e.resume with
  | some cid => (s.poolRemove d e.id).place cid core
  | none =>
    match s.freeImage d with
    | none => s
    | some cid =>
      let img := freshImage (s.die d).template e
      let div := BitVec.ofNat 64 ((s.die d).divBase + 4096 * ctxTag cid)
      let s1 := s.setCtx cid (Ctx.start { img with div0 := div } s.serial e.task)
      let s2 := { s1 with serial := s.serial + 1 }
      let s3 :=
        if e.next + 1 < e.count then
          s2.setDie d { s2.die d with pool := (s2.die d).pool.map fun x => if x.id = e.id then { x with next := x.next + 1 } else x }
        else s2.poolRemove d e.id
      (s3.acquireDispatch core e.acq).place cid core

/-- The first descriptor of an ordered list that can go to a core, or is to be discarded (R315, R320). -/
def State.dispatchFirst (s : State) (d : Nat) (es : List PoolEntry) : State :=
  match es with
  | [] => s
  | e :: rest =>
    if e.task.srch && e.resume.isNone && !s.beatsShadow (poolAgent d) e.task.inc e.bound then s.discardEntry d e
    else
      match s.targetCore d e.task with
      | some core => if e.resume.isNone && (s.freeImage d).isNone then s.dispatchFirst d rest else s.dispatchTo d e core
      | none => s.dispatchFirst d rest

/-- `TASK_DISPATCH` (R315): the pool of a die gives a free slot the first descriptor that it admits. -/
def execTaskDispatch (die : Nat) (s : State) : Out :=
  .next (if (s.die die).paused then s else s.dispatchFirst die (s.dispatchOrder die))

/-- `poolcfg.AGE` (R313). -/
def Die.age (d : Die) : Nat := d.poolcfg.toNat % 64

/-- May an entry be promoted (R316)? -/
def Die.promotes (d : Die) (now : Nat) (e : PoolEntry) : Bool :=
  d.poolcfg.getLsbD 8 && e.hold.isNone && decide (e.task.cls < 3) &&
    decide (e.task.elig + (e.task.promo + 1) * 2 ^ d.age ≤ now)

/-- `AGING_PROMOTION` (R316). -/
def execAgingPromotion (die desc : Nat) (s : State) : Out :=
  .next (s.setDie die { s.die die with pool := (s.die die).pool.map fun e =>
    if e.id = desc && (s.die die).promotes s.now e then
      { e with task := { e.task with cls := e.task.cls + 1, promo := e.task.promo + 1 } }
    else e })

/-- A context leaves its slot (R103, R107, R137): the slot is free, the image evictable, and the core goes on. -/
def State.freeSlotOf (s : State) (cid : Nat) (w : Residence) : State :=
  match s.ctx? cid with
  | none => s
  | some c =>
    let s1 := s.setCtx cid { c with where_ := w }
    match c.where_ with
    | .slot core i =>
      let k := s1.core core
      let k' := { k with slots := Vector.ofFn fun j => if j.val = i then none else k.slots[j]
                         evict := k.evict ++ [cid] }
      let s2 := s1.setCore core k'
      if k.active.map (fun a => a.val) = some i then s2.switchCore core else s2
    | _ => s1

/-- A task retires (R137, R321, R322, R391): its charge returns, a kill is counted, the exit action is performed as a release at
device scope, the slot is freed. The ring entries that no unit has accepted, a pending late fault and the saved entries go with it; what an
exchange among them contributes is sent (R155). -/
def State.retire (s : State) (cid : Nat) (killed : Bool) : State :=
  match s.ctx? cid with
  | none => s
  | some c =>
    match c.core? with
    | none => s
    | some core =>
      let d := coreDie core
      let c1 := { c with ring := [], late := none, psu := [], watch := none, latch := false, wait := none, leaving := none,
                         stale := none, hqOpen := false }
      let s1 := ((s.sendRests core c.img [] c.ring).setCtx cid c1).releaseLent cid
      let s2 := if killed then s1.setDie d { s1.die d with killcnt := (s1.die d).killcnt + 1 } else s1
      let s3 := if c.task.signal.isSome then (s2.releaseFence core).signalDec c.task.signal else s2
      (s3.updCtx cid fun x => { x with img := x.img.unsave, winWait := none }).freeSlotOf cid .ended

/-- `exit` (R137): waits for the ring, commits, retires; a kill when KP is set. A firmware context is no task and never exits (R23): on a
service core the `exit` only commits (DESIGN CHOICE, log 68). -/
def execExit (s : State) : Out :=
  runInstr false noPrefix []
    (fun s cid c =>
      if !c.ring.isEmpty then .stall s
      else if isService s.here then .done s (c.img.next 4)
      else .left ((s.commit cid (c.img.next 4)).retire cid c.img.kp)) s

/-- `kchk` (R391, R392). -/
def execKchk (s : State) : Out :=
  runInstr false noPrefix []
    (fun s cid c => if c.img.kp then .left (s.retire cid true) else .done s (c.img.next 4)) s

end Sys2Proof.Machine
end

