-- ==== Sys2Proof/Machine/Translate.lean ====
section
/-! DEFINITION. Memory as units other than cores reach it: translation caches (R361, R362), the places of a range, reads and writes
at the homes and the banks (R169 step 7, R195, R221), and the completion of a command (R193, R196). -/

namespace Sys2Proof.Machine

open Sys2Proof

/-- The leaves in a translation cache, and its size (R362). A gateway's cache stands beside its grove's. -/
def State.leaves (s : State) (a : TlbAt) : List Leaf × Nat :=
  match a with
  | .micro k => ((s.core k).utlb, 64)
  | .grove g => ((s.grove g).tlb, 512)
  | .engine g => ((s.grove g).etlb, 256)
  | .matrix g => ((s.grove g).mtlb, 256)
  | .gateway g => ((s.grove g).gtlb, 256)

/-- Replace the leaves of a translation cache. -/
def State.setLeaves (s : State) (a : TlbAt) (ls : List Leaf) : State :=
  match a with
  | .micro k => s.setCore k { s.core k with utlb := ls }
  | .grove g => s.setGrove g { s.grove g with tlb := ls }
  | .engine g => s.setGrove g { s.grove g with etlb := ls }
  | .matrix g => s.setGrove g { s.grove g with mtlb := ls }
  | .gateway g => s.setGrove g { s.grove g with gtlb := ls }

/-- The die of a translation cache. -/
def cacheDie (a : TlbAt) : Nat :=
  match a with
  | .micro k => coreDie k
  | .grove g | .engine g | .matrix g | .gateway g => groveDie g

/-- The leaf that a unit uses: from its cache, or from a walk, which it then caches (R361, R362). A core's micro-TLB is backed by its grove's
TLB. -/
def State.leafAt (s : State) (a : TlbAt) (asid va : Nat) : State × Except Nat Leaf :=
  match a with
  | .micro k => s.coreLeaf k asid va
  | _ =>
    let c := s.leaves a
    match c.1.find? fun l => l.hits asid va with
    | some l => (s, .ok l)
    | none =>
      match s.walk (cacheDie a) asid va with
      | (s1, .error e) => (s1, .error e)
      | (s1, .ok l) => (s1.setLeaves a (cacheLeaf c.1 l c.2), .ok l)

/-- `TRANSLATION_WALK` (R361): a walk completes and its leaf is cached, whatever it allows; a walk that fails, or whose leaf does not allow the
access, raises its fault where the access is made. -/
def execTranslationWalk (agent : TlbAt) (asid va : Nat) (_ : Access) (s : State) : Out := .next (s.leafAt agent asid va).1

/-- The places of a range that a unit reaches, page by page, up to the first page that fails checks 5 or 6 of R164. -/
def State.unitPieces (fuel : Nat) (s : State) (a : TlbAt) (d : Desc) (off : Int) (len : Nat) (acc : Access) (wr : Bool) :
    State × Except FaultRec (List (Place × Nat)) :=
  match fuel with
  | 0 => (s, .ok [])
  | k + 1 =>
    if len = 0 then (s, .ok [])
    else
      let va := segVa d off
      let f := fun code data : Nat => FaultRec.mk code data va wr false none 0
      match s.leafAt a d.asid va with
      | (s1, .error e) => (s1, .error (f cData e))
      | (s1, .ok l) =>
        match s1.useLeaf l va acc with
        | .error e => (s1, .error (f cData e))
        | .ok pa =>
          if kindOfPa pa ≠ d.kind then (s1, .error (f cSegment 5))
          else
            let n := min len (2 ^ l.shift - va % 2 ^ l.shift)
            match State.unitPieces k s1 a d (off + n) (len - n) acc wr with
            | (s2, .ok ps) => (s2, .ok ((.phys pa, n) :: ps))
            | (s2, .error e) => (s2, .error e)

/-- The places of a range through a segment: in a bank for kind `cluster`, else translated. -/
def State.places (s : State) (a : TlbAt) (grove : Nat) (d : Desc) (off : Int) (len : Nat) (acc : Access) (wr : Bool) :
    State × Except FaultRec (List (Place × Nat)) :=
  if d.kind = kCluster then (s, .ok [(.bank grove (d.base + off.toNat), len)])
  else s.unitPieces (pageFuel len) a d off len acc wr

/-- What the leaves cover under which a unit has just translated a range of at most two pages, for the drain of R364: every address of a leaf,
used or not. -/
def State.transOf (s : State) (a : TlbAt) (d : Desc) (off : Int) (len : Nat) : List (Nat × Nat × Nat) :=
  if d.kind = kCluster then []
  else
    [segVa d off, segVa d (off + len - 1)].map fun va =>
      match (s.leaves a).1.find? fun l => l.hits d.asid va with
      | some l => (d.asid, l.vbase, 2 ^ l.shift)
      | none => (d.asid, va, 1)

/-- Cut a physical range at multiples of a size. -/
def cutAt (size fuel pa n : Nat) : List (Nat × Nat) :=
  match fuel with
  | 0 => []
  | k + 1 =>
    if n = 0 then []
    else
      let m := min n (size - pa % size)
      (pa, m) :: cutAt size k (pa + m) (n - m)

/-- The parts of a physical range by line. -/
def lineParts (pa n : Nat) : List (Nat × Nat) := cutAt 128 (n / 128 + 2) pa n

/-- Bytes that a unit of a die reads at their homes (R173, R179); with the machine check, the memory code of R399 when some are
uncorrectable. -/
def State.unitRead (s : State) (d pa n : Nat) (streaming : Bool) : State × Except Nat (List Byte) :=
  match s.readHomeAs d pa n streaming with
  | (s1, some bs) => (s1, .ok bs)
  | (s1, none) => (s1.reportBad none d pa n 0, .error (s1.badCode none d pa n))

/-- Bytes written at their homes under their byte masks: partials are recalled first (R173). -/
def State.writeHomeAs (s : State) (pa : Nat) (bs : List Byte) (streaming : Bool) : State :=
  (s.recallRange pa bs.length).homeWriteAs pa bs streaming

/-- Bytes written at their homes under policy 0. -/
def State.writeHome (s : State) (pa : Nat) (bs : List Byte) : State := s.writeHomeAs pa bs false

/-- Bytes that a unit of a die reads at places, likewise (R179). -/
def State.readPlaces (s : State) (d : Nat) (ps : List (Place × Nat)) (streaming : Bool) : State × Except Nat (List Byte) :=
  ps.foldl (fun (t : State × Except Nat (List Byte)) p =>
    match t.2 with
    | .error _ => t
    | .ok bs =>
      match p.1 with
      | .bank g off =>
        (match t.1.readBank g off p.2 with
         | some more => (t.1, .ok (bs ++ more))
         | none => (t.1.reportBank g off 0, .error 1))
      | .phys pa =>
        match t.1.unitRead d pa p.2 streaming with
        | (u, .ok more) => (u, .ok (bs ++ more))
        | r => r) (s, .ok [])

/-- Bytes written at a place. -/
def State.writePlace (s : State) (p : Place) (bs : List Byte) (streaming : Bool) : State :=
  match p with
  | .bank g off => s.bankWrite g off bs
  | .phys pa => s.writeHomeAs pa bs streaming

/-- Hand bytes out to places in order. -/
def dealBytes (ps : List (Place × Nat)) (bs : List Byte) : List (Place × List Byte) :=
  match ps with
  | [] => []
  | (p, n) :: rest => (p, bs.take n) :: dealBytes rest (bs.drop n)

/-- The flags of an E parcel: is `.acq` set, is `.rel` set, and the scope (R81). -/
def acqScope (o : Order) : Option Scope :=
  match o with
  | .acq sc => some sc
  | .acqRel sc => some sc
  | _ => none

/-- Is `.rel` written (R81)? -/
def ordRel (o : Order) : Bool :=
  match o with
  | .rel _ | .acqRel _ => true
  | _ => false

/-- Step 1 of R196: before its first read a command with aq drains the issuing core's dirty lines, those of its grove's other cores with them,
whose writes reach it by happens-before alone (R282), and at die scope or wider what the core's pending-drain set names within the scope. -/
def State.commandAcquire (s : State) (core : Nat) (acq : Option Scope) : State :=
  match acq with
  | none => s
  | some sc =>
    let s1 := match groveOf core with | some g => s.drainGrove g | none => s
    if scopeWide sc then s1.drainPending core sc else s1

/-- W of a completion operand (R193). -/
def compOff (xd : Word) : Nat := xd.toNat % 2 ^ 21

/-- Check 2 of R194: is the completion area wrong? -/
def compBad (cw : Cw) (xd : Word) : Bool :=
  cw != .none && (compOff xd % 8 != 0 || decide (Config.clusterBytes < compOff xd + 16) || xd.extractLsb' 21 11 != 0#11)

/-- Steps 4 to 6 of R196: the status word, the completion word, the dependency slot. -/
def State.complete (s : State) (grove : Nat) (cw : Cw) (xd : Word) (status : Option Word) (ds : Bool) (dep : Word) : State :=
  let w := compOff xd
  let s1 := match status with
    | some v => if cw = .none then s else s.bankWrite grove (w + 8) (leBytes 8 v.toNat)
    | none => s
  let s2 := match cw with
    | .none => s1
    | .add => s1.bankWrite grove w (leBytes 8 ((leNat (s1.bankBytes grove w 8) + 1) % 2 ^ 64))
    | .set => s1.bankWrite grove w (leBytes 8 (xd.toNat / 2 ^ 32))
  if ds then s2.signalDec (some (dep.toNat % 32768)) else s2

end Sys2Proof.Machine
end

