-- ==== Sys2Proof/Machine/Engine.lean ====
section
/-! DEFINITION. The indirect copy engine (R193 to R200, R220 to R225, R232, R235): dispatch of its commands, acceptance, `dcopy`,
`dfill`, `dfree`, and the end of a command. -/

namespace Sys2Proof.Machine

open Sys2Proof

/-- `dcopy` (R197). -/
def execDcopy (k : Cmd) (rc : Bool) (s : State) : Out := runRing noPrefix 8 (.dcopy k rc) s

/-- `dfill` (R198). -/
def execDfill (k : Cmd) (rn : Bool) (s : State) : Out := runRing noPrefix 8 (.dfill k rn) s

/-- `dfree` (R199). -/
def execDfree (a b : Reg) (s : State) : Out := runRing noPrefix 8 (.dfree a b) s

/-- `gather` (R224). -/
def execGather (k : Cmd) (es : BitVec 3) (it : BitVec 2) (s : State) : Out := runRing noPrefix 8 (.gather k es it) s

/-- `scatter` (R224). -/
def execScatter (k : Cmd) (es : BitVec 3) (it mode : BitVec 2) (s : State) : Out :=
  runRing noPrefix 8 (.scatter k es it mode) s

/-- `spwalk` (R232). -/
def execSpwalk (k : Cmd) (wide pos : Bool) (s : State) : Out := runRing noPrefix 8 (.spwalk k wide pos) s

/-- `merge` (R235). -/
def execMerge (k : Cmd) (zd : Bool) (s : State) : Out := runRing noPrefix 8 (.merge k zd) s

/-- Checks 1 and 4 of R164 on a slot of a command. -/
def slotFault (d : Desc) (off : Nat) (kinds : List Nat) (needR needW wr : Bool) : Option FaultRec :=
  let f := fun data : Nat => some (FaultRec.mk cSegment data (segVa d off) wr false none 0)
  if d.kind = 0 then f 1
  else if !kinds.contains d.kind then f 2
  else if (needR && !d.canR) || (needW && !d.canW) then f 4
  else none

/-- Check 3 of R164 on a range of a command. -/
def boundFault (d : Desc) (off len : Nat) (wr : Bool) : Option FaultRec :=
  if d.len < off + len then some (FaultRec.mk cSegment 3 (segVa d off) wr false none 0) else none

/-- The first fault of a list. -/
def firstFault (fs : List (Option FaultRec)) : Option FaultRec := (fs.filterMap id).head?

/-- A late illegal-operand fault of a ring entry (R223). -/
def RingEntry.operand (e : RingEntry) (bad : Bool) (data : Nat) : Option FaultRec :=
  if bad then some (FaultRec.mk0 cOperand data e.pc.toNat) else none

/-- Do two ranges have a byte in common? -/
def overlap (a b : Nat × Nat) : Bool :=
  a.2 != 0 && b.2 != 0 && decide (a.1 < b.1 + b.2) && decide (b.1 < a.1 + a.2)

/-- Do some two of a list of ranges overlap? -/
def anyOverlap (rs : List (Nat × Nat)) : Bool :=
  match rs with
  | [] => false
  | r :: rest => rest.any (overlap r) || anyOverlap rest

/-- The member groves of a group (R198, R366). -/
def State.memberGroves (s : State) (g : Nat) : List Nat :=
  match s.groups.get? g with
  | some v => (v.members.map coreGrove).dedup
  | none => []

/-- A command as it is accepted. -/
def EngCmd.start (id core : Nat) (e : RingEntry) (members : List Nat) : EngCmd :=
  { id := id, core := core, entry := e, started := false, finished := false, members := members, next := 0, flight := [], stop := none, told := [], elems := []
    lines := [], top := [], desc := [], ptr := none, count := 0, fibres := [], bad := 0, ovf := false, ended := false
    pending := [] }

/-- A little-endian field of captured words: bits lo + n − 1 : lo. -/
def bitsOf (w : Word) (lo n : Nat) : Nat := w.toNat / 2 ^ lo % 2 ^ n

/-- The destination of a `dcopy`: the grove whose banks a `cluster` slot names, and the offset in slot sa (R197). -/
def copyDest (grove : Nat) (rc : Bool) (e : RingEntry) : Nat × Nat :=
  if rc then (bitsOf e.xa 56 3 * 256 + bitsOf e.xa 48 8, bitsOf e.xa 0 21) else (grove, e.xa.toNat)

/-- What a `dcopy` is checked for (R197). -/
def copyFault (rc : Bool) (e : RingEntry) (comp ds : Option FaultRec) : Option FaultRec :=
  let off := (copyDest 0 rc e).2
  firstFault [slotFault e.sa off kindsAll false true true, slotFault e.sb e.xb.toNat kindsAll true false false, comp,
    e.operand (rc && e.sa.kind != kCluster) 37, e.operand (rc && (bitsOf e.xa 59 5 != 0 || bitsOf e.xa 21 27 != 0)) 32,
    e.operand (decide (2 ^ 40 < e.xc.toNat)) 32, boundFault e.sa off e.xc.toNat true, boundFault e.sb e.xb.toNat e.xc.toNat false, ds]

/-- The length of a `dfill`. -/
def fillLen (e : RingEntry) : Nat := bitsOf e.xc 0 21

/-- The receiver word of a `dfill`, as an offset in slot sa. -/
def fillWord (e : RingEntry) : Nat := bitsOf e.xc 21 19 * 8

/-- What a `dfill` is checked for (R198): a nonzero bit 63:59 of the group field among it (log 50). -/
def fillFault (rn : Bool) (e : RingEntry) (members : List Nat) (comp ds : Option FaultRec) : Option FaultRec :=
  firstFault [slotFault e.sa e.xa.toNat [kCluster] false true true,
    slotFault e.sb e.xb.toNat [kGlobal, kCluster, kTier] true false false, comp,
    e.operand (bitsOf e.xc 59 5 != 0 || decide (Config.clusterBytes < fillLen e)) 32, e.operand members.isEmpty 38,
    e.operand (rn && decide (e.sa.len < fillWord e + 8)) 34, boundFault e.sa e.xa.toNat (fillLen e) true,
    boundFault e.sb e.xb.toNat (fillLen e) false, ds]

/-- Width of an index (R224). -/
def indexWidth (it : BitVec 2) : Nat := if it.getLsbD 1 then 8 else 4

/-- Element size (R224). -/
def elemSize (es : BitVec 3) : Nat := 4 * 2 ^ es.toNat

/-- Element count of a `gather` or `scatter` (R224). -/
def elemCount (e : RingEntry) : Nat := bitsOf e.xc 42 17

/-- The index list offset in sa. -/
def indexOff (e : RingEntry) : Nat := bitsOf e.xc 0 21

/-- The fault bitmap offset in sa. -/
def bitmapOff (e : RingEntry) : Nat := bitsOf e.xc 21 21

/-- What a `gather` or `scatter` is checked for (R225). -/
def elemsFault (es : BitVec 3) (it mode : BitVec 2) (store : Bool) (e : RingEntry) (comp ds : Option FaultRec) :
    Option FaultRec :=
  let n := elemCount e
  let al := if mode = 3 then 8 else 4
  let rs := [(e.xa.toNat, elemSize es * n), (indexOff e, indexWidth it * n), (bitmapOff e, (n + 7) / 8)]
  firstFault [slotFault e.sa e.xa.toNat [kCluster] true true true,
    slotFault e.sb e.xb.toNat [kGlobal, kTier] (!store || mode != 0) store store, comp,
    e.operand (bitsOf e.xc 59 5 != 0 || decide (65536 < n)) 32,
    e.operand (indexOff e % indexWidth it != 0 || e.xa.toNat % al != 0 || e.xb.toNat % al != 0) 33,
    e.operand (rs.any fun r => decide (e.sa.len < r.1 + r.2)) 34, e.operand (anyOverlap rs) 35, ds]

/-- Row count of a walk (R232). -/
def walkRows (e : RingEntry) : Nat := bitsOf e.xc 32 17

/-- The fields of a walk descriptor: column offset, list, capacity, counts, status (R232). -/
structure WalkDesc where
  col : Nat
  list : Nat
  cap : Nat
  counts : Nat
  status : Nat
  reserved : Nat

/-- The walk descriptor in 32 bytes. -/
def walkDesc (bs : List Byte) : WalkDesc :=
  { col := leNat (bs.take 8), list := halfAt bs 8, cap := halfAt bs 12, counts := halfAt bs 16, status := halfAt bs 20
    reserved := leNat ((bs.drop 24).take 8) }

/-- The checks of a `spwalk` before its descriptor is read (R194, R232). -/
def walkFirst (wide : Bool) (e : RingEntry) (comp : Option FaultRec) : Option FaultRec :=
  let nr := walkRows e
  firstFault [slotFault e.sa e.xa.toNat [kCluster] true true true,
    slotFault e.sb e.xb.toNat [kGlobal, kCluster, kTier] true false false, comp,
    e.operand (bitsOf e.xc 49 15 != 0 || decide (65536 < nr) || decide (2 ^ 32 < bitsOf e.xc 0 32 + nr)) 32,
    e.operand (e.xb.toNat % (if wide then 8 else 4) != 0 || e.xa.toNat % 8 != 0) 33,
    e.operand (decide (e.sa.len < e.xa.toNat + 32)) 34]

/-- The checks of a `spwalk` on the bytes of its descriptor (R232). -/
def walkFault (pos : Bool) (e : RingEntry) (desc : List Byte) (ds : Option FaultRec) : Option FaultRec :=
  let nr := walkRows e
  let d := walkDesc desc
  let rs := [(d.list, d.cap * (if pos then 16 else 8)), (d.counts, 4 * nr), (d.status, (nr + 7) / 8)]
  firstFault [e.operand (d.reserved != 0 || d.col % 4 != 0 || d.list % 8 != 0 || d.counts % 4 != 0) 36,
    e.operand (rs.any fun r => decide (e.sa.len < r.1 + r.2)) 34, e.operand (anyOverlap (rs ++ [(e.xa.toNat, 32)])) 35, ds]

/-- Acceptance of a `spwalk`: its descriptor is read (R232). DESIGN CHOICE (log 50): one that is uncorrectable is a late uncorrectable-data fault, and
the command is not accepted. -/
def State.acceptWalk (s : State) (grove core : Nat) (e : RingEntry) (wide pos : Bool) (comp ds : Option FaultRec) :
    State × Except FaultRec EngCmd :=
  match walkFirst wide e comp with
  | some f => (s, .error f)
  | none =>
    let at_ := e.sa.base + e.xa.toNat
    match s.readBank grove at_ 32 with
    | none => (s.reportBank grove at_ core, .error (uncorr e.sa e.xa.toNat 1 false))
    | some desc =>
      match walkFault pos e desc ds with
      | some f => (s, .error f)
      | none => (s, .ok { EngCmd.start s.serial core e [] with desc := desc })

/-- Number of fibres of a merge (R235). -/
def mergeFibres (e : RingEntry) : Nat := bitsOf e.xc 0 7

/-- Capacity of a merge (R235). -/
def mergeCap (e : RingEntry) : Nat := bitsOf e.xc 32 32

/-- The checks of a `merge` before its table is read (R235). -/
def mergeFault (e : RingEntry) (comp : Option FaultRec) : Option FaultRec :=
  let nf := mergeFibres e
  firstFault [slotFault e.sa e.xa.toNat [kCluster] true true true,
    slotFault e.sb e.xb.toNat [kGlobal, kCluster, kTier] true false false, comp,
    e.operand (bitsOf e.xc 7 25 != 0 || nf == 0 || decide (64 < nf)) 32,
    e.operand (e.xa.toNat % 8 != 0 || e.xb.toNat % 8 != 0) 33,
    e.operand (decide (e.sa.len < e.xa.toNat + 8 * mergeCap e)) 34, boundFault e.sb e.xb.toNat (16 * nf) false]

/-- The fibres of a table (R235). -/
def tableFibres (n : Nat) (bs : List Byte) : List Fibre :=
  (List.range n).map fun f =>
    { start := leNat ((bs.drop (16 * f)).take 8), len := halfAt bs (16 * f + 8), pos := 0, last := none, head := none }

/-- The checks of a `merge` on its table (R235). -/
def tableFault (e : RingEntry) (bs : List Byte) (ds : Option FaultRec) : Option FaultRec :=
  let nf := mergeFibres e
  let fs := tableFibres nf bs
  let res := (e.sa.base + e.xa.toNat, 8 * mergeCap e)
  firstFault [
    e.operand (((List.range nf).any fun f => halfAt bs (16 * f + 12) != 0) || fs.any fun f => f.start % 4 != 0) 36,
    e.operand (e.sb.kind == kCluster &&
      (overlap res (e.sb.base + e.xb.toNat, 16 * nf) || fs.any fun f => overlap res (e.sb.base + f.start, 8 * f.len))) 35, ds]

/-- Acceptance of a `merge`: its table is read (R235). DESIGN CHOICE (log 50): one that is uncorrectable is a late uncorrectable-data fault, and the
command is not accepted. -/
def State.acceptMerge (s : State) (grove core : Nat) (e : RingEntry) (comp ds : Option FaultRec) :
    State × Except FaultRec EngCmd :=
  match mergeFault e comp with
  | some f => (s, .error f)
  | none =>
    let n := 16 * mergeFibres e
    match s.places (.engine grove) grove e.sb e.xb.toNat n .read false with
    | (s1, .error f) => (s1, .error f)
    | (s1, .ok ps) =>
      match s1.readPlaces (groveDie grove) ps e.sb.streams with
      | (s2, .error code) => (s2, .error (FaultRec.mk cUncorr code (segVa e.sb e.xb.toNat) false false none 0))
      | (s2, .ok bs) =>
        match tableFault e bs ds with
        | some f => (s2, .error f)
        | none => (s2, .ok { EngCmd.start s.serial core e [] with fibres := tableFibres (mergeFibres e) bs })

/-- Acceptance of a command: the checks of R194 and the command's own, and what it keeps. -/
def State.acceptCheck (s : State) (grove core : Nat) (e : RingEntry) : State × Except FaultRec EngCmd :=
  match engCmd? e.instr with
  | none => (s, .error (FaultRec.mk0 cOperand 32 e.pc.toNat))
  | some k =>
    let comp := e.operand (compBad k.cw e.xd) 22
    let ds := e.operand (k.ds && e.dep.getLsbD 63) 23
    let plain := fun (f : Option FaultRec) (c : EngCmd) =>
      match f with
      | some f => (s, Except.error f)
      | none => (s, Except.ok c)
    let start := EngCmd.start s.serial core e []
    match e.instr with
    | .dcopy _ rc => plain (copyFault rc e comp ds) start
    | .dfill _ rn =>
      let ms := s.memberGroves (bitsOf e.xc 56 8)
      plain (fillFault rn e ms comp ds) { start with members := ms }
    | .gather _ es it => plain (elemsFault es it 0 false e comp ds) start
    | .scatter _ es it mode => plain (elemsFault es it mode true e comp ds) start
    | .spwalk _ wide pos => s.acceptWalk grove core e wide pos comp ds
    | .merge _ _ => (s.commandAcquire core (acqScope k.ord)).acceptMerge grove core e comp ds
    | _ => (s, .error (FaultRec.mk0 cOperand 32 e.pc.toNat))

/-- What a `dfree` is checked for (R199). -/
def dfreeFault (e : RingEntry) (members : List Nat) (grove : Nat) : Option FaultRec :=
  firstFault [
    e.operand (bitsOf e.xa 59 5 != 0 || bitsOf e.xa 21 27 != 0 || bitsOf e.xb 24 40 != 0) 32,
    e.operand (bitsOf e.xa 0 21 % 8 != 0) 33,
    e.operand (decide (Config.clusterBytes < bitsOf e.xa 0 21 + 8)) 34,
    e.operand (!members.contains grove) 38]

/-- A `dfree` is sent, or faults (R199). -/
def State.sendDfree (s : State) (cid grove : Nat) (e : RingEntry) : State :=
  let ms := s.memberGroves (bitsOf e.xb 0 8)
  match dfreeFault e ms grove with
  | some f => s.setEntry cid e.seq.toNat (some { e with phase := .faulted f })
  | none =>
    let m : DfreeMsg :=
      { sender := bitsOf e.xa 56 3 * 256 + bitsOf e.xa 48 8, off := bitsOf e.xa 0 21, group := bitsOf e.xb 0 8
        tag := bitsOf e.xb 8 16, members := ms, source := grove }
    { s.setEntry cid e.seq.toNat none with dfrees := s.dfrees ++ [m] }

/-- Has a core ring entries older than one in its context's ring: those before it there, and those of its other contexts that were dispatched
before it (R199)? -/
def State.olderEntries (s : State) (core cid : Nat) (older : List RingEntry) (e : RingEntry) : Bool :=
  !older.isEmpty ||
    (s.residents core).any fun k => k != cid && (match s.ctx? k with | some c => c.ring.any fun x => decide (x.ord < e.ord) | none => false)

/-- Do the older entries of a context hold a command of the engine or the matrix unit back from acceptance: one that is to fault (R402, R404 step 4),
or, under aq, a vector access that has still to be performed (R188, R281)? -/
def holdsCommand (older : List RingEntry) (aq : Bool) : Bool :=
  older.any fun o => (match o.phase with | .faulted _ => true | _ => false) || (aq && isVmem o)

/-- Has a command of the engine aq set? -/
def RingEntry.acquires (e : RingEntry) : Bool := match engCmd? e.instr with | some k => (acqScope k.ord).isSome | none => false

/-- An entry of the ring meets the engine (R194, R220): it waits for room and for the context's older commands; then the checks, and
it is accepted or is to fault. A service core has no engine (log 12). -/
def State.engineAccept (s : State) (cid seq : Nat) : State :=
  match s.ctx? cid with
  | none => s
  | some c =>
    match c.core?, splitRing c.ring seq with
    | some core, some (older, e) =>
      let grove := coreGrove core
      if isService core || !isEngine e.instr || e.phase != .waiting || older.any (fun o => isEngine o.instr) ||
          holdsCommand older e.acquires || decide (16 ≤ (s.grove grove).eng.length) then s
      else if (engCmd? e.instr).isNone then (if s.olderEntries core cid older e then s else s.sendDfree cid grove e)
      else
        match s.acceptCheck grove core e with
        | (s1, .error f) => s1.setEntry cid seq (some { e with phase := .faulted f })
        | (s1, .ok cmd) =>
          let s2 := match engCmd? e.instr with | some k => s1.commandAcquire core (acqScope k.ord) | none => s1
          let s3 := s2.setEntry cid seq none
          { s3.setGrove grove { s3.grove grove with eng := (s3.grove grove).eng ++ [cmd] } with serial := s3.serial + 1 }
    | _, _ => s

/-- `ENGINE_ACCEPT` (R194). -/
def execEngineAccept (cid seq : Nat) (s : State) : Out := .next (s.engineAccept cid seq)

/-- An accepted command of a grove's engine. -/
def State.engine? (s : State) (grove id : Nat) : Option EngCmd := (s.grove grove).eng.find? fun c => c.id == id

/-- Replace a command of a grove's engine, or end it. -/
def State.setEngine (s : State) (grove id : Nat) (c : Option EngCmd) : State :=
  s.setGrove grove { s.grove grove with eng := (s.grove grove).eng.filterMap fun x => if x.id = id then c else some x }

/-- The length in bytes of a transfer in chunks. -/
def transferLen (e : RingEntry) : Nat :=
  match e.instr with
  | .dcopy _ _ => e.xc.toNat
  | .dfill _ _ => fillLen e
  | _ => 0

/-- Has an accepted command something to start? -/
def EngCmd.hasWork (c : EngCmd) : Bool :=
  match c.entry.instr with
  | .gather _ _ _ => elemCount c.entry != 0
  | .scatter _ _ _ _ => elemCount c.entry != 0
  | .spwalk _ _ _ => walkRows c.entry != 0
  | .merge _ _ => true
  | _ => transferLen c.entry != 0

/-- What a `gather` or `scatter` does with its elements: element size, index type, mode, does it scatter? -/
structure ElemOp where
  size : Nat
  it : BitVec 2
  mode : Nat
  store : Bool

/-- The elements' operation of a command. -/
def elemOp? (i : Instr) : Option ElemOp :=
  match i with
  | .gather _ es it => some ⟨elemSize es, it, 0, false⟩
  | .scatter _ es it mode => some ⟨elemSize es, it, mode.toNat, true⟩
  | _ => none

/-- Is an element still in flight? -/
def Elem.open_ (e : Elem) : Bool := e.pieces.any fun p => !p.done

/-- Has a command rl set (R196 step 3)? -/
def EngCmd.rel (c : EngCmd) : Bool := match engCmd? c.entry.instr with | some k => ordRel k.ord | none => true

/-- Packed lines of a `gather` (R221). -/
def EngCmd.lineCount (c : EngCmd) : Nat :=
  match elemOp? c.entry.instr with
  | some o => if o.store then 0 else (o.size * elemCount c.entry + 127) / 128
  | none => 0

/-- Has every byte that a command has sent been written, and every member of a `dfill` been told? -/
def EngCmd.over (c : EngCmd) : Bool :=
  c.flight.isEmpty && c.pending.isEmpty && !(c.elems.any fun p => p.2.open_) && decide (c.lineCount ≤ c.lines.length) &&
    (c.stop.isSome || c.members.all fun g => c.told.contains g)

/-- A command goes on; one whose completion has been written leaves the engine with its last byte (R196). -/
def State.putEngine (s : State) (grove id : Nat) (c : EngCmd) : State :=
  s.setEngine grove id (if c.finished && c.over then none else some c)

/-- A command writes payload into its grove's banks: at once under rl; otherwise it is sent, and lands before or after the completion word (R196 step
3, R281). -/
def State.payload (s : State) (grove : Nat) (c : EngCmd) (off : Nat) (bs : List Byte) : State × EngCmd :=
  if c.rel then (s.bankWrite grove off bs, c) else (s, { c with pending := c.pending ++ [(off, bs)] })

/-- Bytes of the grove's banks as a command reads them, with what it has sent there itself. -/
def EngCmd.overlay (c : EngCmd) (off : Nat) (bs : List Byte) : List Byte :=
  bs.zipIdx.map fun p => c.pending.foldl (fun (v : Byte) w =>
    if w.1 ≤ off + p.2 && off + p.2 < w.1 + w.2.length then w.2.getD (off + p.2 - w.1) v else v) p.1

/-- Payload that a command has sent lands (R196), what it has sent earlier to the same bytes first. -/
def State.landPayload (s : State) (grove id idx : Nat) : State :=
  match s.engine? grove id with
  | none => s
  | some c =>
    match c.pending[idx]? with
    | none => s
    | some w =>
      if (c.pending.take idx).any fun v => overlap (v.1, v.2.length) (w.1, w.2.length) then s
      else (s.bankWrite grove w.1 w.2).putEngine grove id { c with pending := c.pending.eraseIdx idx }

/-- May a command act (R196, R220): has every command of its core that was accepted before it started, or nothing to start? -/
def State.inTurn (s : State) (grove : Nat) (c : EngCmd) : Bool :=
  ((s.grove grove).eng.takeWhile fun x => x.id != c.id).all fun x => x.core != c.core || x.started || !x.hasWork

/-- The places that chunk bytes go to (R195, R197, R198). -/
def State.destPlaces (s : State) (grove : Nat) (c : EngCmd) (lo n : Nat) : State × Except FaultRec (List (List (Place × Nat))) :=
  match c.entry.instr with
  | .dcopy _ rc =>
    let d := copyDest grove rc c.entry
    match s.places (.engine grove) d.1 c.entry.sa (d.2 + lo : Nat) n .write true with
    | (s1, .ok ps) => (s1, .ok [ps])
    | (s1, .error f) => (s1, .error f)
  | .dfill _ _ => (s, .ok (c.members.map fun g => [(.bank g (c.entry.sa.base + c.entry.xa.toNat + lo), n)]))
  | _ => (s, .ok [])

/-- What a chunk's translations cover. -/
def State.chunkTrans (s : State) (grove : Nat) (c : EngCmd) (lo n : Nat) : List (Nat × Nat × Nat) :=
  s.transOf (.engine grove) c.entry.sb (c.entry.xb.toNat + lo : Nat) n ++
    (match c.entry.instr with
     | .dcopy _ rc => s.transOf (.engine grove) c.entry.sa ((copyDest 0 rc c.entry).2 + lo : Nat) n
     | _ => [])

/-- The next chunk of a transfer is translated, read and issued, or stops the command (R195). -/
def State.chunkIssue (s : State) (grove id : Nat) : State :=
  match s.engine? grove id with
  | none => s
  | some c =>
    let lo := 512 * c.next
    let len := transferLen c.entry
    if c.stop.isSome || c.finished || len ≤ lo || 64 ≤ c.flight.length || !s.inTurn grove c then s
    else
      let n := min 512 (len - lo)
      let stop := fun (t : State) (code : Nat) (side : Bool) => t.setEngine grove id (some { c with stop := some (code, side), started := true })
      match s.places (.engine grove) grove c.entry.sb (c.entry.xb.toNat + lo : Nat) n .read false with
      | (s1, .error f) => stop s1 f.code false
      | (s1, .ok src) =>
        match s1.destPlaces grove c lo n with
        | (s2, .error f) => stop s2 f.code true
        | (s2, .ok dsts) =>
          match s2.readPlaces (groveDie grove) src c.entry.sb.streams with
          | (s3, .error _) => stop s3 cUncorr false
          | (s3, .ok bs) =>
            s3.setEngine grove id (some { c with
              next := c.next + 1, started := true
              flight := c.flight ++
                [{ num := c.next, trans := s3.chunkTrans grove c lo n, writes := dsts.flatMap fun ps => dealBytes ps bs }] })

/-- `CHUNK_ISSUE` (R195). -/
def execChunkIssue (grove cmd : Nat) (s : State) : Out := .next (s.chunkIssue grove cmd)

/-- A chunk's writes are performed and acknowledged (R195, R196). -/
def State.chunkAck (s : State) (grove id chunk : Nat) : State :=
  match s.engine? grove id with
  | none => s
  | some c =>
    match c.flight.find? fun f => f.num == chunk with
    | none => s
    | some f =>
      let rest := c.flight.filter fun x => x.num != chunk
      (f.writes.foldl (fun (t : State) w => t.writePlace w.1 w.2 c.entry.sa.streams) s).putEngine grove id { c with flight := rest }

/-- `CHUNK_ACK` (R195). -/
def execChunkAck (grove cmd chunk : Nat) (s : State) : Out := .next (s.chunkAck grove cmd chunk)

/-- Have all bytes of a transfer been sent? -/
def EngCmd.sent (c : EngCmd) : Bool := c.stop.isSome || decide (transferLen c.entry ≤ 512 * c.next)

/-- Have all bytes of a transfer been written? -/
def EngCmd.landed (c : EngCmd) : Bool := c.flight.isEmpty && c.sent

/-- A member grove of a `dfill` has its last payload byte: its receiver word is incremented (R198). -/
def State.memberDelivery (s : State) (grove id member : Nat) : State :=
  match s.engine? grove id with
  | none => s
  | some c =>
    match c.entry.instr with
    | .dfill _ rn =>
      if !c.landed || c.stop.isSome || !c.members.contains member || c.told.contains member then s
      else
        let off := c.entry.sa.base + fillWord c.entry
        let s1 := if rn then
            s.bankWrite member off (leBytes 8 ((leNat (s.bankBytes member off 8) + 1) % 2 ^ 64))
          else s
        s1.putEngine grove id { c with told := c.told ++ [member] }
    | _ => s

/-- `DFILL_MEMBER_DELIVERY` (R198). -/
def execDfillMemberDelivery (grove cmd member : Nat) (s : State) : Out := .next (s.memberDelivery grove cmd member)

/-- A `dfree` reaches the sender's grove (R200): it joins its key's set, is held for the next set, or is discarded. A full set adds 1
to the free counter, and the held messages begin the next. -/
def State.dfreeArrive (s : State) (idx : Nat) : State :=
  match s.dfrees[idx]? with
  | none => s
  | some m =>
    let s1 := { s with dfrees := s.dfrees.eraseIdx idx }
    let same := fun k : DfreeSet => k.sender == m.sender && k.off == m.off && k.group == m.group && k.tag == m.tag
    let k := (s1.dfreeSets.find? same).getD
      { sender := m.sender, off := m.off, group := m.group, tag := m.tag, heard := [], held := [] }
    let put := fun (t : State) (k : DfreeSet) =>
      { t with dfreeSets := (if k.heard.isEmpty && k.held.isEmpty then [] else [k]) ++ t.dfreeSets.filter fun x => !same x }
    if k.heard.contains m.source then
      if k.held.contains m.source then s1.logEngine (groveDie m.sender) 4 0 m.tag (m.sender % 256) 0
      else put s1 { k with held := k.held ++ [m.source] }
    else
      let heard := k.heard ++ [m.source]
      if m.members.all fun g => heard.contains g then
        put (s1.bankWrite m.sender m.off (leBytes 8 ((leNat (s1.bankBytes m.sender m.off 8) + 1) % 2 ^ 64)))
          { k with heard := k.held, held := [] }
      else put s1 { k with heard := heard }

/-- `DFREE_ARRIVAL` (R200). -/
def execDfreeArrival (idx : Nat) (s : State) : Out := .next (s.dfreeArrive idx)

end Sys2Proof.Machine
end

