-- ==== Sys2Proof/Machine/Matrix.lean ====
section
/-! DEFINITION. The matrix unit (file 10; R43, R201 to R219): `mldb`, `mmac`, `mmac.coop`, acceptance, bank loads, steps, the arbiter,
the cooperative form, migration, faults. -/

namespace Sys2Proof.Machine

open Sys2Proof

/-- A format that a matrix operand has: type codes 2 to 7 (R203). -/
def matFmt (f : Fmt) : Bool :=
  match f with
  | .bf16 | .f16 | .e4m3 | .e5m2 | .lg6 | .i8 => true
  | _ => false

/-- The class of a format (R203): 16-bit, FP8, INT8, LG6. -/
def matClass (f : Fmt) : Nat :=
  match f with
  | .bf16 | .f16 => 0
  | .e4m3 | .e5m2 => 1
  | .i8 => 2
  | _ => 3

/-- The prefix that `mmac` takes (R207). -/
def matPrefix (p : Prefix) : Bool :=
  (match p.fa with | none => true | some f => matFmt f) && (match p.fb with | none => true | some f => matFmt f) &&
    (match p.fd with | none => true | some f => f == .f32) &&
    (!p.ka || (match p.fa with | none => true | some f => matClass f != 0)) &&
    (match p.rm with | none => true | some r => r == .rne)

/-- `mldb` (R204). -/
def execMldb (k : Cmd) (ty : Fmt) (sx : Bool) (bank : BitVec 2) (s : State) : Out := runRing noPrefix 8 (.mldb k ty sx bank) s

/-- `mmac` (R206). -/
def execMmac (k : Cmd) (bank : BitVec 2) (pr zc pin : Bool) (s : State) : Out := runRing matPrefix 8 (.mmac k bank pr zc pin) s

/-- `mmac.coop` (R209). -/
def execMmacCoop (k : Cmd) (bank : BitVec 2) (pr zc : Bool) (s : State) : Out := runRing matPrefix 8 (.mmacCoop k bank pr zc) s

/-- A matrix instruction: its command fields, first bank, PR, ZC, PIN; is it a load (of which format, with scales), is it
cooperative. -/
structure MatOp where
  cmd : Cmd
  bank : Nat
  pr : Bool
  zc : Bool
  pin : Bool
  load : Option (Fmt × Bool)
  coop : Bool

/-- The matrix operation of an instruction. -/
def matOp? (i : Instr) : Option MatOp :=
  match i with
  | .mldb k ty sx b => some ⟨k, b.toNat, false, false, true, some (ty, sx), false⟩
  | .mmac k b pr zc pin => some ⟨k, b.toNat, pr, zc, pin, none, false⟩
  | .mmacCoop k b pr zc => some ⟨k, b.toNat, pr, zc, true, none, true⟩
  | _ => none

/-- The banks that an operation names. -/
def MatOp.banks (o : MatOp) : List Nat := if o.pr then [o.bank, o.bank + 1] else [o.bank]

/-- A bank of a unit. -/
def MatUnit.bank (u : MatUnit) (k : Nat) : Bank := u.banks.toList.getD k Bank.empty

/-- Replace a bank. -/
def MatUnit.setBank (u : MatUnit) (k : Nat) (b : Bank) : MatUnit :=
  { u with banks := Vector.ofFn fun i => if i.val = k then b else u.banks[i] }

/-- A grove's matrix unit. -/
def State.mat (s : State) (g : Nat) : MatUnit := (s.grove g).mat

/-- Replace a grove's matrix unit. -/
def State.setMat (s : State) (g : Nat) (u : MatUnit) : State := s.setGrove g { s.grove g with mat := u }

/-- The prefix that an entry captured. -/
def RingEntry.pfx (e : RingEntry) : Prefix := (e.pay.bind payloadOf).getD ⟨none, none, none, false, false, none⟩

/-- Bytes of a tile row (R204). -/
def tileRow (f : Fmt) : Nat := if f = .lg6 then 192 else 256

/-- Bytes of an A row without scales (R206). -/
def aRowLen (cls : Nat) : Nat := match cls with | 0 => 512 | 3 => 192 | _ => 256

/-- Output columns (R203). -/
def matCols (cls : Nat) (pr : Bool) : Nat := if cls = 0 && !pr then 128 else 256

/-- An illegal-operand fault of a matrix command for a range (R217): `fva` holds where the range starts. -/
def RingEntry.rangeFault (bad : Bool) (data va : Nat) : Option FaultRec :=
  if bad then some (FaultRec.mk0 cOperand data va) else none

/-- The check of the completion area of a matrix command (R194 check 2, R217): `fva` holds its offset W. -/
def MatOp.compFault (o : MatOp) (e : RingEntry) : Option FaultRec := RingEntry.rangeFault (compBad o.cmd.cw e.xd) 22 (compOff e.xd)

/-- M of a command (R206). -/
def matM (e : RingEntry) : Nat := bitsOf e.xc 0 11
/-- C row stride (R206). -/
def matCS (e : RingEntry) : Nat := bitsOf e.xc 16 16
/-- A row stride (R206). -/
def matAS (e : RingEntry) : Nat := bitsOf e.xc 32 24

/-- Checks 3 and 4 of R208 for a class. -/
def shapeFaults (o : MatOp) (e : RingEntry) (cls : Nat) : List (Option FaultRec) :=
  let m := matM e
  let n := matCols cls o.pr
  let len := aRowLen cls + (if e.pfx.ka then 8 else 0)
  [e.operand (m == 0 || decide (1024 < m) || bitsOf e.xc 11 5 != 0 || (!o.coop && bitsOf e.xc 56 8 != 0)) 16,
    RingEntry.rangeFault (decide (matCS e < n) || e.xa.toNat % 4 != 0) 17 (segVa e.sa e.xa.toNat),
    RingEntry.rangeFault (matAS e % 4 != 0 || decide (matAS e < len) || e.xb.toNat % 4 != 0) 17 (segVa e.sb e.xb.toNat),
    boundFault e.sb e.xb.toNat ((m - 1) * matAS e + len) false,
    boundFault e.sa e.xa.toNat (4 * ((m - 1) * matCS e + n)) true]

/-- The acceptance checks of an `mldb` (R205). -/
def loadFault (o : MatOp) (ty : Fmt) (sx : Bool) (e : RingEntry) : Option FaultRec :=
  let stride := bitsOf e.xc 0 32
  let comp := o.compFault e
  firstFault [slotFault e.sb e.xb.toNat [kGlobal, kCluster, kTier] true false false, comp,
    e.operand (bitsOf e.xc 32 32 != 0) 16,
    RingEntry.rangeFault (stride % 4 != 0 || e.xb.toNat % 4 != 0 || decide (stride < tileRow ty)) 17 (segVa e.sb e.xb.toNat),
    boundFault e.sb e.xb.toNat (255 * stride + tileRow ty) false,
    if sx then boundFault e.sb e.xa.toNat 2048 false else none, e.operand (o.cmd.ds && e.dep.getLsbD 63) 23]

/-- The acceptance checks of an `mmac` (R208): those that need the class wait for step 0 when it is not known. -/
def mmacFault (o : MatOp) (e : RingEntry) (cls : Option Nat) : Option FaultRec :=
  firstFault ([slotFault e.sa e.xa.toNat [kCluster] true true true,
      slotFault e.sb e.xb.toNat [kGlobal, kCluster, kTier] true false false, o.compFault e] ++
    (match cls with | some c => shapeFaults o e c | none => []) ++ [e.operand (o.cmd.ds && e.dep.getLsbD 63) 23])

/-- The class of an entry's A operand at acceptance (R208): from fa, or from the latest `mldb` accepted for bank k. -/
def MatUnit.classOf (u : MatUnit) (o : MatOp) (e : RingEntry) : Option Nat :=
  match e.pfx.fa with
  | some f => some (matClass f)
  | none => (u.bank o.bank).lastTy.map matClass

/-- The commands of one core in a unit, in order. -/
def MatUnit.ofCore (u : MatUnit) (core : Nat) : List MatCmd := u.queue.filter fun c => c.core == core

/-- A command of a unit by its stamp. -/
def State.matCmd? (s : State) (g stamp : Nat) : Option MatCmd := (s.mat g).queue.find? fun c => c.stamp == stamp

/-- Replace a command of a unit, or remove it. -/
def State.setMatCmd (s : State) (g stamp : Nat) (c : Option MatCmd) : State :=
  s.setMat g { s.mat g with queue := (s.mat g).queue.filterMap fun x => if x.stamp = stamp then c else some x }

/-- Must a command wait for banks: an earlier `mldb` to a bank that it names is still in the unit, or a bank is lent (R208, R216)? -/
def MatUnit.bankWait (u : MatUnit) (stamp : Nat) (ks : List Nat) : Bool :=
  (u.queue.any fun c => decide (c.stamp < stamp) &&
    (match matOp? c.entry.instr with | some o => o.load.isSome && ks.contains o.bank | none => false)) ||
  ks.any fun k => (u.bank k).lent

/-- Can the next step of a command run in its home unit (R211)? -/
def State.matReady (s : State) (g : Nat) (c : MatCmd) : Bool :=
  match matOp? c.entry.instr with
  | none => false
  | some o =>
    if o.load.isSome || c.moved.isSome || ((s.mat g).ofCore c.core).head?.map MatCmd.stamp != some c.stamp then false
    else if o.coop then false
    else !(s.mat g).bankWait c.stamp o.banks

/-- Can the next strip of a cooperative command run in a member unit (R209, R210)? -/
def State.stripReady (s : State) (g : Nat) (c : MatCmd) : Bool :=
  match matOp? c.entry.instr with
  | none => false
  | some o =>
    c.slots.length == c.members.length && (c.strips.all fun t => t.grove != g) &&
      c.members.all fun m => c.started || !(s.mat m).bankWait c.stamp o.banks

/-- Note since when each head command of a unit has been ready (R213). -/
def State.noteReady (s : State) (g : Nat) : State :=
  let u := s.mat g
  let note := fun (c : MatCmd) =>
    if s.matReady g c then (if c.since.isNone then { c with since := some s.now } else c) else { c with since := none }
  s.setMat g { u with queue := u.queue.map note }

/-- Enter a command into a unit (R205, R208): a stamp, and the ring entry says that it is in a queue, and that an `mmac` has passed its acceptance
checks (R403 PK), checks 3 and 4 among them when its class is known. -/
def State.enterMat (s : State) (g cid : Nat) (c : Ctx) (core : Nat) (e0 : RingEntry) (members : List Nat) : State :=
  let e := match matOp? e0.instr with
    | some o =>
      if o.load.isSome then e0
      else { e0 with packed := true, passed := if e0.packed then e0.passed else ((s.mat g).classOf o e0).map fun k => (k, false) }
    | none => e0
  let m : MatCmd :=
    { stamp := s.serial, core := core, cid := cid, uid := c.uid, entry := e, g := e.g0, started := false, members := members
      slots := [], rows := none, strips := [], since := none, moved := none, tiles := [], fixed := false }
  let s1 := s.setEntry cid e.seq.toNat (some { e with phase := .queued })
  ({ s1.setMat g { s1.mat g with queue := (s1.mat g).queue ++ [m] } with serial := s.serial + 1 }).noteReady g

/-- The members of a cooperative command's group (R209): exactly four groves of the issuer's die, its own among them. -/
def State.coopMembers (s : State) (g : Nat) (e : RingEntry) : Option (List Nat) :=
  let ms := sortBy (fun a b => decide (a ≤ b)) (s.memberGroves (bitsOf e.xc 56 8))
  if ms.length = 4 && ms.contains g && ms.all (fun m => groveDie m == groveDie g) then some ms else none

/-- A ring entry meets the matrix unit (R205, R208): it waits for the context's older matrix commands, for room among four of its
core, where one that has migrated takes none (R302), while an older entry is to fault, and under aq for older vector accesses (R281). -/
def State.matAccept (s : State) (cid seq : Nat) (loads : Bool) : State :=
  match s.ctx? cid with
  | none => s
  | some c =>
    match c.core?, splitRing c.ring seq with
    | some core, some (older, e) =>
      let g := coreGrove core
      let u := s.mat g
      let aq := match matOp? e.instr with | some o => (acqScope o.cmd.ord).isSome | none => false
      let blocked := holdsCommand older aq || older.any fun x => (matOp? x.instr).isSome && x.phase == .waiting
      match matOp? e.instr with
      | none => s
      | some o =>
        if isService core || e.phase != .waiting || blocked || 4 ≤ ((u.ofCore core).filter fun x => x.moved.isNone).length || o.load.isSome != loads then s
        else
          let fail := fun f : FaultRec => s.setEntry cid seq (some { e with phase := .faulted f })
          match o.load with
          | some (ty, sx) =>
            (match loadFault o ty sx e with
             | some f => fail f
             | none =>
               let s1 := s.setMat g (u.setBank o.bank { u.bank o.bank with lastTy := some ty })
               s1.enterMat g cid c core e [])
          | none =>
            match (if e.packed then none else mmacFault o e (u.classOf o e)) with
            | some f => fail f
            | none =>
              if o.coop then
                (match s.coopMembers g e with
                 | some ms => s.enterMat g cid c core e ms
                 | none => fail (FaultRec.mk0 cOperand 21 e.pc.toNat))
              else s.enterMat g cid c core e []
    | _, _ => s

/-- `MLDB_ACCEPT` (R205). -/
def execMldbAccept (cid seq : Nat) (s : State) : Out := .next (s.matAccept cid seq true)

/-- `MATRIX_ACCEPT` (R208). -/
def execMatrixAccept (cid seq : Nat) (s : State) : Out := .next (s.matAccept cid seq false)

/-- The context of a command, while it exists and holds its ring entry (R219). -/
def State.matOwner (s : State) (c : MatCmd) : Option Ctx :=
  match s.ctx? c.cid with
  | none => none
  | some x =>
    if x.uid = c.uid && (x.ring.any fun e => e.seq == c.entry.seq && e.phase == .queued) then some x else none

/-- A command leaves its unit, which has had a command until now (R213): its cooperative slots are freed, and a loan ends its use (R210, R216). -/
def State.leaveMat (s : State) (g : Nat) (c : MatCmd) : State :=
  let s1 := c.slots.foldl (fun (t : State) m => t.setMat m { t.mat m with coop := none }) (s.setMatCmd g c.stamp none)
  let s2 := match c.moved with
    | some (t, _) => s1.setMat t { s1.mat t with guest := none }
    | none => s1
  (s2.setMat g { s2.mat g with busy := s.now }).noteReady g

/-- A matrix command ends well (R205, R208): completion, and its ring entry ends. -/
def State.matEnd (s : State) (g : Nat) (c : MatCmd) (o : MatOp) : State :=
  let s1 := (s.leaveMat g c).complete g o.cmd.cw c.entry.xd none o.cmd.ds c.entry.dep
  match s.matOwner c with
  | some _ => s1.setEntry c.cid c.entry.seq.toNat none
  | none => s1

/-- A matrix command faults at step g (R217, R219): with a context its late fault is due, and the younger commands of that context in
the core's queue leave it; without one the fault is logged and the completion area written. -/
def State.matFail (s : State) (gr : Nat) (c : MatCmd) (o : MatOp) (f : FaultRec) : State :=
  let s1 := s.leaveMat gr c
  match s.matOwner c with
  | some _ =>
    let young := (s1.mat gr).queue.filter fun x => x.cid == c.cid && x.uid == c.uid && decide (c.stamp < x.stamp)
    let s2 := young.foldl (fun (t : State) x =>
      (t.leaveMat gr x).setEntry x.cid x.entry.seq.toNat (some { x.entry with phase := .waiting })) s1
    s2.setEntry c.cid c.entry.seq.toNat (some { c.entry with g0 := c.g, phase := .faulted { f with step := c.g } })
  | none =>
    let s2 := s1.logEngine (groveDie gr) 6 f.code c.g (gr % 256) (coreInGrove c.core)
    s2.complete gr o.cmd.cw c.entry.xd (some (BitVec.ofNat 64 (f.code * 2 ^ 56 + 16 * c.g))) o.cmd.ds c.entry.dep

/-- Bytes that a matrix unit reads through a slot, as the issuing core's `.nc` loads read them, the grove's dirty bytes merged (R205,
R208); reads of a `cluster` segment are performed at the bank. `unit` is the grove whose translation cache is used. Bad data faults at its
own address (R217). -/
def State.matRead (s : State) (unit grove core : Nat) (d : Desc) (off n : Nat) : State × Except FaultRec (List Byte) :=
  match s.places (.matrix unit) grove d off n .read false with
  | (s1, .error f) => (s1, .error f)
  | (s1, .ok ps) =>
    let parts := ps.flatMap fun p => match p.1 with
      | .bank g o => [(Place.bank g o, p.2)]
      | .phys pa => (lineParts pa p.2).map fun q => (Place.phys q.1, q.2)
    parts.foldl (fun (t : State × Except FaultRec (List Byte)) p =>
      match t.2 with
      | .error _ => t
      | .ok bs =>
        let bad := fun code at_ : Nat => Except.error (FaultRec.mk cUncorr code (segVa d (off + bs.length + at_ : Nat)) false false none 0)
        match p.1 with
        | .bank g o =>
          (match t.1.readBank g o p.2 with
           | some more => (t.1, .ok (bs ++ more))
           | none => (t.1.reportBank g o core, bad 1 0))
        | .phys pa =>
          match t.1.ncLoad core (some grove) pa p.2 d.streams with
          | (u, some more) => (u, .ok (bs ++ more))
          | (u, none) =>
            let m := u.badMet (some grove) (coreDie core) pa p.2
            (u.reportBad (some grove) (coreDie core) pa p.2 core, bad m.2.1 (m.1 - pa))) (s1, .ok [])

/-- The 256 rows of a tile, in order. -/
def State.tileRows (k : Nat) (s : State) (unit grove core : Nat) (src : TileSrc) : State × Except FaultRec (List (List Byte)) :=
  match k with
  | 0 => (s, .ok [])
  | k + 1 =>
    match s.tileRows k unit grove core src with
    | (s1, .error f) => (s1, .error f)
    | (s1, .ok rows) =>
      match s1.matRead unit grove core src.desc (src.off + k * src.stride) (tileRow src.fmt) with
      | (s2, .error f) => (s2, .error f)
      | (s2, .ok bs) => (s2, .ok (rows ++ [bs]))

/-- Read a tile: rows first, then scales (R205). -/
def State.readTile (s : State) (unit grove core : Nat) (src : TileSrc) : State × Except FaultRec Tile :=
  match s.tileRows 256 unit grove core src with
  | (s1, .error f) => (s1, .error f)
  | (s1, .ok rows) =>
    if src.sc then
      (match s1.matRead unit grove core src.desc src.scaleOff 2048 with
       | (s2, .error f) => (s2, .error f)
       | (s2, .ok bs) => (s2, .ok { fmt := src.fmt, sc := true, rows := rows, scales := bs }))
    else (s1, .ok { fmt := src.fmt, sc := false, rows := rows, scales := [] })

/-- Does a command of a unit, or a cooperative command that holds its slot, hold back a load of a bank (R205 step 1)? DESIGN CHOICE (log 90): a
cooperative command counts as one of another member's unit from when it holds that unit's slot. -/
def State.loadWait (s : State) (g stamp k : Nat) : Bool :=
  let u := s.mat g
  let names := fun c : MatCmd => match matOp? c.entry.instr with | some o => o.banks.contains k | none => false
  (u.queue.any fun c => decide (c.stamp < stamp) && names c) ||
    (match u.coop with
     | some (h, st) => (match s.matCmd? h st with | some c => decide (c.stamp < stamp) && names c | none => false)
     | none => false) ||
    (u.bank k).lent

/-- Write a bank with what a load has read; what was bad in it is gone (R179). -/
def State.fillBank (s : State) (g k : Nat) (b : Bank) : State :=
  let t := s.setMat g ((s.mat g).setBank k b)
  { t with badSram := t.badSram.filter fun p => p != .bank g k }

/-- The load of the `mldb` at the head of a core's queue ends (R205). -/
def State.bankLoad (s : State) (g core : Nat) : State :=
  match ((s.mat g).ofCore core).head? with
  | none => s
  | some c =>
    match matOp? c.entry.instr with
    | none => s
    | some o =>
      match o.load with
      | none => s
      | some (ty, sx) =>
        if s.loadWait g c.stamp o.bank then s
        else
          let src : TileSrc :=
            { desc := c.entry.sb, off := c.entry.xb.toNat, stride := bitsOf c.entry.xc 0 32, scaleOff := c.entry.xa.toNat, fmt := ty
              sc := sx }
          let s0 := s.commandAcquire core (acqScope o.cmd.ord)
          match s0.readTile g g core src with
          | (s1, .error f) =>
            (s1.setMat g ((s1.mat g).setBank o.bank { (s1.mat g).bank o.bank with tile := none })).matFail g c o f
          | (s1, .ok t) =>
            let b := (s1.mat g).bank o.bank
            (s1.fillBank g o.bank { b with tile := some t, src := some src, gen := b.gen + 1 }).matEnd g c o

/-- `BANK_LOAD_COMPLETE` (R205). -/
def execBankLoadComplete (grove core : Nat) (s : State) : Out := .next (s.bankLoad (grove) core)

/-- The codes of 256 elements in bytes of a format. -/
def rowCodes (f : Fmt) (bs : List Byte) : List Nat :=
  match f with
  | .lg6 => (List.range 8).flatMap fun j => unpackLg6 ((bs.drop (24 * j)).take 24) 32
  | .bf16 | .f16 => (List.range (bs.length / 2)).map fun i => leNat ((bs.drop (2 * i)).take 2)
  | _ => bs.map BitVec.toNat

/-- An E8 scale applied where there is one (R32). -/
def withScale (e8 : Option Nat) (v : FV) : FV := match e8 with | some x => scaled x v | none => v

/-- A product of two elements (R30, R43). DESIGN CHOICE (log 79): the product of an INT8 zero and a negative value is −0, as for the floating
formats; the spec gives an integer zero no sign, and a step whose old value is −0 and whose products are all such shows it. -/
def matProduct (fa fb : Fmt) (x : Nat) (ex : Option Nat) (y : Nat) (ey : Option Nat) : FV :=
  if fa = .lg6 then withScale ex (withScale ey (lgMul x y))
  else (FV.mul (withScale ex (valFmt fa x)) (withScale ey (valFmt fb y))).1

/-- Column n of a tile: codes and scales (R204). -/
def Tile.column (t : Tile) (n : Nat) : List (Nat × Option Nat) :=
  (t.rows.map fun r => (rowCodes t.fmt r).getD n 0).zipIdx.map fun p =>
    (p.1, if t.sc then some (t.scales.getD (256 * (p.2 / 32) + n) 0).toNat else none)

/-- The elements of an A row: codes and scales (R206, R208). -/
def aElems (f : Fmt) (sc : Bool) (len : Nat) (bs : List Byte) : List (Nat × Option Nat) :=
  (rowCodes f (bs.take len)).zipIdx.map fun p => (p.1, if sc then some (bs.getD (len + p.2 / 32) 0).toNat else none)

/-- Column n of the output over the banks of a command. -/
def tileColumn (ts : List Tile) (n : Nat) : Fmt × List (Nat × Option Nat) :=
  match ts with
  | t :: rest =>
    if matClass t.fmt = 0 && decide (128 ≤ n) then
      (match rest with | u :: _ => (u.fmt, u.column (n - 128)) | [] => (t.fmt, t.column n))
    else (t.fmt, t.column n)
  | [] => (.bf16, [])

/-- The elements of one row of C (R43, R208). -/
def matRow (ts : List Tile) (fa : Fmt) (a : List (Nat × Option Nat)) (cold : Nat → BitVec 32) (n : Nat) : BitVec 32 :=
  let col := tileColumn ts n
  matStep (cold n) ((a.zip col.2).map fun p => matProduct fa col.1 p.1.1 p.1.2 p.2.1 p.2.2)

/-- The step-0 bank checks of R208 on the banks of one unit: the tiles, or the DATA of the fault. -/
def MatUnit.checkBanks (u : MatUnit) (o : MatOp) (e : RingEntry) : Except Nat (List Tile) :=
  let ts := o.banks.filterMap fun k => (u.bank k).tile
  if ts.length ≠ o.banks.length then .error 18
  else
    match ts with
    | [] => .error 18
    | t :: rest =>
      let p := e.pfx
      let fa := p.fa.getD t.fmt
      if matClass fa != matClass t.fmt || (match p.fb with | some f => f != t.fmt | none => false) || (p.kb && !t.sc) ||
          (p.ka && matClass fa == 0) || (o.pr && (matClass t.fmt != 0 || rest.any fun r => r.fmt != t.fmt)) then .error 19
      else .ok (t :: rest)

/-- The GEN values recorded for a command (R208). -/
def MatUnit.gens (u : MatUnit) (o : MatOp) : BitVec 32 × BitVec 32 :=
  ((u.bank o.bank).gen, if o.pr then (u.bank (o.bank + 1)).gen else 0)

/-- What a command checks before its first step (R208, R209, R218): the DATA of the illegal-operand fault or the fault of a check that
was put off, and the entry with its recorded GENs. One that has recorded its GENs compares them instead, and no check that it has passed is made again.
DESIGN CHOICE (log 78): a bank whose GEN is unchanged but whose load has failed since gives DATA 18. -/
def State.matStart (s : State) (g : Nat) (c : MatCmd) (o : MatOp) : Except FaultRec RingEntry :=
  let e := c.entry
  let u := s.mat g
  let bad := fun d : Nat => Except.error (FaultRec.mk0 cOperand d e.pc.toNat)
  let others := (c.members.filter (· != g)).map fun m => (s.mat m).checkBanks o e
  let mine := u.checkBanks o e
  let same := match mine with
    | .ok (t :: _) => others.all fun r => match r with | .ok (t' :: _) => t'.fmt == t.fmt && t'.sc == t.sc | _ => false
    | _ => others.isEmpty
  if (match e.passed with | some p => p.2 | none => false) then
    if u.gens o ≠ (e.gen0, e.gen1) then bad 20
    else if o.banks.any fun k => (u.bank k).tile.isNone then bad 18
    else if !same then bad 21
    else .ok e
  else
    match mine with
    | .error d => bad d
    | .ok ts =>
      if !same then bad 21
      else
        let cls := match ts with | t :: _ => matClass (e.pfx.fa.getD t.fmt) | [] => 0
        match (if e.passed == some (cls, false) then none else firstFault (shapeFaults o e cls)) with
        | some f => .error f
        | none => .ok { e with gen0 := (u.gens o).1, gen1 := (u.gens o).2, passed := some (cls, true) }

/-- The rows of step g of a command. -/
def stepRows (e : RingEntry) (g : Nat) : List Nat := (List.range (min 16 (matM e - 16 * g))).map fun i => 16 * g + i

/-- Read the A rows of a step, lowest row first (R208). -/
def State.readRows (s : State) (unit grove core : Nat) (e : RingEntry) (len : Nat) (ms : List Nat) :
    State × Except FaultRec (List (List Byte)) :=
  match ms with
  | [] => (s, .ok [])
  | m :: rest =>
    match s.matRead unit grove core e.sb (e.xb.toNat + m * matAS e) len with
    | (s1, .error f) => (s1, .error f)
    | (s1, .ok bs) =>
      match s1.readRows unit grove core e len rest with
      | (s2, .error f) => (s2, .error f)
      | (s2, .ok more) => (s2, .ok (bs :: more))

/-- The tiles that a command computes with: those of its banks, or those that its target unit has loaded. -/
def State.matTiles (s : State) (g : Nat) (c : MatCmd) (o : MatOp) : List Tile :=
  if c.moved.isSome then c.tiles else o.banks.filterMap fun k => ((s.mat g).bank k).tile

/-- The C words of a step in one grove, by offset in its banks (R208, R209). -/
def State.stepWords (s : State) (g : Nat) (e : RingEntry) (zc : Bool) (pr : Bool) (ts : List Tile) (step : Nat)
    (rows : List (List Byte)) : List (Nat × BitVec 32) :=
  let tf := match ts with | t :: _ => t.fmt | [] => .bf16
  let fa := e.pfx.fa.getD tf
  let n := matCols (matClass tf) pr
  ((stepRows e step).zip rows).flatMap fun q =>
    let a := aElems fa e.pfx.ka (aRowLen (matClass fa)) q.2
    let at_ := fun k : Nat => e.sa.base + e.xa.toNat + 4 * (q.1 * matCS e + k)
    let cold := fun k : Nat => if zc then 0#32 else BitVec.ofNat 32 (leNat (s.bankBytes g (at_ k) 4))
    (List.range n).map fun k => (at_ k, matRow ts fa a cold k)

/-- Bad data among the old C words that a step reads in a grove (R179, R217): the state with its machine check, and the fault at its own address. -/
def State.badC (s : State) (g core : Nat) (e : RingEntry) (o : MatOp) (ts : List Tile) (step : Nat) : Option (State × FaultRec) :=
  if o.zc then none
  else
    let n := matCols (match ts with | t :: _ => matClass t.fmt | [] => 0) o.pr
    let offs := (stepRows e step).flatMap fun m => (List.range n).map fun k => e.xa.toNat + 4 * (m * matCS e + k)
    match offs.find? fun off => s.badBank g (e.sa.base + off) 4 with
    | some off => some (s.reportBank g (e.sa.base + off) core, uncorr e.sa off 1 false)
    | none => none

/-- Write C words into a grove's banks. -/
def State.writeWords (s : State) (g : Nat) (ws : List (Nat × BitVec 32)) : State :=
  ws.foldl (fun (t : State) w => t.bankWrite g w.1 (leBytes 4 w.2.toNat)) s

/-- The bytes of an A row under the command's format. -/
def State.rowLen (s : State) (g : Nat) (c : MatCmd) (o : MatOp) : Nat :=
  let tf := match s.matTiles g c o with | t :: _ => t.fmt | [] => .bf16
  aRowLen (matClass (c.entry.pfx.fa.getD tf)) + (if c.entry.pfx.ka then 8 else 0)

/-- Number of steps of a command. -/
def stepCount (e : RingEntry) : Nat := (matM e + 15) / 16

/-- The banks that a command computes with in a unit: its own, or those that its target has lent it (R214). -/
def MatCmd.inBanks (c : MatCmd) (o : MatOp) : List Nat :=
  match c.moved with
  | some (_, k) => if o.pr then [k, k + 1] else [k]
  | none => o.banks

/-- Bad data in one of some banks of a unit faults at the step that reads it (R179, R217); a bank has no address. -/
def State.badCim (s : State) (unit core : Nat) (ks : List Nat) (e : RingEntry) : Option (State × FaultRec) :=
  match ks.find? fun k => s.badSram.contains (.bank unit k) with
  | some k => some (s.machineCheck (groveDie unit) 1 1 0 k (unit % 256) (coreInGrove core), FaultRec.mk0 cUncorr 1 e.pc.toNat)
  | none => none

/-- One step of an `mmac` in a unit (R208, R214): the checks before its first step, the A rows, the products, C, and after the last
step the completion. `unit` is where it runs, `g` its home. -/
def State.runStep (s : State) (unit g : Nat) (c : MatCmd) (o : MatOp) : State :=
  let begun : Except FaultRec (State × MatCmd) :=
    if c.started then .ok (s, c)
    else match s.matStart g c o with
      | .error f => .error f
      | .ok e => .ok (s.commandAcquire c.core (acqScope o.cmd.ord), { c with started := true, entry := e })
  match begun with
  | .error f => s.matFail g c o f
  | .ok (s0, c0) =>
    match s0.badCim unit c.core (c0.inBanks o) c0.entry, s0.readRows unit g c.core c0.entry (s0.rowLen g c0 o) (stepRows c0.entry c0.g) with
    | _, (s1, .error f) => s1.matFail g c0 o f
    | some (s1, f), _ => s1.matFail g c0 o f
    | none, (s1, .ok rows) =>
      match s1.badC g c.core c0.entry o (s1.matTiles g c0 o) c0.g with
      | some (s2, f) => s2.matFail g c0 o f
      | none =>
        let ws := s1.stepWords g c0.entry o.zc o.pr (s1.matTiles g c0 o) c0.g rows
        let s2 := (s1.writeWords g ws).count c.core (s.atSystem c.cid) 8 rows.length
        let c1 := { c0 with g := c0.g + 1, since := none }
        if stepCount c0.entry ≤ c0.g + 1 then s2.matEnd g c1 o else s2.setMatCmd g c.stamp (some c1)

/-- One strip of a step of a cooperative command in a member unit (R209): the first strip of a step reads the A rows, and the fourth
commits the step in all four groves. DESIGN CHOICE (log 85): the rows are counted then (R102 event 8), once, at the issuing core. -/
def State.runStrip (s : State) (unit g : Nat) (c : MatCmd) (o : MatOp) : State :=
  let begun : Except FaultRec (State × MatCmd) :=
    if c.started then .ok (s, c)
    else match s.matStart g c o with
      | .error f => .error f
      | .ok e => .ok (s.commandAcquire c.core (acqScope o.cmd.ord), { c with started := true, entry := e })
  match begun with
  | .error f => s.matFail g c o f
  | .ok (s0, c0) =>
    let got := match c0.rows with
      | some rows => (s0, Except.ok rows)
      | none => s0.readRows g g c.core c0.entry (s0.rowLen g c0 o) (stepRows c0.entry c0.g)
    match s0.badCim unit c.core o.banks c0.entry, got with
    | _, (s1, .error f) => s1.matFail g c0 o f
    | some (s1, f), _ => s1.matFail g c0 o f
    | none, (s1, .ok rows) =>
      let ts := o.banks.filterMap fun k => ((s1.mat unit).bank k).tile
      match s1.badC unit c.core c0.entry o ts c0.g with
      | some (s2, f) => s2.matFail g c0 o f
      | none =>
        let ws := s1.stepWords unit c0.entry o.zc o.pr ts c0.g rows
        let c1 := { c0 with rows := some rows, strips := c0.strips ++ [{ grove := unit, words := ws }] }
        if c1.strips.length < 4 then s1.setMatCmd g c.stamp (some c1)
        else
          let s2 := (c1.strips.foldl (fun (t : State) p => t.writeWords p.grove p.words) s1).count c.core (s.atSystem c.cid) 8 rows.length
          let c2 := { c1 with g := c0.g + 1, rows := none, strips := [] }
          if stepCount c0.entry ≤ c0.g + 1 then s2.matEnd g c2 o else s2.setMatCmd g c.stamp (some c2)

/-- The command of an arbiter's requester (R210, R211, R214): core 0 to 7, the cooperative slot, a guest; with its home grove. -/
def State.requester (s : State) (g r : Nat) : Option (Nat × MatCmd) :=
  let u := s.mat g
  if r < 8 then ((u.ofCore (g * 8 + r)).head?).map fun c => (g, c)
  else
    match (if r = 8 then u.coop else u.guest) with
    | some (h, st) => (s.matCmd? h st).map fun c => (h, c)
    | none => none

/-- Is a requester ready (R211)? -/
def State.requesterReady (s : State) (g r : Nat) : Bool :=
  match s.requester g r with
  | none => false
  | some (h, c) =>
    if r < 8 then s.matReady g c
    else if r = 8 then s.stripReady g c
    else !c.tiles.isEmpty && (match matOp? c.entry.instr with | some o => !(s.mat h).bankWait c.stamp o.banks | none => false)

/-- Does the pointed requester's turn go on (R211)? -/
def State.turnLasts (s : State) (g : Nat) : Bool :=
  let u := s.mat g
  !u.spent && decide (0 < u.used) && s.requesterReady g u.ptr &&
    (match s.requester g u.ptr with
     | some (_, c) => decide (u.used < c.entry.wgt.toNat)
     | none => false)

/-- The requester that the arbiter serves (R211): the pointed one while its turn lasts, else the next ready one in order, the pointed one
last where its turn has ended. -/
def State.chosen (s : State) (g : Nat) : Option Nat :=
  let u := s.mat g
  if s.turnLasts g then some u.ptr
  else
    let from_ := if u.used = 0 then u.ptr else u.ptr + 1
    ((List.range 10).map fun i => (from_ + i) % 10).find? fun r => s.requesterReady g r

/-- After a step the turn has ended when its command has stopped, or cannot start its next step (R211). -/
def State.noteTurn (s : State) (g r home stamp : Nat) : State :=
  let still := match s.requester g r with | some (h, c) => h == home && c.stamp == stamp && s.requesterReady g r | none => false
  s.setMat g { s.mat g with spent := !still }

/-- One step in a matrix unit (R208, R211). -/
def State.matStepRun (s : State) (g : Nat) : State :=
  match s.chosen g with
  | none => s
  | some r =>
    match s.requester g r with
    | none => s
    | some (h, c) =>
      match matOp? c.entry.instr with
      | none => s
      | some o =>
        let s0 := s.setMat g { s.mat g with
          ptr := r, used := (if s.turnLasts g then (s.mat g).used else 0) + 1, spent := false, busy := s.now }
        ((if o.coop then s0.runStrip g h c o else s0.runStep g h c o).noteReady g).noteTurn g r h c.stamp

/-- `MATRIX_STEP` (R208). -/
def execMatrixStep (grove : Nat) (s : State) : Out := .next (s.matStepRun grove)

/-- A cooperative command at the head of its core's queue claims the next of its slots, in ascending grove number (R210). -/
def State.claimSlot (s : State) (g core : Nat) : State :=
  match ((s.mat g).ofCore core).head? with
  | none => s
  | some c =>
    match c.members[c.slots.length]? with
    | none => s
    | some m =>
      if (s.mat m).coop.isSome then s
      else (s.setMat m { s.mat m with coop := some (g, c.stamp) }).setMatCmd g c.stamp (some { c with slots := c.slots ++ [m] })

/-- `COOP_SLOT_CLAIM` (R210). -/
def execCoopSlotClaim (grove core : Nat) (s : State) : Out := .next (s.claimSlot grove core)

/-- Mesh neighbours of a grove on its die, in ascending number (R10). -/
def neighbours (g : Nat) : List Nat :=
  let x := g % 16
  let y := g / 16 % 16
  (if 0 < y then [g - 16] else []) ++ (if 0 < x then [g - 1] else []) ++ (if x < 15 then [g + 1] else []) ++
    (if y < 15 then [g + 16] else [])

/-- Does a bank have a source of kind `global` or `tier`? -/
def Bank.homed (b : Bank) : Bool :=
  match b.src with
  | some q => q.desc.kind == kGlobal || q.desc.kind == kTier
  | none => false

/-- May a bank be lent (R213)? -/
def MatUnit.lendable (u : MatUnit) (k : Nat) : Bool :=
  let b := u.bank k
  decide (k < 4) && !b.lent && (b.tile.isNone || b.homed) &&
    !(u.queue.any fun c => match matOp? c.entry.instr with | some o => o.banks.contains k | none => false)

/-- Has a unit been idle, and can it lend from a bank (R213)? -/
def State.takesGuest (s : State) (t : Nat) (pr : Bool) (k : Nat) : Bool :=
  let u := s.mat t
  u.queue.isEmpty && u.coop.isNone && u.guest.isNone && decide (u.busy + 256 ≤ s.now) && u.lendable k &&
    (!pr || (k % 2 == 0 && u.lendable (k + 1)))

/-- A command that has been ready for 2,048 cycles moves to the lowest neighbour that qualifies (R213, R214). -/
def State.migrate (s : State) (g core target bank : Nat) : State :=
  match ((s.mat g).ofCore core).head? with
  | none => s
  | some c =>
    match matOp? c.entry.instr with
    | none => s
    | some o =>
      let waited := match c.since with | some t => decide (t + 2048 ≤ s.now) | none => false
      let first := (neighbours g).find? fun t => [0, 1, 2, 3].any fun k => s.takesGuest t o.pr k
      if o.pin || o.coop || c.started || c.fixed || decide (0 < c.g) || !waited || !s.matReady g c ||
          !(o.banks.all fun k => ((s.mat g).bank k).homed) || first != some target || !s.takesGuest target o.pr bank then s
      else
        let u := s.mat target
        let lent := (if o.pr then [bank, bank + 1] else [bank]).foldl (fun (v : MatUnit) k => v.setBank k { v.bank k with lent := true }) u
        (s.setMat target { lent with guest := some (g, c.stamp) }).setMatCmd g c.stamp (some { c with moved := some (target, bank) })

/-- `MATRIX_MIGRATION` (R213). -/
def execMatrixMigration (grove core target bank : Nat) (s : State) : Out := .next (s.migrate grove core target bank)

/-- The target's load of a migrated command's tiles ends (R214): what was bad in the lent banks is gone (R179). On a failure the command goes back and never moves again. -/
def State.guestLoad (s : State) (target : Nat) : State :=
  match (s.mat target).guest with
  | none => s
  | some (g, st) =>
    match s.matCmd? g st with
    | none => s
    | some c =>
      match matOp? c.entry.instr with
      | none => s
      | some o =>
        if !c.tiles.isEmpty then s
        else
          let srcs := o.banks.filterMap fun k => ((s.mat g).bank k).src
          let r := srcs.foldl (fun (acc : State × Except FaultRec (List Tile)) q =>
            match acc.2 with
            | .error _ => acc
            | .ok ts =>
              match acc.1.readTile target g c.core q with
              | (u, .ok t) => (u, .ok (ts ++ [t]))
              | (u, .error f) => (u, .error f)) (s, .ok [])
          match r with
          | (s1, .ok ts) =>
            ({ s1 with badSram := s1.badSram.filter fun p => !((c.inBanks o).any fun k => p == SramSite.bank target k) } : State).setMatCmd g st
              (some { c with tiles := ts })
          | (s1, .error _) =>
            ((s1.setMat target { s1.mat target with guest := none }).setMatCmd g st
              (some { c with moved := none, tiles := [], fixed := true, since := none })).noteReady g

/-- `MIGRATION_LOAD_COMPLETE` (R214). -/
def execMigrationLoadComplete (target : Nat) (s : State) : Out := .next (s.guestLoad target)

/-- Is the earliest command of a unit that names a bank a load of it (R216)? -/
def State.loadAims (s : State) (g k : Nat) : Bool :=
  let u := s.mat g
  let coop := match u.coop with | some (h, st) => (s.matCmd? h st).toList | none => []
  let named := (u.queue ++ coop).filter fun c => match matOp? c.entry.instr with | some o => o.banks.contains k | none => false
  match named.foldl (fun (m : Option MatCmd) c => match m with | some x => if x.stamp ≤ c.stamp then m else some c | none => some c) none with
  | some c => (match matOp? c.entry.instr with | some o => o.load.isSome | none => false)
  | none => false

/-- A lent bank is restored once its guest has gone (R216). One at which a load is aimed needs no restore; its tile has gone with the loan. DESIGN
CHOICE (log 90): a restore reads as core 0 of its grove, and the record of one that fails has CODE 0. -/
def State.restoreBank (s : State) (g k : Nat) : State :=
  let u := s.mat g
  let b := u.bank k
  if !b.lent || u.guest.isSome then s
  else
    match b.tile, (if s.loadAims g k then none else b.src) with
    | some _, some src =>
      (match s.readTile g g (g * 8) src with
       | (s1, .ok t) => (s1.fillBank g k { b with tile := some t, gen := b.gen + 1, lent := false }).noteReady g
       | (s1, .error _) =>
         ((s1.setMat g ((s1.mat g).setBank k { b with tile := none, lent := false })).logEngine (groveDie g) 5 0 k (g % 256) 0).noteReady g)
    | _, _ => (s.setMat g (u.setBank k { b with tile := none, lent := false })).noteReady g

/-- `BANK_RESTORE` (R216). -/
def execBankRestore (grove bank : Nat) (s : State) : Out := .next (s.restoreBank grove bank)

end Sys2Proof.Machine
end

