-- ==== Sys2Proof/Machine/System.lean ====
section
/-! DEFINITION. System instructions (R82, R130 to R135): `nop`, `crd`, `cwr`, `sys`, `brk`, `fmt`, and the control registers of
R95 to R102. -/

namespace Sys2Proof.Machine

open Sys2Proof

/-- Is a control register marked S (R95)? -/
def cregSys (r : Creg) : Bool :=
  match r with
  | .epc | .esta | .epfx | .tvec | .imgbase | .rways | .lpool => true
  | _ => false

/-- Is a control register all RO (R95)? -/
def cregRo (r : Creg) : Bool :=
  match r with
  | .pfx | .coreid | .groveid | .dieid | .devid | .epid | .ringhead | .faultinfo | .fva | .fsq | .imgbase | .isaver | .cyc =>
    true
  | _ => false

/-- The endpoint number of a core within the fabric: devid:die:grove:core (R95, R327). -/
def State.endpoint (s : State) (k : Nat) : Nat :=
  s.devid.toNat * 16384 + coreDie k * 2048 + (if isService k then 0 else coreGrove k % 256) * 8 + coreInGrove k

/-- `ringhead` (R101). -/
def ringheadWord (next : BitVec 16) (ring : List RingEntry) : Word :=
  let oldest := match ring with | [] => next | e :: _ => e.seq
  BitVec.ofNat 64 (ring.length * 2 ^ 32 + oldest.toNat * 2 ^ 16 + next.toNat)

/-- The value of a control register for a context on a core (R95 to R102, R131). -/
def State.readCreg (s : State) (k cid : Nat) (c : Ctx) (r : Creg) : Word :=
  match r with
  | .status => c.img.status
  | .pfx => c.img.pfx
  | .fpflags => c.img.fpflags
  | .coreid => BitVec.ofNat 64 (coreInGrove k + (if isService k then 8 else 0))
  | .groveid => BitVec.ofNat 64 (if isService k then 0 else coreGrove k % 256)
  | .dieid => BitVec.ofNat 64 (coreDie k)
  | .devid => s.devid.setWidth 64
  | .epid => BitVec.ofNat 64 (ctxTag cid * 2 ^ 32 + s.incarnation.toNat * 2 ^ 28 + s.endpoint k)
  | .ringhead => ringheadWord (s.core k).next c.ring
  | .faultinfo => c.img.faultinfo
  | .fva => c.img.fva
  | .fsq => c.img.fsq
  | .epc => c.img.epc
  | .esta => c.img.esta
  | .epfx => c.img.epfx
  | .tvec => (s.die (coreDie k)).tvec
  | .imgbase => if isService k then 0 else BitVec.ofNat 64 ((s.die (coreDie k)).imgBase + 8192 * ctxTag cid)
  | .mwgt => c.img.mwgt
  | .rways => (s.die (coreDie k)).rways
  | .isaver => 1
  | .lpool => if isService k then 256 else (s.grove (coreGrove k)).lpool
  | .cyc => BitVec.ofNat 64 s.now
  | .pmc n => (s.core k).pmc[n.toNat]
  | .pmsel n => (s.core k).pmsel[n.toNat]

/-- Does a write of a control register pass checks 3 and 4 of R132: no 1 in a reserved bit, and every field in range (R96 to
R102)? -/
def cregAccepts (r : Creg) (w : Word) : Bool :=
  match r with
  | .status | .esta => w.extractLsb' 11 53 == 0#53
  | .fpflags => w.extractLsb' 5 59 == 0#59
  | .epc => w.extractLsb' 56 8 == 0#8
  | .epfx => w.extractLsb' 24 40 == 0#40
  | .tvec => w.extractLsb' 56 8 == 0#8 && w.extractLsb' 0 2 == 0#2
  | .mwgt => w.extractLsb' 4 60 == 0#60 && w != 0
  | .rways => w.extractLsb' 4 60 == 0#60 && decide (w.toNat ≤ 8)
  | .lpool => w.extractLsb' 9 55 == 0#55 && decide (w.toNat ≤ 256)
  | .pmsel _ => w.extractLsb' 9 55 == 0#55 && decide (w.toNat % 256 ≤ 8)
  | _ => true

/-- A write of `status` changes RM and DUO only (R97). -/
def writeStatus (old w : Word) : Word := (old &&& ~~~(0xB#64)) ||| (w &&& 0xB#64)

/-- The contexts of a die whose trap entry failed may be ready again (R396). -/
def State.unparkDie (s : State) (d : Nat) : State :=
  let hit := (s.ctxs.filter fun p => p.2.parked && (match p.2.core? with | some k => coreDie k == d | none => ctxDie p.1 == d))
  let s1 := hit.foldl (fun (t : State) p => t.updCtx p.1 fun c => { c with parked := false }) s
  hit.foldl (fun (t : State) p => t.wakeCtx p.1) s1

/-- The write of a control register that has passed its checks (R97 to R102, R132, R168): the state and the image. -/
def State.writeCreg (s : State) (k : Nat) (m : Image) (r : Creg) (w : Word) : State × Image :=
  let d := coreDie k
  match r with
  | .status => (s, { m with status := writeStatus m.status w })
  | .fpflags => (s, { m with fpflags := w })
  | .epc => (s, { m with epc := w })
  | .esta => (s, { m with esta := w })
  | .epfx => (s, { m with epfx := w })
  | .mwgt => (s, { m with mwgt := w })
  | .tvec => ((s.setDie d { s.die d with tvec := w }).unparkDie d, m)
  | .rways => (s.setDie d { s.die d with rways := w, rwaysPend := some ((match (s.die d).rwaysPend with
      | some p => p.1 | none => (s.die d).rways.toNat % 16), s.sync) }, m)
  | .lpool =>
    if isService k then (s, m)
    else
      let g := coreGrove k
      ((s.setGrove g { s.grove g with lpool := w }).grantClaims g, m)
  | .pmc n =>
    let c := s.core k
    let sel := c.pmsel[n.toNat]
    let own := sel.toNat % 256 == 2 && (!m.prv || sel.getLsbD 8)
    (s.setCore k { c with pmc := c.pmc.set n.toNat (if own then w - 1 else w) }, m)
  | .pmsel n => (s.setCore k { s.core k with pmsel := (s.core k).pmsel.set n.toNat w }, m)
  | _ => (s, m)

/-- `nop` (R130). -/
def execNop (s : State) : Out := runRegs false [] (fun m => .ok (m.next 4)) s

/-- `crd` (R131): `fpflags` is read after every older ring entry has ended (R37). -/
def execCrd (d : Reg) (r : Creg) (s : State) : Out :=
  runInstr (cregSys r) noPrefix [d]
    (fun s cid c =>
      if r == .fpflags && !c.ring.isEmpty then .stall s
      else .done s ((c.img.setX d (s.readCreg s.here cid c r)).next 4)) s

/-- `cwr` (R132): privilege, an all-RO register, a reserved bit or a field out of range, then the write. -/
def execCwr (r : Creg) (a : Reg) (s : State) : Out :=
  runInstr (cregSys r) noPrefix [a]
    (fun s _ c =>
      let w := c.img.getX a
      if cregRo r || !cregAccepts r w then .trap s (operandFault c.img 0)
      else if r == .fpflags && !c.ring.isEmpty then .stall s
      else
        let t := s.writeCreg s.here c.img r w
        .done t.1 (t.2.next 4)) s

/-- `sys n` (R134): commits, then the system-call trap with `epc` at the next instruction. -/
def execSys (n : BitVec 15) (s : State) : Out :=
  runInstr false noPrefix []
    (fun s _ c => .after s (c.img.next 4) (FaultRec.mk0 cSys n.toNat c.img.pc.toNat)) s

/-- `brk n` (R135): the breakpoint trap, uncommitted. -/
def execBrk (n : BitVec 15) (s : State) : Out :=
  runInstr false noPrefix []
    (fun s _ c => .trap s (FaultRec.mk0 cBrk n.toNat c.img.pc.toNat)) s

/-- `fmt` (R82): the payload into `pfx`, and `status.PP`. A second `fmt` is an illegal-prefix fault (R83). -/
def execFmt (p : Prefix) (s : State) : Out :=
  runRegs false [] (fun m => .ok (({ m with pfx := p.payload.setWidth 64 }.setPp true).next 4)) s

end Sys2Proof.Machine
end

