-- ==== Sys2Proof/Machine/Uses.lean ====
section
/-! DEFINITION. The register cache (R92, R103): the image lines that an instruction uses, and how a core comes to hold them. -/

namespace Sys2Proof.Machine

open Sys2Proof

/-- The x registers that an instruction of the core names. What a ring instruction names stands in `ringRegs`. -/
def coreRegs (i : Instr) : List Reg :=
  match i with
  | .add d a b => [d, a, b]
  | .sub d a b => [d, a, b]
  | .mul d a b => [d, a, b]
  | .mulh d a b => [d, a, b]
  | .mulhn d a b => [d, a, b]
  | .div d a b => [d, a, b]
  | .divn d a b => [d, a, b]
  | .rem d a b => [d, a, b]
  | .remn d a b => [d, a, b]
  | .and_ d a b => [d, a, b]
  | .or_ d a b => [d, a, b]
  | .xor_ d a b => [d, a, b]
  | .andn d a b => [d, a, b]
  | .sll d a b => [d, a, b]
  | .srl d a b => [d, a, b]
  | .sra d a b => [d, a, b]
  | .rol d a b => [d, a, b]
  | .ror d a b => [d, a, b]
  | .min_ d a b => [d, a, b]
  | .max_ d a b => [d, a, b]
  | .minn d a b => [d, a, b]
  | .maxn d a b => [d, a, b]
  | .clz d a => [d, a]
  | .ctz d a => [d, a]
  | .popc d a => [d, a]
  | .setCc _ d a b => [d, a, b]
  | .ext d a _ _ => [d, a]
  | .extn d a _ _ => [d, a]
  | .ins d a _ _ => [d, a]
  | .sel d a b c => [d, a, b, c]
  | .addImm d a _ => [d, a]
  | .andImm d a _ => [d, a]
  | .orImm d a _ => [d, a]
  | .xorImm d a _ => [d, a]
  | .sllImm d a _ => [d, a]
  | .srlImm d a _ => [d, a]
  | .sraImm d a _ => [d, a]
  | .mulImm d a _ => [d, a]
  | .addImmQ d a _ => [d, a]
  | .andImmQ d a _ => [d, a]
  | .orImmQ d a _ => [d, a]
  | .xorImmQ d a _ => [d, a]
  | .sllImmQ d a _ => [d, a]
  | .srlImmQ d a _ => [d, a]
  | .sraImmQ d a _ => [d, a]
  | .mulImmQ d a _ => [d, a]
  | .li d _ => [d]
  | .liQ d _ => [d]
  | .lih d _ => [d]
  | .lpc d _ => [d]
  | .lpcQ d _ => [d]
  | .bCc _ a b _ => [a, b]
  | .bCcQ _ a b _ => [a, b]
  | .jal d _ => [d]
  | .jalQ d _ => [d]
  | .loop a _ => [a]
  | .loopQ a _ => [a]
  | .jr d a => [d, a]
  | .fadd d a b => [d, a, b]
  | .fsub d a b => [d, a, b]
  | .fmul d a b => [d, a, b]
  | .fdiv d a b => [d, a, b]
  | .fsqrt d a => [d, a]
  | .fmin d a b => [d, a, b]
  | .fmax d a b => [d, a, b]
  | .fsgn d a b => [d, a, b]
  | .fsgnn d a b => [d, a, b]
  | .fsgnx d a b => [d, a, b]
  | .fcmpCc _ d a b => [d, a, b]
  | .fcvtI32F32 d a => [d, a]
  | .fcvtN32F32 d a => [d, a]
  | .fcvtI64F32 d a => [d, a]
  | .fcvtN64F32 d a => [d, a]
  | .fcvtF32I32 d a => [d, a]
  | .fcvtF32N32 d a => [d, a]
  | .fcvtF32I64 d a => [d, a]
  | .fcvtF32N64 d a => [d, a]
  | .fma d a b c => [d, a, b, c]
  | .crd d _ => [d]
  | .cwr _ a => [a]
  | .ldI8 d xo _ _ => [d, xo]
  | .ldN8 d xo _ _ => [d, xo]
  | .ldI16 d xo _ _ => [d, xo]
  | .ldN16 d xo _ _ => [d, xo]
  | .ldI32 d xo _ _ => [d, xo]
  | .ldN32 d xo _ _ => [d, xo]
  | .ldI64 d xo _ _ => [d, xo]
  | .lea d xo _ _ => [d, xo]
  | .ldI8Mk d xo _ _ _ _ => [d, xo]
  | .ldN8Mk d xo _ _ _ _ => [d, xo]
  | .ldI16Mk d xo _ _ _ _ => [d, xo]
  | .ldN16Mk d xo _ _ _ _ => [d, xo]
  | .ldI32Mk d xo _ _ _ _ => [d, xo]
  | .ldN32Mk d xo _ _ _ _ => [d, xo]
  | .ldI64Mk d xo _ _ _ _ => [d, xo]
  | .leaMk d xo _ _ => [d, xo]
  | .ldI8Mkl d xo _ _ _ _ => [d, xo]
  | .ldN8Mkl d xo _ _ _ _ => [d, xo]
  | .ldI16Mkl d xo _ _ _ _ => [d, xo]
  | .ldN16Mkl d xo _ _ _ _ => [d, xo]
  | .ldI32Mkl d xo _ _ _ _ => [d, xo]
  | .ldN32Mkl d xo _ _ _ _ => [d, xo]
  | .ldI64Mkl d xo _ _ _ _ => [d, xo]
  | .leaMkl d xo _ _ => [d, xo]
  | .stI8 d xo _ _ => [d, xo]
  | .stI16 d xo _ _ => [d, xo]
  | .stI32 d xo _ _ => [d, xo]
  | .stI64 d xo _ _ => [d, xo]
  | .stI8Mk d xo _ _ _ => [d, xo]
  | .stI16Mk d xo _ _ _ => [d, xo]
  | .stI32Mk d xo _ _ _ => [d, xo]
  | .stI64Mk d xo _ _ _ => [d, xo]
  | .stI8Mkl d xo _ _ _ => [d, xo]
  | .stI16Mkl d xo _ _ _ => [d, xo]
  | .stI32Mkl d xo _ _ _ => [d, xo]
  | .stI64Mkl d xo _ _ _ => [d, xo]
  | .amoAdd _ d xo b _ _ _ _ _ => [d, xo, b]
  | .amoAnd _ d xo b _ _ _ _ _ => [d, xo, b]
  | .amoOr _ d xo b _ _ _ _ _ => [d, xo, b]
  | .amoXor _ d xo b _ _ _ _ _ => [d, xo, b]
  | .amoMin _ d xo b _ _ _ _ _ => [d, xo, b]
  | .amoMax _ d xo b _ _ _ _ _ => [d, xo, b]
  | .amoMinn _ d xo b _ _ _ _ _ => [d, xo, b]
  | .amoMaxn _ d xo b _ _ _ _ _ => [d, xo, b]
  | .amoSwap _ d xo b _ _ _ _ _ => [d, xo, b]
  | .amoCas _ d xo b _ _ _ _ _ => [d, xo, b]
  | .amoFadd d xo b _ _ _ _ _ => [d, xo, b]
  | .amoFmin d xo b _ _ _ _ _ => [d, xo, b]
  | .amoFmax d xo b _ _ _ _ _ => [d, xo, b]
  | .waita _ d xo b _ _ _ => [d, xo, b]
  | .cinv d xo b _ _ => [d, xo, b]
  | .cwb xo b _ _ => [xo, b]
  | .cflush xo b _ _ => [xo, b]
  | .cpref xo b _ _ => [xo, b]
  | .rnew d a c _ _ => [d, a, c]
  | .rdel b c => [b, c]
  | .rld a b c _ _ => [a, b, c]
  | .rst d a b c _ _ => [d, a, b, c]
  | .rloc d b c => [d, b, c]
  | .qbox d a b c _ _ => [d, a, b, c]
  | .qrad d a b c _ _ => [d, a, b, c]
  | .gld d a b c _ _ => [d, a, b, c]
  | .gst d a b c _ _ => [d, a, b, c]
  | .gstep c _ => [c]
  | .put k => [k.d, k.a, k.b, k.c]
  | .get k => [k.d, k.a, k.b, k.c]
  | .msg d a b c => [d, a, b, c]
  | .recv d a _ _ => [d, a]
  | .pub d a b c _ _ _ => [d, a, b, c]
  | .rblk d => [d]
  | .rblkSet a b => [a, b]
  | .baddq _ a b c _ _ => [a, b, c]
  | .sset a _ _ => [a]
  | .ssetT a _ _ => [a]
  | .tlbinv _ d a b c => [d, a, b, c]
  | .gtw a _ _ => [a]
  | .pbind _ a _ _ => [a]
  | .crange _ a b _ => [a, b]
  | .spawn d a _ _ => [d, a]
  | .iupd d a b _ => [d, a, b]
  | .ird d a _ => [d, a]
  | .bar a => [a]
  | .sstep d a => [d, a]
  | .dset d a b => [d, a, b]
  | .ddec d a b => [d, a, b]
  | _ => []

/-- The slots that an instruction of the core names. What a ring instruction names stands in `ringForm`. -/
def coreSlots (i : Instr) : List Slot :=
  match i with
  | .ldI8 _ _ seg _ => [seg]
  | .ldN8 _ _ seg _ => [seg]
  | .ldI16 _ _ seg _ => [seg]
  | .ldN16 _ _ seg _ => [seg]
  | .ldI32 _ _ seg _ => [seg]
  | .ldN32 _ _ seg _ => [seg]
  | .ldI64 _ _ seg _ => [seg]
  | .lea _ _ seg _ => [seg]
  | .ldI8Mk _ _ seg _ _ _ => [seg]
  | .ldN8Mk _ _ seg _ _ _ => [seg]
  | .ldI16Mk _ _ seg _ _ _ => [seg]
  | .ldN16Mk _ _ seg _ _ _ => [seg]
  | .ldI32Mk _ _ seg _ _ _ => [seg]
  | .ldN32Mk _ _ seg _ _ _ => [seg]
  | .ldI64Mk _ _ seg _ _ _ => [seg]
  | .leaMk _ _ seg _ => [seg]
  | .ldI8Mkl _ _ seg _ _ _ => [seg]
  | .ldN8Mkl _ _ seg _ _ _ => [seg]
  | .ldI16Mkl _ _ seg _ _ _ => [seg]
  | .ldN16Mkl _ _ seg _ _ _ => [seg]
  | .ldI32Mkl _ _ seg _ _ _ => [seg]
  | .ldN32Mkl _ _ seg _ _ _ => [seg]
  | .ldI64Mkl _ _ seg _ _ _ => [seg]
  | .leaMkl _ _ seg _ => [seg]
  | .stI8 _ _ seg _ => [seg]
  | .stI16 _ _ seg _ => [seg]
  | .stI32 _ _ seg _ => [seg]
  | .stI64 _ _ seg _ => [seg]
  | .stI8Mk _ _ seg _ _ => [seg]
  | .stI16Mk _ _ seg _ _ => [seg]
  | .stI32Mk _ _ seg _ _ => [seg]
  | .stI64Mk _ _ seg _ _ => [seg]
  | .stI8Mkl _ _ seg _ _ => [seg]
  | .stI16Mkl _ _ seg _ _ => [seg]
  | .stI32Mkl _ _ seg _ _ => [seg]
  | .stI64Mkl _ _ seg _ _ => [seg]
  | .amoAdd _ _ _ _ seg _ _ _ _ => [seg]
  | .amoAnd _ _ _ _ seg _ _ _ _ => [seg]
  | .amoOr _ _ _ _ seg _ _ _ _ => [seg]
  | .amoXor _ _ _ _ seg _ _ _ _ => [seg]
  | .amoMin _ _ _ _ seg _ _ _ _ => [seg]
  | .amoMax _ _ _ _ seg _ _ _ _ => [seg]
  | .amoMinn _ _ _ _ seg _ _ _ _ => [seg]
  | .amoMaxn _ _ _ _ seg _ _ _ _ => [seg]
  | .amoSwap _ _ _ _ seg _ _ _ _ => [seg]
  | .amoCas _ _ _ _ seg _ _ _ _ => [seg]
  | .amoFadd _ _ _ seg _ _ _ _ => [seg]
  | .amoFmin _ _ _ seg _ _ _ _ => [seg]
  | .amoFmax _ _ _ seg _ _ _ _ => [seg]
  | .waita _ _ _ _ seg _ _ => [seg]
  | .cinv _ _ _ seg _ => [seg]
  | .cwb _ _ seg _ => [seg]
  | .cflush _ _ seg _ => [seg]
  | .cpref _ _ seg _ => [seg]
  | .rnew _ _ _ sa _ => [sa]
  | .rld _ _ _ sa _ => [sa]
  | .rst _ _ _ _ sa _ => [sa]
  | .qbox _ _ _ _ sa _ => [sa]
  | .qrad _ _ _ _ sa _ => [sa]
  | .gld _ _ _ _ sa _ => [sa]
  | .gst _ _ _ _ sa _ => [sa]
  | .put k => [k.sb]
  | .get k => [k.sb]
  | .recv _ _ sa _ => [sa]
  | .pub _ _ _ _ sb _ _ => [sb]
  | .baddq _ _ _ _ sa sb => [sa, sb]
  | .sset _ sa sb => [sa, sb]
  | .ssetT _ sa sb => [sa, sb]
  | .gtw _ sa _ => [sa]
  | .pbind _ _ sa _ => [sa]
  | .spawn _ _ sa _ => [sa]
  | _ => []

/-- The control registers of the image that do not stand in the line of the pc (R92). -/
def cregLine (r : Creg) : List Nat :=
  match r with
  | .faultinfo | .fsq | .mwgt => [69]
  | _ => []

/-- The slots that the re-dispatch of a saved entry captures again (R357, R404). -/
def SavedEntry.slots (v : SavedEntry) : List Slot :=
  match decode (v.parcels.extractLsb' 0 32) (v.parcels.extractLsb' 32 32) (v.captured.extractLsb' 0 32) with
  | some (.core i) => (ringForm i).sa.toList ++ (ringForm i).sb.toList
  | _ => []

/-- The image lines that an instruction uses besides its registers and slots (R92): fault registers, the saved ring entries with the slots that
they capture again, the diverted-message buffer. -/
def otherLines (i : Instr) (m : Image) : List Nat :=
  match i with
  | .crd _ r => cregLine r
  | .cwr r _ => cregLine r
  | .eret => 70 :: areaLines 0 m.saved.length ++ (m.saved.flatMap SavedEntry.slots).map fun n => 36 + n.toNat / 2
  | .recv _ _ _ _ => [70]
  | _ => []

/-- The lines of an image that an instruction uses (R92, R103): that of the pc and `status`, those of the x and v registers and slots it names.
DESIGN CHOICE (log 74): they are all there before it runs, also those that its ring entry uses. -/
def usedLines (i : Instr) (m : Image) : List Nat :=
  let r := ringForm i
  let xs := (coreRegs i ++ ringRegs i).map fun x => x.toNat / 8
  let vs := (vFields i ++ (match vMask i with | .all => [] | .on _ _ k => [0#2 ++ k])).map fun v => 4 + v.toNat
  let ss := (coreSlots i ++ r.sa.toList ++ r.sb.toList).map fun n => 36 + n.toNat / 2
  (68 :: xs ++ vs ++ ss ++ otherLines i m).eraseDups

/-- The same for what the decoder builds as a `LateInstr`. -/
def lateLines (i : LateInstr) : List Nat :=
  let xs : List Reg := match i with
    | .rnew d a c _ _ => [d, a, c]
    | .rdel b c => [b, c]
    | .rld a b c _ _ => [a, b, c]
    | .rst d a b c _ _ => [d, a, b, c]
    | .rloc d b c => [d, b, c]
    | .qbox d a b c _ _ => [d, a, b, c]
    | .qrad d a b c _ _ => [d, a, b, c]
    | .gld d a b c _ _ => [d, a, b, c]
    | .gst d a b c _ _ => [d, a, b, c]
    | .gstep c _ => [c]
    | .put k => [k.d, k.a, k.b, k.c]
    | .get k => [k.d, k.a, k.b, k.c]
    | .msg d a b c => [d, a, b, c]
    | .recv d a _ _ => [d, a]
    | .pub d a b c _ _ _ => [d, a, b, c]
    | .rblk d => [d]
    | .rblkSet a b => [a, b]
    | .baddq _ a b c _ _ => [a, b, c]
    | .sset a _ _ => [a]
    | .ssetT a _ _ => [a]
    | .tlbinv _ d a b c => [d, a, b, c]
    | .gtw a _ _ => [a]
    | .pbind _ a _ _ => [a]
    | .crange _ a b _ => [a, b]
    | .spawn d a _ _ => [d, a]
    | .iupd d a b _ => [d, a, b]
    | .ird d a _ => [d, a]
    | .bar a => [a]
    | .sstep d a => [d, a]
    | .dset d a b => [d, a, b]
    | .ddec d a b => [d, a, b]
    | _ => []
  let ss : List Slot := match i with
    | .rnew _ _ _ sa _ => [sa]
    | .rld _ _ _ sa _ => [sa]
    | .rst _ _ _ _ sa _ => [sa]
    | .qbox _ _ _ _ sa _ => [sa]
    | .qrad _ _ _ _ sa _ => [sa]
    | .gld _ _ _ _ sa _ => [sa]
    | .gst _ _ _ _ sa _ => [sa]
    | .put k => [k.sb]
    | .get k => [k.sb]
    | .recv _ _ sa _ => [sa]
    | .pub _ _ _ _ sb _ _ => [sb]
    | .baddq _ _ _ _ sa sb => [sa, sb]
    | .sset _ sa sb => [sa, sb]
    | .ssetT _ sa sb => [sa, sb]
    | .gtw _ sa _ => [sa]
    | .pbind _ _ sa _ => [sa]
    | .spawn _ _ sa _ => [sa]
    | _ => []
  let other := match i with
    | .recv _ _ _ _ => [70]
    | _ => []
  (68 :: xs.map (fun (x : Reg) => x.toNat / 8) ++ ss.map (fun (n : Slot) => 36 + n.toNat / 2) ++ other).eraseDups

/-- The lines that a decoded instruction uses. -/
def codeLines (c : Code) (m : Image) : List Nat :=
  match c with
  | .core i => usedLines i m
  | .late l => lateLines l

/-- An image line arrives in a core's register cache (R103). Bad data makes a machine check and, for the active context, the uncorrectable-data
fault (R179). -/
def State.lineFill (s : State) (core cid line : Nat) : State :=
  if isService core || 128 ≤ line || !((s.residents core).contains cid) || (s.core core).lines.contains (cid, line) then s
  else
    match s.ctx? cid with
    | none => s
    | some c =>
      let pa := s.linePa cid line
      let d := coreDie core
      if s.badAt d pa 64 then
        let s1 := s.reportBad none d pa 64 core
        if s.activeCid core = some cid then
          s1.takeTrap cid core (FaultRec.mk0 cUncorr (s.badCode none d pa 64) c.img.pc.toNat) c.img.pc
        else s1
      else s.takeLine core cid line

end Sys2Proof.Machine
end

