-- ==== Sys2Proof/Machine/Checks.lean ====
section
/-! DEFINITION. Checks 5 and 6 of R88 by instruction, as the core makes them before it uses an operand (R103); the meanings make them again. Loads
that a core performs ahead of their turn (R277, R283). -/

namespace Sys2Proof.Machine

open Sys2Proof

/-- Is an instruction privileged (R88 check 5)? -/
def privileged (c : Code) : Bool :=
  match c with
  | .core (.crd _ r) => cregSys r
  | .core (.cwr r _) => cregSys r
  | .core .eret => true
  | .core (.cinv _ _ _ _ _) => true
  | .late (.tlbinv _ _ _ _ _) => true
  | .late (.gtw _ _ _) => true
  | _ => false

/-- Does an instruction take a prefix (R83)? -/
def takesPrefix (i : Instr) (p : Prefix) : Bool :=
  match i with
  | .fadd _ _ _ => rmOnly p
  | .fsub _ _ _ => rmOnly p
  | .fmul _ _ _ => rmOnly p
  | .fdiv _ _ _ => rmOnly p
  | .fsqrt _ _ => rmOnly p
  | .fma _ _ _ _ => rmOnly p
  | .fcvtI32F32 _ _ => rmOnly p
  | .fcvtN32F32 _ _ => rmOnly p
  | .fcvtI64F32 _ _ => rmOnly p
  | .fcvtN64F32 _ _ => rmOnly p
  | .fcvtF32I32 _ _ => rmOnly p
  | .fcvtF32N32 _ _ => rmOnly p
  | .fcvtF32I64 _ _ => rmOnly p
  | .fcvtF32N64 _ _ => rmOnly p
  | .vaddF32 _ _ _ _ => rmOnly p
  | .vsubF32 _ _ _ _ => rmOnly p
  | .vmulF32 _ _ _ _ => rmOnly p
  | .vdiv _ _ _ _ => rmOnly p
  | .vsqrt _ _ _ => rmOnly p
  | .vrsqrt _ _ _ => rmOnly p
  | .vexp2 _ _ _ => rmOnly p
  | .vfma _ _ _ _ _ => rmOnly p
  | .vfms _ _ _ _ _ => rmOnly p
  | .vfnma _ _ _ _ _ => rmOnly p
  | .vaddF32Lit _ _ _ _ => rmOnly p
  | .vsubF32Lit _ _ _ _ => rmOnly p
  | .vmulF32Lit _ _ _ _ => rmOnly p
  | .vdivLit _ _ _ _ => rmOnly p
  | .vcvt _ _ _ _ _ => rmOnly p
  | .vpack _ _ _ _ _ _ => rmOnly p
  | .vunpack _ _ _ _ _ => rmOnly p
  | .vredAdd ty _ _ _ => ty == .f32 && rmOnly p
  | .vscanAdd ty _ _ _ => ty == .f32 && rmOnly p
  | .mmac _ _ _ _ _ => matPrefix p
  | .mmacCoop _ _ _ _ => matPrefix p
  | _ => false

/-- Does a decoded instruction fail check 5 or 6 of R88 in a context? -/
def failsEarly (c : Code) (m : Image) : Bool :=
  (privileged c && !m.prv) || (pfxCheck m fun p => match c with | .core i => takesPrefix i p | .late _ => false).isSome

/-- May a load that follows an instruction be performed before it (R182, R188, R283): an instruction on registers, a plain load, a `waita` without
`.acq`? What else a core issues ends the early loads (log 89). -/
def keepsEarly (c : Code) : Bool :=
  match c with
  | .late _ => false
  | .core i =>
    match i with
    | .waita _ _ _ _ _ _ acq => acq.isNone
    | .ldI8Mk _ _ _ _ _ acq | .ldN8Mk _ _ _ _ _ acq | .ldI16Mk _ _ _ _ _ acq | .ldN16Mk _ _ _ _ _ acq | .ldI32Mk _ _ _ _ _ acq
    | .ldN32Mk _ _ _ _ _ acq | .ldI64Mk _ _ _ _ _ acq => acq.isNone
    | .ldI8Mkl _ _ _ _ _ acq | .ldN8Mkl _ _ _ _ _ acq | .ldI16Mkl _ _ _ _ _ acq | .ldN16Mkl _ _ _ _ _ acq | .ldI32Mkl _ _ _ _ _ acq
    | .ldN32Mkl _ _ _ _ _ acq | .ldI64Mkl _ _ _ _ _ acq => acq.isNone
    | .vld _ _ _ _ _ => true
    | .vlds _ _ _ _ _ _ => true
    | .vldx _ _ _ _ _ _ => true
    | i =>
      let major := ((encode i).headD 0).toNat % 256 / 4
      decide (major ≤ 9) || major == 0x0C || (decide (0x10 ≤ major) && decide (major ≤ 0x15)) || major == 0x18

/-- Where a load lies that may be performed ahead of its turn: within one line, and not in the management space. -/
def State.earlyPlace (s : State) (core : Nat) (d : Desc) (off : Int) (n : Nat) : Option Place :=
  if d.kind = kCluster then some (.bank (coreGrove core) (d.base + off.toNat))
  else
    match (s.accessParts core d off n .read false).2 with
    | .ok [p] => if (mgmtAt? p.1).isSome then none else some (.phys p.1)
    | _ => none

/-- A core reads now what a plain load of a context through one of its slots will return in its turn (R277, R283; DESIGN CHOICE, log 89): the order of
plain loads to different bytes is open. The access itself is made in its turn. -/
def State.loadEarly (s : State) (core cid : Nat) (seg : Slot) (off : Int) (n : Nat) : State :=
  match s.ctx? cid with
  | none => s
  | some c =>
    let d := c.img.slot seg
    let k := s.core core
    if c.core? != some core || !([1, 2, 4, 8].contains n) || ringHasMem (s.coreRing core) ||
        (segCheck d kindsAll (isService core) off n n true false false).isSome then s
    else
      match s.earlyPlace core d off n, (s.loadPast core d off n false none).2 with
      | some p, .ok bs => if k.early.any fun e => e.meets p n then s else s.setCore core { k with early := k.early ++ [⟨p, bs⟩] }
      | _, _ => s

end Sys2Proof.Machine
end

