-- ==== Sys2Proof/Machine/Alu.lean ====
section
/-! DEFINITION. Integer operations on registers, immediates and literals (majors 0x01, 0x02, 0x04; R115 to R119). -/

namespace Sys2Proof.Machine

open Sys2Proof

/-- A shift count: N(X(b)) mod 64 (R115). -/
def count64 (w : Word) : Nat := w.toNat % 64

/-- Rotate left (R115). -/
def rotL (w : Word) (n : Nat) : Word := (w <<< n) ||| (w >>> (64 - n))

/-- Bits 127:64 of the signed product (R115). -/
def mulHigh (a b : Word) : Word := BitVec.ofInt 64 ((a.toInt * b.toInt) / 2 ^ 64)

/-- Bits 127:64 of the natural product (R115). -/
def mulHighN (a b : Word) : Word := BitVec.ofNat 64 ((a.toNat * b.toNat) / 2 ^ 64)

/-- Signed division (R116). -/
def divS (p q : Word) : Word :=
  if q = 0 then BitVec.ofInt 64 (-1) else BitVec.ofInt 64 (Int.tdiv p.toInt q.toInt)

/-- Natural division (R116). -/
def divN (p q : Word) : Word := if q = 0 then BitVec.allOnes 64 else BitVec.ofNat 64 (p.toNat / q.toNat)

/-- Signed remainder (R116). -/
def remS (p q : Word) : Word := if q = 0 then p else BitVec.ofInt 64 (Int.tmod p.toInt q.toInt)

/-- Natural remainder (R116). -/
def remN (p q : Word) : Word := if q = 0 then p else BitVec.ofNat 64 (p.toNat % q.toNat)

/-- Zero bits above the highest 1 among the low `n` bits (R115). -/
def clzFrom (n : Nat) (w : Word) : Nat :=
  match n with
  | 0 => 0
  | k + 1 => if w.getLsbD k then 0 else clzFrom k w + 1

/-- Zero bits below the lowest 1, from bit `64 − n` up (R115). -/
def ctzFrom (n : Nat) (w : Word) : Nat :=
  match n with
  | 0 => 0
  | k + 1 => if w.getLsbD (63 - k) then 0 else ctzFrom k w + 1

/-- The number of 1 bits among the low `n` bits (R115). -/
def popcFrom (n : Nat) (w : Word) : Nat :=
  match n with
  | 0 => 0
  | k + 1 => popcFrom k w + (if w.getLsbD k then 1 else 0)

/-- The mask of bits pos + len − 1 : pos (R117). -/
def fieldMask (pos len : Nat) : Word := BitVec.ofNat 64 ((2 ^ len - 1) * 2 ^ pos)

/-- Bits pos + len − 1 : pos, zero-extended (R117). -/
def fieldN (w : Word) (pos len : Nat) : Word := BitVec.ofNat 64 (w.toNat / 2 ^ pos % 2 ^ len)

/-- Bits pos + len − 1 : pos, sign-extended (R117). -/
def fieldS (w : Word) (pos len : Nat) : Word := BitVec.ofInt 64 (toSigned len (w.toNat / 2 ^ pos))

/-- The smaller or larger of two words under an order. -/
def pick (first : Bool) (a b : Word) : Word := if first then a else b

/-- `add` (R115). -/
def execAdd (d a b : Reg) (s : State) : Out :=
  runAlu 4 d [a, b] (fun m => m.getX a + m.getX b) s

/-- `sub` (R115). -/
def execSub (d a b : Reg) (s : State) : Out :=
  runAlu 4 d [a, b] (fun m => m.getX a - m.getX b) s

/-- `mul` (R115). -/
def execMul (d a b : Reg) (s : State) : Out :=
  runAlu 4 d [a, b] (fun m => m.getX a * m.getX b) s

/-- `mulh` (R115). -/
def execMulh (d a b : Reg) (s : State) : Out :=
  runAlu 4 d [a, b] (fun m => mulHigh (m.getX a) (m.getX b)) s

/-- `mulhn` (R115). -/
def execMulhn (d a b : Reg) (s : State) : Out :=
  runAlu 4 d [a, b] (fun m => mulHighN (m.getX a) (m.getX b)) s

/-- `div` (R116). -/
def execDiv (d a b : Reg) (s : State) : Out :=
  runAlu 4 d [a, b] (fun m => divS (m.getX a) (m.getX b)) s

/-- `divn` (R116). -/
def execDivn (d a b : Reg) (s : State) : Out :=
  runAlu 4 d [a, b] (fun m => divN (m.getX a) (m.getX b)) s

/-- `rem` (R116). -/
def execRem (d a b : Reg) (s : State) : Out :=
  runAlu 4 d [a, b] (fun m => remS (m.getX a) (m.getX b)) s

/-- `remn` (R116). -/
def execRemn (d a b : Reg) (s : State) : Out :=
  runAlu 4 d [a, b] (fun m => remN (m.getX a) (m.getX b)) s

/-- `and` (R115). -/
def execAnd (d a b : Reg) (s : State) : Out :=
  runAlu 4 d [a, b] (fun m => m.getX a &&& m.getX b) s

/-- `or` (R115). -/
def execOr (d a b : Reg) (s : State) : Out :=
  runAlu 4 d [a, b] (fun m => m.getX a ||| m.getX b) s

/-- `xor` (R115). -/
def execXor (d a b : Reg) (s : State) : Out :=
  runAlu 4 d [a, b] (fun m => m.getX a ^^^ m.getX b) s

/-- `andn` (R115). -/
def execAndn (d a b : Reg) (s : State) : Out :=
  runAlu 4 d [a, b] (fun m => m.getX a &&& ~~~(m.getX b)) s

/-- `sll` (R115). -/
def execSll (d a b : Reg) (s : State) : Out :=
  runAlu 4 d [a, b] (fun m => m.getX a <<< count64 (m.getX b)) s

/-- `srl` (R115). -/
def execSrl (d a b : Reg) (s : State) : Out :=
  runAlu 4 d [a, b] (fun m => m.getX a >>> count64 (m.getX b)) s

/-- `sra` (R115). -/
def execSra (d a b : Reg) (s : State) : Out :=
  runAlu 4 d [a, b] (fun m => (m.getX a).sshiftRight (count64 (m.getX b))) s

/-- `rol` (R115). -/
def execRol (d a b : Reg) (s : State) : Out :=
  runAlu 4 d [a, b] (fun m => rotL (m.getX a) (count64 (m.getX b))) s

/-- `ror` (R115). -/
def execRor (d a b : Reg) (s : State) : Out :=
  runAlu 4 d [a, b] (fun m => rotL (m.getX a) (64 - count64 (m.getX b))) s

/-- `min` (R115). -/
def execMin (d a b : Reg) (s : State) : Out :=
  runAlu 4 d [a, b] (fun m => pick ((m.getX a).sle (m.getX b)) (m.getX a) (m.getX b)) s

/-- `max` (R115). -/
def execMax (d a b : Reg) (s : State) : Out :=
  runAlu 4 d [a, b] (fun m => pick ((m.getX a).sle (m.getX b)) (m.getX b) (m.getX a)) s

/-- `minn` (R115). -/
def execMinn (d a b : Reg) (s : State) : Out :=
  runAlu 4 d [a, b] (fun m => pick ((m.getX a).ule (m.getX b)) (m.getX a) (m.getX b)) s

/-- `maxn` (R115). -/
def execMaxn (d a b : Reg) (s : State) : Out :=
  runAlu 4 d [a, b] (fun m => pick ((m.getX a).ule (m.getX b)) (m.getX b) (m.getX a)) s

/-- `clz` (R115). -/
def execClz (d a : Reg) (s : State) : Out :=
  runAlu 4 d [a] (fun m => BitVec.ofNat 64 (clzFrom 64 (m.getX a))) s

/-- `ctz` (R115). -/
def execCtz (d a : Reg) (s : State) : Out :=
  runAlu 4 d [a] (fun m => BitVec.ofNat 64 (ctzFrom 64 (m.getX a))) s

/-- `popc` (R115). -/
def execPopc (d a : Reg) (s : State) : Out :=
  runAlu 4 d [a] (fun m => BitVec.ofNat 64 (popcFrom 64 (m.getX a))) s

/-- `set.cc` (R115). -/
def execSetCc (cc : IntCc) (d a b : Reg) (s : State) : Out :=
  runAlu 4 d [a, b] (fun m => if intCond cc (m.getX a) (m.getX b) then 1 else 0) s

/-- `ext` (R117). -/
def execExt (d a : Reg) (pos lenm1 : BitVec 6) (s : State) : Out :=
  runAlu 8 d [a] (fun m => fieldS (m.getX a) pos.toNat (lenm1.toNat + 1)) s

/-- `extn` (R117). -/
def execExtn (d a : Reg) (pos lenm1 : BitVec 6) (s : State) : Out :=
  runAlu 8 d [a] (fun m => fieldN (m.getX a) pos.toNat (lenm1.toNat + 1)) s

/-- `ins` (R117): the destination is read. -/
def execIns (d a : Reg) (pos lenm1 : BitVec 6) (s : State) : Out :=
  runAlu 8 d [a] (fun m =>
    (m.getX d &&& ~~~(fieldMask pos.toNat (lenm1.toNat + 1))) |||
      (((m.getX a) <<< pos.toNat) &&& fieldMask pos.toNat (lenm1.toNat + 1))) s

/-- `sel` (R117). -/
def execSel (d a b c : Reg) (s : State) : Out :=
  runAlu 8 d [a, b, c] (fun m => if m.getX c ≠ 0 then m.getX a else m.getX b) s

/-- `add` with an immediate of 11 bits (R118). -/
def execAddImm (d a : Reg) (imm : BitVec 11) (s : State) : Out :=
  runAlu 4 d [a] (fun m => m.getX a + imm.signExtend 64) s

/-- `and` with an immediate of 11 bits (R118). -/
def execAndImm (d a : Reg) (imm : BitVec 11) (s : State) : Out :=
  runAlu 4 d [a] (fun m => m.getX a &&& imm.signExtend 64) s

/-- `or` with an immediate of 11 bits (R118). -/
def execOrImm (d a : Reg) (imm : BitVec 11) (s : State) : Out :=
  runAlu 4 d [a] (fun m => m.getX a ||| imm.signExtend 64) s

/-- `xor` with an immediate of 11 bits (R118). -/
def execXorImm (d a : Reg) (imm : BitVec 11) (s : State) : Out :=
  runAlu 4 d [a] (fun m => m.getX a ^^^ imm.signExtend 64) s

/-- `mul` with an immediate of 11 bits (R118). -/
def execMulImm (d a : Reg) (imm : BitVec 11) (s : State) : Out :=
  runAlu 4 d [a] (fun m => m.getX a * imm.signExtend 64) s

/-- `sll` with an immediate (R118). -/
def execSllImm (d a : Reg) (sh : BitVec 6) (s : State) : Out :=
  runAlu 4 d [a] (fun m => m.getX a <<< sh.toNat) s

/-- `srl` with an immediate (R118). -/
def execSrlImm (d a : Reg) (sh : BitVec 6) (s : State) : Out :=
  runAlu 4 d [a] (fun m => m.getX a >>> sh.toNat) s

/-- `sra` with an immediate (R118). -/
def execSraImm (d a : Reg) (sh : BitVec 6) (s : State) : Out :=
  runAlu 4 d [a] (fun m => (m.getX a).sshiftRight sh.toNat) s

/-- `add` with an immediate of 32 bits (R118). -/
def execAddImmQ (d a : Reg) (imm : BitVec 32) (s : State) : Out :=
  runAlu 8 d [a] (fun m => m.getX a + imm.signExtend 64) s

/-- `and` with an immediate of 32 bits (R118). -/
def execAndImmQ (d a : Reg) (imm : BitVec 32) (s : State) : Out :=
  runAlu 8 d [a] (fun m => m.getX a &&& imm.signExtend 64) s

/-- `or` with an immediate of 32 bits (R118). -/
def execOrImmQ (d a : Reg) (imm : BitVec 32) (s : State) : Out :=
  runAlu 8 d [a] (fun m => m.getX a ||| imm.signExtend 64) s

/-- `xor` with an immediate of 32 bits (R118). -/
def execXorImmQ (d a : Reg) (imm : BitVec 32) (s : State) : Out :=
  runAlu 8 d [a] (fun m => m.getX a ^^^ imm.signExtend 64) s

/-- `mul` with an immediate of 32 bits (R118). -/
def execMulImmQ (d a : Reg) (imm : BitVec 32) (s : State) : Out :=
  runAlu 8 d [a] (fun m => m.getX a * imm.signExtend 64) s

/-- `sll` with an immediate (R118). -/
def execSllImmQ (d a : Reg) (sh : BitVec 6) (s : State) : Out :=
  runAlu 8 d [a] (fun m => m.getX a <<< sh.toNat) s

/-- `srl` with an immediate (R118). -/
def execSrlImmQ (d a : Reg) (sh : BitVec 6) (s : State) : Out :=
  runAlu 8 d [a] (fun m => m.getX a >>> sh.toNat) s

/-- `sra` with an immediate (R118). -/
def execSraImmQ (d a : Reg) (sh : BitVec 6) (s : State) : Out :=
  runAlu 8 d [a] (fun m => (m.getX a).sshiftRight sh.toNat) s

/-- `li` (R119). -/
def execLi (d : Reg) (imm : BitVec 11) (s : State) : Out :=
  runAlu 4 d [] (fun _ => imm.signExtend 64) s

/-- `li` in format IQ (R119). -/
def execLiQ (d : Reg) (imm : BitVec 32) (s : State) : Out :=
  runAlu 8 d [] (fun _ => imm.signExtend 64) s

/-- `lih` (R119): bits 31:0 are kept. -/
def execLih (d : Reg) (imm : BitVec 32) (s : State) : Out :=
  runAlu 8 d [] (fun m => imm ++ (m.getX d).extractLsb' 0 32) s

/-- `lpc` (R119). -/
def execLpc (d : Reg) (off : BitVec 11) (s : State) : Out :=
  runAlu 4 d [] (fun m => a56 (m.pc + off.signExtend 64)) s

/-- `lpc` in format IQ (R119). -/
def execLpcQ (d : Reg) (off : BitVec 32) (s : State) : Out :=
  runAlu 8 d [] (fun m => a56 (m.pc + off.signExtend 64)) s

end Sys2Proof.Machine
end

