-- ==== Sys2Proof/Machine/Atomic.lean ====
section
/-! DEFINITION. Atomics (major 0x1A; R171, R172, R175, R184 to R186). -/

namespace Sys2Proof.Machine

open Sys2Proof

/-- The operations of R185. -/
inductive AmoOp
  | add | and | or | xor | min | max | minn | maxn | swap | cas | fadd | fmin | fmax
  deriving DecidableEq, Repr

/-- The new value of the word of n bytes: M, the operand v, and e, what `X(d)` held (R185). -/
def amoNew (op : AmoOp) (n m v e : Nat) : Nat :=
  let w := 8 * n
  match op with
  | .add => (m + v) % 2 ^ w
  | .and => m &&& v
  | .or => m ||| v
  | .xor => m ^^^ v
  | .min => if toSigned w v < toSigned w m then v else m
  | .max => if toSigned w m < toSigned w v then v else m
  | .minn => if v < m then v else m
  | .maxn => if m < v then v else m
  | .swap => v
  | .cas => if m = e then v else m
  | .fadd => (addRne (BitVec.ofNat 32 m) (BitVec.ofNat 32 v)).toNat
  | .fmin => (minF32 (BitVec.ofNat 32 m) (BitVec.ofNat 32 v)).toNat
  | .fmax => (maxF32 (BitVec.ofNat 32 m) (BitVec.ofNat 32 v)).toNat

/-- The old value as `X(d)` takes it (R185). -/
def amoOld (op : AmoOp) (n m : Nat) : Word :=
  match op with
  | .minn | .maxn | .fadd | .fmin | .fmax => BitVec.ofNat 64 m
  | _ => BitVec.ofInt 64 (toSigned (8 * n) m)

/-- Does a range have an atomic's operation and format (R171)? -/
def rangeTakes (r : CRange) (op : AmoOp) (n : Nat) : Bool :=
  match op with
  | .add => r.op == 0 && r.fmt == (if n = 8 then 13 else 11)
  | .fadd => r.op == 1 && r.fmt == 1
  | .min => r.op == 2 && r.fmt == (if n = 8 then 13 else 11)
  | .fmin => r.op == 2 && r.fmt == 1
  | .max => r.op == 3 && r.fmt == (if n = 8 then 13 else 11)
  | .fmax => r.op == 3 && r.fmt == 1
  | .or => r.op == 4 && r.fmt == (if n = 8 then 13 else 11)
  | _ => false

/-- The entry of the commutative range table that an address lies in, under `rasid.ASID` (R370). -/
def State.rangeAt (s : State) (asid va : Nat) : Option (Nat × CRange) :=
  if asid = s.rasid.toNat % 4096 then s.ranges.find? fun p => decide (p.2.base ≤ va) && decide (va < p.2.base + 2 ^ p.2.z)
  else none

/-- A matching atomic (R172): on the word's partial in the grove's update-only line; no fetch, no old value. False when the partial is bad data,
which it would consume (R179). -/
def State.matching (s : State) (core pa n k : Nat) (r : CRange) (op : AmoOp) (v : Nat) (streaming : Bool) : State × Bool :=
  let g := coreGrove core
  let line := lineOf pa
  let s1 := match (s.grove g).line? line with
    | some l => if l.upd = some k then s else (s.writeBackLine g l).dropL1 g line
    | none => s
  let s2 := if ((s1.grove g).line? line).isSome then s1 else s1.l1Room g line
  let l := ((s2.grove g).line? line).getD { L1Line.fresh line with data := rangeLine r, upd := some k }
  let old := leNat (l.bytes (pa % 128) n)
  let data := (leBytes n (amoNew op n old v 0)).zipIdx.foldl (fun d p => setLineByte d (pa % 128 + p.2) p.1) l.data
  if s2.badInL1 g line (pa % 128) n then (s2, false)
  else ((s2.setGrove g ((s2.grove g).putLine { l with data := data } streaming)).latchGrove g pa n, true)

/-- An atomic in the grove L1 copy (R175): fetch, read-modify-write, dirty. None when bad data would be consumed. -/
def State.amoL1 (s : State) (core pa n : Nat) (streaming : Bool) (f : Nat → Nat) : State × Option Nat :=
  match s.l1Load core pa n streaming with
  | (s1, none) => (s1, none)
  | (s1, some bs) => (s1.l1Put core pa (leBytes n (f (leNat bs))) streaming true, some (leNat bs))

/-- An atomic at the home slice (R175, R186): the own grove's copy of the line goes first; acquire drains, the indivisible update,
the release record. -/
def State.amoHome (s : State) (core : Nat) (own : Option Nat) (pa n : Nat) (acq rel : Bool) (sc : Scope) (streaming : Bool) (f : Nat → Nat) :
    State × Option Nat :=
  let line := lineOf pa
  let s0 := match own with | some g => s.pushLine g line | none => s
  let s1 := if acq && scopeWide sc then s0.acquireLine core line sc else s0
  let s2 := s1.settle pa n
  if s2.badAt (homeDie pa) pa n then (s2, none)
  else
    let old := leNat (s2.homeBytes pa n)
    let s3 := (s2.takeRecord core line).homeWriteAs pa (leBytes n (f old)) streaming
    (if rel && scopeWide sc then s3.addRecord core line sc else s3, some old)

/-- Where an atomic executes (R171, R175): on an update-only line of its grove's L1, in the grove's L1 copy, or at the home, for which the grove's
own copy, if there may be one, goes first. -/
inductive AmoPlace
  | partials (k : Nat) (r : CRange)
  | copy
  | home (own : Option Nat)
  deriving DecidableEq, Repr

/-- The place of an atomic outside cluster memory (R171, R172, R175). -/
def State.amoPlace (s : State) (core : Nat) (d : Desc) (va n : Nat) (duo acq rel : Bool) (sc : Scope) (op : AmoOp) : AmoPlace :=
  if d.kind = kHostm then .home none
  else
    match groveOf core with
    | none => .home none
    | some g =>
      if d.pol = 2 then .home (some g)
      else
        let plain := if sc == .grove then AmoPlace.copy else .home (some g)
        match s.rangeAt d.asid va with
        | some (k, r) => if (sc == .grove || (sc == .device && duo)) && rangeTakes r op n && !acq && !rel then .partials k r else plain
        | none => plain

/-- What an atomic leaves at its place (R171, R172, R175): the old value, or 0 from a matching atomic; none when bad data would be consumed. -/
def State.amoAt (s : State) (core : Nat) (d : Desc) (va pa n : Nat) (duo acq rel : Bool) (sc : Scope) (op : AmoOp) (v e : Nat) :
    State × Option Word :=
  let out := fun r : State × Option Nat => (r.1, r.2.map (amoOld op n))
  let f := fun m => amoNew op n m v e
  match s.amoPlace core d va n duo acq rel sc op with
  | .partials k r => let t := s.matching core pa n k r op v d.streams; (t.1, if t.2 then some 0 else none)
  | .copy => out ((s.countMiss core pa n false).amoL1 core pa n d.streams f)
  | .home own => out (s.amoHome core own pa n acq rel sc d.streams f)

/-- An atomic (R184 to R186): a `hostm` slot with scope `.g` or `.d` is refused after check 1; then the checks, and the place. -/
def runAmo (op : AmoOp) (wide : Bool) (d xo b : Reg) (seg : Slot) (disp : Int) (acq rel : Bool) (sc : Scope) (s : State) : Out :=
  runMem false [d, xo, b]
    (fun s _ c =>
      let g := c.img.slot seg
      let n := if wide then 8 else 4
      let off := nOf (c.img.getX xo) + disp
      let v := (c.img.getX b).toNat % 2 ^ (8 * n)
      let e := (c.img.getX d).toNat % 2 ^ (8 * n)
      let fin := fun (t : State) (w : Word) => Eff.done t ((c.img.setX d w).next 8)
      if g.kind = kHostm && !(sc == .device || sc == .fabric) then .trap s (operandFault c.img 0)
      else if rel && relWait (s.coreRing s.here) then .stall s
      else
        match segCheckWord g (isService s.here) off n true true true with
        | some f => .trap s f
        | none =>
          if g.kind = kCluster then
            let h := coreGrove s.here
            let a := g.base + off.toNat
            match s.readBank h a n with
            | none => .trap (s.reportBank h a s.here) (uncorr g off 1 true)
            | some bs =>
              let s1 := s.bankWrite h a (leBytes n (amoNew op n (leNat bs) v e))
              fin (if acq && scopeWide sc then s1.invalidate h else s1) (amoOld op n (leNat bs))
          else
            match s.accessPa s.here g off .atomic true with
            | (s1, .error f) => .trap s1 f
            | (s1, .ok pa) =>
              match s1.amoAt s.here g (segVa g off) pa n c.img.duo acq rel sc op v e with
              | (s2, none) =>
                let near := match s1.amoPlace s.here g (segVa g off) n c.img.duo acq rel sc op with | .home _ => false | _ => true
                let g? := if near then groveOf s.here else none
                let dd := if near then coreDie s.here else homeDie pa
                .trap (s2.reportBad g? dd pa n s.here) (uncorr g off (s2.badCode g? dd pa n) true)
              | (s2, some w) => fin s2 w) s

/-- `amo.add` (R185). -/
def execAmoAdd (wide : Bool) (d xo b : Reg) (seg : Slot) (disp : BitVec 20) (acq rel : Bool) (sc : Scope) (s : State) :
    Out :=
  runAmo .add wide d xo b seg disp.toInt acq rel sc s

/-- `amo.and` (R185). -/
def execAmoAnd (wide : Bool) (d xo b : Reg) (seg : Slot) (disp : BitVec 20) (acq rel : Bool) (sc : Scope) (s : State) :
    Out :=
  runAmo .and wide d xo b seg disp.toInt acq rel sc s

/-- `amo.or` (R185). -/
def execAmoOr (wide : Bool) (d xo b : Reg) (seg : Slot) (disp : BitVec 20) (acq rel : Bool) (sc : Scope) (s : State) :
    Out :=
  runAmo .or wide d xo b seg disp.toInt acq rel sc s

/-- `amo.xor` (R185). -/
def execAmoXor (wide : Bool) (d xo b : Reg) (seg : Slot) (disp : BitVec 20) (acq rel : Bool) (sc : Scope) (s : State) :
    Out :=
  runAmo .xor wide d xo b seg disp.toInt acq rel sc s

/-- `amo.min` (R185). -/
def execAmoMin (wide : Bool) (d xo b : Reg) (seg : Slot) (disp : BitVec 20) (acq rel : Bool) (sc : Scope) (s : State) :
    Out :=
  runAmo .min wide d xo b seg disp.toInt acq rel sc s

/-- `amo.max` (R185). -/
def execAmoMax (wide : Bool) (d xo b : Reg) (seg : Slot) (disp : BitVec 20) (acq rel : Bool) (sc : Scope) (s : State) :
    Out :=
  runAmo .max wide d xo b seg disp.toInt acq rel sc s

/-- `amo.minn` (R185). -/
def execAmoMinn (wide : Bool) (d xo b : Reg) (seg : Slot) (disp : BitVec 20) (acq rel : Bool) (sc : Scope) (s : State) :
    Out :=
  runAmo .minn wide d xo b seg disp.toInt acq rel sc s

/-- `amo.maxn` (R185). -/
def execAmoMaxn (wide : Bool) (d xo b : Reg) (seg : Slot) (disp : BitVec 20) (acq rel : Bool) (sc : Scope) (s : State) :
    Out :=
  runAmo .maxn wide d xo b seg disp.toInt acq rel sc s

/-- `amo.swap` (R185). -/
def execAmoSwap (wide : Bool) (d xo b : Reg) (seg : Slot) (disp : BitVec 20) (acq rel : Bool) (sc : Scope) (s : State) :
    Out :=
  runAmo .swap wide d xo b seg disp.toInt acq rel sc s

/-- `amo.cas` (R185). -/
def execAmoCas (wide : Bool) (d xo b : Reg) (seg : Slot) (disp : BitVec 20) (acq rel : Bool) (sc : Scope) (s : State) :
    Out :=
  runAmo .cas wide d xo b seg disp.toInt acq rel sc s

/-- `amo.fadd` (R185). -/
def execAmoFadd (d xo b : Reg) (seg : Slot) (disp : BitVec 20) (acq rel : Bool) (sc : Scope) (s : State) :
    Out :=
  runAmo .fadd false d xo b seg disp.toInt acq rel sc s

/-- `amo.fmin` (R185). -/
def execAmoFmin (d xo b : Reg) (seg : Slot) (disp : BitVec 20) (acq rel : Bool) (sc : Scope) (s : State) :
    Out :=
  runAmo .fmin false d xo b seg disp.toInt acq rel sc s

/-- `amo.fmax` (R185). -/
def execAmoFmax (d xo b : Reg) (seg : Slot) (disp : BitVec 20) (acq rel : Bool) (sc : Scope) (s : State) :
    Out :=
  runAmo .fmax false d xo b seg disp.toInt acq rel sc s

end Sys2Proof.Machine
end

