-- ==== Sys2Proof/Machine/Tasks.lean ====
section
/-! DEFINITION. `spawn` (R303 to R310) and pre-emption (R107, R317, R383). -/

namespace Sys2Proof.Machine

open Sys2Proof

/-- A task descriptor as read (R303). -/
structure TaskDesc where
  entry : Word
  args : BitVec 256
  count : Nat
  ctl : BitVec 8
  die : Nat
  grove : Nat
  core : Nat
  wait : Nat
  signal : Nat
  inc : Nat
  pad : Nat
  bound : Word

/-- The descriptor in 64 bytes (R303). -/
def TaskDesc.ofBytes (bs : List Byte) : TaskDesc :=
  let b := fun k : Nat => (bs.getD k 0)
  { entry := wordAt bs 0, args := BitVec.ofNat 256 (leNat ((bs.drop 8).take 32)), count := halfAt bs 40, ctl := b 44
    die := (b 45).toNat, grove := (b 46).toNat, core := (b 47).toNat, wait := leNat ((bs.drop 48).take 2)
    signal := leNat ((bs.drop 50).take 2), inc := (b 52).toNat, pad := leNat ((bs.drop 53).take 3), bound := wordAt bs 56 }

/-- CTL bit 4: a search task. -/
def TaskDesc.srch (t : TaskDesc) : Bool := t.ctl.getLsbD 4
/-- CTL bit 5: the wait slot is valid. -/
def TaskDesc.holds (t : TaskDesc) : Bool := t.ctl.getLsbD 5
/-- CTL bit 6: the signal slot is valid. -/
def TaskDesc.sig (t : TaskDesc) : Bool := t.ctl.getLsbD 6
/-- CTL bit 7: ARM. -/
def TaskDesc.arm (t : TaskDesc) : Bool := t.ctl.getLsbD 7
/-- CTL bits 1:0: the class. -/
def TaskDesc.cls (t : TaskDesc) : Nat := t.ctl.toNat % 4
/-- CTL bits 3:2: the placement. -/
def TaskDesc.place (t : TaskDesc) : Nat := t.ctl.toNat / 4 % 4

/-- Check 2 of R306: a reserved field that is not zero, or ARM without SIG. -/
def TaskDesc.reserved (t : TaskDesc) : Bool :=
  t.count / 2 ^ 17 != 0 || 8 ≤ t.die || 8 ≤ t.core || t.wait / 4096 != 0 || t.signal / 32768 != 0 || 8 ≤ t.inc || t.pad != 0 ||
    (!t.holds && t.wait != 0) || (!t.sig && t.signal != 0) || (!t.srch && (t.inc != 0 || t.bound != 0)) || (t.arm && !t.sig)

/-- Checks 2 to 5 of R306: the DATA of the illegal-operand fault. -/
def TaskDesc.fault (t : TaskDesc) : Option Nat :=
  if t.reserved then some 66
  else if 65536 < t.count % 2 ^ 17 then some 65
  else if t.entry.extractLsb' 0 2 != 0#2 || t.entry.extractLsb' 56 8 != 0#8 then some 64
  else if t.place = 3 || (t.place = 0 && t.grove != 0) || (t.place != 2 && t.core != 0) then some 67
  else none

/-- What the pool keeps of the descriptor. -/
def TaskDesc.task (t : TaskDesc) (now : Nat) : TaskInfo :=
  { cls := t.cls, place := t.place, placeArg := if t.place = 2 then t.grove * 8 + t.core else t.grove, srch := t.srch, inc := t.inc
    signal := if t.sig then some t.signal else none, elig := now, promo := 0 }

/-- Enter a descriptor into a pool, held or eligible (R307, R311). -/
def State.poolEnter (s : State) (d : Nat) (t : TaskDesc) (acq : Option (Scope × Option Nat)) : State :=
  let e : PoolEntry :=
    { id := s.serial, entry := t.entry, args := t.args, bound := t.bound, next := 0, count := t.count % 2 ^ 17, task := t.task s.now
      hold := if t.holds && s.dslot d t.wait != 0 then some t.wait else none, resume := none, acq := acq }
  { s.setDie d { s.die d with pool := (s.die d).pool ++ [e] } with serial := s.serial + 1 }

/-- ARM of a descriptor (R307): the signal slot takes the indices of the descriptor, or gives them back. -/
def State.armed (s : State) (t : TaskDesc) (undo : Bool) : State :=
  if !t.arm then s
  else
    let n := t.count % 2 ^ 17
    if undo then s.dslotDec (t.signal / 4096) (t.signal % 4096) n else s.dslotInc (t.signal / 4096) (t.signal % 4096) n

/-- The effect of a `spawn` whose checks pass (R307 to R309): the state and `X(d)`, or the fault with DATA 96. -/
def State.spawn (s : State) (core : Nat) (t : TaskDesc) (rel : Option Scope) : State × Except Nat Word :=
  let n := t.count % 2 ^ 17
  if n = 0 then (s, .ok 2)
  else
    let k := poolAgent t.die
    let i := s.incumbents.toList.getD t.inc Incumbent.fresh
    let s1 := s.armed t false
    if 65536 ≤ (s1.die t.die).pool.length then (s1.armed t true, .ok 1)
    else if t.srch && !i.sv then (s1.armed t true, .error 96)
    else if t.srch && !s1.beatsShadow k t.inc t.bound then (s1.killIndices t.die (t.task s.now).signal n, .ok 3)
    else (s1.poolEnter t.die t (rel.map fun sc => (sc, some core)), .ok 0)

/-- `spawn` (R305 to R309). -/
def execSpawn (d a : Reg) (sa : Slot) (rel : Option Scope) (s : State) : Out :=
  runMem false [d, a]
    (fun s _ c =>
      let g := c.img.slot sa
      let off := nOf (c.img.getX a)
      match segCheck g [kCluster] (isService s.here) off 64 8 true false false with
      | some f => .trap s f
      | none =>
        if rel.isSome && relWait (s.coreRing s.here) then .stall s
        else
          match s.saBad g off.toNat 64 with
          | some e => e
          | none =>
            let t := TaskDesc.ofBytes (s.bankBytes (coreGrove s.here) (g.base + off.toNat) 64)
            match t.fault with
            | some k => .trap s (operandFault c.img k)
            | none =>
              match s.spawn s.here t rel with
              | (s1, .error k) => .trap s1 (operandFault c.img k)
              | (s1, .ok w) => .done s1 ((c.img.setX d w).next 8)) s

/-- The victim of a descriptor that finds no free slot (R317): among the residents of the admitted cores with a class below it, the
lowest class, and of those the most recently dispatched. A context that was chosen once is never chosen again. -/
def State.victimOf (s : State) (d : Nat) (e : PoolEntry) : Option Nat :=
  let cids := (e.task.admits d).flatMap s.residents
  let better := fun a b : Ctx => decide (a.task.cls < b.task.cls) || (a.task.cls == b.task.cls && decide (b.born < a.born))
  (cids.foldl (fun (acc : Option (Nat × Ctx)) cid =>
    match s.ctx? cid with
    | none => acc
    | some c =>
      if e.task.cls ≤ c.task.cls || c.chosen then acc
      else match acc with
        | none => some (cid, c)
        | some (j, b) => if better c b then some (cid, c) else some (j, b)) none).map Prod.fst

/-- The pool entry for which a context is to be pre-empted now (R317): the first of its class, with no free slot, no victim already
leaving for it, and this context as its victim. -/
def State.preemptFor (s : State) (cid : Nat) : Option Nat :=
  let d := ctxDie cid
  if !(s.die d).poolcfg.getLsbD 9 || decide (65536 ≤ (s.die d).pool.length) then none
  else
    [3, 2, 1].findSome? fun c =>
      match (s.classOrder d c).head? with
      | none => none
      | some e =>
        let waiting := s.ctxs.any fun p => p.2.leaving == some e.id
        if (s.targetCore d e.task).isSome || waiting || s.victimOf d e != some cid then none else some e.id

/-- The arrival of a context at a group is withdrawn (R383). -/
def Core.withdraw (k : Core) (cid : Nat) : Core :=
  { k with arrival := k.arrival.filter fun p => match p.2 with | .arrived _ c => c != cid | _ => true }

/-- An episode that has ended holds back the pre-emption of a context that has still to consume it (R383). -/
def State.owes (s : State) (core cid : Nat) : Bool :=
  (s.core core).arrival.any fun p =>
    match p.2 with
    | .done _ c _ => c == cid
    | .fault c => c == cid
    | .arrived _ _ => false

/-- Steps 3 and 4 of R107 and R317: the claim, the watch and the arrival are withdrawn, the charge returns, the slot is free, and the
task is a pool entry with count 1. -/
def State.evictTask (s : State) (cid core : Nat) (c : Ctx) : State :=
  let d := coreDie core
  let g := coreGrove core
  let s1 := (s.withdrawClaim cid g).setCore core ((s.core core).withdraw cid)
  let s2 := s1.setCtx cid { c with wait := none, watch := none, latch := false, leaving := none, stale := none, chosen := true }
  let s3 := (s2.freeSlotOf cid .queued).grantClaims g
  let e : PoolEntry :=
    { id := s3.serial, entry := c.img.pc, args := c.img.args, bound := c.img.bound, next := 0, count := 1, task := c.task
      hold := none, resume := some cid, acq := none }
  { s3.setDie d { s3.die d with pool := (s3.die d).pool ++ [e] } with serial := s3.serial + 1 }

/-- Pre-emption (R107, R317): the victim stops dispatching, and leaves once its ring entries have ended. -/
def State.preempt (s : State) (cid : Nat) : State :=
  match s.ctx? cid with
  | none => s
  | some c =>
    match c.core? with
    | none => s
    | some core =>
      let for? := match c.leaving with | some e => some e | none => s.preemptFor cid
      match for? with
      | none => s
      | some e =>
        if c.ring.isEmpty && !s.owes core cid && (s.invals.get? core).isNone && !((s.core core).holding && s.activeCid core == some cid) &&
            decide ((s.die (coreDie core)).pool.length < 65536) then
          s.evictTask cid core c
        else s.setCtx cid { c with leaving := some e, chosen := true }

/-- `PREEMPTION` (R107, R317). -/
def execPreemption (cid : Nat) (s : State) : Out := .next (s.preempt cid)

end Sys2Proof.Machine
end

