-- ==== Sys2Proof/Machine/Counters.lean ====
section
/-! DEFINITION. Dependency slots, groups and incumbents as instructions see them (R375 to R390). -/

namespace Sys2Proof.Machine

open Sys2Proof

/-- `dset` and `ddec` (R377): the release actions of `fence.rel.v`, then one update of the slot; `X(d)` takes the old value. -/
def runDslot (d a b : Reg) (f : State → Nat → Nat → Nat → State) (s : State) : Out :=
  runMem false [d, a, b]
    (fun s _ c =>
      let n := c.img.getX a
      let v := c.img.getX b
      if n.extractLsb' 15 49 != 0#49 || v.extractLsb' 32 32 != 0#32 then .trap s (operandFault c.img 98)
      else if acceptWait (s.coreRing s.here) then .hold s
      else
        let die := n.toNat / 4096
        let slot := n.toNat % 4096
        let s1 := s.releaseFence s.here
        .done (f s1 die slot v.toNat) ((c.img.setX d (BitVec.ofNat 64 (s1.dslot die slot))).next 4)) s

/-- `dset` (R377). -/
def execDset (d a b : Reg) (s : State) : Out := runDslot d a b State.dslotSet s

/-- `ddec` (R377). -/
def execDdec (d a b : Reg) (s : State) : Out := runDslot d a b State.dslotDec s

/-- A group that is valid and of which a core is a member (R380). -/
def State.groupOf (s : State) (core g : Nat) : Option Group :=
  match s.groups.get? g with
  | none => none
  | some v => if v.members.contains core then some v else none

/-- Set the arrival state of a core at a group (R380); none is NONE. -/
def State.setArrival (s : State) (core g : Nat) (a : Option Arrival) : State :=
  let k := s.core core
  s.setCore core { k with arrival := match a with | some a => k.arrival.set g a | none => k.arrival.erase g }

/-- `bar` and `sstep` (R380): arrive and block, or consume the episode's end. -/
def runArrive (sstep : Bool) (d a : Reg) (s : State) : Out :=
  runMem false [d, a]
    (fun s cid c =>
      let n := (c.img.getX a).toNat
      if 256 ≤ n || (s.groupOf s.here n).isNone then .trap s (operandFault c.img 100)
      else
        match (s.core s.here).arrival.get? n with
        | none =>
          if acceptWait (s.coreRing s.here) then .stall s
          else .block ((s.releaseFence s.here).setArrival s.here n (some (.arrived sstep cid))) .barrier
        | some (.done _ owner v) =>
          if owner = cid then
            .done ((s.acquireFence s.here .device).setArrival s.here n none)
              ((if sstep then c.img.setX d v else c.img).next 4)
          else .block s .barrier
        | some (.fault owner) =>
          if owner = cid then .trap (s.setArrival s.here n none) (operandFault c.img 101) else .block s .barrier
        | some (.arrived _ _) => .block s .barrier) s

/-- `bar` (R380). -/
def execBar (a : Reg) (s : State) : Out := runArrive false 0 a s

/-- `sstep` (R380). -/
def execSstep (d a : Reg) (s : State) : Out := runArrive true d a s

/-- Is a key a NaN in the ordered-key form, or wider than it (R386, R387)? -/
def badKey (w : Word) : Bool :=
  let k := w.extractLsb' 0 32
  w.extractLsb' 32 32 != 0#32 || isNan32 (if k.getLsbD 31 then k ^^^ 0x80000000#32 else ~~~k)

/-- An incumbent. -/
def State.incumbent (s : State) (k : BitVec 3) : Incumbent := s.incumbents[k.toNat]

/-- Replace an incumbent. -/
def State.setIncumbent (s : State) (k : BitVec 3) (i : Incumbent) : State :=
  { s with incumbents := s.incumbents.set k.toNat i }

/-- The image of a task that offers a key: a search task that offers a key equal to its bound sets its own KP (R390). -/
def Ctx.offered (c : Ctx) (k : BitVec 3) (key : Word) : Image :=
  if c.task.srch && c.task.inc == k.toNat && key == c.img.bound then c.img.setKp true else c.img

/-- `iupd` (R387): waits while a reinitialisation runs. -/
def execIupd (d a b : Reg) (k : BitVec 3) (s : State) : Out :=
  runMem false [d, a, b]
    (fun s _ c =>
      let i := s.incumbent k
      let key := c.img.getX a
      if i.busy then .hold s
      else if !i.v then .trap s (operandFault c.img 96)
      else if i.kt && badKey key then .trap s (operandFault c.img 97)
      else if acceptWait (s.coreRing s.here) then .hold s
      else
        let s1 := s.releaseFence s.here
        let m := c.offered k key
        if beats i.sense i.kt key i.key then
          .done (s1.setIncumbent k { i with key := key, payload := c.img.getX b, hist := i.hist ++ [(s.sync, key)] })
            ((m.setX d 1).next 4)
        else .done s1 ((m.setX d 0).next 4)) s

/-- `ird` (R388): key, and payload where field a is not 0; an acquire at device scope. -/
def execIrd (d a : Reg) (k : BitVec 3) (s : State) : Out :=
  runMem false [d, a]
    (fun s _ c =>
      let i := s.incumbent k
      if i.busy then .hold s
      else if !i.v then .trap s (operandFault c.img 96)
      else .done (s.acquireFence s.here .device) (((c.img.setX d i.key).setX a i.payload).next 4)) s

/-- Is a search task or search descriptor of an incumbent left in the module (R386)? -/
def State.searchLeft (s : State) (k : Nat) : Bool :=
  (List.range Config.dies).any (fun d => (s.die d).pool.any fun e => e.task.srch && e.task.inc == k) ||
    s.ctxs.any fun p => p.2.task.srch && p.2.task.inc == k && (match p.2.where_ with | .ended => false | _ => true)

/-- The management offset of `incctl[k]` (R410). -/
def incctlOff (k : BitVec 3) : Nat := 80 + 8 * k.toNat

/-- A write of `incctl[k]` (R385, R386). A 1 in a reserved bit is ignored and counted (R4). -/
def State.writeIncctl (s : State) (k : BitVec 3) (w : Word) : State :=
  let i := s.incumbent k
  let s0 := if w.extractLsb' 3 4 != 0#4 || w.extractLsb' 8 56 != 0#56 then s.logHost 0 1 (incctlOff k) else s
  if i.busy || s.searchLeft k.toNat || (w.getLsbD 0 && w.getLsbD 2 && badKey i.init) then s0.logHost 0 2 (incctlOff k)
  else
    s0.setIncumbent k { i with
      busy := true, sense := w.getLsbD 1, kt := w.getLsbD 2, v := w.getLsbD 0, key := i.init, payload := 0, hist := [] }

/-- `INCCTL_WRITE` (R386). -/
def execIncctlWrite (k : BitVec 3) (value : Word) (s : State) : Out := .next (s.writeIncctl k value)

/-- Every shadow has taken the values of a reinitialisation (R386). -/
def State.reinitDone (s : State) (k : BitVec 3) : State :=
  let i := s.incumbent k
  if i.busy then
    { s.setIncumbent k { i with busy := false, skey := i.key, ssense := i.sense, skt := i.kt, sv := i.v } with
      shadows := s.shadows.filter fun p => p.1 % 8 != k.toNat }
  else s

/-- `INCUMBENT_REINIT_DONE` (R386). -/
def execIncumbentReinitDone (k : BitVec 3) (s : State) : Out := .next (s.reinitDone k)

/-- The improvement that a shadow takes next (R389): the first of the home's history that strictly beats it. -/
def State.nextImprovement (s : State) (agent : Nat) (k : BitVec 3) : Option Word :=
  let i := s.incumbent k
  if i.busy then none
  else (i.hist.find? fun h => beats i.ssense i.skt h.2 (s.shadowKey agent k.toNat)).map Prod.snd

/-- An improvement reaches a shadow (R320, R389, R390): the pool tests its search descriptors, the core its search contexts. -/
def State.updateShadow (s : State) (at_ : ShadowAt) (k : BitVec 3) : State :=
  let agent := match at_ with | .pool d => poolAgent d | .core c => c
  match s.nextImprovement agent k with
  | none => s
  | some w =>
    let s1 := { s with shadows := s.shadows.set (8 * agent + k.toNat) w }
    match at_ with
    | .pool d => s1.discardBeaten d k.toNat
    | .core c => (s1.residents c).foldl (fun (t : State) cid => t.checkKp cid) s1

/-- `SHADOW_UPDATE` (R389). -/
def execShadowUpdate (at_ : ShadowAt) (k : BitVec 3) (s : State) : Out := .next (s.updateShadow at_ k)

/-- The key that the home held 1 µs ago, if it has improved since the last reinitialisation. -/
def State.dueKey (s : State) (k : BitVec 3) : Option Word :=
  ((s.incumbent k).hist.reverse.find? fun h => decide (h.1 + 1000000 ≤ s.sync)).map Prod.snd

/-- Every shadow of an incumbent is at least as good as the home was 1 µs ago (R389 rule 2): those that are not take that value, and the
pools and cores make their tests (R320, R390). -/
def State.catchUp (s : State) (k : BitVec 3) : State :=
  let i := s.incumbent k
  match s.dueKey k with
  | none => s
  | some w =>
    if i.busy || !beats i.ssense i.skt w i.skey then s
    else
      let s1 : State := { s.setIncumbent k { i with skey := w } with
        shadows := s.shadows.filter fun p => p.1 % 8 != k.toNat || beats i.ssense i.skt p.2 w }
      let s2 := (List.range Config.dies).foldl (fun (t : State) d => t.discardBeaten d k.toNat) s1
      s2.ctxs.foldl (fun (t : State) p => t.checkKp p.1) s2

/-- Counts of cycles (R102): event 1 on cores with an active context, event 7 on those where a context is blocked on a claim, at system
privilege when every such context is there. -/
def State.countCycles (s : State) (n : Nat) : State :=
  s.cores.foldl (fun (t : State) p =>
    let t1 := match s.activeCid p.1 with
      | some cid => (match s.ctx? cid with | some c => t.count p.1 c.img.prv 1 n | none => t)
      | none => t
    let held := p.2.slots.toList.filterMap fun o =>
      o.bind fun cid => (s.ctx? cid).bind fun c => if c.wait == some .claim || c.wait == some .reentry then some c.img.prv else none
    if held.isEmpty then t1 else t1.count p.1 (held.all id) 7 n) s

/-- Have all members of a group arrived (R381)? The kinds of their arrivals. -/
def State.arrivals (s : State) (g : Nat) (v : Group) : Option (List Bool) :=
  v.members.foldr (fun m acc =>
    match acc, (s.core m).arrival.get? g with
    | some ks, some (.arrived k _) => some (k :: ks)
    | _, _ => none) (some [])

/-- Every member of a group leaves ARRIVED (R381). -/
def State.endEpisode (s : State) (g : Nat) (v : Group) (f : Bool → Nat → Arrival) : State :=
  v.members.foldl (fun (t : State) m =>
    match (t.core m).arrival.get? g with
    | some (.arrived k cid) => t.setArrival m g (some (f k cid))
    | _ => t) s

/-- The end of an episode when all members have arrived (R381): mixed kinds fault, a `bar` completes, and an `sstep` waits for the
transfers to land. Members that have withdrawn and arrived again may have changed the kind meanwhile (R383). -/
def State.episode (s : State) (g : Nat) : State :=
  match s.groups.get? g with
  | none => s
  | some v =>
    match s.arrivals g v with
    | some (k :: ks) =>
      let ended : State := { s with groups := s.groups.set g { v with phase := .idle } }
      if ks.any (· != k) then ended.endEpisode g v fun _ cid => .fault cid
      else if !k then ended.endEpisode g v fun b cid => .done b cid 0
      else if v.phase = .idle then { s with groups := s.groups.set g { v with phase := .landing } }
      else s
    | _ => s

/-- `SYNC_EPISODE` (R381). -/
def execSyncEpisode (g : Nat) (s : State) : Out := .next (s.episode g)

end Sys2Proof.Machine
end

