-- ==== Sys2Proof/Machine/Records.lean ====
section
/-! DEFINITION. Record spaces (R238 to R259): placement, the directory, the seven record instructions and the boundary. -/

namespace Sys2Proof.Machine

open Sys2Proof

/-- x < y and x ≤ y in FP32, −0 equal to +0 (R239). -/
def fLt (x y : BitVec 32) : Bool := (cmpF32 x y).1
/-- x ≤ y in FP32, −0 equal to +0 (R239, R257). -/
def fLe (x y : BitVec 32) : Bool := (cmpF32 x y).1 || (cmpF32 x y).2

/-- An address within 64 KiB units (R442): records and cells lie whole in a unit. -/
def unitAddr (units : List Nat) (off : Nat) : Nat := units.getD (off / 65536) 0 + off % 65536

/-- The region index of a coordinate on one axis (R239): i with b[i] ≤ x < b[i + 1]. -/
def axisIndex (bs : List (BitVec 32)) (x : BitVec 32) (i : Nat) : Option Nat :=
  match bs with
  | lo :: hi :: rest => if fLe lo x && fLt x hi then some i else axisIndex (hi :: rest) x (i + 1)
  | _ => none

/-- The region of a point: i_0 + n_0 · (i_1 + n_1 · i_2), or none outside the space (R238, R239). -/
def regionOf (bounds : List (List (BitVec 32))) (xyz : List (BitVec 32)) : Option Nat :=
  match bounds, xyz with
  | b :: bs, x :: xs =>
    match axisIndex b x 0, regionOf bs xs with
    | some i, some r => some (i + (b.length - 1) * r)
    | _, _ => none
  | _, _ => some 0

/-- The owner of a point, and whether the point is outside the space (R239). -/
def Space.ownerOf (sp : Space) (xyz : List (BitVec 32)) : Nat × Bool :=
  match regionOf sp.bounds xyz with
  | some r => (sp.owners.getD r sp.spill, false)
  | none => (sp.spill, true)

/-- The physical address of a slot of an owner's store (R243). -/
def Space.slotPa (sp : Space) (owner slot : Nat) : Nat := unitAddr ((sp.stores.get? owner).getD []) (slot * sp.size)

/-- The physical address of a directory entry (R242, R442): 16 bytes on die (σ mod 2,048) div 256. A unit of 64 KiB has two lines at each slice
of its die, and each partition's entries fill its own grove's lines. -/
def Space.entryPa (sp : Space) (serial : Nat) : Nat :=
  let j := serial / 2048
  let base := ((sp.dirUnits.get? (serial % 2048 / 256)).getD []).getD (j / 16) 0 + 32768 * (j % 16 / 8)
  base + 128 * ((serial % 256) ^^^ (base / 32768 % 256)) + 16 * (j % 8)

/-- A directory entry; one that is not listed is FREE with generation 0 (R242). -/
def Space.entry (sp : Space) (serial : Nat) : DirEntry := (sp.dir.get? serial).getD ⟨.free, 0, 0, 0⟩

/-- The serial of a handle (R242). -/
def handleSerial (h : Word) : Nat := (h.extractLsb' 16 44).toNat

/-- A handle (R242). -/
def handleOf (space serial : Nat) (gen : BitVec 16) : Word := BitVec.ofNat 4 space ++ BitVec.ofNat 44 serial ++ gen

/-- The entry that a current handle names (R242). -/
def Space.current (sp : Space) (h : Word) : Option DirEntry :=
  let n := handleSerial h
  let e := sp.entry n
  if sp.cdir ≤ n || e.state == .free || e.gen != h.extractLsb' 0 16 then none else some e

/-- The slots of an owner's store that are taken. -/
def Space.taken (sp : Space) (owner : Nat) : List Nat :=
  sp.dir.filterMap fun p => if p.2.state != .free && p.2.owner == owner then some p.2.slot else none

/-- The least number below a bound that a list does not hold (R431). -/
def firstFree (n : Nat) (used : List Nat) : Option Nat := (List.range n).find? fun i => !used.contains i

/-- The free slot that an owner gives out next, passing over some (R431). -/
def Space.freeSlot (sp : Space) (owner : Nat) (also : List Nat) : Option Nat := firstFree sp.cap (sp.taken owner ++ also)

/-- The FREE entry that a partition gives out next (R431): its serial. -/
def Space.freeSerial (sp : Space) (part : Nat) : Option Nat :=
  ((List.range (sp.cdir / 2048)).map fun j => part + 2048 * j).find? fun n => (sp.entry n).state == .free

/-- The 32-bit words of bytes. -/
def words32 (n : Nat) (bs : List Byte) : List (BitVec 32) := (List.range n).map fun i => BitVec.ofNat 32 (halfAt bs (4 * i))

/-- The FP32 value next below a finite one; of a zero, the smallest negative value. -/
def down32 (w : BitVec 32) : BitVec 32 :=
  if w.extractLsb' 0 31 == 0#31 then 0x80000001 else if w.getLsbD 31 then w + 1 else w - 1

/-- The interval of a region on each axis (R238, R239). -/
def regionCell (bounds : List (List (BitVec 32))) (r : Nat) : List (BitVec 32 × BitVec 32) :=
  match bounds with
  | [] => []
  | b :: bs => (b.getD (r % (b.length - 1)) 0, b.getD (r % (b.length - 1) + 1) 0) :: regionCell bs (r / (b.length - 1))

/-- A descriptor that stands for policy 2 (R243). -/
def slicePolicy : Desc := ⟨0, 0, 0x21, 0⟩

/-- Replace a space. -/
def State.setSpace (s : State) (n : Nat) (sp : Space) : State := { s with spaces := s.spaces.set n sp }

/-- Is a boundary of a space in progress (R244)? -/
def State.inBoundary (s : State) (g : Nat) : Bool :=
  match s.groups.get? g with
  | some v => v.phase == .moving
  | none => false

/-- What a record instruction does on a space (R250, R251): check 1 and the wait for a boundary; then the instruction's own part. -/
def recEff (n : Nat) (f : State → Ctx → Nat → Space → Eff) (s : State) (c : Ctx) : Eff :=
  match s.spaces.get? n with
  | none => .trap s (operandFault c.img 50)
  | some sp => if s.inBoundary sp.group then .block s .access else f s c n sp

/-- A record instruction on the space that its field names (R250). -/
def runRec (regs : List Reg) (spaceOf : Image → Nat) (f : State → Ctx → Nat → Space → Eff) (s : State) : Out :=
  runMem false regs (fun s _ c => recEff (spaceOf c.img) f s c) s

/-- The space of the handle in `X(b)`. -/
def handleSpace (b : Reg) (m : Image) : Nat := (m.getX b).toNat / 2 ^ 60

/-- Would a read at the home of record, directory or frame data consume bad data (R243, R262)? No die holds a copy of it. -/
def State.badStore (s : State) (pa n : Nat) : Bool := s.badAt (homeDie pa) pa n

/-- The machine check of such a read (R179). -/
def State.reportStore (s : State) (pa n core : Nat) : State := s.reportBad none (homeDie pa) pa n core

/-- Its uncorrectable-data fault (R250 check 6, R270 check 7), which has no virtual address. -/
def State.storeTrap (s : State) (m : Image) (pa n : Nat) : Eff :=
  .trap (s.reportStore pa n s.here) (FaultRec.mk0 cUncorr (s.badCode none (homeDie pa) pa n) m.pc.toNat)

/-- The release records of the lines of a range reach a core (R169 step 4, R181): an access at their homes under policy 2 brings them. -/
def State.takeRecords (s : State) (core pa n : Nat) : State := (linesOf pa n).foldl (fun (t : State) line => t.takeRecord core line) s

/-- A read at the home of a record's lines as an access under policy 2 (R181, R243). -/
def State.storeRead (s : State) (core pa n : Nat) : State × Option (List Byte) :=
  match s.readHome (homeDie pa) pa n with
  | (s1, some bs) => (s1.takeRecords core pa n, some bs)
  | r => r

/-- A record instruction on the handle in `X(b)`: check 6 on its directory entry, then its effect on the entry, if it is current. The handle that `rnew`
gives with FULL is never current, also where no space 15 is bound (R252, R433). -/
def runHandle (regs : List Reg) (b : Reg) (stale : Image → Image) (pre : State → Ctx → Space → Option FaultRec)
    (f : State → Ctx → Nat → Space → Nat → DirEntry → Eff) (s : State) : Out :=
  runMem false regs (fun s _ c =>
    if c.img.getX b = BitVec.allOnes 64 ∧ (s.spaces.get? 15).isNone then .done s ((stale c.img).next 8)
    else
      recEff (handleSpace b c.img)
        (fun s c n sp =>
          match pre s c sp with
          | some e => .trap s e
          | none =>
            let h := handleSerial (c.img.getX b)
            if h < sp.cdir && s.badStore (sp.entryPa h) 16 then s.storeTrap c.img (sp.entryPa h) 16
            else
              match sp.current (c.img.getX b) with
              | none => .done s ((stale c.img).next 8)
              | some e => f s c n sp h e) s c) s

/-- The status of a record (R249): NOTYET for one that was created in this superstep. -/
def DirEntry.status (e : DirEntry) : Word := if e.state = .new then 2 else 0

/-- A range of sa in cluster memory (R250 check 2). -/
def recSa (s : State) (d : Desc) (off : Int) (n align : Nat) (wr : Bool) : Option FaultRec :=
  segCheck d [kCluster] (isService s.here) off n align (!wr) wr wr

/-- Has a list of words a NaN in a tested axis (R250 check 5)? `first` is the axis of its first word. -/
def nanIn (dim first : Nat) (ws : List (BitVec 32)) : Bool :=
  (ws.zipIdx).any fun p => decide (first + p.2 < dim) && isNan32 p.1

/-- The record that `rnew` writes (R240, R252): flags 0, the handle at bytes 16 to 23. -/
def newRecord (bs : List Byte) (h : Word) : List Byte :=
  bs.take 12 ++ List.replicate 4 0 ++ leBytes 8 h.toNat ++ bs.drop 24

/-- `rnew` (R252). -/
def execRnew (d a c : Reg) (sa : Slot) (sp : BitVec 4) (s : State) : Out :=
  runRec [d, a, c] (fun _ => sp.toNat)
    (fun s cx n space =>
      let m := cx.img
      let g := m.slot sa
      match recSa s g (nOf (m.getX a)) space.size 4 false with
      | some f => .trap s f
      | none =>
        let bs := s.bankBytes (coreGrove s.here) (g.base + (m.getX a).toNat) space.size
        let xyz := words32 3 bs
        if let some e := s.saBad g (m.getX a).toNat space.size then e
        else if nanIn space.dim 0 xyz then .trap s (operandFault m 48)
        else
          let part := 256 * coreDie s.here + coreGrove s.here % 256
          let full := Eff.done s (((m.setX d (BitVec.allOnes 64)).setX c 3).next 8)
          match space.freeSerial part with
          | none => full
          | some serial =>
            if s.badStore (space.entryPa serial) 16 then s.storeTrap m (space.entryPa serial) 16
            else
              let o := (space.ownerOf xyz).1
              match space.freeSlot o [] with
              | none => full
              | some slot =>
                let gen := (space.entry serial).gen
                let h := handleOf n serial gen
                let s1 := s.setSpace n { space with dir := space.dir.set serial ⟨.new, gen, o, slot⟩ }
                .done (s1.homeWrite (space.slotPa o slot) (newRecord bs h)) (((m.setX d h).setX c 0).next 8)) s

/-- `rdel` (R253). -/
def execRdel (b c : Reg) (s : State) : Out :=
  runHandle [b, c] b (fun m => m.setX c 1) (fun _ _ _ => none)
    (fun s cx n space serial _ =>
      .done (s.setSpace n { space with dels := if space.dels.contains serial then space.dels else space.dels ++ [serial] })
        ((cx.img.setX c 0).next 8)) s

/-- `rld` (R254). -/
def execRld (a b c : Reg) (sa : Slot) (acq : Option Scope) (s : State) : Out :=
  runHandle [a, b, c] b (fun m => m.setX c 1) (fun s cx space => recSa s (cx.img.slot sa) (nOf (cx.img.getX a)) space.size 4 true)
    (fun s cx _ space _ e =>
      let m := cx.img
      if e.state = .new then .done s ((m.setX c 2).next 8)
      else
        let pa := space.slotPa e.owner e.slot
        let s1 := match acq with
          | some sc => if scopeWide sc then s.acquireLine s.here (lineOf pa) sc else s
          | none => s
        match s1.storeRead s.here pa space.size with
        | (s2, none) => s2.storeTrap m pa space.size
        | (s2, some bs) =>
          .done (s2.bankWrite (coreGrove s.here) ((m.slot sa).base + (m.getX a).toNat) bs) ((m.setX c 0).next 8)) s

/-- Is the range operand of `rst` one that R255 allows: byte o and length L? -/
def rangeOk (w : Word) (size : Nat) : Bool :=
  let o := w.toNat % 256
  let l := w.toNat / 256 % 256
  w.extractLsb' 16 48 == 0#48 && o % 4 == 0 && l % 4 == 0 && decide (4 ≤ l) && decide (o + l ≤ size) &&
    (decide (o + l ≤ 12) || decide (24 ≤ o))

/-- Does a put-class transfer of a core still stand in its injection queue (R378)? -/
def State.putsQueued (s : State) (core : Nat) : Bool :=
  (s.core core).inj.any fun e =>
    match e with
    | .msg _ => false
    | .xfer id =>
      s.xfers.any fun x => x.id == id && (match x.kind with | .get _ => false | _ => true)

/-- Must a release at a scope still wait for the fabric writes of a core to land (R188)? -/
def State.fabricWait (s : State) (core : Nat) (sc : Scope) : Bool :=
  match sc with
  | .fabric => s.putsQueued core || (s.core core).psent != (s.core core).pland
  | _ => false

/-- `rst` (R255): on the coordinates the release actions of a fence, on the payload a release access, which waits for older ring entries (R183). A stale
handle writes nothing and orders nothing (log 53). -/
def execRst (d a b c : Reg) (sa : Slot) (rel : Option Scope) (s : State) : Out :=
  runHandle [d, a, b, c] b (fun m => m.setX c 1)
    (fun s cx space =>
      let m := cx.img
      let w := m.getX d
      let l := w.toNat / 256 % 256
      let g := m.slot sa
      let bs := s.bankBytes (coreGrove s.here) (g.base + (m.getX a).toNat) l
      match recSa s g (nOf (m.getX a)) l 4 false with
      | some f => some f
      | none =>
        if !rangeOk w space.size then some (operandFault m 51)
        else if !s.badBank (coreGrove s.here) (g.base + (m.getX a).toNat) l && w.toNat % 256 < 12 && nanIn space.dim (w.toNat % 256 / 4) (words32 (l / 4) bs) then some (operandFault m 48)
        else none)
    (fun s cx n space serial e =>
      let m := cx.img
      let w := m.getX d
      let o := w.toNat % 256
      let l := w.toNat / 256 % 256
      let bs := s.bankBytes (coreGrove s.here) ((m.slot sa).base + (m.getX a).toNat) l
      match s.saBad (m.slot sa) (m.getX a).toNat l with
      | some f => f
      | none =>
        if o < 12 then
          let staged := (words32 (l / 4) bs).zipIdx.map fun p => (serial, o + 4 * p.2, p.1)
          let fin := fun t : State =>
            Eff.done (t.setSpace n { space with words := space.words ++ staged }) ((m.setX c 0).next 8)
          match rel with
          | some sc =>
            if acceptWait (s.coreRing s.here) || s.fabricWait s.here sc then .hold s
            else fin (if scopeWide sc then s.releaseFence s.here else s)
          | none => fin s
        else if rel.isSome && relWait (s.coreRing s.here) then .hold s
        else
          .done (s.writeAt s.here slicePolicy (space.slotPa e.owner e.slot + o) bs rel) ((m.setX c 0).next 8)) s

/-- The location word of a record (R256): HOLD and SPILL from its flags word. -/
def locWord (e : DirEntry) (flags : Nat) : Word :=
  BitVec.ofNat 64 (e.slot * 2 ^ 32 + flags / 2 % 2 * 2 ^ 15 + flags % 2 * 2 ^ 14 + e.owner)

/-- `rloc` (R256). -/
def execRloc (d b c : Reg) (s : State) : Out :=
  runHandle [d, b, c] b (fun m => (m.setX d 0).setX c 1) (fun _ _ _ => none)
    (fun s cx _ space _ e =>
      let m := cx.img
      let pa := space.slotPa e.owner e.slot + 12
      match s.storeRead s.here pa 4 with
      | (s1, none) => s1.storeTrap m pa 4
      | (s1, some bs) => .done s1 (((m.setX d (locWord e (leNat bs))).setX c e.status).next 8)) s

/-- A sum, a difference or a product rounded RNE (R257). -/
def rneAdd (x y : FV) : BitVec 32 := (roundF32 .rne (FV.add .rne x y).1).1

/-- Does a record qualify for a `qbox` (R257): lo ≤ x ≤ hi on every axis? -/
def inBox (dim : Nat) (q xyz : List (BitVec 32)) : Bool :=
  (List.range dim).all fun k => fLe (q.getD k 0) (xyz.getD k 0) && fLe (xyz.getD k 0) (q.getD (3 + k) 0)

/-- The sum of squares of a `qrad`, left to right, each step rounded RNE (R257). -/
def sumSquares (dim : Nat) (q xyz : List (BitVec 32)) : BitVec 32 :=
  let sq := fun k : Nat =>
    let dx := rneAdd (valF32 (xyz.getD k 0)) (valF32 (q.getD k 0)).neg
    (roundF32 .rne (FV.mul (valF32 dx) (valF32 dx)).1).1
  ((List.range dim).drop 1).foldl (fun acc k => rneAdd (valF32 acc) (valF32 (sq k))) (sq 0)

/-- Does a record qualify for a `qrad` (R257)? -/
def inRadius (dim : Nat) (q xyz : List (BitVec 32)) : Bool :=
  let r := valF32 (q.getD 3 0)
  fLe (sumSquares dim q xyz) (roundF32 .rne (FV.mul r r).1).1

/-- Is a query field wrong (R250 check 5)? -/
def badQuery (dim : Nat) (box : Bool) (q : List (BitVec 32)) : Bool :=
  let inf := fun w : BitVec 32 => w.extractLsb' 23 8 == 0xFF#8 && w.extractLsb' 0 23 == 0#23
  if box then (List.range dim).any fun k => isNan32 (q.getD k 0) || isNan32 (q.getD (3 + k) 0)
  else isNan32 (q.getD 3 0) || (List.range dim).any fun k => isNan32 (q.getD k 0) || inf (q.getD k 0)

/-- The records that a query considers (R258): the LIVE ones, in ascending serial order, with address and coordinates. -/
def State.snapshot (s : State) (sp : Space) : List (Nat × DirEntry × Nat × List (BitVec 32)) :=
  sp.dir.filterMap fun p =>
    if p.2.state = .live then
      let pa := sp.slotPa p.2.owner p.2.slot
      some (p.1, p.2, pa, words32 3 (s.homeBytes pa 12))
    else none

/-- The coordinate of an interval that is nearest to a query's centre. -/
def nearest32 (c lo hi : BitVec 32) : BitVec 32 := if fLt c lo then lo else if fLt c hi then c else down32 hi

/-- Can a query reach a region: does some point of it qualify (R257, R258)? Rounding keeps order, so the nearest point of the region decides
for a radius. -/
def reaches (dim : Nat) (box : Bool) (q : List (BitVec 32)) (cell : List (BitVec 32 × BitVec 32)) : Bool :=
  if box then
    (cell.zipIdx).all fun p =>
      fLe (q.getD p.2 0) (q.getD (3 + p.2) 0) && fLt (q.getD p.2 0) p.1.2 && fLe p.1.1 (q.getD (3 + p.2) 0)
  else inRadius dim q ((cell.zipIdx).map fun p => nearest32 (q.getD p.2 0) p.1.1 p.1.2)

/-- Can a query reach outside the space (R258)? -/
def reachesOut (dim : Nat) (box : Bool) (q : List (BitVec 32)) (bounds : List (List (BitVec 32))) : Bool :=
  (List.range dim).any fun k =>
    let b := bounds.getD k []
    let lo := b.headD 0
    let hi := b.getLastD 0
    if box then
      ((List.range dim).all fun j => fLe (q.getD j 0) (q.getD (3 + j) 0)) && (fLt (q.getD k 0) lo || fLe hi (q.getD (3 + k) 0))
    else
      let c := q.getD k 0
      let at_ := fun x : BitVec 32 => inRadius dim q ((q.take 3).set k x)
      at_ (if fLt c lo then c else down32 lo) || at_ (if fLe hi c then c else hi)

/-- Does a query visit an owner (R258): one of a region that it can reach, the spill owner when it reaches outside the space, or one that holds
a record with HOLD? `seen` is the snapshot. -/
def State.visits (s : State) (sp : Space) (box : Bool) (q : List (BitVec 32)) (seen : List (Nat × DirEntry × Nat × List (BitVec 32)))
    (owner : Nat) : Bool :=
  (seen.any fun r => r.2.1.owner == owner && leNat (s.homeBytes (r.2.2.1 + 12) 4) / 2 % 2 == 1) ||
    (owner == sp.spill && reachesOut sp.dim box q sp.bounds) ||
    ((List.range sp.owners.length).any fun r => sp.owners.getD r 0 == owner && reaches sp.dim box q (regionCell sp.bounds r))

/-- The reads of a query (R181, R243, R258): the records of the owners that it visits, as accesses under policy 2. -/
def State.queryReads (s : State) (core : Nat) (sp : Space) (box : Bool) (q : List (BitVec 32))
    (seen : List (Nat × DirEntry × Nat × List (BitVec 32))) : State :=
  seen.foldl (fun (t : State) r => if s.visits sp box q seen r.2.1.owner then t.takeRecords core r.2.2.1 24 else t) s

/-- `qbox` and `qrad` (R257, R258). Each owner that a query visits reads every record in its store (DEDUCED, log 75: and no directory entry, since
a record holds its own handle). -/
def runQuery (box : Bool) (d a b c : Reg) (sa : Slot) (sp : BitVec 4) (s : State) : Out :=
  runRec [d, a, b, c] (fun _ => sp.toNat)
    (fun s cx n space =>
      let m := cx.img
      let g := m.slot sa
      let cap := (m.getX c).toNat
      let size := if box then 24 else 16
      let mis := fun (r : Reg) (wr : Bool) => FaultRec.mk cMisAccess 0 (segVa g (nOf (m.getX r))) wr false none 0
      match recSa s g (nOf (m.getX b)) size 1 false, recSa s g (nOf (m.getX a)) (8 * cap) 1 true with
      | some f, _ => .trap s f
      | none, some f => .trap s f
      | none, none =>
        if (m.getX a).toNat % 4 ≠ 0 then .trap s (mis a true)
        else if (m.getX b).toNat % 4 ≠ 0 then .trap s (mis b false)
        else if 65536 < cap then .trap s (operandFault m 32)
        else
          let q := words32 (size / 4) (s.bankBytes (coreGrove s.here) (g.base + (m.getX b).toNat) size)
          if let some e := s.saBad g (m.getX b).toNat size then e
          else if badQuery space.dim box q then .trap s (operandFault m 49)
          else
            let seen := s.snapshot space
            match seen.find? fun r => s.badStore r.2.2.1 24 && s.visits space box q seen r.2.1.owner with
            | some r => s.storeTrap m r.2.2.1 24
            | none =>
              let hits := seen.filter fun r => if box then inBox space.dim q r.2.2.2 else inRadius space.dim q r.2.2.2
              let out := (hits.take cap).flatMap fun r => leBytes 8 (handleOf n r.1 r.2.1.gen).toNat
              .done ((s.queryReads s.here space box q seen).bankWrite (coreGrove s.here) (g.base + (m.getX a).toNat) out)
                ((m.setX d (BitVec.ofNat 64 hits.length)).next 8)) s

/-- `qbox` (R257). -/
def execQbox (d a b c : Reg) (sa : Slot) (sp : BitVec 4) (s : State) : Out := runQuery true d a b c sa sp s

/-- `qrad` (R257). -/
def execQrad (d a b c : Reg) (sa : Slot) (sp : BitVec 4) (s : State) : Out := runQuery false d a b c sa sp s

/-- Step 1 of R246: staged deletions; the generation of a freed entry rises by 1. -/
def Space.deleteStaged (sp : Space) : Space :=
  let dir := sp.dels.foldl (fun (t : Tab DirEntry) n =>
    match t.get? n with
    | some e => t.set n { e with state := .free, gen := e.gen + 1 }
    | none => t) sp.dir
  { sp with dir := dir, dels := [] }

/-- Step 2 of R246: records created in the superstep become LIVE. -/
def Space.createStaged (sp : Space) : Space :=
  { sp with dir := sp.dir.map fun p => (p.1, if p.2.state = .new then { p.2 with state := .live } else p.2) }

/-- Step 3 of R246: staged words, in arrival order, to the records that are still there. -/
def State.applyWords (s : State) (sp : Space) : State :=
  sp.words.foldl (fun (t : State) w =>
    let e := sp.entry w.1
    if e.state = .live then t.homeWrite (sp.slotPa e.owner e.slot + w.2.1) (leBytes 4 w.2.2.toNat) else t) s

/-- A boundary as it runs over the records (R246 steps 4 to 6): the state, the space, the slots freed, the moves by holder. -/
structure Sweep where
  state : State
  space : Space
  freed : List (Nat × Nat)

/-- One record at the boundary (R246 steps 4 to 6, R247): it moves when its target has a slot, or stays with HOLD; its flags are set.
A slot that a departing record frees is not given out at the same boundary (R431). A move is charged to its holder and has landed
when the sweep ends (R378). Bad data raises a machine check (R179, R243). DESIGN CHOICE (log 75): a record whose directory entry or coordinates
cannot be read stays as it is, and one that cannot be copied stays with HOLD. -/
def Sweep.record (w : Sweep) (serial : Nat) : Sweep :=
  let e := w.space.entry serial
  let pa := w.space.slotPa e.owner e.slot
  let xyz := words32 3 (w.state.homeBytes pa 12)
  let o := w.space.ownerOf xyz
  let flags := fun hold : Bool => leBytes 4 ((if hold then 2 else 0) + (if o.2 then 1 else 0))
  if w.state.badStore (w.space.entryPa serial) 16 then { w with state := w.state.reportStore (w.space.entryPa serial) 16 0 }
  else if w.state.badStore pa 12 then { w with state := w.state.reportStore pa 12 0 }
  else if o.1 = e.owner then { w with state := w.state.homeWrite (pa + 12) (flags false) }
  else
    let kept := w.freed.filterMap fun f => if f.1 = o.1 then some f.2 else none
    match w.space.freeSlot o.1 kept with
    | none => { w with state := w.state.homeWrite (pa + 12) (flags true) }
    | some slot =>
      let dest := w.space.slotPa o.1 slot
      if w.state.badStore pa w.space.size then
        { w with state := (w.state.reportStore pa w.space.size 0).homeWrite (pa + 12) (flags true) }
      else
      let s1 := w.state.homeWrite dest (w.state.homeBytes pa w.space.size)
      let s2 := s1.homeWrite (dest + 12) (flags false)
      let k := s2.core e.owner
      { state := s2.setCore e.owner { k with psent := k.psent + 1, pland := k.pland + 1 }
        space := { w.space with dir := w.space.dir.set serial { e with owner := o.1, slot := slot } }
        freed := w.freed ++ [(e.owner, e.slot)] }

/-- The boundary of one space (R246), records in ascending handle order. -/
def State.spaceBoundary (s : State) (n : Nat) (sp : Space) : State :=
  let sp1 := sp.deleteStaged.createStaged
  let s1 := s.applyWords sp1
  let live := sp1.dir.filterMap fun p => if p.2.state = .live then some p.1 else none
  let w := live.foldl Sweep.record { state := s1, space := { sp1 with words := [] }, freed := [] }
  w.state.setSpace n w.space

/-- Do the sums of PSENT and PLAND over the members of a group agree, and has every transfer left its queue (R381, R384)? -/
def State.landed (s : State) (v : Group) : Bool :=
  !(v.members.any s.putsQueued) &&
  (v.members.foldl (fun n m => n + (s.core m).psent.toNat) 0) == (v.members.foldl (fun n m => n + (s.core m).pland.toNat) 0)

/-- `SUPERSTEP_BOUNDARY` (R246, R381): once the transfers have landed, and while every member is in ARRIVED (R383), the boundary of each space of the group runs. -/
def State.superstep (s : State) (g : Nat) : State :=
  match s.groups.get? g with
  | none => s
  | some v =>
    if v.phase = .landing && s.landed v && (s.arrivals g v).isSome then
      let s1 := (s.spaces.filter fun p => p.2.group == g).foldl (fun (t : State) p => t.spaceBoundary p.1 p.2) s
      { s1 with groups := s1.groups.set g { v with phase := .moving } }
    else s

/-- `SUPERSTEP_BOUNDARY` (R246). -/
def execSuperstepBoundary (g : Nat) (s : State) : Out := .next (s.superstep g)

/-- `STEP_COUNTER_INCREMENT` (R381): the boundary's moves have landed; the counter increments and every member goes to DONE. -/
def State.stepIncrement (s : State) (g : Nat) : State :=
  match s.groups.get? g with
  | none => s
  | some v =>
    if v.phase = .moving && s.landed v && (s.arrivals g v).isSome then
      let n := v.step + 1
      let hit := s.cksts == 1 && s.ckGroup == g
      let s1 := { s with
        groups := s.groups.set g { v with step := n, phase := .idle }
        ckHit := s.ckHit || hit, ckStep := if hit && !s.ckHit then n else s.ckStep }
      s1.endEpisode g v fun b cid => .done b cid n
    else s

/-- `STEP_COUNTER_INCREMENT` (R381). -/
def execStepCounterIncrement (g : Nat) (s : State) : Out := .next (s.stepIncrement g)

end Sys2Proof.Machine
end

