-- ==== Sys2Proof/Machine/Grids.lean ====
section
/-! DEFINITION. Grids (R260 to R274): blocks, halos and their sources, freshness, `gld`, `gst`, `gstep` and the refresh. -/

namespace Sys2Proof.Machine

open Sys2Proof

/-- Element size in bytes (R260). -/
def Grid.es (g : Grid) : Nat := if g.fmt = .bf16 then 2 else 4
/-- Block count on an axis (R261). -/
def Grid.nb (g : Grid) (k : Nat) : Nat := g.ext.getD k 1 / g.blk.getD k 1
/-- Block size on an axis. -/
def Grid.bs (g : Grid) (k : Nat) : Nat := g.blk.getD k 1
/-- Halo width on an axis: none on an axis that the grid does not have. -/
def Grid.hw (g : Grid) (k : Nat) : Nat := if k < g.dim then g.h else 0
/-- What a bound grid was declared with (R260). -/
def Grid.decl (g : Grid) : GridDecl :=
  { dim := g.dim, fmt := g.fmt, h := g.h, rho := g.rho, depth := g.depth, ext := g.ext, blk := g.blk, faces := g.faces
    consts := g.consts, group := g.group, stall := g.stall, owners := g.owners }
/-- The block that a core of this module owns (R261); a service core is no endpoint and owns none (R327). -/
def Grid.blockOf (g : Grid) (core : Nat) : Option Nat :=
  if isService core then none else g.owners.findIdx? fun e => e == g.dev * 16384 + core
/-- The core of this module that owns a block, if it is one. -/
def Grid.ownerCore (g : Grid) (b : Nat) : Option Nat :=
  let e := g.owners.getD b 0
  if e / 16384 = g.dev then some (e % 16384) else none
/-- The first coordinate of a block on an axis (R261). -/
def Grid.lo (g : Grid) (b k : Nat) : Nat :=
  (match k with
   | 0 => b % g.nb 0
   | 1 => b / g.nb 0 % g.nb 1
   | _ => b / g.nb 0 / g.nb 1) * g.bs k

/-- Where a coordinate lies from a block on an axis: −1 below, 0 within, 1 above, and the distance outside (R261). -/
def Grid.side (g : Grid) (b k : Nat) (x : Int) : Int × Nat :=
  let lo : Int := g.lo b k
  let hi : Int := lo + g.bs k
  if x < lo then (-1, (lo - x).toNat) else if hi ≤ x then (1, (x - hi + 1).toNat) else (0, 0)

/-- The ring of a cell: its Chebyshev distance outside the block (R261). -/
def Grid.ring (g : Grid) (b : Nat) (xs : List Int) : Nat :=
  (List.range 3).foldl (fun m k => max m (g.side b k (xs.getD k 0)).2) 0

/-- The strip number of a cell (R261). -/
def Grid.strip (g : Grid) (b : Nat) (xs : List Int) : Nat :=
  let s := fun k : Nat => ((g.side b k (xs.getD k 0)).1 + 1).toNat
  9 * s 2 + 3 * s 1 + s 0

/-- Is a cell in the block or its halo? -/
def Grid.reaches (g : Grid) (b : Nat) (xs : List Int) : Bool :=
  (List.range 3).all fun k => decide ((g.side b k (xs.getD k 0)).2 ≤ g.hw k)

/-- Cells of a buffer on an axis. -/
def Grid.width (g : Grid) (k : Nat) : Nat := g.bs k + 2 * g.hw k

/-- Cells of a buffer (R442). -/
def Grid.cells (g : Grid) : Nat := g.width 0 * g.width 1 * g.width 2

/-- The index of a cell in a buffer of a block's frame. -/
def Grid.index (g : Grid) (b : Nat) (xs : List Int) : Nat :=
  let at_ := fun k : Nat => (xs.getD k 0 - (g.lo b k : Int) + g.hw k).toNat
  at_ 0 + g.width 0 * (at_ 1 + g.width 1 * at_ 2)

/-- The physical address of byte `off` of a block's frame (R262, R442). -/
def Grid.framePa (g : Grid) (b off : Nat) : Nat := unitAddr ((g.frames.get? b).getD []) off

/-- The physical address of a cell (R262). -/
def Grid.cellPa (g : Grid) (b parity idx : Nat) : Nat := g.framePa b (g.es * (parity * g.cells + idx))

/-- The physical addresses of the two halves of a strip's stamp (R262, R442): the 256 bytes above the two buffers hold 8 bytes for each strip number
(log 91). -/
def Grid.stampPas (g : Grid) (b strip : Nat) : List Nat :=
  let o := 2 * g.cells * g.es + 8 * strip
  [g.framePa b o, g.framePa b (o + 4)]

/-- The source coordinate of a coordinate on one axis (R264); none under the constant rule. -/
def mapAxis (e lowRule highRule : Nat) (x : Int) : Option Int :=
  let m : Int := if x < 0 then -x else x - e + 1
  if 0 ≤ x ∧ x < e then some x
  else
    match (if x < 0 then lowRule else highRule) with
    | 0 => some (x % e)
    | 1 => none
    | 2 => some (if x < 0 then min m (e - 1) else max (e - 1 - m) 0)
    | _ => some (if x < 0 then 0 else e - 1)

/-- The source coordinate of a halo cell on an axis (R263). -/
def Grid.mapOn (g : Grid) (k : Nat) (x : Int) : Option Int :=
  mapAxis (g.ext.getD k 1) (g.faces / 2 ^ (4 * k) % 4) (g.faces / 2 ^ (4 * k + 2) % 4) x

/-- The source of a halo cell (R263): the constant of the lowest axis that maps to one, or the cell at the mapped coordinates. -/
def Grid.source (g : Grid) (xs : List Int) : Except Nat (List Int) :=
  let on := fun k : Nat => g.mapOn k (xs.getD k 0)
  match (List.range g.dim).find? fun k => (on k).isNone with
  | some k => .error (g.consts.getD (2 * k + (if xs.getD k 0 < 0 then 0 else 1)) 0)
  | none => .ok ((List.range 3).map fun k => (on k).getD 0)

/-- The block that holds a cell of the grid. -/
def Grid.holder (g : Grid) (xs : List Int) : Nat :=
  let j := fun k : Nat => (xs.getD k 0).toNat / g.bs k
  j 0 + g.nb 0 * (j 1 + g.nb 1 * j 2)

/-- The coordinates from the low to the high end of a block and its halo on an axis. -/
def Grid.span (g : Grid) (b k : Nat) : List Int :=
  (List.range (g.width k)).map fun i => (g.lo b k : Int) - g.hw k + i

/-- The halo cells of a block. -/
def Grid.halo (g : Grid) (b : Nat) : List (List Int) :=
  (g.span b 2).flatMap fun z => (g.span b 1).flatMap fun y => (g.span b 0).filterMap fun x =>
    if g.ring b [x, y, z] = 0 then none else some [x, y, z]

/-- The block that supplies a halo cell of a block: the block itself for a constant (R263, R266). -/
def Grid.supplier (g : Grid) (b : Nat) (xs : List Int) : Nat :=
  match g.source xs with
  | .error _ => b
  | .ok src => g.holder src

/-- The suppliers of a strip (R266). -/
def Grid.suppliers (g : Grid) (b strip : Nat) : List Nat :=
  (((g.halo b).filter fun xs => g.strip b xs == strip).map (g.supplier b)).dedup

/-- The strips of a block that have cells of a supplier. -/
def Grid.stripsFrom (g : Grid) (b src : Nat) : List Nat :=
  (((g.halo b).filter fun xs => g.supplier b xs == src).map (g.strip b)).dedup

/-- The pattern of a cell. -/
def State.cell (s : State) (g : Grid) (b parity idx : Nat) : BitVec 32 :=
  BitVec.ofNat 32 (leNat (s.homeBytes (g.cellPa b parity idx) g.es))

/-- Write a cell. -/
def State.setCell (s : State) (g : Grid) (b parity idx : Nat) (w : BitVec 32) : State :=
  s.homeWrite (g.cellPa b parity idx) (leBytes g.es w.toNat)

/-- The stamp of a halo strip (R262, R266). DESIGN CHOICE (log 91): the frame holds S + 1, and 0 for "none". -/
def State.stamp (s : State) (g : Grid) (b strip : Nat) : Option Nat :=
  match leNat ((g.stampPas b strip).flatMap fun pa => s.homeBytes pa 4) with
  | 0 => none
  | n + 1 => some n

/-- Set the stamp of a strip (R266). -/
def State.setStamp (s : State) (g : Grid) (b strip step : Nat) : State :=
  let bs := leBytes 8 (step + 1)
  s.homeWrites ((g.stampPas b strip).zip [bs.take 4, bs.drop 4])

/-- Replace a grid. -/
def State.setGrid (s : State) (n : Nat) (g : Grid) : State := { s with grids := s.grids.set n g }

/-- A supplier has written its part of a strip for a step (R266 steps 3 and 5): the grid, and whether every part is there now. Of each supplier
only the latest step counts, since an older one writes nothing any more (R274). -/
def Grid.land (g : Grid) (b strip src step : Nat) : Grid × Bool :=
  let key := 27 * b + strip
  let landed := (g.landed.filter fun l => !(l.1 == key && l.2.1 == src)) ++ [(key, src, step)]
  ({ g with landed := landed }, (g.suppliers b strip).all fun p => landed.contains (key, p, step))

/-- A part has landed (R266 steps 3 and 5): the stamp rises once every part is there. -/
def State.landStrip (s : State) (g : Grid) (b strip src step : Nat) : State × Grid :=
  let r := g.land b strip src step
  (if r.2 then s.setStamp g b strip step else s, r.1)

/-- Has a supplier of a strip written a later part already, or some packet of one (R274)? -/
def Grid.overtaken (g : Grid) (b strip src step : Nat) : Bool :=
  (g.landed.any fun l => l.1 == 27 * b + strip && l.2.1 == src && decide (step < l.2.2)) ||
    g.arrived.any fun l => l.1 == 27 * b + strip && l.2.1 == src && decide (step < l.2.2.1)

/-- Has the owner of a block committed a step (R265, R266 step 4)? -/
def Grid.committed (g : Grid) (b step : Nat) : Bool := match g.steps.get? b with | some c => decide (step ≤ c) | none => false

/-- The cells of a part by their index in the receiver's buffer (R266). -/
def Grid.partCells (g : Grid) (b strip src : Nat) : List Nat :=
  ((g.halo b).filter fun xs => g.strip b xs == strip && g.supplier b xs == src).map fun xs => g.index b xs

/-- The parts that a block sends at a refresh (R266 step 1), as the cells stand in its buffer. -/
def State.outgoing (s : State) (n : Nat) (g : Grid) (b step : Nat) : List HaloPart :=
  (List.range g.owners.length).flatMap fun r =>
    if r = b then []
    else (g.stripsFrom r b).map fun q =>
      { grid := n, src := b, dst := r, strip := q, step := step, old := false
        cells := (g.halo r).filterMap fun xs =>
          if g.strip r xs == q && g.supplier r xs == b then
            match g.source xs with
            | .ok src => some (g.index r xs, s.cell g b (step % 2) (g.index b src))
            | .error _ => none
          else none }

/-- The local parts of a block at a refresh (R266 step 2): cells of the block itself, and constants into both buffers. Cells that lie together are
written together (R179). -/
def State.writeLocal (s : State) (g : Grid) (b step : Nat) : State :=
  s.homeWrites ((g.halo b).flatMap fun xs =>
    let put := fun (parity : Nat) (w : Nat) => (g.cellPa b parity (g.index b xs), leBytes g.es w)
    match g.source xs with
    | .error c => [put 0 c, put 1 c]
    | .ok src => if g.holder src = b then [put (step % 2) (s.cell g b (step % 2) (g.index b src)).toNat] else [])

/-- The addresses of the cells that a block's refresh reads (R266). -/
def Grid.refreshReads (g : Grid) (b step : Nat) : List Nat :=
  (List.range g.owners.length).flatMap fun r => (g.halo r).filterMap fun xs =>
    match g.source xs with
    | .ok src => if g.holder src = b then some (g.cellPa b (step % 2) (g.index b src)) else none
    | .error _ => none

/-- A refresh (R266 steps 1 to 3). -/
def State.refresh (s : State) (n : Nat) (g : Grid) (b step : Nat) : State × Grid :=
  let out := s.outgoing n g b step
  (g.stripsFrom b b).foldl (fun (r : State × Grid) q => r.1.landStrip r.2 b q b step)
    (s.writeLocal g b step, { g with held := g.held ++ out })

/-- Is a halo cell fresh at a tag (R267)? -/
def State.fresh (s : State) (g : Grid) (b : Nat) (xs : List Int) (t : Nat) : Bool :=
  match s.stamp g b (g.strip b xs) with
  | none => false
  | some st => decide (st ≤ t) && decide (t - st < g.depth) && decide (g.ring b xs + (t - st) * g.rho ≤ g.h)

/-- Check 1 of R270: the grid and the block that the core owns. -/
def runGrid (regs : List Reg) (n : BitVec 4) (f : State → Nat → Ctx → Grid → Nat → Eff) (s : State) : Out :=
  runMem false regs
    (fun s cid c =>
      match s.grids.get? n.toNat with
      | none => .trap s (operandFault c.img 56)
      | some g =>
        match g.blockOf s.here with
        | none => .trap s (operandFault c.img 56)
        | some b => f s cid c g b) s

/-- The operands of a run (R269): start field of an axis, tag, length, axis. -/
structure GridRun where
  start : Nat → Nat
  tag : Nat
  n : Nat
  axis : Nat

/-- The run that `X(b)`, `X(c)` and `X(d)` name. -/
def GridRun.of (xb xc xd : Word) : GridRun :=
  { start := fun k => xb.toNat / 2 ^ (21 * k) % 2 ^ 21, tag := xc.toNat, n := xd.toNat % 512, axis := xd.toNat / 512 % 4 }

/-- The cells of a run of a grid: the coordinate of an axis that the grid does not have is 0. -/
def Grid.runCells (g : Grid) (r : GridRun) : List (List Int) :=
  (List.range r.n).map fun j => (List.range 3).map fun k =>
    if k < g.dim then (r.start k : Int) - 8 + (if k = r.axis then (j : Int) else 0) else 0

/-- Checks 2 to 6 of R270. -/
def gridFault (s : State) (m : Image) (sa : Desc) (off : Word) (xb xc xd : Word) (g : Grid) (b : Nat) (store : Bool) :
    Option FaultRec :=
  let r := GridRun.of xb xc xd
  let cs := g.runCells r
  let op := fun (bad : Bool) (data : Nat) => if bad then some (operandFault m data) else none
  if xb.getLsbD 63 || xd.extractLsb' 11 53 != 0#53 || r.n == 0 || decide (256 < r.n) || decide (g.dim ≤ r.axis) ||
      decide (2 ^ 62 ≤ r.tag) then some (operandFault m 59)
  else
    match recSa s sa (nOf off) (r.n * g.es) 1 (!store) with
    | some f => some f
    | none =>
      if off.toNat % g.es ≠ 0 then some (FaultRec.mk cMisAccess 0 (segVa sa (nOf off)) (!store) false none 0)
      else
        match op (((List.range 3).any fun k => decide (g.dim ≤ k) && r.start k != 0) || !(cs.all (g.reaches b))) 57 with
        | some f => some f
        | none =>
          let c := g.steps.get? b
          let tagOk := match c with
            | none => store && r.tag == 0
            | some c => r.tag == (if store then c + 1 else c)
          if !tagOk then some (operandFault m 58)
          else op (store && r.tag % g.depth == 0 && cs.any fun xs => g.ring b xs != 0) 60

/-- A `gld` that finds stale cells (R268): it blocks, or the stall limit has passed and it faults. -/
def staleGld (s : State) (cid : Nat) (c : Ctx) (g : Grid) (b : Nat) (xs : List Int) : Eff :=
  let first := match c.stale with
    | some p => if p.2 = c.img.pc then p.1 else s.now
    | none => s.now
  if g.stall < s.now - first then
    .trap (s.setCtx cid { c with stale := none })
      (FaultRec.mk0 cHalo (g.ring b xs + 16 * g.strip b xs) c.img.pc.toNat)
  else .block (s.setCtx cid { c with stale := some (first, c.img.pc) }) .halo

/-- The stamps that a run reads (R267), by address. -/
def Grid.stampReads (g : Grid) (b : Nat) (cs : List (List Int)) : List Nat :=
  (cs.filter fun xs => g.ring b xs != 0).flatMap fun xs => g.stampPas b (g.strip b xs)

/-- `gld` (R269 to R271): it reads the stamps of its halo cells, and once all are fresh the cells; bad data in either faults (R270 check 7). -/
def execGld (d a b c : Reg) (sa : Slot) (n : BitVec 4) (s : State) : Out :=
  runGrid [a, b, c, d] n
    (fun s cid cx g blk =>
      let m := cx.img
      match gridFault s m (m.slot sa) (m.getX a) (m.getX b) (m.getX c) (m.getX d) g blk false with
      | some f => .trap (s.setCtx cid { cx with stale := none }) f
      | none =>
        let r := GridRun.of (m.getX b) (m.getX c) (m.getX d)
        let cs := g.runCells r
        match (g.stampReads blk cs).find? fun pa => s.badStore pa 4, cs.find? fun xs => g.ring blk xs != 0 && !s.fresh g blk xs r.tag with
        | some pa, _ => (s.setCtx cid { cx with stale := none }).storeTrap m pa 4
        | none, some xs => staleGld s cid cx g blk xs
        | none, none =>
          let pas := cs.map fun xs => g.cellPa blk (r.tag % 2) (g.index blk xs)
          match pas.find? fun pa => s.badStore pa g.es with
          | some pa => (s.setCtx cid { cx with stale := none }).storeTrap m pa g.es
          | none =>
            .done (s.bankWrite (coreGrove s.here) ((m.slot sa).base + (m.getX a).toNat) (pas.flatMap fun pa => s.homeBytes pa g.es))
              (m.next 8)) s

/-- `gst` (R269, R270, R272). Cells that lie together are written together, so a sector they replace whole is good again (R179). -/
def execGst (d a b c : Reg) (sa : Slot) (n : BitVec 4) (s : State) : Out :=
  runGrid [a, b, c, d] n
    (fun s _ cx g blk =>
      let m := cx.img
      match gridFault s m (m.slot sa) (m.getX a) (m.getX b) (m.getX c) (m.getX d) g blk true with
      | some f => .trap s f
      | none =>
        let r := GridRun.of (m.getX b) (m.getX c) (m.getX d)
        let bs := s.bankBytes (coreGrove s.here) ((m.slot sa).base + (m.getX a).toNat) (r.n * g.es)
        match s.saBad (m.slot sa) (m.getX a).toNat (r.n * g.es) with
        | some e => e
        | none =>
          .done (s.homeWrites ((g.runCells r).zipIdx.map fun p =>
            (g.cellPa blk (r.tag % 2) (g.index blk p.1), (bs.drop (g.es * p.2)).take g.es))) (m.next 8)) s

/-- `gstep` (R273): it blocks while a part of the step d before is still held; a frame cell that its refresh cannot read faults (R270
check 7). -/
def execGstep (c : Reg) (n : BitVec 4) (s : State) : Out :=
  runGrid [c] n
    (fun s _ cx g b =>
      let m := cx.img
      let t := (m.getX c).toNat
      if 2 ^ 62 ≤ t then .trap s (operandFault m 59)
      else if t ≠ (match g.steps.get? b with | none => 0 | some k => k + 1) then .trap s (operandFault m 58)
      else if t % g.depth = 0 then
        if g.held.any fun p => p.src == b && p.step + g.depth == t then .block s .access
        else
          match (g.refreshReads b t).find? fun pa => s.badStore pa g.es with
          | some pa => s.storeTrap m pa g.es
          | none =>
          let r := s.refresh n.toNat g b t
          .done (r.1.setGrid n.toNat { r.2 with steps := r.2.steps.set b t }) (m.next 8)
      else .done (s.setGrid n.toNat { g with steps := g.steps.set b t }) (m.next 8)) s

/-- Cells of a part are written into a frame of this module (R266 step 5): into none, when a later part has landed (R274). -/
def State.landCells (s : State) (g : Grid) (b strip src step : Nat) (cells : List (Nat × BitVec 32)) : State :=
  if g.overtaken b strip src step then s
  else s.homeWrites (cells.map fun c => (g.cellPa b (step % 2) c.1, leBytes g.es c.2.toNat))

/-- A part lands in a frame of this module (R266 step 5). One of a binding that has gone is dropped and counted (R260, R369). -/
def State.landPart (s : State) (p : HaloPart) (core : Nat) : State :=
  match (if p.old then none else s.grids.get? p.grid) with
  | none => s.logEngine (coreDie core) 9 0 p.grid (coreGrove core % 256) (coreInGrove core)
  | some g =>
    let s1 := s.landCells g p.dst p.strip p.src p.step p.cells
    if g.overtaken p.dst p.strip p.src p.step then s1
    else
      let r := s1.landStrip g p.dst p.strip p.src p.step
      r.1.setGrid p.grid r.2

/-- Cells of a part in one packet: 256 bytes of them (R331). -/
def Grid.packetCells (g : Grid) : Nat := 256 / g.es

/-- One packet of a part lands (R266 step 5): the part has been written once all of its packets have come. -/
def State.landPacket (s : State) (n : Nat) (g : Grid) (b strip src step first : Nat) (cells : List (Nat × BitVec 32)) : State :=
  if g.overtaken b strip src step then s
  else
    let key := 27 * b + strip
    let mine := fun l : Nat × Nat × Nat × Nat => l.1 == key && l.2.1 == src
    let came := first :: (g.arrived.filter fun l => mine l && l.2.2.1 == step).map fun l => l.2.2.2
    let count := ((g.partCells b strip src).length + g.packetCells - 1) / g.packetCells
    let s1 := s.landCells g b strip src step cells
    let others := g.arrived.filter fun l => !mine l
    if (List.range count).all fun k => came.contains (k * g.packetCells) then
      let r := s1.landStrip { g with arrived := others } b strip src step
      r.1.setGrid n r.2
    else s1.setGrid n { g with arrived := others ++ came.map fun k => (key, src, step, k) }

/-- A put-class transfer of a core has been sent (R378). -/
def State.chargeSent (s : State) (core : Nat) : State :=
  let k := s.core core
  s.setCore core { k with psent := k.psent + 1 }

/-- A put-class transfer of a core has ended (R378). -/
def State.chargeLanded (s : State) (core : Nat) : State :=
  let k := s.core core
  s.setCore core { k with pland := k.pland + 1 }

/-- Remove an element of a list. -/
def dropAt {α : Type} (ls : List α) (i : Nat) : List α := ls.take i ++ ls.drop (i + 1)

/-- A part that is on its way within the module arrives (R266 step 5, R378). The transfer is charged to the core that sent
it. -/
def State.partArrival (s : State) (i : Nat) : State :=
  match s.halos[i]? with
  | none => s
  | some (core, p) =>
    (({ s with halos := dropAt s.halos i }).landPart p core).chargeLanded core

/-- `HALO_PART_ARRIVAL` (R266). -/
def execHaloPartArrival (idx : Nat) (s : State) : Out := .next (s.partArrival idx)

/-- `HALO_STALL_LIMIT` (R268): the limit has passed, so the blocked `gld` is ready and raises its fault when it re-executes. -/
def State.stallLimit (s : State) (cid : Nat) : State :=
  match s.ctx? cid with
  | none => s
  | some c =>
    match c.wait, c.stale with
    | some .halo, some p =>
      if s.grids.any fun g => decide (g.2.stall < s.now - p.1) then s.makeReady cid else s
    | _, _ => s

/-- `HALO_STALL_LIMIT` (R268). -/
def execHaloStallLimit (cid : Nat) (s : State) : Out := .next (s.stallLimit cid)

end Sys2Proof.Machine
end

