-- ==== Sys2Proof/Machine/Fabric.lean ====
section
/-! DEFINITION. The fabric (R327 to R353): endpoints, sequence numbers, rate tables, transfers, and the arrival of writes and of
answers. -/

namespace Sys2Proof.Machine

open Sys2Proof

/-- The device of an endpoint (R327). -/
def epDev (e : Nat) : Nat := e / 16384 % 16384
/-- The core key of an endpoint (R327). -/
def epCore (e : Nat) : Nat := e % 16384
/-- The die of an endpoint (R327). -/
def epDie (e : Nat) : Nat := e / 2048 % 8
/-- The module's own device number. -/
def State.ownDev (s : State) : Nat := s.devid.toNat
/-- The endpoint of a core of this module; a service core sends as core 0 of grove 0 of its die. -/
def State.epOf (s : State) (core : Nat) : Nat := s.ownDev * 16384 + (if isService core then coreDie core * 2048 else core)

/-- The die of a port (R330). -/
def portDie (p : Nat) : Nat := if p = 16 then 0 else if p = 17 then 7 else p / 2
/-- The gateway grove of a port (R330). -/
def portGateway (p : Nat) : Nat :=
  portDie p * 256 +
    (if p = 16 then 128 else if p = 17 then 143
     else if portDie p < 4 then (if p % 2 = 0 then 4 else 11) else if p % 2 = 0 then 244 else 251)
/-- The gateway groves of a die, within the die (R330). -/
def gatewayGroves (die : Nat) : List Nat :=
  (if die < 4 then [4, 11] else [244, 251]) ++ (if die = 0 then [128] else if die = 7 then [143] else [])
/-- The gateway grove that translates for traffic within the module, which uses no port: the first of the target's die (log 13). -/
def gatewayOf (die : Nat) : Nat := die * 256 + (gatewayGroves die).headD 0

/-- The window length in picoseconds (R334). -/
def State.windowLen (s : State) : Nat := (s.fabwin.toNat % 128) * 1000000
/-- The current visibility window (R334). -/
def State.window (s : State) : Nat := s.sync / s.windowLen
/-- 1 µs in picoseconds. -/
def micro : Nat := 1000000

/-- The incarnation of a device as the peer table has it; the module's own for itself (R328). -/
def State.incOf (s : State) (dev : Nat) : BitVec 4 :=
  if dev = s.ownDev then s.incarnation else match s.peers.get? dev with | some p => p.inc | none => 0
/-- Is a device the module itself, or UP (R328, R342)? -/
def State.reachable (s : State) (dev : Nat) : Bool :=
  dev == s.ownDev || (match s.peers.get? dev with | some p => p.up | none => false)
/-- Is a packet from a device to be dropped (R328)? -/
def State.staleInc (s : State) (dev : Nat) (srcInc dstInc : BitVec 4) : Bool :=
  dstInc != s.incarnation || !s.reachable dev || srcInc != s.incOf dev

/-- Add to a fabric counter of a die: the high or the low half, which wraps (R340). -/
def State.bump (s : State) (d : Nat) (i : Fin 4) (high : Bool) (n : Nat) : State :=
  let die := s.die d
  let w := die.fabcnt[i]
  let hi := w.extractLsb' 32 32
  let lo := w.extractLsb' 0 32
  let w' := if high then (hi + BitVec.ofNat 32 n) ++ lo else hi ++ (lo + BitVec.ofNat 32 n)
  s.setDie d { die with fabcnt := die.fabcnt.set i w' }
/-- DUP (R340). -/
def State.countDup (s : State) (d : Nat) : State := s.bump d 0 true 1
/-- STALEINC (R340). -/
def State.countStale (s : State) (d : Nat) : State := s.bump d 0 false 1
/-- UNKNOWN (R340). -/
def State.countUnknown (s : State) (d : Nat) : State := s.bump d 1 true 1
/-- LATE (R340). -/
def State.countLate (s : State) (d : Nat) : State := s.bump d 1 false 1

/-- Nothing sent yet. -/
def SendSeq.fresh : SendSeq := { next := 0, window := 0, waits := [], msgNext := 0, closes := [] }
/-- Nothing received yet. -/
def RecvSeq.fresh : RecvSeq := { low := 0, placed := [], closed := [], refused := [], due := [] }
/-- A port after reset: down. -/
def Port.fresh : Port :=
  { up := false, version := 0, features := 0, sent := Vector.replicate 4 0, heard := Vector.replicate 4 0
    got := Vector.replicate 4 0, freed := Vector.replicate 4 0 }
/-- A port. -/
def State.port (s : State) (p : Nat) : Port := (s.ports.get? p).getD Port.fresh
/-- What a die keeps for a destination device. -/
def State.sendSeq (s : State) (die dev : Nat) : SendSeq := (s.sends.get? (16384 * die + dev)).getD SendSeq.fresh
/-- Replace it. -/
def State.setSend (s : State) (die dev : Nat) (q : SendSeq) : State := { s with sends := s.sends.set (16384 * die + dev) q }
/-- What the module keeps for the writes of a source die. -/
def State.recvSeq (s : State) (dev die : Nat) : RecvSeq := (s.recvs.get? (8 * dev + die)).getD RecvSeq.fresh
/-- Replace it. -/
def State.setRecv (s : State) (dev die : Nat) (r : RecvSeq) : State := { s with recvs := s.recvs.set (8 * dev + die) r }

/-- Flits of a packet with n payload bytes (R331). -/
def flits (n : Nat) : Nat := (32 + n + 63) / 64
/-- Payload bytes of a write. -/
def bodySize (b : FabBody) : Nat :=
  match b with
  | .data _ _ _ _ bs => bs.length
  | .reply _ bs => bs.length
  | .counter _ => 0
  | .version _ _ _ => 8
  | .part _ decl _ _ _ _ _ cs => (if decl.fmt = .bf16 then 2 else 4) * cs.length
/-- The virtual channel of a write (R332): requests, or responses for a `get` reply. -/
def bodyChannel (b : FabBody) : Fin 4 := match b with | .reply _ _ => 1 | _ => 0
/-- Flits of a channel's buffer (R332). -/
def channelSize (ch : Fin 4) : Nat := if ch.val < 2 then 160 else 96

/-- May a port send on a channel (R332)? -/
def Port.allows (p : Port) (ch : Fin 4) : Bool := p.up && decide ((p.sent[ch] - p.heard[ch]).toNat < channelSize ch)
/-- The port that a packet to another device takes: the lowest that may send on the channel (log 13). -/
def State.portFor (s : State) (ch : Fin 4) : Option Nat := (List.range 18).find? fun p => (s.port p).allows ch
/-- Flits leave on a port (R332). -/
def State.portSend (s : State) (p : Nat) (ch : Fin 4) (n : Nat) : State :=
  let q := s.port p
  { s with ports := s.ports.set p { q with sent := q.sent.set ch (q.sent[ch] + BitVec.ofNat 32 n) } }
/-- Flits arrive at a port and are freed (R332). -/
def State.portGot (s : State) (p : Nat) (ch : Fin 4) (n : Nat) : State :=
  let q := s.port p
  { s with ports := s.ports.set p { q with
      got := q.got.set ch (q.got[ch] + BitVec.ofNat 32 n), freed := q.freed.set ch (q.freed[ch] + BitVec.ofNat 32 n) } }
/-- A packet of a peer arrives at a port that is up: its flits are taken, and something happens. -/
def State.atPort (s : State) (p : Nat) (ch : Fin 4) (n : Nat) (f : State → State) : State :=
  if p < 18 && (s.port p).up then f (s.portGot p ch n) else s
/-- A packet leaves on the port it takes, if one may send. -/
def State.leave (s : State) (ch : Fin 4) (n : Nat) : State :=
  match s.portFor ch with
  | some p => s.portSend p ch n
  | none => s

/-- Has the module's clock drifted (R334)? -/
def State.drifted (s : State) : Bool := (List.range Config.dies).any fun d => (s.die d).drift

/-- The writes of a die to a device that have no answer yet (R337), the messages among them (R336). -/
def State.unacked (s : State) (die dev : Nat) : Nat :=
  s.cores.foldl (fun n p =>
    if coreDie p.1 = die then
      n + (p.2.inj.filter fun e => match e with | .msg m => m.seq.isSome && epDev m.dst == dev | .xfer _ => false).length
    else n) (s.sendSeq die dev).waits.length

/-- Is a die below its limit of writes without an answer to a device, with room for `n` more (R337)? -/
def State.ackRoom (s : State) (die dev n : Nat) : Bool := decide (s.unacked die dev + n ≤ 4096)

/-- May a die send a new write to a device on a channel now (R332, R334, R337)? -/
def State.canSend (s : State) (die dev : Nat) (ch : Fin 4) : Bool :=
  !s.drifted && s.ackRoom die dev 1 && (dev == s.ownDev || (s.portFor ch).isSome)

/-- Send a fabric write (R336, R337): the next number of its pair, the current window; within the module it is on its way. -/
def State.sendWrite (s : State) (srcEp dst xfer : Nat) (body : FabBody) (owner : Option (Nat × Nat)) : State × BitVec 32 :=
  let die := epDie srcEp
  let dev := epDev dst
  let q := s.sendSeq die dev
  let pkt : FabPacket :=
    { srcEp := srcEp, srcInc := s.incarnation, dstEp := dst, dstInc := s.incOf dev, seq := q.next.toNat, window := s.window
      xfer := xfer, body := body }
  let s1 := s.setSend die dev { q with
    next := q.next + 1, window := s.window, waits := q.waits ++ [{ packet := pkt, time := s.sync, owner := owner }] }
  let s2 := if dev = s.ownDev then { s1 with packets := s1.packets ++ [pkt] } else s1.leave (bodyChannel body) (flits (bodySize body))
  (s2, q.next)

/-- A core sends a fabric write of a transfer or a message (R189): the latest window in which it has sent one, for the `fence.w` to come and for
those that wait and are younger. -/
def State.noteWindow (s : State) (core id : Nat) : State :=
  let t := s.setCore core { s.core core with lastWin := some s.window }
  { t with ctxs := t.ctxs.map fun p =>
      match p.2.winWait with
      | some w =>
        if w.core == core && decide (id < w.serial) then (p.1, { p.2 with winWait := some { w with win := some s.window } }) else p
      | none => p }

/-- The slot of a rate table for a target (R335). -/
def Core.rateSlot (c : Core) (dev die : Nat) : Option (Nat × RateEntry) := c.rate.find? fun p => p.2.dev == dev && p.2.die == die

/-- May a core send to a target now (R335)? -/
def State.paced (s : State) (core dst : Nat) : Bool :=
  match (s.core core).rateSlot (epDev dst) (epDie dst) with
  | some e => decide (e.2.next ≤ s.sync)
  | none => true

/-- Space the packets to a throttled target (R335): q/64 of 200 GB/s, that is 5 ps a byte at the full rate. -/
def State.pace (s : State) (core dst bytes : Nat) : State :=
  let c := s.core core
  match c.rateSlot (epDev dst) (epDie dst) with
  | some e => s.setCore core { c with rate := c.rate.set e.1 { e.2 with next := s.sync + bytes * 320 / e.2.q } }
  | none => s

/-- An echo (R335): halve, at most once per 2 µs, or allocate an entry with q = 32. -/
def State.echo (s : State) (core dev die : Nat) : State :=
  let c := s.core core
  match c.rateSlot dev die with
  | some (k, e) =>
    if (match e.halved with | some t => decide (t + 2 * micro ≤ s.sync) | none => true) then
      s.setCore core { c with rate := c.rate.set k { e with q := max 1 (e.q / 2), halved := some s.sync, echo := s.sync } }
    else s.setCore core { c with rate := c.rate.set k { e with echo := s.sync } }
  | none =>
    let free := (List.range 64).find? fun k => (c.rate.get? k).isNone
    let top := c.rate.foldl (fun m p => max m p.2.q) 0
    let slot := match free with
      | some k => k
      | none => match c.rate.find? fun p => p.2.q == top with | some p => p.1 | none => 0
    s.setCore core { c with rate := c.rate.set slot { dev := dev, die := die, q := 32, halved := none, echo := s.sync, next := s.sync } }

/-- `RATE_RECOVERY` (R335): after 8 µs without an echo q rises by 4; an entry that reaches 64 is freed. -/
def State.rateRecover (s : State) (core slot : Nat) : State :=
  let c := s.core core
  match c.rate.get? slot with
  | none => s
  | some e =>
    if s.sync < e.echo + 8 * micro then s
    else if 60 ≤ e.q then s.setCore core { c with rate := c.rate.erase slot }
    else s.setCore core { c with rate := c.rate.set slot { e with q := e.q + 4, echo := s.sync } }

/-- `RATE_RECOVERY` (R335). -/
def execRateRecovery (core slot : Nat) (s : State) : Out := .next (s.rateRecover core slot)

/-- A transfer. -/
def State.xfer? (s : State) (id : Nat) : Option Xfer := s.xfers.find? fun x => x.id == id

/-- Replace a transfer, or end it. -/
def State.setXfer (s : State) (id : Nat) (x : Option Xfer) : State :=
  { s with xfers := s.xfers.filterMap fun y => if y.id = id then x else some y }

/-- Is a transfer put-class (R378)? -/
def Xfer.charged (x : Xfer) : Bool := match x.kind with | .get _ => false | _ => true

/-- Change one target of a transfer. -/
def Xfer.updLeg (x : Xfer) (i : Nat) (f : Leg → Leg) : Xfer :=
  { x with legs := x.legs.zipIdx.map fun p => if p.2 = i then f p.1 else p.1 }

/-- The write that follows the payload at a target (R343 step 6, R346 step 3). -/
def Xfer.tail (x : Xfer) (l : Leg) : Option FabBody :=
  match x.kind with
  | .put (some cnt) => some (.counter cnt)
  | .pub v => some (.version l.virt (l.addr + (x.len + 7) / 8 * 8) v)
  | _ => none

/-- A put-status-unknown reaches the context that issued the transfer, or the engine error log (R345, R347). -/
def State.psuTo (s : State) (cid uid core : Nat) (f : PsuFault) : State :=
  let live := match s.ctx? cid with
    | some c => c.uid == uid && (match c.where_ with | .ended => false | _ => true)
    | none => false
  if live then s.updCtx cid fun c => { c with psu := sortBy (fun a b => decide (a.sent ≤ b.sent)) (c.psu ++ [f]) }
  else s.logEngine (coreDie core) 8 0 f.target (coreGrove core % 256) (coreInGrove core)

/-- The end of a transfer (R343 step 8, R345, R346): the status word of the lowest failing target, the completion word, the slot; the
counter of a `get`; a put-status-unknown; the machine check of a halo part (R266, R408). -/
def State.finishXfer (s : State) (x : Xfer) : State :=
  let g := coreGrove x.core
  let bad := x.legs.zipIdx.find? fun p => p.1.fail.isSome
  let status := bad.bind fun p => p.1.fail.map fun f =>
    BitVec.ofNat 64 (f.1 * 2 ^ 56 + (if f.2 then 2 ^ 55 else 0) + p.2 % 64 * 2 ^ 32)
  let lost := x.legs.find? fun l => l.psu
  match x.kind with
  | .part p =>
    if lost.isSome then s.machineCheck (coreDie x.core) 4 0 (p.grid * 32 + p.strip) 0 (g % 256) (coreInGrove x.core) else s
  | k =>
    let s1 := match k, bad with
      | .get (some cnt), none => s.bankWrite g cnt (leBytes 8 ((leNat (s.bankBytes g cnt 8) + 1) % 2 ^ 64))
      | _, _ => s
    let s2 := s1.complete g x.cw x.xd status x.ds x.dep
    match lost with
    | some l => s2.psuTo x.cid x.uid x.core { sent := x.sentNo.getD x.id, va := l.addr % 2 ^ 56, target := l.dst, w := x.charged }
    | none => s2

/-- Has the payload of a target been sent? Where a last write follows it, the entry still stands in the injection queue (R335). -/
def Xfer.payloadSent (x : Xfer) (l : Leg) : Bool := l.left || (decide (x.len ≤ l.next) && (x.tail l).isSome)

/-- Has the payload of a target been sent and answered, or the target failed? -/
def Xfer.payloadDone (x : Xfer) (l : Leg) : Bool :=
  x.payloadSent l && l.waits.isEmpty &&
    (match x.kind with
     | .get _ => l.fail.isSome || decide (x.len ≤ 256 * x.got.length)
     | _ => true)

/-- Has a target still to be sent its last write, now that its payload has been placed (R343 step 6, R346 step 3)? -/
def Xfer.tailReady (x : Xfer) (l : Leg) : Bool :=
  !l.done && x.payloadDone l && l.fail.isNone && !l.tailSent && (x.tail l).isSome

/-- Has a target something that can be sent now? -/
def Xfer.sendable (x : Xfer) (l : Leg) : Bool := !l.left && (!x.payloadSent l || x.tailReady l)

/-- A target leaves the injection queue (R378); the entry does with its last target. -/
def State.leaveLeg (s : State) (x : Xfer) (i : Nat) (f : Leg → Leg) : State :=
  let s1 := if x.charged then s.chargeSent x.core else s
  let y := x.updLeg i fun l => { f l with left := true }
  let s2 := s1.setXfer x.id (some y)
  if y.legs.all fun l => l.left then
    let c := s2.core x.core
    s2.setCore x.core { c with inj := c.inj.filter fun e => e != .xfer x.id }
  else s2

/-- One target of a transfer goes on (R343 steps 6 to 8, R378): it has ended once all its writes have been answered. One whose payload has failed
leaves the queue then, without its last write. -/
def State.progressLeg (s : State) (id i : Nat) : State :=
  match s.xfer? id with
  | none => s
  | some x =>
    match x.legs[i]? with
    | none => s
    | some l =>
      if l.done || !x.payloadDone l || x.tailReady l then s
      else
        let s1 := if l.left then s else s.leaveLeg x i fun l => l
        let s2 := if x.charged then s1.chargeLanded x.core else s1
        s2.setXfer id (some (x.updLeg i fun l => { l with left := true, done := true }))

/-- A transfer goes on; it ends when every target has ended. -/
def State.progress (s : State) (id : Nat) : State :=
  match s.xfer? id with
  | none => s
  | some x =>
    let s1 := (List.range x.legs.length).foldl (fun (t : State) i => t.progressLeg id i) s
    match s1.xfer? id with
    | none => s1
    | some y => if y.legs.all fun l => l.done then (s1.setXfer id none).finishXfer y else s1

/-- A target leaves the injection queue, and the transfer goes on. -/
def State.leaveQueue (s : State) (x : Xfer) (i : Nat) (f : Leg → Leg) : State := (s.leaveLeg x i f).progress x.id

/-- The targets that an entry of an injection queue has still to send to. -/
def State.injTargets (s : State) (e : Inj) : List Nat :=
  match e with
  | .msg m => [m.dst]
  | .xfer id =>
    match s.xfer? id with
    | some x => (x.legs.filter fun l => !l.left).map fun l => l.dst
    | none => []

/-- May an entry be sent: no older entry has its target, and its target is not throttled (R335)? -/
def State.mayLeave (s : State) (core idx dst : Nat) : Bool :=
  s.paced core dst &&
    (((s.core core).inj.take idx).all fun e =>
      (s.injTargets e).all fun d => epDev d != epDev dst || epDie d != epDie dst)

/-- The order of sending (R400): a transfer takes its place with its first packet. -/
def State.noteSent (s : State) (id : Nat) : State :=
  match s.xfer? id with
  | some x => if x.sentNo.isSome then s else { s.setXfer id (some { x with sentNo := some s.serial }) with serial := s.serial + 1 }
  | none => s

/-- A packet of a transfer to one of its targets has been made: it leaves as a fabric write of the core. -/
def State.sendPacket (s : State) (x : Xfer) (i : Nat) (l : Leg) (body : FabBody) : State × BitVec 32 :=
  let r := s.sendWrite (s.epOf x.core) l.dst x.id body (some (x.id, i))
  ((r.1.noteWindow x.core x.id).pace x.core l.dst (64 * flits (bodySize body)), r.2)

/-- The next packet of a `put` or a `pub` (R343 steps 2, 4 and 6; R346), or the request of a `get`. The target leaves the queue with the last of
them, its counter increment or its version. -/
def State.sendNext (s : State) (x : Xfer) (i : Nat) (l : Leg) : State :=
  match x.kind with
  | .get _ =>
    let req : GetReq :=
      { srcEp := s.epOf x.core, srcInc := s.incarnation, dstEp := l.dst, dstInc := s.incOf (epDev l.dst), virt := l.virt
        addr := l.addr, len := x.len, xfer := x.id }
    let s1 := if epDev l.dst = s.ownDev then { s with gets := s.gets ++ [req] } else s.leave 0 (flits 0)
    (s1.pace x.core l.dst (64 * flits 0)).leaveQueue { x with window := s.window, inc := s.incOf (epDev l.dst) } i fun l => l
  | _ =>
    if x.len ≤ l.next then
      match x.tail l with
      | none => s.leaveQueue x i fun l => l
      | some body =>
        let r := s.sendPacket x i l body
        r.1.leaveQueue x i fun l => { l with tailSent := true, waits := [r.2] }
    else
      let n := min 256 (x.len - l.next)
      let failed := fun (t : State) (code : Nat) => t.leaveQueue x i fun l => { l with fail := some (code, false) }
      match s.places (.micro x.core) (coreGrove x.core) x.desc (x.off + l.next : Nat) n .read false with
      | (s1, .error f) => failed s1 f.code
      | (s1, .ok ps) =>
        match s1.readPlaces (coreDie x.core) ps x.desc.streams with
        | (s2, .error _) => failed s2 cUncorr
        | (s2, .ok bs) =>
          let r := s2.sendPacket x i l (.data l.virt l.addr x.len l.next bs)
          let upd := fun l : Leg => { l with next := l.next + n, waits := l.waits ++ [r.2] }
          if x.len ≤ l.next + n && (x.tail l).isNone then r.1.leaveQueue x i upd else r.1.setXfer x.id (some (x.updLeg i upd))

/-- Replace an entry of a core's injection queue. -/
def State.setInj (s : State) (core idx : Nat) (e : Inj) : State :=
  let c := s.core core
  s.setCore core { c with inj := c.inj.take idx ++ [e] ++ c.inj.drop (idx + 1) }

/-- The bytes 8 to 31 and the addresses of a message as it travels (R347). -/
def State.msgPacket (s : State) (core : Nat) (m : MsgOut) (seq : BitVec 32) : MsgPacket :=
  { srcEp := s.epOf core, srcInc := s.incarnation, dstEp := m.dst, dstInc := m.inc, seq := seq.toNat, tag := m.tag, pay := m.pay }

/-- A message is transmitted (R347): the first time it takes the next message number of its pair and the target's incarnation, which it
keeps. -/
def State.sendMsg (s : State) (core idx : Nat) (m : MsgOut) : State :=
  let die := coreDie core
  let dev := epDev m.dst
  let q := s.sendSeq die dev
  let seq := m.seq.getD q.msgNext
  let m1 := { (if m.seq.isSome then m else { m with inc := s.incOf dev, sentNo := s.serial, first := s.sync }) with
    seq := some seq, last := s.sync, refused := false }
  let s1 := if m.seq.isSome then s else { s.setSend die dev { q with msgNext := q.msgNext + 1 } with serial := s.serial + 1 }
  let s2 := if dev = s.ownDev then { s1 with msgs := s1.msgs ++ [s.msgPacket core m1 seq] } else s1.leave 2 (flits 32)
  let s3 := if m.seq.isSome then s2 else s2.noteWindow core m.id
  (s3.pace core m.dst (64 * flits 32)).setInj core idx (.msg m1)

/-- May a message be transmitted to a device now (R332)? -/
def State.msgCan (s : State) (dev : Nat) : Bool := dev == s.ownDev || (s.portFor 2).isSome

/-- An entry of an injection queue sends its next packet (R335, R336), to the first of its targets that can be sent one. -/
def State.injSend (s : State) (core idx : Nat) : State :=
  match (s.core core).inj[idx]? with
  | none => s
  | some (.msg m) =>
    if m.seq.isSome || !s.mayLeave core idx m.dst || !s.canSend (coreDie core) (epDev m.dst) 2 then s else s.sendMsg core idx m
  | some (.xfer id) =>
    match s.xfer? id with
    | none => s
    | some x =>
      match x.legs.zipIdx.find? fun p =>
          x.sendable p.1 && s.mayLeave core idx p.1.dst && s.canSend (coreDie core) (epDev p.1.dst) 0 with
      | none => s
      | some (l, i) =>
        let t := s.noteSent id
        match t.xfer? id with
        | some y => t.sendNext y i l
        | none => s

/-- `INJECTION_SEND` (R335). -/
def execInjectionSend (core idx : Nat) (s : State) : Out := .next (s.injSend core idx)

/-- What the module knows of a number (R337): `beyond` is one that lies 4,096 or more above the low edge, of which the rule's table says
nothing (log 77). -/
inductive SeqState
  | open_
  | placed
  | refused (code : Nat)
  | closed
  | beyond
  deriving DecidableEq, Repr

/-- Does a number lie above the low edge, or among the 8,192 below it (R337)? A message number that lies above the window is kept as well, since a
message is placed whenever it first arrives (R347). -/
def RecvSeq.known (r : RecvSeq) (q : BitVec 32) : Bool := decide ((q - r.low).toNat < 2 ^ 31) || decide ((r.low - q).toNat ≤ 8192)

/-- The state of a number (R337): one further below counts as closed. -/
def RecvSeq.state (r : RecvSeq) (q : BitVec 32) : SeqState :=
  if r.placed.contains q then .placed
  else match r.refused.find? fun p => p.1 == q with
    | some p => .refused p.2
    | none =>
      let above := (q - r.low).toNat
      if r.closed.contains q then .closed
      else if above < 4096 then .open_
      else if above < 2 ^ 31 then .beyond
      else .closed

/-- The low edge passes every number that has been placed, refused or closed (R337). -/
def RecvSeq.raise (fuel : Nat) (r : RecvSeq) : RecvSeq :=
  match fuel with
  | 0 => r
  | n + 1 => if r.state r.low == .open_ then r else RecvSeq.raise n { r with low := r.low + 1 }

/-- Raise the low edge and forget what lies too far below it (R337). -/
def RecvSeq.advance (r : RecvSeq) : RecvSeq :=
  let t := r.raise (r.placed.length + r.closed.length + r.refused.length + 1)
  { t with placed := t.placed.filter t.known, closed := t.closed.filter t.known, refused := t.refused.filter fun p => t.known p.1 }

/-- Close the numbers below one that are still open (R337). The low edge passes them; the last 8,192 are remembered. -/
def RecvSeq.closeBelow (r : RecvSeq) (q : BitVec 32) : RecvSeq :=
  let n := (q - r.low).toNat
  if n = 0 || 2 ^ 31 ≤ n then r
  else
    let last := (List.range (min n 8192)).map fun k => q - BitVec.ofNat 32 (k + 1)
    let hit := last.filter fun k => match r.state k with | .open_ => true | .beyond => true | _ => false
    { r with low := q, closed := r.closed ++ hit }

/-- The pages of a range under the resident program's tables, as a gateway translates them (R343 step 3); the fault code. -/
def State.gatewayPlaces (s : State) (gw addr len : Nat) (acc : Access) : State × Except Nat (List (Place × Nat)) :=
  let d : Desc := ⟨BitVec.ofNat 64 addr, BitVec.ofNat 64 len, BitVec.ofNat 64 (kGlobal + 256 * (s.rasid.toNat % 4096)), 0⟩
  (pagesOf (pageFuel len) s (.gateway gw) d.asid addr len acc)
where
  /-- The places page by page. -/
  pagesOf (fuel : Nat) (s : State) (a : TlbAt) (asid va len : Nat) (acc : Access) : State × Except Nat (List (Place × Nat)) :=
    match fuel with
    | 0 => (s, .ok [])
    | k + 1 =>
      if len = 0 then (s, .ok [])
      else
        match s.leafAt a asid va with
        | (s1, .error _) => (s1, .error cData)
        | (s1, .ok l) =>
          match s1.useLeaf l va acc with
          | .error _ => (s1, .error cData)
          | .ok pa =>
            if kindOfPa pa = 0 then (s1, .error cSegment)
            else
              let n := min len (2 ^ l.shift - va % 2 ^ l.shift)
              match pagesOf k s1 a asid (va + n) (len - n) acc with
              | (s2, .ok ps) => (s2, .ok ((.phys pa, n) :: ps))
              | (s2, .error e) => (s2, .error e)

/-- The part of a list of places from an offset on. -/
def skipPlaces (ps : List (Place × Nat)) (off : Nat) : List (Place × Nat) :=
  match ps with
  | [] => []
  | (p, n) :: rest =>
    if n ≤ off then skipPlaces rest (off - n)
    else
      (match p with
       | .phys pa => Place.phys (pa + off)
       | .bank g o => Place.bank g (o + off), n - off) :: rest

/-- Write bytes at places. -/
def State.writePlaces (s : State) (ps : List (Place × Nat)) (bs : List Byte) (streaming : Bool) : State :=
  (dealBytes ps bs).foldl (fun (t : State) w => t.writePlace w.1 w.2 streaming) s

/-- Does a packet of a strip fit the declaration held here (R260, R266, R331)? -/
def Grid.fits (g : Grid) (decl : GridDecl) (block strip src first : Nat) (cells : List (Nat × BitVec 32)) : Bool :=
  g.decl == decl && (g.ownerCore block).isSome && src != block && first % g.packetCells == 0 && !cells.isEmpty &&
    cells.map Prod.fst == ((g.partCells block strip src).drop first).take g.packetCells

/-- A reply packet lands in the range of the `get` that asked for it (R343), unless the `get` is to end put-status-unknown (R338). -/
def State.landReply (s : State) (id off : Nat) (bs : List Byte) : State :=
  match s.xfer? id with
  | none => s
  | some x =>
    match x.kind with
    | .get _ =>
      if x.got.contains off || x.window + 3 ≤ s.window then s
      else
        match s.places (.micro x.core) (coreGrove x.core) x.desc (x.off + off : Nat) bs.length .write true with
        | (s1, .error f) =>
          (s1.setXfer id (some (x.updLeg 0 fun l => { l with fail := some (l.fail.getD (f.code, false)) }))).progress id
        | (s1, .ok ps) => ((s1.writePlaces ps bs x.desc.streams).setXfer id (some { x with got := x.got ++ [off] })).progress id
    | _ => s

/-- How a write ends at its destination: placed, refused with a fault code, or dropped without an answer. -/
inductive Placing
  | placed
  | refused (code : Nat)
  | dropped
  deriving DecidableEq, Repr

/-- A packet of a halo strip reaches its destination (R260, R266 step 5): one that no declaration here fits is dropped and counted; one whose
receiver has not committed the step, which no sender sends, has no effect. -/
def State.placePart (s : State) (p : FabPacket) (n : Nat) (decl : GridDecl) (block strip src step first : Nat)
    (cells : List (Nat × BitVec 32)) : State × Placing :=
  match (s.grids.get? n).filter fun g => g.fits decl block strip src first cells with
  | some g =>
    if g.committed block step then (s.landPacket n g block strip src step first cells, .placed) else (s, .dropped)
  | none => (s.logEngine (epDie p.dstEp) 9 0 n (epCore p.dstEp / 8 % 256) (epCore p.dstEp % 8), .dropped)

/-- A fabric write is performed at its destination (R343 steps 3 to 6, R346, R266), translated by a gateway. -/
def State.placeBody (s : State) (gw : Nat) (p : FabPacket) : State × Placing :=
  let g := epCore p.dstEp / 8
  let put := fun (virt : Bool) (base len off : Nat) (bs : List Byte) =>
    if virt then
      match s.gatewayPlaces gw base len .write with
      | (s1, .error e) => (s1, Placing.refused e)
      | (s1, .ok ps) => (s1.writePlaces (skipPlaces ps off) bs false, .placed)
    else if Config.clusterBytes < base + len then (s, .refused cSegment)
    else (s.bankWrite g (base + off) bs, .placed)
  match p.body with
  | .data virt base len off bs => put virt base len off bs
  | .version virt addr v => put virt addr 8 0 (leBytes 8 v.toNat)
  | .counter off =>
    if Config.clusterBytes < off + 8 then (s, .refused cSegment)
    else (s.bankWrite g off (leBytes 8 ((leNat (s.bankBytes g off 8) + 1) % 2 ^ 64)), .placed)
  | .reply off bs => (s.landReply p.xfer off bs, .placed)
  | .part n decl block strip src step first cells => s.placePart p n decl block strip src step first cells

/-- An answer goes back to the source die of a write, a request or a message. -/
def State.answer (s : State) (kind : AckKind) (srcEp seq : Nat) (refusal : Option Nat) : State :=
  if epDev srcEp = s.ownDev then
    { s with answers := s.answers ++
        [{ kind := kind, die := epDie srcEp, dev := s.ownDev, srcInc := s.incarnation, dstInc := s.incarnation, seq := seq
           refusal := refusal, echo := false, port := 0 }] }
  else s.leave 1 (flits 0)

/-- A fabric write arrives at a gateway (R328, R336, R337): dropped, answered again, or placed and acknowledged. While a checkpoint runs it is
neither placed nor acknowledged (R422). -/
def State.writeArrival (s : State) (gw : Nat) (p : FabPacket) : State :=
  let die := epDie p.dstEp
  let dev := epDev p.srcEp
  let src := epDie p.srcEp
  if (s.die die).paused then s
  else if s.staleInc dev p.srcInc p.dstInc then s.countStale (groveDie gw)
  else
    let q := BitVec.ofNat 32 p.seq
    let r := s.recvSeq dev src
    let r1 := { r with due := r.due ++ [(q, p.window)] }
    match r.state q with
    | .placed => (s.countDup die).answer .write p.srcEp p.seq none
    | .refused c => s.answer .write p.srcEp p.seq (some c)
    | .closed => s.countLate die
    | .beyond => s.setRecv dev src r1
    | .open_ =>
      if p.window + 2 ≤ s.window then
        (s.setRecv dev src { r1 with closed := r1.closed ++ [q] }.advance).countLate die
      else
        match s.placeBody gw p with
        | (s1, .placed) => (s1.setRecv dev src { r1 with placed := r1.placed ++ [q] }.advance).answer .write p.srcEp p.seq none
        | (s1, .refused c) =>
          (s1.setRecv dev src { r1 with refused := r1.refused ++ [(q, c)] }.advance).answer .write p.srcEp p.seq (some c)
        | (s1, .dropped) => s1.setRecv dev src r1

/-- Can an answer leave (R332)? Until it can, what is to be answered waits in the receive buffer. -/
def State.mayAnswer (s : State) : Bool := (s.portFor 1).isSome

/-- `FABRIC_WRITE_ARRIVAL` (R336). A peer's write that arrives while a checkpoint runs is neither placed nor acknowledged (R422). -/
def execFabricWriteArrival (p : FabSource) (s : State) : Out :=
  .next (match p with
    | .own i =>
      (match s.packets[i]? with
       | some k => ({ s with packets := dropAt s.packets i }).writeArrival (gatewayOf (epDie k.dstEp)) k
       | none => s)
    | .peer port k =>
      if epDev k.srcEp = s.ownDev || !s.mayAnswer then s
      else s.atPort port (bodyChannel k.body) (flits (bodySize k.body)) fun t =>
        if t.ckPhase != 0 then t else t.writeArrival (portGateway port) k)

/-- A failure or an answer of one write of a transfer. -/
def Leg.answered (l : Leg) (q : BitVec 32) (refusal : Option Nat) : Leg :=
  { l with
    waits := l.waits.erase q
    fail := match refusal with | some c => some (l.fail.getD (c, true)) | none => l.fail }

/-- An answer to a write (R337, R343, R335), by the incarnation that it was sent to; one that comes once window N + 3 has begun is too
late (R338). -/
def State.writeAnswered (s : State) (a : FabAck) : State :=
  let q := s.sendSeq a.die a.dev
  match q.waits.find? fun w => w.packet.seq == a.seq && w.packet.dstInc == a.srcInc && decide (s.window < w.packet.window + 3) with
  | none => s
  | some w =>
    let s1 := s.setSend a.die a.dev { q with waits := q.waits.erase w }
    match w.owner with
    | none => s1
    | some (id, i) =>
      match s1.xfer? id with
      | none => s1
      | some x =>
        let s2 := if a.echo then s1.echo x.core a.dev (epDie w.packet.dstEp) else s1
        (s2.setXfer id (some (x.updLeg i fun l => l.answered (BitVec.ofNat 32 a.seq) a.refusal))).progress id

/-- A refusal of a `get` request (R343), likewise. -/
def State.getAnswered (s : State) (a : FabAck) : State :=
  match s.xfer? a.seq with
  | none => s
  | some x =>
    match x.kind, x.legs.head? with
    | .get _, some l =>
      let s1 := if a.echo then s.echo x.core a.dev (epDie l.dst) else s
      if x.inc != a.srcInc || x.window + 3 ≤ s.window then s else
      (match a.refusal with
       | some c => (s1.setXfer x.id (some (x.updLeg 0 fun l => { l with fail := some (l.fail.getD (c, true)) }))).progress x.id
       | none => s1)
    | _, _ => s

/-- The cores of a die in rising order. -/
def dieCores (d : Nat) : List Nat :=
  ((List.range 2048).map fun k => d * 2048 + k) ++ (List.range 4).map fun k => Config.allCores + 4 * d + k

/-- The message of a die to a device with a number, of those that meet a condition: core, place in the queue, message. -/
def State.findMsg (s : State) (die dev seq : Nat) (ok : MsgOut → Bool) : Option (Nat × Nat × MsgOut) :=
  (dieCores die).findSome? fun k =>
    ((s.core k).inj.zipIdx.findSome? fun p =>
      match p.1 with
      | .msg m => if epDev m.dst = dev && m.seq == some (BitVec.ofNat 32 seq) && ok m then some (k, p.2, m) else none
      | .xfer _ => none)

/-- An answer to a message (R347): a refusal keeps it at the head of the queue. -/
def State.msgAnswered (s : State) (a : FabAck) : State :=
  match s.findMsg a.die a.dev a.seq fun m => m.inc == a.srcInc with
  | none => s
  | some (k, i, m) =>
    let s1 := if a.echo then s.echo k a.dev (epDie m.dst) else s
    match a.refusal with
    | some _ => s1.setInj k i (.msg { m with answer := some s.sync, refused := true })
    | none => s1.setCore k { s1.core k with inj := dropAt (s1.core k).inj i }

/-- What an answer does (R335, R337, R343, R347). -/
def State.answered (s : State) (a : FabAck) : State :=
  match a.kind with
  | .write => s.writeAnswered a
  | .get => s.getAnswered a
  | .msg => s.msgAnswered a
  | .close =>
    let q := s.sendSeq a.die a.dev
    s.setSend a.die a.dev { q with closes := q.closes.filter fun c => !(c.seq == BitVec.ofNat 32 a.seq && c.inc == a.srcInc) }

/-- An acknowledgement, refusal or echo arrives: dropped (R328), or it has its effect. -/
def State.ackArrival (s : State) (a : FabAck) : State :=
  if a.dev = s.ownDev then
    if s.answers.contains a then
      let s1 : State := { s with answers := s.answers.erase a }
      if s1.staleInc a.dev a.srcInc a.dstInc then s1.countStale a.die else s1.answered a
    else s
  else s.atPort a.port 1 (flits 0) fun t =>
    if t.staleInc a.dev a.srcInc a.dstInc then t.countStale (portDie a.port) else t.answered a

/-- `FABRIC_ACK_ARRIVAL` (R337). -/
def execFabricAckArrival (a : FabAck) (s : State) : Out := .next (s.ackArrival a)

/-- A write that has no answer after 2 µs is sent again, on a path that is up (R337). The numbers from 2^32 on name close notices, which are
sent again as well (R347). -/
def State.resend (s : State) (die dev seq port : Nat) : State :=
  let q := s.sendSeq die dev
  if seq < 2 ^ 32 then
    match q.waits.find? fun w => w.packet.seq == seq && decide (w.time + 2 * micro ≤ s.sync) with
    | none => s
    | some w =>
      let ch := bodyChannel w.packet.body
      let t := s.setSend die dev { q with waits := q.waits.map fun x => if x = w then { x with time := s.sync } else x }
      if dev = s.ownDev then { t with packets := t.packets ++ [w.packet] }
      else if (s.port port).allows ch then t.portSend port ch (flits (bodySize w.packet.body))
      else s
  else
    match q.closes.find? fun c => c.seq == BitVec.ofNat 32 seq && decide (c.time + 2 * micro ≤ s.sync) with
    | none => s
    | some c =>
      if dev != s.ownDev && (s.port port).allows 3 then
        (s.setSend die dev { q with closes := q.closes.map fun x => if x = c then { x with time := s.sync } else x }).portSend port 3 1
      else s

/-- `RETRANSMIT` (R337). -/
def execRetransmit (die dev seq port : Nat) (s : State) : Out := .next (s.resend die dev seq port)

/-- A part is held no longer. -/
def State.dropHeld (s : State) (p : HaloPart) : State :=
  match s.grids.get? p.grid with
  | some g => s.setGrid p.grid { g with held := g.held.erase p }
  | none => s

/-- One target of a transfer ends put-status-unknown (R338): it sends no more. -/
def State.legUnknown (s : State) (id i : Nat) (q : Option (BitVec 32)) : State :=
  match s.xfer? id with
  | none => s
  | some x =>
    match x.legs[i]? with
    | none => s
    | some l =>
      let upd := fun l : Leg =>
        { l with
          waits := match q with | some q => l.waits.erase q | none => []
          fail := some (l.fail.getD (cPsu, false)), psu := true }
      if l.left then (s.setXfer id (some (x.updLeg i upd))).progress id else (match x.kind with | .part p => s.dropHeld p | _ => s).leaveQueue x i upd

/-- A write or a `get` request has no answer when window N + 3 begins (R338, R343). A `get` is named by 2^32 + its transfer. -/
def State.unknown (s : State) (die dev seq : Nat) : State :=
  if seq < 2 ^ 32 then
    let q := s.sendSeq die dev
    match q.waits.find? fun w => w.packet.seq == seq && decide (w.packet.window + 3 ≤ s.window) with
    | none => s
    | some w =>
      let s1 := (s.setSend die dev { q with waits := q.waits.erase w }).countUnknown die
      match w.owner with
      | some (id, i) => s1.legUnknown id i (some (BitVec.ofNat 32 seq))
      | none => s1
  else
    match s.xfer? (seq - 2 ^ 32) with
    | none => s
    | some x =>
      match x.kind, x.legs.head? with
      | .get _, some l => if l.left && decide (x.window + 3 ≤ s.window) then s.legUnknown x.id 0 none else s
      | _, _ => s

/-- What is overdue ends: every transfer ends by window N + 3 (R378). -/
def State.endOverdue (s : State) : State :=
  let late := fun n : Nat => decide (n + 3 < s.window)
  let writes := s.sends.flatMap fun p =>
    p.2.waits.filterMap fun w => if late w.packet.window then some (p.1 / 16384, p.1 % 16384, w.packet.seq) else none
  let gets := s.xfers.filterMap fun x => if late x.window then some (coreDie x.core, 0, 2 ^ 32 + x.id) else none
  (writes ++ gets).foldl (fun (t : State) q => t.unknown q.1 q.2.1 q.2.2) s

/-- Time passes by cycles of the core clock and picoseconds of the fabric's clock (R102, R168, R334, R378, R389). -/
def State.pass (s : State) (cycles ps : Nat) : State :=
  let t := s.countCycles cycles
  (List.range 8).foldl (fun (u : State) k => u.catchUp (BitVec.ofNat 3 k))
    ({ t with now := s.now + cycles, sync := s.sync + ps } : State).rewayDue.endOverdue

/-- `PUT_STATUS_UNKNOWN` (R338). -/
def execPutStatusUnknown (die dev seq : Nat) (s : State) : Out := .next (s.unknown die dev seq)

/-- A gateway reports the highest number sent for a device and its window (R337). -/
def State.reportSend (s : State) (die dev : Nat) : State :=
  let q := s.sendSeq die dev
  if dev = s.ownDev then
    { s with reports := s.reports ++
        [{ srcDie := die, srcDev := dev, srcInc := s.incarnation, dstInc := s.incarnation, hi := (q.next - 1).toNat, window := q.window
           port := 0 }] }
  else s.leave 3 (flits 0)

/-- `SEQUENCE_REPORT_SEND` (R337). -/
def execSequenceReportSend (die dev : Nat) (s : State) : Out := .next (s.reportSend die dev)

/-- A report schedules the closing of lower numbers (R337), unless it is dropped (R328). -/
def State.reported (s : State) (die : Nat) (r : SeqReport) : State :=
  if s.staleInc r.srcDev r.srcInc r.dstInc then s.countStale die
  else
    let q := s.recvSeq r.srcDev r.srcDie
    s.setRecv r.srcDev r.srcDie { q with due := q.due ++ [(BitVec.ofNat 32 r.hi, r.window)] }

/-- A report arrives: one of the module's own, or a peer's at a port. -/
def State.reportArrival (s : State) (r : SeqReport) : State :=
  if r.srcDev = s.ownDev then
    if s.reports.contains r then ({ s with reports := s.reports.erase r }).reported r.srcDie r else s
  else s.atPort r.port 3 (flits 0) fun t => t.reported (portDie r.port) r

/-- `SEQUENCE_REPORT_ARRIVAL` (R337). -/
def execSequenceReportArrival (port srcdie : Nat) (peer : PeerTag) (hi window : Nat) (s : State) : Out :=
  .next (s.reportArrival
    { srcDie := srcdie, srcDev := peer.dev, srcInc := peer.srcInc, dstInc := peer.dstInc, hi := hi, window := window, port := port })

/-- Window N + 2 has begun: the lower numbers that are still open close (R337). -/
def State.seqClose (s : State) (srcdie srcdev : Nat) : State :=
  let r := s.recvSeq srcdev srcdie
  let ripe := r.due.filter fun p => decide (p.2 + 2 ≤ s.window)
  if ripe.isEmpty then s
  else
    let r1 := ripe.foldl (fun (r : RecvSeq) p => r.closeBelow p.1) r
    s.setRecv srcdev srcdie ({ r1 with due := r.due.filter fun p => !decide (p.2 + 2 ≤ s.window) }).advance

/-- `SEQUENCE_CLOSE` (R337). -/
def execSequenceClose (_die srcdie srcdev : Nat) (s : State) : Out := .next (s.seqClose srcdie srcdev)

/-- A `get` request reaches its target (R343): the bytes go back as reply packets, or a refusal does. It waits while the replies find no
room among the writes of the pair. -/
def State.serveGet (s : State) (gw : Nat) (r : GetReq) : State :=
  let die := epDie r.dstEp
  let g := epCore r.dstEp / 8
  let refuse := fun (t : State) (c : Nat) => t.answer .get r.srcEp r.xfer (some c)
  if s.staleInc (epDev r.srcEp) r.srcInc r.dstInc then s.countStale (groveDie gw)
  else
    let found : State × Except Nat (List (Place × Nat)) :=
      if r.virt then s.gatewayPlaces gw r.addr r.len .read
      else if Config.clusterBytes < r.addr + r.len then (s, .error cSegment)
      else (s, .ok [(.bank g r.addr, r.len)])
    match found with
    | (s1, .error c) => refuse s1 c
    | (s1, .ok ps) =>
      match s1.readPlaces die ps false with
      | (s2, .error _) => refuse s2 cUncorr
      | (s2, .ok bs) =>
        (List.range ((r.len + 255) / 256)).foldl (fun (t : State) k =>
          (t.sendWrite r.dstEp r.srcEp r.xfer (.reply (256 * k) ((bs.drop (256 * k)).take 256)) none).1) s2

/-- Is there room for the replies of a request? -/
def State.replyRoom (s : State) (r : GetReq) : Bool :=
  !s.drifted && s.ackRoom (epDie r.dstEp) (epDev r.srcEp) ((r.len + 255) / 256)

/-- `GET_REQUEST_SERVE` (R343). -/
def execGetRequestServe (r : GetSource) (s : State) : Out :=
  .next (match r with
    | .own i =>
      (match s.gets[i]? with
       | some q => if s.replyRoom q then ({ s with gets := dropAt s.gets i }).serveGet (gatewayOf (epDie q.dstEp)) q else s
       | none => s)
    | .peer port q =>
      if epDev q.srcEp = s.ownDev || !s.replyRoom q || !s.mayAnswer then s
      else s.atPort port 0 (flits 0) fun t => t.serveGet (portGateway port) q)

/-- The transfer of a part to another device that has begun, or a new one. -/
def State.partXfer (s : State) (core dst : Nat) (p : HaloPart) : State × Xfer :=
  match s.xfers.find? fun x => x.kind == .part p with
  | some x => (s, x)
  | none =>
    let l : Leg :=
      { dst := dst, virt := false, addr := 0, next := 0, waits := [], left := false, tailSent := false, fail := none, psu := false
        done := false }
    let x : Xfer :=
      { id := s.serial, kind := .part p, core := core, cid := 0, uid := 0, desc := Desc.zero, off := 0, len := 0, xd := 0
        cw := .none, ds := false, dep := 0, legs := [l], window := s.window, inc := s.incOf (epDev dst), got := []
        sentNo := some s.serial }
    ({ s with xfers := s.xfers ++ [x], serial := s.serial + 1 }, x)

/-- The next packet of a part to another device is sent (R266, R331, R336): the part is no longer held once the last has been sent. -/
def State.partPacket (s : State) (g : Grid) (core dst : Nat) (p : HaloPart) : State :=
  let r := s.partXfer core dst p
  let x := r.2
  let next := match x.legs.head? with | some l => l.next | none => 0
  let cells := (p.cells.drop next).take g.packetCells
  let body := FabBody.part p.grid g.decl p.dst p.strip p.src p.step next cells
  let w := r.1.sendWrite (s.epOf core) dst x.id body (some (x.id, 0))
  let last := decide (p.cells.length ≤ next + cells.length)
  let s1 := ((w.1.noteWindow core x.id).pace core dst (64 * flits (bodySize body))).setXfer x.id
    (some (x.updLeg 0 fun l => { l with next := next + cells.length, waits := l.waits ++ [w.2], left := last }))
  if last then
    ((s1.dropHeld p).chargeSent core).progress x.id
  else s1

/-- A held part is sent once its receiver has committed the step (R266 steps 4 and 5, R378): within the module it is on its way; to
another device it goes as fabric writes (logs 14, 80). -/
def State.partSend (s : State) (i : Nat) : State :=
  let all := s.grids.flatMap fun p => p.2.held
  match all[i]? with
  | none => s
  | some p =>
    match s.grids.get? p.grid with
    | none => s
    | some g =>
      match g.ownerCore p.src, g.ownerCore p.dst with
      | none, _ => s
      | some core, some _ =>
        if g.committed p.dst p.step then
          let s1 := (s.dropHeld p).chargeSent core
          { s1 with halos := s1.halos ++ [(core, p)] }
        else s
      | some core, none =>
        let dst := g.owners.getD p.dst 0
        if Config.peerCommits p.grid p.dst p.step s.now && s.paced core dst && s.canSend (coreDie core) (epDev dst) 0 then
          s.partPacket g core dst p
        else s

/-- `HALO_PART_SEND` (R266). -/
def execHaloPartSend (idx : Nat) (s : State) : Out := .next (s.partSend idx)

end Sys2Proof.Machine
end

