-- ==== Sys2Proof/Machine/Gather.lean ====
section
/-! DEFINITION. `gather`, `scatter`, `spwalk` and `merge` after acceptance (R221, R226 to R237), and the end of an engine command
(R195, R196, R223). -/

namespace Sys2Proof.Machine

open Sys2Proof

/-- The access that an element needs of its pages. -/
def ElemOp.access (o : ElemOp) : Access := if o.store then (if o.mode = 0 then .write else .atomic) else .read

/-- The offset in cluster memory of index i. -/
def EngCmd.indexAddr (c : EngCmd) (o : ElemOp) (i : Nat) : Nat := c.entry.sa.base + indexOff c.entry + indexWidth o.it * i

/-- Index i as an integer (R224); none when it cannot be read (R226). -/
def State.indexAt (s : State) (grove : Nat) (c : EngCmd) (o : ElemOp) (i : Nat) : Option Int :=
  let w := indexWidth o.it
  (s.readBank grove (c.indexAddr o i) w).map fun bs => if o.it.getLsbD 0 then toSigned (8 * w) (leNat bs) else (leNat bs : Int)

/-- The pieces of an element, sector by sector (R230). -/
def elemPieces (ps : List (Place × Nat)) (off : Nat) (data : List Byte) : List Piece :=
  match ps with
  | [] => []
  | (.phys pa, n) :: rest =>
    let cut := cutAt 32 (n / 32 + 2) pa n
    (cut.map fun q => { pa := q.1, off := off + (q.1 - pa), n := q.2, data := (data.drop (off + (q.1 - pa))).take q.2, done := false }) ++
      elemPieces rest (off + n) data
  | (.bank _ _, n) :: rest => elemPieces rest (off + n) data

/-- Elements that an engine has in flight, over all its commands (R220, R230). -/
def State.elemsInFlight (s : State) (grove : Nat) : Nat :=
  ((s.grove grove).eng.map fun c => (c.elems.filter fun p => p.2.open_).length).sum

/-- An element is translated and checked, and sent to its home agents or recorded as faulting (R221, R226, R231): also one whose index, or whose
data to scatter, cannot be read in cluster memory (R179). The elements of an add mode are sent in ascending order (R229). -/
def State.gatherElement (s : State) (grove id i : Nat) : State :=
  match s.engine? grove id with
  | none => s
  | some c =>
    match elemOp? c.entry.instr with
    | none => s
    | some o =>
      if elemCount c.entry ≤ i || (c.elems.get? i).isSome || 1024 ≤ s.elemsInFlight grove || (o.mode != 0 && c.elems.length != i) ||
          !s.inTurn grove c then s
      else
        let put := fun (t : State) (e : Elem) => t.setEngine grove id (some { c with elems := c.elems.set i e, started := true })
        let fail := fun (t : State) (code : Nat) => put t { trans := [], pieces := [], code := code }
        match s.indexAt grove c o i with
        | none => fail (s.reportBank grove (c.indexAddr o i) 0) cUncorr
        | some idx =>
          let off := (c.entry.xb.toNat : Int) + idx * o.size
          if off < 0 || (c.entry.sb.len : Int) < off + o.size then fail s cSegment
          else
            match s.places (.engine grove) grove c.entry.sb off o.size o.access o.store with
            | (s1, .error f) => fail s1 f.code
            | (s1, .ok ps) =>
              let from_ := c.entry.sa.base + c.entry.xa.toNat + o.size * i
              match (if o.store then s1.readBank grove from_ o.size else some []) with
              | none => fail (s1.reportBank grove from_ 0) cUncorr
              | some data => put s1 { trans := s1.transOf (.engine grove) c.entry.sb off o.size, pieces := elemPieces ps 0 data, code := 0 }

/-- `GATHER_ELEMENT` (R226). -/
def execGatherElement (grove cmd elem : Nat) (s : State) : Out := .next (s.gatherElement grove cmd elem)

/-- The physical address of byte k of an element. -/
def Elem.byteAt (e : Elem) (k : Nat) : Nat :=
  match e.pieces.find? fun p => decide (p.off ≤ k) && decide (k < p.off + p.n) with
  | some p => p.pa + (k - p.off)
  | none => 0

/-- The value of byte k of an element's data. -/
def Elem.dataAt (e : Elem) (k : Nat) : Byte :=
  match e.pieces.find? fun p => decide (p.off ≤ k) && decide (k < p.off + p.n) with
  | some p => p.data.getD (k - p.off) 0
  | none => 0

/-- One word of an add mode, as a device-scope atomic at the home (R229). -/
def State.addWord (s : State) (mode : Nat) (e : Elem) (k : Nat) : State :=
  let w := if mode = 3 then 8 else 4
  let places := (List.range w).map fun b => e.byteAt (k + b)
  let s1 := places.foldl (fun (t : State) pa => t.settle pa 1) s
  let old := leNat (places.map s1.homeByte)
  let v := leNat ((List.range w).map fun b => e.dataAt (k + b))
  let new := if mode = 2 then (addRne (BitVec.ofNat 32 old) (BitVec.ofNat 32 v)).toNat else (old + v) % 2 ^ (8 * w)
  if (List.range w).all fun b => e.byteAt (k + b) == e.byteAt k + b then s1.homeWrite (e.byteAt k) (leBytes w new)
  else ((leBytes w new).zip places).foldl (fun (t : State) p => t.homeWrite p.2 [p.1]) s1

/-- What an agent does with one piece of one element of a `gather` or of an add mode (R226, R229), in a sector that is not bad: the state, the piece and
the element's fault code. A read is the issuing core's `.nc` load at the home (R221): it takes the line's release record. -/
def State.performPiece (s : State) (core : Nat) (o : ElemOp) (streaming : Bool) (e : Elem) (p : Piece) : State × Piece × Nat :=
  if !o.store then
    match s.readHomeAs (homeDie p.pa) p.pa p.n streaming with
    | (s1, none) => (s1, { p with done := true }, cUncorr)
    | (s1, some bs) => (s1.takeRecord core (lineOf p.pa), { p with data := bs, done := true }, e.code)
  else
    let w := if o.mode = 3 then 8 else 4
    let words := (List.range (o.size / w)).filter fun j => decide (p.off ≤ j * w) && decide (j * w < p.off + p.n)
    (words.foldl (fun (t : State) j => t.addWord o.mode e (j * w)) s, { p with done := true }, e.code)

/-- The pieces of one element that lie in a sector (R230). DESIGN CHOICE (log 50): an element of an add mode is performed sector by sector, so the
sums that it has made in earlier sectors stand when a later one is uncorrectable; the spec does not say. -/
def State.performElem (s : State) (core : Nat) (o : ElemOp) (streaming : Bool) (sector : Nat) (e : Elem) : State × Elem :=
  e.pieces.foldl (fun (t : State × Elem) p =>
    if p.pa / 32 = sector && !p.done && t.2.code = 0 then
      let r := t.1.performPiece core o streaming e p
      let ps := t.2.pieces.map fun q => if q.off = p.off then r.2.1 else q
      (r.1, { t.2 with code := r.2.2, pieces := ps })
    else t) (s, e)

/-- An element that has met bad data (R226). -/
def Elem.failed (e : Elem) : Elem := { e with code := cUncorr, pieces := e.pieces.map fun q => { q with done := true } }

/-- The pieces of a group of elements that a sector waits for, with the numbers of their elements, in ascending order. -/
def sectorPieces (sector : Nat) (es : List (Nat × Elem)) : List (Nat × Piece) :=
  es.flatMap fun p => (p.2.pieces.filter fun q => q.pa / 32 == sector && !q.done).map fun q => (p.1, q)

/-- The bytes that a group of a `scatter` writes in a sector: the highest element that has written a byte stands (R228). -/
def sectorBytes (sector : Nat) (ps : List (Nat × Piece)) (top : Tab Nat) : List (Nat × Nat × Byte) :=
  (List.range 32).filterMap fun b =>
    let pa := 32 * sector + b
    match (ps.filter fun x => decide (x.2.pa ≤ pa) && decide (pa < x.2.pa + x.2.n)).getLast? with
    | some x => if (top.get? pa).getD 0 ≤ x.1 then some (pa, x.1, x.2.data.getD (pa - x.2.pa) 0) else none
    | none => none

/-- One access of a sector for a group of elements (R221 step 3): one masked write, or one read, which meets bad data once (R179); the elements of an
add mode follow one another (R229). The state, the elements, and the highest element that has written each byte. -/
def State.performGroup (s : State) (core : Nat) (o : ElemOp) (streaming : Bool) (sector : Nat) (es : List (Nat × Elem)) (top : Tab Nat) :
    State × List (Nat × Elem) × Tab Nat :=
  let ps := sectorPieces sector es
  let d := homeDie (32 * sector)
  if o.store && o.mode == 0 then
    let ws := sectorBytes sector ps top
    let mark := fun q : Piece => if q.pa / 32 = sector then { q with done := true } else q
    ((ps.foldl (fun (t : State) x => t.recallRange x.2.pa x.2.n) s).homeWritesAs (ws.map fun w => (w.1, [w.2.2])) streaming,
      es.map fun p => (p.1, { p.2 with pieces := p.2.pieces.map mark }), ws.foldl (fun t w => t.set w.1 w.2.1) top)
  else
    let s1 := ps.foldl (fun (t : State) x => t.settle x.2.pa x.2.n) s
    if s1.badAt d (32 * sector) 32 then
      (s1.reportBad none d (32 * sector) 32 0, es.map fun p => (p.1, p.2.failed), top)
    else
      let r := es.foldl (fun (t : State × List (Nat × Elem)) p =>
        let u := t.1.performElem core o streaming sector p.2
        (u.1, t.2 ++ [(p.1, u.2)])) (s1, [])
      (r.1, r.2, top)

/-- Has an element a piece in a sector that is still to be performed? -/
def Elem.waitsAt (e : Elem) (sector : Nat) : Bool := e.code == 0 && e.pieces.any fun p => p.pa / 32 == sector && !p.done

/-- A gather agent performs one sector for the requests that it holds for it (R221, R230), in ascending element number: for all that have been
sent, or for one of them, the others being still on their way. In an add mode that one is the lowest (R229). -/
def State.groupAccess (s : State) (grove id sector : Nat) (elem : Option Nat) : State :=
  match s.engine? grove id with
  | none => s
  | some c =>
    match elemOp? c.entry.instr with
    | none => s
    | some o =>
      let lowest := (c.elems.find? fun p => p.2.waitsAt sector).map Prod.fst
      let in_ := fun i : Nat => match elem with
        | none => true
        | some k => i == k && (o.mode == 0 || lowest == some k)
      let group := c.elems.filter fun p => in_ p.1 && p.2.waitsAt sector
      if group.isEmpty then s
      else
        let r := s.performGroup c.core o c.entry.sb.streams sector group c.top
        let elems := c.elems.map fun p => (p.1, ((r.2.1.find? fun q => q.1 == p.1).map Prod.snd).getD p.2)
        r.1.putEngine grove id { c with elems := elems, top := r.2.2 }

/-- `AGENT_GROUP_ACCESS` (R221). -/
def execAgentGroupAccess (grove cmd : Nat) (access : SectorAccess) (s : State) : Out :=
  .next (s.groupAccess grove cmd access.sector access.elem)

/-- Has element i been performed, or does it fault? -/
def EngCmd.ready (c : EngCmd) (i : Nat) : Bool :=
  match c.elems.get? i with
  | some e => !e.open_
  | none => false

/-- Byte k of the packed data of a `gather`: 0 in a faulting element (R226). -/
def EngCmd.packedByte (c : EngCmd) (size k : Nat) : Byte :=
  match c.elems.get? (k / size) with
  | some e => if e.code = 0 then e.dataAt (k % size) else 0
  | none => 0

/-- A packed line of 128 bytes returns to the issuing grove's cluster memory (R221). -/
def State.lineReturn (s : State) (grove id line : Nat) : State :=
  match s.engine? grove id with
  | none => s
  | some c =>
    match elemOp? c.entry.instr with
    | none => s
    | some o =>
      let total := o.size * elemCount c.entry
      let lo := 128 * line
      let n := min 128 (total - lo)
      if o.store || total ≤ lo || c.lines.contains line then s
      else if !((List.range n).all fun k => c.ready ((lo + k) / o.size)) then s
      else
        (s.bankWrite grove (c.entry.sa.base + c.entry.xa.toNat + lo)
          ((List.range n).map fun k => c.packedByte o.size (lo + k))).putEngine grove id { c with lines := c.lines ++ [line] }

/-- `PACKED_LINE_RETURN` (R221). -/
def execPackedLineReturn (grove cmd line : Nat) (s : State) : Out := .next (s.lineReturn grove cmd line)

/-- A read of a walk or a merge through slot sb, under checks 3, 5 and 6 of R164: the bytes, or the fault code (R234, R237). -/
def State.walkRead (s : State) (grove : Nat) (c : EngCmd) (off n : Nat) : State × Except Nat (List Byte) :=
  if c.entry.sb.len < off + n then (s, .error cSegment)
  else
    match s.places (.engine grove) grove c.entry.sb off n .read false with
    | (s1, .error f) => (s1, .error f.code)
    | (s1, .ok ps) =>
      match s1.readPlaces (groveDie grove) ps c.entry.sb.streams with
      | (s2, .error _) => (s2, .error cUncorr)
      | (s2, .ok bs) => (s2, .ok (if c.entry.sb.kind = kCluster then c.overlay (c.entry.sb.base + off) bs else bs))

/-- A command writes one bit of a bit array in its grove's banks. -/
def State.payloadBit (s : State) (grove : Nat) (c : EngCmd) (off i : Nat) : State × EngCmd :=
  s.payload grove c (off + i / 8) ((c.overlay (off + i / 8) (s.bankBytes grove (off + i / 8) 1)).map fun b => b ||| (1#8 <<< (i % 8)))

/-- The entries of one row in position order, reads and writes interleaved (R233); a read that fails gives its code. -/
def State.walkEntries (k : Nat) (s : State) (grove : Nat) (c : EngCmd) (pos : Bool) (row p : Nat) (nent : Nat) :
    State × EngCmd × Option Nat :=
  match k with
  | 0 => (s, c, none)
  | k + 1 =>
    let d := walkDesc c.desc
    match s.walkRead grove c (d.col + 4 * p) 4 with
    | (s1, .error e) => (s1, c, some e)
    | (s1, .ok bs) =>
      let entry := leBytes 4 row ++ bs ++ (if pos then leBytes 8 p else [])
      let r := s1.payload grove c (c.entry.sa.base + d.list + (if pos then 16 else 8) * nent) entry
      r.1.walkEntries k grove r.2 pos row (p + 1) (nent + 1)

/-- One row of a `spwalk` (R233, R234). A read that fails leaves none of the row's entries. -/
def State.walkRow (s : State) (grove id : Nat) : State :=
  match s.engine? grove id with
  | none => s
  | some c =>
    match c.entry.instr with
    | .spwalk _ wide pos =>
      let j := c.next
      let nr := walkRows c.entry
      let d := walkDesc c.desc
      if c.ended || nr ≤ j || !s.inTurn grove c then s
      else
        let pw := if wide then 8 else 4
        let row := bitsOf c.entry.xc 0 32 + j
        let z := if j = 0 then s.payload grove c (c.entry.sa.base + d.status) (List.replicate ((nr + 7) / 8) 0) else (s, c)
        let c := z.2
        let halt := fun (t : State) (code : Nat) => t.putEngine grove id { c with stop := some (code, false), ended := true, started := true }
        let first : State × Except Nat Nat :=
          match c.ptr with
          | some p => (z.1, .ok p)
          | none =>
            (match z.1.walkRead grove c (c.entry.xb.toNat + pw * row) pw with
             | (t, .ok bs) => (t, .ok (leNat bs))
             | (t, .error e) => (t, .error e))
        match first with
        | (s1, .error e) => halt s1 e
        | (s1, .ok pa) =>
          match s1.walkRead grove c (c.entry.xb.toNat + pw * (row + 1)) pw with
          | (s2, .error e) => halt s2 e
          | (s2, .ok bs) =>
            let pb := leNat bs
            let fin := fun (t : State × EngCmd) (n : Nat) =>
              let u := t.1.payload grove t.2 (c.entry.sa.base + d.counts + 4 * j) (leBytes 4 n)
              u.1.putEngine grove id
                { u.2 with next := j + 1, ptr := some pb, count := c.count + n, ended := decide (nr ≤ j + 1), started := true }
            if pb < pa then fin (s2.payloadBit grove c (c.entry.sa.base + d.status) j) 0
            else if d.cap < c.count + (pb - pa) then s2.putEngine grove id { c with ovf := true, ended := true, started := true }
            else
              match s2.walkEntries (pb - pa) grove c pos row pa c.count with
              | (s3, _, some e) => halt (s3.setGrove grove { s3.grove grove with cluster := (s2.grove grove).cluster }) e
              | (s3, c3, none) => fin (s3, c3) (pb - pa)
    | _ => s

/-- `SPWALK_ROW` (R233). -/
def execSpwalkRow (grove cmd : Nat) (s : State) : Out := .next (s.walkRow grove cmd)

/-- Read a fibre up to its next head, skipping entries out of order (R236): the fibre, the count of skipped entries, and the code of a read
that fails. -/
def State.fibreHead (k : Nat) (s : State) (grove : Nat) (c : EngCmd) (f : Fibre) (bad : Nat) : State × Fibre × Nat × Option Nat :=
  match k with
  | 0 => (s, f, bad, none)
  | k + 1 =>
    if f.head.isSome || f.len ≤ f.pos then (s, f, bad, none)
    else
      match s.walkRead grove c (f.start + 8 * f.pos) 8 with
      | (s1, .error e) => (s1, f, bad, some e)
      | (s1, .ok bs) =>
        let x := halfAt bs 0
        if (match f.last with | some l => decide (x ≤ l) | none => false) then
          s1.fibreHead k grove c { f with pos := f.pos + 1 } (min (bad + 1) 65535)
        else (s1, { f with head := some (x, BitVec.ofNat 32 (halfAt bs 4)) }, bad, none)

/-- Read every fibre up to its head, in fibre order, until a read fails. -/
def State.fibreHeads (s : State) (grove : Nat) (c : EngCmd) (fs : List Fibre) (bad : Nat) : State × List Fibre × Nat × Option Nat :=
  match fs with
  | [] => (s, [], bad, none)
  | f :: rest =>
    match s.fibreHead (f.len - f.pos + 1) grove c f bad with
    | (s1, f', b, some e) => (s1, f' :: rest, b, some e)
    | (s1, f', b, none) =>
      match s1.fibreHeads grove c rest b with
      | (s2, fs', b', e) => (s2, f' :: fs', b', e)

/-- The smallest head coordinate. -/
def minHead (fs : List Fibre) : Option Nat :=
  fs.foldl (fun acc f => match f.head, acc with
    | some h, some k => some (min h.1 k)
    | some h, none => some h.1
    | none, k => k) none

/-- The sum of the heads with a coordinate, in fibre order, each addition rounded RNE (R236). -/
def headSum (fs : List Fibre) (k : Nat) : BitVec 32 :=
  (fs.foldl (fun (acc : Option (BitVec 32)) f =>
    match f.head with
    | some h => if h.1 = k then (match acc with | some v => some (addRne v h.2) | none => some h.2) else acc
    | none => acc) none).getD 0

/-- Take the heads with a coordinate. -/
def takeHeads (fs : List Fibre) (k : Nat) : List Fibre :=
  fs.map fun f => match f.head with
    | some h => if h.1 = k then { f with pos := f.pos + 1, last := some k, head := none } else f
    | none => f

/-- One result of a `merge` (R236, R237): coordinate k is emitted once every fibre that gave it has its next head. -/
def State.mergeStep (s : State) (grove id : Nat) : State :=
  match s.engine? grove id with
  | none => s
  | some c =>
    match c.entry.instr with
    | .merge _ zd =>
      if c.ended || !s.inTurn grove c then s
      else
        let halt := fun (t : State) (bad e : Nat) =>
          t.setEngine grove id (some { c with bad := bad, stop := some (e, false), ended := true, started := true })
        match s.fibreHeads grove c c.fibres c.bad with
        | (s1, _, bad, some e) => halt s1 bad e
        | (s1, fs, bad, none) =>
          match minHead fs with
          | none => s1.setEngine grove id (some { c with fibres := fs, bad := bad, ended := true, started := true })
          | some k =>
            let v := headSum fs k
            let c' := { c with fibres := takeHeads fs k, bad := bad, started := true }
            if zd && v.extractLsb' 0 31 == 0#31 then s1.setEngine grove id (some c')
            else if c.count = mergeCap c.entry then s1.setEngine grove id (some { c' with ovf := true, ended := true })
            else
              match s1.fibreHeads grove c c'.fibres bad with
              | (s2, _, bad2, some e) => halt s2 bad2 e
              | (s2, fs2, bad2, none) =>
                let r := s2.payload grove { c' with fibres := fs2, bad := bad2, count := c.count + 1 }
                  (c.entry.sa.base + c.entry.xa.toNat + 8 * c.count) (leBytes 4 k ++ leBytes 4 v.toNat)
                r.1.putEngine grove id r.2
    | _ => s

/-- `MERGE_RESULT` (R236). -/
def execMergeResult (grove cmd : Nat) (s : State) : Out := .next (s.mergeStep grove cmd)

/-- Is the completion of a command due (R196 step 3, R223, R281)? Under rl every payload byte has been written and acknowledged; without it every one has
been sent, and what decides the status word is known. -/
def EngCmd.payloadDone (c : EngCmd) : Bool :=
  match c.entry.instr with
  | .dcopy _ _ => if c.rel then c.landed else c.sent
  | .dfill _ _ => if c.rel then c.landed && (c.stop.isSome || c.members.all fun g => c.told.contains g) else c.sent
  | .spwalk _ _ _ => c.ended || walkRows c.entry == 0
  | .merge _ _ => c.ended
  | _ =>
    match elemOp? c.entry.instr with
    | none => true
    | some o =>
      let n := elemCount c.entry
      if o.store && o.mode == 0 && !c.rel then (List.range n).all fun i => (c.elems.get? i).isSome
      else (List.range n).all c.ready && (!c.rel || decide (c.lineCount ≤ c.lines.length))

/-- The fault code of the lowest faulting element, and the number of them (R227). -/
def EngCmd.elemFaults (c : EngCmd) : Nat × Nat :=
  let bad := c.elems.filter fun p => p.2.code != 0
  (match bad.head? with | some p => p.2.code | none => 0, bad.length)

/-- The fault bitmap of a `gather` or `scatter` (R226). -/
def EngCmd.bitmap (c : EngCmd) : List Byte :=
  (List.range ((elemCount c.entry + 7) / 8)).map fun b =>
    BitVec.ofNat 8 ((List.range 8).foldl (fun acc k =>
      match c.elems.get? (8 * b + k) with
      | some e => if e.code = 0 then acc else acc + 2 ^ k
      | none => acc) 0)

/-- The status word of a command that has one to write (R195, R223, R227, R234, R237). -/
def EngCmd.status (c : EngCmd) : Option Word :=
  let code := match c.stop with | some p => p.1 | none => 0
  let side := match c.stop with | some p => p.2 | none => false
  let b55 := fun b : Bool => if b then 2 ^ 55 else 0
  match c.entry.instr with
  | .dcopy _ _ => if c.stop.isSome then some (BitVec.ofNat 64 (code * 2 ^ 56 + b55 side + 512 * c.next)) else none
  | .dfill _ _ => if c.stop.isSome then some (BitVec.ofNat 64 (code * 2 ^ 56 + b55 side + 512 * c.next)) else none
  | .spwalk _ _ _ => some (BitVec.ofNat 64 (code * 2 ^ 56 + b55 c.ovf + c.next * 2 ^ 32 + c.count % 2 ^ 32))
  | .merge _ _ => some (BitVec.ofNat 64 (code * 2 ^ 56 + b55 c.ovf + c.bad * 2 ^ 32 + c.count % 2 ^ 32))
  | _ => some (BitVec.ofNat 64 (c.elemFaults.1 * 2 ^ 56 + c.elemFaults.2))

/-- The end of an engine command (R195, R196, R223): the bitmap, the status word, the completion word, the dependency slot; a transfer
without a completion area that stopped is recorded in the engine error log. -/
def State.engineEnd (s : State) (grove id : Nat) : State :=
  match s.engine? grove id with
  | none => s
  | some c =>
    match engCmd? c.entry.instr with
    | none => s
    | some k =>
      if c.finished || !c.payloadDone then s
      else
        let z := if (elemOp? c.entry.instr).isSome then s.payload grove c (c.entry.sa.base + bitmapOff c.entry) c.bitmap else (s, c)
        let s1 := z.1
        let s2 := match c.stop, transferLen c.entry != 0, k.cw with
          | some p, true, .none => s1.logEngine (groveDie grove) 7 p.1 (512 * c.next) (grove % 256) (coreInGrove c.core)
          | _, _, _ => s1
        (s2.complete grove k.cw c.entry.xd c.status k.ds c.entry.dep).putEngine grove id { z.2 with finished := true }

/-- `ENGINE_COMPLETION` (R196). -/
def execEngineCompletion (grove cmd : Nat) (s : State) : Out := .next (s.engineEnd grove cmd)

end Sys2Proof.Machine
end

