-- ==== Sys2Proof/Machine/Bindings.lean ====
section
/-! DEFINITION. `gtw`, `tlbinv` and `pbind` (R363 to R369, R442). -/

namespace Sys2Proof.Machine

open Sys2Proof

/-- Bytes read as `.nc` loads of a core read them (R181), line by line; where some are uncorrectable, the code of their memory. -/
def State.ncReads (s : State) (core : Nat) (d : Desc) (ps : List (Nat × Nat)) : State × Except Nat (List Byte) :=
  (ps.flatMap fun p => lineParts p.1 p.2).foldl (fun (t : State × Except Nat (List Byte)) p =>
    match t.2 with
    | .error _ => t
    | .ok bs =>
      match t.1.ncLoad core (groveOf core) p.1 p.2 d.streams with
      | (u, none) =>
        (u.reportBad (groveOf core) (coreDie core) p.1 p.2 core, .error (u.badCode (groveOf core) (coreDie core) p.1 p.2))
      | (u, some more) => (u, .ok (bs ++ more))) (s, .ok [])

/-- The bytes of a group entry through a slot (R367 check 1). -/
def State.groupBytes (s : State) (core : Nat) (d : Desc) (off : Int) : State × Except FaultRec (List Byte) :=
  match segCheck d [kCluster, kGlobal] (isService core) off 2112 64 true false false with
  | some f => (s, .error f)
  | none =>
    if d.kind = kCluster then
      match s.readBank (coreGrove core) (d.base + off.toNat) 2112 with
      | some bs => (s, .ok bs)
      | none => (s.reportBank (coreGrove core) (d.base + off.toNat) core, .error (uncorr d off 1 false))
    else
      match s.pieces (pageFuel 2112) core d off 2112 .read false with
      | (s1, _, some f) => (s1, .error f)
      | (s1, ps, none) =>
        match s1.ncReads core d ps with
        | (s2, .error code) => (s2, .error (uncorr d off code false))
        | (s2, .ok bs) => (s2, .ok bs)

/-- The member cores of a group entry, in rising order (R366). -/
def groupMembers (bs : List Byte) : List Nat :=
  ((bs.drop 64).zipIdx.flatMap fun p => (List.range 8).filterMap fun k => if p.1.getLsbD k then some (8 * p.2 + k) else none)

/-- The number of valid groups other than one that a core is a member of (R366). -/
def State.groupCount (s : State) (g core : Nat) : Nat := (s.groups.filter fun p => p.1 != g && p.2.members.contains core).length

/-- Checks 2 to 5 of R367: the DATA of the illegal-operand fault. -/
def State.groupRefused (s : State) (g : Nat) (bs : List Byte) : Option Nat :=
  let valid := (bs.getD 0 0).getLsbD 0
  let ms := groupMembers bs
  let arrived := fun m : Nat => match (s.core m).arrival.get? g with | some (.arrived _ _) => true | _ => false
  if (bs.getD 0 0).extractLsb' 1 7 != 0#7 || ((bs.drop 1).take 63).any (· != 0) || (valid && ms.isEmpty) then some 84
  else if valid && ms.any (fun m => decide (4 ≤ s.groupCount g m)) then some 84
  else if s.spaces.any (fun p => p.2.group == g) || s.grids.any (fun p => p.2.group == g) then some 86
  else if (match s.groups.get? g with | some v => v.members.any arrived | none => false) then some 85
  else none

/-- Write a group entry (R367): the step counter is 0. -/
def State.writeGroup (s : State) (g : Nat) (bs : List Byte) : State :=
  if (bs.getD 0 0).getLsbD 0 then { s with groups := s.groups.set g { members := groupMembers bs, step := 0, phase := .idle } }
  else { s with groups := s.groups.erase g }

/-- The whole of `gtw` (R367) for a core, a descriptor and an offset. -/
def State.gtw (s : State) (core g : Nat) (m : Image) (d : Desc) (off : Int) : State × Option FaultRec :=
  match s.groupBytes core d off with
  | (s1, .error f) => (s1, some f)
  | (s1, .ok bs) =>
    match s1.groupRefused g bs with
    | some k => (s1, some (operandFault m k))
    | none => (s1.writeGroup g bs, none)

/-- `gtw` (R367). -/
def execGtw (a : Reg) (sa : Slot) (g : BitVec 8) (s : State) : Out :=
  runMem true [a]
    (fun s _ c =>
      match s.gtw s.here g.toNat c.img (c.img.slot sa) (nOf (c.img.getX a)) with
      | (s1, some f) => .trap s1 f
      | (s1, none) => .done s1 (c.img.next 8)) s

/-- Does a leaf belong to a range of an address space (R364)? -/
def Leaf.under (l : Leaf) (asid lo len : Nat) : Bool :=
  l.asid == asid && decide (l.vbase < lo + len) && decide (lo < l.vbase + 2 ^ l.shift)

/-- Every translation cache of the module drops the leaves of a range (R364 step 2). -/
def State.dropLeaves (s : State) (asid lo len : Nat) : State :=
  let cut := fun ls : List Leaf => ls.filter fun l => !l.under asid lo len
  { s with
    cores := s.cores.map fun p => (p.1, { p.2 with utlb := cut p.2.utlb, early := [] })
    groves := s.groves.map fun p => (p.1, { p.2 with
      tlb := cut p.2.tlb, etlb := cut p.2.etlb, mtlb := cut p.2.mtlb, gtlb := cut p.2.gtlb }) }

/-- Was something translated under a leaf of a range? -/
def transMeets (ts : List (Nat × Nat × Nat)) (asid lo len : Nat) : Bool :=
  ts.any fun t => t.1 == asid && decide (t.2.1 < lo + len) && decide (lo < t.2.1 + t.2.2)

/-- The chunks, and by 2^32 + index the elements, of a command that are still to be performed and that a test picks. -/
def EngCmd.open_ (c : EngCmd) (pick : List (Nat × Nat × Nat) → Bool) : List Nat :=
  (c.flight.filter fun f => pick f.trans).map (fun f => f.num) ++
    c.elems.filterMap fun p => if p.2.open_ && pick p.2.trans then some (2 ^ 32 + p.1) else none

/-- What the engines have translated in a range and have still to perform (R364 step 3). -/
def State.invalWaits (s : State) (asid lo len : Nat) : List (Nat × Nat × List Nat) :=
  s.groves.flatMap fun p => p.2.eng.filterMap fun c =>
    let w := c.open_ fun ts => transMeets ts asid lo len
    if w.isEmpty then none else some (p.1, c.id, w)

/-- Step 4 of R364: every grove writes back and drops the lines of a physical range. -/
def State.dropLines (s : State) (pa n : Nat) : State :=
  s.groves.keys.foldl (fun (t : State) g => t.flushRange g pa n) s

/-- Are the operands of a `tlbinv` outside their limits (R363)? -/
def tlbinvBad (wb : Bool) (a b c d : Word) : Bool :=
  a.toNat % 65536 != 0 || decide (2 ^ 56 ≤ a.toNat) || b.toNat % 65536 != 0 || decide (2 ^ 56 < a.toNat + b.toNat) ||
    decide (4096 ≤ c.toNat) || (wb && (d.toNat % 65536 != 0 || decide (2 ^ 52 < d.toNat + b.toNat)))

/-- `tlbinv` (R363, R364): steps 1 and 2 when it starts, step 4 when every agent has replied; until then the core stalls. -/
def execTlbinv (wb : Bool) (d a b c : Reg) (s : State) : Out :=
  runMem true [d, a, b, c]
    (fun s _ cx =>
      let m := cx.img
      let lo := (m.getX a).toNat
      let len := (m.getX b).toNat
      let asid := (m.getX c).toNat
      let fin := fun t : State =>
        let t1 := if wb then t.dropLines (m.getX d).toNat len else t
        Eff.done { t1 with invals := t1.invals.erase t1.here } (m.next 8)
      if tlbinvBad wb (m.getX a) (m.getX b) (m.getX c) (m.getX d) then .trap s (operandFault m 83)
      else
        match s.invals.get? s.here with
        | some v => if v.waits.isEmpty then fin s else .stall s
        | none =>
          if acceptWait (s.coreRing s.here) then .hold s
          else
            let s1 := s.releaseFence s.here
            if len = 0 then .done s1 (m.next 8)
            else
              let s2 := s1.dropLeaves asid lo len
              let w := s2.invalWaits asid lo len
              if w.isEmpty then fin s2 else .stall { s2 with invals := s2.invals.set s2.here ⟨w⟩ }) s

/-- An engine replies to the invalidations in progress (R364 step 3) once the chunks and elements of a command that they wait for have
been performed. -/
def State.invalReply (s : State) (grove cmd : Nat) : State :=
  let left := match (s.grove grove).eng.find? fun c => c.id == cmd with
    | some c => c.open_ fun _ => true
    | none => []
  { s with invals := s.invals.map fun p => (p.1, { waits := p.2.waits.filter fun w =>
      !(w.1 == grove && w.2.1 == cmd && !(w.2.2.any left.contains)) }) }

/-- `TLBINV_AGENT_REPLY` (R364). -/
def execTlbinvAgentReply (grove cmd : Nat) (s : State) : Out := .next (s.invalReply grove cmd)

/-- The units of 64 KiB of a die's record-and-grid area (R355, R442), by physical address. -/
def State.rgUnits (s : State) (d : Nat) : List Nat :=
  let r := (s.die d).rgarea
  let base := (r.extractLsb' 21 31).toNat * 2 ^ 21
  (List.range (32 * (r.extractLsb' 0 21).toNat)).map fun i => base + 65536 * i

/-- The units that the bindings hold. -/
def State.unitsHeld (s : State) : List Nat :=
  (s.spaces.flatMap fun p => (p.2.dirUnits ++ p.2.stores).flatMap Prod.snd) ++
    s.grids.flatMap fun p => p.2.frames.flatMap Prod.snd

/-- What a binding needs: a die, a key, and a number of units for each item (R442). -/
abbrev Needs := List (Nat × Nat × Nat)

/-- Give each item its units, the lowest free ones of its die; none when a die has no room (R442). -/
def State.allot (s : State) (held : List Nat) (needs : Needs) : Option (List (Nat × List Nat)) :=
  match needs with
  | [] => some []
  | (d, key, n) :: rest =>
    let got := ((s.rgUnits d).filter fun u => !held.contains u).take n
    if got.length < n then none
    else (s.allot (got ++ held) rest).map fun r => (key, got) :: r

/-- Division rounded up. -/
def ceilDiv (a b : Nat) : Nat := (a + b - 1) / b

/-- The bytes of a binding's memory read as zero (R262). -/
def State.zeroUnits (s : State) (us : List Nat) : State :=
  let hit := fun pa : Nat => us.contains (pa / 65536 * 65536)
  { s with
    slice := s.slice.filter fun p => !hit p.1
    dram := s.dram.filter fun p => !hit p.1
    proxies := s.proxies.filter fun p => !hit (128 * p.1)
    bad := s.bad.filter fun q => !hit (32 * q)
    badSram := s.badSram.filter fun p => match p with | .slice _ q => !hit (32 * q) | _ => true }

/-- The header of `pbind` (R368). -/
structure Header where
  b : Nat → Nat
  w : Nat → Nat

/-- The fields of 64 bytes. -/
def Header.ofBytes (bs : List Byte) : Header := ⟨fun k => (bs.getD k 0).toNat, fun k => halfAt bs k⟩

/-- D of a header. -/
def Header.dim (h : Header) : Nat := h.b 0
/-- n_k of a record space (R368). -/
def Header.n (h : Header) (k : Nat) : Nat := h.b (4 + k)
/-- The region count of a record space (R238). -/
def Header.regions (h : Header) : Nat := h.n 0 * h.n 1 * h.n 2
/-- h of a grid (R368). -/
def Header.halo (h : Header) : Nat := h.b 3 % 16
/-- ρ of a grid (R368). -/
def Header.rho (h : Header) : Nat := h.b 3 / 16
/-- E_k of a grid (R368). -/
def Header.ext (h : Header) (k : Nat) : Nat := h.w (20 + 4 * k)
/-- B_k of a grid (R368). -/
def Header.blk (h : Header) (k : Nat) : Nat := h.w (32 + 4 * k)
/-- The block count of a grid (R260). -/
def Header.blocks (h : Header) : Nat := (h.ext 0 / h.blk 0) * (h.ext 1 / h.blk 1) * (h.ext 2 / h.blk 2)
/-- The face rules of a grid, 4 bits an axis (R368). -/
def Header.faces (h : Header) : Nat := h.b 5 + 256 * h.b 6

/-- Is an endpoint a core of this module that is a member of a group (R238, R327)? -/
def State.memberEp (s : State) (group ep : Nat) : Bool :=
  decide (ep < 2 ^ 28) && epDev ep == s.ownDev &&
    (match s.groups.get? group with | some v => v.members.contains (epCore ep) | none => false)

/-- Check 2 of R369 for a record space: does the header break a limit of R238 or R368? -/
def State.spaceHeaderBad (s : State) (h : Header) : Bool :=
  let axisBad := fun k : Nat => if k < h.dim then h.n k = 0 || 128 < h.n k else h.n k != 1
  decide (h.dim < 1) || decide (3 < h.dim) || decide (1 < h.b 1) || h.b 3 != 0 || (List.range 3).any axisBad || h.b 7 != 0 ||
    decide (65536 < h.regions) || !s.memberEp (h.b 2) (h.w 8) || decide (2 ^ 21 < h.w 12) || decide (h.w 16 < 1) ||
    decide (2 ^ 24 < h.w 16) || (List.range 7).any (fun j => h.w (20 + 4 * j) != 0) || h.w 52 != 0 || h.w 60 != 0

/-- Check 2 of R369 for a grid: does the header break a limit of R260 or R368? -/
def gridHeaderBad (h : Header) : Bool :=
  let axisBad := fun k : Nat =>
    if k < h.dim then
      h.ext k = 0 || 2 ^ 20 < h.ext k || h.blk k = 0 || h.ext k % h.blk k != 0 || h.blk k < max h.halo 1
    else h.ext k != 1 || h.blk k != 1 || h.faces / 2 ^ (4 * k) % 16 != 0
  let depthBad := if h.halo = 0 then h.b 4 != 1 || h.rho != 0 else h.b 4 = 0 || h.halo < h.b 4 || h.halo < h.b 4 * h.rho
  decide (h.dim < 1) || decide (3 < h.dim) || !([1, 2, 11].contains (h.b 1)) || decide (8 < h.halo) || decide (h.halo < h.rho) ||
    depthBad || decide (15 < h.b 6) || h.b 7 != 0 || decide (2 ^ 20 < h.w 8) || h.w 12 != 0 || h.w 16 != 0 ||
    (List.range 3).any axisBad || decide (65536 < h.blocks) || h.w 44 != 0 || h.w 52 != 0 || h.w 60 != 0

/-- Check 3 of R369 for the two arrays of a binding: alignment, then bounds. -/
def arrayFault (d : Desc) (as : List (Nat × Nat)) : Option FaultRec :=
  match as.find? fun a => a.1 % 4 != 0 with
  | some a => some (FaultRec.mk cMisAccess 0 (segVa d a.1) false false none 0)
  | none =>
    match as.find? fun a => decide (d.len < a.1 + a.2) with
    | some a => some (FaultRec.mk cSegment 3 (segVa d a.1) false false none 0)
    | none => none

/-- The same, and then the fault of bad data in an array (R179). -/
def State.arraysFault (s : State) (d : Desc) (as : List (Nat × Nat)) : State × Option FaultRec :=
  match arrayFault d as with
  | some f => (s, some f)
  | none =>
    let g := coreGrove s.here
    match as.find? fun a => s.badBank g (d.base + a.1) a.2 with
    | some a => (s.reportBank g (d.base + a.1) s.here, some (uncorr d a.1 1 false))
    | none => (s, none)

/-- Is a boundary array wrong (R238): not finite, or not strictly ascending? -/
def boundsBad (bs : List (BitVec 32)) : Bool :=
  match bs with
  | [] => false
  | x :: rest =>
    x.extractLsb' 23 8 == 0xFF#8 || (match rest with | y :: _ => !fLt x y | [] => false) || boundsBad rest

/-- Cut a list into pieces of given lengths. -/
def cutList {α : Type} (ns : List Nat) (ls : List α) : List (List α) :=
  match ns with
  | [] => []
  | n :: rest => ls.take n :: cutList rest (ls.drop n)

/-- The boundary arrays of a header, by axis. -/
def spaceBounds (h : Header) (ws : List (BitVec 32)) : List (List (BitVec 32)) :=
  cutList ((List.range h.dim).map fun k => h.n k + 1) ws

/-- The units that a record space needs (R442): the directory by die (key the die), the stores by owner (key 8 + the core). -/
def spaceNeeds (h : Header) (owners : List Nat) : Needs :=
  let stores := (owners ++ [epCore (h.w 8)]).dedup
  (List.range Config.dies).map (fun d => (d, d, ceilDiv (2 * (h.w 12 * 2048)) 65536)) ++
    stores.map fun k => (coreDie k, 8 + k, ceilDiv (h.w 16 * (if h.b 1 = 1 then 128 else 64)) 65536)

/-- The binding of a record space (R242, R368): every entry FREE with generation 0. -/
def spaceOf (h : Header) (bounds : List (List (BitVec 32))) (owners : List Nat) (us : List (Nat × List Nat)) : Space :=
  { dim := h.dim, bounds := bounds, owners := owners, spill := epCore (h.w 8), group := h.b 2
    size := if h.b 1 = 1 then 128 else 64, cdir := h.w 12 * 2048, cap := h.w 16
    dirUnits := us.filter fun p => decide (p.1 < 8)
    stores := (us.filter fun p => decide (8 ≤ p.1)).map fun p => (p.1 - 8, p.2)
    dir := [], dels := [], words := [] }

/-- The format of a grid's type code (R368). -/
def gridFmt (n : Nat) : Fmt := (Fmt.ofCode (BitVec.ofNat 4 n)).getD .f32

/-- The product of B_k + 2h over the axes (R442). -/
def Header.padded (h : Header) : Nat :=
  (List.range h.dim).foldl (fun n k => n * (h.blk k + 2 * h.halo)) 1

/-- Is a face constant wrong (R368): bytes above the element, or a constant of an axis that the grid does not have? -/
def constBad (h : Header) (k v : Nat) : Bool :=
  if k / 2 < h.dim then (h.b 1 == 2 && decide (65536 ≤ v)) else v != 0

/-- The units that a grid needs (R442): a frame for each block of a core of this module, by block. -/
def State.gridNeeds (s : State) (h : Header) (owners : List Nat) : Needs :=
  let es := if h.b 1 = 2 then 2 else 4
  owners.zipIdx.filterMap fun p =>
    if epDev p.1 = s.ownDev then some (epDie p.1, p.2, ceilDiv (2 * h.padded * es + 256) 65536) else none

/-- The binding of a grid (R262, R368): no committed step, no stamp. -/
def State.gridOf (s : State) (h : Header) (consts owners : List Nat) (us : List (Nat × List Nat)) : Grid :=
  { dim := h.dim, fmt := gridFmt (h.b 1), h := h.halo, rho := h.rho, depth := h.b 4
    ext := (List.range 3).map h.ext, blk := (List.range 3).map h.blk, faces := h.faces, consts := consts, group := h.b 2
    stall := if h.w 8 = 0 then 4096 else h.w 8, owners := owners, dev := s.ownDev, frames := us
    steps := [], landed := [], arrived := [], held := [] }

/-- Release the binding of a record space (R369 step 2). -/
def State.unbindSpace (s : State) (n : Nat) : State := { s with spaces := s.spaces.erase n }

/-- Release the binding of a grid (R369 step 2): its parts on the way will be dropped (R260). -/
def State.unbindGrid (s : State) (n : Nat) : State :=
  { s with
    grids := s.grids.erase n
    halos := s.halos.map fun p => (p.1, if p.2.grid = n then { p.2 with old := true } else p.2)
    xfers := s.xfers.filter fun x => match x.kind with
      | .part p => p.grid != n || x.legs.all fun l => l.left
      | _ => true }

/-- A record space is bound (R369): the checks after the header's, then the binding. -/
def State.bindSpace (s : State) (m : Image) (g : Desc) (n : Nat) (h : Header) : State × Option FaultRec :=
  let bsz := 4 * ((List.range h.dim).foldl (fun t k => t + h.n k + 1) 0)
  let osz := 4 * h.regions
  let at_ := fun off len : Nat => words32 (len / 4) (s.bankBytes (coreGrove s.here) (g.base + off) len)
  match s.arraysFault g [(h.w 48, bsz), (h.w 56, osz)] with
  | (s1, some f) => (s1, some f)
  | (_, none) =>
    let bounds := spaceBounds h (at_ (h.w 48) bsz)
    let eps := (at_ (h.w 56) osz).map BitVec.toNat
    if bounds.any boundsBad || eps.any (fun e => !s.memberEp (h.b 2) e) then (s, some (operandFault m 88))
    else
      let s1 := s.unbindSpace n
      let owners := eps.map epCore
      match s1.allot s1.unitsHeld (spaceNeeds h owners) with
      | none => (s, some (operandFault m 89))
      | some us => (s1.setSpace n (spaceOf h bounds owners us), none)

/-- A grid is bound (R369). -/
def State.bindGrid (s : State) (m : Image) (g : Desc) (n : Nat) (h : Header) : State × Option FaultRec :=
  let osz := 4 * h.blocks
  let at_ := fun off len : Nat => (words32 (len / 4) (s.bankBytes (coreGrove s.here) (g.base + off) len)).map BitVec.toNat
  match s.arraysFault g [(h.w 48, 24), (h.w 56, osz)] with
  | (s1, some f) => (s1, some f)
  | (_, none) =>
    let consts := at_ (h.w 48) 24
    let eps := at_ (h.w 56) osz
    let epBad := fun e : Nat => decide (2 ^ 28 ≤ e) || (epDev e == s.ownDev && !s.memberEp (h.b 2) e)
    if consts.zipIdx.any (fun p => constBad h p.2 p.1) || eps.any epBad || eps.dedup.length != eps.length then
      (s, some (operandFault m 88))
    else
      let s1 := s.unbindGrid n
      match s1.allot s1.unitsHeld (s.gridNeeds h eps) with
      | none => (s, some (operandFault m 89))
      | some us => ((s1.zeroUnits (us.flatMap Prod.snd)).setGrid n (s.gridOf h consts eps us), none)

/-- Is a boundary of the record space of a number in progress (R369 step 1)? -/
def State.bindWait (s : State) (gd : Bool) (n : Nat) : Bool :=
  !gd && (match s.spaces.get? n with | some sp => s.inBoundary sp.group | none => false)

/-- `pbind` (R368, R369). -/
def execPbind (gd : Bool) (a : Reg) (sa : Slot) (n : BitVec 4) (s : State) : Out :=
  runMem false [a]
    (fun s _ c =>
      let m := c.img
      let g := m.slot sa
      let off := nOf (m.getX a)
      match segCheck g [kCluster] (isService s.here) off 64 4 true false false with
      | some f => .trap s f
      | none =>
        match s.saBad g off.toNat 64 with
        | some e => e
        | none =>
        let h := Header.ofBytes (s.bankBytes (coreGrove s.here) (g.base + off.toNat) 64)
        if (if gd then gridHeaderBad h else s.spaceHeaderBad h) then .trap s (operandFault m 88)
        else
          match (if gd then s.bindGrid m g n.toNat h else s.bindSpace m g n.toNat h) with
          | (s1, some f) => .trap s1 f
          | (s1, none) => if s.bindWait gd n.toNat then .hold s else .done s1 (m.next 8)) s

/-- `pbind.u` (R369). -/
def execPbindU (gd : Bool) (n : BitVec 4) (s : State) : Out :=
  runMem false []
    (fun s _ c =>
      if s.bindWait gd n.toNat then .hold s
      else .done (if gd then s.unbindGrid n.toNat else s.unbindSpace n.toNat) (c.img.next 8)) s

end Sys2Proof.Machine
end

