-- ==== Sys2Proof/Machine/Faults.lean ====
section
/-! DEFINITION. Late faults (R402, R403), pending traps (R400), and the switching of contexts on a core (R103 to R106). -/

namespace Sys2Proof.Machine

open Sys2Proof

/-- The matrix command of a ring entry that is in its unit's queue. -/
def State.queuedMat (s : State) (g cid uid : Nat) (e : RingEntry) : Option MatCmd :=
  if e.phase == .queued then (s.mat g).queue.find? fun x => x.cid == cid && x.uid == uid && x.entry.seq == e.seq else none

/-- Has a ring entry begun work that a late fault does not cancel (R402 step 3): a matrix command that has started step 0? -/
def State.begun (s : State) (g cid uid : Nat) (e : RingEntry) : Bool :=
  match s.queuedMat g cid uid e with
  | some x => x.started
  | none => false

/-- The oldest ring entry of a context raises its late fault (R402): the younger entries that have written nothing are cancelled and
saved with it in sequence order (R403), and the context is fault-pending. While another trap of the context is still to be taken, the entry is saved
and its fault recurs when it is dispatched again (R400; log 88). -/
def State.raiseLate (s : State) (cid core : Nat) (c : Ctx) (e : RingEntry) (young : List RingEntry) (f : FaultRec) : State :=
  let g := coreGrove core
  let stay := young.filter fun y => s.begun g cid c.uid y
  let out := young.filter fun y => !s.begun g cid c.uid y
  let s1 := out.foldl (fun (t : State) y =>
    match t.queuedMat g cid c.uid y with
    | some x => t.leaveMat g x
    | none => t) s
  let s2 := s1.sendRests core c.img [] (e :: young)
  let saved := e.save c.late.isNone :: out.map fun y => y.save false
  let late : FaultRec := { f with late := true, seq := some e.seq.toNat }
  let s3 := s2.fetchLines core cid (70 :: areaLines c.img.saved.length saved.length)
  (s3.updCtx cid fun x =>
    { x with ring := stay, late := some (c.late.getD late), img := x.img.saveMore saved }).wakeCore core

/-- `LATE_FAULT` (R402): the entries older than the one that faults have ended. -/
def State.lateFault (s : State) (cid seq : Nat) : State :=
  match s.ctx? cid with
  | none => s
  | some c =>
    match c.core?, c.ring with
    | some core, e :: young =>
      if e.seq.toNat ≠ seq then s
      else
        match s.entryFault core c [] e with
        | none => s
        | some f =>
          let s1 := match e.phase with
            | .waiting => if isVmem e then (vmemRun s core e c.img).1 else s
            | _ => s
          s1.raiseLate cid core c e young f
    | _, _ => s

/-- `LATE_FAULT` (R402). -/
def execLateFault (cid seq : Nat) (s : State) : Out := .next (s.lateFault cid seq)

/-- A `tlbinv` of a core has begun and not ended (R363): the core does nothing else. -/
def State.inTlbinv (s : State) (core : Nat) : Bool := (s.invals.get? core).isSome

/-- Is a core inside an instruction that is not interrupted (R363, R405)? -/
def State.busyCore (s : State) (core : Nat) : Bool := s.inTlbinv core || (s.core core).holding

/-- A pending trap of the active context of a core is taken (R397, R400), `epc` being the instruction it would issue next, at an instruction
boundary. -/
def State.takePending (s : State) (core : Nat) : State :=
  match s.pendingTrap core with
  | none => s
  | some (cid, f, psu) =>
    if s.busyCore core then s
    else
      match s.ctx? cid with
      | none => s
      | some c => (if psu then s.setCtx cid { c with psu := c.psu.drop 1 } else s).takeTrap cid core f c.img.pc

/-- `PENDING_TRAP_TAKEN` (R400). -/
def execPendingTrapTaken (core : Nat) (s : State) : Out := .next (s.takePending core)

/-- `CONTEXT_SWITCH` (R104): a core whose active context is not ready goes on to the next that is; an idle core resumes one. -/
def execContextSwitch (core : Nat) (s : State) : Out :=
  .next (match (s.core core).active with
    | none => s.wakeCore core
    | some i => if s.slotReady core i then s else s.switchCore core)

/-- `ACCESS_WAIT_BLOCK` (R104): the active context's next access has waited 64 cycles, so the context blocks (log 4); not inside an instruction that
is not interrupted (R405). -/
def execAccessWaitBlock (core : Nat) (s : State) : Out :=
  .next (match s.activeCid core with
    | none => s
    | some cid =>
      match s.ctx? cid with
      | none => s
      | some c => if !c.ready || s.busyCore core || (s.stalled && s.here == core) then s else s.block cid .access)

/-- Has a core's active context issued for 4,096 cycles while another is ready (R106)? An instruction that is not interrupted while it stalls
holds the switch back (R405). -/
def State.fairDue (s : State) (core : Nat) : Bool :=
  match (s.core core).active with
  | none => false
  | some i => decide (4096 ≤ (s.core core).issue) && (s.nextReady core i false).isSome && !s.busyCore core

/-- `FAIRNESS_SWITCH` (R106). -/
def execFairnessSwitch (core : Nat) (s : State) : Out := .next (if s.fairDue core then s.switchCore core else s)

/-- Does the condition that a context waits for hold (R104)? A claim ends with its grant (R109). -/
def State.condHolds (s : State) (cid : Nat) (c : Ctx) : Bool :=
  match c.wait with
  | some .access => true
  | some .halo => true
  | some .watch => c.latch || c.img.kp
  | some .barrier =>
    (match c.core? with
     | some k => !((s.core k).arrival.any fun p => match p.2 with | .arrived _ o => o == cid | _ => false)
     | none => false)
  | some .recv =>
    c.img.div1.extractLsb' 0 32 != c.img.div1.extractLsb' 32 32 ||
      (match c.core? with | some k => !(s.core k).recvq.isEmpty | none => false)
  | _ => false

/-- The condition of a context holds, and with it those of the other contexts of its core that hold now (R104): they become ready together. What
waits for an access or a halo cell is told of one at a time. -/
def State.readyNow (s : State) (cid : Nat) (c : Ctx) : List Nat :=
  match c.core? with
  | none => [cid]
  | some k => (s.residents k).filter fun x => x == cid || (match s.ctx? x with
    | some y => y.wait != some .access && y.wait != some .halo && s.condHolds x y
    | none => false)

/-- `CONTEXT_READY` (R104). -/
def execContextReady (cid : Nat) (s : State) : Out :=
  .next (match s.ctx? cid with
    | none => s
    | some c => if s.condHolds cid c then s.makeAllReady (s.readyNow cid c) else s)

/-- `IMAGE_LINE_FILL` (R103). -/
def execImageLineFill (core cid line : Nat) (s : State) : Out := .next (s.lineFill core cid line)

end Sys2Proof.Machine
end

