-- ==== Sys2Proof/Machine/Fence.lean ====
section
/-! DEFINITION. Fences (R187 to R189) and `waita` (R190, R191). -/

namespace Sys2Proof.Machine

open Sys2Proof

/-- Which of the two parts of R188 a fence has. -/
inductive FenceKind
  | rel
  | acq
  | full
  deriving DecidableEq, Repr

/-- Does a fence have the release part? -/
def FenceKind.rels (k : FenceKind) : Bool := k != .acq
/-- Does a fence have the acquire part? -/
def FenceKind.acqs (k : FenceKind) : Bool := k != .rel

/-- The actions of a fence whose waits are over (R169 steps 5 and 6, R188): below die scope it has none, since the accesses of a core are
performed in order. -/
def State.fenceActs (s : State) (core : Nat) (k : FenceKind) (sc : Scope) : State :=
  if !scopeWide sc then s
  else
    let s1 := if k.rels then s.releaseFence core else s
    if k.acqs then s1.acquireFence core sc else s1

/-- A fence (R188): older accesses, the acceptance of older engine commands, at fabric scope the landing of older `put` and `pub`. -/
def runFence (k : FenceKind) (sc : Scope) (s : State) : Out :=
  runMem false []
    (fun s _ c =>
      if acceptWait (s.coreRing s.here) || (k.rels && s.fabricWait s.here sc) then .stall s
      else .done (s.fenceActs s.here k sc) (c.img.next 4)) s

/-- `fence` (R188). -/
def execFence (sc : Scope) (s : State) : Out := runFence .full sc s

/-- `fence.acq` (R188). -/
def execFenceAcq (sc : Scope) (s : State) : Out := runFence .acq sc s

/-- `fence.rel` (R188). -/
def execFenceRel (sc : Scope) (s : State) : Out := runFence .rel sc s

/-- Has a core an older fabric write that it has still to send (R189): the payload or the last write of a `put` or a `pub`, or a message, in its
injection queue? -/
def State.writesQueued (s : State) (core serial : Nat) : Bool :=
  (s.core core).inj.any fun e =>
    match e with
    | .msg m => decide (m.id < serial) && m.seq.isNone
    | .xfer id => decide (id < serial) && s.xfers.any fun x => x.id == id && x.charged

/-- The wait of a `fence.w` at its first execution, or the one that it has begun (R189). -/
def Ctx.fenceWait (c : Ctx) (s : State) : WinWait :=
  let fresh : WinWait := { pc := c.img.pc, core := s.here, serial := s.serial, win := (s.core s.here).lastWin }
  match c.winWait with
  | some w => if w.pc = c.img.pc then w else fresh
  | none => fresh

/-- Does `fence.w` still wait (R189, R334)? -/
def State.windowWait (s : State) (w : WinWait) : Bool :=
  s.writesQueued w.core w.serial || (match w.win with | none => false | some n => s.drifted || decide (s.window < n + 2))

/-- `fence.w` (R189). It keeps its window boundary over a switch, and over a pre-emption to another core. -/
def execFenceW (s : State) : Out :=
  runInstr false noPrefix []
    (fun s cid c =>
      let w := c.fenceWait s
      if s.windowWait w then .stall (s.setCtx cid { c with winWait := some w })
      else
        let k := s.core w.core
        let t := s.setCore w.core { k with lastWin := if k.lastWin = w.win then none else k.lastWin }
        .done (t.setCtx cid { c with winWait := none }) (c.img.next 4)) s

/-- Where the word of a `waita` lies: R164 checks 1 to 6 (R190). -/
def State.waitPlace (s : State) (core : Nat) (d : Desc) (off : Int) : State × Except FaultRec Place :=
  match segCheckWord d (isService core) off 8 true false false with
  | some f => (s, .error f)
  | none =>
    if d.kind = kCluster then (s, .ok (.bank (coreGrove core) (d.base + off.toNat)))
    else
      match s.accessPa core d off .read false with
      | (s1, .error f) => (s1, .error f)
      | (s1, .ok pa) => (s1, .ok (.phys pa))

/-- The region that a watch on a place covers (R190). -/
def Place.watch (p : Place) : WatchOn :=
  match p with
  | .phys pa => .phys (pa / 64)
  | .bank g off => .bank g (off / 64)

/-- Arm the watch of a context (R190). -/
def State.arm (s : State) (cid : Nat) (w : WatchOn) : State := s.updCtx cid fun c => { c with watch := some w, latch := false }

/-- Disarm the watch of a context. -/
def State.disarm (s : State) (cid : Nat) : State := s.updCtx cid fun c => { c with watch := none, latch := false }

/-- `waita` (R190): a kill point; the watch is armed before the first read, an `.nc` load; a comparison that does not hold blocks,
and one that no longer holds at the acquire access is made again. -/
def execWaita (cc : IntCc) (d xo b : Reg) (seg : Slot) (disp : BitVec 20) (acq : Option Scope) (s : State) : Out :=
  runMem false [d, xo, b]
    (fun s cid c =>
      let m := c.img
      let g := m.slot seg
      let off := nOf (m.getX xo) + disp.toInt
      match s.waitPlace s.here g off with
      | (s1, .error f) => .trap s1 f
      | (s1, .ok p) =>
        if m.kp then .left (s1.retire cid true)
        else
          match (s1.arm cid p.watch).loadPast s.here g off 8 true none with
          | (s2, .error f) => .trap s2 f
          | (s2, .ok bs) =>
            if !intCond cc (BitVec.ofNat 64 (leNat bs)) (m.getX b) then .block s2 .watch
            else
              match acq with
              | none => .done (s2.disarm cid) ((m.setX d (BitVec.ofNat 64 (leNat bs))).next 8)
              | some sc =>
                match s2.loadPast s.here g off 8 false (some sc) with
                | (s3, .error f) => .trap s3 f
                | (s3, .ok bs') =>
                  let w := BitVec.ofNat 64 (leNat bs')
                  if intCond cc w (m.getX b) then .done (s3.disarm cid) ((m.setX d w).next 8) else .stall s3) s

end Sys2Proof.Machine
end

