-- ==== Sys2Proof/Machine/Home.lean ====
section
/-! DEFINITION. What the caches and homes do on their own (R165 to R169, R173, R178, R179): fills, write-backs, proxies, drains,
combination, errors. -/

namespace Sys2Proof.Machine

open Sys2Proof

/-- Does a leaf lead to a line of memory? -/
def Leaf.covers (l : Leaf) (line : Nat) : Bool := decide (l.pbase ≤ 128 * line) && decide (128 * line < l.pbase + 2 ^ l.shift)

/-- The cores of a grove with a context that waits for a data access and a leaf that leads to a line (R104, R362): what a `tlbinv` has taken away
is filled for none of them (R364). -/
def State.waitingCores (s : State) (g line : Nat) : List Nat :=
  ((List.range 8).map fun c => 8 * g + c).filter fun k =>
    ((s.core k).utlb ++ (s.grove g).tlb).any (fun l => l.covers line) &&
      (s.residents k).any fun cid => match s.ctx? cid with | some c => c.wait == some .access | none => false

/-- Evict a named line of the set if there is no room, or the least recently used one (R165). -/
def State.l1RoomFor (s : State) (g line : Nat) (victim : Option Nat) : State :=
  let full := decide (8 ≤ ((s.grove g).l1.filter fun l => l.line % 64 == line % 64 && l.line != line).length)
  match victim with
  | some v =>
    (match (s.grove g).line? v with
     | some old =>
       if full && v % 64 == line % 64 && v != line then (s.writeBackLine g old).dropL1 g v
       else s.l1Room g line
     | none => s.l1Room g line)
  | none => s.l1Room g line

/-- Sectors of a line arrive in a grove L1 (R165) for the cores that wait for an access, with the release record of the line (R169
step 2). A line with uncorrectable data is not allocated (R179). -/
def State.l1Fill (s : State) (g line : Nat) (sectors : BitVec 4) (victim : Option Nat) : State :=
  let cores := s.waitingCores g line
  let kind := kindOfPa (128 * line)
  let s0 := s.recallLine line
  let l := ((s0.grove g).line? line).getD (L1Line.fresh line)
  let miss := (missingSectors l 0 128).filter fun q => sectors.getLsbD q
  if cores.isEmpty || !(kind == kGlobal || kind == kTier) || miss.isEmpty || miss.any (fun q => s0.badAt (groveDie g) (128 * line + 32 * q) 32) then s
  else
    let s1 := miss.foldl (fun (t : State) q => t.roundSums (128 * line + 32 * q) 32) s0
    let s2 := if ((s1.grove g).line? line).isSome then s1 else s1.l1RoomFor g line victim
    let recs := joinRecs l.recs (s2.recordOf line)
    let s3 := (cores.foldl (fun (t : State) k => t.pend k recs) s2).touch (groveDie g) line
      (BitVec.ofNat 4 ((miss.map fun q => 2 ^ q).sum)) false
    let l' := miss.foldl (fun l q => s3.fillSector l q) { l with recs := recs }
    s3.setGrove g ((s3.grove g).putLine l' false)

/-- `L1_FILL` (R165). -/
def execL1Fill (grove line : Nat) (sectors : BitVec 4) (victim : Option Nat) (s : State) : Out :=
  .next (s.l1Fill grove line sectors victim)

/-- A write-back of a grove's line is performed at its home; the L1 then keeps the line clean or drops it (R165, R176). -/
def State.performWriteBack (s : State) (g line : Nat) (drop : Bool) : State :=
  match (s.grove g).line? line with
  | none => s
  | some l =>
    if l.upd.isSome then s
    else
      let s1 := s.writeBackLine g l
      if drop then s1.dropL1 g line
      else (s1.setGrove g { s1.grove g with l1 := (s1.grove g).l1.map fun x => if x.line = line then x.clean (s.badL1 g line) else x }).sweep

/-- A grove asks for a write-back (R167): while another die than its own holds a proxy copy, the home completes it only after the copies are
invalidated. -/
def State.askWriteBack (s : State) (g line : Nat) (drop : Bool) : State :=
  match (s.grove g).line? line with
  | none => s
  | some l =>
    if l.upd.isSome then s
    else if l.dirty != 0 && (s.proxies.get? line).getD 0 &&& ~~~(1#8 <<< groveDie g) != 0 then
      if s.waiting.contains (g, line, drop) then s else { s with waiting := s.waiting ++ [(g, line, drop)] }
    else s.performWriteBack g line drop

/-- An uncorrectable error in the memory behind a home, or in the copy that the home slice holds (R179): a machine check, and the sector stays
bad, in the slice until it leaves it, in memory until all of it is written. -/
def State.foundBad (s : State) (pa : Nat) : State :=
  let q := pa / 32
  let g := homeGrove pa
  if s.holdsSector g q then
    ({ s with badSram := if s.badSram.contains (.slice g q) then s.badSram else .slice g q :: s.badSram }).machineCheck
      (homeDie pa) 1 1 0 pa (homeHash pa) 0
  else
    ({ s with bad := if s.bad.contains q then s.bad else q :: s.bad }).machineCheck (homeDie pa) 1 (memCode pa) 0 pa (homeHash pa) 0

/-- The die and the grove of a place in SRAM, a core, and its address: a physical one but for cluster memory, whose offset stands for it, and a
compute-in-memory bank, which has none (log 70). -/
def State.siteAt (s : State) (p : SramSite) : Nat × Nat × Nat × Nat :=
  match p with
  | .slice g q => (groveDie g, g % 256, 0, 32 * q)
  | .l1 g q => (groveDie g, g % 256, 0, 32 * q)
  | .cluster g q => (groveDie g, g % 256, 0, 32 * q)
  | .regs core cid line =>
    (coreDie core, ((groveOf core).getD 0) % 256, coreInGrove core, (s.die (ctxDie cid)).imgBase + 8192 * ctxTag cid + 64 * line)
  | .bank g _ => (groveDie g, g % 256, 0, 0)

/-- A number for a place in SRAM. -/
def siteCode (p : SramSite) : Nat :=
  match p with
  | .slice g q => 5 * (q * 4096 + g)
  | .l1 g q => 5 * (q * 4096 + g) + 1
  | .cluster g q => 5 * (q * 4096 + g) + 2
  | .regs core cid line => 5 * ((cid * 128 + line) * 65536 + core) + 3
  | .bank g k => 5 * (k * 4096 + g) + 4

/-- A corrected error is counted in the die's error log (R178). The record is open (log 21). -/
def State.logCorrected (s : State) (d : Nat) (w : Word) : State :=
  s.setDie d { s.die d with dieLog := (s.die d).dieLog.add { w0 := w, w1 := BitVec.ofNat 64 s.now } }

/-- An error in SRAM (R178, R179): corrected, or uncorrectable, with a machine check; the place is bad while it holds the data. The memory code of
a register cache is 4, of other SRAM 1 (R399). -/
def State.sramError (s : State) (p : SramSite) (bad : Bool) : State :=
  let at_ := s.siteAt p
  if !bad then s.logCorrected at_.1 (Config.correctedSite (siteCode p))
  else if !s.siteLives p || s.badSram.contains p then s
  else
    let code := match p with | .regs _ _ _ => 4 | _ => 1
    ({ s with badSram := p :: s.badSram }).machineCheck at_.1 1 code 0 at_.2.2.2 at_.2.1 at_.2.2.1

/-- What a home does on request (R166, R173, R178, R179). A line with an entry in the combine buffer stays in its slice. -/
def State.homeDo (s : State) (r : HomeReq) : State :=
  match r with
  | .writeBack g line drop => s.askWriteBack g line drop
  | .toDram line => if (s.comb? line).isSome then s else s.spill line
  | .corrected pa => if kindOfPa pa = 0 then s else s.logCorrected (homeDie pa) (Config.correctedRecord pa)
  | .uncorrectable pa => if kindOfPa pa = 0 then s else s.foundBad pa
  | .sram p bad => s.sramError p bad

/-- `HOME_REQUEST` (R166). -/
def execHomeRequest (r : HomeReq) (s : State) : Out := .next (s.homeDo r)

/-- `PROXY_INVALIDATE_DONE` (R167): no proxy copy is left, and the write-backs that waited for that are performed. -/
def execProxyInvalidateDone (line : Nat) (s : State) : Out :=
  let mine := s.waiting.filter fun w => w.2.1 == line
  let s1 := ({ s with waiting := s.waiting.filter fun w => w.2.1 != line } : State).dropProxies line none
  .next (mine.foldl (fun (t : State) w => t.performWriteBack w.1 w.2.1 w.2.2) s1)

/-- `UPDATE_ONLY_EVICTION` (R173): the partial is combined at the home. -/
def execUpdateOnlyEviction (grove line : Nat) (s : State) : Out :=
  .next (match (s.grove grove).line? line with
    | some l => if l.upd.isSome then (s.writeBackLine grove l).dropL1 grove line else s
    | none => s)

/-- `DRAIN_REQUEST` (R169 step 3). -/
def execDrainRequest (grove : Nat) (cores : BitVec 8) (s : State) : Out := .next (s.drain grove cores)

/-- `ACQUIRE_COMPLETE` (R169 step 4): the selected groves have drained, their entries leave the record, and the acquirer's clean bytes
become invalid. -/
def execAcquireComplete (core line : Nat) (sc : Scope) (s : State) : Out :=
  .next (if scopeWide sc then s.acquireLine core line sc else s)

/-- `RWAYS_RECONFIGURATION` (R168). -/
def execRwaysReconfiguration (die : Nat) (s : State) : Out := .next (s.rewayed die)

end Sys2Proof.Machine
end

