-- ==== Sys2Proof/Machine/Messages.lean ====
section
/-! DEFINITION. The fabric instructions (R341 to R351) and messages (R347, R348). -/

namespace Sys2Proof.Machine

open Sys2Proof

/-- A fabric instruction waits while the core's injection queue is full (R342); it blocks as a data access. -/
def injFull (s : State) : Bool := decide (64 ≤ (s.core s.here).inj.length)

/-- Put a transfer into the injection queue (R302, R342). -/
def State.enqueue (s : State) (x : Xfer) : State :=
  let c := s.core x.core
  { s.setCore x.core { c with inj := c.inj ++ [.xfer x.id] } with xfers := s.xfers ++ [x], serial := s.serial + 1 }

/-- A target of a transfer that has not begun. -/
def Leg.start (dst : Nat) (virt : Bool) (addr : Nat) : Leg :=
  { dst := dst, virt := virt, addr := addr, next := 0, waits := [], left := false, tailSent := false, fail := none, psu := false
    done := false }

/-- Checks 3 and 4 of R342: the completion area, which a service core does not have, and the dependency slot. -/
def fabComp (s : State) (m : Image) (cw : Cw) (xd : Word) (ds : Bool) : Option FaultRec :=
  if compBad cw xd || (isService s.here && cw != .none) then some (operandFault m 22)
  else if ds && m.dep.getLsbD 63 then some (operandFault m 23)
  else none

/-- Is the remote address of a transfer reserved bits (DATA 72) or out of range (DATA 74) (R343)? -/
def remoteBad (virt : Bool) (w : Word) (len : Nat) : Option Nat :=
  if virt then
    if w.extractLsb' 56 8 != 0#8 then some 72 else if 2 ^ 56 < w.toNat + len then some 74 else none
  else if w.extractLsb' 21 43 != 0#43 then some 72
  else if Config.clusterBytes < w.toNat + len then some 74
  else none

/-- The kinds of the local range of a transfer (R343). -/
def xferKinds (core : Nat) : List Nat := if isService core then [kGlobal, kTier] else [kGlobal, kCluster, kTier]

/-- The fault, if any, of the operands of `put` and `get` (R342 checks 1 to 6, R343). -/
def xferFault (s : State) (m : Image) (k : FabCmd) (isPut : Bool) : Option FaultRec :=
  let xa := m.getX k.a
  let len := xa.toNat / 2 ^ 48
  let op := fun d : Nat => some (operandFault m d)
  match segCheck (m.slot k.sb) (xferKinds s.here) (isService s.here) (nOf (m.getX k.b)) len 1 isPut (!isPut) (!isPut) with
  | some f => some f
  | none =>
    match fabComp s m k.cw (m.getX k.d) k.ds with
    | some f => some f
    | none =>
      match remoteBad (xa.getLsbD 47) (m.getX k.c) len with
      | some d => op d
      | none =>
        if Config.clusterBytes < xa.toNat / 2 ^ 28 % 2 ^ 18 * 8 + 8 then op 74
        else if !s.reachable (epDev xa.toNat) then op 75
        else none

/-- `put` and `get` (R343): a `get` of length 0 sends no request and completes at once. -/
def runXfer (isPut : Bool) (k : FabCmd) (s : State) : Out :=
  runMem false [k.a, k.b, k.c, k.d]
    (fun s cid c =>
      let m := c.img
      match xferFault s m k isPut with
      | some f => .trap s f
      | none =>
        let xa := m.getX k.a
        let len := xa.toNat / 2 ^ 48
        let cnt := if xa.getLsbD 46 then some (xa.toNat / 2 ^ 28 % 2 ^ 18 * 8) else none
        let x : Xfer :=
          { id := s.serial, kind := if isPut then .put cnt else .get cnt, core := s.here, cid := cid, uid := c.uid
            desc := m.slot k.sb, off := (m.getX k.b).toNat, len := len, xd := m.getX k.d, cw := k.cw, ds := k.ds, dep := m.dep
            legs := [Leg.start (xa.toNat % 2 ^ 28) (xa.getLsbD 47) (m.getX k.c).toNat], window := 0, inc := 0, got := []
            sentNo := none }
        if !isPut && len == 0 then .done (s.finishXfer x) (m.next 8)
        else if injFull s then .block s .access
        else .done ((s.commandAcquire s.here (acqScope k.ord)).enqueue x) (m.next 8)) s

/-- `put` (R343). -/
def execPut (k : FabCmd) (s : State) : Out := runXfer true k s

/-- `get` (R343). -/
def execGet (k : FabCmd) (s : State) : Out := runXfer false k s

/-- A subscriber of a `pub` in its 16 bytes (R346): endpoint, M, reserved bits, remote address. -/
structure Subscriber where
  dst : Nat
  virt : Bool
  spare : Bool
  addr : Word

/-- The subscribers of a list. -/
def subscribers (n : Nat) (bs : List Byte) : List Subscriber :=
  (List.range n).map fun i =>
    let w := wordAt bs (16 * i)
    { dst := w.toNat % 2 ^ 28, virt := w.getLsbD 63, spare := w.extractLsb' 28 35 != 0#35, addr := wordAt bs (16 * i + 8) }

/-- The fault, if any, of the operands of `pub` before its subscribers are read (R342 checks 1 to 5, R346). -/
def pubFault (s : State) (m : Image) (d a b : Reg) (sb : Slot) (cw : Cw) (ds : Bool) : Option FaultRec :=
  let xa := m.getX a
  let len := xa.toNat / 2 ^ 32 % 2 ^ 17
  let n := xa.toNat / 2 ^ 21 % 128
  let list := xa.toNat % 2 ^ 21
  match segCheck (m.slot sb) (xferKinds s.here) (isService s.here) (nOf (m.getX b)) len 1 true false false with
  | some f => some f
  | none =>
    match fabComp s m cw (m.getX d) ds with
    | some f => some f
    | none =>
      if xa.extractLsb' 28 4 != 0#4 || xa.extractLsb' 49 15 != 0#15 || n == 0 || decide (64 < n) || list % 16 != 0 ||
          decide (Config.clusterBytes < list + 16 * n) || isService s.here then some (operandFault m 72)
      else if 65536 < len then some (operandFault m 73)
      else none

/-- The fault, if any, of the subscribers of a `pub` of a length (R342 checks 5 and 6, R346). -/
def subsFault (s : State) (m : Image) (len : Nat) (subs : List Subscriber) : Option FaultRec :=
  if subs.any fun t => t.spare then some (operandFault m 72)
  else
    match subs.findSome? fun t => remoteBad t.virt t.addr (len + 8) with
    | some k => some (operandFault m k)
    | none => if subs.all fun t => s.reachable (epDev t.dst) then none else some (operandFault m 75)

/-- `pub` (R346): it first performs the release actions of `fence.rel.f`. -/
def execPub (d a b c : Reg) (sb : Slot) (cw : Cw) (ds : Bool) (s : State) : Out :=
  runMem false [a, b, c, d]
    (fun s cid cx =>
      let m := cx.img
      match pubFault s m d a b sb cw ds with
      | some f => .trap s f
      | none =>
        let xa := m.getX a
        let n := xa.toNat / 2 ^ 21 % 128
        let len := xa.toNat / 2 ^ 32 % 2 ^ 17
        let list := xa.toNat % 2 ^ 21
        let subs := subscribers n (s.bankBytes (coreGrove s.here) list (16 * n))
        if s.badBank (coreGrove s.here) list (16 * n) then
          .trap (s.reportBank (coreGrove s.here) list s.here) (FaultRec.mk cUncorr 1 list false false none 0)
        else
          match subsFault s m len subs with
          | some f => .trap s f
          | none =>
            if acceptWait (s.coreRing s.here) || s.fabricWait s.here .fabric then .stall s
            else if injFull s then .block s .access
            else
              let x : Xfer :=
                { id := s.serial, kind := .pub (m.getX c), core := s.here, cid := cid, uid := cx.uid, desc := m.slot sb
                  off := (m.getX b).toNat, len := len, xd := m.getX d, cw := cw, ds := ds, dep := m.dep
                  legs := subs.map fun t => Leg.start t.dst t.virt t.addr.toNat, window := 0, inc := 0, got := [], sentNo := none }
              .done ((s.releaseFence s.here).enqueue x) (m.next 8)) s

/-- `msg` (R347). -/
def execMsg (d a b c : Reg) (s : State) : Out :=
  runMem false [a, b, c, d]
    (fun s cid cx =>
      let m := cx.img
      let xa := m.getX a
      if xa.extractLsb' 44 20 != 0#20 then .trap s (operandFault m 72)
      else if !s.reachable (epDev xa.toNat) then .trap s (operandFault m 75)
      else if injFull s then .block s .access
      else
        let o : MsgOut :=
          { id := s.serial, dst := xa.toNat % 2 ^ 28, tag := xa.extractLsb' 28 16, pay := m.getX d ++ m.getX c ++ m.getX b
            cid := cid, uid := cx.uid, seq := none, inc := 0, sentNo := 0, first := 0, last := 0, answer := none, refused := false }
        let k := s.core s.here
        .done { s.setCore s.here { k with inj := k.inj ++ [.msg o] } with serial := s.serial + 1 } (m.next 8)) s

/-- Entries of a diverted-message buffer (R348). -/
def Image.divSize (m : Image) : Nat := 2 ^ (12 + (m.div0.toNat / 2 ^ 52 % 16)) / 32
/-- HEAD of the diverted-message buffer (R348). -/
def Image.divHead (m : Image) : BitVec 32 := m.div1.extractLsb' 0 32
/-- TAIL of the diverted-message buffer (R348). -/
def Image.divTail (m : Image) : BitVec 32 := m.div1.extractLsb' 32 32
/-- The physical address of an entry (R348). -/
def Image.divPa (m : Image) (j : BitVec 32) : Nat := (m.div0.extractLsb' 12 40).toNat * 4096 + 32 * (j.toNat % m.divSize)
/-- Is the buffer full? -/
def Image.divFull (m : Image) : Bool := decide (m.divSize ≤ (m.divTail - m.divHead).toNat)

/-- `recv` (R349): the diverted buffer first, then the receive queue. -/
def execRecv (d a : Reg) (sa : Slot) (nb : Bool) (s : State) : Out :=
  runMem false [d, a]
    (fun s cid cx =>
      let m := cx.img
      let g := m.slot sa
      match recSa s g (nOf (m.getX a)) 32 32 true with
      | some f => .trap s f
      | none =>
        let dest := g.base + (m.getX a).toNat
        if m.divHead != m.divTail then
          let pa := m.divPa m.divHead
          match s.storeRead s.here pa 32 with
          | (s1, none) => s1.storeTrap m pa 32
          | (s1, some bs) =>
            .done ((s1.bankWrite (coreGrove s.here) dest bs).updCtx cid fun c => { c with divTold := false })
              ({ m.setX d 2 with div1 := m.divTail ++ (m.divHead + 1) }.next 8)
        else
          match (s.core s.here).recvq with
          | w :: rest =>
            .done ((s.setCore s.here { s.core s.here with recvq := rest }).bankWrite (coreGrove s.here) dest (leBytes 32 w.toNat))
              ((m.setX d 1).next 8)
          | [] => if nb then .done s ((m.setX d 0).next 8) else .block s .recv) s

/-- Is the core in a gateway grove (R350)? -/
def inGateway (core : Nat) : Bool := !isService core && (gatewayGroves (coreDie core)).contains (coreGrove core % 256)

/-- `rblk` (R350). -/
def execRblk (d : Reg) (s : State) : Out :=
  runMem false [d]
    (fun s _ c =>
      if !inGateway s.here then .trap s (operandFault c.img 76)
      else
        let k := coreGrove s.here
        let g := s.grove k
        if g.rbNext.toNat < g.rbEnd.toNat then
          .done (s.setGrove k { g with rbNext := g.rbNext + 1 }) ((c.img.setX d ((0#16 ++ g.rbEpoch) ++ g.rbNext)).next 8)
        else .done s ((c.img.setX d (BitVec.allOnes 64)).next 8)) s

/-- `rblk.set` (R350). -/
def execRblkSet (a b : Reg) (s : State) : Out :=
  runMem false [a, b]
    (fun s _ c =>
      if !inGateway s.here then .trap s (operandFault c.img 76)
      else
        let x := c.img.getX a
        let y := c.img.getX b
        if x.extractLsb' 32 32 != 0#32 || y.extractLsb' 32 32 != 0#32 then .trap s (operandFault c.img 72)
        else
          let k := coreGrove s.here
          let g := s.grove k
          .done (s.setGrove k { g with rbNext := x.extractLsb' 0 32, rbEnd := y.extractLsb' 0 32, rbEpoch := g.rbEpoch + 1 })
            (c.img.next 8)) s

/-- `baddq` (R351): both operands are read before the result is written. -/
def execBaddq (ty : Fmt) (a b c : Reg) (sa sb : Slot) (s : State) : Out :=
  runMem false [a, b, c]
    (fun s _ cx =>
      let m := cx.img
      let da := m.slot sa
      let db := m.slot sb
      match recSa s da (nOf (m.getX a)) 64 64 true, recSa s db (nOf (m.getX b)) 64 64 false,
          recSa s db (nOf (m.getX c)) 64 64 false with
      | some f, _, _ => .trap s f
      | none, some f, _ => .trap s f
      | none, none, some f => .trap s f
      | none, none, none =>
        match s.saBad db (m.getX b).toNat 33, s.saBad db (m.getX c).toNat 33 with
        | some e, _ => e
        | none, some e => e
        | none, none =>
          let g := coreGrove s.here
          let x := s.bankBytes g (db.base + (m.getX b).toNat) 64
          let y := s.bankBytes g (db.base + (m.getX c).toNat) 64
          .done (s.bankWrite g (da.base + (m.getX a).toNat) (baddq ty x y)) (m.next 8)) s

/-- The 32 bytes of a message (R347). -/
def msgWord (p : MsgPacket) (diverted : Bool) : BitVec 256 :=
  p.pay ++ (0#15 ++ BitVec.ofBool diverted) ++ p.tag ++ (p.srcInc ++ BitVec.ofNat 28 p.srcEp)

/-- Append a message to a context's diverted-message buffer (R348, R407): the entry, then TAIL. -/
def State.divert (s : State) (cid : Nat) (c : Ctx) (w : BitVec 256) : State :=
  let m := c.img
  (s.homeWrite (m.divPa m.divTail) (leBytes 32 w.toNat)).updCtx cid fun c =>
    { c with img := { c.img with div1 := (c.img.divTail + 1) ++ c.img.divHead } }

/-- A diverted message meets the buffer (R347): it is appended, or refused, which is counted and told to the service complex once for
each filling. The Bool says that the message was taken. -/
def State.divertMsg (s : State) (die cid : Nat) (c : Ctx) (w : BitVec 256) : State × Bool :=
  if c.img.divFull then
    let s1 := s.bump die 2 false 1
    if c.divTold then (s1, false)
    else
      let s2 := s1.raiseCause die 3
      (s2.setCtx cid { c with divTold := true }, false)
  else (s.divert cid c w, true)

/-- A message reaches the network interface of its target core (R347). The Bool says that it was taken. -/
def State.deliverMsg (s : State) (p : MsgPacket) : State × Bool :=
  let k := epCore p.dstEp
  let die := coreDie k
  let core := s.core k
  let room := decide (core.recvq.length < 64)
  let t := p.tag.toNat
  let active := match s.activeCid k with | some cid => ctxTag cid == t | none => false
  if (t == 0xFFFF || active) && room then (s.setCore k { core with recvq := core.recvq ++ [msgWord p false] }, true)
  else if t == 0xFFFF then (s, false)
  else
    let cid := die * 65536 + t
    match s.ctx? cid with
    | none => (s.bump die 2 true 1, true)
    | some c =>
      match c.where_ with
      | .ended => (s.bump die 2 true 1, true)
      | _ => s.divertMsg die cid c (msgWord p true)

/-- Has a message number been neither placed nor closed, so that the message is placed when it first arrives (R347)? -/
def RecvSeq.isNew (r : RecvSeq) (q : BitVec 32) : Bool :=
  match r.state q with
  | .open_ => true
  | .beyond => true
  | _ => false

/-- A message arrives at a gateway (R328, R347): dropped, answered again, taken or refused. While a checkpoint runs it is neither placed nor
acknowledged (R336, R422). -/
def State.msgArrival (s : State) (gw : Nat) (p : MsgPacket) : State :=
  let die := epDie p.dstEp
  let key := 8 * epDev p.srcEp + epDie p.srcEp
  if (s.die die).paused then s
  else if s.staleInc (epDev p.srcEp) p.srcInc p.dstInc then s.countStale (groveDie gw)
  else
    let q := BitVec.ofNat 32 p.seq
    let r := (s.msgRecvs.get? key).getD RecvSeq.fresh
    if r.isNew q then
      match s.deliverMsg p with
      | (s1, true) =>
        ({ s1 with msgRecvs := s1.msgRecvs.set key { r with placed := r.placed ++ [q] }.advance }).answer .msg p.srcEp p.seq none
      | (s1, false) => s1.answer .msg p.srcEp p.seq (some 0)
    else if r.placed.contains q then (s.countDup die).answer .msg p.srcEp p.seq none
    else s.countLate die

/-- `MSG_ARRIVAL` (R347). -/
def execMsgArrival (p : MsgSource) (s : State) : Out :=
  .next (match p with
    | .own i =>
      (match s.msgs[i]? with
       | some k => ({ s with msgs := dropAt s.msgs i }).msgArrival (gatewayOf (epDie k.dstEp)) k
       | none => s)
    | .peer port k =>
      if epDev k.srcEp = s.ownDev || !s.mayAnswer then s
      else s.atPort port 2 (flits 32) fun t => if t.ckPhase != 0 then t else t.msgArrival (portGateway port) k)

/-- `MSG_RETRY` (R347): a refused message is sent again after 1 µs, one without an answer after 2 µs. -/
def State.msgRetry (s : State) (core idx : Nat) : State :=
  match (s.core core).inj[idx]? with
  | some (.msg m) =>
    let due := match m.answer, m.refused with
      | some t, true => t + micro
      | _, _ => m.last + 2 * micro
    if m.seq.isSome && decide (due ≤ s.sync) && s.paced core m.dst && s.msgCan (epDev m.dst) then s.sendMsg core idx m else s
  | _ => s

/-- `MSG_RETRY` (R347). -/
def execMsgRetry (core idx : Nat) (s : State) : Out := .next (s.msgRetry core idx)

/-- A message that stays without an answer for 3 · LEN µs ends put-status-unknown, and a close notice is sent (R347): at once, if a port may
send it, and else with the first retry. -/
def State.msgSilence (s : State) (die dev seq : Nat) : State :=
  match s.findMsg die dev seq fun m => decide (m.answer.getD m.first + 3 * s.windowLen ≤ s.sync) with
  | none => s
  | some (k, i, m) =>
    let s1 := (s.setCore k { s.core k with inj := dropAt (s.core k).inj i }).countUnknown die
    let q := s1.sendSeq die dev
    let sent := dev == s.ownDev || (s.portFor 3).isSome
    let close : OpenClose :=
      { seq := BitVec.ofNat 32 seq, inc := m.inc, time := if sent then s.sync else s.sync - 2 * micro }
    let s2 := s1.setSend die dev { q with closes := q.closes ++ [close] }
    (if dev = s.ownDev then s2 else s2.leave 3 (flits 0)).psuTo m.cid m.uid k
      { sent := m.sentNo, va := 0, target := m.dst, w := true }

/-- `MSG_SILENCE_TIMEOUT` (R347). -/
def execMsgSilenceTimeout (die dev seq : Nat) (s : State) : Out := .next (s.msgSilence die dev seq)

/-- A close notice closes a number that has not been placed, and is answered (R347), unless it is dropped (R328). -/
def State.closed (s : State) (die : Nat) (n : CloseNotice) : State :=
  if s.staleInc n.srcDev n.srcInc n.dstInc then s.countStale die
  else
    let q := BitVec.ofNat 32 n.seq
    let key := 8 * n.srcDev + n.srcDie
    let r := (s.msgRecvs.get? key).getD RecvSeq.fresh
    let s1 := if r.isNew q then { s with msgRecvs := s.msgRecvs.set key { r with closed := r.closed ++ [q] }.advance } else s
    s1.answer .close (n.srcDev * 16384 + n.srcDie * 2048) n.seq none

/-- A close notice arrives: one that the module has sent itself, or a peer's at a port. -/
def State.closeNotice (s : State) (n : CloseNotice) : State :=
  if n.srcDev = s.ownDev then
    if (s.sendSeq n.srcDie n.srcDev).closes.any fun c => c.seq == BitVec.ofNat 32 n.seq then s.closed n.srcDie n else s
  else if !s.mayAnswer then s
  else s.atPort n.port 3 (flits 0) fun t => t.closed (portDie n.port) n

/-- `CLOSE_NOTICE_ARRIVAL` (R347). -/
def execCloseNoticeArrival (port srcdie : Nat) (peer : PeerTag) (seq : Nat) (s : State) : Out :=
  .next (s.closeNotice
    { srcDie := srcdie, srcDev := peer.dev, srcInc := peer.srcInc, dstInc := peer.dstInc, seq := seq, port := port })

/-- `PEER_LINK_LOSS` (R329): the peer is DOWN in every gateway. -/
def execPeerLinkLoss (dev : Nat) (s : State) : Out :=
  .next { s with peers := s.peers.set dev { up := false, inc := s.incOf dev } }

/-- The sequence state of a pair is reset to 0 in both directions (R329); writes that wait for an answer go on waiting for their end. -/
def State.resetPair (s : State) (dev : Nat) : State :=
  let s1 := (List.range Config.dies).foldl (fun (t : State) d =>
    let q := t.sendSeq d dev
    t.setSend d dev { q with next := 0, msgNext := 0, closes := [] }) s
  { s1 with recvs := s1.recvs.filter fun p => p.1 / 8 != dev, msgRecvs := s1.msgRecvs.filter fun p => p.1 / 8 != dev }

/-- `PEER_REJOIN` (R329). -/
def execPeerRejoin (dev : Nat) (inc : BitVec 4) (s : State) : Out :=
  .next (({ s with peers := s.peers.set dev { up := true, inc := inc } }).resetPair dev)

/-- `PORT_BRINGUP` (R327, R328, R332, R333): the port comes up with the highest common version and the common features, or the reason is
recorded; the device number is set; the first bring-up after a reset takes the next incarnation (log 15). -/
def State.bringup (s : State) (port ver : Nat) (feat : BitVec 32) (win devid : Nat) : State :=
  if 18 ≤ port || (s.port port).up then s
  else if ver = 0 then s.logDie (portDie port) 0 0 10 1 port
  else if win ≠ s.fabwin.toNat % 128 then s.logDie (portDie port) 0 0 10 2 port
  else
    { s with
      ports := s.ports.set port { Port.fresh with up := true, version := min ver 1, features := feat &&& 1 }
      devid := if devid < 16383 then BitVec.ofNat 14 devid else s.devid
      incarnation := if s.linked then s.incarnation else s.incarnation + 1
      linked := true }

/-- `PORT_BRINGUP` (R333). -/
def execPortBringup (port : Nat) (ver : BitVec 8) (feat : BitVec 32) (win : Nat) (devid : BitVec 14) (s : State) : Out :=
  .next (s.bringup port ver.toNat feat win devid.toNat)

/-- `PORT_LINK_FAILURE` (R337): the port is down; what was on its link is lost. -/
def execPortLinkFailure (port : Nat) (s : State) : Out :=
  .next { s with ports := s.ports.set port { s.port port with up := false } }

/-- `PORT_RESET` (R425): the port's flow totals are lost. -/
def execPortReset (port : Nat) (s : State) : Out :=
  let z : Vector (BitVec 32) 4 := Vector.replicate 4 0
  .next { s with ports := s.ports.set port { s.port port with sent := z, heard := z, got := z, freed := z } }

/-- `CREDIT_UPDATE_SEND` (R332): an update leaves on the control channel of a port that may send there. -/
def execCreditUpdateSend (port : Nat) (s : State) : Out :=
  .next (if (s.port port).allows 3 then s.portSend port 3 (flits 32) else s)

/-- The flits lost on each channel (R332): what SENT is above the count of flits received. -/
def Port.lost (p : Port) (sent : Vector (BitVec 32) 4) : Vector (BitVec 32) 4 :=
  Vector.ofFn fun ch => if (sent[ch] - p.got[ch]).toNat < 2 ^ 31 then sent[ch] - p.got[ch] else 0

/-- What an update of all four channels does at a port (R332): the flits that were lost are added to FREED, and the flit of the update itself is
counted after the comparison (log 13). -/
def Port.updated (p : Port) (sent freed : Vector (BitVec 32) 4) : Port :=
  let lost := p.lost sent
  { p with
    heard := freed
    got := Vector.ofFn fun ch => p.got[ch] + lost[ch] + (if ch = 3 then 1 else 0)
    freed := Vector.ofFn fun ch => p.freed[ch] + lost[ch] + (if ch = 3 then 1 else 0) }

/-- An update arrives at a port that is up (R332): lost flits are counted in LOSTFLIT. -/
def State.creditArrival (s : State) (port : Nat) (sent freed : Vector (BitVec 32) 4) : State :=
  let p := s.port port
  if 18 ≤ port || !p.up then s
  else
    let n := (p.lost sent).foldl (fun t b => t + b.toNat) 0
    ({ s with ports := s.ports.set port (p.updated sent freed) }).bump (portDie port) 3 false n

/-- `CREDIT_UPDATE_ARRIVAL` (R332). -/
def execCreditUpdateArrival (port : Nat) (control : BitVec 32 × BitVec 32) (sent freed : Vector (BitVec 32) 3) (s : State) : Out :=
  .next (s.creditArrival port (sent.push control.1) (freed.push control.2))

/-- `CLOCK_DRIFT` (R334): a machine check, and no new fabric write is sent. -/
def execClockDrift (die : Nat) (s : State) : Out :=
  let s1 := s.machineCheck die 3 0 0 0 0 0
  .next (s1.setDie die { s1.die die with drift := true })

/-- `CLOCK_DRIFT_RECOVERY` (R334). -/
def execClockDriftRecovery (s : State) : Out :=
  .next ((List.range Config.dies).foldl (fun (t : State) d =>
    if (t.die d).drift then t.setDie d { t.die d with drift := false } else t) s)

/-- A write of `fabwin` (R4, R340): LEN within 1 to 64, and only while every port is down. -/
def State.writeFabwin (s : State) (w : Word) : State :=
  let s0 := if w.extractLsb' 7 57 != 0#57 || w.toNat % 128 == 0 || decide (64 < w.toNat % 128) then s.logHost 0 1 0x30 else s
  let len := w.toNat % 128
  if len = 0 || 64 < len || len = s.fabwin.toNat % 128 then s0
  else if s.ports.any fun p => p.2.up then s0.logHost 0 2 0x30
  else { s0 with fabwin := BitVec.ofNat 64 len }

/-- `FABWIN_WRITE` (R340). -/
def execFabwinWrite (value : Word) (s : State) : Out := .next (s.writeFabwin value)

/-- `VISIBILITY_WINDOW_BEGIN` (R189, R334): time goes on to the start of the next window. -/
def execVisibilityWindowBegin (s : State) : Out :=
  let start := (s.window + 1) * s.windowLen
  .next (s.pass ((start - s.sync) * s.clk / 1000000) (start - s.sync))

end Sys2Proof.Machine
end

