-- ==== Sys2Proof/Machine/Mailbox.lean ====
section
/-! DEFINITION. Mailboxes (R323 to R325, R413, R414), host queues (R407) and the firmware calls (R415). -/

namespace Sys2Proof.Machine

open Sys2Proof

/-- Replace a mailbox. -/
def State.setMbox (s : State) (m : Nat) (b : Mbox) : State := { s with mboxes := s.mboxes.set m b }

/-- The device looks at the index words of a mailbox at their home (R324): partials are recalled first (R173). -/
def State.mbLook (s : State) (m : Nat) : State :=
  match s.mbIndex m with
  | some pa => s.recallRange pa 16
  | none => s

/-- The ring of a mailbox (R323). -/
def State.mbRing (s : State) (m : Nat) : Option Nat := (s.die (m / 4096)).mbArea.map fun a => a.1 + 2048 * (m % 4096)

/-- A post to a mailbox (R323, R324, R413, R414): refused with FULL before a version is chosen, while a checkpoint runs, or when 64
messages are there; else the message, and then TAIL as a release at device scope. -/
def State.post (s : State) (m : Nat) : State :=
  let t := s.mbLook m
  let refuse := fun (u : State) => u.setMbox m { u.mbox m with full := true }
  match t.mbIndex m, t.mbRing m with
  | some pa, some ring =>
    let tail := t.mbTail m
    if t.mbsel = 0 || t.ckPhase != 0 || 64 ≤ (tail - t.mbHead m).toNat then refuse t
    else
      let u := t.writeHome (ring + 32 * (tail.toNat % 64)) (leBytes 32 (t.mbox m).post.toNat)
      (u.writeHome pa (leBytes 8 (tail + 1).toNat)).raiseCause (m / 4096) 1
  | _, _ => refuse t

/-- `MAILBOX_POST` (R414). -/
def execMailboxPost (m : Nat) (msg : BitVec 256) (s : State) : Out :=
  .next (if m < 32768 then (s.setMbox m { s.mbox m with post := msg }).post m else s)

/-- A binding (R324) as the descriptor of a message that the words of `args` hold (R325). -/
def bindTask (bind : BitVec 128) (args : BitVec 256) : TaskDesc :=
  let b := fun k : Nat => bind.extractLsb' (8 * k) 8
  { entry := (bind.extractLsb' 0 56).setWidth 64, args := args, count := 1, ctl := b 8, die := 0, grove := (b 9).toNat
    core := (b 10).toNat, wait := 0, signal := (bind.extractLsb' 96 16).toNat, inc := 0, pad := 0, bound := 0 }

/-- Does a binding break R303 or R324? -/
def bindBad (bind : BitVec 128) : Bool :=
  let t := bindTask bind 0
  t.fault.isSome || t.srch || t.holds || t.arm || bind.extractLsb' 56 7 != 0#7 || bind.extractLsb' 88 8 != 0#8 ||
    bind.extractLsb' 112 16 != 0#16

/-- A bound mailbox's next message becomes a descriptor (R325); HEAD advances past it. -/
def State.mailSpawn (s : State) (m : Nat) : State :=
  let d := m / 4096
  let bind := (s.mbox m).bind
  let t := s.mbLook m
  match t.mbIndex m, t.mbRing m with
  | some pa, some ring =>
    let head := t.mbHead m
    if !bind.getLsbD 63 || head == t.mbTail m || 65536 ≤ (t.die d).pool.length then s
    else
      let at_ := ring + 32 * (head.toNat % 64)
      let u := t.recallRange at_ 32
      let args := BitVec.ofNat 256 (leNat (u.homeBytes at_ 32))
      let v := u.poolEnter d (bindTask bind args) (some (.device, none))
      v.writeHome (pa + 8) (leBytes 8 (head + 1).toNat)
  | _, _ => s

/-- `MAILBOX_SPAWN` (R325). -/
def execMailboxSpawn (m : Nat) (s : State) : Out := .next (s.mailSpawn m)

/-- The management offset of a tag's `hqdata` (R410). -/
def hqOff (c : Nat) : Nat := 0x4000000 + 64 * c

/-- The 32 bytes of a host post to a context: bytes 0 to 7 name the host, the tag and D (R347, R407), the rest are the host's. -/
def hostMsg (c : Nat) (msg : BitVec 256) : BitVec 256 :=
  msg.extractLsb' 64 192 ++ 1#16 ++ BitVec.ofNat 16 c ++ (0#4 ++ BitVec.ofNat 28 (0x3FFF * 16384))

/-- A post to a host queue (R407). -/
def State.hqPost (s : State) (d c : Nat) : State :=
  let cid := 65536 * d + c
  match s.ctx? cid with
  | none => s.logHost d 2 (hqOff c)
  | some x =>
    if !x.hqOpen || x.where_ == .ended then s.logHost d 2 (hqOff c)
    else if x.img.divFull then (s.updCtx cid fun y => { y with hqFull := true }).bump d 2 false 1
    else (s.divert cid x (hostMsg c x.hqBuf)).raiseCause d 2

/-- `HOST_QUEUE_POST` (R407). -/
def execHostQueuePost (die tag : Nat) (msg : BitVec 256) (s : State) : Out :=
  .next (if 65536 ≤ tag then s else (s.updCtx (65536 * die + tag) fun c => { c with hqBuf := msg }).hqPost die tag)

/-- Call 1 (R415): bind a mailbox. -/
def State.callBind (s : State) (m : Image) : State × Word :=
  let n := (m.getX 3).toNat
  let b := m.getX 5 ++ m.getX 4
  if 32768 ≤ n || bindBad b then (s, 1) else (s.setMbox n { s.mbox n with bind := b }, 0)

/-- Call 2 (R415): `gtw` for the caller. -/
def State.callGroup (s : State) (core : Nat) (m : Image) : State × Word :=
  let g := (m.getX 3).toNat
  let n := (m.getX 4).toNat
  if 255 < g || 63 < n then (s, 0xFFFFFFFFFFFFFFFE)
  else
    match s.gtw core g m (m.slot (BitVec.ofNat 6 n)) (nOf (m.getX 5)) with
    | (t, none) => (t, 0)
    | (t, some f) => (t, if f.code = cOperand then BitVec.ofNat 64 f.data else BitVec.ofNat 64 (0x100 + f.code))

/-- Call 3 (R415): reinitialise an incumbent; 1 when the write of `incctl` was ignored. -/
def State.callReinit (s : State) (m : Image) : State × Word :=
  let n := (m.getX 3).toNat
  if 8 ≤ n then (s, 1)
  else
    let k := BitVec.ofNat 3 n
    let s1 := s.setIncumbent k { s.incumbent k with init := m.getX 5 }
    let w := m.getX 4
    let i := s1.incumbent k
    let ignored := i.busy || s1.searchLeft k.toNat || (w.getLsbD 0 && w.getLsbD 2 && badKey i.init)
    (s1.writeIncctl k w, if ignored then 1 else 0)

/-- Call 4 (R415): open or close a host queue. -/
def State.callQueue (s : State) (cid : Nat) (m : Image) : State × Word :=
  let n := (m.getX 3).toNat
  let c := if n = 0xFFFF then cid else 65536 * ctxDie cid + n
  match s.ctx? c with
  | none => (s, 1)
  | some x =>
    if (n != 0xFFFF && decide (65536 ≤ n)) || x.where_ == .ended then (s, 1)
    else (s.updCtx c fun y => { y with hqOpen := m.getX 4 == 1 }, 0)

/-- A firmware call (R415): its effect and the value of x3. -/
def State.firmwareCall (s : State) (cid core n : Nat) (m : Image) : State × Word :=
  match n with
  | 1 => s.callBind m
  | 2 => s.callGroup core m
  | 3 => s.callReinit m
  | 4 => s.callQueue cid m
  | _ => (s, BitVec.allOnes 64)

/-- Firmware finishes the call of a context that has taken the system-call trap of a `sys` at user privilege (R415): the call's effect,
x3, and the return by `eret` to the instruction after the `sys` (R134, R136). -/
def State.finishCall (s : State) (cid : Nat) : State :=
  match s.ctx? cid with
  | none => s
  | some c =>
    match c.core? with
    | none => s
    | some core =>
      let m := c.img
      if s.activeCid core != some cid || !c.ready || !m.prv || m.faultinfo.toNat % 256 != cSys || m.faultinfo.getLsbD 10 then s
      else
        let r := s.firmwareCall cid core (m.faultinfo.toNat / 2 ^ 32) m
        let t : State := { r.1 with here := core }
        ((t.redispatch cid m false m.saved).updCtx cid fun x => { x with img := (x.img.leave).setX 3 r.2 })

end Sys2Proof.Machine
end

