-- ==== Sys2Proof/Machine/Tables.lean ====
section
/-! DEFINITION. Segment slots and the commutative range table as instructions change them (R356 to R358, R370, R371). -/

namespace Sys2Proof.Machine

open Sys2Proof

/-- A descriptor as it is stored (R356): the ignored fields of kinds 0 and 2 are zero. -/
def Desc.stored (d : Desc) : Desc :=
  if d.kind = 0 then Desc.zero
  else if d.kind = kCluster then { d with w2 := d.w2 &&& 0xFF#64 }
  else d

/-- Checks 2 to 4 of R358: the DATA of the illegal-operand fault. -/
def Desc.refused (d : Desc) (prv : Bool) (rasid : Nat) : Option Nat :=
  if d.w0.extractLsb' 56 8 != 0#8 || d.w2.extractLsb' 20 44 != 0#44 || d.w3 != 0 || decide (4 < d.kind) || d.pol == 3 then some 80
  else if d.kind = 0 then none
  else if (d.kind = kCluster && decide (0x180000 < d.base + d.len)) || (d.kind != kCluster && decide (2 ^ 56 < d.base + d.len)) then
    some 81
  else if !prv && d.kind != kCluster && d.asid != rasid then some 82
  else none

/-- `sset` (R358): the descriptor is read whole, then checked, then stored. -/
def runSset (a : Reg) (sa : Slot) (f : State → Image → Desc → State × Image) (s : State) : Out :=
  runMem false [a]
    (fun s _ c =>
      let g := c.img.slot sa
      let off := nOf (c.img.getX a)
      match segCheck g [kCluster] (isService s.here) off 32 8 true false false with
      | some e => .trap s e
      | none =>
        match s.saBad g off.toNat 32 with
        | some e => e
        | none =>
          let d := Desc.ofBytes (s.bankBytes (coreGrove s.here) (g.base + off.toNat) 32)
          match d.refused c.img.prv (s.rasid.toNat % 4096) with
          | some k => .trap s (operandFault c.img k)
          | none =>
            let r := f s c.img d.stored
            .done r.1 (r.2.next 8)) s

/-- `sset` into a slot of the context (R358). -/
def execSset (a : Reg) (sa sb : Slot) (s : State) : Out := runSset a sa (fun s m d => (s, m.setSlot sb d)) s

/-- `sset.t`: into the template of the issuing die (R358). -/
def execSsetT (a : Reg) (sa sb : Slot) (s : State) : Out :=
  runSset a sa (fun s m d =>
    let die := coreDie s.here
    (s.setDie die { s.die die with template := (s.die die).template.set sb.toNat d }, m)) s

/-- The operations and formats of R171 and R370. -/
def rangeAllowed (op fmt : Nat) : Bool :=
  match op with
  | 0 => fmt == 11 || fmt == 13
  | 1 => fmt == 1
  | 2 | 3 => fmt == 1 || fmt == 11 || fmt == 13
  | 4 => fmt == 11 || fmt == 13
  | _ => false

/-- Do two ranges overlap? -/
def CRange.meets (r q : CRange) : Bool := decide (r.base < q.base + 2 ^ q.z) && decide (q.base < r.base + 2 ^ r.z)

/-- Recall and combine every update-only line under an entry (R371). -/
def State.recallEntry (s : State) (k : Nat) : State :=
  let held := s.groves.flatMap fun g => (g.2.l1.filter fun l => l.upd == some k).map fun l => (g.1, l.line)
  held.foldl (fun (t : State) p => t.pushLine p.1 p.2) s

/-- `crange` (R371). -/
def execCrange (clr : Bool) (a b : Reg) (k : BitVec 6) (s : State) : Out :=
  runMem false [a, b]
    (fun s _ c =>
      if clr then
        let s1 := s.recallEntry k.toNat
        .done { s1 with ranges := s1.ranges.erase k.toNat } (c.img.next 8)
      else
        let w := c.img.getX b
        let r : CRange :=
          { base := (c.img.getX a).toNat, z := w.toNat % 64, op := w.toNat / 256 % 8, fmt := w.toNat / 4096 % 16 }
        let reserved := w.extractLsb' 6 2 != 0#2 || w.getLsbD 11 || w.extractLsb' 16 48 != 0#48
        if reserved || decide (r.z < 7) || decide (40 < r.z) || r.base % 2 ^ r.z != 0 || !rangeAllowed r.op r.fmt ||
            decide (2 ^ 56 < r.base + 2 ^ r.z) then .trap s (operandFault c.img 90)
        else if s.ranges.any fun p => p.1 != k.toNat && r.meets p.2 then .trap s (operandFault c.img 91)
        else
          let s1 := s.recallEntry k.toNat
          .done { s1 with ranges := s1.ranges.set k.toNat r } (c.img.next 8)) s

end Sys2Proof.Machine
end

