-- ==== Sys2Proof/Machine/Host.lean ====
section
/-! DEFINITION. Writes to the management space (R3, R4, R410, R411), the log and machine-check registers, service traps (R408, R409),
attestation (R420), and the host over CXL (R18, R412). -/

namespace Sys2Proof.Machine

open Sys2Proof

/-- Count a write that sets reserved bits or a field out of range (R4, R411 SRC 1). -/
def State.countBad (s : State) (d off : Nat) (bad : Bool) : State := if bad then s.logHost d 1 off else s

/-- The state of a load in `ldsts` (R416). -/
def State.loadState (s : State) : Nat := s.ldsts.toNat % 16

/-- Is a resident program there (R416)? A load that is refused leaves the one that runs as it is. -/
def State.running (s : State) : Bool := s.loadState == 3 || (s.die 0).mbArea.isSome

/-- Is firmware running (R419): has every die accepted the same image? -/
def State.booted (s : State) : Bool :=
  (s.die 0).boot.isSome && (List.range Config.dies).all fun d => (s.die d).boot == (s.die 0).boot

/-- A write of `mbver` (R413): SEL once after each compute-die reset, and only a version that is offered. -/
def State.writeMbver (s : State) (w : Word) : State :=
  let s0 := s.countBad 0 0x20 (w.extractLsb' 16 48 != 0#48)
  let sel := w.extractLsb' 8 8
  if s.mbsel != 0 || sel != 1 then s0.logHost 0 2 0x20 else { s0 with mbsel := sel }

/-- `MBVER_SELECT` (R413). -/
def execMbverSelect (value : Word) (s : State) : Out := .next (s.writeMbver value)

/-- The fields of `ldcmd` that a write sets (R416): RES, HEAP, RGA and OFF; a HEAP above 700 leaves the field. -/
def State.writeLdcmd (s : State) (w : Word) : State :=
  let big := decide (700 < w.toNat / 2 ^ 40 % 2 ^ 16)
  let s0 := s.countBad 0 0 (w.extractLsb' 56 6 != 0#6 || big)
  let keep : Word := if big then 0x00FFFF0000000000#64 else 0#64
  let field : Word := 0x40FFFFFFFFFFFFFF#64 &&& ~~~keep
  { s0 with ldcmd := (w &&& field) ||| (s.ldcmd &&& keep) }

/-- A write of `ldcmd` while a load runs is ignored and counted (R416). -/
def State.loadBusy (s : State) : Bool := s.loadState == 1 || s.loadState == 2

/-- The step counter of a group (R380), 0 for a group that is not valid. -/
def State.groupStep (s : State) (g : Nat) : Word := match s.groups.get? g with | some v => v.step | none => 0

/-- Bytes of a checkpoint region (R421): 772 GiB. -/
def ckBytes : Nat := 772 * 2 ^ 30

/-- A write of `ckcmd` (R3, R421): GROUP and OFF are set; with GO it requests a checkpoint, or fails when the region leaves the tier. A GO
while a checkpoint is under way requests nothing (log 17). -/
def State.writeCkcmd (s : State) (w : Word) : State :=
  let s0 := s.countBad 0 0x10 (w.extractLsb' 34 29 != 0#29)
  let fields : Word := (w.extractLsb' 0 34).setWidth 64
  let s1 : State := { s0 with ckcmd := fields }
  if !w.getLsbD 63 || s.cksts == 1 || s.ckPhase != 0 then s1
  else if Config.tierBytes < (w.toNat % 2 ^ 26) * 65536 + ckBytes then { s1 with cksts := 4 }
  else { s1 with cksts := 1, ckReq := fields, ckHit := false }

/-- `CKCMD_CHECKPOINT` (R421). -/
def execCkcmdCheckpoint (value : Word) (s : State) : Out := .next (s.writeCkcmd value)

/-- A write of `pwrcap` (R426): WATTS from 1,000 to 3,200. -/
def State.writePwrcap (s : State) (w : Word) : State :=
  let n := w.toNat % 4096
  let out := decide (n < 1000) || decide (3200 < n)
  let s0 := s.countBad 0 0x28 (w.extractLsb' 33 31 != 0#31 || w.extractLsb' 12 4 != 0#4 || out)
  if out then s0 else { s0 with watts := w.extractLsb' 0 12 }

/-- A write of `rasid` (R355): ignored while the program runs; 0 leaves the field. -/
def State.writeRasid (s : State) (w : Word) : State :=
  if s.running then s.logHost 0 2 0x38
  else
    let s0 := s.countBad 0 0x38 (w.extractLsb' 12 52 != 0#52 || w.extractLsb' 0 12 == 0#12)
    if w.extractLsb' 0 12 == 0#12 then s0 else { s0 with rasid := (w.extractLsb' 0 12).setWidth 64 }

/-- The report version, serial number, nonce, digests and versions of R420, before its signature. -/
def State.reportBytes (s : State) : List Byte :=
  leBytes 4 1 ++ leBytes 8 Config.serial.toNat ++ s.staging.reads 0 32 ++ leBytes 32 Config.bootRomDigest.toNat ++
    leBytes 32 ((s.die 0).boot.getD 0).toNat ++ leBytes 32 s.digest.toNat ++
    leBytes 2 s.rasid.toNat ++ leBytes 2 s.mbver.toNat ++
    leBytes 2 ((s.ports.map fun p => if p.2.up then p.2.version else 0).foldl max 0) ++ leBytes 2 1 ++ List.replicate 44 0

/-- The signature's 64 bytes. -/
def signature (bs : List Byte) : List Byte := (Config.sm2Sign bs ++ List.replicate 64 0).take 64

/-- `attcmd` bit 0 is set (R420): firmware, when it runs, writes the report into the staging area and clears the bit. -/
def State.attest (s : State) (value : Word) : State :=
  if !(value.getLsbD 0 || s.attcmd) then s
  else if s.booted then
    let bs := s.reportBytes
    { s with staging := s.staging.writes 0 (bs ++ signature bs), attcmd := false }
  else { s with attcmd := true }

/-- `ATTESTATION` (R420). -/
def execAttestation (value : Word) (s : State) : Out := .next (s.attest value)

/-- A write of `ldcmd` (R3, R416): the fields, and with GO the start of a load or a restore, which firmware then carries out: STATE is 1 until it has
checked the image. DESIGN CHOICE (log 92): while no firmware runs the GO is lost, and no load starts later. -/
def State.commandLoad (s : State) (w : Word) : State :=
  if s.loadBusy then s.logHost 0 2 0
  else if w.getLsbD 63 && s.booted then { s.writeLdcmd w with ldsts := 1 }
  else s.writeLdcmd w

/-- A write of `attcmd` (R3, R420): the reserved bits are counted, and bit 0 asks for a report. -/
def State.writeAttcmd (s : State) (w : Word) : State := (s.countBad 0 0x48 (w.extractLsb' 1 63 != 0#63)).attest w

/-- A write of a word of the module block (R410). -/
def State.writeModule (s : State) (i : Nat) (w : Word) : State :=
  match i with
  | 0 => s.commandLoad w
  | 1 => s.countBad 0 8 (w.extractLsb' 8 56 != 0#56)
  | 2 => s.writeCkcmd w
  | 3 => s.countBad 0 0x18 (w.extractLsb' 3 61 != 0#61)
  | 4 => s.writeMbver w
  | 5 => s.writePwrcap w
  | 6 => s.writeFabwin w
  | 7 => s.writeRasid w
  | 9 => s.writeAttcmd w
  | _ =>
    if 10 ≤ i ∧ i < 18 then s.writeIncctl (BitVec.ofNat 3 (i - 10)) w
    else if 18 ≤ i ∧ i < 26 then
      let k := BitVec.ofNat 3 (i - 18)
      s.setIncumbent k { s.incumbent k with init := w }
    else s

/-- `poolcfg` (R313): AGE runs from 10 to 40. -/
def State.writePoolcfg (s : State) (d : Nat) (w : Word) : State :=
  let age := w.toNat % 64
  let out := decide (age < 10) || decide (40 < age)
  let s0 := s.countBad d 0x100000 (w.extractLsb' 10 54 != 0#54 || w.extractLsb' 6 2 != 0#2 || out)
  let old := (s0.die d).poolcfg
  let new := (w &&& 0x300#64) ||| (if out then old &&& 0x3F#64 else w &&& 0x3F#64)
  s0.setDie d { s0.die d with poolcfg := new }

/-- `KILLCNT_CLEAR` (R393). -/
def State.clearKills (s : State) (d : Nat) : State := s.setDie d { s.die d with killcnt := 0 }

/-- `KILLCNT_CLEAR` (R393). -/
def execKillcntClear (die : Nat) (s : State) : Out := .next (s.clearKills die)

/-- The oldest machine-check record leaves the queue (R409); where records have been dropped, one of source 6 takes the room (R408; DESIGN
CHOICE, log 66: the spec does not say when the overflow's own record is appended). -/
def State.popRecord (s : State) (d : Nat) : State :=
  match (s.die d).mcq with
  | [] => s
  | _ :: rest =>
    let k := Config.allCores + 4 * d
    let s1 := s.setDie d { s.die d with mcq := rest }
    let s2 := if (s.die d).mcLost then (s1.setDie d { s1.die d with mcLost := false }).machineCheck d 6 0 0 0 0 0 else s1
    s2.setCore k { s2.core k with mcPopped := true }

/-- `MCPOP` (R409). -/
def execMcpop (die : Nat) (s : State) : Out := .next (s.popRecord die)

/-- `rgarea` (R355): ignored while the program runs. -/
def State.writeRgarea (s : State) (d : Nat) (w : Word) : State :=
  if s.running then s.logHost d 2 0x100058
  else
    let s0 := s.countBad d 0x100058 (w.extractLsb' 52 12 != 0#12)
    s0.setDie d { s0.die d with rgarea := (w.extractLsb' 0 52).setWidth 64 }

/-- A write of a die register (R313, R340, R355, R393, R409). -/
def State.writeDie (s : State) (d i : Nat) (w : Word) : State :=
  let off := 0x100000 + 8 * i
  match i with
  | 0 => s.writePoolcfg d w
  | 1 => s.countBad d off (w.extractLsb' 49 15 != 0#15 || w.extractLsb' 17 15 != 0#15)
  | 2 => s.clearKills d
  | 3 => s.setDie d { s.die d with fabcnt := (s.die d).fabcnt.set 0 w }
  | 4 => s.setDie d { s.die d with fabcnt := (s.die d).fabcnt.set 1 w }
  | 5 => s.setDie d { s.die d with fabcnt := (s.die d).fabcnt.set 2 w }
  | 6 =>
    let s0 := s.countBad d off (w.extractLsb' 32 32 != 0#32)
    s0.setDie d { s0.die d with fabcnt := (s0.die d).fabcnt.set 3 ((w.extractLsb' 0 32).setWidth 64) }
  | 7 =>
    let s0 := s.countBad d off (w.extractLsb' 9 55 != 0#55 || w.extractLsb' 5 3 != 0#3)
    if w.getLsbD 8 then s0.setDie d { s0.die d with mcOvf := false } else s0
  | 8 => s.countBad d off (w.extractLsb' 14 2 != 0#2)
  | 9 => s.countBad d off (w.extractLsb' 52 12 != 0#12)
  | 10 => s.popRecord d
  | _ => s.writeRgarea d w

/-- Replace a word of a descriptor. -/
def Desc.setWord (g : Desc) (i : Nat) (w : Word) : Desc :=
  match i with
  | 0 => { g with w0 := w }
  | 1 => { g with w1 := w }
  | 2 => { g with w2 := w }
  | _ => { g with w3 := w }

/-- The bits of a descriptor's word that are not zero by R356. -/
def descMask (i : Nat) : Word :=
  match i with
  | 0 => 0x00FFFFFFFFFFFFFF#64
  | 1 => BitVec.allOnes 64
  | 2 => 0xFFFFF#64
  | _ => 0#64

/-- A write of a word of a template slot (R354): bits that R356 marks zero are ignored and counted, and so is a KIND or POL that is not
defined, which leaves the word. What R356 ignores is stored as zero, so firmware writes KIND before the other words (log 81). -/
def State.writeTemplate (s : State) (d off n i : Nat) (w : Word) : State :=
  let out := i == 2 && (decide (4 < w.toNat % 16) || decide (w.toNat / 16 % 4 = 3))
  let s0 := s.countBad d off (w &&& ~~~(descMask i) != 0 || out)
  if out then s0
  else
    let t := (s0.die d).template
    let t' := Vector.ofFn fun j : Fin 64 => if j.val = n then (t[j].setWord i (w &&& descMask i)).stored else t[j]
    s0.setDie d { s0.die d with template := t' }

/-- A write of COUNT clears it (R411); the records stay in the ring until they are overwritten. -/
def State.clearLog (s : State) (d which : Nat) : State :=
  let die := s.die d
  s.setDie d (match which with
    | 0 => { die with hostLog := { die.hostLog with count := 0 } }
    | 1 => { die with dieLog := { die.dieLog with count := 0 } }
    | _ => { die with engLog := { die.engLog with count := 0 } })

/-- `LOG_COUNT_CLEAR` (R411). -/
def execLogCountClear (die : Nat) (log : LogKind) (s : State) : Out :=
  .next (s.clearLog die (match log with | .host => 0 | .die => 1 | .engine => 2))

/-- Replace 8 bytes of a 256-bit register. -/
def setWord256 (v : BitVec 256) (i : Nat) (w : Word) : BitVec 256 :=
  (v &&& ~~~((0xFFFFFFFFFFFFFFFF#256) <<< (64 * i))) ||| (w.setWidth 256 <<< (64 * i))

/-- A write of a host-queue register of a tag (R407): the last 8 bytes of `hqdata` post. -/
def State.writeQueue (s : State) (d c i : Nat) (w : Word) : State :=
  let off := hqOff c + 8 * i
  let cid := 65536 * d + c
  if i < 4 then
    let s1 := s.updCtx cid fun x => { x with hqBuf := setWord256 x.hqBuf i w }
    if i = 3 then s1.hqPost d c else s1
  else if i = 6 then
    let s0 := s.countBad d off (w.extractLsb' 2 62 != 0#62)
    if w.getLsbD 0 then s0.updCtx cid fun x => { x with hqFull := false } else s0
  else s.countBad d off (w.extractLsb' 32 32 != 0#32)

/-- A write of a mailbox register (R413, R414): the last 8 bytes of `mbpost` post. -/
def State.writeMailbox (s : State) (d m i : Nat) (w : Word) : State :=
  let k := 4096 * d + m
  if i < 4 then
    let s1 := s.setMbox k { s.mbox k with post := setWord256 (s.mbox k).post i w }
    if i = 3 then s1.post k else s1
  else
    let s0 := s.countBad d (0x8000000 + 64 * m + 32) (w.extractLsb' 39 25 != 0#25 || w.extractLsb' 2 30 != 0#30)
    if w.getLsbD 0 then s0.setMbox k { s0.mbox k with full := false } else s0

/-- A write of 8 bytes to a die's management window (R3, R4, R410). The module block is on die 0; an offset with no register, a log
record, a core counter and a rate entry ignore the write and count it. -/
def State.writeReg (s : State) (d off : Nat) (w : Word) : State :=
  match regAt off with
  | .module_ i => if d = 0 then s.writeModule i w else s
  | .ptroot i =>
    if d = 0 then
      let s0 := s.countBad 0 off (w.extractLsb' 52 12 != 0#12 || w.extractLsb' 1 10 != 0#10)
      { s0 with ptroot := s0.ptroot.set i (w &&& 0x000FFFFFFFFFF801#64) }
    else s
  | .die i => s.writeDie d i w
  | .template n i => s.writeTemplate d off n i w
  | .log k 0 => s.clearLog d k
  | .log _ _ => s.logHost d 2 off
  | .counter _ _ => s.logHost d 2 off
  | .rate _ _ => s.logHost d 2 off
  | .queue c i => s.writeQueue d c i w
  | .mailbox m i => s.writeMailbox d m i w
  | .unassigned => s.logHost d 2 off

/-- `REGISTER_WRITE` (R3). -/
def execRegisterWrite (die off : Nat) (value : Word) (s : State) : Out :=
  .next (if die < Config.dies ∧ off < mgmtBytes then s.writeReg die (off / 8 * 8) value else s)

/-- Firmware appends a record of its own to a die's error log (R411): SRC 128 to 255, with the grove and the core that it concerns. -/
def State.appendRecord (s : State) (d grove core src code info : Nat) : State :=
  if 128 ≤ src ∧ src ≤ 255 then s.logDie d grove core src (code % 256) info else s

/-- Take a service trap on a service core with an active context (R408, R409); `epc` is its next instruction. -/
def State.serviceTrap (s : State) (k code data : Nat) : Option State :=
  match s.activeCid k with
  | none => none
  | some cid =>
    match s.ctx? cid with
    | none => none
    | some c => if c.ready then some (s.takeTrap cid k (FaultRec.mk0 code data 0) c.img.pc) else none

/-- Service core 0 of a die takes code 32 at an instruction boundary while the queue holds a record, unless it holds it already (R408). -/
def State.serviceMc (s : State) (d : Nat) : State :=
  let k := Config.allCores + 4 * d
  let n := (s.die d).mcq.length
  if n = 0 || (s.core k).mcHeld || s.busyCore k then s
  else
    match s.serviceTrap k 32 n with
    | some t => t.setCore k { t.core k with mcHeld := true, mcPopped := false }
    | none => s

/-- `SERVICE_MACHINE_CHECK` (R408). -/
def execServiceMachineCheck (die : Nat) (s : State) : Out := .next (s.serviceMc die)

/-- Service core 1 of a die takes code 33 at an instruction boundary, with the causes that wait, unless it holds it already (R409). -/
def State.serviceInt (s : State) (d : Nat) : State :=
  let k := Config.allCores + 4 * d + 1
  let data := (s.die d).causes.foldl (fun a b => a ||| b) 0
  if data = 0 || (s.core k).svHeld || s.busyCore k then s
  else
    match s.serviceTrap k 33 data with
    | some t =>
      let u := t.setDie d { t.die d with causes := [] }
      u.setCore k { u.core k with svHeld := true }
    | none => s

/-- `SERVICE_INTERRUPT` (R409). -/
def execServiceInterrupt (die : Nat) (s : State) : Out := .next (s.serviceInt die)

/-- Write back what the home slices hold dirty of a range (R412). -/
def State.spillRange (s : State) (pa n : Nat) : State :=
  (lineParts pa n).foldl (fun (t : State) p => if (t.comb? (lineOf p.1)).isSome then t else t.spill (lineOf p.1)) s

/-- The host accesses a range at its homes (R412): a read first writes back what a slice holds dirty, a write is performed there. -/
def State.hostAccess (s : State) (base bytes : Nat) (a : HostAccess) : State :=
  match a with
  | .read addr n => if addr + n ≤ bytes then (s.settleRange (base + addr) n).spillRange (base + addr) n else s
  | .write addr bs => if addr + bs.length ≤ bytes then s.writeHome (base + addr) bs else s

/-- First byte and length of a host access. -/
def hostRange (a : HostAccess) : Nat × Nat :=
  match a with
  | .read addr n => (addr, n)
  | .write addr bs => (addr, bs.length)

/-- Are the tier islands that a range of the tier lies on all powered (R18)? -/
def State.islandsOn (s : State) (a : HostAccess) : Bool :=
  (List.range Config.dies).all fun d =>
    let r := hostRange a
    !(decide (r.1 < (d + 1) * Config.tierPerDie) && decide (d * Config.tierPerDie < r.1 + r.2)) || s.tierPower.getLsbD d

/-- The islands serve an access from the tier itself (R18): a channel leaves self-refresh for it and returns. An island without power
serves none. -/
def State.islandServe (s : State) (a : HostAccess) : State :=
  match a with
  | .read _ _ => s
  | .write addr bs =>
    let pa := Config.tierBase + addr
    if !s.islandsOn a || Config.tierBytes < addr + bs.length then s
    else { s with dram := s.dram.writes pa bs, bad := clearBad s.bad pa bs.length }

/-- Does a slice hold bytes of the range? -/
def State.slicesHold (s : State) (a : HostAccess) : Bool :=
  let pa := Config.tierBase + (hostRange a).1
  s.slice.any fun p => decide (pa ≤ p.1) && decide (p.1 < pa + (hostRange a).2)

/-- A CXL.mem access (R18, R412): at the home slices; by the islands until firmware has reopened the tier after a reset. -/
def State.memAccess (s : State) (a : HostAccess) : State :=
  if s.tierSelf != 0 && !s.slicesHold a then s.islandServe a
  else if s.islandsOn a then s.hostAccess Config.tierBase Config.tierBytes a else s

/-- `CXL_MEM_ACCESS` (R412). -/
def execCxlMemAccess (a : HostAccess) (s : State) : Out := .next (s.memAccess a)

/-- `CXL_CACHE_ACCESS` (R412): host address = physical address less the base of host memory (R162). -/
def execCxlCacheAccess (a : HostAccess) (s : State) : Out :=
  .next (s.hostAccess Config.hostBase (Config.hostEnd - Config.hostBase) a)

/-- A CXL.mem access while the compute dies are in reset (R18). The dies are in reset before the first cycle that follows it, with nothing
in their slices (log 18). -/
def State.islandAccess (s : State) (a : HostAccess) : State :=
  if s.now ≠ 0 || s.slicesHold a then s else s.islandServe a

/-- `CXL_MEM_DURING_RESET` (R18). -/
def execCxlMemDuringReset (a : HostAccess) (s : State) : Out := .next (s.islandAccess a)

/-- Firmware reopens the tier after a reset (R18): its channels leave self-refresh. -/
def State.reopenTier (s : State) : State := if s.booted then { s with tierSelf := 0 } else s

/-- The host writes bytes of BAR 2, the staging area of 64 KiB (R412, R419, R420). -/
def State.stage (s : State) (off : Nat) (bs : List Byte) : State :=
  if off + bs.length ≤ 65536 then { s with staging := s.staging.writes off bs } else s

end Sys2Proof.Machine
end

