-- ==== Sys2Proof/Machine/Sm3.lean ====
section
/-! DEFINITION. The SM3 digest that R67, R419, R420 and R423 name by its standard, GB/T 32905: the spec gives the name, and the
algorithm is taken from the standard (PRESUMED, log 63). -/

namespace Sys2Proof.Machine

open Sys2Proof

/-- The round constant of round j. -/
def sm3T (j : Nat) : BitVec 32 := (if j < 16 then 0x79CC4519#32 else 0x7A879D8A#32).rotateLeft (j % 32)

/-- The Boolean function FF of round j. -/
def sm3Ff (j : Nat) (x y z : BitVec 32) : BitVec 32 :=
  if j < 16 then x ^^^ y ^^^ z else (x &&& y) ||| (x &&& z) ||| (y &&& z)

/-- The Boolean function GG of round j. -/
def sm3Gg (j : Nat) (x y z : BitVec 32) : BitVec 32 :=
  if j < 16 then x ^^^ y ^^^ z else (x &&& y) ||| (~~~x &&& z)

/-- The permutation P0. -/
def sm3P0 (x : BitVec 32) : BitVec 32 := x ^^^ x.rotateLeft 9 ^^^ x.rotateLeft 17
/-- The permutation P1. -/
def sm3P1 (x : BitVec 32) : BitVec 32 := x ^^^ x.rotateLeft 15 ^^^ x.rotateLeft 23

/-- The sixteen big-endian words of a 64-byte block. -/
def sm3Words (block : List Byte) : List (BitVec 32) :=
  (List.range 16).map fun i =>
    ((block.drop (4 * i)).take 4).foldl (fun (w : BitVec 32) b => (w <<< 8) ||| b.setWidth 32) 0

/-- Message expansion: k more words after those of `w`, which stand newest first. -/
def sm3Expand (k : Nat) (w : List (BitVec 32)) : List (BitVec 32) :=
  match k with
  | 0 => w
  | k + 1 =>
    let back := fun n : Nat => w.getD (n - 1) 0
    sm3Expand k ((sm3P1 (back 16 ^^^ back 9 ^^^ (back 3).rotateLeft 15) ^^^ (back 13).rotateLeft 7 ^^^ back 6) :: w)

/-- The eight working registers. -/
structure Sm3Regs where
  a : BitVec 32
  b : BitVec 32
  c : BitVec 32
  d : BitVec 32
  e : BitVec 32
  f : BitVec 32
  g : BitVec 32
  h : BitVec 32
  deriving DecidableEq, Repr

/-- The initial value. -/
def sm3Init : Sm3Regs :=
  ⟨0x7380166F, 0x4914B2B9, 0x172442D7, 0xDA8A0600, 0xA96F30BC, 0x163138AA, 0xE38DEE4D, 0xB0FB0E4E⟩

/-- Round j on the words W_j and W_{j+4}. -/
def Sm3Regs.round (r : Sm3Regs) (j : Nat) (w w4 : BitVec 32) : Sm3Regs :=
  let ss1 := (r.a.rotateLeft 12 + r.e + sm3T j).rotateLeft 7
  let ss2 := ss1 ^^^ r.a.rotateLeft 12
  let tt1 := sm3Ff j r.a r.b r.c + r.d + ss2 + (w ^^^ w4)
  let tt2 := sm3Gg j r.e r.f r.g + r.h + ss1 + w
  ⟨tt1, r.a, r.b.rotateLeft 9, r.c, sm3P0 tt2, r.e, r.f.rotateLeft 19, r.g⟩

/-- The compression of one block. -/
def Sm3Regs.block (r : Sm3Regs) (bs : List Byte) : Sm3Regs :=
  let w := (sm3Expand 52 (sm3Words bs).reverse).reverse
  let t := (List.range 64).foldl (fun (t : Sm3Regs) j => t.round j (w.getD j 0) (w.getD (j + 4) 0)) r
  ⟨t.a ^^^ r.a, t.b ^^^ r.b, t.c ^^^ r.c, t.d ^^^ r.d, t.e ^^^ r.e, t.f ^^^ r.f, t.g ^^^ r.g, t.h ^^^ r.h⟩

/-- The message with its padding: a 1 bit, zeros to 56 bytes of the last block, and its length in bits, big-endian. -/
def sm3Pad (bs : List Byte) : List Byte :=
  let n := bs.length
  bs ++ 0x80#8 :: List.replicate ((119 - n % 64) % 64) 0 ++
    (List.range 8).map fun i => BitVec.ofNat 8 (8 * n / 2 ^ (8 * (7 - i)))

/-- The blocks of a padded message in order. -/
def sm3Run (k : Nat) (r : Sm3Regs) (bs : List Byte) : Sm3Regs :=
  match k with
  | 0 => r
  | k + 1 => sm3Run k (r.block (bs.take 64)) (bs.drop 64)

/-- The 32 bytes of the SM3 digest, in the order of the standard. -/
def sm3 (bs : List Byte) : List Byte :=
  let p := sm3Pad bs
  let r := sm3Run (p.length / 64) sm3Init p
  [r.a, r.b, r.c, r.d, r.e, r.f, r.g, r.h].flatMap fun (w : BitVec 32) =>
    [w.extractLsb' 24 8, w.extractLsb' 16 8, w.extractLsb' 8 8, w.extractLsb' 0 8]

end Sys2Proof.Machine
end

