-- ==== Sys2Proof/Machine/Load.lean ====
section
/-! DEFINITION. Resets (R18, R425), power and clocks (R426), boot (R419), loading and starting a program (R67, R68, R70, R416, R417),
checkpoint and restore (R421 to R424). -/

namespace Sys2Proof.Machine

open Sys2Proof

/-- Is an address in HBM? -/
def inHbm (pa : Nat) : Bool := decide (pa < Config.hbmBytes)

/-- A die after a compute-die reset (R425): its logs, the machine-check queue, the causes that its service complex holds and the boot
result are kept. -/
def Die.reset (d : Die) : Die :=
  { Die.fresh with
    mcq := d.mcq, mcOvf := d.mcOvf, mcLost := d.mcLost, hostLog := d.hostLog, dieLog := d.dieLog, engLog := d.engLog, causes := d.causes, boot := d.boot }

/-- A compute-die reset (R18, R425): what the table keeps, and nothing else. Host memory and what the agenda holds lie outside the
compute dies. -/
def State.dieReset (s : State) : State :=
  { State.reset with
    agenda := s.agenda
    here := s.here
    ctxs := s.ctxs.filter fun p => decide (524288 ≤ p.1)
    cores := s.cores.filter fun p => isService p.1
    dies := s.dies.map fun p => (p.1, p.2.reset)
    dram := s.dram.filter fun c => !inHbm c.1
    bad := s.bad.filter fun q => !inHbm (32 * q)
    serial := s.serial
    sync := s.sync
    incarnation := s.incarnation
    ldcmd := s.ldcmd
    ldsts := s.ldsts
    ckcmd := s.ckcmd
    cksts := s.cksts
    attcmd := s.attcmd
    watts := s.watts
    clk := s.clk
    hot := s.hot
    staging := s.staging
    saves := s.saves
    samples := s.samples
    clkAt := s.clkAt
    ckReq := s.ckReq
    tierPower := s.tierPower }

/-- `COMPUTE_DIE_RESET` (R425). -/
def execComputeDieReset (s : State) : Out := .next s.dieReset

/-- `THERMAL_TRIP` (R426): at 115 °C, a compute-die reset. -/
def execThermalTrip (s : State) : Out := .next s.dieReset

/-- `POWER_ON_RESET` (R425): everything; the tier is lost only when its own power fails (R18), host memory is the host's. -/
def execPowerOnReset (s : State) : Out :=
  .next { State.reset with
    agenda := s.agenda
    here := s.here
    dram := s.dram.filter fun c => !inHbm c.1
    bad := s.bad.filter fun q => !inHbm (32 * q)
    saves := s.saves
    sync := s.sync }

/-- The tier bytes homed on a die (R162). -/
def tierOfDie (d pa : Nat) : Bool :=
  decide (Config.tierBase + d * Config.tierPerDie ≤ pa) && decide (pa < Config.tierBase + (d + 1) * Config.tierPerDie)

/-- Does a checkpoint region lie in part in the tier of a die? -/
def regionOnDie (off d : Nat) : Bool :=
  decide (off * 65536 < (d + 1) * Config.tierPerDie) && decide (d * Config.tierPerDie < off * 65536 + ckBytes)

/-- `TIER_ISLAND_POWER_LOSS` (R18): the tier contents of a die are lost, a checkpoint among them, and the island serves no access until module power returns
(log 18). -/
def execTierIslandPowerLoss (die : Nat) (s : State) : Out :=
  .next { s with
    dram := s.dram.filter fun c => !tierOfDie die c.1
    bad := s.bad.filter fun q => !tierOfDie die (32 * q)
    tierPower := s.tierPower &&& ~~~(1#8 <<< die) }

/-- `POWER_SAMPLE` (R426): the samples of the last 1 ms. -/
def execPowerSample (watts : Nat) (s : State) : Out := .next { s with samples := (watts :: s.samples).take 100 }

/-- `CLOCK_STEP` (R426): every 100 µs, down while the mean is above the limit, up while it is 5% below; at 105 °C it is held. -/
def State.clockStep (s : State) : State :=
  let n := s.samples.length
  let sum := s.samples.sum
  if n = 0 || s.sync < s.clkAt + 100 * micro then s
  else
    let t : State := { s with clkAt := s.sync }
    if s.hot then t
    else if s.watts.toNat * n < sum then { t with clk := if 450 ≤ s.clk then s.clk - 50 else 400 }
    else if 100 * sum ≤ 95 * s.watts.toNat * n then { t with clk := if s.clk + 50 ≤ 800 then s.clk + 50 else 800 }
    else t

/-- `CLOCK_STEP` (R426). -/
def execClockStep (s : State) : Out := .next s.clockStep

/-- `THERMAL_HOLD` (R426). -/
def execThermalHold (s : State) : Out := .next { s with hot := true, clk := 400 }

/-- `THERMAL_HOLD_RELEASE` (R426): the hold ends; the clock rises in its steps. -/
def execThermalHoldRelease (s : State) : Out := .next { s with hot := false }

/-- The firmware context of service core n of a die (R12, R23, R395). -/
def firmwareCtx (d n : Nat) : Ctx :=
  let img := { Image.zero with pc := Config.firmwareEntry (4 * d + n), status := setBit 0 4 true, dep := 1#64 <<< 63 }
  let task : TaskInfo := { cls := 0, place := 0, placeArg := 0, srch := false, inc := 0, signal := none, elig := 0, promo := 0 }
  { Ctx.start img (4 * d + n) task with where_ := .slot (Config.allCores + 4 * d + n) 0 }

/-- Start the firmware context of a service core. -/
def State.startFirmware (s : State) (d n : Nat) : State :=
  let k := Config.allCores + 4 * d + n
  let cid := 524288 + 4 * d + n
  let c := s.core k
  (s.setCtx cid (firmwareCtx d n)).setCore k { c with slots := c.slots.set 0 (some cid), active := some 0, last := 0 }

/-- The digest of R419 as a number, the first byte in bits 7:0 (R1). -/
def sm3Value (bs : List Byte) : BitVec 256 := BitVec.ofNat 256 (leNat (sm3 bs))

/-- A die accepts an image (R419). The module runs firmware when every die has accepted the same. -/
def State.accept (s : State) (d : Nat) (image : List Byte) : State :=
  if (s.die d).boot.isSome || Config.dies ≤ d || !Config.imageVerifies d image then s
  else
    let s1 := s.setDie d { s.die d with boot := some (sm3Value image) }
    if s1.booted then
      ((List.range Config.dies).foldl (fun (t : State) d =>
        (List.range Config.serviceCores).foldl (fun (t : State) n => t.startFirmware d n) t) s1).reopenTier
    else s1

/-- `BOOT_IMAGE_CHECK` (R419). -/
def execBootImageCheck (die : Nat) (image : List Byte) (s : State) : Out := .next (s.accept die image)

/-- `STAGED_IMAGE_CHECK` (R419): the image in the staging area of BAR 2, of 64 KiB. -/
def execStagedImageCheck (die len : Nat) (s : State) : Out :=
  .next (if len ≤ 65536 then s.accept die (s.staging.reads 0 len) else s)

/-- A section of an image (R68). -/
structure Section_ where
  kind : Nat
  spare : Nat
  base : Nat
  fileOff : Nat
  fileLen : Nat
  memLen : Nat
  deriving DecidableEq, Repr

/-- Bytes of the image that `ldcmd.OFF` names (R416), from its offset `o`. -/
def State.imageBytes (s : State) (o n : Nat) : List Byte :=
  s.homeBytes (Config.tierBase + s.ldcmd.toNat % 2 ^ 26 * 65536 + o) n

/-- The section table of an image with header `h` (R67, R68). DESIGN CHOICE (log 64): of a count above 4, which R67 does not allow and no
rule refuses, the first four entries count; a count of 0 gives none. -/
def State.imageSections (s : State) (h : List Byte) : List Section_ :=
  (List.range (min 4 (halfAt h 24))).map fun i =>
    let e := s.imageBytes (halfAt h 28 + 40 * i) 40
    { kind := (e.getD 4 0).toNat, spare := (e.getD 5 0).toNat, base := (wordAt e 8).toNat, fileOff := (wordAt e 16).toNat
      fileLen := (wordAt e 24).toNat, memLen := (wordAt e 32).toNat }

/-- The length of an image's file, over which the digest runs (R67). DESIGN CHOICE (log 64): the header does not give it; the model takes
the end of the part that ends last. -/
def imageEnd (h : List Byte) (ss : List Section_) : Nat :=
  ([128, halfAt h 28 + 40 * halfAt h 24, halfAt h 36 + 16 * halfAt h 32, halfAt h 40 + halfAt h 44] ++
    ss.map fun x => if x.fileLen = 0 then 0 else x.fileOff + x.fileLen).foldl max 0

/-- 64 KiB pages of a section. -/
def Section_.pages (x : Section_) : Nat := (x.memLen + 65535) / 65536

/-- HEAP of `ldcmd` in GiB (R416). -/
def State.heapGib (s : State) : Nat := s.ldcmd.toNat / 2 ^ 40 % 2 ^ 16
/-- RGA of `ldcmd` in 2 MiB (R416). -/
def State.rgaUnits (s : State) : Nat := s.ldcmd.toNat / 2 ^ 26 % 2 ^ 14

/-- The parts of HBM that a plan gives out (R323, R348, R355, R416): base, length, alignment, and the die that homes it if one must. -/
def planParts (p : LoadPlan) (rga : Nat) : List (Nat × Nat × Nat × Option Nat) :=
  let byDie := fun (f : Nat → Nat × Nat × Nat) => (List.range Config.dies).map fun d => ((f d).1, (f d).2.1, (f d).2.2, some d)
  p.pages.map (fun a => (a, 65536, 65536, none)) ++ p.heap.map (fun a => (a, 2 ^ 30, 2 ^ 30, none)) ++
    p.tables.map (fun a => (a, 4096, 4096, none)) ++
    byDie (fun d => ((p.images.getD d (0, 0)).1, 8192 * (p.images.getD d (0, 0)).2, 8192)) ++
    byDie (fun d => (p.rgBases.getD d 0, rga * 2 ^ 21, 2 ^ 21)) ++
    byDie (fun d => (p.rings.getD d 0, 2 ^ 23, 65536)) ++ byDie (fun d => (p.indexes.getD d 0, 65536, 65536)) ++
    byDie (fun d => (p.diverts.getD d 0, 4096 * (p.images.getD d (0, 0)).2, 4096))

/-- Is a plan one that firmware can choose (R416): enough pages and heap frames, 8,192 to 65,535 images on each die, every part in HBM,
aligned, homed where it must be, and no two parts overlapping? -/
def planGood (p : LoadPlan) (ss : List Section_) (heap rga : Nat) : Bool :=
  let parts := (planParts p rga).filter fun x => x.2.1 != 0
  let sorted := sortBy (fun a b : Nat × Nat × Nat × Option Nat => decide (a.1 ≤ b.1)) parts
  p.pages.length == (ss.map Section_.pages).sum && p.heap.length == heap &&
    (List.range Config.dies).all (fun d =>
      let n := (p.images.getD d (0, 0)).2
      decide (8192 ≤ n) && decide (n ≤ 65535)) &&
    parts.all (fun x => decide (x.1 + x.2.1 ≤ Config.hbmBytes) && x.1 % x.2.2.1 == 0 &&
      (match x.2.2.2 with
       | some d => decide (d * Config.hbmPerDie ≤ x.1) && decide (x.1 + x.2.1 ≤ (d + 1) * Config.hbmPerDie)
       | none => true)) &&
    (sorted.zip (sorted.drop 1)).all fun q => decide (q.1.1 + q.1.2.1 ≤ q.2.1)

/-- Where a plan of the model's own puts a die's reserved areas (log 65): record-and-grid area, rings, images, diverted-message buffers and
index area, from the die's first byte on. -/
def ownAreas (rga d : Nat) : Nat × Nat × Nat × Nat × Nat :=
  let b := d * Config.hbmPerDie + rga * 2 ^ 21
  (d * Config.hbmPerDie, b, b + 2 ^ 23, b + 2 ^ 23 + 2 ^ 26, b + 2 ^ 23 + 2 ^ 26 + 2 ^ 25)

/-- Bytes of a die's reserved areas at the least number of images, 8,192 (R323, R348, R416). -/
def ownBytes (rga : Nat) : Nat := rga * 2 ^ 21 + 2 ^ 23 + 2 ^ 26 + 2 ^ 25 + 65536

/-- The 1 GiB frames of HBM that no reserved area touches. -/
def freeFrames (rga : Nat) : List Nat :=
  let used := (ownBytes rga + (2 ^ 30 - 1)) / 2 ^ 30
  (List.range Config.dies).flatMap fun d =>
    (List.range (96 - used)).map fun i => d * Config.hbmPerDie + (used + i) * 2 ^ 30

/-- The 64 KiB pages of HBM beside the reserved areas and the heap's frames: `n` of them, from runs of pages. -/
def takePages (runs : List (Nat × Nat)) (n : Nat) : List Nat :=
  match runs with
  | [] => []
  | (a, k) :: rest => (List.range (min k n)).map (fun i => a + 65536 * i) ++ takePages rest (n - min k n)

/-- Runs of free 64 KiB pages: the rest of each die's last reserved frame, then the frames that the heap leaves. -/
def pageRuns (rga heap : Nat) : List (Nat × Nat) :=
  let used := (ownBytes rga + (2 ^ 30 - 1)) / 2 ^ 30
  (List.range Config.dies).map (fun d => (d * Config.hbmPerDie + ownBytes rga, (used * 2 ^ 30 - ownBytes rga) / 65536)) ++
    ((freeFrames rga).drop heap).map fun a => (a, 16384)

/-- The frames that the page tables of mappings need (R359): one for the root and one for each table below it. -/
def tableCount (ms : List (Nat × Nat × Nat × Nat)) : Nat :=
  let below := fun (lo : Nat) =>
    ((ms.filterMap fun m => if m.2.2.1 < lo then some (m.1 / 2 ^ lo) else none).eraseDups).length
  1 + below 48 + below 39 + below 30 + below 21

/-- Can HBM hold the sections, the heap and the reserved areas (R416 step 1)? `tables` is the number of page-table frames. -/
def hbmHolds (ss : List Section_) (tables heap rga : Nat) : Bool :=
  decide (ownBytes rga ≤ Config.hbmPerDie) && decide (heap ≤ (freeFrames rga).length) &&
    decide ((ss.map Section_.pages).sum + (tables + 15) / 16 ≤ ((pageRuns rga heap).map Prod.snd).sum)

/-- The plan of the model's own (R416; DESIGN CHOICE, log 65): the least image areas, then heap frames, pages and tables in rising order. -/
def ownPlan (ss : List Section_) (tables heap rga : Nat) : LoadPlan :=
  let np := (ss.map Section_.pages).sum
  let pages := takePages (pageRuns rga heap) (np + (tables + 15) / 16)
  let area := fun d => ownAreas rga d
  { pages := pages.take np
    heap := (freeFrames rga).take heap
    tables := ((pages.drop np).flatMap fun a => (List.range 16).map fun i => a + 4096 * i).take tables
    images := (List.range Config.dies).map fun d => ((area d).2.2.1, 8192)
    rgBases := (List.range Config.dies).map fun d => (area d).1
    rings := (List.range Config.dies).map fun d => (area d).2.1
    indexes := (List.range Config.dies).map fun d => (area d).2.2.2.2
    diverts := (List.range Config.dies).map fun d => (area d).2.2.2.1 }

/-- Write a word to memory behind the homes, as firmware does before any core runs. -/
def State.pokeWord (s : State) (pa : Nat) (w : Nat) : State := { s with dram := s.dram.writes pa (leBytes 8 w) }

/-- Map a page (R359): walk down from a table, take frames for tables that are missing, and write the leaf. None when no frame is
left. -/
def State.mapLeaf (plan : List (Nat × Nat)) (s : State) (free : List Nat) (table va pa shift flags : Nat) : Option (State × List Nat) :=
  match plan with
  | [] => none
  | (lo, bits) :: rest =>
    let at_ := table + 8 * (va / 2 ^ lo % 2 ^ bits)
    if lo = shift then some (s.pokeWord at_ (pa + flags + 3), free)
    else
      let e := s.homeWord at_
      if e.getLsbD 0 then State.mapLeaf rest s free ((e.extractLsb' 8 44).toNat * 256) va pa shift flags
      else
        match free with
        | [] => none
        | f :: more => State.mapLeaf rest (s.pokeWord at_ (f + 1)) more f va pa shift flags

/-- Map a list of pages (virtual, physical, log2 of the size, permissions) from the root. -/
def State.mapAll (s : State) (free : List Nat) (root : Nat) (ms : List (Nat × Nat × Nat × Nat)) : Option (State × List Nat) :=
  match ms with
  | [] => some (s, free)
  | (va, pa, shift, flags) :: rest =>
    match s.mapLeaf [(48, 8), (39, 9), (30, 9), (21, 9), (16, 5)] free root va pa shift flags with
    | some (t, f) => t.mapAll f root rest
    | none => none

/-- Permissions of a section's pages (R416 step 3): R is 4, W 8, X 16. DESIGN CHOICE (log 64): no rule refuses an entry whose kind is
above 3, whose base is no multiple of 64 KiB or whose pages overlap another's; such a kind is mapped as `.data`, and where pages overlap
the later entry's page stands. -/
def sectionFlags (kind : Nat) : Nat :=
  match kind with
  | 0 => 20
  | 1 => 4
  | _ => 12

/-- The pages of the sections in table order, with the frames of the plan. -/
def sectionPages (ss : List Section_) (frames : List Nat) : List (Section_ × Nat × Nat) :=
  match ss with
  | [] => []
  | x :: rest =>
    (frames.take x.pages).zipIdx.map (fun p => (x, p.2, p.1)) ++ sectionPages rest (frames.drop x.pages)

/-- The virtual address of a die's mailbox rings (R416). -/
def ringVa (d : Nat) : Nat := 0x00F0000000000000 + d * 0x01000000

/-- Where the heap begins (R416): the least multiple of 1 GiB at or above the end of the highest section. -/
def heapVa (ss : List Section_) : Nat :=
  let top := (ss.map fun x => if x.memLen = 0 then 0 else x.base + x.memLen).foldl max 0
  (top + (2 ^ 30 - 1)) / 2 ^ 30 * 2 ^ 30

/-- The mappings of ASID 1 after a load (R416 step 3). -/
def planMaps (p : LoadPlan) (ss : List Section_) : List (Nat × Nat × Nat × Nat) :=
  (sectionPages ss p.pages).map (fun x => (x.1.base + 65536 * x.2.1, x.2.2, 16, sectionFlags x.1.kind)) ++
    p.heap.zipIdx.map (fun x => (heapVa ss + 2 ^ 30 * x.2, x.1, 30, 12)) ++
    (List.range Config.dies).flatMap fun d =>
      (List.range 128).map (fun i => (ringVa d + 65536 * i, p.rings.getD d 0 + 65536 * i, 16, 12)) ++
        [(ringVa d + 2 ^ 23, p.indexes.getD d 0, 16, 12)]

/-- A descriptor of policy 0 under ASID 1 (R356, R417), or kind 0 when it covers nothing. -/
def templateDesc (kind base len : Nat) (w : Bool) : Desc :=
  if len = 0 then Desc.zero
  else
    let asid := if kind = kCluster then 0 else 256
    ⟨BitVec.ofNat 64 base, BitVec.ofNat 64 len, BitVec.ofNat 64 (kind + 64 + (if w then 128 else 0) + asid), 0⟩

/-- The segment-slot template of die d after a load (R417). -/
def loadTemplate (ss : List Section_) (heap d : Nat) : Vector Desc 64 :=
  let sect := fun (kind : Nat) (w : Bool) =>
    match ss.find? fun x => x.kind == kind with
    | some x => templateDesc kGlobal x.base x.memLen w
    | none => Desc.zero
  let slots : List Desc :=
    [sect 1 false, sect 2 true, sect 3 true, templateDesc kGlobal (heapVa ss) (heap * 2 ^ 30) true,
     templateDesc kCluster 0 Config.clusterBytes true, templateDesc kGlobal (ringVa d) (2 ^ 23) true,
     templateDesc kGlobal (ringVa d + 2 ^ 23) 65536 true]
  Vector.ofFn fun i => slots.getD i.val Desc.zero

/-- What a load gives a die (R323, R348, R355, R416, R417). -/
def State.loadDie (s : State) (p : LoadPlan) (ss : List Section_) (heap rga d : Nat) : State :=
  let img := p.images.getD d (0, 0)
  s.setDie d { s.die d with
    imgBase := img.1
    imgCount := img.2
    template := loadTemplate ss heap d
    rgarea := if rga = 0 then 0 else BitVec.ofNat 64 (p.rgBases.getD d 0 / 2 ^ 21 * 2 ^ 21 + rga)
    divBase := p.diverts.getD d 0
    mbArea := some (p.rings.getD d 0, p.indexes.getD d 0) }

/-- The start task (R23, R416 step 5): entry point of the program, arguments of zeros, free on die 0. -/
def startTask (entry : Word) : TaskDesc :=
  { entry := entry, args := 0, count := 1, ctl := 0, die := 0, grove := 0, core := 0, wait := 0, signal := 0, inc := 0, pad := 0
    bound := 0 }

/-- Steps 2 to 5 of R416; none when the plan has too few frames for the page tables. -/
def State.loadProgram (s : State) (plan : LoadPlan) (h : List Byte) (ss : List Section_) : Option State :=
  let heap := s.heapGib
  let rga := s.rgaUnits
  let files := ss.map fun x => (x, s.imageBytes x.fileOff x.fileLen)
  let s1 := ({ s with ldsts := 2 } : State).dieReset
  let put := fun (t : State) (q : Section_ × Nat × Nat) =>
    match files.find? fun f => f.1 == q.1 with
    | some f => ({ t with dram := t.dram.writes q.2.2 ((f.2.drop (65536 * q.2.1)).take 65536) } : State)
    | none => t
  let s2 := (sectionPages ss plan.pages).foldl put s1
  match plan.tables with
  | [] => none
  | root :: free =>
    match s2.mapAll free root (planMaps plan ss) with
    | none => none
    | some (s3, _) =>
      let s4 := (List.range Config.dies).foldl (fun (t : State) d => t.loadDie plan ss heap rga d) s3
      let s5 : State := { s4.reopenTier with
        ptroot := s4.ptroot.set 1 (BitVec.ofNat 64 (root + 1)), rasid := 1, digest := BitVec.ofNat 256 (leNat ((h.drop 64).take 32))
        ldsts := 3 }
      some (s5.poolEnter 0 (startTask (wordAt h 16)) none)

/-- The page-table frames that a load needs; where the frames stand does not matter for it. -/
def tablesNeeded (ss : List Section_) (heap : Nat) : Nat :=
  tableCount (planMaps { pages := List.replicate (ss.map Section_.pages).sum 0, heap := List.replicate heap 0, tables := []
                         images := [], rgBases := [], rings := [], indexes := [], diverts := [] } ss)

/-- Step 1 of R416, and R70: the REASON of a refusal. DESIGN CHOICE (log 93): the spec gives no order among the checks, and of an image that fails
several the model gives the first of form and version, digest, reserved bits, features and HBM. -/
def State.imageRefused (s : State) : Option Nat :=
  let h := s.imageBytes 0 128
  let ss := s.imageSections h
  let zero := fun bs : List Byte => bs.all (· == 0)
  if h.take 4 != [0x56, 0x37, 0x49, 0x4D] || leNat ((h.drop 4).take 2) != 1 || leNat ((h.drop 6).take 2) != 128 then some 1
  else if (h.drop 64).take 32 != sm3 (s.imageBytes 128 (imageEnd h ss - 128)) then some 2
  else if !zero ((h.drop 48).take 16) || !zero (h.drop 96) || ss.any (fun x => x.spare != 0) then some 3
  else if wordAt h 8 &&& ~~~(1#64) != 0 then some 4
  else if !hbmHolds ss (tablesNeeded ss s.heapGib) s.heapGib s.rgaUnits then some 5
  else none

/-- Firmware carries out a load (R416): it refuses the image, or loads it with its plan; one that is no plan it could choose stands for the
model's own (log 65). -/
def State.carryLoad (s : State) (plan : LoadPlan) : State :=
  match s.imageRefused with
  | some r => { s with ldsts := BitVec.ofNat 64 (16 * r + 4) }
  | none =>
    let h := s.imageBytes 0 128
    let ss := s.imageSections h
    let own := ownPlan ss (tablesNeeded ss s.heapGib) s.heapGib s.rgaUnits
    let with_ := if planGood plan ss s.heapGib s.rgaUnits then s.loadProgram plan h ss else none
    match with_ with
    | some t => t
    | none => (s.loadProgram own h ss).getD s

/-- A write of `ldcmd` with GO (R416), and what firmware, when it runs, does about it. -/
def State.load (s : State) (value : Word) (plan : LoadPlan) : State :=
  if s.loadBusy then s.logHost 0 2 0
  else
    let s0 := s.writeLdcmd value
    if !value.getLsbD 63 || value.getLsbD 62 || !s0.booted then s0 else s0.carryLoad plan

/-- `LDCMD_LOAD` (R416). -/
def execLdcmdLoad (value : Word) (plan : LoadPlan) (s : State) : Out := .next (s.load value plan)

/-- Is a checkpoint due to begin (R422): has the group's boundary run, and the step counter gone up, since it was requested? -/
def State.ckDue (s : State) : Bool := s.cksts == 1 && s.ckPhase == 0 && s.ckHit

/-- Stop, or resume, dispatch and issue on every die (R422). -/
def State.pauseAll (s : State) (b : Bool) : State :=
  (List.range Config.dies).foldl (fun (t : State) d => t.setDie d { t.die d with paused := b }) s

/-- `CHECKPOINT_BEGIN` (R422). -/
def State.ckBegin (s : State) : State := if s.ckDue then { s.pauseAll true with cksts := 2, ckPhase := 1 } else s

/-- `CHECKPOINT_BEGIN` (R422). -/
def execCheckpointBegin (s : State) : Out := .next s.ckBegin

/-- Has all that was accepted ended (R422 steps 1 and 2)? -/
def State.quiet (s : State) : Bool :=
  s.ctxs.all (fun p => p.2.ring.isEmpty || decide (524288 ≤ p.1)) && s.xfers.isEmpty && s.gets.isEmpty && s.dfrees.isEmpty &&
    s.invals.isEmpty && s.groves.all (fun p => p.2.eng.isEmpty && p.2.mat.queue.isEmpty) && s.cores.all (fun p => p.2.inj.isEmpty)

/-- Every slice writes back its dirty sectors. -/
def State.spillAll (s : State) : State :=
  ((s.slice.map fun p => lineOf p.1).dedup).foldl (fun (t : State) l => t.spillSectors l 0xF) s

/-- Every grove L1 and every slice writes back its dirty sectors, partials are combined and sums rounded (R173, R422 step 3). -/
def State.writeBackAll (s : State) : State :=
  let s1 := s.groves.keys.foldl (fun (t : State) g =>
    let partials := (t.grove g).l1.filter fun l => l.upd.isSome
    (partials.foldl (fun (u : State) l => (u.writeBackLine g l).dropL1 g l.line) t).drainGrove g) s
  let s2 := (s1.combine.map fun c => c.line).foldl (fun (t : State) l => t.roundSums (128 * l) 128) s1
  s2.spillAll

/-- The state block goes to HBM (R422 step 4): its place and its bytes are firmware's (log 22). -/
def State.putStateBlock (s : State) : State :=
  let n := s.saves.length
  let at_ := Config.stateBlockAt n
  let block := Config.stateBlock n
  if at_ + block.length ≤ Config.hbmBytes then { s with dram := s.dram.writes at_ block, bad := clearBad s.bad at_ block.length } else s

/-- `CHECKPOINT_QUIESCED` (R422 steps 2 to 4). -/
def State.ckQuiesced (s : State) : State :=
  if s.ckPhase = 1 && s.quiet then
    let t := s.writeBackAll.putStateBlock
    { t with ckPhase := 2, cores := t.cores.map fun p => (p.1, if isService p.1 then p.2 else { p.2 with lines := [], evict := [] }) }
  else s

/-- `CHECKPOINT_QUIESCED` (R422). -/
def execCheckpointQuiesced (s : State) : Out := .next s.ckQuiesced

/-- A bank as a checkpoint leaves it (R202, R422, R424): neither its contents nor its record is saved. -/
def Bank.unsaved (_b : Bank) : Bank := Bank.empty

/-- A grove as a checkpoint holds it (R422): no caches, banks without contents. -/
def Grove.saved (g : Grove) : Grove :=
  { g with l1 := [], tlb := [], etlb := [], mtlb := [], gtlb := [], eng := []
           mat := { g.mat with banks := g.mat.banks.map Bank.unsaved, coop := none, guest := none } }

/-- What a checkpoint holds (R422 steps 4 and 5, R423). -/
def State.toCheckpoint (s : State) : Checkpoint :=
  { step := s.ckStep
    digest := s.digest
    devid := s.devid
    incarnation := s.incarnation
    dram := s.dram.filter fun c => inHbm c.1
    ctxs := s.ctxs.filter fun p => decide (p.1 < 524288)
    cores := (s.cores.filter fun p => !isService p.1).map fun p => (p.1, { p.2 with lines := [], utlb := [] })
    groves := s.groves.map fun p => (p.1, p.2.saved)
    dies := s.dies
    groups := s.groups
    dfreeSets := s.dfreeSets
    spaces := s.spaces
    grids := s.grids
    halos := s.halos
    ranges := s.ranges
    incumbents := s.incumbents
    shadows := s.shadows
    mboxes := s.mboxes
    ptroot := s.ptroot
    rasid := s.rasid }

/-- Does an address lie in the checkpoint region of an offset? -/
def inRegion (off pa : Nat) : Bool :=
  decide (Config.tierBase + off * 65536 ≤ pa) && decide (pa < Config.tierBase + off * 65536 + ckBytes)

/-- Memory with the bytes of a list written. -/
def Memory.put (m : Memory) (cs : List (Nat × Byte)) : Memory := cs.foldl (fun m c => m.write c.1 c.2) m

/-- What firmware streams into a region beside the descriptor (R422 step 5), by its place in the region: HBM, and above it every cluster memory.
DESIGN CHOICE (log 22): the spec does not give the order; the model puts HBM from byte 4,096 on, by physical address, and then the cluster
memories by grove. -/
def Checkpoint.streamed (k : Checkpoint) : List (Nat × Byte) :=
  (k.dram.map fun c => (4096 + c.1, c.2)) ++
    k.groves.flatMap fun p => p.2.cluster.map fun c => (4096 + Config.hbmBytes + Config.clusterBytes * p.1 + c.1, c.2)

/-- The SM3 digest of a region without its descriptor (R423). -/
def regionDigest (m : Memory) : List Byte := sm3 ((List.range (ckBytes - 4096)).map fun i => m.read (4096 + i))

/-- The fields of a checkpoint's descriptor but for the digest (R423). DESIGN CHOICE (log 22): the spec lists the fields and gives no
offsets; the model puts them one after the other. -/
def descriptorBytes (k : Checkpoint) : List Byte :=
  [0x43, 0x4B, 0x50, 0x37] ++ leBytes 4 1 ++ leBytes 8 k.step.toNat ++ leBytes 8 1 ++ leBytes 32 k.digest.toNat ++
    leBytes 4 k.devid.toNat ++ leBytes 4 k.incarnation.toNat

/-- The bytes of a checkpoint's region, from the region's first byte on (R422, R423): the descriptor and what is streamed. -/
def Checkpoint.region (k : Checkpoint) : Memory :=
  let body := Memory.put [] k.streamed
  body.writes 0 (descriptorBytes k ++ regionDigest body)

/-- `CHECKPOINT_STREAM_DONE` (R422 step 5): the region holds HBM, the cluster memories and the descriptor; what the state block says is kept as data
(log 22); issue resumes. A part of the region on an island without power takes nothing (log 84). -/
def State.ckDone (s : State) : State :=
  if s.ckPhase ≠ 2 then s
  else
    let t := s.spillAll
    let base := Config.tierBase + s.ckOff * 65536
    let k := t.toCheckpoint
    let cells := (k.region.map fun c => (base + c.1, c.2)).filter fun c => !s.tierDark c.1
    { t.pauseAll false with
      dram := Memory.put (t.dram.filter fun c => !inRegion s.ckOff c.1) cells
      bad := t.bad.filter fun q => !inRegion s.ckOff (32 * q)
      saves := k :: t.saves
      cksts := 3
      ckPhase := 0 }

/-- `CHECKPOINT_STREAM_DONE` (R422). -/
def execCheckpointStreamDone (s : State) : Out := .next s.ckDone

/-- A die after a restore (R424): its saved state, with what a compute-die reset keeps as it stands. -/
def Die.restored (now saved : Die) : Die :=
  { saved with
    mcq := now.mcq, mcOvf := now.mcOvf, mcLost := now.mcLost, hostLog := now.hostLog, dieLog := now.dieLog, engLog := now.engLog, causes := now.causes
    boot := now.boot, fabcnt := Vector.replicate 4 0, killcnt := 0, drift := false, paused := false }

/-- The state block is reloaded, and HBM and the cluster memories are streamed back (R424). -/
def State.reload (s : State) (k : Checkpoint) : State :=
  { s with
    digest := k.digest
    dram := k.dram ++ s.dram.filter fun c => !inHbm c.1
    ctxs := k.ctxs ++ s.ctxs
    cores := k.cores ++ s.cores
    groves := k.groves
    dies := (List.range Config.dies).map fun d => (d, (s.die d).restored ((k.dies.get? d).getD Die.fresh))
    groups := k.groups
    dfreeSets := k.dfreeSets
    spaces := k.spaces
    grids := k.grids
    halos := k.halos
    ranges := k.ranges
    incumbents := k.incumbents
    shadows := k.shadows
    mboxes := k.mboxes
    ptroot := k.ptroot
    rasid := k.rasid }

/-- The bytes of the region of an offset, from its first byte on, as firmware reads them. -/
def State.regionCells (s : State) (off : Nat) : Memory :=
  (s.spillAll.dram.filter fun c => inRegion off c.1).map fun c => (c.1 - (Config.tierBase + off * 65536), c.2)

/-- Can firmware read the region of an offset: no part of it is bad data or on an island without power? -/
def State.regionReadable (s : State) (off : Nat) : Bool :=
  s.bad.all (fun q => !inRegion off (32 * q)) && (List.range Config.dies).all fun d => s.tierPower.getLsbD d || !regionOnDie off d

/-- The checkpoint whose region stands at an offset (R423, R424): one that the module has written, there or at another offset, whose bytes agree with
the region's, the digest among them (log 22). -/
def State.regionSave (s : State) (off : Nat) : Option Checkpoint :=
  if s.regionReadable off then s.saves.find? fun k => k.region == s.regionCells off else none

/-- Firmware carries out a restore (R424): the descriptor's check, a compute-die reset, and the saved state. -/
def State.carryRestore (s : State) : State :=
  match s.regionSave (s.ldcmd.toNat % 2 ^ 26) with
  | some k => { (s.dieReset.reload k).reopenTier with ldsts := 3 }
  | none => { s with ldsts := 0x64 }

/-- A write of `ldcmd` with GO and RES (R424), and what firmware, when it runs, does about it. -/
def State.restore (s : State) (value : Word) : State :=
  if s.loadBusy then s.logHost 0 2 0
  else
    let s0 := s.writeLdcmd value
    if !value.getLsbD 63 || !value.getLsbD 62 || !s0.booted then s0 else s0.carryRestore

/-- Firmware goes on with the load or the restore that a write of `ldcmd` has started (R3, R416, R424). -/
def State.carryOn (s : State) (plan : LoadPlan) : State :=
  if s.loadState ≠ 1 then s else if s.ldcmd.getLsbD 62 then s.carryRestore else s.carryLoad plan

/-- A load or a restore that was started goes on with the model's own plan. -/
def execFirmwareLoad (s : State) : Out :=
  .next (s.carryOn { pages := [], heap := [], tables := [], images := [], rgBases := [], rings := [], indexes := [], diverts := [] })

/-- `LDCMD_RESTORE` (R424). What its operand says of the digest follows from the region's bytes (log 22). -/
def execLdcmdRestore (value : Word) (_ok : Bool) (s : State) : Out := .next (s.restore value)

end Sys2Proof.Machine
end

