-- ==== Sys2Proof/Machine/LoadStore.lean ====
section
/-! DEFINITION. Scalar loads and stores and `lea` (majors 0x18 and 0x19; R120, R180 to R183). -/

namespace Sys2Proof.Machine

open Sys2Proof

/-- What a load writes for the bytes it read (R180). -/
def loadWord (signed : Bool) (n : Nat) (bs : List Byte) : Word :=
  if signed then BitVec.ofInt 64 (toSigned (8 * n) (leNat bs)) else BitVec.ofNat 64 (leNat bs)

/-- A load of n bytes (R181, R182): precise; `X(d)` is written once every step of an acquire has ended. -/
def runLoad (signed : Bool) (n len : Nat) (d xo : Reg) (seg : Slot) (disp : Int) (nc : Bool) (acq : Option Scope) (s : State) :
    Out :=
  runMem false [d, xo]
    (fun s _ c =>
      match s.segLoad s.here (c.img.slot seg) (nOf (c.img.getX xo) + disp) n nc acq with
      | (s1, .error f) => .trap s1 f
      | (s1, .ok bs) => .done s1 ((c.img.setX d (loadWord signed n bs)).next len)) s

/-- A store of the low n bytes of `X(d)` (R180, R181, R183): a release waits for older ring entries. -/
def runStore (n len : Nat) (d xo : Reg) (seg : Slot) (disp : Int) (rel : Option Scope) (s : State) : Out :=
  runMem false [d, xo]
    (fun s _ c =>
      if rel.isSome && relWait (s.coreRing s.here) then .stall s
      else
        match s.segStore s.here (c.img.slot seg) (nOf (c.img.getX xo) + disp) (leBytes n (c.img.getX d).toNat) rel with
        | (s1, .error f) => .trap s1 f
        | (s1, .ok _) => .done s1 (c.img.next len)) s

/-- `lea` (R120): the address of an operand; its only fault is that of an invalid slot (R91). -/
def runLea (len : Nat) (d xo : Reg) (seg : Slot) (disp : Int) (s : State) : Out :=
  runRegs false [d, xo]
    (fun m =>
      let off := nOf (m.getX xo) + disp
      let g := m.slot seg
      if g.kind = 0 then .error (FaultRec.mk0 cSegment 1 (segVa g off))
      else .ok ((m.setX d (BitVec.ofNat 64 (segVa g off))).next len)) s

/-- `ld.i8` in format M (R180). -/
def execLdI8 (d xo : Reg) (seg : Slot) (disp : BitVec 5) (s : State) : Out :=
  runLoad true 1 4 d xo seg (disp.toInt * 1) false none s

/-- `ld.n8` in format M (R180). -/
def execLdN8 (d xo : Reg) (seg : Slot) (disp : BitVec 5) (s : State) : Out :=
  runLoad false 1 4 d xo seg (disp.toInt * 1) false none s

/-- `ld.i16` in format M (R180). -/
def execLdI16 (d xo : Reg) (seg : Slot) (disp : BitVec 5) (s : State) : Out :=
  runLoad true 2 4 d xo seg (disp.toInt * 2) false none s

/-- `ld.n16` in format M (R180). -/
def execLdN16 (d xo : Reg) (seg : Slot) (disp : BitVec 5) (s : State) : Out :=
  runLoad false 2 4 d xo seg (disp.toInt * 2) false none s

/-- `ld.i32` in format M (R180). -/
def execLdI32 (d xo : Reg) (seg : Slot) (disp : BitVec 5) (s : State) : Out :=
  runLoad true 4 4 d xo seg (disp.toInt * 4) false none s

/-- `ld.n32` in format M (R180). -/
def execLdN32 (d xo : Reg) (seg : Slot) (disp : BitVec 5) (s : State) : Out :=
  runLoad false 4 4 d xo seg (disp.toInt * 4) false none s

/-- `ld.i64` in format M (R180). -/
def execLdI64 (d xo : Reg) (seg : Slot) (disp : BitVec 5) (s : State) : Out :=
  runLoad true 8 4 d xo seg (disp.toInt * 8) false none s

/-- `lea` in format M (R120). -/
def execLea (d xo : Reg) (seg : Slot) (disp : BitVec 5) (s : State) : Out :=
  runLea 4 d xo seg disp.toInt s

/-- `ld.i8` in format MK (R180). -/
def execLdI8Mk (d xo : Reg) (seg : Slot) (disp : BitVec 20) (nc : Bool) (acq : Option Scope) (s : State) : Out :=
  runLoad true 1 8 d xo seg disp.toInt nc acq s

/-- `ld.n8` in format MK (R180). -/
def execLdN8Mk (d xo : Reg) (seg : Slot) (disp : BitVec 20) (nc : Bool) (acq : Option Scope) (s : State) : Out :=
  runLoad false 1 8 d xo seg disp.toInt nc acq s

/-- `ld.i16` in format MK (R180). -/
def execLdI16Mk (d xo : Reg) (seg : Slot) (disp : BitVec 20) (nc : Bool) (acq : Option Scope) (s : State) : Out :=
  runLoad true 2 8 d xo seg disp.toInt nc acq s

/-- `ld.n16` in format MK (R180). -/
def execLdN16Mk (d xo : Reg) (seg : Slot) (disp : BitVec 20) (nc : Bool) (acq : Option Scope) (s : State) : Out :=
  runLoad false 2 8 d xo seg disp.toInt nc acq s

/-- `ld.i32` in format MK (R180). -/
def execLdI32Mk (d xo : Reg) (seg : Slot) (disp : BitVec 20) (nc : Bool) (acq : Option Scope) (s : State) : Out :=
  runLoad true 4 8 d xo seg disp.toInt nc acq s

/-- `ld.n32` in format MK (R180). -/
def execLdN32Mk (d xo : Reg) (seg : Slot) (disp : BitVec 20) (nc : Bool) (acq : Option Scope) (s : State) : Out :=
  runLoad false 4 8 d xo seg disp.toInt nc acq s

/-- `ld.i64` in format MK (R180). -/
def execLdI64Mk (d xo : Reg) (seg : Slot) (disp : BitVec 20) (nc : Bool) (acq : Option Scope) (s : State) : Out :=
  runLoad true 8 8 d xo seg disp.toInt nc acq s

/-- `lea` in format MK (R120). -/
def execLeaMk (d xo : Reg) (seg : Slot) (disp : BitVec 20) (s : State) : Out :=
  runLea 8 d xo seg disp.toInt s

/-- `ld.i8` in format MKL (R180). -/
def execLdI8Mkl (d xo : Reg) (seg : Slot) (lit : BitVec 32) (nc : Bool) (acq : Option Scope) (s : State) : Out :=
  runLoad true 1 12 d xo seg lit.toInt nc acq s

/-- `ld.n8` in format MKL (R180). -/
def execLdN8Mkl (d xo : Reg) (seg : Slot) (lit : BitVec 32) (nc : Bool) (acq : Option Scope) (s : State) : Out :=
  runLoad false 1 12 d xo seg lit.toInt nc acq s

/-- `ld.i16` in format MKL (R180). -/
def execLdI16Mkl (d xo : Reg) (seg : Slot) (lit : BitVec 32) (nc : Bool) (acq : Option Scope) (s : State) : Out :=
  runLoad true 2 12 d xo seg lit.toInt nc acq s

/-- `ld.n16` in format MKL (R180). -/
def execLdN16Mkl (d xo : Reg) (seg : Slot) (lit : BitVec 32) (nc : Bool) (acq : Option Scope) (s : State) : Out :=
  runLoad false 2 12 d xo seg lit.toInt nc acq s

/-- `ld.i32` in format MKL (R180). -/
def execLdI32Mkl (d xo : Reg) (seg : Slot) (lit : BitVec 32) (nc : Bool) (acq : Option Scope) (s : State) : Out :=
  runLoad true 4 12 d xo seg lit.toInt nc acq s

/-- `ld.n32` in format MKL (R180). -/
def execLdN32Mkl (d xo : Reg) (seg : Slot) (lit : BitVec 32) (nc : Bool) (acq : Option Scope) (s : State) : Out :=
  runLoad false 4 12 d xo seg lit.toInt nc acq s

/-- `ld.i64` in format MKL (R180). -/
def execLdI64Mkl (d xo : Reg) (seg : Slot) (lit : BitVec 32) (nc : Bool) (acq : Option Scope) (s : State) : Out :=
  runLoad true 8 12 d xo seg lit.toInt nc acq s

/-- `lea` in format MKL (R120). -/
def execLeaMkl (d xo : Reg) (seg : Slot) (lit : BitVec 32) (s : State) : Out :=
  runLea 12 d xo seg lit.toInt s

/-- `st.i8` in format M (R180). -/
def execStI8 (d xo : Reg) (seg : Slot) (disp : BitVec 5) (s : State) : Out :=
  runStore 1 4 d xo seg (disp.toInt * 1) none s

/-- `st.i16` in format M (R180). -/
def execStI16 (d xo : Reg) (seg : Slot) (disp : BitVec 5) (s : State) : Out :=
  runStore 2 4 d xo seg (disp.toInt * 2) none s

/-- `st.i32` in format M (R180). -/
def execStI32 (d xo : Reg) (seg : Slot) (disp : BitVec 5) (s : State) : Out :=
  runStore 4 4 d xo seg (disp.toInt * 4) none s

/-- `st.i64` in format M (R180). -/
def execStI64 (d xo : Reg) (seg : Slot) (disp : BitVec 5) (s : State) : Out :=
  runStore 8 4 d xo seg (disp.toInt * 8) none s

/-- `st.i8` in format MK (R180). -/
def execStI8Mk (d xo : Reg) (seg : Slot) (disp : BitVec 20) (rel : Option Scope) (s : State) : Out :=
  runStore 1 8 d xo seg disp.toInt rel s

/-- `st.i16` in format MK (R180). -/
def execStI16Mk (d xo : Reg) (seg : Slot) (disp : BitVec 20) (rel : Option Scope) (s : State) : Out :=
  runStore 2 8 d xo seg disp.toInt rel s

/-- `st.i32` in format MK (R180). -/
def execStI32Mk (d xo : Reg) (seg : Slot) (disp : BitVec 20) (rel : Option Scope) (s : State) : Out :=
  runStore 4 8 d xo seg disp.toInt rel s

/-- `st.i64` in format MK (R180). -/
def execStI64Mk (d xo : Reg) (seg : Slot) (disp : BitVec 20) (rel : Option Scope) (s : State) : Out :=
  runStore 8 8 d xo seg disp.toInt rel s

/-- `st.i8` in format MKL (R180). -/
def execStI8Mkl (d xo : Reg) (seg : Slot) (lit : BitVec 32) (rel : Option Scope) (s : State) : Out :=
  runStore 1 12 d xo seg lit.toInt rel s

/-- `st.i16` in format MKL (R180). -/
def execStI16Mkl (d xo : Reg) (seg : Slot) (lit : BitVec 32) (rel : Option Scope) (s : State) : Out :=
  runStore 2 12 d xo seg lit.toInt rel s

/-- `st.i32` in format MKL (R180). -/
def execStI32Mkl (d xo : Reg) (seg : Slot) (lit : BitVec 32) (rel : Option Scope) (s : State) : Out :=
  runStore 4 12 d xo seg lit.toInt rel s

/-- `st.i64` in format MKL (R180). -/
def execStI64Mkl (d xo : Reg) (seg : Slot) (lit : BitVec 32) (rel : Option Scope) (s : State) : Out :=
  runStore 8 12 d xo seg lit.toInt rel s

end Sys2Proof.Machine
end

