-- ==== Sys2Proof/Machine/Dispatch.lean ====
section
/-! DEFINITION. The instruction set's dispatch: one arm for each constructor, one direct call of its meaning. -/

namespace Sys2Proof.Machine

open Sys2Proof

/-- What an instruction or an event does in a state. -/
def exec (i : Instr) (s : State) : Host.Outcome State Fault Refusal :=
  match i with
  | .add d a b => Sys2Proof.Machine.execAdd d a b s
  | .sub d a b => Sys2Proof.Machine.execSub d a b s
  | .mul d a b => Sys2Proof.Machine.execMul d a b s
  | .mulh d a b => Sys2Proof.Machine.execMulh d a b s
  | .mulhn d a b => Sys2Proof.Machine.execMulhn d a b s
  | .div d a b => Sys2Proof.Machine.execDiv d a b s
  | .divn d a b => Sys2Proof.Machine.execDivn d a b s
  | .rem d a b => Sys2Proof.Machine.execRem d a b s
  | .remn d a b => Sys2Proof.Machine.execRemn d a b s
  | .and_ d a b => Sys2Proof.Machine.execAnd d a b s
  | .or_ d a b => Sys2Proof.Machine.execOr d a b s
  | .xor_ d a b => Sys2Proof.Machine.execXor d a b s
  | .andn d a b => Sys2Proof.Machine.execAndn d a b s
  | .sll d a b => Sys2Proof.Machine.execSll d a b s
  | .srl d a b => Sys2Proof.Machine.execSrl d a b s
  | .sra d a b => Sys2Proof.Machine.execSra d a b s
  | .rol d a b => Sys2Proof.Machine.execRol d a b s
  | .ror d a b => Sys2Proof.Machine.execRor d a b s
  | .min_ d a b => Sys2Proof.Machine.execMin d a b s
  | .max_ d a b => Sys2Proof.Machine.execMax d a b s
  | .minn d a b => Sys2Proof.Machine.execMinn d a b s
  | .maxn d a b => Sys2Proof.Machine.execMaxn d a b s
  | .clz d a => Sys2Proof.Machine.execClz d a s
  | .ctz d a => Sys2Proof.Machine.execCtz d a s
  | .popc d a => Sys2Proof.Machine.execPopc d a s
  | .setCc cc d a b => Sys2Proof.Machine.execSetCc cc d a b s
  | .ext d a pos lenm1 => Sys2Proof.Machine.execExt d a pos lenm1 s
  | .extn d a pos lenm1 => Sys2Proof.Machine.execExtn d a pos lenm1 s
  | .ins d a pos lenm1 => Sys2Proof.Machine.execIns d a pos lenm1 s
  | .sel d a b c => Sys2Proof.Machine.execSel d a b c s
  | .addImm d a imm => Sys2Proof.Machine.execAddImm d a imm s
  | .andImm d a imm => Sys2Proof.Machine.execAndImm d a imm s
  | .orImm d a imm => Sys2Proof.Machine.execOrImm d a imm s
  | .xorImm d a imm => Sys2Proof.Machine.execXorImm d a imm s
  | .sllImm d a sh => Sys2Proof.Machine.execSllImm d a sh s
  | .srlImm d a sh => Sys2Proof.Machine.execSrlImm d a sh s
  | .sraImm d a sh => Sys2Proof.Machine.execSraImm d a sh s
  | .mulImm d a imm => Sys2Proof.Machine.execMulImm d a imm s
  | .addImmQ d a imm => Sys2Proof.Machine.execAddImmQ d a imm s
  | .andImmQ d a imm => Sys2Proof.Machine.execAndImmQ d a imm s
  | .orImmQ d a imm => Sys2Proof.Machine.execOrImmQ d a imm s
  | .xorImmQ d a imm => Sys2Proof.Machine.execXorImmQ d a imm s
  | .sllImmQ d a sh => Sys2Proof.Machine.execSllImmQ d a sh s
  | .srlImmQ d a sh => Sys2Proof.Machine.execSrlImmQ d a sh s
  | .sraImmQ d a sh => Sys2Proof.Machine.execSraImmQ d a sh s
  | .mulImmQ d a imm => Sys2Proof.Machine.execMulImmQ d a imm s
  | .li d imm => Sys2Proof.Machine.execLi d imm s
  | .liQ d imm => Sys2Proof.Machine.execLiQ d imm s
  | .lih d imm => Sys2Proof.Machine.execLih d imm s
  | .lpc d off => Sys2Proof.Machine.execLpc d off s
  | .lpcQ d off => Sys2Proof.Machine.execLpcQ d off s
  | .bCc cc a b off => Sys2Proof.Machine.execBCc cc a b off s
  | .bCcQ cc a b off => Sys2Proof.Machine.execBCcQ cc a b off s
  | .jal d off => Sys2Proof.Machine.execJal d off s
  | .jalQ d off => Sys2Proof.Machine.execJalQ d off s
  | .loop a off => Sys2Proof.Machine.execLoop a off s
  | .loopQ a off => Sys2Proof.Machine.execLoopQ a off s
  | .jr d a => Sys2Proof.Machine.execJr d a s
  | .fadd d a b => Sys2Proof.Machine.execFadd d a b s
  | .fsub d a b => Sys2Proof.Machine.execFsub d a b s
  | .fmul d a b => Sys2Proof.Machine.execFmul d a b s
  | .fdiv d a b => Sys2Proof.Machine.execFdiv d a b s
  | .fsqrt d a => Sys2Proof.Machine.execFsqrt d a s
  | .fmin d a b => Sys2Proof.Machine.execFmin d a b s
  | .fmax d a b => Sys2Proof.Machine.execFmax d a b s
  | .fsgn d a b => Sys2Proof.Machine.execFsgn d a b s
  | .fsgnn d a b => Sys2Proof.Machine.execFsgnn d a b s
  | .fsgnx d a b => Sys2Proof.Machine.execFsgnx d a b s
  | .fcmpCc cc d a b => Sys2Proof.Machine.execFcmpCc cc d a b s
  | .fcvtI32F32 d a => Sys2Proof.Machine.execFcvtI32F32 d a s
  | .fcvtN32F32 d a => Sys2Proof.Machine.execFcvtN32F32 d a s
  | .fcvtI64F32 d a => Sys2Proof.Machine.execFcvtI64F32 d a s
  | .fcvtN64F32 d a => Sys2Proof.Machine.execFcvtN64F32 d a s
  | .fcvtF32I32 d a => Sys2Proof.Machine.execFcvtF32I32 d a s
  | .fcvtF32N32 d a => Sys2Proof.Machine.execFcvtF32N32 d a s
  | .fcvtF32I64 d a => Sys2Proof.Machine.execFcvtF32I64 d a s
  | .fcvtF32N64 d a => Sys2Proof.Machine.execFcvtF32N64 d a s
  | .fma d a b c => Sys2Proof.Machine.execFma d a b c s
  | .nop => Sys2Proof.Machine.execNop s
  | .crd d r => Sys2Proof.Machine.execCrd d r s
  | .cwr r a => Sys2Proof.Machine.execCwr r a s
  | .sys n => Sys2Proof.Machine.execSys n s
  | .brk n => Sys2Proof.Machine.execBrk n s
  | .eret => Sys2Proof.Machine.execEret s
  | .exit => Sys2Proof.Machine.execExit s
  | .fmt p => Sys2Proof.Machine.execFmt p s
  | .vaddF32 d a b m => Sys2Proof.Machine.execVaddF32 d a b m s
  | .vsubF32 d a b m => Sys2Proof.Machine.execVsubF32 d a b m s
  | .vmulF32 d a b m => Sys2Proof.Machine.execVmulF32 d a b m s
  | .vdiv d a b m => Sys2Proof.Machine.execVdiv d a b m s
  | .vsqrt d a m => Sys2Proof.Machine.execVsqrt d a m s
  | .vrsqrt d a m => Sys2Proof.Machine.execVrsqrt d a m s
  | .vexp2 d a m => Sys2Proof.Machine.execVexp2 d a m s
  | .vminF32 d a b m => Sys2Proof.Machine.execVminF32 d a b m s
  | .vmaxF32 d a b m => Sys2Proof.Machine.execVmaxF32 d a b m s
  | .vabsF32 d a m => Sys2Proof.Machine.execVabsF32 d a m s
  | .vneg d a m => Sys2Proof.Machine.execVneg d a m s
  | .vfma d a b c m => Sys2Proof.Machine.execVfma d a b c m s
  | .vfms d a b c m => Sys2Proof.Machine.execVfms d a b c m s
  | .vfnma d a b c m => Sys2Proof.Machine.execVfnma d a b c m s
  | .vaddF32Lit d a lit m => Sys2Proof.Machine.execVaddF32Lit d a lit m s
  | .vsubF32Lit d a lit m => Sys2Proof.Machine.execVsubF32Lit d a lit m s
  | .vmulF32Lit d a lit m => Sys2Proof.Machine.execVmulF32Lit d a lit m s
  | .vdivLit d a lit m => Sys2Proof.Machine.execVdivLit d a lit m s
  | .vminF32Lit d a lit m => Sys2Proof.Machine.execVminF32Lit d a lit m s
  | .vmaxF32Lit d a lit m => Sys2Proof.Machine.execVmaxF32Lit d a lit m s
  | .vaddInt nat d a b m => Sys2Proof.Machine.execVaddInt nat d a b m s
  | .vsubInt nat d a b m => Sys2Proof.Machine.execVsubInt nat d a b m s
  | .vmulInt nat d a b m => Sys2Proof.Machine.execVmulInt nat d a b m s
  | .vmulh nat d a b m => Sys2Proof.Machine.execVmulh nat d a b m s
  | .vand nat d a b m => Sys2Proof.Machine.execVand nat d a b m s
  | .vor nat d a b m => Sys2Proof.Machine.execVor nat d a b m s
  | .vxor nat d a b m => Sys2Proof.Machine.execVxor nat d a b m s
  | .vandn nat d a b m => Sys2Proof.Machine.execVandn nat d a b m s
  | .vsll nat d a b m => Sys2Proof.Machine.execVsll nat d a b m s
  | .vsrl nat d a b m => Sys2Proof.Machine.execVsrl nat d a b m s
  | .vsra nat d a b m => Sys2Proof.Machine.execVsra nat d a b m s
  | .vminInt nat d a b m => Sys2Proof.Machine.execVminInt nat d a b m s
  | .vmaxInt nat d a b m => Sys2Proof.Machine.execVmaxInt nat d a b m s
  | .vabsI32 d a m => Sys2Proof.Machine.execVabsI32 d a m s
  | .vadds nat d a b m => Sys2Proof.Machine.execVadds nat d a b m s
  | .vsubs nat d a b m => Sys2Proof.Machine.execVsubs nat d a b m s
  | .vaddIntLit nat d a lit m => Sys2Proof.Machine.execVaddIntLit nat d a lit m s
  | .vsubIntLit nat d a lit m => Sys2Proof.Machine.execVsubIntLit nat d a lit m s
  | .vmulIntLit nat d a lit m => Sys2Proof.Machine.execVmulIntLit nat d a lit m s
  | .vmulhLit nat d a lit m => Sys2Proof.Machine.execVmulhLit nat d a lit m s
  | .vandLit nat d a lit m => Sys2Proof.Machine.execVandLit nat d a lit m s
  | .vorLit nat d a lit m => Sys2Proof.Machine.execVorLit nat d a lit m s
  | .vxorLit nat d a lit m => Sys2Proof.Machine.execVxorLit nat d a lit m s
  | .vandnLit nat d a lit m => Sys2Proof.Machine.execVandnLit nat d a lit m s
  | .vsllLit nat d a lit m => Sys2Proof.Machine.execVsllLit nat d a lit m s
  | .vsrlLit nat d a lit m => Sys2Proof.Machine.execVsrlLit nat d a lit m s
  | .vsraLit nat d a lit m => Sys2Proof.Machine.execVsraLit nat d a lit m s
  | .vminIntLit nat d a lit m => Sys2Proof.Machine.execVminIntLit nat d a lit m s
  | .vmaxIntLit nat d a lit m => Sys2Proof.Machine.execVmaxIntLit nat d a lit m s
  | .vaddsLit nat d a lit m => Sys2Proof.Machine.execVaddsLit nat d a lit m s
  | .vsubsLit nat d a lit m => Sys2Proof.Machine.execVsubsLit nat d a lit m s
  | .vcmpF32 cc d a b m => Sys2Proof.Machine.execVcmpF32 cc d a b m s
  | .vcmpI32 cc d a b m => Sys2Proof.Machine.execVcmpI32 cc d a b m s
  | .vsel d a b m => Sys2Proof.Machine.execVsel d a b m s
  | .vmcnt d a m => Sys2Proof.Machine.execVmcnt d a m s
  | .vfirst d a m => Sys2Proof.Machine.execVfirst d a m s
  | .vmand d a b m => Sys2Proof.Machine.execVmand d a b m s
  | .vmor d a b m => Sys2Proof.Machine.execVmor d a b m s
  | .vmxor d a b m => Sys2Proof.Machine.execVmxor d a b m s
  | .vmnot d a m => Sys2Proof.Machine.execVmnot d a m s
  | .vperm d a b m => Sys2Proof.Machine.execVperm d a b m s
  | .vbcast d a m => Sys2Proof.Machine.execVbcast d a m s
  | .vbcastLit ty d lit m => Sys2Proof.Machine.execVbcastLit ty d lit m s
  | .vext sgn d a lane => Sys2Proof.Machine.execVext sgn d a lane s
  | .vins d a lane => Sys2Proof.Machine.execVins d a lane s
  | .vslide d a b k m => Sys2Proof.Machine.execVslide d a b k m s
  | .vcompress d a m => Sys2Proof.Machine.execVcompress d a m s
  | .vexpand d a m => Sys2Proof.Machine.execVexpand d a m s
  | .vmov d a m => Sys2Proof.Machine.execVmov d a m s
  | .vredAdd ty d a m => Sys2Proof.Machine.execVredAdd ty d a m s
  | .vredMin ty d a m => Sys2Proof.Machine.execVredMin ty d a m s
  | .vredMax ty d a m => Sys2Proof.Machine.execVredMax ty d a m s
  | .vredAnd d a m => Sys2Proof.Machine.execVredAnd d a m s
  | .vredOr d a m => Sys2Proof.Machine.execVredOr d a m s
  | .vredXor d a m => Sys2Proof.Machine.execVredXor d a m s
  | .vscanAdd ty d a m => Sys2Proof.Machine.execVscanAdd ty d a m s
  | .vscanMin ty d a m => Sys2Proof.Machine.execVscanMin ty d a m s
  | .vscanMax ty d a m => Sys2Proof.Machine.execVscanMax ty d a m s
  | .vcvt dst src d a m => Sys2Proof.Machine.execVcvt dst src d a m s
  | .vpack dst src d a b q => Sys2Proof.Machine.execVpack dst src d a b q s
  | .vunpack dst src d a p => Sys2Proof.Machine.execVunpack dst src d a p s
  | .vqnt dst d a b c => Sys2Proof.Machine.execVqnt dst d a b c s
  | .vmaxx d a w => Sys2Proof.Machine.execVmaxx d a w s
  | .vld d xo seg imm m => Sys2Proof.Machine.execVld d xo seg imm m s
  | .vst d xo seg imm m => Sys2Proof.Machine.execVst d xo seg imm m s
  | .vlds d xo c seg imm m => Sys2Proof.Machine.execVlds d xo c seg imm m s
  | .vsts d xo c seg imm m => Sys2Proof.Machine.execVsts d xo c seg imm m s
  | .vldx d xo c seg imm m => Sys2Proof.Machine.execVldx d xo c seg imm m s
  | .vstx d xo c seg imm m => Sys2Proof.Machine.execVstx d xo c seg imm m s
  | .vclaim nm1 => Sys2Proof.Machine.execVclaim nm1 s
  | .vrelease => Sys2Proof.Machine.execVrelease s
  | .ldI8 d xo seg disp => Sys2Proof.Machine.execLdI8 d xo seg disp s
  | .ldN8 d xo seg disp => Sys2Proof.Machine.execLdN8 d xo seg disp s
  | .ldI16 d xo seg disp => Sys2Proof.Machine.execLdI16 d xo seg disp s
  | .ldN16 d xo seg disp => Sys2Proof.Machine.execLdN16 d xo seg disp s
  | .ldI32 d xo seg disp => Sys2Proof.Machine.execLdI32 d xo seg disp s
  | .ldN32 d xo seg disp => Sys2Proof.Machine.execLdN32 d xo seg disp s
  | .ldI64 d xo seg disp => Sys2Proof.Machine.execLdI64 d xo seg disp s
  | .lea d xo seg disp => Sys2Proof.Machine.execLea d xo seg disp s
  | .ldI8Mk d xo seg disp nc acq => Sys2Proof.Machine.execLdI8Mk d xo seg disp nc acq s
  | .ldN8Mk d xo seg disp nc acq => Sys2Proof.Machine.execLdN8Mk d xo seg disp nc acq s
  | .ldI16Mk d xo seg disp nc acq => Sys2Proof.Machine.execLdI16Mk d xo seg disp nc acq s
  | .ldN16Mk d xo seg disp nc acq => Sys2Proof.Machine.execLdN16Mk d xo seg disp nc acq s
  | .ldI32Mk d xo seg disp nc acq => Sys2Proof.Machine.execLdI32Mk d xo seg disp nc acq s
  | .ldN32Mk d xo seg disp nc acq => Sys2Proof.Machine.execLdN32Mk d xo seg disp nc acq s
  | .ldI64Mk d xo seg disp nc acq => Sys2Proof.Machine.execLdI64Mk d xo seg disp nc acq s
  | .leaMk d xo seg disp => Sys2Proof.Machine.execLeaMk d xo seg disp s
  | .ldI8Mkl d xo seg lit nc acq => Sys2Proof.Machine.execLdI8Mkl d xo seg lit nc acq s
  | .ldN8Mkl d xo seg lit nc acq => Sys2Proof.Machine.execLdN8Mkl d xo seg lit nc acq s
  | .ldI16Mkl d xo seg lit nc acq => Sys2Proof.Machine.execLdI16Mkl d xo seg lit nc acq s
  | .ldN16Mkl d xo seg lit nc acq => Sys2Proof.Machine.execLdN16Mkl d xo seg lit nc acq s
  | .ldI32Mkl d xo seg lit nc acq => Sys2Proof.Machine.execLdI32Mkl d xo seg lit nc acq s
  | .ldN32Mkl d xo seg lit nc acq => Sys2Proof.Machine.execLdN32Mkl d xo seg lit nc acq s
  | .ldI64Mkl d xo seg lit nc acq => Sys2Proof.Machine.execLdI64Mkl d xo seg lit nc acq s
  | .leaMkl d xo seg lit => Sys2Proof.Machine.execLeaMkl d xo seg lit s
  | .stI8 d xo seg disp => Sys2Proof.Machine.execStI8 d xo seg disp s
  | .stI16 d xo seg disp => Sys2Proof.Machine.execStI16 d xo seg disp s
  | .stI32 d xo seg disp => Sys2Proof.Machine.execStI32 d xo seg disp s
  | .stI64 d xo seg disp => Sys2Proof.Machine.execStI64 d xo seg disp s
  | .stI8Mk d xo seg disp rel => Sys2Proof.Machine.execStI8Mk d xo seg disp rel s
  | .stI16Mk d xo seg disp rel => Sys2Proof.Machine.execStI16Mk d xo seg disp rel s
  | .stI32Mk d xo seg disp rel => Sys2Proof.Machine.execStI32Mk d xo seg disp rel s
  | .stI64Mk d xo seg disp rel => Sys2Proof.Machine.execStI64Mk d xo seg disp rel s
  | .stI8Mkl d xo seg lit rel => Sys2Proof.Machine.execStI8Mkl d xo seg lit rel s
  | .stI16Mkl d xo seg lit rel => Sys2Proof.Machine.execStI16Mkl d xo seg lit rel s
  | .stI32Mkl d xo seg lit rel => Sys2Proof.Machine.execStI32Mkl d xo seg lit rel s
  | .stI64Mkl d xo seg lit rel => Sys2Proof.Machine.execStI64Mkl d xo seg lit rel s
  | .amoAdd wide d xo b seg disp acq rel sc => Sys2Proof.Machine.execAmoAdd wide d xo b seg disp acq rel sc s
  | .amoAnd wide d xo b seg disp acq rel sc => Sys2Proof.Machine.execAmoAnd wide d xo b seg disp acq rel sc s
  | .amoOr wide d xo b seg disp acq rel sc => Sys2Proof.Machine.execAmoOr wide d xo b seg disp acq rel sc s
  | .amoXor wide d xo b seg disp acq rel sc => Sys2Proof.Machine.execAmoXor wide d xo b seg disp acq rel sc s
  | .amoMin wide d xo b seg disp acq rel sc => Sys2Proof.Machine.execAmoMin wide d xo b seg disp acq rel sc s
  | .amoMax wide d xo b seg disp acq rel sc => Sys2Proof.Machine.execAmoMax wide d xo b seg disp acq rel sc s
  | .amoMinn wide d xo b seg disp acq rel sc => Sys2Proof.Machine.execAmoMinn wide d xo b seg disp acq rel sc s
  | .amoMaxn wide d xo b seg disp acq rel sc => Sys2Proof.Machine.execAmoMaxn wide d xo b seg disp acq rel sc s
  | .amoSwap wide d xo b seg disp acq rel sc => Sys2Proof.Machine.execAmoSwap wide d xo b seg disp acq rel sc s
  | .amoCas wide d xo b seg disp acq rel sc => Sys2Proof.Machine.execAmoCas wide d xo b seg disp acq rel sc s
  | .amoFadd d xo b seg disp acq rel sc => Sys2Proof.Machine.execAmoFadd d xo b seg disp acq rel sc s
  | .amoFmin d xo b seg disp acq rel sc => Sys2Proof.Machine.execAmoFmin d xo b seg disp acq rel sc s
  | .amoFmax d xo b seg disp acq rel sc => Sys2Proof.Machine.execAmoFmax d xo b seg disp acq rel sc s
  | .fence sc => Sys2Proof.Machine.execFence sc s
  | .fenceAcq sc => Sys2Proof.Machine.execFenceAcq sc s
  | .fenceRel sc => Sys2Proof.Machine.execFenceRel sc s
  | .fenceW => Sys2Proof.Machine.execFenceW s
  | .waita cc d xo b seg disp acq => Sys2Proof.Machine.execWaita cc d xo b seg disp acq s
  | .cinv d xo b seg disp => Sys2Proof.Machine.execCinv d xo b seg disp s
  | .cwb xo b seg disp => Sys2Proof.Machine.execCwb xo b seg disp s
  | .cflush xo b seg disp => Sys2Proof.Machine.execCflush xo b seg disp s
  | .cpref xo b seg disp => Sys2Proof.Machine.execCpref xo b seg disp s
  | .dcopy k rc => Sys2Proof.Machine.execDcopy k rc s
  | .dfill k rn => Sys2Proof.Machine.execDfill k rn s
  | .dfree a b => Sys2Proof.Machine.execDfree a b s
  | .gather k es it => Sys2Proof.Machine.execGather k es it s
  | .scatter k es it mode => Sys2Proof.Machine.execScatter k es it mode s
  | .spwalk k wide pos => Sys2Proof.Machine.execSpwalk k wide pos s
  | .merge k zd => Sys2Proof.Machine.execMerge k zd s
  | .mldb k ty sx bank => Sys2Proof.Machine.execMldb k ty sx bank s
  | .mmac k bank pr zc pin => Sys2Proof.Machine.execMmac k bank pr zc pin s
  | .mmacCoop k bank pr zc => Sys2Proof.Machine.execMmacCoop k bank pr zc s
  | .rnew d a c sa sp => Sys2Proof.Machine.execRnew d a c sa sp s
  | .rdel b c => Sys2Proof.Machine.execRdel b c s
  | .rld a b c sa acq => Sys2Proof.Machine.execRld a b c sa acq s
  | .rst d a b c sa rel => Sys2Proof.Machine.execRst d a b c sa rel s
  | .rloc d b c => Sys2Proof.Machine.execRloc d b c s
  | .qbox d a b c sa sp => Sys2Proof.Machine.execQbox d a b c sa sp s
  | .qrad d a b c sa sp => Sys2Proof.Machine.execQrad d a b c sa sp s
  | .gld d a b c sa g => Sys2Proof.Machine.execGld d a b c sa g s
  | .gst d a b c sa g => Sys2Proof.Machine.execGst d a b c sa g s
  | .gstep c g => Sys2Proof.Machine.execGstep c g s
  | .put k => Sys2Proof.Machine.execPut k s
  | .get k => Sys2Proof.Machine.execGet k s
  | .msg d a b c => Sys2Proof.Machine.execMsg d a b c s
  | .recv d a sa nb => Sys2Proof.Machine.execRecv d a sa nb s
  | .pub d a b c sb cw ds => Sys2Proof.Machine.execPub d a b c sb cw ds s
  | .rblk d => Sys2Proof.Machine.execRblk d s
  | .rblkSet a b => Sys2Proof.Machine.execRblkSet a b s
  | .baddq ty a b c sa sb => Sys2Proof.Machine.execBaddq ty a b c sa sb s
  | .sset a sa sb => Sys2Proof.Machine.execSset a sa sb s
  | .ssetT a sa sb => Sys2Proof.Machine.execSsetT a sa sb s
  | .tlbinv wb d a b c => Sys2Proof.Machine.execTlbinv wb d a b c s
  | .gtw a sa g => Sys2Proof.Machine.execGtw a sa g s
  | .pbind gd a sa n => Sys2Proof.Machine.execPbind gd a sa n s
  | .pbindU gd n => Sys2Proof.Machine.execPbindU gd n s
  | .crange clr a b k => Sys2Proof.Machine.execCrange clr a b k s
  | .spawn d a sa rel => Sys2Proof.Machine.execSpawn d a sa rel s
  | .kchk => Sys2Proof.Machine.execKchk s
  | .iupd d a b k => Sys2Proof.Machine.execIupd d a b k s
  | .ird d a k => Sys2Proof.Machine.execIrd d a k s
  | .bar a => Sys2Proof.Machine.execBar a s
  | .sstep d a => Sys2Proof.Machine.execSstep d a s
  | .dset d a b => Sys2Proof.Machine.execDset d a b s
  | .ddec d a b => Sys2Proof.Machine.execDdec d a b s
  | .contextSwitch core => Sys2Proof.Machine.execContextSwitch core s
  | .accessWaitBlock core => Sys2Proof.Machine.execAccessWaitBlock core s
  | .fairnessSwitch core => Sys2Proof.Machine.execFairnessSwitch core s
  | .contextReady cid => Sys2Proof.Machine.execContextReady cid s
  | .imageLineFill core cid line => Sys2Proof.Machine.execImageLineFill core cid line s
  | .ringEntryComplete cid seq => Sys2Proof.Machine.execRingEntryComplete cid seq s
  | .lateFault cid seq => Sys2Proof.Machine.execLateFault cid seq s
  | .pendingTrapTaken core => Sys2Proof.Machine.execPendingTrapTaken core s
  | .preemption cid => Sys2Proof.Machine.execPreemption cid s
  | .vmaxxContribution src dst k => Sys2Proof.Machine.execVmaxxContribution src dst k s
  | .exchangeTimeout cid seq => Sys2Proof.Machine.execExchangeTimeout cid seq s
  | .taskDispatch die => Sys2Proof.Machine.execTaskDispatch die s
  | .agingPromotion die desc => Sys2Proof.Machine.execAgingPromotion die desc s
  | .shadowUpdate at_ k => Sys2Proof.Machine.execShadowUpdate at_ k s
  | .incctlWrite k value => Sys2Proof.Machine.execIncctlWrite k value s
  | .incumbentReinitDone k => Sys2Proof.Machine.execIncumbentReinitDone k s
  | .mailboxPost m msg => Sys2Proof.Machine.execMailboxPost m msg s
  | .mailboxSpawn m => Sys2Proof.Machine.execMailboxSpawn m s
  | .hostQueuePost die tag msg => Sys2Proof.Machine.execHostQueuePost die tag msg s
  | .syncEpisode g => Sys2Proof.Machine.execSyncEpisode g s
  | .superstepBoundary g => Sys2Proof.Machine.execSuperstepBoundary g s
  | .stepCounterIncrement g => Sys2Proof.Machine.execStepCounterIncrement g s
  | .l1Fill grove line sectors victim => Sys2Proof.Machine.execL1Fill grove line sectors victim s
  | .homeRequest r => Sys2Proof.Machine.execHomeRequest r s
  | .proxyInvalidateDone line => Sys2Proof.Machine.execProxyInvalidateDone line s
  | .updateOnlyEviction grove line => Sys2Proof.Machine.execUpdateOnlyEviction grove line s
  | .drainRequest grove cores => Sys2Proof.Machine.execDrainRequest grove cores s
  | .acquireComplete core line sc => Sys2Proof.Machine.execAcquireComplete core line sc s
  | .rwaysReconfiguration die => Sys2Proof.Machine.execRwaysReconfiguration die s
  | .translationWalk agent asid va acc => Sys2Proof.Machine.execTranslationWalk agent asid va acc s
  | .tlbinvAgentReply grove cmd => Sys2Proof.Machine.execTlbinvAgentReply grove cmd s
  | .engineAccept cid seq => Sys2Proof.Machine.execEngineAccept cid seq s
  | .chunkIssue grove cmd => Sys2Proof.Machine.execChunkIssue grove cmd s
  | .chunkAck grove cmd chunk => Sys2Proof.Machine.execChunkAck grove cmd chunk s
  | .engineCompletion grove cmd => Sys2Proof.Machine.execEngineCompletion grove cmd s
  | .gatherElement grove cmd elem => Sys2Proof.Machine.execGatherElement grove cmd elem s
  | .agentGroupAccess grove cmd access => Sys2Proof.Machine.execAgentGroupAccess grove cmd access s
  | .packedLineReturn grove cmd line => Sys2Proof.Machine.execPackedLineReturn grove cmd line s
  | .spwalkRow grove cmd => Sys2Proof.Machine.execSpwalkRow grove cmd s
  | .mergeResult grove cmd => Sys2Proof.Machine.execMergeResult grove cmd s
  | .dfillMemberDelivery grove cmd member => Sys2Proof.Machine.execDfillMemberDelivery grove cmd member s
  | .dfreeArrival idx => Sys2Proof.Machine.execDfreeArrival idx s
  | .mldbAccept cid seq => Sys2Proof.Machine.execMldbAccept cid seq s
  | .bankLoadComplete grove core => Sys2Proof.Machine.execBankLoadComplete grove core s
  | .matrixAccept cid seq => Sys2Proof.Machine.execMatrixAccept cid seq s
  | .matrixStep grove => Sys2Proof.Machine.execMatrixStep grove s
  | .coopSlotClaim grove core => Sys2Proof.Machine.execCoopSlotClaim grove core s
  | .matrixMigration grove core target bank => Sys2Proof.Machine.execMatrixMigration grove core target bank s
  | .migrationLoadComplete target => Sys2Proof.Machine.execMigrationLoadComplete target s
  | .bankRestore grove bank => Sys2Proof.Machine.execBankRestore grove bank s
  | .haloPartSend idx => Sys2Proof.Machine.execHaloPartSend idx s
  | .haloPartArrival idx => Sys2Proof.Machine.execHaloPartArrival idx s
  | .injectionSend core idx => Sys2Proof.Machine.execInjectionSend core idx s
  | .fabricWriteArrival p => Sys2Proof.Machine.execFabricWriteArrival p s
  | .fabricAckArrival a => Sys2Proof.Machine.execFabricAckArrival a s
  | .rateRecovery core slot => Sys2Proof.Machine.execRateRecovery core slot s
  | .retransmit die dev seq port => Sys2Proof.Machine.execRetransmit die dev seq port s
  | .putStatusUnknown die dev seq => Sys2Proof.Machine.execPutStatusUnknown die dev seq s
  | .sequenceReportSend die dev => Sys2Proof.Machine.execSequenceReportSend die dev s
  | .sequenceReportArrival port srcdie peer hi window => Sys2Proof.Machine.execSequenceReportArrival port srcdie peer hi window s
  | .sequenceClose die srcdie srcdev => Sys2Proof.Machine.execSequenceClose die srcdie srcdev s
  | .creditUpdateSend port => Sys2Proof.Machine.execCreditUpdateSend port s
  | .creditUpdateArrival port control sent freed => Sys2Proof.Machine.execCreditUpdateArrival port control sent freed s
  | .msgArrival p => Sys2Proof.Machine.execMsgArrival p s
  | .msgRetry core idx => Sys2Proof.Machine.execMsgRetry core idx s
  | .msgSilenceTimeout die dev seq => Sys2Proof.Machine.execMsgSilenceTimeout die dev seq s
  | .closeNoticeArrival port srcdie peer seq => Sys2Proof.Machine.execCloseNoticeArrival port srcdie peer seq s
  | .getRequestServe r => Sys2Proof.Machine.execGetRequestServe r s
  | .peerLinkLoss dev => Sys2Proof.Machine.execPeerLinkLoss dev s
  | .peerRejoin dev inc => Sys2Proof.Machine.execPeerRejoin dev inc s
  | .portBringup port ver feat win devid => Sys2Proof.Machine.execPortBringup port ver feat win devid s
  | .clockDrift die => Sys2Proof.Machine.execClockDrift die s
  | .ldcmdLoad value plan => Sys2Proof.Machine.execLdcmdLoad value plan s
  | .ldcmdRestore value ok => Sys2Proof.Machine.execLdcmdRestore value ok s
  | .ckcmdCheckpoint value => Sys2Proof.Machine.execCkcmdCheckpoint value s
  | .checkpointBegin => Sys2Proof.Machine.execCheckpointBegin s
  | .checkpointQuiesced => Sys2Proof.Machine.execCheckpointQuiesced s
  | .checkpointStreamDone => Sys2Proof.Machine.execCheckpointStreamDone s
  | .attestation value => Sys2Proof.Machine.execAttestation value s
  | .mbverSelect value => Sys2Proof.Machine.execMbverSelect value s
  | .fabwinWrite value => Sys2Proof.Machine.execFabwinWrite value s
  | .logCountClear die log => Sys2Proof.Machine.execLogCountClear die log s
  | .killcntClear die => Sys2Proof.Machine.execKillcntClear die s
  | .mcpop die => Sys2Proof.Machine.execMcpop die s
  | .registerWrite die off value => Sys2Proof.Machine.execRegisterWrite die off value s
  | .serviceMachineCheck die => Sys2Proof.Machine.execServiceMachineCheck die s
  | .serviceInterrupt die => Sys2Proof.Machine.execServiceInterrupt die s
  | .powerOnReset => Sys2Proof.Machine.execPowerOnReset s
  | .computeDieReset => Sys2Proof.Machine.execComputeDieReset s
  | .portReset port => Sys2Proof.Machine.execPortReset port s
  | .powerSample watts => Sys2Proof.Machine.execPowerSample watts s
  | .clockStep => Sys2Proof.Machine.execClockStep s
  | .thermalHold => Sys2Proof.Machine.execThermalHold s
  | .thermalTrip => Sys2Proof.Machine.execThermalTrip s
  | .bootImageCheck die image => Sys2Proof.Machine.execBootImageCheck die image s
  | .stagedImageCheck die len => Sys2Proof.Machine.execStagedImageCheck die len s
  | .cxlMemAccess a => Sys2Proof.Machine.execCxlMemAccess a s
  | .cxlMemDuringReset a => Sys2Proof.Machine.execCxlMemDuringReset a s
  | .cxlCacheAccess a => Sys2Proof.Machine.execCxlCacheAccess a s
  | .illegalInstruction w => Sys2Proof.Machine.execIllegalInstruction w s
  | .instructionFetchFault code detail => Sys2Proof.Machine.execInstructionFetchFault code detail s
  | .haloStallLimit cid => Sys2Proof.Machine.execHaloStallLimit cid s
  | .visibilityWindowBegin => Sys2Proof.Machine.execVisibilityWindowBegin s
  | .clockDriftRecovery => Sys2Proof.Machine.execClockDriftRecovery s
  | .thermalHoldRelease => Sys2Proof.Machine.execThermalHoldRelease s
  | .tierIslandPowerLoss die => Sys2Proof.Machine.execTierIslandPowerLoss die s
  | .portLinkFailure port => Sys2Proof.Machine.execPortLinkFailure port s

end Sys2Proof.Machine
end

