-- ==== Sys2Proof/Machine/Late.lean ====
section
/-! DEFINITION. The same dispatch for `LateInstr`, which the decoder builds (see `Sys2Proof.LateInstr`). -/

namespace Sys2Proof.Machine

open Sys2Proof

/-- What an instruction of majors 0x22 to 0x26 with operands does: `exec` of the instruction it stands for. -/
def execLate (l : LateInstr) (s : State) : Out :=
  match l with
  | .rnew d a c sa sp => Sys2Proof.Machine.execRnew d a c sa sp s
  | .rdel b c => Sys2Proof.Machine.execRdel b c s
  | .rld a b c sa acq => Sys2Proof.Machine.execRld a b c sa acq s
  | .rst d a b c sa rel => Sys2Proof.Machine.execRst d a b c sa rel s
  | .rloc d b c => Sys2Proof.Machine.execRloc d b c s
  | .qbox d a b c sa sp => Sys2Proof.Machine.execQbox d a b c sa sp s
  | .qrad d a b c sa sp => Sys2Proof.Machine.execQrad d a b c sa sp s
  | .gld d a b c sa g => Sys2Proof.Machine.execGld d a b c sa g s
  | .gst d a b c sa g => Sys2Proof.Machine.execGst d a b c sa g s
  | .gstep c g => Sys2Proof.Machine.execGstep c g s
  | .put k => Sys2Proof.Machine.execPut k s
  | .get k => Sys2Proof.Machine.execGet k s
  | .msg d a b c => Sys2Proof.Machine.execMsg d a b c s
  | .recv d a sa nb => Sys2Proof.Machine.execRecv d a sa nb s
  | .pub d a b c sb cw ds => Sys2Proof.Machine.execPub d a b c sb cw ds s
  | .rblk d => Sys2Proof.Machine.execRblk d s
  | .rblkSet a b => Sys2Proof.Machine.execRblkSet a b s
  | .baddq ty a b c sa sb => Sys2Proof.Machine.execBaddq ty a b c sa sb s
  | .sset a sa sb => Sys2Proof.Machine.execSset a sa sb s
  | .ssetT a sa sb => Sys2Proof.Machine.execSsetT a sa sb s
  | .tlbinv wb d a b c => Sys2Proof.Machine.execTlbinv wb d a b c s
  | .gtw a sa g => Sys2Proof.Machine.execGtw a sa g s
  | .pbind gd a sa n => Sys2Proof.Machine.execPbind gd a sa n s
  | .pbindU gd n => Sys2Proof.Machine.execPbindU gd n s
  | .crange clr a b k => Sys2Proof.Machine.execCrange clr a b k s
  | .spawn d a sa rel => Sys2Proof.Machine.execSpawn d a sa rel s
  | .iupd d a b k => Sys2Proof.Machine.execIupd d a b k s
  | .ird d a k => Sys2Proof.Machine.execIrd d a k s
  | .bar a => Sys2Proof.Machine.execBar a s
  | .sstep d a => Sys2Proof.Machine.execSstep d a s
  | .dset d a b => Sys2Proof.Machine.execDset d a b s
  | .ddec d a b => Sys2Proof.Machine.execDdec d a b s

end Sys2Proof.Machine
end

