-- ==== Sys2Proof/Machine/Step.lean ====
section
/-! DEFINITION. One step of the machine (R23, R88, R104, R402): the turn that the agenda names, or the next instruction of the focused
core, or an event that is due, or time (log 1). -/

namespace Sys2Proof.Machine

open Sys2Proof

/-- Is a constructor of `Instr` a row of the table that no word encodes, other than the two faults of a fetch? -/
def isEvent (i : Instr) : Bool :=
  match i with
  | .illegalInstruction _ => false
  | .instructionFetchFault _ _ => false
  | _ => (encode i).isEmpty

/-- The address space of an instruction fetch (R355, R395). -/
def State.fetchAsid (s : State) (m : Image) : Nat := if m.prv then 0 else s.rasid.toNat

/-- The fetch block of the pc (R72): its first byte. -/
def blockOf (pc : Nat) : Nat := pc / 32 * 32

/-- The fetch of the block at the pc (R88 check 1, R179, R360): the parcels from the pc to the block's end, or the code and DATA of the
fault. What a leaf that leads to no memory gives is open (log 19). -/
def State.fetch (s : State) (core : Nat) (m : Image) : State × Except (Nat × Nat) (List (BitVec 32)) :=
  match s.translate core (s.fetchAsid m) (blockOf m.pc.toNat) .fetch with
  | (s1, .error e) => (s1, .error (cFetch, e))
  | (s1, .ok pa) =>
    if kindOfPa pa = 0 then (s1, .error (cFetch, Config.fetchDetail pa))
    else
      let d := coreDie core
      match s1.readHome d pa 32 with
      | (s2, none) => (s2.reportBad none d pa 32 core, .error (cUncorr, s2.badCode none d pa 32))
      | (s2, some bs) => (s2, .ok (parcelsOf (bs.drop (m.pc.toNat % 32))))

/-- Run what the decoder has built. -/
def runCode (c : Code) (s : State) : Out :=
  match c with
  | .core i => exec i s
  | .late l => execLate l s

/-- The early loads of the focused core that an instruction leaves standing (log 89). -/
def State.keepEarly (s : State) (c : Code) : State := if keepsEarly c then s else s.dropEarly s.here

/-- Fetch, decode and run the next instruction of the focused core (R88): one that passes checks 1 to 6 has its image lines before it runs (R103). -/
def State.runNext (s : State) : Out :=
  match s.active? with
  | none => .next s
  | some (cid, c) =>
    match s.fetch s.here c.img with
    | (s1, .error e) => execInstructionFetchFault e.1 e.2 s1
    | (s1, .ok ps) =>
      if c.img.pc.toNat % 4 ≠ 0 then execIllegalInstruction .crossing s1
      else
        match decodeAt (c.img.pc.toNat % 32) ps with
        | .ok r =>
          let s1 := s1.keepEarly r.1
          if failsEarly r.1 c.img then runCode r.1 s1
          else (match s1.useLines s1.here cid (codeLines r.1 c.img) with
           | (s2, none) => runCode r.1 s2
           | (s2, some e) => execInstructionFetchFault cUncorr e s2)
        | .error w => execIllegalInstruction w s1

/-- May a core have a turn: has it an active context that is ready, is the die not stopped by a checkpoint (R422), is the context not
being pre-empted, and has no ring entry of it failed (R107, R402 step 1)? A trap that is pending is taken all the same (R400), and a `tlbinv` that
has begun goes on (R363). -/
def State.mayIssue (s : State) (core : Nat) : Bool :=
  match s.activeCid core with
  | none => false
  | some cid =>
    match s.ctx? cid with
    | none => false
    | some c =>
      c.ready &&
        (s.inTlbinv core ||
          ((isService core || !(s.die (coreDie core)).paused) && (c.leaving.isNone || s.owes core cid || (s.core core).holding) &&
            (c.late.isSome || !(c.ring.any fun e => match e.phase with | .faulted _ => true | _ => false))))

/-- The trap that a service core takes at its next instruction boundary (R408, R409): code 32 on core 0 of a complex, code 33 on core 1. -/
def State.serviceDue (s : State) : Option State :=
  let d := coreDie s.here
  if !isService s.here || s.busyCore s.here then none
  else if s.here = Config.allCores + 4 * d then
    if (s.die d).mcq.isEmpty || (s.core s.here).mcHeld then none else some (s.serviceMc d)
  else if s.here = Config.allCores + 4 * d + 1 then
    if (s.die d).causes.isEmpty || (s.core s.here).svHeld then none else some (s.serviceInt d)
  else none

/-- A turn of the focused core: a checkpoint that is due begins first (R422), then a service trap (R408), then a fairness switch (R106), then a pending trap (R400),
then the next instruction. -/
def State.issue (s : State) : Out :=
  if s.ckDue then .next s.ckBegin
  else if let some t := s.serviceDue then .next t
  else if s.fairDue s.here then .next (s.switchCore s.here)
  else if (s.pendingTrap s.here).isSome && !s.busyCore s.here then .next (s.takePending s.here)
  else s.runNext

/-- A turn of a core, which becomes the focus. -/
def State.coreTurn (s : State) (core : Nat) : Out :=
  if s.mayIssue core then ({ s with here := core, stalled := false }).issue else .next s

/-- Time passes by `n` cycles of the core clock (R102, R334). -/
def State.elapse (s : State) (n : Nat) : State := s.pass n (n * 1000000 / s.clk)

/-- What a turn does. A turn that names an instruction, or a core that may not issue, does nothing. -/
def runTurn (t : Turn) (s : State) : Out :=
  match t with
  | .core c => s.coreTurn c
  | .event i => if isEvent i then exec i { s with stalled := false } else .next s
  | .elapse n => .next (s.elapse n)
  | .write d off v => .next (if d < Config.dies ∧ off < mgmtBytes then s.writeReg d (off / 8 * 8) v else s)
  | .call cid => .next (s.finishCall cid)
  | .record d grove core src code info => .next (s.appendRecord d grove core src code info)
  | .stage off bs => .next (s.stage off bs)
  | .load plan => .next (s.carryOn plan)
  | .reopen => .next s.reopenTier
  | .land grove cmd idx => .next (s.landPayload grove cmd idx)
  | .early core cid seg off n => .next (s.loadEarly core cid seg off n)

/-- The events that may be due for a ring entry of a context on a core. -/
def entryMoves (core cid : Nat) (e : RingEntry) : List (State → Out) :=
  let q := e.seq.toNat
  let exchange := match vmaxxW e.instr with
    | some w => (participants core w).map fun p => execVmaxxContribution core p e.k
    | none => []
  exchange ++ [execRingEntryComplete cid q, execLateFault cid q, execExchangeTimeout cid q, execEngineAccept cid q, execMldbAccept cid q,
    execMatrixAccept cid q]

/-- The events that may be due for a context. One that waits for an access is left to the passing of time (log 4). -/
def ctxMoves (cid : Nat) (c : Ctx) : List (State → Out) :=
  match c.core? with
  | none => []
  | some core =>
    (match c.wait with | some .access => [] | some .halo => [execHaloStallLimit cid] | some _ => [execContextReady cid] | none => []) ++
      c.ring.flatMap (entryMoves core cid) ++ [execPreemption cid]

/-- The events that may be due for an engine command. -/
def engineMoves (g : Nat) (c : EngCmd) : List (State → Out) :=
  (c.flight.map fun f => execChunkAck g c.id f.num) ++
    (c.elems.flatMap fun p => p.2.pieces.filterMap fun q => if q.done then none else some (execAgentGroupAccess g c.id ⟨q.pa / 32, none⟩)) ++
    (c.members.map fun m => execDfillMemberDelivery g c.id m) ++
    (if c.pending.isEmpty then [] else [fun s => .next (s.landPayload g c.id 0)]) ++
    [execChunkIssue g c.id, execGatherElement g c.id c.elems.length, execPackedLineReturn g c.id c.lines.length, execSpwalkRow g c.id,
     execMergeResult g c.id, execEngineCompletion g c.id]

/-- The events that may be due in a grove. -/
def groveMoves (g : Nat) (v : Grove) : List (State → Out) :=
  v.eng.flatMap (engineMoves g) ++
    (if v.mat.queue.isEmpty then []
     else (List.range 8).flatMap fun i => [execCoopSlotClaim g (8 * g + i), execBankLoadComplete g (8 * g + i)]) ++
    [execMigrationLoadComplete g, execMatrixStep g, execBankRestore g 0, execBankRestore g 1, execBankRestore g 2, execBankRestore g 3]

/-- The events that may be due on a die. -/
def dieMoves (d : Nat) (v : Die) : List (State → Out) :=
  (v.pool.map fun e => execAgingPromotion d e.id) ++
    [execTaskDispatch d, execServiceMachineCheck d, execServiceInterrupt d, execRwaysReconfiguration d]

/-- The events that may be due for an incumbent. -/
def State.incumbentMoves (s : State) (k : BitVec 3) : List (State → Out) :=
  (if (s.incumbent k).busy then [execIncumbentReinitDone k] else []) ++
    ((List.range Config.dies).filterMap fun d =>
      if (s.nextImprovement (poolAgent d) k).isSome then some (execShadowUpdate (.pool d) k) else none) ++
    s.cores.keys.filterMap fun c => if (s.nextImprovement c k).isSome then some (execShadowUpdate (.core c) k) else none

/-- The events that may be due for what a die has sent to a device (R337, R338). -/
def sendMoves (key : Nat) (q : SendSeq) : List (State → Out) :=
  (q.waits.flatMap fun w =>
    [execRetransmit (key / 16384) (key % 16384) w.packet.seq 0, execPutStatusUnknown (key / 16384) (key % 16384) w.packet.seq]) ++
    q.closes.map fun c => execRetransmit (key / 16384) (key % 16384) (2 ^ 32 + c.seq.toNat) 0

/-- The events that may be due for an injection queue (R302, R335, R347). -/
def injMoves (core : Nat) (c : Core) : List (State → Out) :=
  c.inj.zipIdx.flatMap fun p =>
    execInjectionSend core p.2 ::
      (match p.1 with
       | .msg m =>
         (match m.seq with
          | some q => [execMsgRetry core p.2, execMsgSilenceTimeout (coreDie core) (epDev m.dst) q.toNat]
          | none => [])
       | .xfer _ => [])

/-- The close notices of the module to itself (R347). -/
def State.ownCloses (s : State) : List CloseNotice :=
  s.sends.flatMap fun p =>
    if p.1 % 16384 = s.ownDev then
      p.2.closes.map fun c =>
        { srcDie := p.1 / 16384, srcDev := s.ownDev, srcInc := s.incarnation, dstInc := s.incarnation, seq := c.seq.toNat, port := 0 }
    else []

/-- The fabric events that may be due (R335 to R347). -/
def State.fabricMoves (s : State) : List (State → Out) :=
  s.cores.flatMap (fun p => injMoves p.1 p.2) ++
    ((List.range s.packets.length).map fun i => execFabricWriteArrival (.own i)) ++
    s.answers.map execFabricAckArrival ++
    ((List.range s.gets.length).map fun i => execGetRequestServe (.own i)) ++
    ((List.range s.msgs.length).map fun i => execMsgArrival (.own i)) ++
    (s.reports.map fun r => execSequenceReportArrival r.port r.srcDie ⟨r.srcDev, r.srcInc, r.dstInc⟩ r.hi r.window) ++
    (s.ownCloses.map fun n => execCloseNoticeArrival n.port n.srcDie ⟨n.srcDev, n.srcInc, n.dstInc⟩ n.seq) ++
    (s.recvs.keys.map fun k => execSequenceClose 0 (k % 8) (k / 8)) ++
    s.sends.flatMap (fun p => sendMoves p.1 p.2) ++
    (s.xfers.map fun x => execPutStatusUnknown (coreDie x.core) 0 (2 ^ 32 + x.id)) ++
    s.cores.flatMap fun p => p.2.rate.keys.map fun k => execRateRecovery p.1 k

/-- The halo and record events that may be due (R246, R266, R381). -/
def State.groupMoves (s : State) : List (State → Out) :=
  ((List.range (s.grids.foldl (fun n p => n + p.2.held.length) 0)).map fun i => execHaloPartSend i) ++
    ((List.range s.halos.length).map fun i => execHaloPartArrival i) ++
    s.groups.keys.flatMap fun g => [execSyncEpisode g, execSuperstepBoundary g, execStepCounterIncrement g]

/-- The events that may be due in a state without an agenda (log 1): the first of them that changes the state happens. -/
def State.moves (s : State) : List (State → Out) :=
  [execFirmwareLoad, execCheckpointBegin, execCheckpointQuiesced, execCheckpointStreamDone] ++
    s.ctxs.flatMap (fun p => ctxMoves p.1 p.2) ++
    s.groves.flatMap (fun p => groveMoves p.1 p.2 ++ (p.2.eng.map fun c => execTlbinvAgentReply p.1 c.id)) ++
    ((List.range s.dfrees.length).map fun i => execDfreeArrival i) ++
    s.groupMoves ++
    (List.range 8).flatMap (fun k => s.incumbentMoves (BitVec.ofNat 3 k)) ++
    s.dies.flatMap (fun p => dieMoves p.1 p.2) ++
    (s.mboxes.keys.map fun m => execMailboxSpawn m) ++
    s.fabricMoves

/-- The state after an event, if it changes the state. -/
def State.after (s : State) (f : State → Out) : Option State :=
  match f s with
  | .next t => if t = s then none else some t
  | _ => none

/-- Time passes because nothing else can happen (log 1): 64 cycles, after which the accesses and halo cells that contexts wait for may be
there (R104). -/
def State.idle (s : State) : State :=
  let t := s.elapse 64
  let waiting := t.ctxs.filter fun p => p.2.wait == some .access || p.2.wait == some .halo
  { t.makeAllReady (waiting.map Prod.fst) with stalled := false }

/-- What happens when the focused core cannot go on: an event that is due, the turn of another core, or time. -/
def State.background (s : State) : Out :=
  match s.moves.findSome? s.after with
  | some t => .next { t with stalled := false }
  | none =>
    match s.cores.keys.find? fun k => k != s.here && s.mayIssue k with
    | some k => s.coreTurn k
    | none => .next s.idle

/-- One step (log 1): the agenda's next turn; without an agenda the focused core goes on while it can, and else what is due. -/
def step (s : State) : Host.Outcome State Fault Refusal :=
  match s.agenda with
  | t :: rest => runTurn t { s with agenda := rest }
  | [] => if s.mayIssue s.here && !s.stalled then s.issue else s.background

/-- Does the focused core fetch its next instruction in the next step, and from which physical address? -/
def State.fetchPa (s : State) : Option Nat :=
  match s.active? with
  | none => none
  | some (_, c) =>
    let pc := c.img.pc.toNat
    if !s.agenda.isEmpty || s.stalled || !s.mayIssue s.here || s.ckDue || s.fairDue s.here || (s.pendingTrap s.here).isSome ||
        s.serviceDue.isSome ||
        decide (20 < pc % 32) || pc % 4 != 0 then none
    else
      match s.translate s.here (s.fetchAsid c.img) (blockOf pc) .fetch with
      | (_, .error _) => none
      | (_, .ok pa) => if kindOfPa pa = 0 || s.badAt (coreDie s.here) pa 32 || (s.imageAt? pa).isSome then none else some (pa + pc % 32)

/-- The task that a load and a dispatch leave on core 0 of die 0 (R416, R417), at virtual address 0x10000. -/
def loadedCtx : Ctx :=
  let task : TaskInfo := { cls := 0, place := 0, placeArg := 0, srch := false, inc := 0, signal := none, elig := 0, promo := 0 }
  { Ctx.start { Image.zero with pc := 0x10000, dep := 1#64 <<< 63 } 0 task with where_ := .slot 0 0 }

/-- The machine with a task loaded from outside (log 20): the start task runs on core 0, and a 1 GiB page of `rasid.ASID` maps virtual
address 0 to physical address 0 through tables at 0x2000, 0x3000 and 0x4000 (R359). -/
def State.loaded (s : State) : State :=
  let c := s.core 0
  let s1 : State := { s with
    agenda := [], here := 0, stalled := false, ptroot := s.ptroot.set s.rasid.toNat 0x2001#64
    bad := s.bad.filter fun q => !([0x100, 0x180, 0x200, 0x800].contains q), badSram := [], ranges := [], ckPhase := 0, cksts := 0 }
  let s2 := (s1.setCtx 0 loadedCtx).setCore 0 { c with
    slots := c.slots.set 0 (some 0), active := some 0, last := 0, issue := 0, utlb := [] }
  let s3 := (s2.setGrove 0 { s2.grove 0 with tlb := [] }).setDie 0 { s2.die 0 with paused := false, imgCount := 0, rgarea := 0 }
  { s3 with invals := s3.invals.erase 0, combine := [] }

/-- The state with an instruction of `nbits` bits placed where the next step fetches: at the focused core's pc, or, when no core is at an
instruction, as the first instruction of a loaded task (log 20). -/
def State.withFetchWord (s : State) (nbits w : Nat) : State :=
  match s.fetchPa with
  | some pa => s.homeWrite pa (tableBytes nbits w)
  | none =>
    (((s.loaded.homeWrite 0x2000 (leBytes 8 0x3001)).homeWrite 0x3000 (leBytes 8 0x4001)).homeWrite 0x4000 (leBytes 8 0x1F)).homeWrite
      0x10000 (tableBytes nbits w)

end Sys2Proof.Machine
end

