-- ==== Sys2Proof/Safety.lean ====
section
/-! DEFINITION. What counts as a safe run, and the terms that claims use: an active context that is free to execute, the outcome of an
instruction that commits, the memory that an agent sees, the canonical form of memory. -/

namespace Sys2Proof.Machine

open Sys2Proof

/-- Context `cid` is the active one of the core whose turn it is, and is `c`. -/
def State.At (s : State) (cid : Nat) (c : Ctx) : Prop := s.active? = some (cid, c)

/-- No prefix is pending, and no older ring entry has still to write one of the registers (R83, R113). -/
def Ctx.Free (c : Ctx) (rs : List Reg) : Prop := c.img.pp = false ∧ interlocked c.ring rs = false

/-- `At` and `Free` together: what every unprivileged instruction without a prefix needs. -/
def State.Ready (s : State) (cid : Nat) (c : Ctx) (rs : List Reg) : Prop := s.At cid c ∧ c.Free rs

/-- The outcome of an instruction that commits with an image, in a state that its effect has left. -/
def State.goes (s : State) (cid : Nat) (m : Image) : Out := .next (s.commit cid m)

/-- The outcome of an instruction that takes a trap; `epc` is the instruction's own address. -/
def State.traps (s : State) (cid : Nat) (c : Ctx) (f : FaultRec) : Out := .next (s.takeTrap cid s.here f c.img.pc)

/-- What an integer condition code means (R76): signed for lt, ge, gt and le, natural for ltn, gen, gtn and len. -/
def ccMeans (cc : IntCc) (x y : Word) : Bool :=
  match cc with
  | .eq => decide (x = y)
  | .ne => decide (x ≠ y)
  | .lt => decide (x.toInt < y.toInt)
  | .ge => decide (y.toInt ≤ x.toInt)
  | .gt => decide (y.toInt < x.toInt)
  | .le => decide (x.toInt ≤ y.toInt)
  | .ltn => decide (x.toNat < y.toNat)
  | .gen => decide (y.toNat ≤ x.toNat)
  | .gtn => decide (y.toNat < x.toNat)
  | .len => decide (x.toNat ≤ y.toNat)

/-- A step that goes on: it ends in no fault and no refusal. -/
def State.GoesOn (s : State) : Prop := ∃ t, step s = .next t

/-- A safe run of n steps: no step of it stops. -/
def State.SafeFor (s : State) (n : Nat) : Prop :=
  match n with
  | 0 => True
  | k + 1 => ∃ t, step s = .next t ∧ State.SafeFor t k

/-- All memory of a state is in its canonical form: behind the homes, in the staging area, in every grove's banks. -/
def State.Canonical (s : State) : Prop :=
  s.dram.wf = true ∧ s.staging.wf = true ∧ ∀ p ∈ s.groves, p.2.cluster.wf = true

/-- A checkpoint holds memory in canonical form, and of HBM only (R423). -/
def Checkpoint.Canonical (k : Checkpoint) : Prop :=
  k.dram.wf = true ∧ (∀ c ∈ k.dram, c.1 < Config.hbmBytes) ∧ ∀ p ∈ k.groves, p.2.cluster.wf = true

/-- The invariant of memory: canonical now, and canonical in every checkpoint that a restore may bring back. -/
def State.MemInv (s : State) : Prop := s.Canonical ∧ ∀ k ∈ s.saves, k.Canonical

/-- All memory of two states is the same: behind the homes, in the slices, in every grove (L1 and banks), in the combine buffers. -/
def State.SameMemory (s t : State) : Prop :=
  t.dram = s.dram ∧ t.slice = s.slice ∧ t.groves = s.groves ∧ t.combine = s.combine ∧ t.staging = s.staging

/-- Nothing that a context, a memory or a unit holds differs: two states agree on everything but the contexts and cores. -/
def State.SameUnits (s t : State) : Prop :=
  s.SameMemory t ∧ t.dies = s.dies ∧ t.proxies = s.proxies ∧ t.waiting = s.waiting ∧ t.records = s.records ∧ t.bad = s.bad ∧
    t.ways = s.ways ∧ t.badSram = s.badSram ∧ t.ranges = s.ranges ∧ t.incumbents = s.incumbents ∧ t.shadows = s.shadows ∧ t.groups = s.groups ∧ t.spaces = s.spaces ∧
    t.grids = s.grids ∧ t.halos = s.halos ∧ t.xfers = s.xfers ∧ t.packets = s.packets ∧ t.msgs = s.msgs ∧ t.gets = s.gets ∧
    t.ptroot = s.ptroot ∧ t.mboxes = s.mboxes ∧ t.now = s.now ∧ t.agenda = s.agenda

/-- No sector of memory and no place in SRAM holds uncorrectable data (R179). -/
def State.Sound (s : State) : Prop := s.bad = [] ∧ s.badSram = []

/-- No line of a register cache holds uncorrectable data (R179). -/
def State.RegsSound (s : State) : Prop := ∀ (core cid line : Nat), SramSite.regs core cid line ∉ s.badSram

/-- The banks of one grove may differ, with the bad sectors of them that were written whole (R179) and what their watches wake (R166, R191);
all else is the same. -/
def State.OnlyBanks (s t : State) (g : Nat) : Prop :=
  t = { s with groves := t.groves, ctxs := t.ctxs, cores := t.cores, badSram := t.badSram } ∧ (∀ p ∈ t.badSram, p ∈ s.badSram) ∧
    (∀ h, h ≠ g → t.grove h = s.grove h) ∧ t.grove g = { s.grove g with cluster := (t.grove g).cluster }

/-- Two cores differ in their event counters, their issue count and their stall only (R102, R106, R405). -/
def Core.SameBut (a b : Core) : Prop := { b with pmc := a.pmc, issue := a.issue, holding := a.holding } = a

/-- The byte of a physical address as the cores of a grove see it: the L1's byte where it is valid, else the home's (R165). -/
def State.seen (s : State) (g pa : Nat) : Byte :=
  match (s.grove g).line? (lineOf pa) with
  | some l => if l.valid.getLsbD (pa % 128) then lineByte l.data (pa % 128) else s.homeByte pa
  | none => s.homeByte pa

/-- No partial of a commutative range waits on a line: no sum at its home, no update-only copy (R171, R173). -/
def State.Plain (s : State) (line : Nat) : Prop :=
  s.comb? line = none ∧ ∀ g l, (s.grove g).line? line = some l → l.upd = none

/-- No byte of a range is a word of a mailbox index, whose HEAD a home watches (R325). -/
def State.NoHeads (s : State) (pa n : Nat) : Prop := ∀ p ∈ s.dies, ∀ a, p.2.mbArea = some a → pa + n ≤ a.2 ∨ a.2 + 65536 ≤ pa

/-- A range within a line is plain memory: no partial waits on the line (R171, R173), and no byte is of an image (R94), of a mailbox index
(R325) or of the management space (R410). -/
def State.PlainRange (s : State) (pa n : Nat) : Prop :=
  s.Plain (lineOf pa) ∧ pa % 128 + n ≤ 128 ∧ mgmtAt? pa = none ∧ (∀ k, k < n → s.imageAt? (pa + k) = none) ∧ s.NoHeads pa n

/-- A grove L1 takes a line without an eviction: it holds the line, or fewer than eight others of its set (R165). -/
def State.HasRoom (s : State) (g line : Nat) : Prop :=
  ((s.grove g).line? line).isSome = true ∨
    ((s.grove g).l1.filter fun l => l.line % 64 == line % 64 && l.line != line).length < 8

/-- A context may dispatch a command into the ring: a slot is free among the core's 64 (R11, R141), and it holds the vector registers it names
(R108). -/
def State.Room (s : State) (c : Ctx) (vs : List Reg) : Prop := (s.coreRing s.here).length < 64 ∧ c.img.badV vs = none

/-- The outcome of a dispatch (R141): the entry with its captured operands joins the ring, the dispatch is counted, the instruction
commits. -/
def State.dispatched (s : State) (cid : Nat) (c : Ctx) (i : Instr) (len : Nat) : Out :=
  ((s.pushRing cid (mkEntry s c i 0)).count s.here c.img.prv 3 1).goes cid (c.img.next len)

/-- The bytes of an access by their physical addresses, dealt to its parts in order. -/
def partCells (ps : List (Nat × Nat)) (bs : List Byte) : List (Nat × Byte) :=
  match ps with
  | [] => []
  | (pa, n) :: rest => ((bs.take n).zipIdx.map fun b => (pa + b.2, b.1)) ++ partCells rest (bs.drop n)

/-- The flags of the active lanes, ORed. -/
def laneFlags (m : Image) (k : Mask) (f : Nat → BitVec 32 × FFlags) : FFlags :=
  ((List.range 16).filter (activeLane m k)).foldl (fun acc i => acc ||| (f i).2) 0#5

/-- One image is another with vector register d written lane by lane under a mask (R90, R142), the flags of the active lanes ORed, and
nothing else changed. -/
def LaneWise (m n : Image) (k : Mask) (d : Reg) (f : Nat → BitVec 32 × FFlags) : Prop :=
  (∀ i, i < 16 → lane (n.getV d) i = if activeLane m k i then (f i).1 else if maskZ k then 0 else lane (m.getV d) i) ∧
  (∀ r, r ≠ d → n.getV r = m.getV r) ∧ n.fpflags = m.fpflags ||| (laneFlags m k f).setWidth 64 ∧
  n = { m with v := n.v, fpflags := n.fpflags }

/-- The same with no flag. -/
def BitsWise (m n : Image) (k : Mask) (d : Reg) (f : Nat → BitVec 32) : Prop :=
  (∀ i, i < 16 → lane (n.getV d) i = if activeLane m k i then f i else if maskZ k then 0 else lane (m.getV d) i) ∧
  (∀ r, r ≠ d → n.getV r = m.getV r) ∧ n = { m with v := n.v }

end Sys2Proof.Machine
end

