-- ==== Sys2Proof/Certificates/Slice0/Obligations.lean ====
section
/-! DEFINITION. What is claimed of the machine: the statements for the provers. -/

open Sys2Proof Sys2Proof.Machine

/-- Free to execute, each two-operand integer instruction answers a next state: it commits with X(d) holding the result of R115 and
R116 for X(a) and X(b) (division by zero and the most negative quotient among them) and the pc four bytes on. (R115, R116) -/
def Obligations.IntegerRegisterResults : Prop :=
  ∀ (s : State) (cid : Nat) (c : Ctx) (d a b : Reg), s.Ready cid c [d, a, b] →
    let x := c.img.getX a
    let y := c.img.getX b
    let n := y.toNat % 64
    let gives := fun v : Word => s.goes cid ((c.img.setX d v).next 4)
    exec (.add d a b) s = gives (x + y) ∧
    exec (.sub d a b) s = gives (x - y) ∧
    exec (.mul d a b) s = gives (x * y) ∧
    exec (.mulh d a b) s = gives (BitVec.ofInt 64 (x.toInt * y.toInt / 2 ^ 64)) ∧
    exec (.mulhn d a b) s = gives (BitVec.ofNat 64 (x.toNat * y.toNat / 2 ^ 64)) ∧
    exec (.div d a b) s = gives (if y = 0 then BitVec.allOnes 64 else x.sdiv y) ∧
    exec (.divn d a b) s = gives (if y = 0 then BitVec.allOnes 64 else x / y) ∧
    exec (.rem d a b) s = gives (if y = 0 then x else x.srem y) ∧
    exec (.remn d a b) s = gives (if y = 0 then x else x % y) ∧
    exec (.and_ d a b) s = gives (x &&& y) ∧
    exec (.or_ d a b) s = gives (x ||| y) ∧
    exec (.xor_ d a b) s = gives (x ^^^ y) ∧
    exec (.andn d a b) s = gives (x &&& ~~~y) ∧
    exec (.sll d a b) s = gives (x <<< n) ∧
    exec (.srl d a b) s = gives (x >>> n) ∧
    exec (.sra d a b) s = gives (x.sshiftRight n) ∧
    exec (.rol d a b) s = gives (x.rotateLeft n) ∧
    exec (.ror d a b) s = gives (x.rotateRight n) ∧
    exec (.min_ d a b) s = gives (if x.toInt ≤ y.toInt then x else y) ∧
    exec (.max_ d a b) s = gives (if x.toInt ≤ y.toInt then y else x) ∧
    exec (.minn d a b) s = gives (if x.toNat ≤ y.toNat then x else y) ∧
    exec (.maxn d a b) s = gives (if x.toNat ≤ y.toNat then y else x)

/-- Free to execute, clz and ctz count the zero bits above the highest and below the lowest 1, popc the 1 bits, set.cc writes the
truth of its condition, extn, ext and ins move the field of len bits at pos, and sel picks by X(c): each commits with that value
in X(d). (R115, R117) -/
def Obligations.BitCountFieldAndSelectResults : Prop :=
  ∀ (s : State) (cid : Nat) (c : Ctx) (d a b e : Reg), s.Ready cid c [d, a, b, e] →
    let x := c.img.getX a
    let y := c.img.getX b
    let gives := fun (len : Nat) (v : Word) => s.goes cid ((c.img.setX d v).next len)
    (∃ n, n ≤ 64 ∧ exec (.clz d a) s = gives 4 (BitVec.ofNat 64 n) ∧ (∀ k, k < n → x.getLsbD (63 - k) = false) ∧
      (n < 64 → x.getLsbD (63 - n) = true)) ∧
    (∃ n, n ≤ 64 ∧ exec (.ctz d a) s = gives 4 (BitVec.ofNat 64 n) ∧ (∀ k, k < n → x.getLsbD k = false) ∧
      (n < 64 → x.getLsbD n = true)) ∧
    exec (.popc d a) s = gives 4 (BitVec.ofNat 64 ((List.range 64).filter fun k => x.getLsbD k).length) ∧
    (∀ cc, exec (.setCc cc d a b) s = gives 4 (if ccMeans cc x y then 1 else 0)) ∧
    (∀ pos lenm1 : BitVec 6, pos.toNat + lenm1.toNat + 1 ≤ 64 →
      (∃ v, exec (.extn d a pos lenm1) s = gives 8 v ∧
        ∀ k, k < 64 → v.getLsbD k = (decide (k ≤ lenm1.toNat) && x.getLsbD (pos.toNat + k))) ∧
      (∃ v, exec (.ext d a pos lenm1) s = gives 8 v ∧
        ∀ k, k < 64 → v.getLsbD k = x.getLsbD (pos.toNat + min k lenm1.toNat)) ∧
      (∃ v, exec (.ins d a pos lenm1) s = gives 8 v ∧
        ∀ k, k < 64 → v.getLsbD k =
          if pos.toNat ≤ k ∧ k ≤ pos.toNat + lenm1.toNat then x.getLsbD (k - pos.toNat) else (c.img.getX d).getLsbD k)) ∧
    exec (.sel d a b e) s = gives 8 (if c.img.getX e = 0 then y else x)

/-- Free to execute, each immediate form, of 11 or 32 sign-extended bits or a shift count of 6, commits with the result for X(a) in
X(d); li writes the immediate, lih the upper half and keeps the lower, lpc the pc plus the offset modulo 2^56. (R118, R119) -/
def Obligations.ImmediateResults : Prop :=
  ∀ (s : State) (cid : Nat) (c : Ctx) (d a : Reg) (i : BitVec 11) (j : BitVec 32) (n : BitVec 6), s.Ready cid c [d, a] →
    let x := c.img.getX a
    let pc : Int := c.img.pc.toNat
    let near := fun v : Word => s.goes cid ((c.img.setX d v).next 4)
    let far := fun v : Word => s.goes cid ((c.img.setX d v).next 8)
    exec (.addImm d a i) s = near (x + BitVec.ofInt 64 i.toInt) ∧
    exec (.andImm d a i) s = near (x &&& BitVec.ofInt 64 i.toInt) ∧
    exec (.orImm d a i) s = near (x ||| BitVec.ofInt 64 i.toInt) ∧
    exec (.xorImm d a i) s = near (x ^^^ BitVec.ofInt 64 i.toInt) ∧
    exec (.mulImm d a i) s = near (x * BitVec.ofInt 64 i.toInt) ∧
    exec (.sllImm d a n) s = near (x <<< n.toNat) ∧
    exec (.srlImm d a n) s = near (x >>> n.toNat) ∧
    exec (.sraImm d a n) s = near (x.sshiftRight n.toNat) ∧
    exec (.addImmQ d a j) s = far (x + BitVec.ofInt 64 j.toInt) ∧
    exec (.andImmQ d a j) s = far (x &&& BitVec.ofInt 64 j.toInt) ∧
    exec (.orImmQ d a j) s = far (x ||| BitVec.ofInt 64 j.toInt) ∧
    exec (.xorImmQ d a j) s = far (x ^^^ BitVec.ofInt 64 j.toInt) ∧
    exec (.mulImmQ d a j) s = far (x * BitVec.ofInt 64 j.toInt) ∧
    exec (.sllImmQ d a n) s = far (x <<< n.toNat) ∧
    exec (.srlImmQ d a n) s = far (x >>> n.toNat) ∧
    exec (.sraImmQ d a n) s = far (x.sshiftRight n.toNat) ∧
    exec (.li d i) s = near (BitVec.ofInt 64 i.toInt) ∧
    exec (.liQ d j) s = far (BitVec.ofInt 64 j.toInt) ∧
    exec (.lih d j) s = far (BitVec.ofNat 64 (j.toNat * 2 ^ 32 + (c.img.getX d).toNat % 2 ^ 32)) ∧
    exec (.lpc d i) s = near (BitVec.ofNat 64 ((pc + i.toInt) % 2 ^ 56).toNat) ∧
    exec (.lpcQ d j) s = far (BitVec.ofNat 64 ((pc + j.toInt) % 2 ^ 56).toNat)

/-- Free to execute, a branch commits with the pc at pc + 4 off modulo 2^56 when its condition holds and at the next instruction
otherwise; loop decrements X(a) and branches while it is not 0; jal and jr write the address of the next instruction, modulo
2^56, to X(d), jr going to an aligned X(a) below 2^56 that is read before the link is written. (R114, R121, R122, R123, R124) -/
def Obligations.BranchAndJumpTargets : Prop :=
  ∀ (s : State) (cid : Nat) (c : Ctx) (d a b : Reg) (cc : IntCc) (o9 : BitVec 9) (o19 : BitVec 19) (o32 : BitVec 32),
    s.Ready cid c [d, a, b] →
    let m := c.img
    let x := m.getX a
    let pc : Int := m.pc.toNat
    let target := fun off : Int => BitVec.ofNat 64 ((pc + 4 * off) % 2 ^ 56).toNat
    let jump := fun (m : Image) (off : Int) => s.goes cid { m with pc := target off }
    let fall := fun (m : Image) (n : Nat) => s.goes cid (m.next n)
    let link := fun n : Nat => (BitVec.ofNat 64 ((m.pc.toNat + n) % 2 ^ 56) : Word)
    exec (.bCc cc a b o9) s = (if ccMeans cc x (m.getX b) then jump m o9.toInt else fall m 4) ∧
    exec (.bCcQ cc a b o32) s = (if ccMeans cc x (m.getX b) then jump m o32.toInt else fall m 8) ∧
    exec (.loop a o9) s = (if x - 1 = 0 then fall (m.setX a (x - 1)) 4 else jump (m.setX a (x - 1)) o9.toInt) ∧
    exec (.loopQ a o32) s = (if x - 1 = 0 then fall (m.setX a (x - 1)) 8 else jump (m.setX a (x - 1)) o32.toInt) ∧
    exec (.jal d o19) s = jump (m.setX d (link 4)) o19.toInt ∧
    exec (.jalQ d o32) s = jump (m.setX d (link 8)) o32.toInt ∧
    (x.toNat < 2 ^ 56 → x.toNat % 4 = 0 → exec (.jr d a) s = s.goes cid { m.setX d (link 4) with pc := x }) ∧
    (2 ^ 56 ≤ x.toNat → exec (.jr d a) s = s.traps cid c (operandFault m 0)) ∧
    (x.toNat < 2 ^ 56 → x.toNat % 4 ≠ 0 → exec (.jr d a) s = s.traps cid c (FaultRec.mk0 cMisInstr 0 x.toNat))

/-- With no prefix or one that names a rounding mode only, fadd, fsub, fmul, fdiv, fsqrt and fma commit with the exact result
rounded once under the mode in X(d), zero-extended, and the flags of the operation and of the rounding ORed into fpflags. (R125,
R126) -/
def Obligations.ScalarFloatResults : Prop :=
  ∀ (s : State) (cid : Nat) (c : Ctx) (d a b e : Reg), s.At cid c → pfxCheck c.img rmOnly = none →
    interlocked c.ring [d, a, b, e] = false →
    let m := c.img
    let rm := rmUnder m.rm m.pending?
    let v := fun r : Reg => valF32 ((m.getX r).setWidth 32)
    let gives := fun (len : Nat) (p : FV × FFlags) =>
      s.goes cid (((m.setX d ((roundF32 rm p.1).1.setWidth 64)).orFlags (p.2 ||| (roundF32 rm p.1).2)).next len)
    exec (.fadd d a b) s = gives 4 (FV.add rm (v a) (v b)) ∧
    exec (.fsub d a b) s = gives 4 (FV.add rm (v a) (v b).neg) ∧
    exec (.fmul d a b) s = gives 4 (FV.mul (v a) (v b)) ∧
    exec (.fdiv d a b) s = gives 4 (FV.div (v a) (v b)) ∧
    exec (.fsqrt d a) s = gives 4 (FV.sqrt (v a)) ∧
    exec (.fma d a b e) s = gives 8 (fmaVal rm (v a) (v b) (v e))

/-- Free to execute, fmin and fmax write the canonical NaN when an operand is NaN and else the operand with the smaller or larger
ordered key; fsgn, fsgnn and fsgnx take the sign of b, its inverse or the product of signs; fcmp.cc writes the truth of the
condition and sets NV only for an ordering of a NaN. They never round. (R39, R127, R128) -/
def Obligations.ScalarFloatBitResults : Prop :=
  ∀ (s : State) (cid : Nat) (c : Ctx) (d a b : Reg), s.Ready cid c [d, a, b] →
    let m := c.img
    let x := (m.getX a).setWidth 32
    let y := (m.getX b).setWidth 32
    let bits := fun w : BitVec 32 => s.goes cid ((m.setX d (w.setWidth 64)).next 4)
    let sign := fun p : Bool => bits (BitVec.ofBool p ++ x.extractLsb' 0 31)
    let least := orderedKey x ≤ orderedKey y
    exec (.fmin d a b) s = bits (if isNan32 x || isNan32 y then 0x7FC00000#32 else if least then x else y) ∧
    exec (.fmax d a b) s = bits (if isNan32 x || isNan32 y then 0x7FC00000#32 else if least then y else x) ∧
    exec (.fsgn d a b) s = sign (y.getLsbD 31) ∧
    exec (.fsgnn d a b) s = sign (!y.getLsbD 31) ∧
    exec (.fsgnx d a b) s = sign (x.getLsbD 31 != y.getLsbD 31) ∧
    (∀ cc, exec (.fcmpCc cc d a b) s =
      s.goes cid (((m.setX d (if (fpCond cc x y).1 then 1 else 0)).orFlags (fpCond cc x y).2).next 4)) ∧
    (∀ cc, isNan32 x = false → isNan32 y = false → (fpCond cc x y).2 = 0#5) ∧
    (∀ cc, isNan32 x = true ∨ isNan32 y = true →
      fpCond cc x y = (cc == .ne || cc == .un, if cc = .lt ∨ cc = .le ∨ cc = .gt ∨ cc = .ge then 0b10000#5 else 0#5))

/-- With no prefix or one that names a rounding mode only, each fcvt commits with the conversion of R38 under the mode: to .i32
sign-extended, to the other formats zero-extended, from an integer the FP32 bits; the flags are ORed into fpflags. (R38, R129) -/
def Obligations.ScalarConversionResults : Prop :=
  ∀ (s : State) (cid : Nat) (c : Ctx) (d a : Reg), s.At cid c → pfxCheck c.img rmOnly = none →
    interlocked c.ring [d, a] = false →
    let m := c.img
    let rm := rmUnder m.rm m.pending?
    let toInt := fun f : Fmt => convert f .f32 rm ((m.getX a).toNat % 2 ^ 32)
    let ofInt := fun f : Fmt => convert .f32 f rm (m.getX a).toNat
    let gives := fun (w : Word) (fl : FFlags) => s.goes cid (((m.setX d w).orFlags fl).next 4)
    exec (.fcvtI32F32 d a) s = gives (BitVec.ofInt 64 (BitVec.ofNat 32 (toInt .i32).1).toInt) (toInt .i32).2 ∧
    exec (.fcvtN32F32 d a) s = gives (BitVec.ofNat 64 (toInt .n32).1) (toInt .n32).2 ∧
    exec (.fcvtI64F32 d a) s = gives (BitVec.ofNat 64 (toInt .i64).1) (toInt .i64).2 ∧
    exec (.fcvtN64F32 d a) s = gives (BitVec.ofNat 64 (toInt .n64).1) (toInt .n64).2 ∧
    exec (.fcvtF32I32 d a) s = gives (BitVec.ofNat 64 (ofInt .i32).1) (ofInt .i32).2 ∧
    exec (.fcvtF32N32 d a) s = gives (BitVec.ofNat 64 (ofInt .n32).1) (ofInt .n32).2 ∧
    exec (.fcvtF32I64 d a) s = gives (BitVec.ofNat 64 (ofInt .i64).1) (ofInt .i64).2 ∧
    exec (.fcvtF32N64 d a) s = gives (BitVec.ofNat 64 (ofInt .n64).1) (ofInt .n64).2

/-- For every FP32 encoding that is no NaN and every rounding mode, rounding its exact value gives the encoding itself and raises no
flag. (R24, R34) -/
def Obligations.RoundingKeepsFloatValues : Prop :=
  ∀ (rm : Rm) (b : BitVec 32), isNan32 b = false → roundF32 rm (valF32 b) = (b, 0#5)

/-- Free to execute, nop only advances the pc; fmt writes its payload to pfx and sets status.PP; crd reads a control register that
the mode may read into X(d); cwr writes X(a) to one that the mode may write, if the register is not read-only and no reserved
bit or range is violated, and otherwise traps with code 7. For fpflags both wait for an empty ring. A counter written holds the
value written: the event of its own commit is not counted. (R82, R97, R130, R131, R132) -/
def Obligations.SystemInstructionResults : Prop :=
  ∀ (s : State) (cid : Nat) (c : Ctx) (d a : Reg) (r : Creg) (p : Prefix), s.Ready cid c [d, a] →
    let m := c.img
    exec .nop s = s.goes cid (m.next 4) ∧
    exec (.fmt p) s = s.goes cid (({ m with pfx := p.payload.setWidth 64 }.setPp true).next 4) ∧
    ((cregSys r = true → m.prv = true) → (r = .fpflags → c.ring = []) →
      exec (.crd d r) s = s.goes cid ((m.setX d (s.readCreg s.here cid c r)).next 4) ∧
      (cregRo r = false → cregAccepts r (m.getX a) = true →
        exec (.cwr r a) s =
          (s.writeCreg s.here m r (m.getX a)).1.goes cid ((s.writeCreg s.here m r (m.getX a)).2.next 4)) ∧
      (∀ n, r = .pmc n → ∃ t, exec (.cwr r a) s = .next t ∧ (t.core s.here).pmc[n.toNat] = m.getX a) ∧
      ((cregRo r = true ∨ cregAccepts r (m.getX a) = false) → exec (.cwr r a) s = s.traps cid c (operandFault m 0))) ∧
    (∀ w, (s.writeCreg s.here m .status w).2.status = (m.status &&& ~~~0xB#64) ||| (w &&& 0xB#64))

/-- Free to execute, at either privilege, sys n answers the state in which it has committed and then taken the trap of code 16 with
DATA n and epc pc + 4; when the handler's entry is good and no line of a register cache holds uncorrectable data, the image
after holds DATA n, epc pc + 4 (modulo 2^56), esta the status before, PRV set and the pc at the handler, so that the image that
eret then leaves resumes at pc + 4. (R134) -/
def Obligations.SystemCallTrapsAfterCommit : Prop :=
  ∀ (s : State) (cid : Nat) (c : Ctx) (n : BitVec 15), s.Ready cid c [] → c.core? = some s.here →
    let r : Word := BitVec.ofNat 64 ((c.img.pc.toNat + 4) % 2 ^ 56)
    let m := c.img.next 4
    let f := FaultRec.mk0 cSys n.toNat c.img.pc.toNat
    exec (.sys n) s = .next ((s.commit cid m).takeTrap cid s.here f m.pc) ∧
    m.pc = r ∧
    ∀ (s1 : State) (h : Word), s.RegsSound → (s.commit cid m).vector s.here cSys = (s1, some h) →
      ∃ t x, exec (.sys n) s = .next t ∧ t.ctx? cid = some x ∧ x.img.pc = h ∧ x.img.prv = true ∧ x.img.pp = false ∧
        x.img.epc = r ∧ x.img.esta = c.img.status ∧ x.img.faultinfo.toNat / 2 ^ 32 = n.toNat ∧
        x.img.faultinfo.toNat % 256 = 16 ∧ x.img.leave.pc = r

/-- Free to execute, brk n answers the state in which the trap of code 17 is taken with epc at the brk itself, with nothing
committed; when the handler's entry is good and no line of a register cache holds uncorrectable data, DATA is n, epc the pc, and
an eret to the unchanged epc resumes at the brk, one after cwr of epc + 4 past it. (R135) -/
def Obligations.BreakpointTrapsUncommitted : Prop :=
  ∀ (s : State) (cid : Nat) (c : Ctx) (n : BitVec 15), s.Ready cid c [] → c.core? = some s.here →
    let f := FaultRec.mk0 cBrk n.toNat c.img.pc.toNat
    exec (.brk n) s = .next (s.takeTrap cid s.here f c.img.pc) ∧
    ∀ (s1 : State) (h : Word), s.RegsSound → s.vector s.here cBrk = (s1, some h) →
      ∃ t x, exec (.brk n) s = .next t ∧ t.ctx? cid = some x ∧ x.img.pc = h ∧ x.img.prv = true ∧ x.img.epc = c.img.pc ∧
        x.img.esta = c.img.status ∧ x.img.faultinfo.toNat / 2 ^ 32 = n.toNat ∧ x.img.faultinfo.toNat % 256 = 17 ∧
        x.img.leave.pc = c.img.pc ∧ (s.writeCreg s.here x.img .epc (c.img.pc + 4)).2.leave.pc = c.img.pc + 4

/-- For every trap of a context on its core, while no line of a register cache holds uncorrectable data: when the table entry of the
code is good, faultinfo holds CODE, LATE, PRV, W and DATA, fva the address, fsq the sequence number, esta the status, epfx the
prefix, epc the given address, status has PP clear and PRV set and its other bits kept, the pc is the handler's address and
every x, v and slot register, fpflags and mwgt are kept; when it is not, the image keeps all but its pc, the fault stays
pending, the context is not ready, and a machine check of source 5 with the fault's code joins the die's queue, or is lost to
OVF when that holds 16 records. (R99, R100, R396, R397, R399) -/
def Obligations.TrapEntrySavesAndVectors : Prop :=
  ∀ (s : State) (cid core : Nat) (c : Ctx) (f : FaultRec) (epc : Word), s.ctx? cid = some c → c.core? = some core → s.RegsSound →
    (∀ s1 h, s.vector core f.code = (s1, some h) →
      ∃ x, (s.takeTrap cid core f epc).ctx? cid = some x ∧
        x.img.faultinfo = BitVec.ofNat 64 (f.data % 2 ^ 32 * 2 ^ 32 + (if f.w then 2048 else 0) + (if c.img.prv then 1024 else 0) +
          (if f.late then 512 else 0) + f.code % 256) ∧
        x.img.fva.toNat = f.va % 2 ^ 56 ∧
        x.img.fsq = (match f.seq with | none => 0 | some q => BitVec.ofNat 64 (2 ^ 32 + f.step % 65536 * 65536 + q % 65536)) ∧
        x.img.esta = c.img.status ∧ x.img.epfx = c.img.pfx ∧ x.img.epc = epc ∧ x.img.pc = h ∧ x.img.pp = false ∧
        x.img.prv = true ∧ (∀ k, k ≠ 2 → k ≠ 4 → x.img.status.getLsbD k = c.img.status.getLsbD k) ∧
        x.img.x = c.img.x ∧ x.img.v = c.img.v ∧ x.img.slots = c.img.slots ∧ x.img.fpflags = c.img.fpflags ∧
        x.img.mwgt = c.img.mwgt ∧ x.img.pfx = c.img.pfx ∧ x.ring = c.ring ∧ x.wait = none ∧ x.late = none) ∧
    (∀ s1, s.vector core f.code = (s1, none) →
      ∃ x, (s.takeTrap cid core f epc).ctx? cid = some x ∧ x.img = { c.img with pc := epc } ∧ x.late = some f ∧
        x.parked = true ∧ x.ready = false ∧
        (let d := coreDie core
         let v := (s.takeTrap cid core f epc).die d
         let q := ((s1.fetchLines core cid [68, 69]).die d).mcq
         (q.length < 16 → core < Config.allCores + 32 → ∃ r, v.mcq = q ++ [r] ∧ r.rec0.toNat / 2 ^ 56 = 5 ∧
           r.rec0.toNat / 2 ^ 16 % 2 ^ 32 = f.code % 2 ^ 32 ∧ r.rec1 = 0) ∧
         (16 ≤ q.length → v.mcq = q ∧ v.mcOvf = true ∧ v.mcLost = true)))

/-- Free to execute at system privilege, with an aligned epc below 2^56 and ring room for the saved entries, eret commits with the
pc at epc, pfx from epfx, and esta, then status, taking the current LN and KP and keeping esta's other bits, the saved entries
re-dispatched; at user privilege it traps with code 3; an entry followed by a return gives back pc, pfx and status when the
handler changes nothing. (R96, R99, R136) -/
def Obligations.ReturnRestoresWhatEntrySaved : Prop :=
  ∀ (s : State) (cid : Nat) (c : Ctx), s.Ready cid c [] →
    let m := c.img
    (m.prv = true → m.epc.toNat < 2 ^ 56 → m.epc.toNat % 4 = 0 → (s.coreRing s.here).length + m.saved.length ≤ 64 →
      exec .eret s = ((s.redispatch cid m m.prv m.saved).acknowledge s.here).goes cid m.leave) ∧
    (m.prv = true → 2 ^ 56 ≤ m.epc.toNat → exec .eret s = s.traps cid c (operandFault m 0)) ∧
    (m.prv = true → m.epc.toNat < 2 ^ 56 → m.epc.toNat % 4 ≠ 0 →
      exec .eret s = s.traps cid c (FaultRec.mk0 cMisInstr 0 m.epc.toNat)) ∧
    (m.prv = false → exec .eret s = s.traps cid c (FaultRec.mk0 cPriv 0 m.pc.toNat)) ∧
    m.leave.pc = m.epc ∧ m.leave.pfx = m.epfx ∧ m.leave.ln = m.ln ∧ m.leave.kp = m.kp ∧ m.leave.esta = m.leave.status ∧ m.leave.saved = [] ∧
    (∀ k, k < 5 ∨ 11 ≤ k → m.leave.status.getLsbD k = m.esta.getLsbD k) ∧
    (∀ f : FaultRec, (m.enter f m.pc).leave = { (m.enter f m.pc).unsave with status := m.status })

/-- Free to execute on a compute core with an empty ring: vclaim n with a charge already held, or n above lpool.SIZE, traps with
code 6 and DATA n; otherwise the claim joins the grove's queue and the instruction completes as soon as the pool has granted it,
and blocks until then; where no claim of its own was queued and no line of a register cache holds uncorrectable data, the grant
writes LN := n and zeroes v16 to v16 + n − 1 and changes no other register; vrelease returns the charge, sets LN to 0 and
advances. (R108, R109, R159, R160) -/
def Obligations.ClaimGrantsZeroedRegisters : Prop :=
  ∀ (s : State) (cid : Nat) (c : Ctx) (n : BitVec 4), s.Ready cid c [] → c.ring = [] → isService s.here = false →
    let g := coreGrove s.here
    let want := n.toNat + 1
    let s1 := s.setCtx cid { c with wait := some .claim }
    let s2 := s1.setGrove g { s1.grove g with claims := (s1.grove g).claims ++ [{ cid := cid, n := want, re := false }] }
    ((c.img.ln ≠ 0 ∨ (s.grove g).poolSize < want) → exec (.vclaim n) s = s.traps cid c (FaultRec.mk0 cClaim want c.img.pc.toNat)) ∧
    (c.img.ln = 0 → want ≤ (s.grove g).poolSize →
      (∀ x, (s2.grantClaims g).ctx? cid = some x → x.wait = none → exec (.vclaim n) s = (s2.grantClaims g).goes cid x.img ∧
        (c.core? = some s.here → (∀ q ∈ (s.grove g).claims, q.cid ≠ cid) → s.RegsSound →
          x.img.ln = want ∧ x.img.pc = (c.img.next 4).pc ∧ x.img.x = c.img.x ∧ x.img.slots = c.img.slots ∧
          ∀ r : Reg, x.img.getV r = if 16 ≤ r.toNat ∧ r.toNat < 16 + want then 0 else c.img.getV r)) ∧
      (∀ x, (s2.grantClaims g).ctx? cid = some x → x.wait ≠ none →
        exec (.vclaim n) s = .next ((s2.grantClaims g).block cid .claim))) ∧
    exec .vrelease s = (s.releaseLent cid).goes cid ((c.img.setLn 0).next 4) ∧ (c.img.setLn 0).ln = 0

/-- Free to execute, with an empty ring, exit on a compute core commits and then retires its task, as a kill when KP is set, and
stalls while ring entries are left; on a service core, whose firmware is no task and never exits, it only commits (the model's
choice, log 68). kchk advances when KP is clear and retires the task as a kill when it is set. The context of a retired task is
ended and in no slot, has no ring entry, pending trap or saved entry, and no charge when no claim of its own is queued and no
line of a register cache holds uncorrectable data; a kill is counted in its die's killcnt, and the slot that its task signals is
one lower, unless it is 0. (R23, R137, R304, R391, R392) -/
def Obligations.ExitAndKillPoint : Prop :=
  ∀ (s : State) (cid : Nat) (c : Ctx), s.Ready cid c [] →
    (c.ring = [] → isService s.here = false →
      exec .exit s = .next { (s.commit cid (c.img.next 4)).retire cid c.img.kp with stalled := false }) ∧
    (c.ring = [] → isService s.here = true → exec .exit s = s.goes cid (c.img.next 4)) ∧
    (c.ring ≠ [] → exec .exit s = .next { s with stalled := true }) ∧
    (c.img.kp = false → exec .kchk s = s.goes cid (c.img.next 4)) ∧
    (c.img.kp = true → exec .kchk s = .next { s.retire cid true with stalled := false }) ∧
    (∀ (core : Nat) (k : Bool), c.core? = some core →
      let t := s.retire cid k
      ∃ x, t.ctx? cid = some x ∧ x.where_ = .ended ∧ x.ring = [] ∧ x.late = none ∧ x.img.saved = [] ∧
        (isService core = true ∨ (s.RegsSound ∧ ∀ q ∈ (s.grove (coreGrove core)).claims, q.cid ≠ cid) → x.img.ln = 0) ∧
        (t.die (coreDie core)).killcnt = (s.die (coreDie core)).killcnt + (if k then 1 else 0) ∧
        ∀ n, c.task.signal = some n → n < 32768 → t.dslot (n / 4096) (n % 4096) = s.dslot (n / 4096) (n % 4096) - 1)

/-- With a prefix pending, every integer, branch, memory, vector integer, command and system instruction named here takes the trap
of code 4 with pfx bits 23:0 as DATA and none of its effect; with none pending, while an older ring entry is still to write one
of the x registers that add names, add has no effect: the core stalls and nothing else changes. (R83, R88, R113, R399) -/
def Obligations.PendingPrefixAndOlderEntriesHoldBack : Prop :=
  (∀ (s : State) (cid : Nat) (c : Ctx) (p : BitVec 24), s.At cid c → c.img.pending? = some p →
    let refused := s.traps cid c (FaultRec.mk0 4 p.toNat c.img.pc.toNat)
    (∀ d a b, exec (.add d a b) s = refused) ∧ (∀ d i, exec (.li d i) s = refused) ∧
    (∀ cc a b o, exec (.bCc cc a b o) s = refused) ∧ (∀ d xo seg disp, exec (.ldI64 d xo seg disp) s = refused) ∧
    (∀ d xo seg disp, exec (.stI64 d xo seg disp) s = refused) ∧ exec .nop s = refused ∧ exec .exit s = refused ∧
    (∀ q, exec (.fmt q) s = refused) ∧ (∀ n d a b m, exec (.vaddInt n d a b m) s = refused) ∧
    (∀ k r, exec (.dcopy k r) s = refused) ∧ (∀ sc, exec (.fence sc) s = refused) ∧ (∀ d a b, exec (.fmin d a b) s = refused)) ∧
  (∀ (s : State) (cid : Nat) (c : Ctx) (d a b : Reg), s.At cid c → c.img.pp = false → interlocked c.ring [d, a, b] = true →
    exec (.add d a b) s = .next { s with stalled := true })

/-- With an active context, an illegal word takes the trap of code 1, a word that would cross the fetch block that of code 2, and a
failing fetch that of its code with its detail as DATA; at user privilege, eret, cinv, tlbinv in both forms, gtw, and crd or cwr
of a register marked S take the trap of code 3 whatever their operands: each with epc and fva at the instruction and nothing
committed. (R84, R86, R88, R95, R114, R395, R399) -/
def Obligations.DecodeFetchAndPrivilegeTraps : Prop :=
  (∀ (s : State) (cid : Nat) (c : Ctx), s.At cid c →
    (∀ w, w ≠ .crossing → exec (.illegalInstruction w) s = s.traps cid c (FaultRec.mk0 1 0 c.img.pc.toNat)) ∧
    exec (.illegalInstruction .crossing) s = s.traps cid c (FaultRec.mk0 2 0 c.img.pc.toNat) ∧
    (∀ code detail, exec (.instructionFetchFault code detail) s = s.traps cid c (FaultRec.mk0 code detail c.img.pc.toNat))) ∧
  (∀ (s : State) (cid : Nat) (c : Ctx), s.At cid c → c.img.prv = false →
    let refused := s.traps cid c (FaultRec.mk0 3 0 c.img.pc.toNat)
    exec .eret s = refused ∧
    (∀ d xo b seg disp, exec (.cinv d xo b seg disp) s = refused) ∧
    (∀ wb d a b e, exec (.tlbinv wb d a b e) s = refused) ∧
    (∀ a sa g, exec (.gtw a sa g) s = refused) ∧
    (∀ r, cregSys r = true → (∀ d, exec (.crd d r) s = refused) ∧ ∀ a, exec (.cwr r a) s = refused))

/-- With no prefix or one that names a rounding mode only, ring room and the registers held, each rounding FP32 vector instruction
dispatches, and its entry's completion writes to each active lane the exact result rounded once under the mode, ORs the flags of
the active lanes, and keeps or zeroes the other lanes. The model's choices: the flags of vfnma where the product meets the
opposite infinity (log 82), and the last bit of vexp2 (log 9). (R144, R142, R125) -/
def Obligations.VectorFloatResults : Prop :=
  ∀ (s : State) (cid : Nat) (c : Ctx) (d a b e : Reg) (w : BitVec 32) (k : Mask), s.At cid c → pfxCheck c.img rmOnly = none →
    s.Room c [d, a, b, e] →
    let m := c.img
    let rm := rmUnder m.rm m.pending?
    let x := fun (r : Reg) (i : Nat) => valF32 (lane (m.getV r) i)
    let y := valF32 w
    let once := fun p : FV × FFlags => ((roundF32 rm p.1).1, p.2 ||| (roundF32 rm p.1).2)
    let gives := fun (i : Instr) (len : Nat) (f : Nat → FV × FFlags) =>
      exec i s = s.dispatched cid c i len ∧ LaneWise m (vecEffect (mkEntry s c i 0) m) k d fun j => once (f j)
    gives (.vaddF32 d a b k) 8 (fun j => FV.add rm (x a j) (x b j)) ∧
    gives (.vsubF32 d a b k) 8 (fun j => FV.add rm (x a j) (x b j).neg) ∧
    gives (.vmulF32 d a b k) 8 (fun j => FV.mul (x a j) (x b j)) ∧
    gives (.vdiv d a b k) 8 (fun j => FV.div (x a j) (x b j)) ∧
    gives (.vsqrt d a k) 8 (fun j => FV.sqrt (x a j)) ∧
    gives (.vrsqrt d a k) 8 (fun j => FV.rsqrt (x a j)) ∧
    gives (.vexp2 d a k) 8 (fun j => FV.exp2 (x a j)) ∧
    gives (.vfma d a b e k) 8 (fun j => fmaVal rm (x a j) (x b j) (x e j)) ∧
    gives (.vfms d a b e k) 8 (fun j => fmaVal rm (x a j) (x b j) (x e j).neg) ∧
    gives (.vfnma d a b e k) 8 (fun j => fmaVal rm (x a j).neg (x b j) (x e j)) ∧
    gives (.vaddF32Lit d a w k) 12 (fun j => FV.add rm (x a j) y) ∧
    gives (.vsubF32Lit d a w k) 12 (fun j => FV.add rm (x a j) y.neg) ∧
    gives (.vmulF32Lit d a w k) 12 (fun j => FV.mul (x a j) y) ∧
    gives (.vdivLit d a w k) 12 (fun j => FV.div (x a j) y)

/-- Free to execute, with ring room and the registers held, each vector integer instruction, with a register or a literal as b, and
the unrounded FP32 ones (min, max, abs, neg) dispatch, and completion writes to each active lane the result of R145 (R144 for
FP32) with no flag, keeping or zeroing the other lanes. (R145, R142, R144) -/
def Obligations.VectorIntegerResults : Prop :=
  ∀ (s : State) (cid : Nat) (c : Ctx) (n : Bool) (d a b : Reg) (w : BitVec 32) (k : Mask), s.Ready cid c [] → s.Room c [d, a, b] →
    let m := c.img
    let x := fun i : Nat => lane (m.getV a) i
    let y := fun i : Nat => lane (m.getV b) i
    let num := fun v : BitVec 32 => if n then (v.toNat : Int) else v.toInt
    let sat := fun v : Int => BitVec.ofInt 32 (if n then max 0 (min (2 ^ 32 - 1) v) else max (-2 ^ 31) (min (2 ^ 31 - 1) v))
    let one := fun (i : Instr) (f : BitVec 32 → BitVec 32) =>
      exec i s = s.dispatched cid c i 8 ∧ BitsWise m (vecEffect (mkEntry s c i 0) m) k d fun j => f (x j)
    let two := fun (i l : Instr) (f : BitVec 32 → BitVec 32 → BitVec 32) =>
      exec i s = s.dispatched cid c i 8 ∧ BitsWise m (vecEffect (mkEntry s c i 0) m) k d (fun j => f (x j) (y j)) ∧
      exec l s = s.dispatched cid c l 12 ∧ BitsWise m (vecEffect (mkEntry s c l 0) m) k d fun j => f (x j) w
    two (.vaddInt n d a b k) (.vaddIntLit n d a w k) (fun p q => p + q) ∧
    two (.vsubInt n d a b k) (.vsubIntLit n d a w k) (fun p q => p - q) ∧
    two (.vmulInt n d a b k) (.vmulIntLit n d a w k) (fun p q => p * q) ∧
    two (.vmulh n d a b k) (.vmulhLit n d a w k) (fun p q => BitVec.ofInt 32 (num p * num q / 2 ^ 32)) ∧
    two (.vand n d a b k) (.vandLit n d a w k) (fun p q => p &&& q) ∧
    two (.vor n d a b k) (.vorLit n d a w k) (fun p q => p ||| q) ∧
    two (.vxor n d a b k) (.vxorLit n d a w k) (fun p q => p ^^^ q) ∧
    two (.vandn n d a b k) (.vandnLit n d a w k) (fun p q => p &&& ~~~q) ∧
    two (.vsll n d a b k) (.vsllLit n d a w k) (fun p q => p <<< (q.toNat % 32)) ∧
    two (.vsrl n d a b k) (.vsrlLit n d a w k) (fun p q => p >>> (q.toNat % 32)) ∧
    two (.vsra n d a b k) (.vsraLit n d a w k) (fun p q => p.sshiftRight (q.toNat % 32)) ∧
    two (.vminInt n d a b k) (.vminIntLit n d a w k) (fun p q => if num p ≤ num q then p else q) ∧
    two (.vmaxInt n d a b k) (.vmaxIntLit n d a w k) (fun p q => if num p ≤ num q then q else p) ∧
    two (.vadds n d a b k) (.vaddsLit n d a w k) (fun p q => sat (num p + num q)) ∧
    two (.vsubs n d a b k) (.vsubsLit n d a w k) (fun p q => sat (num p - num q)) ∧
    two (.vminF32 d a b k) (.vminF32Lit d a w k) minF32 ∧ two (.vmaxF32 d a b k) (.vmaxF32Lit d a w k) maxF32 ∧
    one (.vabsI32 d a k) (fun p => if p.toInt < 0 then -p else p) ∧ one (.vabsF32 d a k) (fun p => p &&& 0x7FFFFFFF#32) ∧
    one (.vneg d a k) (fun p => p ^^^ 0x80000000#32)

/-- Free to execute, with ring room and the registers held, comparisons write 1 or 0 to each active lane (the FP32 ones with the
flags of R39), vsel takes a's lane where active and b's elsewhere, mask logic works on bit 0 of each lane and writes 0 or 1,
vmcnt counts the active lanes whose bit 0 is 1 and vfirst finds the lowest, or 16, both into X(d). (R146, R147, R142) -/
def Obligations.VectorCompareAndMaskResults : Prop :=
  ∀ (s : State) (cid : Nat) (c : Ctx) (d a b : Reg) (k : Mask), s.Ready cid c [d] → s.Room c [d, a, b] →
    let m := c.img
    let x := fun i : Nat => lane (m.getV a) i
    let y := fun i : Nat => lane (m.getV b) i
    let hit := fun i : Nat => activeLane m k i && (x i).getLsbD 0
    let bits := fun (i : Instr) (k' : Mask) (f : Nat → BitVec 32) =>
      exec i s = s.dispatched cid c i 8 ∧ BitsWise m (vecEffect (mkEntry s c i 0) m) k' d f
    let xreg := fun (i : Instr) (n : Nat) =>
      exec i s = s.dispatched cid c i 8 ∧ vecEffect (mkEntry s c i 0) m = m.setX d (BitVec.ofNat 64 n)
    let bit := fun p : Bool => (BitVec.ofBool p).setWidth 32
    (∀ cc, exec (.vcmpF32 cc d a b k) s = s.dispatched cid c (.vcmpF32 cc d a b k) 8 ∧
      LaneWise m (vecEffect (mkEntry s c (.vcmpF32 cc d a b k) 0) m) k d fun j =>
        (bit (fpCond cc (x j) (y j)).1, (fpCond cc (x j) (y j)).2)) ∧
    (∀ cc, bits (.vcmpI32 cc d a b k) k fun j => bit (intCond cc (x j) (y j))) ∧
    bits (.vsel d a b k) .all (fun j => if activeLane m k j then x j else y j) ∧
    bits (.vmand d a b k) k (fun j => bit ((x j).getLsbD 0 && (y j).getLsbD 0)) ∧
    bits (.vmor d a b k) k (fun j => bit ((x j).getLsbD 0 || (y j).getLsbD 0)) ∧
    bits (.vmxor d a b k) k (fun j => bit ((x j).getLsbD 0 != (y j).getLsbD 0)) ∧
    bits (.vmnot d a k) k (fun j => bit (!(x j).getLsbD 0)) ∧
    xreg (.vmcnt d a k) ((List.range 16).filter hit).length ∧
    (∃ n, xreg (.vfirst d a k) n ∧ n ≤ 16 ∧ (∀ j, j < n → hit j = false) ∧ (n < 16 → hit n = true))

/-- Free to execute, with ring room and the registers held, each move dispatches with its x operand captured, and completion writes
the lanes of R147 and R148: a vperm index takes its low four bits, vslide reads a then b, vcompress packs the active lanes of a
below, vexpand deals the lanes of a to the active ones in order, and where a is d reads a lane as its loop has left it (R8).
(R147, R148, R142, R8) -/
def Obligations.VectorMoveResults : Prop :=
  ∀ (s : State) (cid : Nat) (c : Ctx) (d a b : Reg) (w : BitVec 32) (l n : BitVec 4) (k : Mask), s.Ready cid c [d, a] →
    s.Room c [d, a, b] →
    let m := c.img
    let x := fun i : Nat => lane (m.getV a) i
    let y := fun i : Nat => lane (m.getV b) i
    let on := (List.range 16).filter (activeLane m k)
    let bits := fun (i : Instr) (len : Nat) (k' : Mask) (f : Nat → BitVec 32) =>
      exec i s = s.dispatched cid c i len ∧ BitsWise m (vecEffect (mkEntry s c i 0) m) k' d f
    bits (.vperm d a b k) 8 k (fun j => x ((y j).toNat % 16)) ∧
    bits (.vbcast d a k) 8 k (fun _ => (m.getX a).setWidth 32) ∧
    (∀ ty, bits (.vbcastLit ty d w k) 12 k (fun _ => w)) ∧
    bits (.vins d a l) 8 .all (fun j => if j = l.toNat then (m.getX a).setWidth 32 else lane (m.getV d) j) ∧
    bits (.vslide d a b n k) 8 k (fun j => if j + n.toNat < 16 then x (j + n.toNat) else y (j + n.toNat - 16)) ∧
    bits (.vcompress d a k) 8 .all
      (fun j => match on[j]? with | some i => x i | none => if maskZ k then 0 else lane (m.getV d) j) ∧
    (let n := vecEffect (mkEntry s c (.vexpand d a k) 0) m
     bits (.vexpand d a k) 8 k fun j =>
       let i := ((List.range j).filter (activeLane m k)).length
       if a = d ∧ i < j then lane (n.getV d) i else x i) ∧
    bits (.vmov d a k) 8 k x ∧
    (∀ sgn, exec (.vext sgn d a l) s = s.dispatched cid c (.vext sgn d a l) 8 ∧
      vecEffect (mkEntry s c (.vext sgn d a l) 0) m =
        m.setX d (if sgn then (x l.toNat).signExtend 64 else (x l.toNat).setWidth 64))

/-- Free to execute, with ring room and the registers held, a reduction writes to X(d) the active lanes combined (integer sums exact
and wrapped to 64 bits, extremes and logic with the value of an absent lane when none is active, FP32 sums in the fixed tree
with one rounding a node, FP32 extremes the lane with the least or the greatest ordered key, or the canonical NaN where two or
more lanes are active and one is NaN), and a scan writes to each active lane the combination of the active lanes up to it in
order. (R39, R41, R42, R149) -/
def Obligations.VectorReductionAndScanResults : Prop :=
  ∀ (s : State) (cid : Nat) (c : Ctx) (ty : LaneTy) (d a : Reg) (k : Mask), s.Ready cid c [d] → s.Room c [d, a] →
    let m := c.img
    let rm := m.rm
    let on := ((List.range 16).filter (activeLane m k)).map (lane (m.getV a))
    let upto := fun j : Nat => ((List.range (j + 1)).filter (activeLane m k)).map (lane (m.getV a))
    let runs := fun i : Instr => exec i s = s.dispatched cid c i 8
    let after := fun i : Instr => vecEffect (mkEntry s c i 0) m
    let tree := treeOf (addLanes rm) (activeLanes m k a fun w => (w, 0#5))
    let fold := fun (op : BitVec 32 → BitVec 32 → BitVec 32) (z : BitVec 32) (ls : List (BitVec 32)) =>
      match ls with | [] => z | w :: rest => rest.foldl op w
    runs (.vredAdd ty d a k) ∧ runs (.vredMin ty d a k) ∧ runs (.vredMax ty d a k) ∧ runs (.vredAnd d a k) ∧
    runs (.vredOr d a k) ∧ runs (.vredXor d a k) ∧ runs (.vscanAdd ty d a k) ∧ runs (.vscanMin ty d a k) ∧
    runs (.vscanMax ty d a k) ∧
    after (.vredAdd .i32 d a k) = m.setX d (BitVec.ofInt 64 (on.map BitVec.toInt).sum) ∧
    after (.vredAdd .n32 d a k) = m.setX d (BitVec.ofNat 64 (on.map BitVec.toNat).sum) ∧
    after (.vredAdd .f32 d a k) =
      (match tree with | some r => (m.setX d (r.1.setWidth 64)).orFlags r.2 | none => (m.setX d 0).orFlags 0#5) ∧
    after (.vredMin .i32 d a k) = m.setX d ((fold (minLane .i32) 0x7FFFFFFF#32 on).signExtend 64) ∧
    after (.vredMin .n32 d a k) = m.setX d ((fold (minLane .n32) 0xFFFFFFFF#32 on).setWidth 64) ∧
    after (.vredMax .i32 d a k) = m.setX d ((fold (maxLane .i32) 0x80000000#32 on).signExtend 64) ∧
    after (.vredMax .n32 d a k) = m.setX d ((fold (maxLane .n32) 0#32 on).setWidth 64) ∧
    (on = [] → after (.vredMin .f32 d a k) = m.setX d 0x7F800000 ∧ after (.vredMax .f32 d a k) = m.setX d 0xFF800000) ∧
    (∀ w, on = [w] → after (.vredMin .f32 d a k) = m.setX d (w.setWidth 64) ∧ after (.vredMax .f32 d a k) = m.setX d (w.setWidth 64)) ∧
    (2 ≤ on.length → on.any isNan32 = true →
      after (.vredMin .f32 d a k) = m.setX d 0x7FC00000 ∧ after (.vredMax .f32 d a k) = m.setX d 0x7FC00000) ∧
    (2 ≤ on.length → on.any isNan32 = false →
      (∃ w ∈ on, (∀ u ∈ on, orderedKey w ≤ orderedKey u) ∧ after (.vredMin .f32 d a k) = m.setX d (w.setWidth 64)) ∧
      ∃ w ∈ on, (∀ u ∈ on, orderedKey u ≤ orderedKey w) ∧ after (.vredMax .f32 d a k) = m.setX d (w.setWidth 64)) ∧
    after (.vredAnd d a k) = m.setX d ((on.foldl (· &&& ·) 0xFFFFFFFF#32).setWidth 64) ∧
    after (.vredOr d a k) = m.setX d ((on.foldl (· ||| ·) 0#32).setWidth 64) ∧
    after (.vredXor d a k) = m.setX d ((on.foldl (· ^^^ ·) 0#32).setWidth 64) ∧
    (ty ≠ .f32 → BitsWise m (after (.vscanAdd ty d a k)) k d fun j => (upto j).foldl (· + ·) 0#32) ∧
    BitsWise m (after (.vscanMin ty d a k)) k d (fun j => fold (minLane ty) 0#32 (upto j)) ∧
    BitsWise m (after (.vscanMax ty d a k)) k d (fun j => fold (maxLane ty) 0#32 (upto j)) ∧
    LaneWise m (after (.vscanAdd .f32 d a k)) k d
      (fun j => match (upto j).map (fun w => (w, 0#5)) with | [] => (0#32, 0#5) | p :: rest => rest.foldl (addLanes rm) p)

/-- With no prefix or one that names a rounding mode only (none for vqnt), ring room and the registers held, vcvt converts each
active lane once, vpack converts the 32 lanes of a and b and packs them, vunpack converts the 16 elements of part p, and vqnt
writes the block of R33 and R153 for the 32 lanes, counting lane 0 of c into the scale. The corners of the shared scale are the
model's choice (log 9). (R33, R38, R151, R152, R153) -/
def Obligations.VectorConversionResults : Prop :=
  ∀ (s : State) (cid : Nat) (c : Ctx) (dst src : Fmt) (lt : LaneTy) (d a b e : Reg) (q : Bool) (p : BitVec 2) (k : Mask),
    s.At cid c → pfxCheck c.img rmOnly = none → s.Room c [d, a, b, e] →
    let m := c.img
    let rm := rmUnder m.rm m.pending?
    let conv := fun (f g : Fmt) (w : BitVec 32) =>
      (BitVec.ofNat 32 (convert f g rm (w.toNat % 2 ^ fmtWidth g)).1, (convert f g rm (w.toNat % 2 ^ fmtWidth g)).2)
    let all := lanes (m.getV a) ++ lanes (m.getV b)
    let runs := fun i : Instr => exec i s = s.dispatched cid c i 8
    let after := fun i : Instr => vecEffect (mkEntry s c i 0) m
    runs (.vcvt dst src d a k) ∧ LaneWise m (after (.vcvt dst src d a k)) k d (fun j => conv dst src (lane (m.getV a) j)) ∧
    runs (.vunpack lt src d a p) ∧
    LaneWise m (after (.vunpack lt src d a p)) .all d
      (fun j => conv (laneFmt lt) src (BitVec.ofNat 32 (packedElem src (m.getV a) (16 * p.toNat + j)))) ∧
    runs (.vpack dst lt d a b q) ∧
    (fmtWidth dst ≤ 16 → ∀ j, j < 32 →
      packedElem dst ((after (.vpack dst lt d a b q)).getV d) (if fmtWidth dst < 16 ∧ q then 32 + j else j) =
        (conv dst (laneFmt lt) (all.getD j 0)).1.toNat % 2 ^ fmtWidth dst) ∧
    (c.img.pp = false → ∀ x : Option Reg, (x = none ∨ x = some e) →
      runs (.vqnt dst d a b x) ∧
      let r := blockQuant dst (all.map valF32) (x.toList.map fun y => valF32 (lane (m.getV y) 0))
      after (.vqnt dst d a b x) = (m.setV d (BitVec.ofNat 512 (leNat (blockBytes dst r.1 r.2.1)))).orFlags r.2.2)

/-- The completion event of a waiting entry of a resident context that is no command and no exchange: while an older entry holds it
back, or has failed the check of its re-dispatch, nothing changes; otherwise a vector entry leaves its effect in the image and
is removed from the ring, with nothing else changed, a vector access makes its accesses and is removed, and one that would fault
stays. (R141, R142, R404) -/
def Obligations.RingEntryCompletes : Prop :=
  ∀ (s : State) (cid seq core : Nat) (c : Ctx) (older : List RingEntry) (e : RingEntry), s.ctx? cid = some c →
    c.core? = some core → splitRing c.ring seq = some (older, e) → isCommand e.instr = false →
    ((older.any fun o => holdsBack o e) = true ∨ barred older = true → exec (.ringEntryComplete cid seq) s = .next s) ∧
    ((older.any fun o => holdsBack o e) = false → barred older = false → againFault e c.img = none → vmaxxW e.instr = none → isVmem e = false →
      e.phase = .waiting →
      ∃ t, exec (.ringEntryComplete cid seq) s = .next t ∧
        t.ctx? cid = some { c with img := vecEffect e c.img, ring := c.ring.filter fun x => x.seq.toNat != seq } ∧
        (∀ j, j ≠ cid → t.ctx? j = s.ctx? j) ∧ t = { s with ctxs := t.ctxs }) ∧
    ((older.any fun o => holdsBack o e) = false → barred older = false → againFault e c.img = none → vmaxxW e.instr = none → isVmem e = true →
      e.phase = .waiting →
      (∀ t m, vmemRun s core e c.img = (t, .ok m) →
        exec (.ringEntryComplete cid seq) s = .next ((t.updCtx cid fun x => { x with img := m }).setEntry cid seq none)) ∧
      (∀ t f, vmemRun s core e c.img = (t, .error f) → exec (.ringEntryComplete cid seq) s = .next s))

/-- Free to execute, with ring room and the registers held, each vector memory instruction dispatches with its operands captured. A
load reads each active lane, in rising order, as the scalar load of its four bytes at base + offset does, whatever the kind of
the slot. A store to a global slot checks each active lane as a scalar store does and then writes runs of bytes within lines,
the highest lane winning a byte, through the core's L1 as scalar stores do (registers of the management space apart). When the
slot is a cluster segment, completion of a load reads each active lane's four bytes at base + offset from the banks, and
completion of a store writes each active lane's, the highest lane winning a byte, every other byte of the banks unchanged; the
offset is contiguous, strided or indexed as R156 says; where the segment check of an active lane fails, the run gives the fault
of the lowest such lane, and nothing changes. (No bank holds uncorrectable data, and no load has been performed ahead of its
turn.) (R156, R157, R158, R166, R181) -/
def Obligations.VectorMemoryInCluster : Prop :=
  ∀ (s : State) (cid core : Nat) (c : Ctx) (d xo e : Reg) (seg : Slot) (imm : BitVec 16) (k : Mask), s.Ready cid c [xo, e] →
    s.here = core → isService core = false → s.Room c [d, e] → s.badSram = [] → (s.core core).early = [] →
    let m := c.img
    let g := m.slot seg
    let base : Int := nOf (m.getX xo) + imm.toInt
    let on := (List.range 16).filter (activeLane m k)
    let runs := fun i : Instr => exec i s = s.dispatched cid c i 8
    let faults := fun (i : Instr) (store : Bool) (off : Nat → Int) =>
      ∀ j ∈ on, ∀ f, segCheck g [kGlobal, kCluster] false (off j) 4 4 (!store) store store = some f →
        (∀ h ∈ on, h < j → segCheck g [kGlobal, kCluster] false (off h) 4 4 (!store) store store = none) → g.kind = kCluster →
        vmemRun s core (mkEntry s c i 0) m = (s, .error f)
    let loads := fun (i : Instr) (off : Nat → Int) =>
      runs i ∧ faults i false off ∧
      (∀ (st : Nat → State) (v : Nat → List Byte), st 0 = s → g.kind = kGlobal ∨ g.kind = kCluster →
        (∀ j, j < 16 → if activeLane m k j then (st j).segLoad core g (off j) 4 false none = (st (j + 1), .ok (v j)) else st (j + 1) = st j) →
        ∃ n, vmemRun s core (mkEntry s c i 0) m = (st 16, .ok n) ∧ BitsWise m n k d fun j => BitVec.ofNat 32 (leNat (v j))) ∧
      (g.kind = kCluster → (∀ j ∈ on, segCheck g [kGlobal, kCluster] false (off j) 4 4 true false false = none) →
        ∃ n, vmemRun s core (mkEntry s c i 0) m = (s, .ok n) ∧
          BitsWise m n k d fun j => BitVec.ofNat 32 (leNat (s.bankBytes (coreGrove core) (g.base + (off j).toNat) 4)))
    let stores := fun (i : Instr) (off : Nat → Int) =>
      runs i ∧ faults i true off ∧
      (∀ (st : Nat → State) (ps : Nat → List (Nat × Nat)), st 0 = s → g.kind = kGlobal →
        (∀ j, j < 16 → if activeLane m k j then
            segCheck g [kGlobal, kCluster] false (off j) 4 4 false true true = none ∧
              (st j).accessParts core g (off j) 4 .write true = (st (j + 1), .ok (ps j)) ∧ ∀ q ∈ ps j, mgmtAt? q.1 = none
          else st (j + 1) = st j) →
        let cells := on.flatMap fun j => partCells (ps j) (leBytes 4 (lane (m.getV d) j).toNat)
        ∃ rs : List (Nat × List Byte),
          vmemRun s core (mkEntry s c i 0) m = (rs.foldl (fun t w => t.writeAt core g w.1 w.2 none) (st 16), .ok m) ∧
          (∀ w ∈ rs, w.2 ≠ [] ∧ w.1 % 128 + w.2.length ≤ 128) ∧ rs.Pairwise (fun v w => v.1 + v.2.length ≤ w.1) ∧
          ∀ (p : Nat) (b : Byte), (∃ w ∈ rs, w.1 ≤ p ∧ w.2[p - w.1]? = some b) ↔
            (cells.reverse.find? fun q => q.1 == p).map Prod.snd = some b) ∧
      (s.MemInv → g.kind = kCluster → (∀ j ∈ on, segCheck g [kGlobal, kCluster] false (off j) 4 4 false true true = none) →
        ∃ t, vmemRun s core (mkEntry s c i 0) m = (t, .ok m) ∧ s.OnlyBanks t (coreGrove core) ∧
          ∀ p : Nat, (t.grove (coreGrove core)).cluster.read p =
            match on.reverse.find? (fun j => decide (g.base + (off j).toNat ≤ p ∧ p < g.base + (off j).toNat + 4)) with
            | some j => (lane (m.getV d) j).extractLsb' (8 * (p - (g.base + (off j).toNat))) 8
            | none => (s.grove (coreGrove core)).cluster.read p)
    loads (.vld d xo seg imm k) (fun j => base + 4 * j) ∧
    loads (.vlds d xo e seg imm k) (fun j => base + j * (m.getX e).toInt) ∧
    loads (.vldx d xo e seg imm k) (fun j => base + 4 * (lane (m.getV e) j).toInt) ∧
    stores (.vst d xo seg imm k) (fun j => base + 4 * j) ∧
    stores (.vsts d xo e seg imm k) (fun j => base + j * (m.getX e).toInt) ∧
    stores (.vstx d xo e seg imm k) (fun j => base + 4 * (lane (m.getV e) j).toInt)

/-- Free to execute with no vector access before it, each load, of 1, 2, 4 or 8 bytes at displacement disp (scaled by the access
size in format M), answers a next state: where its access reads bytes, it commits with the little-endian value, sign-extended
for a signed type, in X(d); where its access faults, that fault is taken. (R180, R181, R182) -/
def Obligations.ScalarLoadResults : Prop :=
  ∀ (s : State) (cid : Nat) (c : Ctx) (d xo : Reg) (seg : Slot) (d5 : BitVec 5) (d20 : BitVec 20) (d32 : BitVec 32) (nc : Bool)
    (acq : Option Scope), s.Ready cid c [d, xo] → ringHasMem (s.coreRing s.here) = false →
    let m := c.img
    let x : Int := (m.getX xo).toNat
    let num := fun bs : List Byte => bs.foldr (fun (b : Byte) (acc : Nat) => acc * 256 + b.toNat) 0
    let loads := fun (i : Instr) (sgn : Bool) (n len : Nat) (disp : Int) (nc : Bool) (acq : Option Scope) =>
      (∀ t bs, s.segLoad s.here (m.slot seg) (x + disp) n nc acq = (t, .ok bs) →
        exec i s = t.goes cid ((m.setX d (if sgn then BitVec.ofInt 64 (BitVec.ofNat (8 * n) (num bs)).toInt
          else BitVec.ofNat 64 (num bs))).next len)) ∧
      (∀ t f, s.segLoad s.here (m.slot seg) (x + disp) n nc acq = (t, .error f) → exec i s = t.traps cid c f)
    loads (.ldI8 d xo seg d5) true 1 4 d5.toInt false none ∧ loads (.ldN8 d xo seg d5) false 1 4 d5.toInt false none ∧
    loads (.ldI16 d xo seg d5) true 2 4 (2 * d5.toInt) false none ∧ loads (.ldN16 d xo seg d5) false 2 4 (2 * d5.toInt) false none ∧
    loads (.ldI32 d xo seg d5) true 4 4 (4 * d5.toInt) false none ∧ loads (.ldN32 d xo seg d5) false 4 4 (4 * d5.toInt) false none ∧
    loads (.ldI64 d xo seg d5) true 8 4 (8 * d5.toInt) false none ∧
    loads (.ldI8Mk d xo seg d20 nc acq) true 1 8 d20.toInt nc acq ∧ loads (.ldN8Mk d xo seg d20 nc acq) false 1 8 d20.toInt nc acq ∧
    loads (.ldI16Mk d xo seg d20 nc acq) true 2 8 d20.toInt nc acq ∧
    loads (.ldN16Mk d xo seg d20 nc acq) false 2 8 d20.toInt nc acq ∧
    loads (.ldI32Mk d xo seg d20 nc acq) true 4 8 d20.toInt nc acq ∧
    loads (.ldN32Mk d xo seg d20 nc acq) false 4 8 d20.toInt nc acq ∧
    loads (.ldI64Mk d xo seg d20 nc acq) true 8 8 d20.toInt nc acq ∧
    loads (.ldI8Mkl d xo seg d32 nc acq) true 1 12 d32.toInt nc acq ∧
    loads (.ldN8Mkl d xo seg d32 nc acq) false 1 12 d32.toInt nc acq ∧
    loads (.ldI16Mkl d xo seg d32 nc acq) true 2 12 d32.toInt nc acq ∧
    loads (.ldN16Mkl d xo seg d32 nc acq) false 2 12 d32.toInt nc acq ∧
    loads (.ldI32Mkl d xo seg d32 nc acq) true 4 12 d32.toInt nc acq ∧
    loads (.ldN32Mkl d xo seg d32 nc acq) false 4 12 d32.toInt nc acq ∧
    loads (.ldI64Mkl d xo seg d32 nc acq) true 8 12 d32.toInt nc acq

/-- Free to execute with no vector access before it, each store makes its access with the low 1, 2, 4 or 8 bytes of X(d) and commits
with no register changed, or takes the fault of the access; one with a release stalls while an older matrix command, or an
engine command not yet accepted, is in the core's ring; lea, free to execute, writes base + X(xo) + disp modulo 2^56, and traps
with code 8 detail 1 on an invalid slot. (R91, R120, R180, R181, R183) -/
def Obligations.ScalarStoresAndLea : Prop :=
  ∀ (s : State) (cid : Nat) (c : Ctx) (d xo : Reg) (seg : Slot) (d5 : BitVec 5) (d20 : BitVec 20) (d32 : BitVec 32)
    (rel : Option Scope), s.Ready cid c [d, xo] →
    let m := c.img
    let x : Int := (m.getX xo).toNat
    let g := m.slot seg
    let low := fun n : Nat => (List.range n).map fun k => (m.getX d).extractLsb' (8 * k) 8
    let stores := fun (i : Instr) (n len : Nat) (disp : Int) (rel : Option Scope) =>
      ringHasMem (s.coreRing s.here) = false →
      (rel.isSome = true → relWait (s.coreRing s.here) = true → exec i s = .next { s with stalled := true }) ∧
      ((rel.isSome = true → relWait (s.coreRing s.here) = false) →
      (∀ t, s.segStore s.here g (x + disp) (low n) rel = (t, .ok ()) → exec i s = t.goes cid (m.next len)) ∧
      (∀ t f, s.segStore s.here g (x + disp) (low n) rel = (t, .error f) → exec i s = t.traps cid c f))
    let lea := fun (i : Instr) (len : Nat) (disp : Int) =>
      let va := (((g.base : Int) + x + disp) % 2 ^ 56).toNat
      exec i s = (if g.kind = 0 then s.traps cid c (FaultRec.mk0 8 1 va)
        else s.goes cid ((m.setX d (BitVec.ofNat 64 va)).next len))
    stores (.stI8 d xo seg d5) 1 4 d5.toInt none ∧ stores (.stI16 d xo seg d5) 2 4 (2 * d5.toInt) none ∧
    stores (.stI32 d xo seg d5) 4 4 (4 * d5.toInt) none ∧ stores (.stI64 d xo seg d5) 8 4 (8 * d5.toInt) none ∧
    stores (.stI8Mk d xo seg d20 rel) 1 8 d20.toInt rel ∧ stores (.stI16Mk d xo seg d20 rel) 2 8 d20.toInt rel ∧
    stores (.stI32Mk d xo seg d20 rel) 4 8 d20.toInt rel ∧ stores (.stI64Mk d xo seg d20 rel) 8 8 d20.toInt rel ∧
    stores (.stI8Mkl d xo seg d32 rel) 1 12 d32.toInt rel ∧ stores (.stI16Mkl d xo seg d32 rel) 2 12 d32.toInt rel ∧
    stores (.stI32Mkl d xo seg d32 rel) 4 12 d32.toInt rel ∧ stores (.stI64Mkl d xo seg d32 rel) 8 12 d32.toInt rel ∧
    lea (.lea d xo seg d5) 4 d5.toInt ∧ lea (.leaMk d xo seg d20) 8 d20.toInt ∧ lea (.leaMkl d xo seg d32) 12 d32.toInt

/-- For every slot and offset of an aligned access of n bytes, the first failing check of kind, alignment, bounds and permission
gives its fault with the accessed address as va, and none fails exactly when all pass. (R164, R399) -/
def Obligations.SegmentChecksInOrder : Prop :=
  ∀ (d : Desc) (service : Bool) (off : Int) (n : Nat) (needR needW wr : Bool), 0 < n →
    let va := (((d.base : Int) + off) % 2 ^ 56).toNat
    let fault := fun code data : Nat =>
      some { code := code, data := data, va := va, w := wr, late := false, seq := none, step := 0 : FaultRec }
    let r := segCheck d kindsAll service off n n needR needW wr
    let badKind := d.kind = 0 ∨ ¬ d.kind ∈ [kGlobal, kCluster, kHostm, kTier] ∨ (service = true ∧ d.kind = kCluster)
    let badAlign := ¬ (n : Int) ∣ off
    let badBounds := off < 0 ∨ (d.len : Int) < off + n
    let badPerm := (needR = true ∧ d.canR = false) ∨ (needW = true ∧ d.canW = false)
    (d.kind = 0 → r = fault 8 1) ∧ (badKind → d.kind ≠ 0 → r = fault 8 2) ∧ (¬ badKind → badAlign → r = fault 9 0) ∧
    (¬ badKind → ¬ badAlign → badBounds → r = fault 8 3) ∧ (¬ badKind → ¬ badAlign → ¬ badBounds → badPerm → r = fault 8 4) ∧
    (¬ badKind → ¬ badAlign → ¬ badBounds → ¬ badPerm → r = none)

/-- Past its segment checks, with no load of its core performed ahead of its turn, a load without acquire reads the banks in a
cluster segment and changes nothing, and where they hold bad data reports it and faults with code 12; past translation, an
access within a line reads the register in the management space, and elsewhere, with no error in SRAM and every tier island
powered, on a line that holds no partial, a slice-level load (.nc, policy 2, hostm, or of a service core) of good data reads the
bytes that are dirty in its grove's L1 line (never for hostm) and the home's otherwise, with every grove and home byte
unchanged; a load through the L1 reads the line where all its bytes are valid, and the home where the line is absent and its set
has room, with no home byte changed; an access that reaches into the next line checks the page of each part and reads the parts
in ascending order. (R163, R165, R166, R179, R181, R410) -/
def Obligations.PlainLoadsReadTheirPlace : Prop :=
  ∀ (s : State) (core : Nat) (d : Desc) (off : Int) (n : Nat) (nc : Bool), 0 < n →
    segCheck d kindsAll (isService core) off n n true false false = none →
    let g := coreGrove core
    let k := 128 - (((d.base : Int) + off) % 2 ^ 56).toNat % 128
    (d.kind = kCluster → (s.core core).early = [] → s.badBank g (d.base + off.toNat) n = false → s.segLoad core d off n nc none =
      (s, .ok ((List.range n).map fun k => (s.grove g).cluster.read (d.base + off.toNat + k)))) ∧
    (d.kind = kCluster → s.badBank g (d.base + off.toNat) n = true → s.segLoad core d off n nc none =
      (s.machineCheck (groveDie g) 1 1 0 (d.base + off.toNat) (g % 256) (coreInGrove core),
        .error (FaultRec.mk 12 1 (((d.base : Int) + off) % 2 ^ 56).toNat false false none 0))) ∧
    (d.kind ≠ kCluster → ∀ s1 e, s.accessPa core d off .read false = (s1, .error e) →
      s.segLoad core d off n nc none = (s1, .error e)) ∧
    (d.kind ≠ kCluster → n ≤ k → ∀ s1 pa dd o, s.accessPa core d off .read false = (s1, .ok pa) → mgmtAt? pa = some (dd, o) →
      (s1.core core).early = [] → s.segLoad core d off n nc none = (s1, .ok (s1.readRegBytes dd o n))) ∧
    (d.kind ≠ kCluster → k < n → ∀ s1 pa s2 r, s.accessPa core d off .read false = (s1, .ok pa) →
      s1.accessPa core d (off + k) .read false = (s2, r) →
      (∀ e, r = .error e → s.segLoad core d off n nc none = (s2, .error e)) ∧
      (∀ pb, r = .ok pb → ∀ t1 b1 t2 b2, s2.readAt core d pa k nc = (t1, some b1) → t1.readAt core d pb (n - k) nc = (t2, some b2) →
        (t2.core core).early = [] → s.segLoad core d off n nc none = (t2, .ok (b1 ++ b2)))) ∧
    (d.kind ≠ kCluster → n ≤ k → ∀ s1 pa, s.accessPa core d off .read false = (s1, .ok pa) → s1.Plain (lineOf pa) → s1.MemInv →
      (s1.core core).early = [] → s1.tierPower = 0xFF#8 → s1.badSram = [] → s1.badAt (coreDie core) pa n = false → pa % 128 + n ≤ 128 → mgmtAt? pa = none →
      let line? := (s1.grove g).line? (lineOf pa)
      let sliceLevel := nc = true ∨ d.pol = 2 ∨ d.kind = kHostm ∨ isService core = true
      (sliceLevel → ∃ t, t.groves = s1.groves ∧ (∀ p, t.homeByte p = s1.homeByte p) ∧
        s.segLoad core d off n nc none = (t, .ok ((List.range n).map fun k =>
          match line? with
          | some l => if l.dirty.getLsbD (pa % 128 + k) ∧ d.kind ≠ kHostm ∧ isService core = false then lineByte l.data (pa % 128 + k)
            else s1.homeByte (pa + k)
          | none => s1.homeByte (pa + k)))) ∧
      (¬ sliceLevel → ∀ l, line? = some l → (∀ k, k < n → l.valid.getLsbD (pa % 128 + k) = true) →
        ∃ t, (∀ p, t.homeByte p = s1.homeByte p) ∧
          s.segLoad core d off n nc none = (t, .ok ((List.range n).map fun k => lineByte l.data (pa % 128 + k)))) ∧
      (¬ sliceLevel → line? = none → s1.HasRoom g (lineOf pa) →
        ∃ t, (∀ p, t.homeByte p = s1.homeByte p) ∧
          s.segLoad core d off n nc none = (t, .ok ((List.range n).map fun k => s1.homeByte (pa + k)))))

/-- Past its segment checks, a store without release in a cluster segment writes exactly its bytes of the banks; past translation,
on a plain range (no partial waits on its line, and it is no image, mailbox index or management space), a store through the L1
(the line there, or its set with room) leaves every home byte as it was and its grove seeing exactly its bytes changed; a
slice-level store of a grove that holds no copy, with no error in SRAM and every tier island powered, changes exactly its bytes
at their homes and no L1; a store that reaches into the next line checks the page of each part, and then writes the parts in
ascending order. (R165, R166, R181, R191) -/
def Obligations.PlainStoresLandInTheirPlace : Prop :=
  ∀ (s : State) (core : Nat) (d : Desc) (off : Int) (bs : List Byte), 0 < bs.length →
    segCheck d kindsAll (isService core) off bs.length bs.length false true true = none →
    let g := coreGrove core
    let k := 128 - (((d.base : Int) + off) % 2 ^ 56).toNat % 128
    (s.MemInv → d.kind = kCluster → ∃ t, s.segStore core d off bs none = (t, .ok ()) ∧ s.OnlyBanks t g ∧
      ∀ p, (t.grove g).cluster.read p =
        if d.base + off.toNat ≤ p ∧ p < d.base + off.toNat + bs.length then bs.getD (p - (d.base + off.toNat)) 0
        else (s.grove g).cluster.read p) ∧
    (d.kind ≠ kCluster → ∀ s1 e, s.accessPa core d off .write true = (s1, .error e) →
      s.segStore core d off bs none = (s1, .error e)) ∧
    (d.kind ≠ kCluster → k < bs.length → ∀ s1 pa s2 r, s.accessPa core d off .write true = (s1, .ok pa) →
      s1.accessPa core d (off + k) .write true = (s2, r) →
      (∀ e, r = .error e → s.segStore core d off bs none = (s2, .error e)) ∧
      (∀ pb, r = .ok pb → s.segStore core d off bs none =
        ((s2.writeAt core d pa (bs.take k) none).writeAt core d pb (bs.drop k) none, .ok ()))) ∧
    (d.kind ≠ kCluster → bs.length ≤ k → ∀ s1 pa, s.accessPa core d off .write true = (s1, .ok pa) → s1.PlainRange pa bs.length →
      let sliceLevel := d.pol = 2 ∨ d.kind = kHostm ∨ isService core = true
      (¬ sliceLevel → s1.HasRoom g (lineOf pa) →
        ∃ t, s.segStore core d off bs none = (t, .ok ()) ∧ (∀ p, t.homeByte p = s1.homeByte p) ∧
          (∀ h, h ≠ g → t.grove h = s1.grove h) ∧
          ∀ p, t.seen g p = if pa ≤ p ∧ p < pa + bs.length then bs.getD (p - pa) 0 else s1.seen g p) ∧
      (sliceLevel → s1.MemInv → s1.badSram = [] → s1.tierPower = 0xFF#8 → (s1.grove g).line? (lineOf pa) = none →
        ∃ t, s.segStore core d off bs none = (t, .ok ()) ∧ t.groves = s1.groves ∧
          ∀ p, t.homeByte p = if pa ≤ p ∧ p < pa + bs.length then bs.getD (p - pa) 0 else s1.homeByte p))

/-- Free to execute with no vector access before it, each atomic first traps with code 7 on a hostm slot with a scope below device,
then waits, with a release, for older matrix and unaccepted engine commands, then traps where its checks or its translation
fail; else it replaces the word M of 4 or 8 bytes by its function of M, the low bytes of X(b) and, for cas, those of X(d), and
commits with the old word, sign-extended or natural as R185 says, in X(d): in the banks of a cluster segment; where it matches
the commutative range of its word, on the partial in its grove's L1, with 0 in X(d); at grove scope in the grove's L1 copy, no
home byte changed; and else, under policy 2, of a service core, and in hostm at device or fabric scope, at the home, once the
own grove has written its copy back and, with an acquire beyond the grove, the groves of the record have drained; a release
beyond the grove then adds its record. Uncorrectable data in the banks gives code 12. The home and L1 clauses are for plain
words with every tier island powered and no error in SRAM. (That natural alignment is of the base plus the offset is the model's
choice, log 83; an atomic under policy 2 is performed at the home also on a commutative range, log 41; a fault of it has W set,
log 44.) (R164, R171, R172, R175, R184, R185, R186) -/
def Obligations.AtomicResults : Prop :=
  ∀ (s : State) (cid : Nat) (c : Ctx) (d xo b : Reg) (seg : Slot) (disp : BitVec 20) (acq rel wide : Bool) (sc : Scope),
    s.Ready cid c [d, xo, b] → ringHasMem (s.coreRing s.here) = false →
    let m := c.img
    let g := m.slot seg
    let off : Int := (m.getX xo).toNat + disp.toInt
    let va := (((g.base : Int) + off) % 2 ^ 56).toNat
    let h := coreGrove s.here
    let near := sc = .core ∨ sc = .grove
    let does := fun (i : Instr) (op : AmoOp) (n : Nat) (sgn : Bool) (new : Nat → Nat → Nat → Nat) =>
      let v := (m.getX b).toNat % 2 ^ (8 * n)
      let e := (m.getX d).toNat % 2 ^ (8 * n)
      let ext := fun old : Nat => if sgn then BitVec.ofInt 64 (BitVec.ofNat (8 * n) old).toInt else BitVec.ofNat 64 old
      let ends := fun (t : State) (old : Nat) => t.goes cid ((m.setX d (ext old)).next 8)
      let refused := g.kind = kHostm ∧ (near ∨ sc = .die)
      let check := segCheckWord g (isService s.here) off n true true true
      let replaced := fun (u t : State) (pa old : Nat) =>
        ∀ p, t.homeByte p = if pa ≤ p ∧ p < pa + n then (leBytes n (new old v e)).getD (p - pa) 0 else u.homeByte p
      (refused → exec i s = s.traps cid c (operandFault m 0)) ∧
      (¬ refused → rel = true → relWait (s.coreRing s.here) = true → exec i s = .next { s with stalled := true }) ∧
      (¬ refused → (rel = false ∨ relWait (s.coreRing s.here) = false) →
        (∀ f, check = some f → exec i s = s.traps cid c f) ∧
        (check = none → g.kind = kCluster →
          let a := g.base + off.toNat
          let old := leNat (s.bankBytes h a n)
          let t := s.bankWrite h a (leBytes n (new old v e))
          (s.badBank h a n = false → exec i s = ends (if acq = true ∧ ¬ near then t.invalidate h else t) old) ∧
          (s.badBank h a n = true → exec i s = (s.reportBank h a s.here).traps cid c (FaultRec.mk 12 1 va true false none 0))) ∧
        (check = none → g.kind ≠ kCluster →
          (∀ s1 f, s.accessPa s.here g off .atomic true = (s1, .error f) → exec i s = s1.traps cid c f) ∧
          ∀ s1 pa, s.accessPa s.here g off .atomic true = (s1, .ok pa) →
            let own := g.kind ≠ kHostm ∧ isService s.here = false
            let mayMatch := own ∧ g.pol ≠ 2 ∧ (sc = .grove ∨ (sc = .device ∧ m.duo = true)) ∧ acq = false ∧ rel = false
            let noMatch := ¬ mayMatch ∨ ∀ k r, s1.rangeAt g.asid va = some (k, r) → rangeTakes r op n = false
            (mayMatch → ∀ k r, s1.rangeAt g.asid va = some (k, r) → rangeTakes r op n = true →
              (s1.matching s.here pa n k r op v g.streams).2 = true →
              exec i s = (s1.matching s.here pa n k r op v g.streams).1.goes cid ((m.setX d 0).next 8)) ∧
            (noMatch → own → g.pol ≠ 2 → sc = .grove → s1.Plain (lineOf pa) → pa % 128 + n ≤ 128 → s1.MemInv →
              s1.badSram = [] → s1.tierPower = 0xFF#8 → s1.badAt (coreDie s.here) pa n = false →
              ((∃ l, (s1.grove h).line? (lineOf pa) = some l ∧ ∀ k, k < n → l.valid.getLsbD (pa % 128 + k) = true) ∨
                ((s1.grove h).line? (lineOf pa) = none ∧ s1.HasRoom h (lineOf pa))) →
              let old := leNat ((List.range n).map fun k => s1.seen h (pa + k))
              ∃ t, exec i s = ends t old ∧ (∀ p, t.homeByte p = s1.homeByte p) ∧ (∀ q, q ≠ h → t.grove q = s1.grove q) ∧
                ∀ p, t.seen h p = if pa ≤ p ∧ p < pa + n then (leBytes n (new old v e)).getD (p - pa) 0 else s1.seen h p) ∧
            (noMatch → (own → g.pol = 2 ∨ sc ≠ .grove) →
              let s2 := if g.kind ≠ kHostm ∧ isService s.here = false then s1.pushLine h (lineOf pa) else s1
              let u := if acq = true ∧ ¬ near then s2.acquireLine s.here (lineOf pa) sc else s2
              u.PlainRange pa n → u.MemInv → u.badSram = [] → u.tierPower = 0xFF#8 → u.badAt (homeDie pa) pa n = false →
              let old := leNat (u.homeBytes pa n)
              ∃ t, exec i s = ends (if rel = true ∧ ¬ near then t.addRecord s.here (lineOf pa) sc else t) old ∧
                t.groves = u.groves ∧ replaced u t pa old)))
    let n := if wide then 8 else 4
    let sg := fun k : Nat => if k < 2 ^ (8 * n - 1) then (k : Int) else (k : Int) - 2 ^ (8 * n)
    does (.amoAdd wide d xo b seg disp acq rel sc) .add n true (fun p v _ => (p + v) % 2 ^ (8 * n)) ∧
    does (.amoAnd wide d xo b seg disp acq rel sc) .and n true (fun p v _ => p &&& v) ∧
    does (.amoOr wide d xo b seg disp acq rel sc) .or n true (fun p v _ => p ||| v) ∧
    does (.amoXor wide d xo b seg disp acq rel sc) .xor n true (fun p v _ => p ^^^ v) ∧
    does (.amoMin wide d xo b seg disp acq rel sc) .min n true (fun p v _ => if sg v < sg p then v else p) ∧
    does (.amoMax wide d xo b seg disp acq rel sc) .max n true (fun p v _ => if sg p < sg v then v else p) ∧
    does (.amoMinn wide d xo b seg disp acq rel sc) .minn n false (fun p v _ => min p v) ∧
    does (.amoMaxn wide d xo b seg disp acq rel sc) .maxn n false (fun p v _ => max p v) ∧
    does (.amoSwap wide d xo b seg disp acq rel sc) .swap n true (fun _ v _ => v) ∧
    does (.amoCas wide d xo b seg disp acq rel sc) .cas n true (fun p v e => if p = e then v else p) ∧
    does (.amoFadd d xo b seg disp acq rel sc) .fadd 4 false (fun p v _ => (addRne (BitVec.ofNat 32 p) (BitVec.ofNat 32 v)).toNat) ∧
    does (.amoFmin d xo b seg disp acq rel sc) .fmin 4 false (fun p v _ => (minF32 (BitVec.ofNat 32 p) (BitVec.ofNat 32 v)).toNat) ∧
    does (.amoFmax d xo b seg disp acq rel sc) .fmax 4 false (fun p v _ => (maxF32 (BitVec.ofNat 32 p) (BitVec.ofNat 32 v)).toNat)

/-- An atomic of a commutative range's operation and format (integer or FP32 add, minimum or maximum, or), on a word of a plain line
in a grove that holds no copy of it and has room, changes no home byte; after the line is recalled and its sums rounded, each of
its words holds the range's operation of what its home held and of the partial, which is the identity but in the word itself,
there the operation of the identity and v; no other line's home byte changes; an integer add has increased the word by v modulo
its size and left every other byte. An FP32 add waits as the exact sum of what stood there and each partial. For lines whose
home slice has an entry of its combine buffer free, with every tier island powered and no error in SRAM. (R171, R172, R173) -/
def Obligations.CommutativeAddReachesHome : Prop :=
  ∀ (s : State) (core pa n k v : Nat) (r : CRange) (op : AmoOp) (streaming : Bool), (n = 4 ∨ n = 8) → rangeTakes r op n = true →
    ((op = .fadd ∨ op = .fmin ∨ op = .fmax) → n = 4) →
    s.ranges.get? k = some r → (s.grove (coreGrove core)).line? (lineOf pa) = none →
    s.HasRoom (coreGrove core) (lineOf pa) → pa % n = 0 → v < 2 ^ (8 * n) →
    s.PlainRange (128 * lineOf pa) 128 → s.MemInv → s.badSram = [] → s.tierPower = 0xFF#8 → s.combOldest (lineOf pa) = none →
    let t := (s.matching core pa n k r op v streaming).1
    let u := t.settle (128 * lineOf pa) 128
    let id := rangeIdentity r.op r.fmt
    (s.matching core pa n k r op v streaming).2 = true ∧ (∀ p, t.homeByte p = s.homeByte p) ∧
    (∀ j, j < 128 / n →
      let a := 128 * lineOf pa + n * j
      leNat (u.homeBytes a n) = rangeOp r.op r.fmt (leNat (s.homeBytes a n)) (if a = pa then amoNew op n id v 0 else id)) ∧
    (∀ p, lineOf p ≠ lineOf pa → u.homeByte p = s.homeByte p) ∧
    (op = .add → leNat (u.homeBytes pa n) = (leNat (s.homeBytes pa n) + v) % 2 ^ (8 * n) ∧
      ∀ p, p < pa ∨ pa + n ≤ p → u.homeByte p = s.homeByte p) ∧
    (∀ (l : L1Line), l.line = lineOf pa → r.op = 1 → ∃ c, (s.combinePartial r l).comb? l.line = some c ∧ ∀ i, i < 32 →
      (4 * i, (FV.add .rne (valF32 (BitVec.ofNat 32 (leNat (s.homeBytes (128 * l.line + 4 * i) 4))))
        (valF32 (l.data.extractLsb' (32 * i) 32))).1) ∈ c.sums ∧
      ∀ (l2 : L1Line), l2.line = l.line → ∃ c2, ((s.combinePartial r l).combinePartial r l2).comb? l.line = some c2 ∧
        (4 * i, (FV.add .rne (FV.add .rne (valF32 (BitVec.ofNat 32 (leNat (s.homeBytes (128 * l.line + 4 * i) 4))))
          (valF32 (l.data.extractLsb' (32 * i) 32))).1 (valF32 (l2.data.extractLsb' (32 * i) 32))).1) ∈ c2.sums)

/-- Free to execute with no vector access before it in the core's ring, a fence stalls while an older engine or matrix command of
the core is not accepted, or, with a release at fabric scope, a put or pub has not landed; otherwise it commits, below die scope
with no effect, and at die scope or wider with the release part leaving no line dirty by the core in its grove's L1, and the
acquire part leaving no byte there valid and clean and the core's pending-drain set empty, what of it lies outside the scope
being remembered for a wider fence; fence.w stalls, keeping its window boundary, while a write is queued or its window has not
ended, and then commits. (That what lies outside the scope is remembered is the model's choice, log 71, and so is what a fence
waits for, log 40.) (R169, R187, R188, R189, R280) -/
def Obligations.FencesOrderAndWait : Prop :=
  ∀ (s : State) (cid : Nat) (c : Ctx) (sc : Scope), s.Ready cid c [] →
    let go := fun t : State => t.goes cid (c.img.next 4)
    let wide := sc = .die ∨ sc = .device ∨ sc = .fabric
    let ring := s.coreRing s.here
    let waitsA := acceptWait ring = true
    let waitsR := acceptWait ring = true ∨ s.fabricWait s.here sc = true
    let g := coreGrove s.here
    let clean := fun t : State => isService s.here = false →
      ∀ l ∈ (t.grove g).l1, l.upd = none → (l.byCore ||| l.byAtom) &&& coreBit s.here = 0
    let fresh := fun t : State => isService s.here = false → ∀ l ∈ (t.grove g).l1, l.upd = none → l.valid = l.dirty
    let left := fun t : State => (t.core s.here).pending = .listed [] ∧
      (t.core s.here).beyond = match (s.core s.here).undrained with
        | .listed es => .listed (es.filter fun e => !scopeHas sc (groveOf s.here) (coreDie s.here) e.1)
        | .all => if sc = .die then .all else .listed []
    (ringHasMem ring = false → waitsR → exec (.fence sc) s = .next { s with stalled := true } ∧
      exec (.fenceRel sc) s = .next { s with stalled := true }) ∧
    (ringHasMem ring = false → waitsA → exec (.fenceAcq sc) s = .next { s with stalled := true }) ∧
    (ringHasMem ring = false → ¬ waitsR → ¬ wide → exec (.fence sc) s = go s ∧ exec (.fenceRel sc) s = go s) ∧
    (ringHasMem ring = false → ¬ waitsA → ¬ wide → exec (.fenceAcq sc) s = go s) ∧
    (ringHasMem ring = false → ¬ waitsR → wide →
      (∃ t, exec (.fence sc) s = go t ∧ clean t ∧ fresh t ∧ left t) ∧ (∃ t, exec (.fenceRel sc) s = go t ∧ clean t)) ∧
    (ringHasMem ring = false → ¬ waitsA → wide → ∃ t, exec (.fenceAcq sc) s = go t ∧ fresh t ∧ left t) ∧
    (let w := c.fenceWait s
     let k := s.core w.core
     (s.windowWait w = true → exec .fenceW s = .next { s.setCtx cid { c with winWait := some w } with stalled := true }) ∧
     (s.windowWait w = false → exec .fenceW s =
       go ((s.setCore w.core { k with lastWin := if k.lastWin = w.win then none else k.lastWin }).setCtx cid
         { c with winWait := none })) ∧
     (∀ n, w.win = some n → s.writesQueued w.core w.serial = false → s.drifted = false → (s.windowWait w = true ↔ s.window < n + 2)) ∧
     (c.winWait = some w → w.pc = c.img.pc → ∀ u : State, c.fenceWait u = w))

/-- Free to execute with no vector access before it, past its checks: waita retires a killed task; else it arms a watch on the
word's 64-byte region and reads the word; where the comparison does not hold, the context blocks until its watch; where it
holds, without acquire it disarms and commits with the word in X(d), and with one it reads the word again by an acquire access,
and commits with that word when the comparison still holds, and else starts again; a failing check or access traps. (Natural
alignment is of the base plus the offset, the model's choice, log 83.) (R190, R191) -/
def Obligations.WaitaComparesOrBlocks : Prop :=
  ∀ (s : State) (cid : Nat) (c : Ctx) (cc : IntCc) (d xo b : Reg) (seg : Slot) (disp : BitVec 20) (acq : Option Scope),
    s.Ready cid c [d, xo, b] → ringHasMem (s.coreRing s.here) = false →
    let m := c.img
    let g := m.slot seg
    let off : Int := (m.getX xo).toNat + disp.toInt
    let i := Instr.waita cc d xo b seg disp acq
    let word := fun bs : List Byte => (BitVec.ofNat 64 (leNat bs) : Word)
    (∀ f, segCheckWord g (isService s.here) off 8 true false false = some f → exec i s = s.traps cid c f) ∧
    (∀ t f, s.waitPlace s.here g off = (t, .error f) → exec i s = t.traps cid c f) ∧
    (∀ t p, s.waitPlace s.here g off = (t, .ok p) → m.kp = true → exec i s = .next { t.retire cid true with stalled := false }) ∧
    (∀ t p, s.waitPlace s.here g off = (t, .ok p) → m.kp = false →
      (∀ u f, (t.arm cid p.watch).loadPast s.here g off 8 true none = (u, .error f) → exec i s = u.traps cid c f) ∧
      (∀ u bs, (t.arm cid p.watch).loadPast s.here g off 8 true none = (u, .ok bs) →
        (ccMeans cc (word bs) (m.getX b) = false → exec i s = .next (u.block cid .watch)) ∧
        (ccMeans cc (word bs) (m.getX b) = true → acq = none →
          exec i s = (u.disarm cid).goes cid ((m.setX d (word bs)).next 8)) ∧
        (∀ sc, ccMeans cc (word bs) (m.getX b) = true → acq = some sc →
          (∀ v f, u.loadPast s.here g off 8 false (some sc) = (v, .error f) → exec i s = v.traps cid c f) ∧
          (∀ v bs', u.loadPast s.here g off 8 false (some sc) = (v, .ok bs') →
            exec i s = if ccMeans cc (word bs') (m.getX b) then (v.disarm cid).goes cid ((m.setX d (word bs')).next 8)
              else .next { v with stalled := true }))))

/-- Free to execute with no vector access before it, on a valid global or tier slot, in bounds with its permission: cwb writes back
and cflush also drops, in its grove's L1, the pages of the range in order, and cinv at system privilege on 32-byte bounds
discards its sectors and writes their dirty count to X(d) and DATA; each commits when every page translates, and an empty range
commits with nothing done; cpref on any slot but an invalid or a cluster one requests its sectors and commits. (R177, R192) -/
def Obligations.CacheControlResults : Prop :=
  ∀ (s : State) (cid : Nat) (c : Ctx) (d xo b : Reg) (seg : Slot) (disp : BitVec 20), s.Ready cid c [d, xo, b] →
    ringHasMem (s.coreRing s.here) = false →
    let m := c.img
    let g := m.slot seg
    let off : Int := (m.getX xo).toNat + disp.toInt
    let len := (m.getX b).toNat
    let counted := fun n : Nat =>
      ({ m.setX d (BitVec.ofNat 64 n) with
         faultinfo := (m.faultinfo &&& 0xFFFFFFFF#64) ||| BitVec.ofNat 64 (min n (2 ^ 32 - 1) * 2 ^ 32) } : Image).next 8
    (g.kind = kGlobal ∨ g.kind = kTier → len = 0 →
      exec (.cwb xo b seg disp) s = s.goes cid (m.next 8) ∧ exec (.cflush xo b seg disp) s = s.goes cid (m.next 8) ∧
      (m.prv = true → off % 32 = 0 → exec (.cinv d xo b seg disp) s = s.goes cid (counted 0))) ∧
    (g.kind = kGlobal ∨ g.kind = kTier → 0 < len → len ≤ 2 ^ 40 → segCheck g [kGlobal, kTier] false off len 1 true false false = none →
      ∀ t ps, s.pieces (pageFuel len) s.here g off len .read false = (t, ps, none) →
      exec (.cwb xo b seg disp) s = (t.overPieces s.here ps State.writeBackRange).goes cid (m.next 8) ∧
      exec (.cflush xo b seg disp) s =
        (t.overPieces s.here ps fun u h pa n => (u.writeBackRange h pa n).flushRange h pa n).goes cid (m.next 8)) ∧
    (g.kind = kGlobal ∨ g.kind = kTier → 0 < len → len ≤ 2 ^ 40 → len % 32 = 0 → off % 32 = 0 → m.prv = true →
      segCheck g [kGlobal, kTier] false off len 1 false true true = none →
      ∀ t ps, s.pieces (pageFuel len) s.here g off len .write true = (t, ps, none) →
      exec (.cinv d xo b seg disp) s =
        (t.discardAll (groveOf s.here) ps).1.goes cid (counted (t.discardAll (groveOf s.here) ps).2)) ∧
    (g.kind ≠ 0 → g.kind ≠ kCluster → exec (.cpref xo b seg disp) s =
      ((sectorParts 2050 (((g.base : Int) + off) % 2 ^ 56).toNat off (min 65536 len)).foldl
        (fun (t : State) p => t.prefetchSector t.here g p.1 p.2) s).goes cid (m.next 8))

/-- Free to execute with ring room and the registers held, vmaxx dispatches with its core's exchange number, which it increments,
its source read at once unless an older entry has still to write it; a contribution event reads the source once nothing older
holds it back and gives it, once and with the time of its arrival, to the other participant; when all have arrived with the same
w, by 65,536 cycles after the dispatch, completion sends what is left to send and writes to each lane NaN where some value is
NaN and else the largest magnitude; an entry with a contribution missing 65,536 cycles after dispatch faults with code 14 and k
as DATA, what it has read, or can read, still sent. (That the number is taken before the increment is the model's choice, log
69, and so are when the source is read and that an entry that ends sends what is left, log 46.) (R154, R155, R404) -/
def Obligations.MaximumExchange : Prop :=
  (∀ (s : State) (cid : Nat) (c : Ctx) (d a : Reg) (w : BitVec 3), s.Ready cid c [] → s.Room c [d, a] →
    let k := (s.core s.here).xchg
    let e0 := mkEntry s c (.vmaxx d a w) k.toNat
    let e := if sourceHeld c.ring a then e0 else { e0 with phase := .exchanging (c.img.getV a) }
    let t := (s.pushRing cid e).count s.here c.img.prv 3 1
    exec (.vmaxx d a w) s = (t.setCore s.here { t.core s.here with xchg := k + 1 }).goes cid (c.img.next 8)) ∧
  (∀ (s : State) (src dst k : Nat),
    (s.exchangeOn src k = none → exec (.vmaxxContribution src dst k) s = .next s) ∧
    (∀ (cid : Nat) (c : Ctx) (older : List RingEntry) (e : RingEntry) (d a : Reg) (w : BitVec 3),
      s.exchangeOn src k = some (cid, c, older, e) → e.instr = .vmaxx d a w →
      let held := (older.any fun o => holdsBack o e) = true ∨ barred older = true
      let gives := fun (u : State) (v : BitVec 512) =>
        exec (.vmaxxContribution src dst k) s = .next (if dst ≠ src ∧ dst ∈ participants src w.toNat ∧ (u.core dst).contribution k src = none
          then u.setCore dst { u.core dst with contribs := (u.core dst).contribs ++ [⟨k, src, w.toNat, s.now, v⟩] } else u)
      (∀ v, e.phase = .exchanging v → gives s v) ∧
      (e.phase = .waiting → ¬ held →
        gives (s.setEntry cid e.seq.toNat (some { e with phase := .exchanging (c.img.getV a) })) (c.img.getV a)) ∧
      (e.phase = .waiting → held → exec (.vmaxxContribution src dst k) s = .next s))) ∧
  (∀ (s : State) (cid seq core : Nat) (c : Ctx) (older : List RingEntry) (e : RingEntry) (d a : Reg) (w : BitVec 3) (v : BitVec 512)
      (vs : List (BitVec 512)), s.ctx? cid = some c → c.core? = some core → splitRing c.ring seq = some (older, e) →
    e.instr = .vmaxx d a w → e.phase = .exchanging v → (older.any fun o => holdsBack o e) = false → barred older = false →
    againFault e c.img = none → (s.core core).mismatch e.k w.toNat = false → s.exchanged core e.k w.toNat e.at_ = some vs →
    (∀ p ∈ participants core w.toNat, p ≠ core → ∃ q, (s.core core).contribution e.k p = some q ∧ q.value ∈ vs ∧ q.w = w.toNat ∧
      q.time ≤ e.at_ + 65536) ∧
    ∃ u, exec (.ringEntryComplete cid seq) s =
        .next (((s.sendRest core c.img older e).updCtx cid fun x => { x with img := c.img.setV d u }).setEntry cid seq none) ∧
      ∀ i, i < 16 →
        ((∃ x ∈ v :: vs, isNan32 (lane x i) = true) → lane u i = 0x7FC00000#32) ∧
        ((∀ x ∈ v :: vs, isNan32 (lane x i) = false) → (∀ x ∈ v :: vs, (lane x i &&& 0x7FFFFFFF#32).toNat ≤ (lane u i).toNat) ∧
          (lane u i = 0#32 ∨ ∃ x ∈ v :: vs, lane u i = lane x i &&& 0x7FFFFFFF#32))) ∧
  (∀ (s : State) (cid seq core : Nat) (c : Ctx) (older : List RingEntry) (e : RingEntry) (d a : Reg) (w : BitVec 3),
    s.ctx? cid = some c → c.core? = some core → splitRing c.ring seq = some (older, e) → e.instr = .vmaxx d a w →
    let late := e.at_ + 65536 ≤ s.now ∧ s.exchanged core e.k w.toNat e.at_ = none ∧ ∀ f, e.phase ≠ .faulted f
    (late → exec (.exchangeTimeout cid seq) s = .next ((s.sendRest core c.img older e).setEntry cid e.seq.toNat
      (some { e with phase := .faulted (FaultRec.mk0 14 (e.k % 2 ^ 32) e.pc.toNat) }))) ∧
    (¬ late → exec (.exchangeTimeout cid seq) s = .next s) ∧
    (∀ v, (e.phase = .exchanging v ∨ (e.phase = .waiting ∧ sourceHeld older a = false ∧ v = c.img.getV a)) →
      s.sendRest core c.img older e = (participants core w.toNat).foldl (fun (t : State) p => t.deliver core p e.k w.toNat v) s))

/-- Free to execute with ring room, each command of the engine and the matrix unit answers a next state: its entry joins the ring
holding X(a), X(b), X(c), X(d) and the slots it names as they stand, and the instruction commits eight bytes on; mmac and
mmac.coop do so under a prefix of matrix formats and scales too. (R141, R193, R194, R203, R206) -/
def Obligations.EngineAndMatrixCommandsDispatch : Prop :=
  ∀ (s : State) (cid : Nat) (c : Ctx) (k : Cmd), s.At cid c → (s.coreRing s.here).length < 64 → interlocked c.ring [k.a, k.b, k.c, k.d] = false →
    let m := c.img
    let runs := fun (i : Instr) (sa : Desc) =>
      exec i s = s.dispatched cid c i 8 ∧
      (let e := mkEntry s c i 0
       e.xa = m.getX k.a ∧ e.xb = m.getX k.b ∧ e.xc = m.getX k.c ∧ e.xd = m.getX k.d ∧ e.sa = sa ∧ e.sb = m.slot k.sb ∧
         e.instr = i ∧ e.phase = .waiting ∧ e.seq = (s.core s.here).next ∧ e.pay = m.pending?)
    (m.pp = false →
      (∀ rc, runs (.dcopy k rc) (m.slot k.sa)) ∧ (∀ rn, runs (.dfill k rn) (m.slot k.sa)) ∧
      (∀ es it, runs (.gather k es it) (m.slot k.sa)) ∧ (∀ es it mode, runs (.scatter k es it mode) (m.slot k.sa)) ∧
      (∀ wd pos, runs (.spwalk k wd pos) (m.slot k.sa)) ∧ (∀ zd, runs (.merge k zd) (m.slot k.sa)) ∧
      (∀ ty sx bank, runs (.mldb k ty sx bank) Desc.zero) ∧
      exec (.dfree k.a k.b) s = s.dispatched cid c (.dfree k.a k.b) 8 ∧
      (mkEntry s c (.dfree k.a k.b) 0).xa = m.getX k.a ∧ (mkEntry s c (.dfree k.a k.b) 0).xb = m.getX k.b) ∧
    (pfxCheck m matPrefix = none →
      (∀ bank pr zc pin, runs (.mmac k bank pr zc pin) (m.slot k.sa)) ∧ (∀ bank pr zc, runs (.mmacCoop k bank pr zc) (m.slot k.sa)))

/-- A command at its turn, with room in its grove's engine, is accepted when its checks pass, its acquire part done, and is to fault
otherwise; an entry that is to fault, or under aq a vector access, holds back the commands behind it; a dfree with no older
entry in its core's ring is sent; a chunk of a copy within a grove's banks, in acceptance order and of good data, is read and
then written whole; each member of a finished dfill is told once, its receiver word up by one with RN; the dfree that completes
a set adds one to the counter; the completion of a copy is written once its bytes are sent, or with rl are written, and the
command leaves once nothing of it is on its way. (That the acquire part is done at acceptance, and when the completion word is
written with rl = 0, are the model's choices, log 50.) (R194, R195, R196, R197, R198, R199, R200) -/
def Obligations.EngineTransfers : Prop :=
  (∀ (s : State) (cid seq core : Nat) (c : Ctx) (older : List RingEntry) (e : RingEntry), s.ctx? cid = some c →
    c.core? = some core → splitRing c.ring seq = some (older, e) → isService core = false → e.phase = .waiting →
    (older.any fun o => isEngine o.instr) = false → (s.grove (coreGrove core)).eng.length < 16 →
    ((isEngine e.instr = true → holdsCommand older e.acquires = true → exec (.engineAccept cid seq) s = .next s) ∧
    (holdsCommand older e.acquires = false →
    (∀ k s1 f, engCmd? e.instr = some k → s.acceptCheck (coreGrove core) core e = (s1, .error f) →
      exec (.engineAccept cid seq) s = .next (s1.setEntry cid seq (some { e with phase := .faulted f }))) ∧
    (∀ k s1 cmd, engCmd? e.instr = some k → s.acceptCheck (coreGrove core) core e = (s1, .ok cmd) →
      let s2 := (s1.commandAcquire core (acqScope k.ord)).setEntry cid seq none
      exec (.engineAccept cid seq) s = .next { s2.setGrove (coreGrove core)
        { s2.grove (coreGrove core) with eng := (s2.grove (coreGrove core)).eng ++ [cmd] } with serial := s2.serial + 1 }) ∧
    (∀ a b, e.instr = .dfree a b → s.olderEntries core cid older e = true → exec (.engineAccept cid seq) s = .next s) ∧
    (∀ a b, e.instr = .dfree a b → s.olderEntries core cid older e = false →
      let ms := s.memberGroves (e.xb.toNat % 256)
      exec (.engineAccept cid seq) s = .next (match dfreeFault e ms (coreGrove core) with
        | some f => s.setEntry cid e.seq.toNat (some { e with phase := .faulted f })
        | none => { s.setEntry cid e.seq.toNat none with dfrees := s.dfrees ++
            [{ sender := e.xa.toNat / 2 ^ 56 % 8 * 256 + e.xa.toNat / 2 ^ 48 % 256, off := e.xa.toNat % 2 ^ 21
               group := e.xb.toNat % 256, tag := e.xb.toNat / 256 % 65536, members := ms, source := coreGrove core }] }))))) ∧
  (∀ (s : State) (grove id : Nat) (c : EngCmd) (k : Cmd), s.engine? grove id = some c → c.entry.instr = .dcopy k false →
    let e := c.entry
    (e.sa.kind = kCluster → e.sb.kind = kCluster → c.stop = none → c.finished = false → s.inTurn grove c = true →
      512 * c.next < e.xc.toNat → c.flight.length < 64 →
      let lo := 512 * c.next
      let n := min 512 (e.xc.toNat - lo)
      s.badBank grove (e.sb.base + (e.xb.toNat + lo)) n = false →
      exec (.chunkIssue grove id) s = .next (s.setEngine grove id (some { c with
        next := c.next + 1, started := true
        flight := c.flight ++ [{ num := c.next, trans := [], writes :=
          [(.bank grove (e.sa.base + (e.xa.toNat + lo)), s.bankBytes grove (e.sb.base + (e.xb.toNat + lo)) n)] }] }))) ∧
    (∀ f off bs, c.flight.find? (fun x => x.num == f.num) = some f → f.writes = [(.bank grove off, bs)] →
      exec (.chunkAck grove id f.num) s = .next ((s.bankWrite grove off bs).putEngine grove id
        { c with flight := c.flight.filter fun x => x.num != f.num })) ∧
    (let due := c.finished = false ∧ (if ordRel k.ord then c.flight = [] ∧ e.xc.toNat ≤ 512 * c.next else e.xc.toNat ≤ 512 * c.next)
     (due → c.stop = none → exec (.engineCompletion grove id) s =
       .next ((s.complete grove k.cw e.xd none k.ds e.dep).putEngine grove id { c with finished := true })) ∧
     (¬ due → c.stop = none → exec (.engineCompletion grove id) s = .next s))) ∧
  (∀ (s : State) (grove id g : Nat) (c : EngCmd) (k : Cmd) (rn : Bool), s.engine? grove id = some c → c.entry.instr = .dfill k rn →
    c.landed = true → c.stop = none → g ∈ c.members → ¬ g ∈ c.told →
    let off := c.entry.sa.base + c.entry.xc.toNat / 2 ^ 21 % 2 ^ 19 * 8
    exec (.dfillMemberDelivery grove id g) s = .next
      ((if rn then s.bankWrite g off (leBytes 8 ((leNat (s.bankBytes g off 8) + 1) % 2 ^ 64)) else s).putEngine grove id
        { c with told := c.told ++ [g] })) ∧
  (∀ (s : State) (grove id : Nat) (c : EngCmd), s.putEngine grove id c =
    s.setEngine grove id (if c.finished = true ∧ c.flight = [] ∧ c.pending = [] ∧ (∀ p ∈ c.elems, ∀ q ∈ p.2.pieces, q.done = true) ∧
      c.lineCount ≤ c.lines.length ∧ (c.stop = none → ∀ g ∈ c.members, g ∈ c.told) then none else some c)) ∧
  (∀ (s : State) (idx : Nat) (x : DfreeMsg) (k : DfreeSet), s.MemInv → s.dfrees[idx]? = some x →
    s.dfreeSets.find? (fun k => k.sender == x.sender && k.off == x.off && k.group == x.group && k.tag == x.tag) = some k →
    ¬ x.source ∈ k.heard → (∀ g ∈ x.members, g ∈ k.heard ∨ g = x.source) →
    ∃ t, exec (.dfreeArrival idx) s = .next t ∧ t.dfrees = s.dfrees.eraseIdx idx ∧
      t.bankBytes x.sender x.off 8 = leBytes 8 ((leNat (s.bankBytes x.sender x.off 8) + 1) % 2 ^ 64))

/-- A command with rl writes its payload into the banks at once, one without it sends it, and each byte lands after what the command
has sent to it earlier. An element of a gather or scatter at its turn is recorded with the code of what fails (12 for an index
or data that cannot be read, 8 outside its segment, the page's own), and otherwise sent as its pieces by sector; an agent
performs every open piece of its sector of the elements that do not fault, a read taking the home's bytes and the line's record,
a write storing the element's, and where the sector is bad reports it once and fails its elements with code 12; a packed line
whose elements are ready is written to the banks once; a walked row of ascending pointers within capacity writes its entries and
its count, one beyond it ends the walk with overflow, one whose pointers descend counts 0 and sets its status bit, one whose
pointer lies outside the segment stops the walk with code 8; a merge with no head ends, one whose result list is full ends with
overflow, a dropped zero is not emitted, and otherwise, once the fibres that gave it have their next heads, the smallest
coordinate is written with the sum of its heads in fibre order; a read that fails stops it with its code. (That a walk's or a
merge's own payload is what its later reads of the same bytes give is the model's choice, log 50.) (R220, R221, R226, R228,
R230, R233, R234, R236, R237) -/
def Obligations.GatherWalkAndMergeEvents : Prop :=
  (∀ (s : State) (grove : Nat) (c : EngCmd) (off : Nat) (bs : List Byte),
    (c.rel = true → s.payload grove c off bs = (s.bankWrite grove off bs, c)) ∧
    (c.rel = false → s.payload grove c off bs = (s, { c with pending := c.pending ++ [(off, bs)] }))) ∧
  (∀ (s : State) (grove id idx : Nat) (c : EngCmd) (w : Nat × List Byte), s.agenda = [] → s.engine? grove id = some c → c.pending[idx]? = some w →
    (∀ v ∈ c.pending.take idx, ∀ a, ¬ (v.1 ≤ a ∧ a < v.1 + v.2.length ∧ w.1 ≤ a ∧ a < w.1 + w.2.length)) →
    step { s with agenda := [.land grove id idx] } = .next ((s.bankWrite grove w.1 w.2).putEngine grove id { c with pending := c.pending.eraseIdx idx })) ∧
  (∀ (s : State) (grove id i : Nat) (c : EngCmd) (o : ElemOp), s.engine? grove id = some c → elemOp? c.entry.instr = some o →
    let turn := i < elemCount c.entry ∧ c.elems.get? i = none ∧ s.elemsInFlight grove < 1024 ∧ (o.mode = 0 ∨ c.elems.length = i) ∧
      s.inTurn grove c = true
    let ends := fun (t : State) (e : Elem) => exec (.gatherElement grove id i) s =
      .next (t.setEngine grove id (some { c with elems := c.elems.set i e, started := true }))
    let fails := fun (t : State) (code : Nat) => ends t { trans := [], pieces := [], code := code }
    (¬ turn → exec (.gatherElement grove id i) s = .next s) ∧
    (turn → s.indexAt grove c o i = none → fails (s.reportBank grove (c.indexAddr o i) 0) 12) ∧
    (turn → ∀ idx, s.indexAt grove c o i = some idx →
      let off := (c.entry.xb.toNat : Int) + idx * o.size
      let from_ := c.entry.sa.base + c.entry.xa.toNat + o.size * i
      (off < 0 ∨ (c.entry.sb.len : Int) < off + o.size → fails s 8) ∧
      (0 ≤ off → off + o.size ≤ c.entry.sb.len →
        (∀ s1 f, s.places (.engine grove) grove c.entry.sb off o.size o.access o.store = (s1, .error f) → fails s1 f.code) ∧
        (∀ s1 ps, s.places (.engine grove) grove c.entry.sb off o.size o.access o.store = (s1, .ok ps) →
          let sends := fun data : List Byte => ends s1
            { trans := s1.transOf (.engine grove) c.entry.sb off o.size, pieces := elemPieces ps 0 data, code := 0 }
          (o.store = false → sends []) ∧
          (o.store = true → s1.badBank grove from_ o.size = false → sends (s1.bankBytes grove from_ o.size)) ∧
          (o.store = true → s1.badBank grove from_ o.size = true → fails (s1.reportBank grove from_ 0) 12)))) ∧
    (∀ sector, ∃ t, exec (.agentGroupAccess grove id ⟨sector, none⟩) s = .next t ∧ ∀ c', t.engine? grove id = some c' →
      ∀ p ∈ c'.elems, p.2.code = 0 → ∀ q ∈ p.2.pieces, q.pa / 32 = sector → q.done = true) ∧
    (∀ e p, c.elems = [(i, e)] → e.code = 0 → e.pieces = [p] → p.done = false → p.pa % 32 + p.n ≤ 32 →
      let sector := p.pa / 32
      let group := exec (.agentGroupAccess grove id ⟨sector, none⟩) s
      let done := fun (t : State) (p : Piece) (top : Tab Nat) =>
        group = .next (t.putEngine grove id { c with elems := [(i, { e with pieces := [p] })], top := top })
      let s1 := s.settle p.pa p.n
      (o.store = false → s1.badAt (homeDie (32 * sector)) (32 * sector) 32 = true → group =
        .next ((s1.reportBad none (homeDie (32 * sector)) (32 * sector) 32 0).putEngine grove id { c with elems :=
          [(i, { e with code := 12, pieces := [{ p with done := true }] })] })) ∧
      (∀ s2 bs, o.store = false → s1.badAt (homeDie (32 * sector)) (32 * sector) 32 = false →
        s1.readHomeAs (homeDie p.pa) p.pa p.n c.entry.sb.streams = (s2, some bs) →
        done (s2.takeRecord c.core (lineOf p.pa)) { p with data := bs, done := true } c.top) ∧
      (o.store = true → o.mode = 0 → c.top = [] →
        ∃ top, done ((s.recallRange p.pa p.n).homeWritesAs ((List.range p.n).map fun k => (p.pa + k, [p.data.getD k 0])) c.entry.sb.streams)
          { p with done := true } top)) ∧
    (∀ line, o.store = false → ¬ line ∈ c.lines → 0 < o.size → 128 * line < o.size * elemCount c.entry →
      (∀ j, j < elemCount c.entry → 128 * line < o.size * (j + 1) → o.size * j < 128 * line + 128 → c.ready j = true) →
      let n := min 128 (o.size * elemCount c.entry - 128 * line)
      exec (.packedLineReturn grove id line) s = .next ((s.bankWrite grove (c.entry.sa.base + c.entry.xa.toNat + 128 * line)
        ((List.range n).map fun k => c.packedByte o.size (128 * line + k))).putEngine grove id
          { c with lines := c.lines ++ [line] }))) ∧
  (∀ pa n data, 0 < n → pa % 32 + n ≤ 32 → elemPieces [(.phys pa, n)] 0 data = [⟨pa, 0, n, data.take n, false⟩]) ∧
  (∀ (s : State) (grove id pa : Nat) (c : EngCmd) (k : Cmd) (wide pos : Bool), s.engine? grove id = some c →
    c.entry.instr = .spwalk k wide pos → c.ended = false → c.next < walkRows c.entry → s.inTurn grove c = true →
    c.entry.sb.kind = kCluster → s.badSram = [] →
    let pw := if wide then 8 else 4
    let d := walkDesc c.desc
    let row := c.entry.xc.toNat % 2 ^ 32 + c.next
    let at_ := c.entry.xb.toNat + pw * (row + 1)
    let z := if c.next = 0 then s.payload grove c (c.entry.sa.base + d.status) (List.replicate ((walkRows c.entry + 7) / 8) 0) else (s, c)
    let reads := fun off : Nat => leNat (z.2.overlay (c.entry.sb.base + off) (z.1.bankBytes grove (c.entry.sb.base + off) pw))
    let next := reads at_
    let puts := fun (t : State) (x : EngCmd) => exec (.spwalkRow grove id) s = .next (t.putEngine grove id { x with started := true })
    let ends := fun (t : State × EngCmd) (n : Nat) =>
      let u := t.1.payload grove t.2 (c.entry.sa.base + d.counts + 4 * c.next) (leBytes 4 n)
      puts u.1 { u.2 with next := c.next + 1, ptr := some next, count := c.count + n, ended := decide (walkRows c.entry ≤ c.next + 1) }
    c.ptr = some pa ∨ (c.ptr = none ∧ c.entry.xb.toNat + pw * row + pw ≤ c.entry.sb.len ∧ pa = reads (c.entry.xb.toNat + pw * row)) →
    (c.entry.sb.len < at_ + pw → puts z.1 { z.2 with stop := some (8, false), ended := true }) ∧
    (at_ + pw ≤ c.entry.sb.len → pa ≤ next → d.cap < c.count + (next - pa) → puts z.1 { z.2 with ovf := true, ended := true }) ∧
    (at_ + pw ≤ c.entry.sb.len → next < pa → ends (z.1.payloadBit grove z.2 (c.entry.sa.base + d.status) c.next) 0) ∧
    (at_ + pw ≤ c.entry.sb.len → pa ≤ next → c.count + (next - pa) ≤ d.cap →
      (next = pa → ends z 0) ∧
      (∀ s3 c3, z.1.walkEntries (next - pa) grove z.2 pos row pa c.count = (s3, c3, none) → ends (s3, c3) (next - pa)) ∧
      ∀ s3 c3 e, z.1.walkEntries (next - pa) grove z.2 pos row pa c.count = (s3, c3, some e) →
        puts (s3.setGrove grove { s3.grove grove with cluster := (z.1.grove grove).cluster }) { z.2 with stop := some (e, false), ended := true })) ∧
  (∀ (s : State) (grove id : Nat) (c : EngCmd) (k : Cmd) (zd : Bool), s.engine? grove id = some c →
    c.entry.instr = .merge k zd → c.ended = false → s.inTurn grove c = true →
    let ends := fun (t : State) (c' : EngCmd) => exec (.mergeResult grove id) s = .next (t.setEngine grove id (some { c' with started := true }))
    let halts := fun (t : State) (bad code : Nat) => ends t { c with bad := bad, stop := some (code, false), ended := true }
    (∀ s1 fs bad code, s.fibreHeads grove c c.fibres c.bad = (s1, fs, bad, some code) → halts s1 bad code) ∧
    (∀ s1 fs bad, s.fibreHeads grove c c.fibres c.bad = (s1, fs, bad, none) →
      (minHead fs = none → ends s1 { c with fibres := fs, bad := bad, ended := true }) ∧
      (∀ x, minHead fs = some x →
        let v := headSum fs x
        let drops := zd = true ∧ v.extractLsb' 0 31 = 0#31
        let full := c.count = c.entry.xc.toNat / 2 ^ 32
        (drops → ends s1 { c with fibres := takeHeads fs x, bad := bad }) ∧
        (¬ drops → full → ends s1 { c with fibres := takeHeads fs x, bad := bad, ovf := true, ended := true }) ∧
        (¬ drops → ¬ full → ∀ s2 fs2 bad2, s1.fibreHeads grove c (takeHeads fs x) bad = (s2, fs2, bad2, none) →
          let r := s2.payload grove { c with fibres := fs2, bad := bad2, count := c.count + 1, started := true }
            (c.entry.sa.base + c.entry.xa.toNat + 8 * c.count) (leBytes 4 x ++ leBytes 4 v.toNat)
          exec (.mergeResult grove id) s = .next (r.1.putEngine grove id r.2)) ∧
        (¬ drops → ¬ full → ∀ s2 fs2 bad2 code, s1.fibreHeads grove c (takeHeads fs x) bad = (s2, fs2, bad2, some code) →
          halts s2 bad2 code)))) ∧
  (∀ fs : List Fibre, minHead fs = none ↔ ∀ f ∈ fs, f.head = none) ∧
  (∀ (fs : List Fibre) (x : Nat), minHead fs = some x → (∃ f ∈ fs, ∃ v, f.head = some (x, v)) ∧
    ∀ f ∈ fs, ∀ h, f.head = some h → x ≤ h.1)

/-- A load or a product at its turn with room among four of its core enters the unit when its checks pass and is to fault otherwise;
a finished load fills its bank, counts its generation up and ends; a step of the requester that the arbiter chooses, a migrated
command in its guest unit among them, once the command has passed its first-step checks and where no bank, A row or old C word
is bad, computes its rows and writes their words to the banks of its home, and ends the command after its last; a strip of a
cooperative command computes its grove's words, and the fourth of a step writes all of them; a check or a read that fails faults
the command; a cooperative command claims its next slot when free; a command that has waited moves to the first neighbour that
qualifies, whose load then holds its tiles; a lent bank with no guest is given back, reloaded when it held a tile and no load is
aimed at it. (A restore reads as core 0 of its grove, the model's choice, log 90.) (R205, R208, R209, R210, R211, R213, R214,
R216) -/
def Obligations.MatrixUnitEvents : Prop :=
  (∀ (s : State) (cid seq core : Nat) (c : Ctx) (older : List RingEntry) (e : RingEntry) (o : MatOp), s.ctx? cid = some c →
    c.core? = some core → splitRing c.ring seq = some (older, e) → isService core = false → e.phase = .waiting →
    matOp? e.instr = some o → (((s.mat (coreGrove core)).ofCore core).filter fun x => x.moved.isNone).length < 4 →
    (∀ x ∈ older, ((matOp? x.instr).isSome = true → x.phase ≠ .waiting) ∧ (∀ f, x.phase ≠ .faulted f) ∧
      ((acqScope o.cmd.ord).isSome = true → isVmem x = false)) →
    let g := coreGrove core
    let bank := (s.mat g).bank o.bank
    let fails := fun f : FaultRec => .next (s.setEntry cid seq (some { e with phase := .faulted f }))
    (∀ ty sx, o.load = some (ty, sx) → exec (.mldbAccept cid seq) s = (match loadFault o ty sx e with
      | some f => fails f
      | none => .next ((s.setMat g ((s.mat g).setBank o.bank { bank with lastTy := some ty })).enterMat g cid c core e []))) ∧
    (o.load = none → o.coop = false → e.packed = false → exec (.matrixAccept cid seq) s =
      (match mmacFault o e ((s.mat g).classOf o e) with
      | some f => fails f
      | none => .next (s.enterMat g cid c core e []))) ∧
    (o.load = none → o.coop = false → e.packed = true → exec (.matrixAccept cid seq) s = .next (s.enterMat g cid c core e [])) ∧
    (o.load = none → o.coop = true → (e.packed = true ∨ mmacFault o e ((s.mat g).classOf o e) = none) →
      exec (.matrixAccept cid seq) s = (match s.coopMembers g e with
        | some ms => .next (s.enterMat g cid c core e ms)
        | none => fails (FaultRec.mk0 7 21 e.pc.toNat)))) ∧
  (∀ (s s1 : State) (g core : Nat) (c : MatCmd) (o : MatOp) (ty : Fmt) (sx : Bool) (t : Tile),
    ((s.mat g).ofCore core).head? = some c → matOp? c.entry.instr = some o → o.load = some (ty, sx) →
    s.loadWait g c.stamp o.bank = false →
    let src : TileSrc := ⟨c.entry.sb, c.entry.xb.toNat, c.entry.xc.toNat % 2 ^ 32, c.entry.xa.toNat, ty, sx⟩
    (s.commandAcquire core (acqScope o.cmd.ord)).readTile g g core src = (s1, .ok t) →
    let b := (s1.mat g).bank o.bank
    exec (.bankLoadComplete g core) s = .next
      ((s1.fillBank g o.bank { b with tile := some t, src := some src, gen := b.gen + 1 }).matEnd g c o)) ∧
  (∀ (s : State) (g h r : Nat) (c : MatCmd) (o : MatOp), s.chosen g = some r → s.requester g r = some (h, c) → matOp? c.entry.instr = some o →
    let u := s.mat g
    let s0 := s.setMat g { u with ptr := r, used := (if s.turnLasts g then u.used else 0) + 1, spent := false, busy := s.now }
    let goes := fun t : State => exec (.matrixStep g) s = .next ((t.noteReady g).noteTurn g r h c.stamp)
    (∀ f, c.started = false → s0.matStart h c o = .error f → goes (s0.matFail h c o f)) ∧
    (∀ (t : State) (x : MatCmd), (c.started = true ∧ t = s0 ∧ x = c) ∨ (c.started = false ∧ ∃ e, s0.matStart h c o = .ok e ∧
        t = s0.commandAcquire c.core (acqScope o.cmd.ord) ∧ x = { c with started := true, entry := e }) →
      let atEnd := stepCount x.entry ≤ x.g + 1
      let rows? := t.readRows (if o.coop then h else g) h x.core x.entry (t.rowLen h x o) (stepRows x.entry x.g)
      (o.coop = false →
        (∀ s1 f, rows? = (s1, .error f) → goes (s1.matFail h x o f)) ∧
        (∀ s1 rows, rows? = (s1, .ok rows) →
          (∀ s2 f, t.badCim g x.core (x.inBanks o) x.entry = some (s2, f) → goes (s2.matFail h x o f)) ∧
          (t.badCim g x.core (x.inBanks o) x.entry = none →
            let ts := s1.matTiles h x o
            (∀ s2 f, s1.badC h x.core x.entry o ts x.g = some (s2, f) → goes (s2.matFail h x o f)) ∧
            (s1.badC h x.core x.entry o ts x.g = none →
              let s2 := (s1.writeWords h (s1.stepWords h x.entry o.zc o.pr ts x.g rows)).count x.core (s0.atSystem c.cid) 8 rows.length
              let y := { x with g := x.g + 1, since := none }
              goes (if atEnd then s2.matEnd h y o else s2.setMatCmd h x.stamp (some y)))))) ∧
      (o.coop = true → ∀ s1 rows, (x.rows = some rows ∧ s1 = t) ∨ (x.rows = none ∧ rows? = (s1, .ok rows)) →
        t.badCim g x.core o.banks x.entry = none →
        let ts := o.banks.filterMap fun k => ((s1.mat g).bank k).tile
        s1.badC g x.core x.entry o ts x.g = none →
        let y := { x with rows := some rows, strips := x.strips ++ [{ grove := g, words := s1.stepWords g x.entry o.zc o.pr ts x.g rows }] }
        (x.strips.length < 3 → goes (s1.setMatCmd h x.stamp (some y))) ∧
        (3 ≤ x.strips.length →
          let s2 := (y.strips.foldl (fun (u : State) p => u.writeWords p.grove p.words) s1).count x.core (s0.atSystem c.cid) 8 rows.length
          let z := { y with g := x.g + 1, rows := none, strips := [] }
          goes (if atEnd then s2.matEnd h z o else s2.setMatCmd h x.stamp (some z))))))  ∧
  (∀ (s : State) (g core m : Nat) (c : MatCmd), ((s.mat g).ofCore core).head? = some c → c.members[c.slots.length]? = some m →
    exec (.coopSlotClaim g core) s = .next (if (s.mat m).coop.isSome then s else
      (s.setMat m { s.mat m with coop := some (g, c.stamp) }).setMatCmd g c.stamp (some { c with slots := c.slots ++ [m] }))) ∧
  (∀ (s : State) (g core target bank t0 : Nat) (c : MatCmd) (o : MatOp), ((s.mat g).ofCore core).head? = some c →
    matOp? c.entry.instr = some o → o.pin = false → o.coop = false → o.pr = false → c.started = false → c.fixed = false → c.g = 0 →
    c.since = some t0 → t0 + 2048 ≤ s.now → s.matReady g c = true → ((s.mat g).bank o.bank).homed = true →
    (neighbours g).find? (fun t => [0, 1, 2, 3].any fun k => s.takesGuest t false k) = some target →
    s.takesGuest target false bank = true →
    exec (.matrixMigration g core target bank) s = .next
      ((s.setMat target { (s.mat target).setBank bank { (s.mat target).bank bank with lent := true } with guest := some (g, c.stamp) }).setMatCmd
        g c.stamp (some { c with moved := some (target, bank) }))) ∧
  (∀ (s s1 : State) (target g st : Nat) (c : MatCmd) (o : MatOp) (q : TileSrc) (t : Tile), (s.mat target).guest = some (g, st) →
    s.matCmd? g st = some c → matOp? c.entry.instr = some o → c.tiles = [] → o.pr = false → ((s.mat g).bank o.bank).src = some q →
    s.readTile target g c.core q = (s1, .ok t) →
    exec (.migrationLoadComplete target) s = .next (({ s1 with badSram := s1.badSram.filter fun p =>
      !((c.inBanks o).any fun k => p == SramSite.bank target k) } : State).setMatCmd g st (some { c with tiles := [t] }))) ∧
  (∀ (s : State) (g k : Nat), ((s.mat g).bank k).lent = true → (s.mat g).guest = none →
    let b := (s.mat g).bank k
    let empty := (s.setMat g ((s.mat g).setBank k { b with tile := none, lent := false })).noteReady g
    (b.tile = none ∨ b.src = none ∨ s.loadAims g k = true → exec (.bankRestore g k) s = .next empty) ∧
    (∀ t src s1 t', b.tile = some t → b.src = some src → s.loadAims g k = false → s.readTile g g (g * 8) src = (s1, .ok t') →
      exec (.bankRestore g k) s =
        .next ((s1.fillBank g k { b with tile := some t', gen := b.gen + 1, lent := false }).noteReady g)))

/-- Free to execute with no vector access before it, on a bound space: during a boundary of its group they block; else, with no bad
data, rnew takes the lowest free entry of its partition and slot of the owner and writes the record, or reports full as 3; a
handle that is not current gives status 1 and changes no record; otherwise rdel stages the deletion, rld, after its acquire
part, copies the record of a live entry to the banks, rst stages coordinate words, with a release after its waits and drains,
and writes the others at the owner, rloc reports the place, and qbox and qrad write the handles of the live records that
qualify, in serial order, and count them all; a query brings the records of what it reads to the core; with no such space they
trap with DATA 50, but the handle of all ones that rnew gives when full is stale there too. (That a stale handle performs no
release, and that the waits of rst hold the core, are the model's choices, log 53.) (R244, R249, R250, R252, R253, R254, R255,
R256, R257) -/
def Obligations.RecordInstructionResults : Prop :=
  ∀ (s : State) (cid : Nat) (c : Ctx) (d a b e : Reg) (sa : Slot) (k : BitVec 4) (acq : Option Scope), s.Ready cid c [d, a, b, e] →
    ringHasMem (s.coreRing s.here) = false →
    let m := c.img
    let g := m.slot sa
    let core := s.here
    let bank := fun (r : Reg) (n : Nat) => s.bankBytes (coreGrove core) (g.base + (m.getX r).toNat) n
    let put := fun (t : State) (bs : List Byte) => t.bankWrite (coreGrove core) (g.base + (m.getX a).toNat) bs
    let n := (m.getX b).toNat / 2 ^ 60
    let no50 := s.traps cid c (operandFault m 50)
    (s.spaces.get? k.toNat = none → exec (.rnew d a e sa k) s = no50 ∧ exec (.qbox d a b e sa k) s = no50 ∧ exec (.qrad d a b e sa k) s = no50) ∧
    (s.spaces.get? 15 = none → m.getX b = BitVec.allOnes 64 → exec (.rdel b e) s = s.goes cid ((m.setX e 1).next 8) ∧
      exec (.rld a b e sa acq) s = s.goes cid ((m.setX e 1).next 8) ∧ exec (.rst d a b e sa acq) s = s.goes cid ((m.setX e 1).next 8) ∧
      exec (.rloc d b e) s = s.goes cid (((m.setX d 0).setX e 1).next 8)) ∧
    (s.spaces.get? n = none → m.getX b ≠ BitVec.allOnes 64 → exec (.rdel b e) s = no50 ∧ exec (.rld a b e sa acq) s = no50 ∧ exec (.rst d a b e sa acq) s = no50 ∧
      exec (.rloc d b e) s = no50) ∧
    (let waits := .next (s.block cid .access)
     (∀ sp, s.spaces.get? k.toNat = some sp → s.inBoundary sp.group = true →
       exec (.rnew d a e sa k) s = waits ∧ exec (.qbox d a b e sa k) s = waits ∧ exec (.qrad d a b e sa k) s = waits) ∧
     (∀ sp, s.spaces.get? n = some sp → s.inBoundary sp.group = true → exec (.rdel b e) s = waits ∧ exec (.rld a b e sa acq) s = waits ∧
       exec (.rst d a b e sa acq) s = waits ∧ exec (.rloc d b e) s = waits)) ∧
    (∀ sp, s.spaces.get? k.toNat = some sp → s.inBoundary sp.group = false → s.Sound →
      let xyz := words32 3 (bank a sp.size)
      let part := 256 * coreDie core + coreGrove core % 256
      let o := (sp.ownerOf xyz).1
      (recSa s g (m.getX a).toNat sp.size 4 false = none → nanIn sp.dim 0 xyz = false →
        (∀ u slot, sp.freeSerial part = some u → sp.freeSlot o [] = some slot →
          let h := handleOf k.toNat u (sp.entry u).gen
          let t := s.setSpace k.toNat { sp with dir := sp.dir.set u ⟨.new, (sp.entry u).gen, o, slot⟩ }
          exec (.rnew d a e sa k) s =
            (t.homeWrite (sp.slotPa o slot) (newRecord (bank a sp.size) h)).goes cid (((m.setX d h).setX e 0).next 8)) ∧
        (sp.freeSerial part = none ∨ sp.freeSlot o [] = none →
          exec (.rnew d a e sa k) s = s.goes cid (((m.setX d (BitVec.allOnes 64)).setX e 3).next 8))) ∧
      (let cap := (m.getX e).toNat
       cap ≤ 65536 → (m.getX a).toNat % 4 = 0 → (m.getX b).toNat % 4 = 0 → recSa s g (m.getX a).toNat (8 * cap) 1 true = none →
       let finds := fun (i : Instr) (box : Bool) (size : Nat) =>
         let q := words32 (size / 4) (bank b size)
         recSa s g (m.getX b).toNat size 1 false = none → badQuery sp.dim box q = false →
         let hits := (s.snapshot sp).filter fun r => if box then inBox sp.dim q r.2.2.2 else inRadius sp.dim q r.2.2.2
         exec i s = (put (s.queryReads core sp box q (s.snapshot sp)) ((hits.take cap).flatMap fun r => leBytes 8 (handleOf k.toNat r.1 r.2.1.gen).toNat)).goes cid
           ((m.setX d (BitVec.ofNat 64 hits.length)).next 8)
       finds (.qbox d a b e sa k) true 24 ∧ finds (.qrad d a b e sa k) false 16)) ∧
    (∀ sp, s.spaces.get? n = some sp → s.inBoundary sp.group = false → s.Sound →
      let u := handleSerial (m.getX b)
      let w := m.getX d
      let o := w.toNat % 256
      let l := w.toNat / 256 % 256
      let fitsLd := recSa s g (m.getX a).toNat sp.size 4 true = none
      let fitsSt := recSa s g (m.getX a).toNat l 4 false = none ∧ rangeOk w sp.size = true ∧
        (o < 12 → nanIn sp.dim (o / 4) (words32 (l / 4) (bank a l)) = false)
      (sp.current (m.getX b) = none →
        exec (.rdel b e) s = s.goes cid ((m.setX e 1).next 8) ∧
        (fitsLd → exec (.rld a b e sa acq) s = s.goes cid ((m.setX e 1).next 8)) ∧
        (fitsSt → exec (.rst d a b e sa acq) s = s.goes cid ((m.setX e 1).next 8)) ∧
        exec (.rloc d b e) s = s.goes cid (((m.setX d 0).setX e 1).next 8)) ∧
      (∀ x, sp.current (m.getX b) = some x →
        let pa := sp.slotPa x.owner x.slot
        exec (.rdel b e) s = (s.setSpace n { sp with dels := if sp.dels.contains u then sp.dels else sp.dels ++ [u] }).goes cid
          ((m.setX e 0).next 8) ∧
        (fitsLd → x.state = .new → exec (.rld a b e sa acq) s = s.goes cid ((m.setX e 2).next 8)) ∧
        (fitsLd → x.state ≠ .new →
          let s1 := match acq with | some sc => if scopeWide sc then s.acquireLine core (lineOf pa) sc else s | none => s
          ∀ t bs, s1.storeRead core pa sp.size = (t, some bs) → exec (.rld a b e sa acq) s = (put t bs).goes cid ((m.setX e 0).next 8)) ∧
        (let stages := fun t : State => exec (.rst d a b e sa acq) s =
           (t.setSpace n { sp with words := sp.words ++ (words32 (l / 4) (bank a l)).zipIdx.map fun p => (u, o + 4 * p.2, p.1) }).goes cid
             ((m.setX e 0).next 8)
         let waits := fun sc => acceptWait (s.coreRing core) = true ∨ s.fabricWait core sc = true
         (fitsSt → o < 12 → acq = none → stages s) ∧
         (∀ sc, fitsSt → o < 12 → acq = some sc → waits sc →
           exec (.rst d a b e sa acq) s = .next { s.setHolding core true with stalled := true }) ∧
         (∀ sc, fitsSt → o < 12 → acq = some sc → ¬ waits sc → stages (if scopeWide sc then s.releaseFence core else s))) ∧
        (fitsSt → 12 ≤ o → acq ≠ none → relWait (s.coreRing core) = true →
          exec (.rst d a b e sa acq) s = .next { s.setHolding core true with stalled := true }) ∧
        (fitsSt → 12 ≤ o → (acq = none ∨ relWait (s.coreRing core) = false) → exec (.rst d a b e sa acq) s =
          (s.writeAt core slicePolicy (pa + o) (bank a l) acq).goes cid ((m.setX e 0).next 8)) ∧
        ∀ t bs, s.storeRead core (pa + 12) 4 = (t, some bs) → exec (.rloc d b e) s =
          t.goes cid (((m.setX d (locWord x (leNat bs))).setX e x.status).next 8)))

/-- Free to execute with no vector access before it, on a bound grid a block of which the core owns: past its checks, gld traps with
code 12 where a stamp that it reads in the frame is bad; else with every halo cell of its run fresh and no bad data it copies
the run to the banks, and with a stale cell blocks before the stall limit and traps with code 13 after it; a halo cell is fresh
at a tag T when its strip's stamp S is there, S ≤ T < S + d, and its ring plus (T − S) · ρ is at most h; gst copies the banks,
free of bad data, to the run; gstep of the next tag commits it, with a refresh at the multiples of the depth once the parts of
the step before have left; with no such grid or block they trap with DATA 56. (That gstep with held parts blocks at once is the
model's choice, log 53, and so is the form of a stamp in the frame, log 91.) (R266, R267, R268, R269, R270, R271, R272, R273) -/
def Obligations.GridInstructionResults : Prop :=
  ∀ (s : State) (cid : Nat) (c : Ctx) (d a b e : Reg) (sa : Slot) (k : BitVec 4), s.Ready cid c [d, a, b, e] →
    ringHasMem (s.coreRing s.here) = false →
    let m := c.img
    let sl := m.slot sa
    let core := s.here
    let none56 := s.traps cid c (operandFault m 56)
    ((s.grids.get? k.toNat = none ∨ ∃ g, s.grids.get? k.toNat = some g ∧ g.blockOf core = none) →
      exec (.gld d a b e sa k) s = none56 ∧ exec (.gst d a b e sa k) s = none56 ∧ exec (.gstep e k) s = none56) ∧
    (∀ g blk, s.grids.get? k.toNat = some g → g.blockOf core = some blk →
      let r := GridRun.of (m.getX b) (m.getX e) (m.getX d)
      let cs := g.runCells r
      let at_ := sl.base + (m.getX a).toNat
      let pa := fun xs => g.cellPa blk (r.tag % 2) (g.index blk xs)
      let stale := fun xs => g.ring blk xs != 0 && !s.fresh g blk xs r.tag
      let bad? := (g.stampReads blk cs).find? fun pa => s.badStore pa 4
      (∀ xs, s.fresh g blk xs r.tag = true ↔ ∃ st, s.stamp g blk (g.strip blk xs) = some st ∧ st ≤ r.tag ∧ r.tag < st + g.depth ∧
        g.ring blk xs + (r.tag - st) * g.rho ≤ g.h) ∧
      (gridFault s m sl (m.getX a) (m.getX b) (m.getX e) (m.getX d) g blk false = none →
        (∀ q, bad? = some q →
          let u := s.setCtx cid { c with stale := none }
          exec (.gld d a b e sa k) s =
            (u.reportStore q 4 core).traps cid c (FaultRec.mk0 12 (u.badCode none (homeDie q) q 4) m.pc.toNat)) ∧
        (cs.any stale = false → s.Sound → exec (.gld d a b e sa k) s =
          (s.bankWrite (coreGrove core) at_ (cs.flatMap fun xs => s.homeBytes (pa xs) g.es)).goes cid (m.next 8)) ∧
        (∀ xs, bad? = none → cs.find? stale = some xs → c.stale = none → exec (.gld d a b e sa k) s =
          .next ((s.setCtx cid { c with stale := some (s.now, m.pc) }).block cid .halo)) ∧
        (∀ xs t, bad? = none → cs.find? stale = some xs → c.stale = some (t, m.pc) → s.now - t ≤ g.stall → exec (.gld d a b e sa k) s =
          .next ((s.setCtx cid { c with stale := some (t, m.pc) }).block cid .halo)) ∧
        (∀ xs t, bad? = none → cs.find? stale = some xs → c.stale = some (t, m.pc) → g.stall < s.now - t → exec (.gld d a b e sa k) s =
          (s.setCtx cid { c with stale := none }).traps cid c (FaultRec.mk0 13 (g.ring blk xs + 16 * g.strip blk xs) m.pc.toNat))) ∧
      (gridFault s m sl (m.getX a) (m.getX b) (m.getX e) (m.getX d) g blk true = none →
        let bs := s.bankBytes (coreGrove core) at_ (r.n * g.es)
        s.badSram = [] → exec (.gst d a b e sa k) s =
          (s.homeWrites (cs.zipIdx.map fun p => (pa p.1, (bs.drop (g.es * p.2)).take g.es))).goes cid (m.next 8)) ∧
      (let t := (m.getX e).toNat
       let due := match g.steps.get? blk with | none => 0 | some n => n + 1
       (2 ^ 62 ≤ t → exec (.gstep e k) s = s.traps cid c (operandFault m 59)) ∧
       (t < 2 ^ 62 → t ≠ due → exec (.gstep e k) s = s.traps cid c (operandFault m 58)) ∧
       (t < 2 ^ 62 → t = due → t % g.depth ≠ 0 →
         exec (.gstep e k) s = (s.setGrid k.toNat { g with steps := g.steps.set blk t }).goes cid (m.next 8)) ∧
       (t < 2 ^ 62 → t = due → t % g.depth = 0 → (g.held.any fun p => p.src == blk && p.step + g.depth == t) = false → s.Sound →
         let q := s.refresh k.toNat g blk t
         exec (.gstep e k) s = (q.1.setGrid k.toNat { q.2 with steps := q.2.steps.set blk t }).goes cid (m.next 8)) ∧
       (t < 2 ^ 62 → t = due → t % g.depth = 0 → (g.held.any fun p => p.src == blk && p.step + g.depth == t) = true →
         exec (.gstep e k) s = .next (s.block cid .access))))

/-- Free to execute with no vector access before it and past their checks: sset stores the descriptor of the banks, ignored fields
zero, in a slot of the context, and sset.t in its die's template; tlbinv at system privilege waits for older commands to be
accepted, drops the leaves of its range, waits for what the engines still have under them and commits once they have replied;
gtw writes a group whose step counter is 0; pbind replaces a binding and pbind.u removes it, and while a boundary of the record
space is in progress both hold the core with the old binding in place; crange sets or clears an entry of the range table. A
tlbinv outside its limits traps with DATA 83, a descriptor that is refused with 80 to 82, a group with 84 to 86, a header with
88, a range with 90 or 91. (R356, R357, R358, R363, R364, R367, R368, R369, R371) -/
def Obligations.TableInstructionResults : Prop :=
  ∀ (s : State) (cid : Nat) (c : Ctx) (d a b e : Reg) (sa sb : Slot) (n : BitVec 4) (k : BitVec 6) (gr : BitVec 8), s.Ready cid c [d, a, b, e] →
    ringHasMem (s.coreRing s.here) = false →
    let m := c.img
    let g := m.slot sa
    let off := (m.getX a).toNat
    let die := coreDie s.here
    let bank := fun n : Nat => s.bankBytes (coreGrove s.here) (g.base + off) n
    let refuse := fun (t : State) (v : Nat) => t.traps cid c (operandFault m v)
    (segCheck g [kCluster] (isService s.here) off 32 8 true false false = none → s.badBank (coreGrove s.here) (g.base + off) 32 = false →
      let x := Desc.ofBytes (bank 32)
      (∀ v, x.refused m.prv (s.rasid.toNat % 4096) = some v → exec (.sset a sa sb) s = refuse s v ∧ exec (.ssetT a sa sb) s = refuse s v) ∧
      (x.refused m.prv (s.rasid.toNat % 4096) = none →
        exec (.sset a sa sb) s = s.goes cid ((m.setSlot sb x.stored).next 8) ∧
        exec (.ssetT a sa sb) s =
          (s.setDie die { s.die die with template := (s.die die).template.set sb.toNat x.stored }).goes cid (m.next 8))) ∧
    (m.prv = true → ∀ wb, (tlbinvBad wb (m.getX a) (m.getX b) (m.getX e) (m.getX d) = true → exec (.tlbinv wb d a b e) s = refuse s 83) ∧
      (tlbinvBad wb (m.getX a) (m.getX b) (m.getX e) (m.getX d) = false → s.invals.get? s.here = none → acceptWait (s.coreRing s.here) = false →
        let s1 := s.releaseFence s.here
        let s2 := s1.dropLeaves (m.getX e).toNat off (m.getX b).toNat
        let w := s2.invalWaits (m.getX e).toNat off (m.getX b).toNat
        let s3 := if wb then s2.dropLines (m.getX d).toNat (m.getX b).toNat else s2
        ((m.getX b).toNat = 0 → exec (.tlbinv wb d a b e) s = s1.goes cid (m.next 8)) ∧
        ((m.getX b).toNat ≠ 0 → w ≠ [] →
          exec (.tlbinv wb d a b e) s = .next { s2 with invals := s2.invals.set s2.here ⟨w⟩, stalled := true }) ∧
        ((m.getX b).toNat ≠ 0 → w = [] →
          exec (.tlbinv wb d a b e) s = ({ s3 with invals := s3.invals.erase s3.here } : State).goes cid (m.next 8))) ∧
      (tlbinvBad wb (m.getX a) (m.getX b) (m.getX e) (m.getX d) = false →
        (s.invals.get? s.here = none → acceptWait (s.coreRing s.here) = true →
          exec (.tlbinv wb d a b e) s = .next { s.setHolding s.here true with stalled := true }) ∧
        (∀ v, s.invals.get? s.here = some v → v.waits ≠ [] → exec (.tlbinv wb d a b e) s = .next { s with stalled := true }) ∧
        (∀ v, s.invals.get? s.here = some v → v.waits = [] →
          let s3 := if wb then s.dropLines (m.getX d).toNat (m.getX b).toNat else s
          exec (.tlbinv wb d a b e) s = ({ s3 with invals := s3.invals.erase s3.here } : State).goes cid (m.next 8)))) ∧
    (m.prv = true → ∀ t bs, s.groupBytes s.here g off = (t, .ok bs) →
      exec (.gtw a sa gr) s = (match t.groupRefused gr.toNat bs with
        | some v => refuse t v
        | none => (t.writeGroup gr.toNat bs).goes cid (m.next 8))) ∧
    (segCheck g [kCluster] (isService s.here) off 64 4 true false false = none → s.badBank (coreGrove s.here) (g.base + off) 64 = false →
      let h := Header.ofBytes (bank 64)
      (s.spaceHeaderBad h = true → exec (.pbind false a sa n) s = refuse s 88) ∧
      (gridHeaderBad h = true → exec (.pbind true a sa n) s = refuse s 88) ∧
      (∀ t, s.spaceHeaderBad h = false → s.bindSpace m g n.toNat h = (t, none) → s.bindWait false n.toNat = false →
        exec (.pbind false a sa n) s = t.goes cid (m.next 8)) ∧
      (∀ t, s.spaceHeaderBad h = false → s.bindSpace m g n.toNat h = (t, none) → s.bindWait false n.toNat = true →
        exec (.pbind false a sa n) s = .next { s.setHolding s.here true with stalled := true }) ∧
      (∀ t, gridHeaderBad h = false → s.bindGrid m g n.toNat h = (t, none) → exec (.pbind true a sa n) s = t.goes cid (m.next 8))) ∧
    exec (.pbindU true n) s = (s.unbindGrid n.toNat).goes cid (m.next 8) ∧
    (s.bindWait false n.toNat = true → exec (.pbindU false n) s = .next { s.setHolding s.here true with stalled := true }) ∧
    (s.bindWait false n.toNat = false →
      exec (.pbindU false n) s = ({ s with spaces := s.spaces.erase n.toNat } : State).goes cid (m.next 8)) ∧
    (let w := m.getX b
     let r : CRange := { base := off, z := w.toNat % 64, op := w.toNat / 256 % 8, fmt := w.toNat / 4096 % 16 }
     let t := s.recallEntry k.toNat
     let bad := w.extractLsb' 6 2 ≠ 0#2 ∨ w.getLsbD 11 = true ∨ w.extractLsb' 16 48 ≠ 0#48 ∨ r.z < 7 ∨ 40 < r.z ∨ r.base % 2 ^ r.z ≠ 0 ∨
       rangeAllowed r.op r.fmt = false ∨ 2 ^ 56 < r.base + 2 ^ r.z
     let meets := ∃ p ∈ s.ranges, p.1 ≠ k.toNat ∧ r.meets p.2 = true
     exec (.crange true a b k) s = State.goes { t with ranges := t.ranges.erase k.toNat } cid (m.next 8) ∧
     (bad → exec (.crange false a b k) s = refuse s 90) ∧ (¬ bad → meets → exec (.crange false a b k) s = refuse s 91) ∧
     (¬ bad → ¬ meets → exec (.crange false a b k) s = State.goes { t with ranges := t.ranges.set k.toNat r } cid (m.next 8)))

/-- Free to execute with no vector access before it: spawn of a descriptor that passes its checks enters it into the pool of its die
with X(d) 0, or with none left to run 2, a full pool 1, ARM undone, a hopeless search 3; dset and ddec, once older commands are
accepted, update a slot and return its old value; bar and sstep arrive and block, and commit at the episode's end as an acquire
at device scope, sstep with the step counter; iupd, like ird after a reinitialisation, replaces an incumbent that its key
strictly beats and says so, and a search task that offers its own bound sets its own KP; ird reads key and payload. (R305, R306,
R307, R308, R309, R375, R376, R377, R380, R387, R388, R390) -/
def Obligations.TaskInstructionResults : Prop :=
  ∀ (s : State) (cid : Nat) (c : Ctx) (d a b : Reg) (sa : Slot) (k : BitVec 3) (rel : Option Scope), s.Ready cid c [d, a, b] →
    ringHasMem (s.coreRing s.here) = false →
    let m := c.img
    let g := m.slot sa
    let core := s.here
    let x := m.getX a
    let y := m.getX b
    let refuse := fun v : Nat => s.traps cid c (operandFault m v)
    let held := .next { s.setHolding core true with stalled := true }
    (segCheck g [kCluster] (isService core) x.toNat 64 8 true false false = none → (rel = none ∨ relWait (s.coreRing core) = false) →
      s.badBank (coreGrove core) (g.base + x.toNat) 64 = false →
      let t := TaskDesc.ofBytes (s.bankBytes (coreGrove core) (g.base + x.toNat) 64)
      let count := t.count % 2 ^ 17
      let s1 := if t.arm then s.dslotInc (t.signal / 4096) (t.signal % 4096) count else s
      let s0 := if t.arm then s1.dslotDec (t.signal / 4096) (t.signal % 4096) count else s
      let full := 65536 ≤ (s1.die t.die).pool.length
      let sv := (s.incumbents[t.inc]?.getD Incumbent.fresh).sv
      let enters := exec (.spawn d a sa rel) s =
        (s1.poolEnter t.die t (rel.map fun sc => (sc, some core))).goes cid ((m.setX d 0).next 8)
      (∀ v, t.fault = some v → exec (.spawn d a sa rel) s = refuse v) ∧
      (t.fault = none →
        (count = 0 → exec (.spawn d a sa rel) s = s.goes cid ((m.setX d 2).next 8)) ∧
        (count ≠ 0 → full → exec (.spawn d a sa rel) s = s0.goes cid ((m.setX d 1).next 8)) ∧
        (count ≠ 0 → ¬ full → t.srch = false → enters) ∧
        (count ≠ 0 → ¬ full → t.srch = true → sv = false → exec (.spawn d a sa rel) s = s0.traps cid c (operandFault m 96)) ∧
        (count ≠ 0 → ¬ full → t.srch = true → sv = true → s1.beatsShadow (poolAgent t.die) t.inc t.bound = true → enters) ∧
        (count ≠ 0 → ¬ full → t.srch = true → sv = true → s1.beatsShadow (poolAgent t.die) t.inc t.bound = false →
          exec (.spawn d a sa rel) s =
            (s1.killIndices t.die (if t.sig then some t.signal else none) count).goes cid ((m.setX d 3).next 8)))) ∧
    (let bad := 2 ^ 15 ≤ x.toNat ∨ 2 ^ 32 ≤ y.toNat
     let u := s.releaseFence core
     let dd := x.toNat / 4096
     let n := x.toNat % 4096
     let old := m.setX d (BitVec.ofNat 64 (u.dslot dd n))
     (bad → exec (.dset d a b) s = refuse 98 ∧ exec (.ddec d a b) s = refuse 98) ∧
     (¬ bad → acceptWait (s.coreRing core) = true → exec (.dset d a b) s = held ∧ exec (.ddec d a b) s = held) ∧
     (¬ bad → acceptWait (s.coreRing core) = false →
       exec (.dset d a b) s = (u.dslotSet dd n y.toNat).goes cid (old.next 4) ∧
       exec (.ddec d a b) s = (u.dslotDec dd n y.toNat).goes cid (old.next 4))) ∧
    (let n := x.toNat
     let st := (s.core core).arrival.get? n
     (256 ≤ n ∨ s.groupOf core n = none → exec (.bar a) s = refuse 100 ∧ exec (.sstep d a) s = refuse 100) ∧
     (n < 256 → s.groupOf core n ≠ none →
       (st = none → acceptWait (s.coreRing core) = true →
         exec (.bar a) s = .next { s with stalled := true } ∧ exec (.sstep d a) s = .next { s with stalled := true }) ∧
       (∀ kd o, st = some (.arrived kd o) → exec (.bar a) s = .next (s.block cid .barrier) ∧ exec (.sstep d a) s = .next (s.block cid .barrier)) ∧
       (st = none → acceptWait (s.coreRing core) = false →
         exec (.bar a) s = .next (((s.releaseFence core).setArrival core n (some (.arrived false cid))).block cid .barrier) ∧
         exec (.sstep d a) s = .next (((s.releaseFence core).setArrival core n (some (.arrived true cid))).block cid .barrier)) ∧
       (∀ kd v, st = some (.done kd cid v) →
         exec (.bar a) s = ((s.acquireFence core .device).setArrival core n none).goes cid (m.next 4) ∧
         exec (.sstep d a) s = ((s.acquireFence core .device).setArrival core n none).goes cid ((m.setX d v).next 4)) ∧
       (st = some (.fault cid) →
         exec (.bar a) s = (s.setArrival core n none).traps cid c (operandFault m 101) ∧
         exec (.sstep d a) s = (s.setArrival core n none).traps cid c (operandFault m 101)))) ∧
    (let i := s.incumbent k
     (i.busy = true → exec (.iupd d a b k) s = held ∧ exec (.ird d a k) s = held) ∧
     (i.busy = false → i.v = false → exec (.iupd d a b k) s = refuse 96 ∧ exec (.ird d a k) s = refuse 96) ∧
     (i.busy = false → i.v = true →
       let u := s.releaseFence core
       exec (.ird d a k) s = (s.acquireFence core .device).goes cid (((m.setX d i.key).setX a i.payload).next 4) ∧
       (i.kt = true → badKey x = true → exec (.iupd d a b k) s = refuse 97) ∧
       (i.kt = false ∨ badKey x = false → acceptWait (s.coreRing core) = true → exec (.iupd d a b k) s = held) ∧
       (i.kt = false ∨ badKey x = false → acceptWait (s.coreRing core) = false →
         (let o := if c.task.srch = true ∧ c.task.inc = k.toNat ∧ x = m.bound then m.setKp true else m
          (beats i.sense i.kt x i.key = true → exec (.iupd d a b k) s =
            (u.setIncumbent k { i with key := x, payload := y, hist := i.hist ++ [(s.sync, x)] }).goes cid ((o.setX d 1).next 4)) ∧
          (beats i.sense i.kt x i.key = false → exec (.iupd d a b k) s = u.goes cid ((o.setX d 0).next 4))))))

/-- Free to execute with no vector access before it, and no uncorrectable error in SRAM: put, get and pub that pass their checks
join the core's injection queue as a transfer to the targets that their operands name and commit, block while it holds 64
entries and trap where a check fails, pub with its release actions, once older commands are accepted and older fabric writes
have landed, and stalled till then; msg joins the queue with its tag and payload, and traps for a target that is not reachable;
recv takes the diverted message first, then the receive queue's, with X(d) 2 or 1, and with neither writes 0 or blocks; rblk
hands out the blocks of its gateway in order, all ones when none is left, and rblk.set starts a range; baddq writes the sum of
two blocks. (That a full queue blocks at once, where R342 gives 64 cycles, is the model's choice, log 53; that a transfer takes
one entry of the queue, whatever its targets, is its choice too, log 57.) (R341, R342, R343, R346, R347, R348, R349, R350, R351) -/
def Obligations.FabricInstructionResults : Prop :=
  ∀ (s : State) (cid : Nat) (c : Ctx) (k : FabCmd) (ty : Fmt) (sa : Slot) (nb : Bool), s.Ready cid c [k.a, k.b, k.c, k.d] →
    ringHasMem (s.coreRing s.here) = false → s.badSram = [] →
    let m := c.img
    let core := s.here
    let xa := m.getX k.a
    let full := 64 ≤ (s.core core).inj.length
    let refuse := fun v : Nat => s.traps cid c (operandFault m v)
    let leg := fun (dst : Nat) (virt : Bool) (addr : Nat) =>
      ({ dst := dst, virt := virt, addr := addr, next := 0, waits := [], left := false, tailSent := false, fail := none, psu := false
         done := false } : Leg)
    let xfer := fun (kind : XferKind) (len : Nat) (legs : List Leg) =>
      ({ id := s.serial, kind := kind, core := core, cid := cid, uid := c.uid, desc := m.slot k.sb, off := (m.getX k.b).toNat, len := len
         xd := m.getX k.d, cw := k.cw, ds := k.ds, dep := m.dep, legs := legs, window := 0, inc := 0, got := [], sentNo := none } : Xfer)
    let cnt := if xa.getLsbD 46 then some (xa.toNat / 2 ^ 28 % 2 ^ 18 * 8) else none
    let one := [leg (xa.toNat % 2 ^ 28) (xa.getLsbD 47) (m.getX k.c).toNat]
    let len := xa.toNat / 2 ^ 48
    let u := s.commandAcquire core (acqScope k.ord)
    (∀ f, (xferFault s m k true = some f → exec (.put k) s = s.traps cid c f) ∧
      (xferFault s m k false = some f → exec (.get k) s = s.traps cid c f)) ∧
    (xferFault s m k true = none → exec (.put k) s =
      if full then .next (s.block cid .access) else (u.enqueue (xfer (.put cnt) len one)).goes cid (m.next 8)) ∧
    (xferFault s m k false = none → exec (.get k) s =
      if len = 0 then (s.finishXfer (xfer (.get cnt) len one)).goes cid (m.next 8)
      else if full then .next (s.block cid .access) else (u.enqueue (xfer (.get cnt) len one)).goes cid (m.next 8)) ∧
    (let n := xa.toNat / 2 ^ 21 % 128
     let plen := xa.toNat / 2 ^ 32 % 2 ^ 17
     let subs := subscribers n (s.bankBytes (coreGrove core) (xa.toNat % 2 ^ 21) (16 * n))
     let i := Instr.pub k.d k.a k.b k.c k.sb k.cw k.ds
     let waits := acceptWait (s.coreRing core) = true ∨ s.fabricWait core .fabric = true
     (∀ f, pubFault s m k.d k.a k.b k.sb k.cw k.ds = some f → exec i s = s.traps cid c f) ∧
     (pubFault s m k.d k.a k.b k.sb k.cw k.ds = none →
       (∀ f, subsFault s m plen subs = some f → exec i s = s.traps cid c f) ∧
       (subsFault s m plen subs = none → (waits → exec i s = .next { s with stalled := true }) ∧
         (¬waits → exec i s =
           if full then .next (s.block cid .access)
           else ((s.releaseFence core).enqueue (xfer (.pub (m.getX k.c)) plen (subs.map fun t => leg t.dst t.virt t.addr.toNat))).goes cid
             (m.next 8))))) ∧
    (xa.toNat < 2 ^ 44 → s.reachable (epDev xa.toNat) = false → exec (.msg k.d k.a k.b k.c) s = refuse 75) ∧
    (xa.toNat < 2 ^ 44 → s.reachable (epDev xa.toNat) = true → exec (.msg k.d k.a k.b k.c) s =
      if full then .next (s.block cid .access)
      else
        let o : MsgOut :=
          { id := s.serial, dst := xa.toNat % 2 ^ 28, tag := xa.extractLsb' 28 16, pay := m.getX k.d ++ m.getX k.c ++ m.getX k.b
            cid := cid, uid := c.uid, seq := none, inc := 0, sentNo := 0, first := 0, last := 0, answer := none, refused := false }
        ({ s.setCore core { s.core core with inj := (s.core core).inj ++ [.msg o] } with serial := s.serial + 1 } : State).goes cid
          (m.next 8)) ∧
    (2 ^ 44 ≤ xa.toNat → exec (.msg k.d k.a k.b k.c) s = refuse 72) ∧
    (let g := m.slot sa
     let dest := g.base + xa.toNat
     let bw := fun (t : State) (bs : List Byte) => t.bankWrite (coreGrove core) dest bs
     recSa s g xa.toNat 32 32 true = none →
      (m.divHead = m.divTail → ∀ w rest, (s.core core).recvq = w :: rest → exec (.recv k.d k.a sa nb) s =
        (bw (s.setCore core { s.core core with recvq := rest }) (leBytes 32 w.toNat)).goes cid ((m.setX k.d 1).next 8)) ∧
      (m.divHead = m.divTail → (s.core core).recvq = [] → exec (.recv k.d k.a sa nb) s =
        if nb then s.goes cid ((m.setX k.d 0).next 8) else .next (s.block cid .recv)) ∧
      (m.divHead ≠ m.divTail → ∀ t bs, s.storeRead core (m.divPa m.divHead) 32 = (t, some bs) →
        exec (.recv k.d k.a sa nb) s = ((bw t bs).updCtx cid fun c => { c with divTold := false }).goes cid
          (({ m.setX k.d 2 with div1 := m.divTail ++ (m.divHead + 1) } : Image).next 8))) ∧
    (let q := coreGrove core
     let g := s.grove q
     (inGateway core = false → exec (.rblk k.d) s = refuse 76 ∧ exec (.rblkSet k.a k.b) s = refuse 76) ∧
     (inGateway core = true → (exec (.rblk k.d) s =
        if g.rbNext.toNat < g.rbEnd.toNat then
          (s.setGrove q { g with rbNext := g.rbNext + 1 }).goes cid
            ((m.setX k.d (BitVec.ofNat 64 (g.rbEpoch.toNat * 2 ^ 32 + g.rbNext.toNat))).next 8)
        else s.goes cid ((m.setX k.d (BitVec.allOnes 64)).next 8)) ∧
       (xa.toNat < 2 ^ 32 → (m.getX k.b).toNat < 2 ^ 32 → exec (.rblkSet k.a k.b) s =
         (s.setGrove q { g with rbNext := xa.setWidth 32, rbEnd := (m.getX k.b).setWidth 32, rbEpoch := g.rbEpoch + 1 }).goes cid
           (m.next 8)))) ∧
    (let p := m.slot sa
     let q := m.slot k.sb
     let blk := fun r : Reg => s.bankBytes (coreGrove core) (q.base + (m.getX r).toNat) 64
     recSa s p xa.toNat 64 64 true = none → recSa s q (m.getX k.b).toNat 64 64 false = none → recSa s q (m.getX k.c).toNat 64 64 false = none →
       exec (.baddq ty k.a k.b k.c sa k.sb) s =
         (s.bankWrite (coreGrove core) (p.base + xa.toNat) (baddq ty (blk k.b) (blk k.c))).goes cid (m.next 8))

/-- A packet of the module with a stale incarnation is dropped and counted; one whose number was placed is answered again and not
placed; an open one in time to a place in the banks is written there and acknowledged; an answer that is not stale, and comes
before window N + 3, ends its write's wait; a write without an answer for 2 µs is sent again under its number, and when window N
+ 3 begins its wait ends, counted; a report that is not stale closes the open numbers below it from window N + 2 on; a get
request within the banks, with no uncorrectable error in SRAM, is answered by its bytes in replies of 256; an entry of an
injection queue that may leave takes its place in the order of sending and sends the next packet of its first target that can be
sent one, the counter of a put last, with which the entry leaves; with 4,096 writes of the pair unanswered neither a transfer
nor a message sends (that a message waits for that limit too is the model's reading, log 77); an unthrottled rate entry rises by
4 and is freed at 64. (R328, R335, R336, R337, R338, R343, R346) -/
def Obligations.FabricWriteEvents : Prop :=
  (∀ (s : State) (i : Nat) (p : FabPacket), s.packets[i]? = some p → (s.die (epDie p.dstEp)).paused = false →
    let u := { s with packets := s.packets.take i ++ s.packets.drop (i + 1) }
    let die := epDie p.dstEp
    let dev := epDev p.srcEp
    let src := epDie p.srcEp
    let q := BitVec.ofNat 32 p.seq
    let r := s.recvSeq dev src
    let i' := Instr.fabricWriteArrival (.own i)
    (s.staleInc dev p.srcInc p.dstInc = true → exec i' s = .next (u.countStale die)) ∧
    (s.staleInc dev p.srcInc p.dstInc = false →
      (r.state q = .placed → exec i' s = .next ((u.countDup die).answer .write p.srcEp p.seq none)) ∧
      (r.state q = .closed → exec i' s = .next (u.countLate die)) ∧
      (r.state q = .open_ → s.window < p.window + 2 → ∀ base len off bs, p.body = .data false base len off bs →
        base + len ≤ Config.clusterBytes → exec i' s = .next
          (((u.bankWrite (epCore p.dstEp / 8) (base + off) bs).setRecv dev src
            ({ r with due := r.due ++ [(q, p.window)], placed := r.placed ++ [q] } : RecvSeq).advance).answer .write p.srcEp p.seq none)))) ∧
  (∀ (s : State) (a : FabAck) (w : OpenWrite), a.kind = .write → a.dev = s.ownDev → a ∈ s.answers →
    let u := ({ s with answers := s.answers.erase a } : State)
    let q := s.sendSeq a.die a.dev
    (s.staleInc a.dev a.srcInc a.dstInc = true → exec (.fabricAckArrival a) s = .next (u.countStale a.die)) ∧
    (s.staleInc a.dev a.srcInc a.dstInc = false → a.echo = false → w.owner = none →
      q.waits.find? (fun w => w.packet.seq == a.seq && w.packet.dstInc == a.srcInc && decide (s.window < w.packet.window + 3)) = some w →
      exec (.fabricAckArrival a) s = .next (u.setSend a.die a.dev { q with waits := q.waits.erase w }))) ∧
  (∀ (s : State) (die dev seq port : Nat) (w : OpenWrite),
    let q := s.sendSeq die dev
    (q.waits.find? (fun w => w.packet.seq == seq && decide (w.time + 2000000 ≤ s.sync)) = none →
      exec (.retransmit die dev seq port) s = .next s) ∧
    (q.waits.find? (fun w => w.packet.seq == seq && decide (w.time + 2000000 ≤ s.sync)) = some w → dev = s.ownDev →
      exec (.retransmit die dev seq port) s =
        .next { s.setSend die dev { q with waits := q.waits.map fun x => if x = w then { x with time := s.sync } else x } with
                packets := s.packets ++ [w.packet] }) ∧
    (seq < 2 ^ 32 → q.waits.find? (fun w => w.packet.seq == seq && decide (w.packet.window + 3 ≤ s.window)) = some w → w.owner = none →
      exec (.putStatusUnknown die dev seq) s = .next ((s.setSend die dev { q with waits := q.waits.erase w }).countUnknown die)) ∧
    (dev = s.ownDev → exec (.sequenceReportSend die dev) s =
      .next { s with
        reports := s.reports ++ [
          { srcDie := die, srcDev := dev, srcInc := s.incarnation, dstInc := s.incarnation, hi := (q.next - 1).toNat, window := q.window
            port := 0 }] })) ∧
  (∀ (s : State) (r : SeqReport),
    let q := s.recvSeq r.srcDev r.srcDie
    let stale := s.staleInc r.srcDev r.srcInc r.dstInc
    let arrival := Instr.sequenceReportArrival r.port r.srcDie ⟨r.srcDev, r.srcInc, r.dstInc⟩ r.hi r.window
    let due := fun t : State => t.setRecv r.srcDev r.srcDie { q with due := q.due ++ [(BitVec.ofNat 32 r.hi, r.window)] }
    (r.srcDev = s.ownDev → r ∈ s.reports →
      let u := ({ s with reports := s.reports.erase r } : State)
      exec arrival s = .next (if stale then u.countStale r.srcDie else due u)) ∧
    (r.srcDev ≠ s.ownDev → r.port < 18 → (s.port r.port).up = true →
      let u := s.portGot r.port 3 1
      exec arrival s = .next (if stale then u.countStale (portDie r.port) else due u))) ∧
  (∀ (s : State) (die sd dev : Nat),
    let r := s.recvSeq dev sd
    let ripe := r.due.filter fun p => decide (p.2 + 2 ≤ s.window)
    (ripe = [] → exec (.sequenceClose die sd dev) s = .next s) ∧
    (ripe ≠ [] → exec (.sequenceClose die sd dev) s = .next (s.setRecv dev sd
      ({ ripe.foldl (fun (r : RecvSeq) p => r.closeBelow p.1) r with
         due := r.due.filter fun p => !decide (p.2 + 2 ≤ s.window) } : RecvSeq).advance))) ∧
  (∀ (s : State) (i : Nat) (r : GetReq), s.gets[i]? = some r → s.replyRoom r = true → s.staleInc (epDev r.srcEp) r.srcInc r.dstInc = false →
    r.virt = false → r.addr + r.len ≤ Config.clusterBytes → s.badSram = [] →
    let bs := s.bankBytes (epCore r.dstEp / 8) r.addr r.len
    exec (.getRequestServe (.own i)) s = .next ((List.range ((r.len + 255) / 256)).foldl (fun (t : State) k =>
      (t.sendWrite r.dstEp r.srcEp r.xfer (.reply (256 * k) ((bs.drop (256 * k)).take 256)) none).1)
      { s with gets := s.gets.take i ++ s.gets.drop (i + 1) })) ∧
  (∀ (s : State) (core idx : Nat) (m : MsgOut) (id i : Nat) (x : Xfer) (l : Leg),
    ((s.core core).inj[idx]? = some (.msg m) → m.seq = none → s.canSend (coreDie core) (epDev m.dst) 2 = true →
      s.mayLeave core idx m.dst = true →
      exec (.injectionSend core idx) s = .next (s.sendMsg core idx m)) ∧
    ((s.core core).inj[idx]? = some (.msg m) → 4096 ≤ (s.sendSeq (coreDie core) (epDev m.dst)).waits.length → m.seq = none →
      exec (.injectionSend core idx) s = .next s) ∧
    ((s.core core).inj[idx]? = some (.xfer id) → s.xfer? id = some x →
      ((∀ l ∈ x.legs, l.left = true ∨ 4096 ≤ (s.sendSeq (coreDie core) (epDev l.dst)).waits.length) →
        exec (.injectionSend core idx) s = .next s) ∧
      (x.legs.zipIdx.find? (fun p => x.sendable p.1 && s.mayLeave core idx p.1.dst && s.canSend (coreDie core) (epDev p.1.dst) 0) =
          some (l, i) →
        ∃ y, (s.noteSent id).xfer? id = some y ∧ (y.id = x.id ∧ y.legs = x.legs ∧ y.kind = x.kind ∧ y.sentNo.isSome = true) ∧
          exec (.injectionSend core idx) s = .next ((s.noteSent id).sendNext y i l) ∧
          ∀ cnt, x.kind = .put (some cnt) → x.len ≤ l.next →
            let r := (s.noteSent id).sendPacket y i l (.counter cnt)
            exec (.injectionSend core idx) s = .next (r.1.leaveQueue y i fun l => { l with tailSent := true, waits := [r.2] })))) ∧
  (∀ (s : State) (core slot : Nat) (e : RateEntry), (s.core core).rate.get? slot = some e → e.echo + 8000000 ≤ s.sync →
    let k := s.core core
    exec (.rateRecovery core slot) s = .next (s.setCore core (if 60 ≤ e.q then { k with rate := k.rate.erase slot }
      else { k with rate := k.rate.set slot { e with q := e.q + 4, echo := s.sync } })))

/-- A held part whose receiver, in this module, has committed the step leaves, charged to its owner's core, and stays held before; a
part that arrives writes its cells and is landed, the strip's stamp in the frame rising to its step once every supplier's part
of that step is there, writes nothing once a later one has landed, is dropped and logged when its binding is gone, and is
counted as landed in each case; a gld that has waited past the stall limit of a grid is made ready to fault, whichever bound
grid that is (the model's choice, log 56). (R260, R266, R268, R274, R369, R378) -/
def Obligations.HaloPartEvents : Prop :=
  (∀ (s : State) (i step core other : Nat) (p : HaloPart) (g : Grid), (s.grids.flatMap fun q => q.2.held)[i]? = some p →
    s.grids.get? p.grid = some g → g.ownerCore p.src = some core → g.ownerCore p.dst = some other → g.steps.get? p.dst = some step →
    let t := s.setGrid p.grid { g with held := g.held.erase p }
    exec (.haloPartSend i) s = .next (if p.step ≤ step then
      { t.setCore core { t.core core with psent := (t.core core).psent + 1 } with halos := s.halos ++ [(core, p)] } else s)) ∧
  (∀ (s : State) (i core : Nat) (p : HaloPart), s.halos[i]? = some (core, p) →
    let u := { s with halos := s.halos.take i ++ s.halos.drop (i + 1) }
    let landed := fun t : State => t.setCore core { t.core core with pland := (t.core core).pland + 1 }
    (p.old = true ∨ s.grids.get? p.grid = none →
      exec (.haloPartArrival i) s = .next (landed (u.logEngine (coreDie core) 9 0 p.grid (coreGrove core % 256) (coreInGrove core)))) ∧
    (∀ g, p.old = false → s.grids.get? p.grid = some g →
      (g.overtaken p.dst p.strip p.src p.step = true → exec (.haloPartArrival i) s = .next (landed u)) ∧
      (g.overtaken p.dst p.strip p.src p.step = false →
        let t := u.homeWrites (p.cells.map fun c => (g.cellPa p.dst (p.step % 2) c.1, leBytes g.es c.2.toNat))
        let h := (g.land p.dst p.strip p.src p.step).1
        let all := ∀ q ∈ g.suppliers p.dst p.strip, (27 * p.dst + p.strip, q, p.step) ∈ h.landed
        (27 * p.dst + p.strip, p.src, p.step) ∈ h.landed ∧
        (all → exec (.haloPartArrival i) s = .next (landed ((t.setStamp g p.dst p.strip p.step).setGrid p.grid h))) ∧
        (¬all → exec (.haloPartArrival i) s = .next (landed (t.setGrid p.grid h)))))) ∧
  (∀ (s : State) (cid t : Nat) (pc : Word) (c : Ctx), s.ctx? cid = some c → c.wait = some .halo → c.stale = some (t, pc) →
    ((∃ g ∈ s.grids, g.2.stall < s.now - t) → exec (.haloStallLimit cid) s = .next (s.makeReady cid)) ∧
    ((∀ g ∈ s.grids, s.now - t ≤ g.2.stall) → exec (.haloStallLimit cid) s = .next s))

/-- A message whose number is neither placed nor closed, to the active context, or to any, joins the receive queue while it holds
fewer than 64 and is acknowledged, and while a checkpoint pauses the die it is neither placed nor answered; a refused one is
sent again after 1 µs, if its target is not throttled; one without an answer for three window lengths is removed and counted,
and a close notice for it waits for its answer; a close notice that is not stale closes a number that is not placed and is
answered; a lost peer is DOWN and a rejoined one UP with its sequence state cleared; a port comes up with a version and a window
in common, else the reason is logged, and goes down; its totals start again after a reset; credits are sent by a port that may
send on the control channel, and an arrival takes over FREED and adds the flits lost, then its own flit; drift stops new writes
until it ends; fabwin takes a length of 1 to 64 while every port is down; a window's start moves the module's time to it. (The
order of the flits lost and the update's own is the model's choice, log 13; that version 0 at a bring-up stands for none in
common, log 15.) (R327, R328, R329, R332, R333, R334, R340, R347, R348) -/
def Obligations.MessageAndPortEvents : Prop :=
  (∀ (s : State) (i cid : Nat) (p : MsgPacket), s.msgs[i]? = some p → s.staleInc (epDev p.srcEp) p.srcInc p.dstInc = false →
    let key := 8 * epDev p.srcEp + epDie p.srcEp
    let r := (s.msgRecvs.get? key).getD RecvSeq.fresh
    let k := epCore p.dstEp
    (s.die (epDie p.dstEp)).paused = false →
    (r.state (BitVec.ofNat 32 p.seq) = .open_ ∨ r.state (BitVec.ofNat 32 p.seq) = .beyond) → (p.tag = 0xFFFF#16 ∨ (s.activeCid k = some cid ∧ ctxTag cid = p.tag.toNat)) →
    (s.core k).recvq.length < 64 →
    let u := { s with msgs := s.msgs.take i ++ s.msgs.drop (i + 1) }
    let t := u.setCore k { u.core k with recvq := (u.core k).recvq ++ [p.pay ++ 0#16 ++ p.tag ++ (p.srcInc ++ BitVec.ofNat 28 p.srcEp)] }
    let r1 := ({ r with placed := r.placed ++ [BitVec.ofNat 32 p.seq] } : RecvSeq).advance
    exec (.msgArrival (.own i)) s = .next (({ t with msgRecvs := t.msgRecvs.set key r1 } : State).answer .msg p.srcEp p.seq none)) ∧
  (∀ (s : State) (i : Nat) (p : MsgPacket), s.msgs[i]? = some p → (s.die (epDie p.dstEp)).paused = true →
    exec (.msgArrival (.own i)) s = .next { s with msgs := s.msgs.take i ++ s.msgs.drop (i + 1) }) ∧
  (∀ (s : State) (core idx t : Nat) (m : MsgOut), (s.core core).inj[idx]? = some (.msg m) → m.seq.isSome = true → m.refused = true →
    m.answer = some t → s.msgCan (epDev m.dst) = true → s.paced core m.dst = true →
    exec (.msgRetry core idx) s = .next (if t + 1000000 ≤ s.sync then s.sendMsg core idx m else s)) ∧
  (∀ (s : State) (die dev seq : Nat),
    let found := s.findMsg die dev seq fun m => decide (m.answer.getD m.first + 3 * s.windowLen ≤ s.sync)
    (found = none → exec (.msgSilenceTimeout die dev seq) s = .next s) ∧
    (∀ k i m, found = some (k, i, m) → dev = s.ownDev →
      let u := (s.setCore k { s.core k with inj := (s.core k).inj.take i ++ (s.core k).inj.drop (i + 1) }).countUnknown die
      exec (.msgSilenceTimeout die dev seq) s = .next
        ((u.setSend die dev { u.sendSeq die dev with
            closes := (u.sendSeq die dev).closes ++ [{ seq := BitVec.ofNat 32 seq, inc := m.inc, time := s.sync }] }).psuTo m.cid m.uid k
          { sent := m.sentNo, va := 0, target := m.dst, w := true }))) ∧
  (∀ (s : State) (n : CloseNotice), n.srcDev ≠ s.ownDev → s.mayAnswer = true → n.port < 18 → (s.port n.port).up = true →
    let u := s.portGot n.port 3 1
    let key := 8 * n.srcDev + n.srcDie
    let r := (s.msgRecvs.get? key).getD RecvSeq.fresh
    let q := BitVec.ofNat 32 n.seq
    let arrival := Instr.closeNoticeArrival n.port n.srcDie ⟨n.srcDev, n.srcInc, n.dstInc⟩ n.seq
    (s.staleInc n.srcDev n.srcInc n.dstInc = true → exec arrival s = .next (u.countStale (portDie n.port))) ∧
    (s.staleInc n.srcDev n.srcInc n.dstInc = false → r.state q = .open_ ∨ r.state q = .beyond → exec arrival s = .next
      (({ u with msgRecvs := s.msgRecvs.set key ({ r with closed := r.closed ++ [q] } : RecvSeq).advance } : State).answer .close
        (n.srcDev * 16384 + n.srcDie * 2048) n.seq none)) ∧
    (s.staleInc n.srcDev n.srcInc n.dstInc = false → r.state q = .placed → exec arrival s = .next
      (u.answer .close (n.srcDev * 16384 + n.srcDie * 2048) n.seq none))) ∧
  (∀ (s : State) (dev : Nat) (inc : BitVec 4),
    exec (.peerLinkLoss dev) s = .next { s with peers := s.peers.set dev { up := false, inc := s.incOf dev } } ∧
    ∃ t, exec (.peerRejoin dev inc) s = .next t ∧ t.peers = s.peers.set dev { up := true, inc := inc } ∧
      (∀ d, d < 8 → (t.sendSeq d dev).next = 0 ∧ (t.sendSeq d dev).waits = (s.sendSeq d dev).waits) ∧
      ∀ sd, sd < 8 → t.recvSeq dev sd = RecvSeq.fresh) ∧
  (∀ (s : State) (port win : Nat) (ver : BitVec 8) (feat : BitVec 32) (dev : BitVec 14), port < 18 → (s.port port).up = false →
    (ver = 0 → exec (.portBringup port ver feat win dev) s = .next (s.logDie (portDie port) 0 0 10 1 port)) ∧
    (ver ≠ 0 → win ≠ s.fabwin.toNat % 128 → exec (.portBringup port ver feat win dev) s = .next (s.logDie (portDie port) 0 0 10 2 port)) ∧
    (ver ≠ 0 → win = s.fabwin.toNat % 128 → ∃ t, exec (.portBringup port ver feat win dev) s = .next t ∧ (t.port port).up = true ∧
      t.linked = true ∧ t.incarnation = (if s.linked then s.incarnation else s.incarnation + 1))) ∧
  (∀ (s : State) (port : Nat),
    let p := s.port port
    exec (.portLinkFailure port) s = .next { s with ports := s.ports.set port { p with up := false } } ∧
    (∃ t, exec (.portReset port) s = .next t ∧ (t.port port).up = p.up ∧
      ∀ ch : Fin 4, (t.port port).sent[ch] = 0 ∧ (t.port port).heard[ch] = 0 ∧ (t.port port).got[ch] = 0 ∧ (t.port port).freed[ch] = 0) ∧
    exec (.creditUpdateSend port) s = .next (if p.allows 3 then s.portSend port 3 1 else s) ∧
    ∀ (control : BitVec 32 × BitVec 32) (data done : Vector (BitVec 32) 3), port < 18 → p.up = true →
      let sent : Vector (BitVec 32) 4 := data.push control.1
      let freed : Vector (BitVec 32) 4 := done.push control.2
      ∃ t, exec (.creditUpdateArrival port control data done) s = .next t ∧
      (t.port port).heard = freed ∧ ∀ ch : Fin 4,
      let lost := if (sent[ch] - p.got[ch]).toNat < 2 ^ 31 then sent[ch] - p.got[ch] else 0
      let own : BitVec 32 := if ch = 3 then 1 else 0
      (t.port port).got[ch] = p.got[ch] + lost + own ∧ (t.port port).freed[ch] = p.freed[ch] + lost + own) ∧
  (∀ (s : State) (d : Nat) (w : Word),
    (∃ t, exec (.clockDrift d) s = .next t ∧ (t.die d).drift = true ∧
      t.dies = ((s.machineCheck d 3 0 0 0 0 0).setDie d { (s.machineCheck d 3 0 0 0 0 0).die d with drift := true }).dies) ∧
    (∃ t, exec .clockDriftRecovery s = .next t ∧ t.drifted = false) ∧
    (w.toNat = w.toNat % 128 → 1 ≤ w.toNat → w.toNat ≤ 64 → w.toNat ≠ s.fabwin.toNat % 128 →
      exec (.fabwinWrite w) s = .next (if s.ports.any fun p => p.2.up then s.logHost 0 2 0x30 else { s with fabwin := w })) ∧
    (0 < s.windowLen → ∃ t, exec .visibilityWindowBegin s = .next t ∧ t.window = s.window + 1 ∧ t.sync = (s.window + 1) * s.windowLen))

/-- A core whose active context is not ready goes on to the first ready slot in the order of R104, an idle one to the first from its
last, and a context that has issued 4,096 cycles beside a ready one gives way, unless it stalls in an instruction that is not
interrupted; an access that has waited blocks its context, unless the core is inside an instruction that is not interrupted; a
blocked context becomes ready when its condition holds, and with it those of its core whose conditions hold then, and an idle
core resumes the first ready one in the order of R104; with no uncorrectable error, an image line joins the register cache of
its core, at the front, and leaves every other, a full cache gives up one line, and no byte at a home changes; the oldest entry
of a ring that has faulted raises the late fault and the entries behind it, none of them an exchange, are saved, unwritten, with
the image lines of the save area used, and a fault that was pending before stays the one that is pending; a pending trap is
taken at the next instruction; a victim without ring entries frees its slot and goes back to the pool as a descriptor of count
1, never to be chosen again. (R103, R104, R105, R106, R107, R317, R400, R402, R403, R405) -/
def Obligations.ContextAndFaultEvents : Prop :=
  let order := fun (s : State) (k : Nat) (i : Fin 4) => [i + 1, i + 2, i + 3].find? (s.slotReady k)
  let only := fun (s t : State) (k : Nat) => t = { s with cores := t.cores } ∧ ∀ h, h ≠ k → t.core h = s.core h
  (∀ (s : State) (k : Nat) (i : Fin 4), (s.core k).active = some i →
    (s.slotReady k i = true → exec (.contextSwitch k) s = .next s) ∧
    (s.slotReady k i = false → ∃ t, exec (.contextSwitch k) s = .next t ∧ (t.core k).active = order s k i ∧ (t.core k).issue = 0 ∧
      only s t k) ∧
    (4096 ≤ (s.core k).issue → s.inTlbinv k = false → (s.core k).holding = false → ∀ j, order s k i = some j →
      ∃ t, exec (.fairnessSwitch k) s = .next t ∧ (t.core k).active = some j ∧ (t.core k).issue = 0 ∧ only s t k) ∧
    ((s.core k).issue < 4096 → exec (.fairnessSwitch k) s = .next s)) ∧
  (∀ (s : State) (k : Nat), (s.core k).active = none → ∃ t, exec (.contextSwitch k) s = .next t ∧
    (t.core k).active = (let i := (s.core k).last; [i + 1, i + 2, i + 3, i].find? (s.slotReady k)) ∧ only s t k) ∧
  (∀ (s : State) (k cid : Nat) (c : Ctx), s.activeCid k = some cid → s.ctx? cid = some c → c.ready = true → s.inTlbinv k = false →
      (s.core k).holding = false →
    (s.stalled = false ∨ s.here ≠ k) → ∃ t, exec (.accessWaitBlock k) s = .next t ∧ t.ctx? cid = some { c with wait := some .access } ∧
      ∀ o, o ≠ cid → t.ctx? o = s.ctx? o) ∧
  (∀ (s : State) (cid : Nat) (c : Ctx), s.ctx? cid = some c →
    let holds := fun (o : Nat) (c : Ctx) => match c.wait with
      | some .access => true
      | some .halo => true
      | some .watch => c.latch || c.img.kp
      | some .barrier => (match c.core? with
        | some k => !((s.core k).arrival.any fun p => match p.2 with | .arrived _ x => x == o | _ => false)
        | none => false)
      | some .recv => c.img.divHead != c.img.divTail || (match c.core? with | some k => !(s.core k).recvq.isEmpty | none => false)
      | _ => false
    let mate := fun (o : Nat) (y : Ctx) => (match c.core? with | some k => (s.residents k).contains o | none => false) &&
      y.wait != some .access && y.wait != some .halo && holds o y
    (holds cid c = false → exec (.contextReady cid) s = .next s) ∧
    (holds cid c = true → (∀ k, c.core? = some k → (s.residents k).contains cid = true) → ∃ t, exec (.contextReady cid) s = .next t ∧
      t.ctx? cid = some { c with wait := none } ∧
      (∀ o, o ≠ cid → t.ctx? o = (s.ctx? o).map fun y => if mate o y then { y with wait := none } else y) ∧
      (∀ k, c.core? = some k → (s.core k).active = none →
        (t.core k).active = (let i := (s.core k).last; [i + 1, i + 2, i + 3, i].find? (t.slotReady k))) ∧
      t = { s with ctxs := t.ctxs, cores := t.cores })) ∧
  (∀ (s : State) (k cid line : Nat) (c : Ctx), isService k = false → line < 128 → (s.residents k).contains cid = true →
    (s.core k).lines.contains (cid, line) = false → s.ctx? cid = some c → s.Sound → s.MemInv → s.tierPower = 0xFF#8 →
    ∃ t, exec (.imageLineFill k cid line) s = .next t ∧
      ((s.core k).lines.length < 512 → (t.core k).lines = (cid, line) :: (s.core k).lines ∧
        ∀ h, h ≠ k → (t.core h).lines = (s.core h).lines.filter fun l => l != (cid, line)) ∧
      (∀ v, 512 ≤ (s.core k).lines.length → s.lineVictim k = some v →
        (t.core k).lines = (cid, line) :: (s.core k).lines.filter fun l => l != v) ∧
      (∀ o, (t.ctx? o).map (fun y => { y with homes := [] }) = (s.ctx? o).map fun y => { y with homes := [] }) ∧ t.groves = s.groves ∧
      t.dies = s.dies ∧ ∀ pa, t.homeByte pa = s.homeByte pa) ∧
  (∀ (s : State) (cid core : Nat) (c : Ctx) (e : RingEntry) (young : List RingEntry) (f : FaultRec), s.ctx? cid = some c →
    c.core? = some core → c.ring = e :: young → e.phase = .faulted f → vmaxxW e.instr = none →
    (∀ y ∈ young, vmaxxW y.instr = none ∧ s.queuedMat (coreGrove core) cid c.uid y = none) →
    exec (.lateFault cid e.seq.toNat) s = .next
      (((s.fetchLines core cid (70 :: areaLines c.img.saved.length (young.length + 1))).updCtx cid fun x => { x with
        ring := []
        late := some (c.late.getD { f with late := true, seq := some e.seq.toNat })
        img := x.img.saveMore (e.save c.late.isNone :: young.map fun y => y.save false) }).wakeCore core)) ∧
  (∀ (s : State) (k cid : Nat) (c : Ctx) (f : FaultRec), s.ctx? cid = some c → s.inTlbinv k = false →
    (s.core k).holding = false →
    (s.pendingTrap k = some (cid, f, false) → exec (.pendingTrapTaken k) s = .next (s.takeTrap cid k f c.img.pc)) ∧
    (s.pendingTrap k = some (cid, f, true) →
      exec (.pendingTrapTaken k) s = .next ((s.setCtx cid { c with psu := c.psu.drop 1 }).takeTrap cid k f c.img.pc))) ∧
  (∀ (s : State) (cid core i n : Nat) (c : Ctx), s.ctx? cid = some c → c.where_ = .slot core i → c.leaving = some n → c.ring = [] →
    s.owes core cid = false → s.inTlbinv core = false → (s.core core).holding = false → (s.die (coreDie core)).pool.length < 65536 →
    ∃ t e x, exec (.preemption cid) s = .next t ∧ t.ctx? cid = some x ∧ x.where_ = .queued ∧ x.chosen = true ∧
      (t.die (coreDie core)).pool = (s.die (coreDie core)).pool ++ [e] ∧ e.resume = some cid ∧ e.count = 1 ∧ e.next = 0 ∧
      e.hold = none ∧ e.task = c.task)

/-- The first descriptor in order that a core and a free image can take becomes a context there, with a fresh image of the template,
its arguments in x3 to x6, its index in x7 and its bound in x8, and the descriptor goes on to its next index or leaves the pool;
a search descriptor that cannot beat the pool's shadow is discarded and counted; an aged descriptor rises by a class; a write of
incctl starts a reinitialisation unless one runs, a search task is left or the initial key is bad; its end gives every shadow
the base; a shadow takes the next improvement, and a core's search contexts that it beats get KP; an episode ends when every
member has arrived, whatever its phase: bar completes, mixed kinds fault, sstep waits for the transfers, and while every member
is still there the boundary runs, the step counter rises by 1 and every member is done with it. (R304, R313, R315, R316, R320,
R381, R383, R386, R389, R390, R393) -/
def Obligations.TaskAndGroupEvents : Prop :=
  (∀ (s : State) (d : Nat), (s.die d).paused = true → exec (.taskDispatch d) s = .next s) ∧
  (∀ (s : State) (d : Nat) (e : PoolEntry) (rest : List PoolEntry), (s.die d).paused = false → s.dispatchOrder d = e :: rest →
    e.resume = none →
    (∀ k cid, e.task.srch = false → e.acq = none → s.targetCore d e.task = some k → s.freeImage d = some cid →
      ∃ t x i, exec (.taskDispatch d) s = .next t ∧ t.ctx? cid = some x ∧ x.where_ = .slot k i ∧ x.wait = none ∧ x.task = e.task ∧
        x.img = { freshImage (s.die d).template e with div0 := BitVec.ofNat 64 ((s.die d).divBase + 4096 * ctxTag cid) } ∧
        x.img.pc = e.entry ∧ x.img.status = 0 ∧ x.img.slots = (s.die d).template ∧
        (∀ r : Reg, x.img.getX r =
          if r = 3 then e.args.extractLsb' 0 64 else if r = 4 then e.args.extractLsb' 64 64
          else if r = 5 then e.args.extractLsb' 128 64 else if r = 6 then e.args.extractLsb' 192 64
          else if r = 7 then BitVec.ofNat 64 e.next else if r = 8 then e.bound else 0) ∧
        (t.die d).pool = if e.next + 1 < e.count then (s.die d).pool.map fun y => if y.id = e.id then { y with next := y.next + 1 } else y
          else (s.die d).pool.filter fun y => y.id != e.id) ∧
    (e.task.srch = true → s.beatsShadow (poolAgent d) e.task.inc e.bound = false → e.task.signal = none →
      ∃ t, exec (.taskDispatch d) s = .next t ∧ (t.die d).killcnt = (s.die d).killcnt + BitVec.ofNat 64 (e.count - e.next) ∧
        (t.die d).pool = (s.die d).pool.filter fun y => y.id != e.id)) ∧
  (∀ (s : State) (d n : Nat), ∃ t, exec (.agingPromotion d n) s = .next t ∧ (t.die d).pool = (s.die d).pool.map fun e =>
    if e.id = n ∧ (s.die d).poolcfg.getLsbD 8 = true ∧ e.hold = none ∧ e.task.cls < 3 ∧
        e.task.elig + (e.task.promo + 1) * 2 ^ ((s.die d).poolcfg.toNat % 64) ≤ s.now
    then { e with task := { e.task with cls := e.task.cls + 1, promo := e.task.promo + 1 } } else e) ∧
  (∀ (s : State) (k : BitVec 3) (w : Word), w.extractLsb' 3 4 = 0#4 → w.extractLsb' 8 56 = 0#56 →
    let i := s.incumbent k
    let ignored := i.busy = true ∨ s.searchLeft k.toNat = true ∨ (w.getLsbD 0 = true ∧ w.getLsbD 2 = true ∧ badKey i.init = true)
    (ignored → exec (.incctlWrite k w) s = .next (s.logHost 0 2 (incctlOff k))) ∧
    (¬ ignored → exec (.incctlWrite k w) s = .next (s.setIncumbent k { i with
      busy := true, sense := w.getLsbD 1, kt := w.getLsbD 2, v := w.getLsbD 0, key := i.init, payload := 0, hist := [] }))) ∧
  (∀ (s : State) (k : BitVec 3), (s.incumbent k).busy = true → ∃ t, exec (.incumbentReinitDone k) s = .next t ∧
    (let i := s.incumbent k
     t.incumbent k = { i with busy := false, skey := i.key, ssense := i.sense, skt := i.kt, sv := i.v }) ∧
    ∀ agent, t.shadowKey agent k.toNat = (s.incumbent k).key) ∧
  (∀ (s : State) (a : ShadowAt) (k : BitVec 3),
    let agent := match a with | .pool d => poolAgent d | .core c => c
    (s.nextImprovement agent k = none → exec (.shadowUpdate a k) s = .next s) ∧
    (∀ w, s.nextImprovement agent k = some w → ∃ t, exec (.shadowUpdate a k) s = .next t ∧ t.shadowKey agent k.toNat = w ∧
      t.incumbents = s.incumbents ∧
      (∀ c cid x, a = .core c → (s.residents c).contains cid = true → s.ctx? cid = some x → x.core? = some c → x.task.srch = true →
        x.task.inc = k.toNat → beats (s.incumbent k).ssense (s.incumbent k).skt x.img.bound w = false →
        (t.ctx? cid).map (fun y => y.img.kp) = some true))) ∧
  (∀ (s : State) (g : Nat) (v : Group), s.groups.get? g = some v →
    let all := (s.arrivals g v).isSome
    (s.arrivals g v = none → exec (.syncEpisode g) s = .next s) ∧
    (∀ b ks, s.arrivals g v = some (b :: ks) →
      (ks.any (· != b) = true → ∃ t, exec (.syncEpisode g) s = .next t ∧ t.groups.get? g = some { v with phase := .idle } ∧
        ∀ m cid b', m ∈ v.members → (s.core m).arrival.get? g = some (.arrived b' cid) →
          (t.core m).arrival.get? g = some (.fault cid)) ∧
      (ks.any (· != b) = false → b = false → ∃ t, exec (.syncEpisode g) s = .next t ∧
        t.groups.get? g = some { v with phase := .idle } ∧ ∀ m cid b', m ∈ v.members →
          (s.core m).arrival.get? g = some (.arrived b' cid) → (t.core m).arrival.get? g = some (.done b' cid 0)) ∧
      (ks.any (· != b) = false → b = true → exec (.syncEpisode g) s =
        .next (if v.phase = .idle then { s with groups := s.groups.set g { v with phase := .landing } } else s))) ∧
    (¬ (v.phase = .landing ∧ s.landed v = true ∧ all = true) → exec (.superstepBoundary g) s = .next s) ∧
    (v.phase = .landing → s.landed v = true → all = true →
      ((s.spaces.filter fun p => p.2.group == g) = [] →
        exec (.superstepBoundary g) s = .next { s with groups := s.groups.set g { v with phase := .moving } }) ∧
      (∀ n sp, (s.spaces.filter fun p => p.2.group == g) = [(n, sp)] →
        let u := s.spaceBoundary n sp
        exec (.superstepBoundary g) s = .next { u with groups := u.groups.set g { v with phase := .moving } })) ∧
    (¬ (v.phase = .moving ∧ s.landed v = true ∧ all = true) → exec (.stepCounterIncrement g) s = .next s) ∧
    (v.phase = .moving → s.landed v = true → all = true → ∃ t, exec (.stepCounterIncrement g) s = .next t ∧
      t.groups.get? g = some { v with step := v.step + 1, phase := .idle } ∧
      (s.cksts = 1 → s.ckGroup = g → t.ckHit = true) ∧
      ∀ m cid b, m ∈ v.members → (s.core m).arrival.get? g = some (.arrived b cid) →
        (t.core m).arrival.get? g = some (.done b cid (v.step + 1))))

/-- With memory in canonical form, every tier island powered and no uncorrectable error, a fill gives a grove's L1 the home's bytes
under its dirty bytes and changes no byte at a home; a write-back stores exactly the dirty bytes at the home and waits while
proxies of other dies are left; a home moves a line to its memory without changing a byte, but loses what goes to a tier island
without power (the model's choice, log 84), rounds the sums of its least recently combined line when a partial of another finds
its combine buffer full (log 39), and logs a corrected error (what its record says is open, log 21); an uncorrectable one leaves
its sector bad, in the slice or in the memory, with a machine check; a drain leaves no line dirty by the named cores; an acquire
leaves only dirty bytes valid; a reconfiguration of the reserved ways ends and takes nothing where every set fits (which line a
way holds is the model's choice, log 16); a walk caches its leaf; an engine's reply ends the waits that it has performed. (That
an error is found where the data is used, and how long a place stays bad, is the model's reading, log 24.) (R164, R165, R166,
R167, R168, R169, R173, R176, R178, R179, R361, R364) -/
def Obligations.CacheAndHomeEvents : Prop :=
  (∀ (s : State) (g line : Nat) (sectors : BitVec 4) (victim : Option Nat), s.waitingCores g line ≠ [] → s.tierPower = 0xFF#8 →
    (kindOfPa (128 * line) = kGlobal ∨ kindOfPa (128 * line) = kTier) → s.Plain line → s.HasRoom g line → s.Sound → s.MemInv →
    let l := ((s.grove g).line? line).getD (L1Line.fresh line)
    ∃ t, exec (.l1Fill g line sectors victim) s = .next t ∧ (∀ pa, t.homeByte pa = s.homeByte pa) ∧
      (∀ h, h ≠ g → t.grove h = s.grove h) ∧
      ∀ k, k < 128 → sectors.getLsbD (k / 32) = true → t.seen g (128 * line + k) =
        if (missingSectors l 0 128).contains (k / 32) && !l.dirty.getLsbD k then s.homeByte (128 * line + k) else lineByte l.data k) ∧
  (∀ (s : State) (g line : Nat) (drop : Bool) (l : L1Line), (s.grove g).line? line = some l → l.upd = none →
    let others := (s.proxies.get? line).getD 0 &&& ~~~(1#8 <<< groveDie g)
    (l.dirty ≠ 0 → others ≠ 0 → s.waiting.contains (g, line, drop) = false →
      exec (.homeRequest (.writeBack g line drop)) s = .next { s with waiting := s.waiting ++ [(g, line, drop)] }) ∧
    (others = 0 → s.PlainRange (128 * line) 128 → s.Sound → s.MemInv → s.tierPower = 0xFF#8 →
      ∃ t, exec (.homeRequest (.writeBack g line drop)) s = .next t ∧
        (∀ k, k < 128 → t.homeByte (128 * line + k) =
          if l.dirty.getLsbD k then lineByte l.data k else s.homeByte (128 * line + k)) ∧
        (∀ pa, lineOf pa ≠ line → t.homeByte pa = s.homeByte pa) ∧
        (t.grove g).line? line = if drop then none else some { l with dirty := 0, byCore := 0, byAtom := 0 })) ∧
  (∀ (s : State) (line : Nat),
    (s.comb? line = none → s.Sound → s.MemInv → s.tierPower = 0xFF#8 → ∃ t, exec (.homeRequest (.toDram line)) s = .next t ∧
      (∀ pa, t.homeByte pa = s.homeByte pa) ∧ ∀ p ∈ t.slice, lineOf p.1 ≠ line) ∧
    (s.comb? line = none → kindOfPa (128 * line) = kTier → s.tierPower.getLsbD (homeDie (128 * line)) = false →
      ∃ t, exec (.homeRequest (.toDram line)) s = .next t ∧ t.dram = s.dram ∧ ∀ p ∈ t.slice, lineOf p.1 ≠ line) ∧
    (∀ c, s.comb? line = some c → exec (.homeRequest (.toDram line)) s = .next s) ∧
    (∀ g l k, (s.grove g).line? line = some l → (l.upd = some k →
        ∃ t, exec (.updateOnlyEviction g line) s = .next t ∧ (t.grove g).line? line = none ∧ (∀ h, h ≠ g → t.grove h = s.grove h) ∧
          ∀ r old, s.ranges.get? k = some r → r.op = 1 → s.badSram = [] → s.combOldest line = some old → (∀ p ∈ old.sums, p.1 < 128) →
            (t.comb? line).isSome = true ∧ t.comb? old.line = none) ∧
      (l.upd = none → exec (.updateOnlyEviction g line) s = .next s)) ∧
    ((∀ w ∈ s.waiting, w.2.1 ≠ line) → s.Sound → s.MemInv → s.tierPower = 0xFF#8 → ∃ t, exec (.proxyInvalidateDone line) s = .next t ∧
      t.waiting = s.waiting ∧ ∀ pa, t.homeByte pa = s.homeByte pa) ∧
    (∀ g drop, s.proxies.get? line = none → s.waiting = [(g, line, drop)] → exec (.proxyInvalidateDone line) s =
      .next (({ s with waiting := [] } : State).performWriteBack g line drop))) ∧
  (∀ (s : State) (pa : Nat), kindOfPa pa ≠ 0 →
    let d := homeDie pa
    let q := pa / 32
    let g := homeGrove pa
    (∃ t, exec (.homeRequest (.corrected pa)) s = .next t ∧ (t.die d).dieLog.count = (s.die d).dieLog.count + 1 ∧ s.SameMemory t) ∧
    (s.holdsSector g q = true → s.badSram.contains (.slice g q) = false → exec (.homeRequest (.uncorrectable pa)) s =
      .next (({ s with badSram := .slice g q :: s.badSram } : State).machineCheck d 1 1 0 pa (homeHash pa) 0)) ∧
    (s.holdsSector g q = false → s.bad.contains q = false → exec (.homeRequest (.uncorrectable pa)) s =
      .next (({ s with bad := q :: s.bad } : State).machineCheck d 1 (memCode pa) 0 pa (homeHash pa) 0))) ∧
  (∀ (s : State) (p : SramSite),
    (s.siteLives p = false → exec (.homeRequest (.sram p true)) s = .next s) ∧
    (s.siteLives p = true → s.badSram.contains p = false → ∃ t, exec (.homeRequest (.sram p true)) s = .next t ∧
      t.badSram = p :: s.badSram ∧ s.SameMemory t)) ∧
  (∀ (s : State) (g : Nat) (cores : BitVec 8), ∃ t, exec (.drainRequest g cores) s = .next t ∧
    (∀ l ∈ (t.grove g).l1, l.upd = none → l.byCore &&& cores = 0) ∧ ∀ h, h ≠ g → t.grove h = s.grove h) ∧
  (∀ (s : State) (core line : Nat) (sc : Scope),
    (scopeWide sc = false → exec (.acquireComplete core line sc) s = .next s) ∧
    (scopeWide sc = true → isService core = false → ∃ t, exec (.acquireComplete core line sc) s = .next t ∧
      ∀ l ∈ (t.grove (coreGrove core)).l1, l.upd = none → l.valid = l.dirty)) ∧
  (∀ (s : State) (d : Nat),
    ((s.die d).rwaysPend = none → exec (.rwaysReconfiguration d) s = .next s) ∧
    (∀ old, (s.die d).rwaysPend = some old →
      let u := s.setDie d { s.die d with rwaysPend := none }
      (∃ t, exec (.rwaysReconfiguration d) s = .next t ∧ (t.die d).rwaysPend = none ∧
        (s.combine = [] → s.Sound → s.MemInv → s.tierPower = 0xFF#8 → ∀ pa, t.homeByte pa = s.homeByte pa)) ∧
      ((∀ p ∈ s.ways, groveDie (p.1 / 512) = d →
        let home := p.2.filter fun w => homeGrove (128 * w.line) == p.1 / 512
        home.length ≤ (u.slicePlan d).1 ∧ p.2.length - home.length ≤ (u.slicePlan d).2) →
        exec (.rwaysReconfiguration d) s = .next u))) ∧
  (∀ (s : State) (a : TlbAt) (asid va : Nat) (acc : Access), (∀ k, a ≠ .micro k) →
    let c := s.leaves a
    (∀ l, c.1.find? (fun l => l.hits asid va) = some l → exec (.translationWalk a asid va acc) s = .next s) ∧
    (c.1.find? (fun l => l.hits asid va) = none →
      (∀ t e, s.walk (cacheDie a) asid va = (t, .error e) → exec (.translationWalk a asid va acc) s = .next t) ∧
      (∀ t l, s.walk (cacheDie a) asid va = (t, .ok l) → exec (.translationWalk a asid va acc) s =
        .next (t.setLeaves a (cacheLeaf c.1 l c.2))))) ∧
  (∀ (s : State) (k asid va : Nat) (acc : Access), exec (.translationWalk (.micro k) asid va acc) s = .next (s.coreLeaf k asid va).1) ∧
  (∀ (s : State) (g n : Nat), (s.grove g).eng.find? (fun c => c.id == n) = none → ∃ t, exec (.tlbinvAgentReply g n) s = .next t ∧
    t = { s with invals := t.invals } ∧ ∀ k v, t.invals.get? k = some v → ∀ w ∈ v.waits, ¬ (w.1 = g ∧ w.2.1 = n))

/-- A post to a mailbox without a version, an area or room sets FULL, else its message stands in the ring, TAIL rises and cause 1 is
raised; a bound mailbox's message becomes a descriptor and HEAD passes it; a post to a closed host queue is refused and counted,
one to a full buffer sets FULL, else the message is diverted and cause 2 raised; a register takes the fields of its map, ldcmd
with GO starts a load that firmware carries out, a reserved 1 is counted, an unassigned offset ignores the write and counts it;
COUNT, killcnt and the oldest machine-check record clear when written, and where records were dropped the room takes one of
source 6 (log 66); outside an instruction that is not interrupted, service core 0 takes code 32 with the count of records and
core 1 code 33 with the causes, once at a time, and a cause raised while core 1 holds code 33 joins DATA at once; power is
sampled and the clock steps by 50 MHz every 100 µs between 400 and 800, held at 400 while hot. (What writes of ldcmd, of
unassigned offsets and of counters do rests on log 27, the causes at every post and the form of their merge on log 30, the
header of a host's message on log 31, the mean and the pace of the clock's steps on log 34, FULL during a checkpoint on log 35.)
(R3, R4, R323, R325, R407, R408, R409, R410, R411, R413, R414, R426) -/
def Obligations.MailboxAndServiceEvents : Prop :=
  (∀ (s : State) (m : Nat) (msg : BitVec 256), m < 32768 →
    let u := s.setMbox m { s.mbox m with post := msg }
    let t := u.mbLook m
    ((s.die (m / 4096)).mbArea = none → exec (.mailboxPost m msg) s = .next (u.setMbox m { u.mbox m with full := true })) ∧
    (∀ rings index, (s.die (m / 4096)).mbArea = some (rings, index) →
      (s.mbsel = 0 ∨ s.ckPhase ≠ 0 ∨ 64 ≤ (t.mbTail m - t.mbHead m).toNat →
        exec (.mailboxPost m msg) s = .next (t.setMbox m { t.mbox m with full := true })) ∧
      (s.mbsel ≠ 0 → s.ckPhase = 0 → (t.mbTail m - t.mbHead m).toNat < 64 → exec (.mailboxPost m msg) s =
        .next (((t.writeHome (rings + 2048 * (m % 4096) + 32 * ((t.mbTail m).toNat % 64)) (leBytes 32 msg.toNat)).writeHome
          (index + 16 * (m % 4096)) (leBytes 8 (t.mbTail m + 1).toNat)).raiseCause (m / 4096) 1)))) ∧
  (∀ (s : State) (m rings index : Nat),
    let d := m / 4096
    let b := (s.mbox m).bind
    let t := s.mbLook m
    (b.getLsbD 63 = false → exec (.mailboxSpawn m) s = .next s) ∧
    (b.getLsbD 63 = true → (s.die d).mbArea = some (rings, index) →
      (t.mbHead m = t.mbTail m → exec (.mailboxSpawn m) s = .next s) ∧
      (t.mbHead m ≠ t.mbTail m → (s.die d).pool.length < 65536 →
        let a := rings + 2048 * (m % 4096) + 32 * ((t.mbHead m).toNat % 64)
        ∃ (u : State) (e : PoolEntry), exec (.mailboxSpawn m) s =
            .next (u.writeHome (index + 16 * (m % 4096) + 8) (leBytes 8 (t.mbHead m + 1).toNat)) ∧
          (u.die d).pool = (s.die d).pool ++ [e] ∧
          e.entry = (b.extractLsb' 0 56).setWidth 64 ∧ e.args = BitVec.ofNat 256 (leNat ((t.recallRange a 32).homeBytes a 32)) ∧
          e.count = 1 ∧ e.next = 0 ∧ e.bound = 0 ∧ e.acq = some (.device, none)))) ∧
  (∀ (s : State) (d n : Nat) (msg : BitVec 256), n < 65536 →
    let cid := 65536 * d + n
    (s.ctx? cid = none → exec (.hostQueuePost d n msg) s = .next (s.logHost d 2 (0x4000000 + 64 * n))) ∧
    (∀ x, s.ctx? cid = some x →
      let u := s.setCtx cid { x with hqBuf := msg }
      (x.hqOpen = false → exec (.hostQueuePost d n msg) s = .next (u.logHost d 2 (0x4000000 + 64 * n))) ∧
      (x.hqOpen = true → x.where_ ≠ .ended → x.img.divFull = true → ∃ t y, exec (.hostQueuePost d n msg) s = .next t ∧
        t.ctx? cid = some y ∧ y.hqFull = true ∧ y.img = x.img) ∧
      (x.hqOpen = true → x.where_ ≠ .ended → x.img.divFull = false → exec (.hostQueuePost d n msg) s =
        .next ((u.divert cid { x with hqBuf := msg } (hostMsg n msg)).raiseCause d 2)))) ∧
  (∀ (s : State) (d off : Nat) (w : Word), d < 8 → off < 0x10000000 → off % 8 = 0 →
    let i := Instr.registerWrite d off w
    (regAt off = .unassigned → exec i s = .next (s.logHost d 2 off)) ∧
    (∀ a b, regAt off = .counter a b ∨ regAt off = .rate a b → exec i s = .next (s.logHost d 2 off)) ∧
    (off = 0x28 → d = 0 → w.extractLsb' 12 52 = 0#52 → ∃ t, exec i s = .next t ∧
      t.watts = (if 1000 ≤ w.toNat ∧ w.toNat ≤ 3200 then w.extractLsb' 0 12 else s.watts) ∧
      (t.die 0).hostLog.count = (s.die 0).hostLog.count + (if 1000 ≤ w.toNat ∧ w.toNat ≤ 3200 then 0 else 1)) ∧
    (off = 0x38 → d = 0 → ∃ t, exec i s = .next t ∧
      t.rasid = (if s.running = true ∨ w.extractLsb' 0 12 = 0#12 then s.rasid else (w.extractLsb' 0 12).setWidth 64)) ∧
    (off = 0 → d = 0 → s.loadBusy = false → exec i s =
      .next (if w.getLsbD 63 = true ∧ s.booted = true then { s.writeLdcmd w with ldsts := 1 } else s.writeLdcmd w)) ∧
    (∀ n, off = 0x10000 + 8 * n → n < 4096 → d = 0 → ∃ t, exec i s = .next t ∧ t.readReg 0 off = w &&& 0x000FFFFFFFFFF801#64) ∧
    (off = 0x100000 → 10 ≤ w.toNat % 64 → w.toNat % 64 ≤ 40 → ∃ t, exec i s = .next t ∧ t.readReg d off = w &&& 0x33F#64)) ∧
  (∀ (s : State) (w : Word), w.extractLsb' 16 48 = 0#48 →
    (s.mbsel = 0 → w.extractLsb' 8 8 = 1#8 → exec (.mbverSelect w) s = .next { s with mbsel := 1 }) ∧
    (s.mbsel ≠ 0 ∨ w.extractLsb' 8 8 ≠ 1#8 → exec (.mbverSelect w) s = .next (s.logHost 0 2 0x20))) ∧
  (∀ (s : State) (d : Nat),
    (∃ t, exec (.logCountClear d .host) s = .next t ∧ (t.die d).hostLog = { (s.die d).hostLog with count := 0 }) ∧
    (∃ t, exec (.logCountClear d .die) s = .next t ∧ (t.die d).dieLog = { (s.die d).dieLog with count := 0 }) ∧
    (∃ t, exec (.logCountClear d .engine) s = .next t ∧ (t.die d).engLog = { (s.die d).engLog with count := 0 }) ∧
    exec (.killcntClear d) s = .next (s.setDie d { s.die d with killcnt := 0 }) ∧
    ((s.die d).mcq = [] → exec (.mcpop d) s = .next s) ∧
    (∀ r rest, (s.die d).mcq = r :: rest → ∃ t, exec (.mcpop d) s = .next t ∧
      (t.core (Config.allCores + 4 * d)).mcPopped = true ∧ ((s.die d).mcLost = false → (t.die d).mcq = rest) ∧
      ((s.die d).mcLost = true → rest.length < 16 → (t.die d).mcLost = false ∧
        (t.die d).mcq = rest ++ [{ rec0 := BitVec.ofNat 64 (6 * 2 ^ 56 + d * 2 ^ 11), rec1 := 0 }]))) ∧
  (∀ (s : State) (d cid : Nat) (c : Ctx),
    let k0 := Config.allCores + 4 * d
    let k1 := Config.allCores + 4 * d + 1
    let n := (s.die d).mcq.length
    let data := (s.die d).causes.foldl (fun a b => a ||| b) 0
    (n = 0 → exec (.serviceMachineCheck d) s = .next s) ∧
    ((s.core k0).mcHeld = true → exec (.serviceMachineCheck d) s = .next s) ∧
    (n ≠ 0 → (s.core k0).mcHeld = false → s.busyCore k0 = false → s.activeCid k0 = some cid → s.ctx? cid = some c → c.ready = true →
      let t := s.takeTrap cid k0 (FaultRec.mk0 32 n 0) c.img.pc
      exec (.serviceMachineCheck d) s = .next (t.setCore k0 { t.core k0 with mcHeld := true, mcPopped := false })) ∧
    (data = 0 → exec (.serviceInterrupt d) s = .next s) ∧
    ((s.core k1).svHeld = true → exec (.serviceInterrupt d) s = .next s) ∧
    (data ≠ 0 → (s.core k1).svHeld = false → s.busyCore k1 = false → s.activeCid k1 = some cid → s.ctx? cid = some c → c.ready = true →
      ∃ t, exec (.serviceInterrupt d) s = .next t ∧ (t.die d).causes = [] ∧ (t.core k1).svHeld = true ∧
        t.ctxs = (s.takeTrap cid k1 (FaultRec.mk0 33 data 0) c.img.pc).ctxs) ∧
    ∀ cause : Nat,
      ((s.core k1).svHeld = true → s.activeCid k1 = some cid → s.ctx? cid = some c → c.img.faultinfo.toNat % 256 = 33 →
        s.raiseCause d cause = s.setCtx cid { c with img := { c.img with
          faultinfo := c.img.faultinfo ||| BitVec.ofNat 64 (cause * 2 ^ 32) } }) ∧
      ((s.core k1).svHeld = false → s.raiseCause d cause = s.setDie d { s.die d with causes := (s.die d).causes ++ [cause] })) ∧
  (∀ (s : State) (n : Nat),
    exec (.powerSample n) s = .next { s with samples := (n :: s.samples).take 100 } ∧
    exec .thermalHold s = .next { s with hot := true, clk := 400 } ∧
    exec .thermalHoldRelease s = .next { s with hot := false } ∧
    (s.sync < s.clkAt + 100000000 → exec .clockStep s = .next s) ∧
    (s.clkAt + 100000000 ≤ s.sync → s.samples ≠ [] → s.hot = false → 400 ≤ s.clk → s.clk ≤ 800 →
      (s.watts.toNat * s.samples.length < s.samples.sum →
        exec .clockStep s = .next { s with clkAt := s.sync, clk := max 400 (s.clk - 50) }) ∧
      (100 * s.samples.sum ≤ 95 * s.watts.toNat * s.samples.length → s.samples.sum ≤ s.watts.toNat * s.samples.length →
        exec .clockStep s = .next { s with clkAt := s.sync, clk := min 800 (s.clk + 50) })))

/-- A compute-die reset keeps memory outside HBM, logs, machine-check records and the registers of the table and clears the rest; a
thermal trip is one; power-on clears the logs, records and registers too, and keeps memory outside HBM as a reset does; losing a
tier island's power loses its die's tier, and the island's power; a die accepts an image that verifies, once, and firmware
starts when all have the same; a load in progress ignores and counts ldcmd, a bad image is refused with its reason, a good one
runs, with firmware's plan or, where that is none, the model's own (log 65), with its start task in the pool of die 0; a
checkpoint is requested, begins by stopping issue, writes everything back when quiescent, and at the end stands in its region of
the tier while issue resumes; a restore brings back a checkpoint whose region stands at the offset, and fails where none does;
attestation writes the report; the host reads and writes the tier and host memory at their homes, and the tier itself while it
is in reset or in self-refresh. (A second GO rests on log 17, CXL.mem during a reset and the channels' self-refresh on log 18,
the region's bytes and what is kept beside it on log 22, what a reset keeps on log 32, the start task and the reasons on log 33,
a GO while no firmware runs on log 92, the order of the image's checks on log 93.) (R18, R412, R416, R417, R419, R420, R421,
R422, R424, R425) -/
def Obligations.LoadResetAndCheckpointEvents : Prop :=
  (∀ s : State, ∃ t, exec .computeDieReset s = .next t ∧ exec .thermalTrip s = .next t ∧
    (∀ pa, t.dram.read pa = if pa < Config.hbmBytes then State.reset.dram.read pa else s.dram.read pa) ∧
    t.slice = [] ∧ t.ways = [] ∧ t.badSram = [] ∧ t.groves = [] ∧ t.tierPower = s.tierPower ∧ t.tierSelf = 0xFF#8 ∧ t.records = [] ∧ t.ranges = [] ∧ t.groups = [] ∧ t.spaces = [] ∧ t.grids = [] ∧ t.xfers = [] ∧
    t.ports = [] ∧ t.ptroot = [] ∧ t.mboxes = [] ∧ t.now = 0 ∧ t.mbsel = 0 ∧ t.incumbents = State.reset.incumbents ∧
    (∀ cid, cid < 524288 → t.ctx? cid = none) ∧ (∀ k, k < Config.allCores → t.core k = Core.fresh) ∧
    (∀ d, (t.die d).hostLog = (s.die d).hostLog ∧ (t.die d).dieLog = (s.die d).dieLog ∧ (t.die d).engLog = (s.die d).engLog ∧
      (t.die d).mcq = (s.die d).mcq ∧ (t.die d).tvec = 0 ∧ (t.die d).rways = 4 ∧ (t.die d).poolcfg = 0x114 ∧ (t.die d).pool = [] ∧
      (t.die d).killcnt = 0) ∧
    t.incarnation = s.incarnation ∧ t.ldsts = s.ldsts ∧ t.cksts = s.cksts ∧ t.watts = s.watts ∧ t.clk = s.clk ∧
    t.staging = s.staging ∧ t.saves = s.saves) ∧
  (∀ s : State, ∃ t, exec .powerOnReset s = .next t ∧
    (∀ pa, t.dram.read pa = if pa < Config.hbmBytes then State.reset.dram.read pa else s.dram.read pa) ∧
    t = { State.reset with agenda := s.agenda, here := s.here, dram := t.dram, bad := t.bad, saves := s.saves, sync := s.sync }) ∧
  (∀ (s : State) (d pa : Nat), ∃ t, exec (.tierIslandPowerLoss d) s = .next t ∧
    t.tierPower = s.tierPower &&& ~~~(1#8 <<< d) ∧ t.dram.read pa =
    if Config.tierBase + d * Config.tierPerDie ≤ pa ∧ pa < Config.tierBase + (d + 1) * Config.tierPerDie then State.reset.dram.read pa
    else s.dram.read pa) ∧
  (∀ (s : State) (d : Nat) (image : List Byte),
    let u := s.setDie d { s.die d with boot := some (sm3Value image) }
    ((s.die d).boot ≠ none ∨ Config.imageVerifies d image = false → exec (.bootImageCheck d image) s = .next s) ∧
    (d < 8 → (s.die d).boot = none → Config.imageVerifies d image = true →
      (u.booted = false → exec (.bootImageCheck d image) s = .next u) ∧
      (u.booted = true → ∃ t, exec (.bootImageCheck d image) s = .next t ∧ t.tierSelf = 0 ∧
        ∀ e n, e < 8 → n < 4 → t.ctx? (524288 + 4 * e + n) = some (firmwareCtx e n) ∧
          t.activeCid (Config.allCores + 4 * e + n) = some (524288 + 4 * e + n)))) ∧
  (∀ (s : State) (d len : Nat), len ≤ 65536 →
    exec (.stagedImageCheck d len) s = exec (.bootImageCheck d (s.staging.reads 0 len)) s) ∧
  (∀ (s : State) (v : Word) (plan : LoadPlan) (ok : Bool),
    let s0 := s.writeLdcmd v
    (s.loadBusy = true → exec (.ldcmdLoad v plan) s = .next (s.logHost 0 2 0) ∧ exec (.ldcmdRestore v ok) s = .next (s.logHost 0 2 0)) ∧
    (s.loadBusy = false → v.getLsbD 63 = false → exec (.ldcmdLoad v plan) s = .next s0) ∧
    (s.loadBusy = false → v.getLsbD 63 = true → v.getLsbD 62 = false → s0.booted = true →
      (∀ r, s0.imageRefused = some r → exec (.ldcmdLoad v plan) s = .next { s0 with ldsts := BitVec.ofNat 64 (16 * r + 4) }) ∧
      (let h := s0.imageBytes 0 128
       let ss := s0.imageSections h
       let own := ownPlan ss (tablesNeeded ss s0.heapGib) s0.heapGib s0.rgaUnits
       let good := planGood plan ss s0.heapGib s0.rgaUnits
       s0.imageRefused = none → ∀ t, s0.loadProgram (if good then plan else own) h ss = some t →
         exec (.ldcmdLoad v plan) s = .next t ∧ t.ldsts = 3 ∧ t.rasid = 1 ∧
           ∃ e, (t.die 0).pool = [e] ∧ e.entry = wordAt h 16 ∧ e.args = 0 ∧ e.count = 1 ∧ e.hold = none)) ∧
    (s.loadBusy = false → v.getLsbD 63 = true → v.getLsbD 62 = true → s0.booted = true →
      let off := v.toNat % 2 ^ 26
      (∀ k, s0.regionSave off = some k →
        k ∈ s0.saves ∧ exec (.ldcmdRestore v ok) s = .next { (s0.dieReset.reload k).reopenTier with ldsts := 3 }) ∧
      (s0.regionSave off = none → exec (.ldcmdRestore v ok) s = .next { s0 with ldsts := 0x64 }) ∧
      (s0.regionReadable off = false ∨ s0.saves = [] → s0.regionSave off = none))) ∧
  (∀ (s : State) (w : Word), w.extractLsb' 34 29 = 0#29 →
    let fields : Word := (w.extractLsb' 0 34).setWidth 64
    let u : State := { s with ckcmd := fields }
    (w.getLsbD 63 = false ∨ s.cksts = 1 ∨ s.ckPhase ≠ 0 → exec (.ckcmdCheckpoint w) s = .next u) ∧
    (w.getLsbD 63 = true → s.cksts ≠ 1 → s.ckPhase = 0 →
      (Config.tierBytes < (w.toNat % 2 ^ 26) * 65536 + 772 * 2 ^ 30 → exec (.ckcmdCheckpoint w) s = .next { u with cksts := 4 }) ∧
      ((w.toNat % 2 ^ 26) * 65536 + 772 * 2 ^ 30 ≤ Config.tierBytes →
        exec (.ckcmdCheckpoint w) s = .next { u with cksts := 1, ckReq := fields, ckHit := false }))) ∧
  (∀ s : State,
    (s.ckDue = false → exec .checkpointBegin s = .next s) ∧
    (s.ckDue = true → ∃ t, exec .checkpointBegin s = .next t ∧ t.cksts = 2 ∧ t.ckPhase = 1 ∧ ∀ d, d < 8 → (t.die d).paused = true) ∧
    (s.ckPhase ≠ 1 ∨ s.quiet = false → exec .checkpointQuiesced s = .next s) ∧
    (s.ckPhase = 1 → s.quiet = true → ∃ t, exec .checkpointQuiesced s = .next t ∧ t.ckPhase = 2 ∧ t.slice = []) ∧
    (s.ckPhase ≠ 2 → exec .checkpointStreamDone s = .next s) ∧
    (s.ckPhase = 2 → ∃ t, exec .checkpointStreamDone s = .next t ∧ t.cksts = 3 ∧ t.ckPhase = 0 ∧
      (∀ d, d < 8 → (t.die d).paused = false) ∧
      let k := s.spillAll.toCheckpoint
      t.saves = k :: s.saves ∧
      (s.MemInv → s.tierPower = 0xFF#8 → s.ckOff * 65536 + ckBytes ≤ Config.tierBytes → ∀ i, i < ckBytes →
        t.dram.read (Config.tierBase + s.ckOff * 65536 + i) = k.region.read i))) ∧
  (∀ (s : State) (v : Word),
    (v.getLsbD 0 = false → s.attcmd = false → exec (.attestation v) s = .next s) ∧
    (v.getLsbD 0 = true ∨ s.attcmd = true →
      (s.booted = false → exec (.attestation v) s = .next { s with attcmd := true }) ∧
      (s.booted = true → exec (.attestation v) s = .next { s with
        staging := s.staging.writes 0 (s.reportBytes ++ signature s.reportBytes), attcmd := false }))) ∧
  (∀ (s : State) (addr : Nat) (bs : List Byte),
    let host := Config.hostEnd - Config.hostBase
    let pa := Config.tierBase + addr
    let served : State := { s with dram := s.dram.writes pa bs, bad := clearBad s.bad pa bs.length }
    (addr + bs.length ≤ host → exec (.cxlCacheAccess (.write addr bs)) s = .next (s.writeHome (Config.hostBase + addr) bs)) ∧
    exec (.cxlMemDuringReset (.read addr bs.length)) s = .next s ∧
    (addr + bs.length ≤ Config.tierBytes → s.tierPower = 0xFF#8 →
      (s.tierSelf = 0 → exec (.cxlMemAccess (.write addr bs)) s = .next (s.writeHome pa bs) ∧
        exec (.cxlMemAccess (.read addr bs.length)) s = .next ((s.settleRange pa bs.length).spillRange pa bs.length)) ∧
      (s.tierSelf ≠ 0 → s.slice = [] → exec (.cxlMemAccess (.write addr bs)) s = .next served) ∧
      (s.now = 0 → s.slice = [] → exec (.cxlMemDuringReset (.write addr bs)) s = .next served)))

/-- x0 reads as zero and a write to it is discarded; any other x register reads what was last written and no write touches another;
a commit gives the context its new image with no prefix pending, forgets a stale grid read, counts on the core whose turn it is
and ends its stall, and changes no other context, core, memory or unit. (R74, R83, R95, R102, R106, R405) -/
def Obligations.CommitFrame : Prop :=
  (∀ (m : Image) (r q : Reg) (v : Word), m.getX 0 = 0 ∧ m.setX 0 v = m ∧ (r ≠ 0 → (m.setX r v).getX r = v) ∧
    (q ≠ r → (m.setX r v).getX q = m.getX q) ∧ m.setX r v = { m with x := (m.setX r v).x }) ∧
  (∀ (s : State) (cid : Nat) (c : Ctx) (m : Image), s.ctx? cid = some c →
    let t := s.commit cid m
    t.ctx? cid = some { c with img := if c.img.pp then m.setPp false else m, stale := none } ∧
    (∀ o, o ≠ cid → t.ctx? o = s.ctx? o) ∧ (∀ k, k ≠ s.here → t.core k = s.core k) ∧ (s.core s.here).SameBut (t.core s.here) ∧
    (t.core s.here).holding = false ∧ t.stalled = false ∧ t.here = s.here ∧ s.SameUnits t)

/-- With an active context on the core whose turn it is, every instruction and event of the table answers a next state, trap entry
included, and every step of the machine answers a next state from every state. (R88, R113, R396,
spec/19_traps_and_preemption.md) -/
def Obligations.InstructionsNeverStop : Prop :=
  (∀ (i : Instr) (s : State), s.active? ≠ none → ∃ t, exec i s = .next t) ∧ ∀ s : State, s.GoesOn

/-- Where nothing stands on the agenda and the core may issue with no checkpoint, service trap, fairness switch or trap due, a step
fetches the 32-byte block of the pc and, unless a check before the operands fails, the image lines that the instruction decoded
there uses, and is exec of that instruction, or of the fault of a line with uncorrectable data, in the state that the fetches
leave, loads that were performed ahead being forgotten by an instruction that is no load (log 89); where the translation is
cached, no partial waits on the line and there is no uncorrectable error, the fetch reads the home's bytes and takes the line
into the slices; parcels that decode to nothing take the illegal-instruction or misaligned-instruction fault, a failed fetch its
own; an event, a passing of time or a write of the host into the staging area on the agenda happens as written; time changes no
memory while no reconfiguration runs and nothing sent waits for an answer. (The order of turns with an empty agenda is the
model's choice, log 1, and so is the fetch of the image lines before the instruction, log 74.) (R71, R72, R88, R103, R104, R179,
R400, R408, R412) -/
def Obligations.StepRunsTheDecodedInstruction : Prop :=
  (∀ (s s1 : State) (cid : Nat) (c : Ctx) (ps : List (BitVec 32)), s.agenda = [] → s.mayIssue s.here = true → s.stalled = false →
    s.ckDue = false → s.serviceDue = none → s.fairDue s.here = false → s.pendingTrap s.here = none → s.At cid c →
    let pc := c.img.pc.toNat
    (s.fetch s.here c.img = (s1, .ok ps) → pc % 4 = 0 →
      (∀ i n, decodeAt (pc % 32) ps = .ok (i, n) →
        let u := s1.keepEarly i
        let used := u.useLines u.here cid (codeLines i c.img)
        (failsEarly i c.img = true → step s = exec i.instr u) ∧
        (failsEarly i c.img = false → (used.2 = none → step s = exec i.instr used.1) ∧
          ∀ e, used.2 = some e → step s = exec (.instructionFetchFault cUncorr e) used.1)) ∧
      (∀ w, decodeAt (pc % 32) ps = .error w → step s = exec (.illegalInstruction w) s1)) ∧
    (∀ pa, s.fetch s.here c.img = (s1, .ok ps) → s.translate s.here (s.fetchAsid c.img) (blockOf pc) .fetch = (s, .ok pa) →
      pa % 32 = 0 → s.Plain (lineOf pa) → s.imageAt? (128 * lineOf pa) = none → s.Sound →
      s1 = s.touchRange (coreDie s.here) pa 32 false ∧ ps = parcelsOf (s.homeBytes (pa + pc % 32) (32 - pc % 32))) ∧
    (∀ code data, s.fetch s.here c.img = (s1, .error (code, data)) → step s = exec (.instructionFetchFault code data) s1)) ∧
  (∀ (s : State) (i : Instr) (rest : List Turn), s.agenda = .event i :: rest → isEvent i = true →
    step s = exec i { s with agenda := rest, stalled := false }) ∧
  (∀ (s : State) (n : Nat) (rest : List Turn), s.agenda = .elapse n :: rest →
    ∃ t, step s = .next t ∧ t.now = s.now + n ∧ t.agenda = rest ∧
      ((∀ p ∈ s.dies, p.2.rwaysPend = none) → s.sends = [] → s.xfers = [] → s.SameMemory t ∧
        ((∀ k, (s.incumbent k).hist = []) → t.ctxs = s.ctxs))) ∧
  (∀ (s : State) (off : Nat) (bs : List Byte) (rest : List Turn), s.agenda = .stage off bs :: rest → off + bs.length ≤ 65536 →
    step s = .next { s with agenda := rest, staging := s.staging.writes off bs })

/-- The words of the spec's own table of encodings, and words laid out from its formats, decode to their instructions with their
lengths; the word 0 and an unassigned major are illegal encodings, all ones an illegal length, and a 64-bit instruction at block
offset 28 crosses its block. (R71, R72, R80, R81, R82, R85, R86, R88, spec/04_instruction_encoding.md) -/
def Obligations.WordsOfTheEncodingTables : Prop :=
  decodeAt 0 [0x001CC504#32] = .ok (.core (.add 5 6 7), 4) ∧
  decodeAt 28 [0x46286960#32] = .ok (.core (.ldI64 9 5 3 8), 4) ∧
  decodeAt 0 [0x06286961#32, 0x24000040#32] = .ok (.core (.ldI64Mk 9 5 3 0x40 false (some .die)), 8) ∧
  decodeAt 24 [0x00148341#32, 0x00000F20#32] = .ok (.core (.vaddF32 3 4 5 (.on true true 1)), 8) ∧
  decodeAt 0 [0x00504430#32] =
    .ok (.core (.fmt { fa := some .e4m3, fb := some .e4m3, fd := none, ka := true, kb := true, rm := none }), 4) ∧
  decodeAt 0 [0xFE808114#32] = .ok (.core (.bCc .ne 4 0 0x1FD), 4) ∧
  decodeAt 0 [0x0000002C#32] = .ok (.core .nop, 4) ∧
  decodeAt 0 [0x03148394#32] = .ok (.late (.dset 3 4 5), 4) ∧
  decodeAt 0 [0x00800094#32] = .ok (.core .kchk, 4) ∧
  decodeAt 0 [0x00000000#32] = .error .encoding ∧
  decodeAt 0 [0xFFFFFFFF#32] = .error .length ∧
  decodeAt 28 [0x00148341#32, 0x00000F20#32] = .error .crossing

/-- For every well-formed instruction with an encoding, at every block offset at which it ends within its block and whatever parcels
follow, the decoder reads the instruction back with its length; and whatever the decoder reads is well formed and encodes to
exactly the parcels read, so that no bit is ignored. (R71, R75, R80, R81, R84, R85, R86, R87) -/
def Obligations.EncodeThenDecode : Prop :=
  (∀ (i : Instr) (off : Nat) (rest : List (BitVec 32)), i.wf = true → encode i ≠ [] → off + 4 * (encode i).length ≤ 32 →
    ∃ c, c.instr = i ∧ decodeAt off (encode i ++ rest) = .ok (c, 4 * (encode i).length)) ∧
  (∀ (off : Nat) (ps : List (BitVec 32)) (c : Code) (n : Nat), decodeAt off ps = .ok (c, n) →
    c.instr.wf = true ∧ n = 4 * (encode c.instr).length ∧ off + n ≤ 32 ∧ encode c.instr = (ps ++ [0, 0]).take (n / 4))

/-- From every state whose memory behind the homes, staging area, cluster memories and checkpoints are in canonical form (addresses
strictly rising and nothing listed at the value of unwritten memory), every step that answers a next state leaves them so. The
canonical form, and unwritten memory reading as 0, are the model's choices (log 2). (R161, R162, R166, R422, R423, R424,
spec/08_memories.md) -/
def Obligations.MemoryInvariantKept : Prop :=
  ∀ s t : State, s.MemInv → step s = .next t → t.MemInv

/-- After reset there is no context and no message; tvec is 0, rways 4, lpool 256, poolcfg AGEN 1 and AGE 20, every dependency slot,
killcnt, fabric counter, event counter, PSENT, PLAND and the reduction-block queue 0, every bank not VALID with generation 0,
every incumbent not valid, rasid 1, ptroot 0, fabwin 8, the power limit 3,200 W at 800 MHz; nothing is in a slice or
uncorrectable; and memory is in canonical form. (What the spec gives no reset value for, the lists, ways, banks and zeros here
among them, starts empty or at zero by the model's choice, log 3, and memory that nothing has written reads as 0, log 2.) (R102,
R202, R313, R340, R350, R355, R374, R379, R385, R393, R426) -/
def Obligations.ResetState : Prop :=
  let s := State.reset
  s.MemInv ∧ s.Sound ∧ s.ways = [] ∧ s.active? = none ∧ s.ctxs = [] ∧ s.packets = [] ∧ s.msgs = [] ∧ s.groups = [] ∧ s.spaces = [] ∧ s.grids = [] ∧
  s.ranges = [] ∧ s.rasid = 1 ∧ s.fabwin = 8 ∧ s.watts = 3200 ∧ s.clk = 800 ∧ s.devid = 0 ∧ s.ldsts = 0 ∧ s.cksts = 0 ∧
  (∀ d, (s.die d).tvec = 0 ∧ (s.die d).rways = 4 ∧ (s.die d).poolcfg = 0x114 ∧ (s.die d).killcnt = 0 ∧ (s.die d).rgarea = 0 ∧
    (s.die d).pool = [] ∧ (∀ n, s.dslot d n = 0) ∧ (∀ i : Fin 4, (s.die d).fabcnt[i] = 0)) ∧
  (∀ g, (s.grove g).lpool = 256 ∧ (s.grove g).rbNext = 0 ∧ (s.grove g).rbEnd = 0 ∧ (s.grove g).rbEpoch = 0 ∧
    ∀ b : Fin 4, (s.mat g).banks[b].tile = none ∧ (s.mat g).banks[b].gen = 0) ∧
  (∀ k, (s.core k).psent = 0 ∧ (s.core k).pland = 0 ∧ (s.core k).next = 0 ∧ ∀ i : Fin 8, (s.core k).pmc[i] = 0 ∧ (s.core k).pmsel[i] = 0) ∧
  (∀ k, (s.incumbent k).v = false ∧ (s.incumbent k).sv = false) ∧ ∀ n, (s.ptroot.get? n).getD 0 = 0
end

