-- ==== Sys2Proof/Laws/Exec.lean ====
section
/-! SUPPORT. The dispatch as equations: what `exec` does of each instruction and event is its meaning. -/

namespace Sys2Proof.Machine

open Sys2Proof

theorem exec_add (d a b : Reg) (s : State) : exec (.add d a b) s = execAdd d a b s := rfl
theorem exec_sub (d a b : Reg) (s : State) : exec (.sub d a b) s = execSub d a b s := rfl
theorem exec_mul (d a b : Reg) (s : State) : exec (.mul d a b) s = execMul d a b s := rfl
theorem exec_mulh (d a b : Reg) (s : State) : exec (.mulh d a b) s = execMulh d a b s := rfl
theorem exec_mulhn (d a b : Reg) (s : State) : exec (.mulhn d a b) s = execMulhn d a b s := rfl
theorem exec_div (d a b : Reg) (s : State) : exec (.div d a b) s = execDiv d a b s := rfl
theorem exec_divn (d a b : Reg) (s : State) : exec (.divn d a b) s = execDivn d a b s := rfl
theorem exec_rem (d a b : Reg) (s : State) : exec (.rem d a b) s = execRem d a b s := rfl
theorem exec_remn (d a b : Reg) (s : State) : exec (.remn d a b) s = execRemn d a b s := rfl
theorem exec_and_ (d a b : Reg) (s : State) : exec (.and_ d a b) s = execAnd d a b s := rfl
theorem exec_or_ (d a b : Reg) (s : State) : exec (.or_ d a b) s = execOr d a b s := rfl
theorem exec_xor_ (d a b : Reg) (s : State) : exec (.xor_ d a b) s = execXor d a b s := rfl
theorem exec_andn (d a b : Reg) (s : State) : exec (.andn d a b) s = execAndn d a b s := rfl
theorem exec_sll (d a b : Reg) (s : State) : exec (.sll d a b) s = execSll d a b s := rfl
theorem exec_srl (d a b : Reg) (s : State) : exec (.srl d a b) s = execSrl d a b s := rfl
theorem exec_sra (d a b : Reg) (s : State) : exec (.sra d a b) s = execSra d a b s := rfl
theorem exec_rol (d a b : Reg) (s : State) : exec (.rol d a b) s = execRol d a b s := rfl
theorem exec_ror (d a b : Reg) (s : State) : exec (.ror d a b) s = execRor d a b s := rfl
theorem exec_min_ (d a b : Reg) (s : State) : exec (.min_ d a b) s = execMin d a b s := rfl
theorem exec_max_ (d a b : Reg) (s : State) : exec (.max_ d a b) s = execMax d a b s := rfl
theorem exec_minn (d a b : Reg) (s : State) : exec (.minn d a b) s = execMinn d a b s := rfl
theorem exec_maxn (d a b : Reg) (s : State) : exec (.maxn d a b) s = execMaxn d a b s := rfl
theorem exec_clz (d a : Reg) (s : State) : exec (.clz d a) s = execClz d a s := rfl
theorem exec_ctz (d a : Reg) (s : State) : exec (.ctz d a) s = execCtz d a s := rfl
theorem exec_popc (d a : Reg) (s : State) : exec (.popc d a) s = execPopc d a s := rfl
theorem exec_setCc (cc : IntCc) (d a b : Reg) (s : State) : exec (.setCc cc d a b) s = execSetCc cc d a b s := rfl
theorem exec_ext (d a : Reg) (pos lenm1 : BitVec 6) (s : State) :
    exec (.ext d a pos lenm1) s = execExt d a pos lenm1 s := rfl
theorem exec_extn (d a : Reg) (pos lenm1 : BitVec 6) (s : State) :
    exec (.extn d a pos lenm1) s = execExtn d a pos lenm1 s := rfl
theorem exec_ins (d a : Reg) (pos lenm1 : BitVec 6) (s : State) :
    exec (.ins d a pos lenm1) s = execIns d a pos lenm1 s := rfl
theorem exec_sel (d a b c : Reg) (s : State) : exec (.sel d a b c) s = execSel d a b c s := rfl
theorem exec_addImm (d a : Reg) (imm : BitVec 11) (s : State) : exec (.addImm d a imm) s = execAddImm d a imm s := rfl
theorem exec_andImm (d a : Reg) (imm : BitVec 11) (s : State) : exec (.andImm d a imm) s = execAndImm d a imm s := rfl
theorem exec_orImm (d a : Reg) (imm : BitVec 11) (s : State) : exec (.orImm d a imm) s = execOrImm d a imm s := rfl
theorem exec_xorImm (d a : Reg) (imm : BitVec 11) (s : State) : exec (.xorImm d a imm) s = execXorImm d a imm s := rfl
theorem exec_sllImm (d a : Reg) (sh : BitVec 6) (s : State) : exec (.sllImm d a sh) s = execSllImm d a sh s := rfl
theorem exec_srlImm (d a : Reg) (sh : BitVec 6) (s : State) : exec (.srlImm d a sh) s = execSrlImm d a sh s := rfl
theorem exec_sraImm (d a : Reg) (sh : BitVec 6) (s : State) : exec (.sraImm d a sh) s = execSraImm d a sh s := rfl
theorem exec_mulImm (d a : Reg) (imm : BitVec 11) (s : State) : exec (.mulImm d a imm) s = execMulImm d a imm s := rfl
theorem exec_addImmQ (d a : Reg) (imm : BitVec 32) (s : State) : exec (.addImmQ d a imm) s = execAddImmQ d a imm s := rfl
theorem exec_andImmQ (d a : Reg) (imm : BitVec 32) (s : State) : exec (.andImmQ d a imm) s = execAndImmQ d a imm s := rfl
theorem exec_orImmQ (d a : Reg) (imm : BitVec 32) (s : State) : exec (.orImmQ d a imm) s = execOrImmQ d a imm s := rfl
theorem exec_xorImmQ (d a : Reg) (imm : BitVec 32) (s : State) : exec (.xorImmQ d a imm) s = execXorImmQ d a imm s := rfl
theorem exec_sllImmQ (d a : Reg) (sh : BitVec 6) (s : State) : exec (.sllImmQ d a sh) s = execSllImmQ d a sh s := rfl
theorem exec_srlImmQ (d a : Reg) (sh : BitVec 6) (s : State) : exec (.srlImmQ d a sh) s = execSrlImmQ d a sh s := rfl
theorem exec_sraImmQ (d a : Reg) (sh : BitVec 6) (s : State) : exec (.sraImmQ d a sh) s = execSraImmQ d a sh s := rfl
theorem exec_mulImmQ (d a : Reg) (imm : BitVec 32) (s : State) : exec (.mulImmQ d a imm) s = execMulImmQ d a imm s := rfl
theorem exec_li (d : Reg) (imm : BitVec 11) (s : State) : exec (.li d imm) s = execLi d imm s := rfl
theorem exec_liQ (d : Reg) (imm : BitVec 32) (s : State) : exec (.liQ d imm) s = execLiQ d imm s := rfl
theorem exec_lih (d : Reg) (imm : BitVec 32) (s : State) : exec (.lih d imm) s = execLih d imm s := rfl
theorem exec_lpc (d : Reg) (off : BitVec 11) (s : State) : exec (.lpc d off) s = execLpc d off s := rfl
theorem exec_lpcQ (d : Reg) (off : BitVec 32) (s : State) : exec (.lpcQ d off) s = execLpcQ d off s := rfl
theorem exec_bCc (cc : IntCc) (a b : Reg) (off : BitVec 9) (s : State) :
    exec (.bCc cc a b off) s = execBCc cc a b off s := rfl
theorem exec_bCcQ (cc : IntCc) (a b : Reg) (off : BitVec 32) (s : State) :
    exec (.bCcQ cc a b off) s = execBCcQ cc a b off s := rfl
theorem exec_jal (d : Reg) (off : BitVec 19) (s : State) : exec (.jal d off) s = execJal d off s := rfl
theorem exec_jalQ (d : Reg) (off : BitVec 32) (s : State) : exec (.jalQ d off) s = execJalQ d off s := rfl
theorem exec_loop (a : Reg) (off : BitVec 9) (s : State) : exec (.loop a off) s = execLoop a off s := rfl
theorem exec_loopQ (a : Reg) (off : BitVec 32) (s : State) : exec (.loopQ a off) s = execLoopQ a off s := rfl
theorem exec_jr (d a : Reg) (s : State) : exec (.jr d a) s = execJr d a s := rfl
theorem exec_fadd (d a b : Reg) (s : State) : exec (.fadd d a b) s = execFadd d a b s := rfl
theorem exec_fsub (d a b : Reg) (s : State) : exec (.fsub d a b) s = execFsub d a b s := rfl
theorem exec_fmul (d a b : Reg) (s : State) : exec (.fmul d a b) s = execFmul d a b s := rfl
theorem exec_fdiv (d a b : Reg) (s : State) : exec (.fdiv d a b) s = execFdiv d a b s := rfl
theorem exec_fsqrt (d a : Reg) (s : State) : exec (.fsqrt d a) s = execFsqrt d a s := rfl
theorem exec_fmin (d a b : Reg) (s : State) : exec (.fmin d a b) s = execFmin d a b s := rfl
theorem exec_fmax (d a b : Reg) (s : State) : exec (.fmax d a b) s = execFmax d a b s := rfl
theorem exec_fsgn (d a b : Reg) (s : State) : exec (.fsgn d a b) s = execFsgn d a b s := rfl
theorem exec_fsgnn (d a b : Reg) (s : State) : exec (.fsgnn d a b) s = execFsgnn d a b s := rfl
theorem exec_fsgnx (d a b : Reg) (s : State) : exec (.fsgnx d a b) s = execFsgnx d a b s := rfl
theorem exec_fcmpCc (cc : FpCc) (d a b : Reg) (s : State) : exec (.fcmpCc cc d a b) s = execFcmpCc cc d a b s := rfl
theorem exec_fcvtI32F32 (d a : Reg) (s : State) : exec (.fcvtI32F32 d a) s = execFcvtI32F32 d a s := rfl
theorem exec_fcvtN32F32 (d a : Reg) (s : State) : exec (.fcvtN32F32 d a) s = execFcvtN32F32 d a s := rfl
theorem exec_fcvtI64F32 (d a : Reg) (s : State) : exec (.fcvtI64F32 d a) s = execFcvtI64F32 d a s := rfl
theorem exec_fcvtN64F32 (d a : Reg) (s : State) : exec (.fcvtN64F32 d a) s = execFcvtN64F32 d a s := rfl
theorem exec_fcvtF32I32 (d a : Reg) (s : State) : exec (.fcvtF32I32 d a) s = execFcvtF32I32 d a s := rfl
theorem exec_fcvtF32N32 (d a : Reg) (s : State) : exec (.fcvtF32N32 d a) s = execFcvtF32N32 d a s := rfl
theorem exec_fcvtF32I64 (d a : Reg) (s : State) : exec (.fcvtF32I64 d a) s = execFcvtF32I64 d a s := rfl
theorem exec_fcvtF32N64 (d a : Reg) (s : State) : exec (.fcvtF32N64 d a) s = execFcvtF32N64 d a s := rfl
theorem exec_fma (d a b c : Reg) (s : State) : exec (.fma d a b c) s = execFma d a b c s := rfl
theorem exec_nop (s : State) : exec .nop s = execNop s := rfl
theorem exec_crd (d : Reg) (r : Creg) (s : State) : exec (.crd d r) s = execCrd d r s := rfl
theorem exec_cwr (r : Creg) (a : Reg) (s : State) : exec (.cwr r a) s = execCwr r a s := rfl
theorem exec_sys (n : BitVec 15) (s : State) : exec (.sys n) s = execSys n s := rfl
theorem exec_brk (n : BitVec 15) (s : State) : exec (.brk n) s = execBrk n s := rfl
theorem exec_eret (s : State) : exec .eret s = execEret s := rfl
theorem exec_exit (s : State) : exec .exit s = execExit s := rfl
theorem exec_fmt (p : Prefix) (s : State) : exec (.fmt p) s = execFmt p s := rfl
theorem exec_vaddF32 (d a b : Reg) (m : Mask) (s : State) : exec (.vaddF32 d a b m) s = execVaddF32 d a b m s := rfl
theorem exec_vsubF32 (d a b : Reg) (m : Mask) (s : State) : exec (.vsubF32 d a b m) s = execVsubF32 d a b m s := rfl
theorem exec_vmulF32 (d a b : Reg) (m : Mask) (s : State) : exec (.vmulF32 d a b m) s = execVmulF32 d a b m s := rfl
theorem exec_vdiv (d a b : Reg) (m : Mask) (s : State) : exec (.vdiv d a b m) s = execVdiv d a b m s := rfl
theorem exec_vsqrt (d a : Reg) (m : Mask) (s : State) : exec (.vsqrt d a m) s = execVsqrt d a m s := rfl
theorem exec_vrsqrt (d a : Reg) (m : Mask) (s : State) : exec (.vrsqrt d a m) s = execVrsqrt d a m s := rfl
theorem exec_vexp2 (d a : Reg) (m : Mask) (s : State) : exec (.vexp2 d a m) s = execVexp2 d a m s := rfl
theorem exec_vminF32 (d a b : Reg) (m : Mask) (s : State) : exec (.vminF32 d a b m) s = execVminF32 d a b m s := rfl
theorem exec_vmaxF32 (d a b : Reg) (m : Mask) (s : State) : exec (.vmaxF32 d a b m) s = execVmaxF32 d a b m s := rfl
theorem exec_vabsF32 (d a : Reg) (m : Mask) (s : State) : exec (.vabsF32 d a m) s = execVabsF32 d a m s := rfl
theorem exec_vneg (d a : Reg) (m : Mask) (s : State) : exec (.vneg d a m) s = execVneg d a m s := rfl
theorem exec_vfma (d a b c : Reg) (m : Mask) (s : State) : exec (.vfma d a b c m) s = execVfma d a b c m s := rfl
theorem exec_vfms (d a b c : Reg) (m : Mask) (s : State) : exec (.vfms d a b c m) s = execVfms d a b c m s := rfl
theorem exec_vfnma (d a b c : Reg) (m : Mask) (s : State) : exec (.vfnma d a b c m) s = execVfnma d a b c m s := rfl
theorem exec_vaddF32Lit (d a : Reg) (lit : BitVec 32) (m : Mask) (s : State) :
    exec (.vaddF32Lit d a lit m) s = execVaddF32Lit d a lit m s := rfl
theorem exec_vsubF32Lit (d a : Reg) (lit : BitVec 32) (m : Mask) (s : State) :
    exec (.vsubF32Lit d a lit m) s = execVsubF32Lit d a lit m s := rfl
theorem exec_vmulF32Lit (d a : Reg) (lit : BitVec 32) (m : Mask) (s : State) :
    exec (.vmulF32Lit d a lit m) s = execVmulF32Lit d a lit m s := rfl
theorem exec_vdivLit (d a : Reg) (lit : BitVec 32) (m : Mask) (s : State) :
    exec (.vdivLit d a lit m) s = execVdivLit d a lit m s := rfl
theorem exec_vminF32Lit (d a : Reg) (lit : BitVec 32) (m : Mask) (s : State) :
    exec (.vminF32Lit d a lit m) s = execVminF32Lit d a lit m s := rfl
theorem exec_vmaxF32Lit (d a : Reg) (lit : BitVec 32) (m : Mask) (s : State) :
    exec (.vmaxF32Lit d a lit m) s = execVmaxF32Lit d a lit m s := rfl
theorem exec_vaddInt (nat : Bool) (d a b : Reg) (m : Mask) (s : State) :
    exec (.vaddInt nat d a b m) s = execVaddInt nat d a b m s := rfl
theorem exec_vsubInt (nat : Bool) (d a b : Reg) (m : Mask) (s : State) :
    exec (.vsubInt nat d a b m) s = execVsubInt nat d a b m s := rfl
theorem exec_vmulInt (nat : Bool) (d a b : Reg) (m : Mask) (s : State) :
    exec (.vmulInt nat d a b m) s = execVmulInt nat d a b m s := rfl
theorem exec_vmulh (nat : Bool) (d a b : Reg) (m : Mask) (s : State) :
    exec (.vmulh nat d a b m) s = execVmulh nat d a b m s := rfl
theorem exec_vand (nat : Bool) (d a b : Reg) (m : Mask) (s : State) :
    exec (.vand nat d a b m) s = execVand nat d a b m s := rfl
theorem exec_vor (nat : Bool) (d a b : Reg) (m : Mask) (s : State) :
    exec (.vor nat d a b m) s = execVor nat d a b m s := rfl
theorem exec_vxor (nat : Bool) (d a b : Reg) (m : Mask) (s : State) :
    exec (.vxor nat d a b m) s = execVxor nat d a b m s := rfl
theorem exec_vandn (nat : Bool) (d a b : Reg) (m : Mask) (s : State) :
    exec (.vandn nat d a b m) s = execVandn nat d a b m s := rfl
theorem exec_vsll (nat : Bool) (d a b : Reg) (m : Mask) (s : State) :
    exec (.vsll nat d a b m) s = execVsll nat d a b m s := rfl
theorem exec_vsrl (nat : Bool) (d a b : Reg) (m : Mask) (s : State) :
    exec (.vsrl nat d a b m) s = execVsrl nat d a b m s := rfl
theorem exec_vsra (nat : Bool) (d a b : Reg) (m : Mask) (s : State) :
    exec (.vsra nat d a b m) s = execVsra nat d a b m s := rfl
theorem exec_vminInt (nat : Bool) (d a b : Reg) (m : Mask) (s : State) :
    exec (.vminInt nat d a b m) s = execVminInt nat d a b m s := rfl
theorem exec_vmaxInt (nat : Bool) (d a b : Reg) (m : Mask) (s : State) :
    exec (.vmaxInt nat d a b m) s = execVmaxInt nat d a b m s := rfl
theorem exec_vabsI32 (d a : Reg) (m : Mask) (s : State) : exec (.vabsI32 d a m) s = execVabsI32 d a m s := rfl
theorem exec_vadds (nat : Bool) (d a b : Reg) (m : Mask) (s : State) :
    exec (.vadds nat d a b m) s = execVadds nat d a b m s := rfl
theorem exec_vsubs (nat : Bool) (d a b : Reg) (m : Mask) (s : State) :
    exec (.vsubs nat d a b m) s = execVsubs nat d a b m s := rfl
theorem exec_vaddIntLit (nat : Bool) (d a : Reg) (lit : BitVec 32) (m : Mask) (s : State) :
    exec (.vaddIntLit nat d a lit m) s = execVaddIntLit nat d a lit m s := rfl
theorem exec_vsubIntLit (nat : Bool) (d a : Reg) (lit : BitVec 32) (m : Mask) (s : State) :
    exec (.vsubIntLit nat d a lit m) s = execVsubIntLit nat d a lit m s := rfl
theorem exec_vmulIntLit (nat : Bool) (d a : Reg) (lit : BitVec 32) (m : Mask) (s : State) :
    exec (.vmulIntLit nat d a lit m) s = execVmulIntLit nat d a lit m s := rfl
theorem exec_vmulhLit (nat : Bool) (d a : Reg) (lit : BitVec 32) (m : Mask) (s : State) :
    exec (.vmulhLit nat d a lit m) s = execVmulhLit nat d a lit m s := rfl
theorem exec_vandLit (nat : Bool) (d a : Reg) (lit : BitVec 32) (m : Mask) (s : State) :
    exec (.vandLit nat d a lit m) s = execVandLit nat d a lit m s := rfl
theorem exec_vorLit (nat : Bool) (d a : Reg) (lit : BitVec 32) (m : Mask) (s : State) :
    exec (.vorLit nat d a lit m) s = execVorLit nat d a lit m s := rfl
theorem exec_vxorLit (nat : Bool) (d a : Reg) (lit : BitVec 32) (m : Mask) (s : State) :
    exec (.vxorLit nat d a lit m) s = execVxorLit nat d a lit m s := rfl
theorem exec_vandnLit (nat : Bool) (d a : Reg) (lit : BitVec 32) (m : Mask) (s : State) :
    exec (.vandnLit nat d a lit m) s = execVandnLit nat d a lit m s := rfl
theorem exec_vsllLit (nat : Bool) (d a : Reg) (lit : BitVec 32) (m : Mask) (s : State) :
    exec (.vsllLit nat d a lit m) s = execVsllLit nat d a lit m s := rfl
theorem exec_vsrlLit (nat : Bool) (d a : Reg) (lit : BitVec 32) (m : Mask) (s : State) :
    exec (.vsrlLit nat d a lit m) s = execVsrlLit nat d a lit m s := rfl
theorem exec_vsraLit (nat : Bool) (d a : Reg) (lit : BitVec 32) (m : Mask) (s : State) :
    exec (.vsraLit nat d a lit m) s = execVsraLit nat d a lit m s := rfl
theorem exec_vminIntLit (nat : Bool) (d a : Reg) (lit : BitVec 32) (m : Mask) (s : State) :
    exec (.vminIntLit nat d a lit m) s = execVminIntLit nat d a lit m s := rfl
theorem exec_vmaxIntLit (nat : Bool) (d a : Reg) (lit : BitVec 32) (m : Mask) (s : State) :
    exec (.vmaxIntLit nat d a lit m) s = execVmaxIntLit nat d a lit m s := rfl
theorem exec_vaddsLit (nat : Bool) (d a : Reg) (lit : BitVec 32) (m : Mask) (s : State) :
    exec (.vaddsLit nat d a lit m) s = execVaddsLit nat d a lit m s := rfl
theorem exec_vsubsLit (nat : Bool) (d a : Reg) (lit : BitVec 32) (m : Mask) (s : State) :
    exec (.vsubsLit nat d a lit m) s = execVsubsLit nat d a lit m s := rfl
theorem exec_vcmpF32 (cc : FpCc) (d a b : Reg) (m : Mask) (s : State) :
    exec (.vcmpF32 cc d a b m) s = execVcmpF32 cc d a b m s := rfl
theorem exec_vcmpI32 (cc : IntCc) (d a b : Reg) (m : Mask) (s : State) :
    exec (.vcmpI32 cc d a b m) s = execVcmpI32 cc d a b m s := rfl
theorem exec_vsel (d a b : Reg) (m : Mask) (s : State) : exec (.vsel d a b m) s = execVsel d a b m s := rfl
theorem exec_vmcnt (d a : Reg) (m : Mask) (s : State) : exec (.vmcnt d a m) s = execVmcnt d a m s := rfl
theorem exec_vfirst (d a : Reg) (m : Mask) (s : State) : exec (.vfirst d a m) s = execVfirst d a m s := rfl
theorem exec_vmand (d a b : Reg) (m : Mask) (s : State) : exec (.vmand d a b m) s = execVmand d a b m s := rfl
theorem exec_vmor (d a b : Reg) (m : Mask) (s : State) : exec (.vmor d a b m) s = execVmor d a b m s := rfl
theorem exec_vmxor (d a b : Reg) (m : Mask) (s : State) : exec (.vmxor d a b m) s = execVmxor d a b m s := rfl
theorem exec_vmnot (d a : Reg) (m : Mask) (s : State) : exec (.vmnot d a m) s = execVmnot d a m s := rfl
theorem exec_vperm (d a b : Reg) (m : Mask) (s : State) : exec (.vperm d a b m) s = execVperm d a b m s := rfl
theorem exec_vbcast (d a : Reg) (m : Mask) (s : State) : exec (.vbcast d a m) s = execVbcast d a m s := rfl
theorem exec_vbcastLit (ty : LaneTy) (d : Reg) (lit : BitVec 32) (m : Mask) (s : State) :
    exec (.vbcastLit ty d lit m) s = execVbcastLit ty d lit m s := rfl
theorem exec_vext (sgn : Bool) (d a : Reg) (lane : BitVec 4) (s : State) :
    exec (.vext sgn d a lane) s = execVext sgn d a lane s := rfl
theorem exec_vins (d a : Reg) (lane : BitVec 4) (s : State) : exec (.vins d a lane) s = execVins d a lane s := rfl
theorem exec_vslide (d a b : Reg) (k : BitVec 4) (m : Mask) (s : State) :
    exec (.vslide d a b k m) s = execVslide d a b k m s := rfl
theorem exec_vcompress (d a : Reg) (m : Mask) (s : State) : exec (.vcompress d a m) s = execVcompress d a m s := rfl
theorem exec_vexpand (d a : Reg) (m : Mask) (s : State) : exec (.vexpand d a m) s = execVexpand d a m s := rfl
theorem exec_vmov (d a : Reg) (m : Mask) (s : State) : exec (.vmov d a m) s = execVmov d a m s := rfl
theorem exec_vredAdd (ty : LaneTy) (d a : Reg) (m : Mask) (s : State) :
    exec (.vredAdd ty d a m) s = execVredAdd ty d a m s := rfl
theorem exec_vredMin (ty : LaneTy) (d a : Reg) (m : Mask) (s : State) :
    exec (.vredMin ty d a m) s = execVredMin ty d a m s := rfl
theorem exec_vredMax (ty : LaneTy) (d a : Reg) (m : Mask) (s : State) :
    exec (.vredMax ty d a m) s = execVredMax ty d a m s := rfl
theorem exec_vredAnd (d a : Reg) (m : Mask) (s : State) : exec (.vredAnd d a m) s = execVredAnd d a m s := rfl
theorem exec_vredOr (d a : Reg) (m : Mask) (s : State) : exec (.vredOr d a m) s = execVredOr d a m s := rfl
theorem exec_vredXor (d a : Reg) (m : Mask) (s : State) : exec (.vredXor d a m) s = execVredXor d a m s := rfl
theorem exec_vscanAdd (ty : LaneTy) (d a : Reg) (m : Mask) (s : State) :
    exec (.vscanAdd ty d a m) s = execVscanAdd ty d a m s := rfl
theorem exec_vscanMin (ty : LaneTy) (d a : Reg) (m : Mask) (s : State) :
    exec (.vscanMin ty d a m) s = execVscanMin ty d a m s := rfl
theorem exec_vscanMax (ty : LaneTy) (d a : Reg) (m : Mask) (s : State) :
    exec (.vscanMax ty d a m) s = execVscanMax ty d a m s := rfl
theorem exec_vcvt (dst src : Fmt) (d a : Reg) (m : Mask) (s : State) :
    exec (.vcvt dst src d a m) s = execVcvt dst src d a m s := rfl
theorem exec_vpack (dst : Fmt) (src : LaneTy) (d a b : Reg) (q : Bool) (s : State) :
    exec (.vpack dst src d a b q) s = execVpack dst src d a b q s := rfl
theorem exec_vunpack (dst : LaneTy) (src : Fmt) (d a : Reg) (p : BitVec 2) (s : State) :
    exec (.vunpack dst src d a p) s = execVunpack dst src d a p s := rfl
theorem exec_vqnt (dst : Fmt) (d a b : Reg) (c : Option Reg) (s : State) :
    exec (.vqnt dst d a b c) s = execVqnt dst d a b c s := rfl
theorem exec_vmaxx (d a : Reg) (w : BitVec 3) (s : State) : exec (.vmaxx d a w) s = execVmaxx d a w s := rfl
theorem exec_vld (d xo : Reg) (seg : Slot) (imm : BitVec 16) (m : Mask) (s : State) :
    exec (.vld d xo seg imm m) s = execVld d xo seg imm m s := rfl
theorem exec_vst (d xo : Reg) (seg : Slot) (imm : BitVec 16) (m : Mask) (s : State) :
    exec (.vst d xo seg imm m) s = execVst d xo seg imm m s := rfl
theorem exec_vlds (d xo c : Reg) (seg : Slot) (imm : BitVec 16) (m : Mask) (s : State) :
    exec (.vlds d xo c seg imm m) s = execVlds d xo c seg imm m s := rfl
theorem exec_vsts (d xo c : Reg) (seg : Slot) (imm : BitVec 16) (m : Mask) (s : State) :
    exec (.vsts d xo c seg imm m) s = execVsts d xo c seg imm m s := rfl
theorem exec_vldx (d xo c : Reg) (seg : Slot) (imm : BitVec 16) (m : Mask) (s : State) :
    exec (.vldx d xo c seg imm m) s = execVldx d xo c seg imm m s := rfl
theorem exec_vstx (d xo c : Reg) (seg : Slot) (imm : BitVec 16) (m : Mask) (s : State) :
    exec (.vstx d xo c seg imm m) s = execVstx d xo c seg imm m s := rfl
theorem exec_vclaim (nm1 : BitVec 4) (s : State) : exec (.vclaim nm1) s = execVclaim nm1 s := rfl
theorem exec_vrelease (s : State) : exec .vrelease s = execVrelease s := rfl
theorem exec_ldI8 (d xo : Reg) (seg : Slot) (disp : BitVec 5) (s : State) :
    exec (.ldI8 d xo seg disp) s = execLdI8 d xo seg disp s := rfl
theorem exec_ldN8 (d xo : Reg) (seg : Slot) (disp : BitVec 5) (s : State) :
    exec (.ldN8 d xo seg disp) s = execLdN8 d xo seg disp s := rfl
theorem exec_ldI16 (d xo : Reg) (seg : Slot) (disp : BitVec 5) (s : State) :
    exec (.ldI16 d xo seg disp) s = execLdI16 d xo seg disp s := rfl
theorem exec_ldN16 (d xo : Reg) (seg : Slot) (disp : BitVec 5) (s : State) :
    exec (.ldN16 d xo seg disp) s = execLdN16 d xo seg disp s := rfl
theorem exec_ldI32 (d xo : Reg) (seg : Slot) (disp : BitVec 5) (s : State) :
    exec (.ldI32 d xo seg disp) s = execLdI32 d xo seg disp s := rfl
theorem exec_ldN32 (d xo : Reg) (seg : Slot) (disp : BitVec 5) (s : State) :
    exec (.ldN32 d xo seg disp) s = execLdN32 d xo seg disp s := rfl
theorem exec_ldI64 (d xo : Reg) (seg : Slot) (disp : BitVec 5) (s : State) :
    exec (.ldI64 d xo seg disp) s = execLdI64 d xo seg disp s := rfl
theorem exec_lea (d xo : Reg) (seg : Slot) (disp : BitVec 5) (s : State) :
    exec (.lea d xo seg disp) s = execLea d xo seg disp s := rfl
theorem exec_ldI8Mk (d xo : Reg) (seg : Slot) (disp : BitVec 20) (nc : Bool) (acq : Option Scope) (s : State) :
    exec (.ldI8Mk d xo seg disp nc acq) s = execLdI8Mk d xo seg disp nc acq s := rfl
theorem exec_ldN8Mk (d xo : Reg) (seg : Slot) (disp : BitVec 20) (nc : Bool) (acq : Option Scope) (s : State) :
    exec (.ldN8Mk d xo seg disp nc acq) s = execLdN8Mk d xo seg disp nc acq s := rfl
theorem exec_ldI16Mk (d xo : Reg) (seg : Slot) (disp : BitVec 20) (nc : Bool) (acq : Option Scope) (s : State) :
    exec (.ldI16Mk d xo seg disp nc acq) s = execLdI16Mk d xo seg disp nc acq s := rfl
theorem exec_ldN16Mk (d xo : Reg) (seg : Slot) (disp : BitVec 20) (nc : Bool) (acq : Option Scope) (s : State) :
    exec (.ldN16Mk d xo seg disp nc acq) s = execLdN16Mk d xo seg disp nc acq s := rfl
theorem exec_ldI32Mk (d xo : Reg) (seg : Slot) (disp : BitVec 20) (nc : Bool) (acq : Option Scope) (s : State) :
    exec (.ldI32Mk d xo seg disp nc acq) s = execLdI32Mk d xo seg disp nc acq s := rfl
theorem exec_ldN32Mk (d xo : Reg) (seg : Slot) (disp : BitVec 20) (nc : Bool) (acq : Option Scope) (s : State) :
    exec (.ldN32Mk d xo seg disp nc acq) s = execLdN32Mk d xo seg disp nc acq s := rfl
theorem exec_ldI64Mk (d xo : Reg) (seg : Slot) (disp : BitVec 20) (nc : Bool) (acq : Option Scope) (s : State) :
    exec (.ldI64Mk d xo seg disp nc acq) s = execLdI64Mk d xo seg disp nc acq s := rfl
theorem exec_leaMk (d xo : Reg) (seg : Slot) (disp : BitVec 20) (s : State) :
    exec (.leaMk d xo seg disp) s = execLeaMk d xo seg disp s := rfl
theorem exec_ldI8Mkl (d xo : Reg) (seg : Slot) (lit : BitVec 32) (nc : Bool) (acq : Option Scope) (s : State) :
    exec (.ldI8Mkl d xo seg lit nc acq) s = execLdI8Mkl d xo seg lit nc acq s := rfl
theorem exec_ldN8Mkl (d xo : Reg) (seg : Slot) (lit : BitVec 32) (nc : Bool) (acq : Option Scope) (s : State) :
    exec (.ldN8Mkl d xo seg lit nc acq) s = execLdN8Mkl d xo seg lit nc acq s := rfl
theorem exec_ldI16Mkl (d xo : Reg) (seg : Slot) (lit : BitVec 32) (nc : Bool) (acq : Option Scope) (s : State) :
    exec (.ldI16Mkl d xo seg lit nc acq) s = execLdI16Mkl d xo seg lit nc acq s := rfl
theorem exec_ldN16Mkl (d xo : Reg) (seg : Slot) (lit : BitVec 32) (nc : Bool) (acq : Option Scope) (s : State) :
    exec (.ldN16Mkl d xo seg lit nc acq) s = execLdN16Mkl d xo seg lit nc acq s := rfl
theorem exec_ldI32Mkl (d xo : Reg) (seg : Slot) (lit : BitVec 32) (nc : Bool) (acq : Option Scope) (s : State) :
    exec (.ldI32Mkl d xo seg lit nc acq) s = execLdI32Mkl d xo seg lit nc acq s := rfl
theorem exec_ldN32Mkl (d xo : Reg) (seg : Slot) (lit : BitVec 32) (nc : Bool) (acq : Option Scope) (s : State) :
    exec (.ldN32Mkl d xo seg lit nc acq) s = execLdN32Mkl d xo seg lit nc acq s := rfl
theorem exec_ldI64Mkl (d xo : Reg) (seg : Slot) (lit : BitVec 32) (nc : Bool) (acq : Option Scope) (s : State) :
    exec (.ldI64Mkl d xo seg lit nc acq) s = execLdI64Mkl d xo seg lit nc acq s := rfl
theorem exec_leaMkl (d xo : Reg) (seg : Slot) (lit : BitVec 32) (s : State) :
    exec (.leaMkl d xo seg lit) s = execLeaMkl d xo seg lit s := rfl
theorem exec_stI8 (d xo : Reg) (seg : Slot) (disp : BitVec 5) (s : State) :
    exec (.stI8 d xo seg disp) s = execStI8 d xo seg disp s := rfl
theorem exec_stI16 (d xo : Reg) (seg : Slot) (disp : BitVec 5) (s : State) :
    exec (.stI16 d xo seg disp) s = execStI16 d xo seg disp s := rfl
theorem exec_stI32 (d xo : Reg) (seg : Slot) (disp : BitVec 5) (s : State) :
    exec (.stI32 d xo seg disp) s = execStI32 d xo seg disp s := rfl
theorem exec_stI64 (d xo : Reg) (seg : Slot) (disp : BitVec 5) (s : State) :
    exec (.stI64 d xo seg disp) s = execStI64 d xo seg disp s := rfl
theorem exec_stI8Mk (d xo : Reg) (seg : Slot) (disp : BitVec 20) (rel : Option Scope) (s : State) :
    exec (.stI8Mk d xo seg disp rel) s = execStI8Mk d xo seg disp rel s := rfl
theorem exec_stI16Mk (d xo : Reg) (seg : Slot) (disp : BitVec 20) (rel : Option Scope) (s : State) :
    exec (.stI16Mk d xo seg disp rel) s = execStI16Mk d xo seg disp rel s := rfl
theorem exec_stI32Mk (d xo : Reg) (seg : Slot) (disp : BitVec 20) (rel : Option Scope) (s : State) :
    exec (.stI32Mk d xo seg disp rel) s = execStI32Mk d xo seg disp rel s := rfl
theorem exec_stI64Mk (d xo : Reg) (seg : Slot) (disp : BitVec 20) (rel : Option Scope) (s : State) :
    exec (.stI64Mk d xo seg disp rel) s = execStI64Mk d xo seg disp rel s := rfl
theorem exec_stI8Mkl (d xo : Reg) (seg : Slot) (lit : BitVec 32) (rel : Option Scope) (s : State) :
    exec (.stI8Mkl d xo seg lit rel) s = execStI8Mkl d xo seg lit rel s := rfl
theorem exec_stI16Mkl (d xo : Reg) (seg : Slot) (lit : BitVec 32) (rel : Option Scope) (s : State) :
    exec (.stI16Mkl d xo seg lit rel) s = execStI16Mkl d xo seg lit rel s := rfl
theorem exec_stI32Mkl (d xo : Reg) (seg : Slot) (lit : BitVec 32) (rel : Option Scope) (s : State) :
    exec (.stI32Mkl d xo seg lit rel) s = execStI32Mkl d xo seg lit rel s := rfl
theorem exec_stI64Mkl (d xo : Reg) (seg : Slot) (lit : BitVec 32) (rel : Option Scope) (s : State) :
    exec (.stI64Mkl d xo seg lit rel) s = execStI64Mkl d xo seg lit rel s := rfl
theorem exec_amoAdd (wide : Bool) (d xo b : Reg) (seg : Slot) (disp : BitVec 20) (acq rel : Bool) (sc : Scope) (s : State) :
    exec (.amoAdd wide d xo b seg disp acq rel sc) s = execAmoAdd wide d xo b seg disp acq rel sc s := rfl
theorem exec_amoAnd (wide : Bool) (d xo b : Reg) (seg : Slot) (disp : BitVec 20) (acq rel : Bool) (sc : Scope) (s : State) :
    exec (.amoAnd wide d xo b seg disp acq rel sc) s = execAmoAnd wide d xo b seg disp acq rel sc s := rfl
theorem exec_amoOr (wide : Bool) (d xo b : Reg) (seg : Slot) (disp : BitVec 20) (acq rel : Bool) (sc : Scope) (s : State) :
    exec (.amoOr wide d xo b seg disp acq rel sc) s = execAmoOr wide d xo b seg disp acq rel sc s := rfl
theorem exec_amoXor (wide : Bool) (d xo b : Reg) (seg : Slot) (disp : BitVec 20) (acq rel : Bool) (sc : Scope) (s : State) :
    exec (.amoXor wide d xo b seg disp acq rel sc) s = execAmoXor wide d xo b seg disp acq rel sc s := rfl
theorem exec_amoMin (wide : Bool) (d xo b : Reg) (seg : Slot) (disp : BitVec 20) (acq rel : Bool) (sc : Scope) (s : State) :
    exec (.amoMin wide d xo b seg disp acq rel sc) s = execAmoMin wide d xo b seg disp acq rel sc s := rfl
theorem exec_amoMax (wide : Bool) (d xo b : Reg) (seg : Slot) (disp : BitVec 20) (acq rel : Bool) (sc : Scope) (s : State) :
    exec (.amoMax wide d xo b seg disp acq rel sc) s = execAmoMax wide d xo b seg disp acq rel sc s := rfl
theorem exec_amoMinn (wide : Bool) (d xo b : Reg) (seg : Slot) (disp : BitVec 20) (acq rel : Bool) (sc : Scope) (s : State) :
    exec (.amoMinn wide d xo b seg disp acq rel sc) s = execAmoMinn wide d xo b seg disp acq rel sc s := rfl
theorem exec_amoMaxn (wide : Bool) (d xo b : Reg) (seg : Slot) (disp : BitVec 20) (acq rel : Bool) (sc : Scope) (s : State) :
    exec (.amoMaxn wide d xo b seg disp acq rel sc) s = execAmoMaxn wide d xo b seg disp acq rel sc s := rfl
theorem exec_amoSwap (wide : Bool) (d xo b : Reg) (seg : Slot) (disp : BitVec 20) (acq rel : Bool) (sc : Scope) (s : State) :
    exec (.amoSwap wide d xo b seg disp acq rel sc) s = execAmoSwap wide d xo b seg disp acq rel sc s := rfl
theorem exec_amoCas (wide : Bool) (d xo b : Reg) (seg : Slot) (disp : BitVec 20) (acq rel : Bool) (sc : Scope) (s : State) :
    exec (.amoCas wide d xo b seg disp acq rel sc) s = execAmoCas wide d xo b seg disp acq rel sc s := rfl
theorem exec_amoFadd (d xo b : Reg) (seg : Slot) (disp : BitVec 20) (acq rel : Bool) (sc : Scope) (s : State) :
    exec (.amoFadd d xo b seg disp acq rel sc) s = execAmoFadd d xo b seg disp acq rel sc s := rfl
theorem exec_amoFmin (d xo b : Reg) (seg : Slot) (disp : BitVec 20) (acq rel : Bool) (sc : Scope) (s : State) :
    exec (.amoFmin d xo b seg disp acq rel sc) s = execAmoFmin d xo b seg disp acq rel sc s := rfl
theorem exec_amoFmax (d xo b : Reg) (seg : Slot) (disp : BitVec 20) (acq rel : Bool) (sc : Scope) (s : State) :
    exec (.amoFmax d xo b seg disp acq rel sc) s = execAmoFmax d xo b seg disp acq rel sc s := rfl
theorem exec_fence (sc : Scope) (s : State) : exec (.fence sc) s = execFence sc s := rfl
theorem exec_fenceAcq (sc : Scope) (s : State) : exec (.fenceAcq sc) s = execFenceAcq sc s := rfl
theorem exec_fenceRel (sc : Scope) (s : State) : exec (.fenceRel sc) s = execFenceRel sc s := rfl
theorem exec_fenceW (s : State) : exec .fenceW s = execFenceW s := rfl
theorem exec_waita (cc : IntCc) (d xo b : Reg) (seg : Slot) (disp : BitVec 20) (acq : Option Scope) (s : State) :
    exec (.waita cc d xo b seg disp acq) s = execWaita cc d xo b seg disp acq s := rfl
theorem exec_cinv (d xo b : Reg) (seg : Slot) (disp : BitVec 20) (s : State) :
    exec (.cinv d xo b seg disp) s = execCinv d xo b seg disp s := rfl
theorem exec_cwb (xo b : Reg) (seg : Slot) (disp : BitVec 20) (s : State) :
    exec (.cwb xo b seg disp) s = execCwb xo b seg disp s := rfl
theorem exec_cflush (xo b : Reg) (seg : Slot) (disp : BitVec 20) (s : State) :
    exec (.cflush xo b seg disp) s = execCflush xo b seg disp s := rfl
theorem exec_cpref (xo b : Reg) (seg : Slot) (disp : BitVec 20) (s : State) :
    exec (.cpref xo b seg disp) s = execCpref xo b seg disp s := rfl
theorem exec_dcopy (k : Cmd) (rc : Bool) (s : State) : exec (.dcopy k rc) s = execDcopy k rc s := rfl
theorem exec_dfill (k : Cmd) (rn : Bool) (s : State) : exec (.dfill k rn) s = execDfill k rn s := rfl
theorem exec_dfree (a b : Reg) (s : State) : exec (.dfree a b) s = execDfree a b s := rfl
theorem exec_gather (k : Cmd) (es : BitVec 3) (it : BitVec 2) (s : State) :
    exec (.gather k es it) s = execGather k es it s := rfl
theorem exec_scatter (k : Cmd) (es : BitVec 3) (it mode : BitVec 2) (s : State) :
    exec (.scatter k es it mode) s = execScatter k es it mode s := rfl
theorem exec_spwalk (k : Cmd) (wide pos : Bool) (s : State) : exec (.spwalk k wide pos) s = execSpwalk k wide pos s := rfl
theorem exec_merge (k : Cmd) (zd : Bool) (s : State) : exec (.merge k zd) s = execMerge k zd s := rfl
theorem exec_mldb (k : Cmd) (ty : Fmt) (sx : Bool) (bank : BitVec 2) (s : State) :
    exec (.mldb k ty sx bank) s = execMldb k ty sx bank s := rfl
theorem exec_mmac (k : Cmd) (bank : BitVec 2) (pr zc pin : Bool) (s : State) :
    exec (.mmac k bank pr zc pin) s = execMmac k bank pr zc pin s := rfl
theorem exec_mmacCoop (k : Cmd) (bank : BitVec 2) (pr zc : Bool) (s : State) :
    exec (.mmacCoop k bank pr zc) s = execMmacCoop k bank pr zc s := rfl
theorem exec_rnew (d a c : Reg) (sa : Slot) (sp : BitVec 4) (s : State) :
    exec (.rnew d a c sa sp) s = execRnew d a c sa sp s := rfl
theorem exec_rdel (b c : Reg) (s : State) : exec (.rdel b c) s = execRdel b c s := rfl
theorem exec_rld (a b c : Reg) (sa : Slot) (acq : Option Scope) (s : State) :
    exec (.rld a b c sa acq) s = execRld a b c sa acq s := rfl
theorem exec_rst (d a b c : Reg) (sa : Slot) (rel : Option Scope) (s : State) :
    exec (.rst d a b c sa rel) s = execRst d a b c sa rel s := rfl
theorem exec_rloc (d b c : Reg) (s : State) : exec (.rloc d b c) s = execRloc d b c s := rfl
theorem exec_qbox (d a b c : Reg) (sa : Slot) (sp : BitVec 4) (s : State) :
    exec (.qbox d a b c sa sp) s = execQbox d a b c sa sp s := rfl
theorem exec_qrad (d a b c : Reg) (sa : Slot) (sp : BitVec 4) (s : State) :
    exec (.qrad d a b c sa sp) s = execQrad d a b c sa sp s := rfl
theorem exec_gld (d a b c : Reg) (sa : Slot) (g : BitVec 4) (s : State) :
    exec (.gld d a b c sa g) s = execGld d a b c sa g s := rfl
theorem exec_gst (d a b c : Reg) (sa : Slot) (g : BitVec 4) (s : State) :
    exec (.gst d a b c sa g) s = execGst d a b c sa g s := rfl
theorem exec_gstep (c : Reg) (g : BitVec 4) (s : State) : exec (.gstep c g) s = execGstep c g s := rfl
theorem exec_put (k : FabCmd) (s : State) : exec (.put k) s = execPut k s := rfl
theorem exec_get (k : FabCmd) (s : State) : exec (.get k) s = execGet k s := rfl
theorem exec_msg (d a b c : Reg) (s : State) : exec (.msg d a b c) s = execMsg d a b c s := rfl
theorem exec_recv (d a : Reg) (sa : Slot) (nb : Bool) (s : State) : exec (.recv d a sa nb) s = execRecv d a sa nb s := rfl
theorem exec_pub (d a b c : Reg) (sb : Slot) (cw : Cw) (ds : Bool) (s : State) :
    exec (.pub d a b c sb cw ds) s = execPub d a b c sb cw ds s := rfl
theorem exec_rblk (d : Reg) (s : State) : exec (.rblk d) s = execRblk d s := rfl
theorem exec_rblkSet (a b : Reg) (s : State) : exec (.rblkSet a b) s = execRblkSet a b s := rfl
theorem exec_baddq (ty : Fmt) (a b c : Reg) (sa sb : Slot) (s : State) :
    exec (.baddq ty a b c sa sb) s = execBaddq ty a b c sa sb s := rfl
theorem exec_sset (a : Reg) (sa sb : Slot) (s : State) : exec (.sset a sa sb) s = execSset a sa sb s := rfl
theorem exec_ssetT (a : Reg) (sa sb : Slot) (s : State) : exec (.ssetT a sa sb) s = execSsetT a sa sb s := rfl
theorem exec_tlbinv (wb : Bool) (d a b c : Reg) (s : State) : exec (.tlbinv wb d a b c) s = execTlbinv wb d a b c s := rfl
theorem exec_gtw (a : Reg) (sa : Slot) (g : BitVec 8) (s : State) : exec (.gtw a sa g) s = execGtw a sa g s := rfl
theorem exec_pbind (gd : Bool) (a : Reg) (sa : Slot) (n : BitVec 4) (s : State) :
    exec (.pbind gd a sa n) s = execPbind gd a sa n s := rfl
theorem exec_pbindU (gd : Bool) (n : BitVec 4) (s : State) : exec (.pbindU gd n) s = execPbindU gd n s := rfl
theorem exec_crange (clr : Bool) (a b : Reg) (k : BitVec 6) (s : State) :
    exec (.crange clr a b k) s = execCrange clr a b k s := rfl
theorem exec_spawn (d a : Reg) (sa : Slot) (rel : Option Scope) (s : State) :
    exec (.spawn d a sa rel) s = execSpawn d a sa rel s := rfl
theorem exec_kchk (s : State) : exec .kchk s = execKchk s := rfl
theorem exec_iupd (d a b : Reg) (k : BitVec 3) (s : State) : exec (.iupd d a b k) s = execIupd d a b k s := rfl
theorem exec_ird (d a : Reg) (k : BitVec 3) (s : State) : exec (.ird d a k) s = execIrd d a k s := rfl
theorem exec_bar (a : Reg) (s : State) : exec (.bar a) s = execBar a s := rfl
theorem exec_sstep (d a : Reg) (s : State) : exec (.sstep d a) s = execSstep d a s := rfl
theorem exec_dset (d a b : Reg) (s : State) : exec (.dset d a b) s = execDset d a b s := rfl
theorem exec_ddec (d a b : Reg) (s : State) : exec (.ddec d a b) s = execDdec d a b s := rfl
theorem exec_contextSwitch (core : Nat) (s : State) : exec (.contextSwitch core) s = execContextSwitch core s := rfl
theorem exec_accessWaitBlock (core : Nat) (s : State) : exec (.accessWaitBlock core) s = execAccessWaitBlock core s := rfl
theorem exec_fairnessSwitch (core : Nat) (s : State) : exec (.fairnessSwitch core) s = execFairnessSwitch core s := rfl
theorem exec_contextReady (cid : Nat) (s : State) : exec (.contextReady cid) s = execContextReady cid s := rfl
theorem exec_imageLineFill (core cid line : Nat) (s : State) :
    exec (.imageLineFill core cid line) s = execImageLineFill core cid line s := rfl
theorem exec_ringEntryComplete (cid seq : Nat) (s : State) :
    exec (.ringEntryComplete cid seq) s = execRingEntryComplete cid seq s := rfl
theorem exec_lateFault (cid seq : Nat) (s : State) : exec (.lateFault cid seq) s = execLateFault cid seq s := rfl
theorem exec_pendingTrapTaken (core : Nat) (s : State) :
    exec (.pendingTrapTaken core) s = execPendingTrapTaken core s := rfl
theorem exec_preemption (cid : Nat) (s : State) : exec (.preemption cid) s = execPreemption cid s := rfl
theorem exec_vmaxxContribution (src dst k : Nat) (s : State) :
    exec (.vmaxxContribution src dst k) s = execVmaxxContribution src dst k s := rfl
theorem exec_exchangeTimeout (cid seq : Nat) (s : State) :
    exec (.exchangeTimeout cid seq) s = execExchangeTimeout cid seq s := rfl
theorem exec_taskDispatch (die : Nat) (s : State) : exec (.taskDispatch die) s = execTaskDispatch die s := rfl
theorem exec_agingPromotion (die desc : Nat) (s : State) :
    exec (.agingPromotion die desc) s = execAgingPromotion die desc s := rfl
theorem exec_shadowUpdate (at_ : ShadowAt) (k : BitVec 3) (s : State) :
    exec (.shadowUpdate at_ k) s = execShadowUpdate at_ k s := rfl
theorem exec_incctlWrite (k : BitVec 3) (value : Word) (s : State) :
    exec (.incctlWrite k value) s = execIncctlWrite k value s := rfl
theorem exec_incumbentReinitDone (k : BitVec 3) (s : State) :
    exec (.incumbentReinitDone k) s = execIncumbentReinitDone k s := rfl
theorem exec_mailboxPost (m : Nat) (msg : BitVec 256) (s : State) :
    exec (.mailboxPost m msg) s = execMailboxPost m msg s := rfl
theorem exec_mailboxSpawn (m : Nat) (s : State) : exec (.mailboxSpawn m) s = execMailboxSpawn m s := rfl
theorem exec_hostQueuePost (die tag : Nat) (msg : BitVec 256) (s : State) :
    exec (.hostQueuePost die tag msg) s = execHostQueuePost die tag msg s := rfl
theorem exec_syncEpisode (g : Nat) (s : State) : exec (.syncEpisode g) s = execSyncEpisode g s := rfl
theorem exec_superstepBoundary (g : Nat) (s : State) : exec (.superstepBoundary g) s = execSuperstepBoundary g s := rfl
theorem exec_stepCounterIncrement (g : Nat) (s : State) :
    exec (.stepCounterIncrement g) s = execStepCounterIncrement g s := rfl
theorem exec_l1Fill (grove line : Nat) (sectors : BitVec 4) (victim : Option Nat) (s : State) :
    exec (.l1Fill grove line sectors victim) s = execL1Fill grove line sectors victim s := rfl
theorem exec_homeRequest (r : HomeReq) (s : State) : exec (.homeRequest r) s = execHomeRequest r s := rfl
theorem exec_proxyInvalidateDone (line : Nat) (s : State) :
    exec (.proxyInvalidateDone line) s = execProxyInvalidateDone line s := rfl
theorem exec_updateOnlyEviction (grove line : Nat) (s : State) :
    exec (.updateOnlyEviction grove line) s = execUpdateOnlyEviction grove line s := rfl
theorem exec_drainRequest (grove : Nat) (cores : BitVec 8) (s : State) :
    exec (.drainRequest grove cores) s = execDrainRequest grove cores s := rfl
theorem exec_acquireComplete (core line : Nat) (sc : Scope) (s : State) :
    exec (.acquireComplete core line sc) s = execAcquireComplete core line sc s := rfl
theorem exec_rwaysReconfiguration (die : Nat) (s : State) :
    exec (.rwaysReconfiguration die) s = execRwaysReconfiguration die s := rfl
theorem exec_translationWalk (agent : TlbAt) (asid va : Nat) (acc : Access) (s : State) :
    exec (.translationWalk agent asid va acc) s = execTranslationWalk agent asid va acc s := rfl
theorem exec_tlbinvAgentReply (grove cmd : Nat) (s : State) :
    exec (.tlbinvAgentReply grove cmd) s = execTlbinvAgentReply grove cmd s := rfl
theorem exec_engineAccept (cid seq : Nat) (s : State) : exec (.engineAccept cid seq) s = execEngineAccept cid seq s := rfl
theorem exec_chunkIssue (grove cmd : Nat) (s : State) : exec (.chunkIssue grove cmd) s = execChunkIssue grove cmd s := rfl
theorem exec_chunkAck (grove cmd chunk : Nat) (s : State) :
    exec (.chunkAck grove cmd chunk) s = execChunkAck grove cmd chunk s := rfl
theorem exec_engineCompletion (grove cmd : Nat) (s : State) :
    exec (.engineCompletion grove cmd) s = execEngineCompletion grove cmd s := rfl
theorem exec_gatherElement (grove cmd elem : Nat) (s : State) :
    exec (.gatherElement grove cmd elem) s = execGatherElement grove cmd elem s := rfl
theorem exec_agentGroupAccess (grove cmd : Nat) (access : SectorAccess) (s : State) :
    exec (.agentGroupAccess grove cmd access) s = execAgentGroupAccess grove cmd access s := rfl
theorem exec_packedLineReturn (grove cmd line : Nat) (s : State) :
    exec (.packedLineReturn grove cmd line) s = execPackedLineReturn grove cmd line s := rfl
theorem exec_spwalkRow (grove cmd : Nat) (s : State) : exec (.spwalkRow grove cmd) s = execSpwalkRow grove cmd s := rfl
theorem exec_mergeResult (grove cmd : Nat) (s : State) :
    exec (.mergeResult grove cmd) s = execMergeResult grove cmd s := rfl
theorem exec_dfillMemberDelivery (grove cmd member : Nat) (s : State) :
    exec (.dfillMemberDelivery grove cmd member) s = execDfillMemberDelivery grove cmd member s := rfl
theorem exec_dfreeArrival (idx : Nat) (s : State) : exec (.dfreeArrival idx) s = execDfreeArrival idx s := rfl
theorem exec_mldbAccept (cid seq : Nat) (s : State) : exec (.mldbAccept cid seq) s = execMldbAccept cid seq s := rfl
theorem exec_bankLoadComplete (grove core : Nat) (s : State) :
    exec (.bankLoadComplete grove core) s = execBankLoadComplete grove core s := rfl
theorem exec_matrixAccept (cid seq : Nat) (s : State) : exec (.matrixAccept cid seq) s = execMatrixAccept cid seq s := rfl
theorem exec_matrixStep (grove : Nat) (s : State) : exec (.matrixStep grove) s = execMatrixStep grove s := rfl
theorem exec_coopSlotClaim (grove core : Nat) (s : State) :
    exec (.coopSlotClaim grove core) s = execCoopSlotClaim grove core s := rfl
theorem exec_matrixMigration (grove core target bank : Nat) (s : State) :
    exec (.matrixMigration grove core target bank) s = execMatrixMigration grove core target bank s := rfl
theorem exec_migrationLoadComplete (target : Nat) (s : State) :
    exec (.migrationLoadComplete target) s = execMigrationLoadComplete target s := rfl
theorem exec_bankRestore (grove bank : Nat) (s : State) :
    exec (.bankRestore grove bank) s = execBankRestore grove bank s := rfl
theorem exec_haloPartSend (idx : Nat) (s : State) : exec (.haloPartSend idx) s = execHaloPartSend idx s := rfl
theorem exec_haloPartArrival (idx : Nat) (s : State) : exec (.haloPartArrival idx) s = execHaloPartArrival idx s := rfl
theorem exec_injectionSend (core idx : Nat) (s : State) :
    exec (.injectionSend core idx) s = execInjectionSend core idx s := rfl
theorem exec_fabricWriteArrival (p : FabSource) (s : State) :
    exec (.fabricWriteArrival p) s = execFabricWriteArrival p s := rfl
theorem exec_fabricAckArrival (a : FabAck) (s : State) : exec (.fabricAckArrival a) s = execFabricAckArrival a s := rfl
theorem exec_rateRecovery (core slot : Nat) (s : State) :
    exec (.rateRecovery core slot) s = execRateRecovery core slot s := rfl
theorem exec_retransmit (die dev seq port : Nat) (s : State) :
    exec (.retransmit die dev seq port) s = execRetransmit die dev seq port s := rfl
theorem exec_putStatusUnknown (die dev seq : Nat) (s : State) :
    exec (.putStatusUnknown die dev seq) s = execPutStatusUnknown die dev seq s := rfl
theorem exec_sequenceReportSend (die dev : Nat) (s : State) :
    exec (.sequenceReportSend die dev) s = execSequenceReportSend die dev s := rfl
theorem exec_sequenceReportArrival (port srcdie : Nat) (peer : PeerTag) (hi window : Nat) (s : State) :
    exec (.sequenceReportArrival port srcdie peer hi window) s = execSequenceReportArrival port srcdie peer hi window s := rfl
theorem exec_sequenceClose (die srcdie srcdev : Nat) (s : State) :
    exec (.sequenceClose die srcdie srcdev) s = execSequenceClose die srcdie srcdev s := rfl
theorem exec_creditUpdateSend (port : Nat) (s : State) :
    exec (.creditUpdateSend port) s = execCreditUpdateSend port s := rfl
theorem exec_creditUpdateArrival (port : Nat) (control : BitVec 32 × BitVec 32) (sent freed : Vector (BitVec 32) 3) (s : State) :
    exec (.creditUpdateArrival port control sent freed) s = execCreditUpdateArrival port control sent freed s := rfl
theorem exec_msgArrival (p : MsgSource) (s : State) : exec (.msgArrival p) s = execMsgArrival p s := rfl
theorem exec_msgRetry (core idx : Nat) (s : State) : exec (.msgRetry core idx) s = execMsgRetry core idx s := rfl
theorem exec_msgSilenceTimeout (die dev seq : Nat) (s : State) :
    exec (.msgSilenceTimeout die dev seq) s = execMsgSilenceTimeout die dev seq s := rfl
theorem exec_closeNoticeArrival (port srcdie : Nat) (peer : PeerTag) (seq : Nat) (s : State) :
    exec (.closeNoticeArrival port srcdie peer seq) s = execCloseNoticeArrival port srcdie peer seq s := rfl
theorem exec_getRequestServe (r : GetSource) (s : State) : exec (.getRequestServe r) s = execGetRequestServe r s := rfl
theorem exec_peerLinkLoss (dev : Nat) (s : State) : exec (.peerLinkLoss dev) s = execPeerLinkLoss dev s := rfl
theorem exec_peerRejoin (dev : Nat) (inc : BitVec 4) (s : State) :
    exec (.peerRejoin dev inc) s = execPeerRejoin dev inc s := rfl
theorem exec_portBringup (port : Nat) (ver : BitVec 8) (feat : BitVec 32) (win : Nat) (devid : BitVec 14) (s : State) :
    exec (.portBringup port ver feat win devid) s = execPortBringup port ver feat win devid s := rfl
theorem exec_clockDrift (die : Nat) (s : State) : exec (.clockDrift die) s = execClockDrift die s := rfl
theorem exec_ldcmdLoad (value : Word) (plan : LoadPlan) (s : State) :
    exec (.ldcmdLoad value plan) s = execLdcmdLoad value plan s := rfl
theorem exec_ldcmdRestore (value : Word) (ok : Bool) (s : State) :
    exec (.ldcmdRestore value ok) s = execLdcmdRestore value ok s := rfl
theorem exec_ckcmdCheckpoint (value : Word) (s : State) :
    exec (.ckcmdCheckpoint value) s = execCkcmdCheckpoint value s := rfl
theorem exec_checkpointBegin (s : State) : exec .checkpointBegin s = execCheckpointBegin s := rfl
theorem exec_checkpointQuiesced (s : State) : exec .checkpointQuiesced s = execCheckpointQuiesced s := rfl
theorem exec_checkpointStreamDone (s : State) : exec .checkpointStreamDone s = execCheckpointStreamDone s := rfl
theorem exec_attestation (value : Word) (s : State) : exec (.attestation value) s = execAttestation value s := rfl
theorem exec_mbverSelect (value : Word) (s : State) : exec (.mbverSelect value) s = execMbverSelect value s := rfl
theorem exec_fabwinWrite (value : Word) (s : State) : exec (.fabwinWrite value) s = execFabwinWrite value s := rfl
theorem exec_logCountClear (die : Nat) (log : LogKind) (s : State) :
    exec (.logCountClear die log) s = execLogCountClear die log s := rfl
theorem exec_killcntClear (die : Nat) (s : State) : exec (.killcntClear die) s = execKillcntClear die s := rfl
theorem exec_mcpop (die : Nat) (s : State) : exec (.mcpop die) s = execMcpop die s := rfl
theorem exec_registerWrite (die off : Nat) (value : Word) (s : State) :
    exec (.registerWrite die off value) s = execRegisterWrite die off value s := rfl
theorem exec_serviceMachineCheck (die : Nat) (s : State) :
    exec (.serviceMachineCheck die) s = execServiceMachineCheck die s := rfl
theorem exec_serviceInterrupt (die : Nat) (s : State) : exec (.serviceInterrupt die) s = execServiceInterrupt die s := rfl
theorem exec_powerOnReset (s : State) : exec .powerOnReset s = execPowerOnReset s := rfl
theorem exec_computeDieReset (s : State) : exec .computeDieReset s = execComputeDieReset s := rfl
theorem exec_portReset (port : Nat) (s : State) : exec (.portReset port) s = execPortReset port s := rfl
theorem exec_powerSample (watts : Nat) (s : State) : exec (.powerSample watts) s = execPowerSample watts s := rfl
theorem exec_clockStep (s : State) : exec .clockStep s = execClockStep s := rfl
theorem exec_thermalHold (s : State) : exec .thermalHold s = execThermalHold s := rfl
theorem exec_thermalTrip (s : State) : exec .thermalTrip s = execThermalTrip s := rfl
theorem exec_bootImageCheck (die : Nat) (image : List Byte) (s : State) :
    exec (.bootImageCheck die image) s = execBootImageCheck die image s := rfl
theorem exec_stagedImageCheck (die : Nat) (len : Nat) (s : State) :
    exec (.stagedImageCheck die len) s = execStagedImageCheck die len s := rfl
theorem exec_cxlMemAccess (a : HostAccess) (s : State) : exec (.cxlMemAccess a) s = execCxlMemAccess a s := rfl
theorem exec_cxlMemDuringReset (a : HostAccess) (s : State) :
    exec (.cxlMemDuringReset a) s = execCxlMemDuringReset a s := rfl
theorem exec_cxlCacheAccess (a : HostAccess) (s : State) : exec (.cxlCacheAccess a) s = execCxlCacheAccess a s := rfl
theorem exec_illegalInstruction (w : IllegalWord) (s : State) :
    exec (.illegalInstruction w) s = execIllegalInstruction w s := rfl
theorem exec_instructionFetchFault (code detail : Nat) (s : State) :
    exec (.instructionFetchFault code detail) s = execInstructionFetchFault code detail s := rfl
theorem exec_haloStallLimit (cid : Nat) (s : State) : exec (.haloStallLimit cid) s = execHaloStallLimit cid s := rfl
theorem exec_visibilityWindowBegin (s : State) : exec .visibilityWindowBegin s = execVisibilityWindowBegin s := rfl
theorem exec_clockDriftRecovery (s : State) : exec .clockDriftRecovery s = execClockDriftRecovery s := rfl
theorem exec_thermalHoldRelease (s : State) : exec .thermalHoldRelease s = execThermalHoldRelease s := rfl
theorem exec_tierIslandPowerLoss (die : Nat) (s : State) :
    exec (.tierIslandPowerLoss die) s = execTierIslandPowerLoss die s := rfl
theorem exec_portLinkFailure (port : Nat) (s : State) : exec (.portLinkFailure port) s = execPortLinkFailure port s := rfl

end Sys2Proof.Machine
end

