-- ==== Sys2Proof/Laws/Late.lean ====
section
/-! SUPPORT. What the decoder builds means what the instruction means. -/

namespace Sys2Proof.Machine

open Sys2Proof

theorem execLate_eq (l : LateInstr) (s : State) : execLate l s = exec l.instr s := by
  cases l <;> rfl

end Sys2Proof.Machine
end

