-- ==== Sys2Proof/Laws/Memory.lean ====
section
/-! SUPPORT. The laws of `Memory`: read after write, and that every operation keeps the canonical form. -/

namespace Sys2Proof.Machine

open Sys2Proof

/-- Every listed address is above a bound. -/
def Memory.Above (m : Memory) (a : Nat) : Prop := ∀ p ∈ m, a < p.1

theorem Memory.above_cons {a : Nat} {p : Host.Cell} {m : Memory} : Memory.Above (p :: m) a ↔ a < p.1 ∧ m.Above a := by
  simp [Memory.Above]

theorem Memory.above_trans {m : Memory} {a b : Nat} (h : m.Above b) (hab : a ≤ b) : m.Above a :=
  fun p hp => Nat.lt_of_le_of_lt hab (h p hp)

theorem Memory.wf_cons {a : Nat} {b : Byte} {m : Memory} :
    Memory.wf ((a, b) :: m) = true ↔ b ≠ unwritten ∧ m.Above a ∧ m.wf = true := by
  induction m generalizing a b with
  | nil => simp [Memory.wf, Memory.Above]
  | cons p rest ih =>
    simp only [Memory.wf, Bool.and_eq_true, bne_iff_ne, decide_eq_true_eq, Memory.above_cons, and_assoc]
    exact ⟨fun ⟨nz, lt, w⟩ => ⟨nz, lt, Memory.above_trans (ih.1 w).2.1 lt.le, w⟩, fun ⟨nz, lt, _, w⟩ => ⟨nz, lt, w⟩⟩

theorem Memory.read_above {m : Memory} {a : Nat} (h : m.Above a) : m.read a = unwritten := by
  induction m with
  | nil => rfl
  | cons p rest ih =>
    have lt := (Memory.above_cons.1 h).1
    rw [Memory.read, if_neg lt.ne', ih (Memory.above_cons.1 h).2]

theorem Memory.read_write {m : Memory} (h : m.wf = true) (a : Nat) (v : Byte) : (m.write a v).read a = v := by
  induction m with
  | nil => rw [Memory.write]; split_ifs with hv <;> simp [Memory.read, hv]
  | cons p rest ih =>
    obtain ⟨-, above, w⟩ := Memory.wf_cons.1 h
    rw [Memory.write]
    split_ifs with eq hv lt hv
    · rw [hv, Memory.read_above (eq ▸ above)]
    · rw [Memory.read, if_pos rfl]
    · rw [hv, Memory.read_above (Memory.above_cons.2 ⟨lt, Memory.above_trans above lt.le⟩)]
    · rw [Memory.read, if_pos rfl]
    · rw [Memory.read, if_neg eq, ih w]

theorem Memory.read_write_ne {m : Memory} {a c : Nat} (v : Byte) (h : m.wf = true) (hac : a ≠ c) :
    (m.write a v).read c = m.read c := by
  induction m with
  | nil => rw [Memory.write]; split_ifs <;> simp [Memory.read, hac]
  | cons p rest ih =>
    rw [Memory.write]
    split_ifs with eq <;> simp [Memory.read, hac, eq, ih (Memory.wf_cons.1 h).2.2]

theorem Memory.above_write {m : Memory} {a c : Nat} {v : Byte} (h : m.Above c) (hc : c < a) : (m.write a v).Above c := by
  induction m with
  | nil => rw [Memory.write]; split_ifs <;> simp [Memory.Above, hc]
  | cons p rest ih =>
    obtain ⟨lt, above⟩ := Memory.above_cons.1 h
    rw [Memory.write]
    split_ifs <;> simp only [Memory.above_cons, hc, lt, above, ih above, and_self]

theorem Memory.wf_write {m : Memory} (h : m.wf = true) (a : Nat) (v : Byte) : (m.write a v).wf = true := by
  induction m with
  | nil => rw [Memory.write]; split_ifs with hv <;> simp [Memory.wf, hv]
  | cons p rest ih =>
    obtain ⟨nz, above, w⟩ := Memory.wf_cons.1 h
    rw [Memory.write]
    split_ifs with eq hv lt hv
    · exact w
    · exact Memory.wf_cons.2 ⟨hv, eq ▸ above, w⟩
    · exact h
    · exact Memory.wf_cons.2 ⟨hv, Memory.above_cons.2 ⟨lt, Memory.above_trans above lt.le⟩, h⟩
    · exact Memory.wf_cons.2 ⟨nz, Memory.above_write above (by omega), ih w⟩

theorem Memory.wf_writes {m : Memory} (h : m.wf = true) (a : Nat) (bs : List Byte) : (m.writes a bs).wf = true := by
  induction bs generalizing m a with
  | nil => exact h
  | cons b rest ih => exact ih (Memory.wf_write h a b) (a + 1)

theorem Memory.read_writes_out {m : Memory} (h : m.wf = true) (a : Nat) (bs : List Byte) {c : Nat}
    (hc : c < a ∨ a + bs.length ≤ c) : (m.writes a bs).read c = m.read c := by
  induction bs generalizing m a with
  | nil => rfl
  | cons b rest ih =>
    have hn : (b :: rest).length = rest.length + 1 := rfl
    simp only [Memory.writes]
    rw [ih (Memory.wf_write h a b) (a + 1) (by omega), Memory.read_write_ne b h (by omega)]

theorem Memory.read_writes_in {m : Memory} (h : m.wf = true) (a : Nat) (bs : List Byte) {i : Nat} (hi : i < bs.length) :
    (m.writes a bs).read (a + i) = bs[i] := by
  induction bs generalizing m a i with
  | nil => simp at hi
  | cons b rest ih =>
    simp only [Memory.writes]
    cases i with
    | zero =>
      rw [Memory.read_writes_out (Memory.wf_write h a b) (a + 1) rest (by omega)]
      simpa using Memory.read_write h a b
    | succ i =>
      have hi' : i < rest.length := by simpa using hi
      have := ih (Memory.wf_write h a b) (a + 1) hi'
      rw [show a + (i + 1) = a + 1 + i by omega, this]
      rfl

theorem Memory.wf_filter {m : Memory} (h : m.wf = true) (p : Host.Cell → Bool) : Memory.wf (m.filter p) = true := by
  induction m with
  | nil => rfl
  | cons q rest ih =>
    obtain ⟨j, b⟩ := q
    obtain ⟨h1, h2, h3⟩ := Memory.wf_cons.1 h
    simp only [List.filter_cons]
    split
    · exact Memory.wf_cons.2 ⟨h1, fun r hr => h2 r (List.mem_of_mem_filter hr), ih h3⟩
    · exact ih h3

end Sys2Proof.Machine
end

