-- ==== Sys2Proof/Laws/Tab.lean ====
section
/-! SUPPORT. The laws of sparse tables: what a read gives after a write. -/

namespace Sys2Proof

@[simp] theorem Tab.get?_set {α : Type} (t : Tab α) (k : Nat) (v : α) : (t.set k v).get? k = some v := by
  induction t with
  | nil => simp [Tab.set, Tab.get?]
  | cons p rest ih =>
    rw [Tab.set]
    split_ifs with eq <;> simp [Tab.get?, eq, ih]

theorem Tab.get?_set_ne {α : Type} (t : Tab α) (v : α) {i j : Nat} (h : i ≠ j) : (t.set i v).get? j = t.get? j := by
  induction t with
  | nil => simp [Tab.set, Tab.get?, h]
  | cons p rest ih =>
    rw [Tab.set]
    split_ifs with eq <;> simp [Tab.get?, h, eq, ih]

end Sys2Proof
end

