-- ==== Sys2Proof/Laws/State.lean ====
section
/-! SUPPORT. What a write of one core, grove, die or context leaves as it was, field by field, and what it makes of that core, grove, die
or context: no later proof unfolds a record update. -/

namespace Sys2Proof.Machine

open Sys2Proof

@[simp] theorem State.setCore_agenda (s : State) (k : Nat) (v : Core) : (s.setCore k v).agenda = s.agenda := rfl
@[simp] theorem State.setCore_here (s : State) (k : Nat) (v : Core) : (s.setCore k v).here = s.here := rfl
@[simp] theorem State.setCore_stalled (s : State) (k : Nat) (v : Core) : (s.setCore k v).stalled = s.stalled := rfl
@[simp] theorem State.setCore_now (s : State) (k : Nat) (v : Core) : (s.setCore k v).now = s.now := rfl
@[simp] theorem State.setCore_ctxs (s : State) (k : Nat) (v : Core) : (s.setCore k v).ctxs = s.ctxs := rfl
@[simp] theorem State.setCore_cores (s : State) (k : Nat) (v : Core) : (s.setCore k v).cores = s.cores.set k v := rfl
@[simp] theorem State.setCore_groves (s : State) (k : Nat) (v : Core) : (s.setCore k v).groves = s.groves := rfl
@[simp] theorem State.setCore_dies (s : State) (k : Nat) (v : Core) : (s.setCore k v).dies = s.dies := rfl
@[simp] theorem State.setCore_dram (s : State) (k : Nat) (v : Core) : (s.setCore k v).dram = s.dram := rfl
@[simp] theorem State.setCore_slice (s : State) (k : Nat) (v : Core) : (s.setCore k v).slice = s.slice := rfl
@[simp] theorem State.setCore_ways (s : State) (k : Nat) (v : Core) : (s.setCore k v).ways = s.ways := rfl
@[simp] theorem State.setCore_proxies (s : State) (k : Nat) (v : Core) : (s.setCore k v).proxies = s.proxies := rfl
@[simp] theorem State.setCore_waiting (s : State) (k : Nat) (v : Core) : (s.setCore k v).waiting = s.waiting := rfl
@[simp] theorem State.setCore_records (s : State) (k : Nat) (v : Core) : (s.setCore k v).records = s.records := rfl
@[simp] theorem State.setCore_combine (s : State) (k : Nat) (v : Core) : (s.setCore k v).combine = s.combine := rfl
@[simp] theorem State.setCore_bad (s : State) (k : Nat) (v : Core) : (s.setCore k v).bad = s.bad := rfl
@[simp] theorem State.setCore_badSram (s : State) (k : Nat) (v : Core) : (s.setCore k v).badSram = s.badSram := rfl
@[simp] theorem State.setCore_ranges (s : State) (k : Nat) (v : Core) : (s.setCore k v).ranges = s.ranges := rfl
@[simp] theorem State.setCore_serial (s : State) (k : Nat) (v : Core) : (s.setCore k v).serial = s.serial := rfl
@[simp] theorem State.setCore_incumbents (s : State) (k : Nat) (v : Core) : (s.setCore k v).incumbents = s.incumbents := rfl
@[simp] theorem State.setCore_shadows (s : State) (k : Nat) (v : Core) : (s.setCore k v).shadows = s.shadows := rfl
@[simp] theorem State.setCore_groups (s : State) (k : Nat) (v : Core) : (s.setCore k v).groups = s.groups := rfl
@[simp] theorem State.setCore_dfrees (s : State) (k : Nat) (v : Core) : (s.setCore k v).dfrees = s.dfrees := rfl
@[simp] theorem State.setCore_dfreeSets (s : State) (k : Nat) (v : Core) : (s.setCore k v).dfreeSets = s.dfreeSets := rfl
@[simp] theorem State.setCore_invals (s : State) (k : Nat) (v : Core) : (s.setCore k v).invals = s.invals := rfl
@[simp] theorem State.setCore_spaces (s : State) (k : Nat) (v : Core) : (s.setCore k v).spaces = s.spaces := rfl
@[simp] theorem State.setCore_grids (s : State) (k : Nat) (v : Core) : (s.setCore k v).grids = s.grids := rfl
@[simp] theorem State.setCore_halos (s : State) (k : Nat) (v : Core) : (s.setCore k v).halos = s.halos := rfl
@[simp] theorem State.setCore_sync (s : State) (k : Nat) (v : Core) : (s.setCore k v).sync = s.sync := rfl
@[simp] theorem State.setCore_fabwin (s : State) (k : Nat) (v : Core) : (s.setCore k v).fabwin = s.fabwin := rfl
@[simp] theorem State.setCore_xfers (s : State) (k : Nat) (v : Core) : (s.setCore k v).xfers = s.xfers := rfl
@[simp] theorem State.setCore_packets (s : State) (k : Nat) (v : Core) : (s.setCore k v).packets = s.packets := rfl
@[simp] theorem State.setCore_gets (s : State) (k : Nat) (v : Core) : (s.setCore k v).gets = s.gets := rfl
@[simp] theorem State.setCore_msgs (s : State) (k : Nat) (v : Core) : (s.setCore k v).msgs = s.msgs := rfl
@[simp] theorem State.setCore_answers (s : State) (k : Nat) (v : Core) : (s.setCore k v).answers = s.answers := rfl
@[simp] theorem State.setCore_reports (s : State) (k : Nat) (v : Core) : (s.setCore k v).reports = s.reports := rfl
@[simp] theorem State.setCore_sends (s : State) (k : Nat) (v : Core) : (s.setCore k v).sends = s.sends := rfl
@[simp] theorem State.setCore_recvs (s : State) (k : Nat) (v : Core) : (s.setCore k v).recvs = s.recvs := rfl
@[simp] theorem State.setCore_msgRecvs (s : State) (k : Nat) (v : Core) : (s.setCore k v).msgRecvs = s.msgRecvs := rfl
@[simp] theorem State.setCore_ports (s : State) (k : Nat) (v : Core) : (s.setCore k v).ports = s.ports := rfl
@[simp] theorem State.setCore_peers (s : State) (k : Nat) (v : Core) : (s.setCore k v).peers = s.peers := rfl
@[simp] theorem State.setCore_linked (s : State) (k : Nat) (v : Core) : (s.setCore k v).linked = s.linked := rfl
@[simp] theorem State.setCore_ptroot (s : State) (k : Nat) (v : Core) : (s.setCore k v).ptroot = s.ptroot := rfl
@[simp] theorem State.setCore_rasid (s : State) (k : Nat) (v : Core) : (s.setCore k v).rasid = s.rasid := rfl
@[simp] theorem State.setCore_devid (s : State) (k : Nat) (v : Core) : (s.setCore k v).devid = s.devid := rfl
@[simp] theorem State.setCore_incarnation (s : State) (k : Nat) (v : Core) : (s.setCore k v).incarnation = s.incarnation := rfl
@[simp] theorem State.setCore_mboxes (s : State) (k : Nat) (v : Core) : (s.setCore k v).mboxes = s.mboxes := rfl
@[simp] theorem State.setCore_ldcmd (s : State) (k : Nat) (v : Core) : (s.setCore k v).ldcmd = s.ldcmd := rfl
@[simp] theorem State.setCore_ldsts (s : State) (k : Nat) (v : Core) : (s.setCore k v).ldsts = s.ldsts := rfl
@[simp] theorem State.setCore_ckcmd (s : State) (k : Nat) (v : Core) : (s.setCore k v).ckcmd = s.ckcmd := rfl
@[simp] theorem State.setCore_cksts (s : State) (k : Nat) (v : Core) : (s.setCore k v).cksts = s.cksts := rfl
@[simp] theorem State.setCore_mbsel (s : State) (k : Nat) (v : Core) : (s.setCore k v).mbsel = s.mbsel := rfl
@[simp] theorem State.setCore_attcmd (s : State) (k : Nat) (v : Core) : (s.setCore k v).attcmd = s.attcmd := rfl
@[simp] theorem State.setCore_watts (s : State) (k : Nat) (v : Core) : (s.setCore k v).watts = s.watts := rfl
@[simp] theorem State.setCore_clk (s : State) (k : Nat) (v : Core) : (s.setCore k v).clk = s.clk := rfl
@[simp] theorem State.setCore_hot (s : State) (k : Nat) (v : Core) : (s.setCore k v).hot = s.hot := rfl
@[simp] theorem State.setCore_staging (s : State) (k : Nat) (v : Core) : (s.setCore k v).staging = s.staging := rfl
@[simp] theorem State.setCore_saves (s : State) (k : Nat) (v : Core) : (s.setCore k v).saves = s.saves := rfl
@[simp] theorem State.setCore_ckPhase (s : State) (k : Nat) (v : Core) : (s.setCore k v).ckPhase = s.ckPhase := rfl
@[simp] theorem State.setCore_ckStep (s : State) (k : Nat) (v : Core) : (s.setCore k v).ckStep = s.ckStep := rfl
@[simp] theorem State.setCore_digest (s : State) (k : Nat) (v : Core) : (s.setCore k v).digest = s.digest := rfl
@[simp] theorem State.setCore_samples (s : State) (k : Nat) (v : Core) : (s.setCore k v).samples = s.samples := rfl
@[simp] theorem State.setCore_clkAt (s : State) (k : Nat) (v : Core) : (s.setCore k v).clkAt = s.clkAt := rfl
@[simp] theorem State.setCore_ckReq (s : State) (k : Nat) (v : Core) : (s.setCore k v).ckReq = s.ckReq := rfl
@[simp] theorem State.setCore_ckHit (s : State) (k : Nat) (v : Core) : (s.setCore k v).ckHit = s.ckHit := rfl
@[simp] theorem State.setCore_tierSelf (s : State) (k : Nat) (v : Core) : (s.setCore k v).tierSelf = s.tierSelf := rfl
@[simp] theorem State.setCore_tierPower (s : State) (k : Nat) (v : Core) : (s.setCore k v).tierPower = s.tierPower := rfl

@[simp] theorem State.setGrove_agenda (s : State) (g : Nat) (v : Grove) : (s.setGrove g v).agenda = s.agenda := rfl
@[simp] theorem State.setGrove_here (s : State) (g : Nat) (v : Grove) : (s.setGrove g v).here = s.here := rfl
@[simp] theorem State.setGrove_stalled (s : State) (g : Nat) (v : Grove) : (s.setGrove g v).stalled = s.stalled := rfl
@[simp] theorem State.setGrove_now (s : State) (g : Nat) (v : Grove) : (s.setGrove g v).now = s.now := rfl
@[simp] theorem State.setGrove_ctxs (s : State) (g : Nat) (v : Grove) : (s.setGrove g v).ctxs = s.ctxs := rfl
@[simp] theorem State.setGrove_cores (s : State) (g : Nat) (v : Grove) : (s.setGrove g v).cores = s.cores := rfl
@[simp] theorem State.setGrove_groves (s : State) (g : Nat) (v : Grove) : (s.setGrove g v).groves = s.groves.set g v := rfl
@[simp] theorem State.setGrove_dies (s : State) (g : Nat) (v : Grove) : (s.setGrove g v).dies = s.dies := rfl
@[simp] theorem State.setGrove_dram (s : State) (g : Nat) (v : Grove) : (s.setGrove g v).dram = s.dram := rfl
@[simp] theorem State.setGrove_slice (s : State) (g : Nat) (v : Grove) : (s.setGrove g v).slice = s.slice := rfl
@[simp] theorem State.setGrove_ways (s : State) (g : Nat) (v : Grove) : (s.setGrove g v).ways = s.ways := rfl
@[simp] theorem State.setGrove_proxies (s : State) (g : Nat) (v : Grove) : (s.setGrove g v).proxies = s.proxies := rfl
@[simp] theorem State.setGrove_waiting (s : State) (g : Nat) (v : Grove) : (s.setGrove g v).waiting = s.waiting := rfl
@[simp] theorem State.setGrove_records (s : State) (g : Nat) (v : Grove) : (s.setGrove g v).records = s.records := rfl
@[simp] theorem State.setGrove_combine (s : State) (g : Nat) (v : Grove) : (s.setGrove g v).combine = s.combine := rfl
@[simp] theorem State.setGrove_bad (s : State) (g : Nat) (v : Grove) : (s.setGrove g v).bad = s.bad := rfl
@[simp] theorem State.setGrove_badSram (s : State) (g : Nat) (v : Grove) : (s.setGrove g v).badSram = s.badSram := rfl
@[simp] theorem State.setGrove_ranges (s : State) (g : Nat) (v : Grove) : (s.setGrove g v).ranges = s.ranges := rfl
@[simp] theorem State.setGrove_serial (s : State) (g : Nat) (v : Grove) : (s.setGrove g v).serial = s.serial := rfl
@[simp] theorem State.setGrove_incumbents (s : State) (g : Nat) (v : Grove) : (s.setGrove g v).incumbents = s.incumbents := rfl
@[simp] theorem State.setGrove_shadows (s : State) (g : Nat) (v : Grove) : (s.setGrove g v).shadows = s.shadows := rfl
@[simp] theorem State.setGrove_groups (s : State) (g : Nat) (v : Grove) : (s.setGrove g v).groups = s.groups := rfl
@[simp] theorem State.setGrove_dfrees (s : State) (g : Nat) (v : Grove) : (s.setGrove g v).dfrees = s.dfrees := rfl
@[simp] theorem State.setGrove_dfreeSets (s : State) (g : Nat) (v : Grove) : (s.setGrove g v).dfreeSets = s.dfreeSets := rfl
@[simp] theorem State.setGrove_invals (s : State) (g : Nat) (v : Grove) : (s.setGrove g v).invals = s.invals := rfl
@[simp] theorem State.setGrove_spaces (s : State) (g : Nat) (v : Grove) : (s.setGrove g v).spaces = s.spaces := rfl
@[simp] theorem State.setGrove_grids (s : State) (g : Nat) (v : Grove) : (s.setGrove g v).grids = s.grids := rfl
@[simp] theorem State.setGrove_halos (s : State) (g : Nat) (v : Grove) : (s.setGrove g v).halos = s.halos := rfl
@[simp] theorem State.setGrove_sync (s : State) (g : Nat) (v : Grove) : (s.setGrove g v).sync = s.sync := rfl
@[simp] theorem State.setGrove_fabwin (s : State) (g : Nat) (v : Grove) : (s.setGrove g v).fabwin = s.fabwin := rfl
@[simp] theorem State.setGrove_xfers (s : State) (g : Nat) (v : Grove) : (s.setGrove g v).xfers = s.xfers := rfl
@[simp] theorem State.setGrove_packets (s : State) (g : Nat) (v : Grove) : (s.setGrove g v).packets = s.packets := rfl
@[simp] theorem State.setGrove_gets (s : State) (g : Nat) (v : Grove) : (s.setGrove g v).gets = s.gets := rfl
@[simp] theorem State.setGrove_msgs (s : State) (g : Nat) (v : Grove) : (s.setGrove g v).msgs = s.msgs := rfl
@[simp] theorem State.setGrove_answers (s : State) (g : Nat) (v : Grove) : (s.setGrove g v).answers = s.answers := rfl
@[simp] theorem State.setGrove_reports (s : State) (g : Nat) (v : Grove) : (s.setGrove g v).reports = s.reports := rfl
@[simp] theorem State.setGrove_sends (s : State) (g : Nat) (v : Grove) : (s.setGrove g v).sends = s.sends := rfl
@[simp] theorem State.setGrove_recvs (s : State) (g : Nat) (v : Grove) : (s.setGrove g v).recvs = s.recvs := rfl
@[simp] theorem State.setGrove_msgRecvs (s : State) (g : Nat) (v : Grove) : (s.setGrove g v).msgRecvs = s.msgRecvs := rfl
@[simp] theorem State.setGrove_ports (s : State) (g : Nat) (v : Grove) : (s.setGrove g v).ports = s.ports := rfl
@[simp] theorem State.setGrove_peers (s : State) (g : Nat) (v : Grove) : (s.setGrove g v).peers = s.peers := rfl
@[simp] theorem State.setGrove_linked (s : State) (g : Nat) (v : Grove) : (s.setGrove g v).linked = s.linked := rfl
@[simp] theorem State.setGrove_ptroot (s : State) (g : Nat) (v : Grove) : (s.setGrove g v).ptroot = s.ptroot := rfl
@[simp] theorem State.setGrove_rasid (s : State) (g : Nat) (v : Grove) : (s.setGrove g v).rasid = s.rasid := rfl
@[simp] theorem State.setGrove_devid (s : State) (g : Nat) (v : Grove) : (s.setGrove g v).devid = s.devid := rfl
@[simp] theorem State.setGrove_incarnation (s : State) (g : Nat) (v : Grove) : (s.setGrove g v).incarnation = s.incarnation := rfl
@[simp] theorem State.setGrove_mboxes (s : State) (g : Nat) (v : Grove) : (s.setGrove g v).mboxes = s.mboxes := rfl
@[simp] theorem State.setGrove_ldcmd (s : State) (g : Nat) (v : Grove) : (s.setGrove g v).ldcmd = s.ldcmd := rfl
@[simp] theorem State.setGrove_ldsts (s : State) (g : Nat) (v : Grove) : (s.setGrove g v).ldsts = s.ldsts := rfl
@[simp] theorem State.setGrove_ckcmd (s : State) (g : Nat) (v : Grove) : (s.setGrove g v).ckcmd = s.ckcmd := rfl
@[simp] theorem State.setGrove_cksts (s : State) (g : Nat) (v : Grove) : (s.setGrove g v).cksts = s.cksts := rfl
@[simp] theorem State.setGrove_mbsel (s : State) (g : Nat) (v : Grove) : (s.setGrove g v).mbsel = s.mbsel := rfl
@[simp] theorem State.setGrove_attcmd (s : State) (g : Nat) (v : Grove) : (s.setGrove g v).attcmd = s.attcmd := rfl
@[simp] theorem State.setGrove_watts (s : State) (g : Nat) (v : Grove) : (s.setGrove g v).watts = s.watts := rfl
@[simp] theorem State.setGrove_clk (s : State) (g : Nat) (v : Grove) : (s.setGrove g v).clk = s.clk := rfl
@[simp] theorem State.setGrove_hot (s : State) (g : Nat) (v : Grove) : (s.setGrove g v).hot = s.hot := rfl
@[simp] theorem State.setGrove_staging (s : State) (g : Nat) (v : Grove) : (s.setGrove g v).staging = s.staging := rfl
@[simp] theorem State.setGrove_saves (s : State) (g : Nat) (v : Grove) : (s.setGrove g v).saves = s.saves := rfl
@[simp] theorem State.setGrove_ckPhase (s : State) (g : Nat) (v : Grove) : (s.setGrove g v).ckPhase = s.ckPhase := rfl
@[simp] theorem State.setGrove_ckStep (s : State) (g : Nat) (v : Grove) : (s.setGrove g v).ckStep = s.ckStep := rfl
@[simp] theorem State.setGrove_digest (s : State) (g : Nat) (v : Grove) : (s.setGrove g v).digest = s.digest := rfl
@[simp] theorem State.setGrove_samples (s : State) (g : Nat) (v : Grove) : (s.setGrove g v).samples = s.samples := rfl
@[simp] theorem State.setGrove_clkAt (s : State) (g : Nat) (v : Grove) : (s.setGrove g v).clkAt = s.clkAt := rfl
@[simp] theorem State.setGrove_ckReq (s : State) (g : Nat) (v : Grove) : (s.setGrove g v).ckReq = s.ckReq := rfl
@[simp] theorem State.setGrove_ckHit (s : State) (g : Nat) (v : Grove) : (s.setGrove g v).ckHit = s.ckHit := rfl
@[simp] theorem State.setGrove_tierSelf (s : State) (g : Nat) (v : Grove) : (s.setGrove g v).tierSelf = s.tierSelf := rfl
@[simp] theorem State.setGrove_tierPower (s : State) (g : Nat) (v : Grove) : (s.setGrove g v).tierPower = s.tierPower := rfl

@[simp] theorem State.setDie_agenda (s : State) (d : Nat) (v : Die) : (s.setDie d v).agenda = s.agenda := rfl
@[simp] theorem State.setDie_here (s : State) (d : Nat) (v : Die) : (s.setDie d v).here = s.here := rfl
@[simp] theorem State.setDie_stalled (s : State) (d : Nat) (v : Die) : (s.setDie d v).stalled = s.stalled := rfl
@[simp] theorem State.setDie_now (s : State) (d : Nat) (v : Die) : (s.setDie d v).now = s.now := rfl
@[simp] theorem State.setDie_ctxs (s : State) (d : Nat) (v : Die) : (s.setDie d v).ctxs = s.ctxs := rfl
@[simp] theorem State.setDie_cores (s : State) (d : Nat) (v : Die) : (s.setDie d v).cores = s.cores := rfl
@[simp] theorem State.setDie_groves (s : State) (d : Nat) (v : Die) : (s.setDie d v).groves = s.groves := rfl
@[simp] theorem State.setDie_dies (s : State) (d : Nat) (v : Die) : (s.setDie d v).dies = s.dies.set d v := rfl
@[simp] theorem State.setDie_dram (s : State) (d : Nat) (v : Die) : (s.setDie d v).dram = s.dram := rfl
@[simp] theorem State.setDie_slice (s : State) (d : Nat) (v : Die) : (s.setDie d v).slice = s.slice := rfl
@[simp] theorem State.setDie_ways (s : State) (d : Nat) (v : Die) : (s.setDie d v).ways = s.ways := rfl
@[simp] theorem State.setDie_proxies (s : State) (d : Nat) (v : Die) : (s.setDie d v).proxies = s.proxies := rfl
@[simp] theorem State.setDie_waiting (s : State) (d : Nat) (v : Die) : (s.setDie d v).waiting = s.waiting := rfl
@[simp] theorem State.setDie_records (s : State) (d : Nat) (v : Die) : (s.setDie d v).records = s.records := rfl
@[simp] theorem State.setDie_combine (s : State) (d : Nat) (v : Die) : (s.setDie d v).combine = s.combine := rfl
@[simp] theorem State.setDie_bad (s : State) (d : Nat) (v : Die) : (s.setDie d v).bad = s.bad := rfl
@[simp] theorem State.setDie_badSram (s : State) (d : Nat) (v : Die) : (s.setDie d v).badSram = s.badSram := rfl
@[simp] theorem State.setDie_ranges (s : State) (d : Nat) (v : Die) : (s.setDie d v).ranges = s.ranges := rfl
@[simp] theorem State.setDie_serial (s : State) (d : Nat) (v : Die) : (s.setDie d v).serial = s.serial := rfl
@[simp] theorem State.setDie_incumbents (s : State) (d : Nat) (v : Die) : (s.setDie d v).incumbents = s.incumbents := rfl
@[simp] theorem State.setDie_shadows (s : State) (d : Nat) (v : Die) : (s.setDie d v).shadows = s.shadows := rfl
@[simp] theorem State.setDie_groups (s : State) (d : Nat) (v : Die) : (s.setDie d v).groups = s.groups := rfl
@[simp] theorem State.setDie_dfrees (s : State) (d : Nat) (v : Die) : (s.setDie d v).dfrees = s.dfrees := rfl
@[simp] theorem State.setDie_dfreeSets (s : State) (d : Nat) (v : Die) : (s.setDie d v).dfreeSets = s.dfreeSets := rfl
@[simp] theorem State.setDie_invals (s : State) (d : Nat) (v : Die) : (s.setDie d v).invals = s.invals := rfl
@[simp] theorem State.setDie_spaces (s : State) (d : Nat) (v : Die) : (s.setDie d v).spaces = s.spaces := rfl
@[simp] theorem State.setDie_grids (s : State) (d : Nat) (v : Die) : (s.setDie d v).grids = s.grids := rfl
@[simp] theorem State.setDie_halos (s : State) (d : Nat) (v : Die) : (s.setDie d v).halos = s.halos := rfl
@[simp] theorem State.setDie_sync (s : State) (d : Nat) (v : Die) : (s.setDie d v).sync = s.sync := rfl
@[simp] theorem State.setDie_fabwin (s : State) (d : Nat) (v : Die) : (s.setDie d v).fabwin = s.fabwin := rfl
@[simp] theorem State.setDie_xfers (s : State) (d : Nat) (v : Die) : (s.setDie d v).xfers = s.xfers := rfl
@[simp] theorem State.setDie_packets (s : State) (d : Nat) (v : Die) : (s.setDie d v).packets = s.packets := rfl
@[simp] theorem State.setDie_gets (s : State) (d : Nat) (v : Die) : (s.setDie d v).gets = s.gets := rfl
@[simp] theorem State.setDie_msgs (s : State) (d : Nat) (v : Die) : (s.setDie d v).msgs = s.msgs := rfl
@[simp] theorem State.setDie_answers (s : State) (d : Nat) (v : Die) : (s.setDie d v).answers = s.answers := rfl
@[simp] theorem State.setDie_reports (s : State) (d : Nat) (v : Die) : (s.setDie d v).reports = s.reports := rfl
@[simp] theorem State.setDie_sends (s : State) (d : Nat) (v : Die) : (s.setDie d v).sends = s.sends := rfl
@[simp] theorem State.setDie_recvs (s : State) (d : Nat) (v : Die) : (s.setDie d v).recvs = s.recvs := rfl
@[simp] theorem State.setDie_msgRecvs (s : State) (d : Nat) (v : Die) : (s.setDie d v).msgRecvs = s.msgRecvs := rfl
@[simp] theorem State.setDie_ports (s : State) (d : Nat) (v : Die) : (s.setDie d v).ports = s.ports := rfl
@[simp] theorem State.setDie_peers (s : State) (d : Nat) (v : Die) : (s.setDie d v).peers = s.peers := rfl
@[simp] theorem State.setDie_linked (s : State) (d : Nat) (v : Die) : (s.setDie d v).linked = s.linked := rfl
@[simp] theorem State.setDie_ptroot (s : State) (d : Nat) (v : Die) : (s.setDie d v).ptroot = s.ptroot := rfl
@[simp] theorem State.setDie_rasid (s : State) (d : Nat) (v : Die) : (s.setDie d v).rasid = s.rasid := rfl
@[simp] theorem State.setDie_devid (s : State) (d : Nat) (v : Die) : (s.setDie d v).devid = s.devid := rfl
@[simp] theorem State.setDie_incarnation (s : State) (d : Nat) (v : Die) : (s.setDie d v).incarnation = s.incarnation := rfl
@[simp] theorem State.setDie_mboxes (s : State) (d : Nat) (v : Die) : (s.setDie d v).mboxes = s.mboxes := rfl
@[simp] theorem State.setDie_ldcmd (s : State) (d : Nat) (v : Die) : (s.setDie d v).ldcmd = s.ldcmd := rfl
@[simp] theorem State.setDie_ldsts (s : State) (d : Nat) (v : Die) : (s.setDie d v).ldsts = s.ldsts := rfl
@[simp] theorem State.setDie_ckcmd (s : State) (d : Nat) (v : Die) : (s.setDie d v).ckcmd = s.ckcmd := rfl
@[simp] theorem State.setDie_cksts (s : State) (d : Nat) (v : Die) : (s.setDie d v).cksts = s.cksts := rfl
@[simp] theorem State.setDie_mbsel (s : State) (d : Nat) (v : Die) : (s.setDie d v).mbsel = s.mbsel := rfl
@[simp] theorem State.setDie_attcmd (s : State) (d : Nat) (v : Die) : (s.setDie d v).attcmd = s.attcmd := rfl
@[simp] theorem State.setDie_watts (s : State) (d : Nat) (v : Die) : (s.setDie d v).watts = s.watts := rfl
@[simp] theorem State.setDie_clk (s : State) (d : Nat) (v : Die) : (s.setDie d v).clk = s.clk := rfl
@[simp] theorem State.setDie_hot (s : State) (d : Nat) (v : Die) : (s.setDie d v).hot = s.hot := rfl
@[simp] theorem State.setDie_staging (s : State) (d : Nat) (v : Die) : (s.setDie d v).staging = s.staging := rfl
@[simp] theorem State.setDie_saves (s : State) (d : Nat) (v : Die) : (s.setDie d v).saves = s.saves := rfl
@[simp] theorem State.setDie_ckPhase (s : State) (d : Nat) (v : Die) : (s.setDie d v).ckPhase = s.ckPhase := rfl
@[simp] theorem State.setDie_ckStep (s : State) (d : Nat) (v : Die) : (s.setDie d v).ckStep = s.ckStep := rfl
@[simp] theorem State.setDie_digest (s : State) (d : Nat) (v : Die) : (s.setDie d v).digest = s.digest := rfl
@[simp] theorem State.setDie_samples (s : State) (d : Nat) (v : Die) : (s.setDie d v).samples = s.samples := rfl
@[simp] theorem State.setDie_clkAt (s : State) (d : Nat) (v : Die) : (s.setDie d v).clkAt = s.clkAt := rfl
@[simp] theorem State.setDie_ckReq (s : State) (d : Nat) (v : Die) : (s.setDie d v).ckReq = s.ckReq := rfl
@[simp] theorem State.setDie_ckHit (s : State) (d : Nat) (v : Die) : (s.setDie d v).ckHit = s.ckHit := rfl
@[simp] theorem State.setDie_tierSelf (s : State) (d : Nat) (v : Die) : (s.setDie d v).tierSelf = s.tierSelf := rfl
@[simp] theorem State.setDie_tierPower (s : State) (d : Nat) (v : Die) : (s.setDie d v).tierPower = s.tierPower := rfl

@[simp] theorem State.setCtx_agenda (s : State) (cid : Nat) (v : Ctx) : (s.setCtx cid v).agenda = s.agenda := rfl
@[simp] theorem State.setCtx_here (s : State) (cid : Nat) (v : Ctx) : (s.setCtx cid v).here = s.here := rfl
@[simp] theorem State.setCtx_stalled (s : State) (cid : Nat) (v : Ctx) : (s.setCtx cid v).stalled = s.stalled := rfl
@[simp] theorem State.setCtx_now (s : State) (cid : Nat) (v : Ctx) : (s.setCtx cid v).now = s.now := rfl
@[simp] theorem State.setCtx_ctxs (s : State) (cid : Nat) (v : Ctx) : (s.setCtx cid v).ctxs = s.ctxs.set cid v := rfl
@[simp] theorem State.setCtx_cores (s : State) (cid : Nat) (v : Ctx) : (s.setCtx cid v).cores = s.cores := rfl
@[simp] theorem State.setCtx_groves (s : State) (cid : Nat) (v : Ctx) : (s.setCtx cid v).groves = s.groves := rfl
@[simp] theorem State.setCtx_dies (s : State) (cid : Nat) (v : Ctx) : (s.setCtx cid v).dies = s.dies := rfl
@[simp] theorem State.setCtx_dram (s : State) (cid : Nat) (v : Ctx) : (s.setCtx cid v).dram = s.dram := rfl
@[simp] theorem State.setCtx_slice (s : State) (cid : Nat) (v : Ctx) : (s.setCtx cid v).slice = s.slice := rfl
@[simp] theorem State.setCtx_ways (s : State) (cid : Nat) (v : Ctx) : (s.setCtx cid v).ways = s.ways := rfl
@[simp] theorem State.setCtx_proxies (s : State) (cid : Nat) (v : Ctx) : (s.setCtx cid v).proxies = s.proxies := rfl
@[simp] theorem State.setCtx_waiting (s : State) (cid : Nat) (v : Ctx) : (s.setCtx cid v).waiting = s.waiting := rfl
@[simp] theorem State.setCtx_records (s : State) (cid : Nat) (v : Ctx) : (s.setCtx cid v).records = s.records := rfl
@[simp] theorem State.setCtx_combine (s : State) (cid : Nat) (v : Ctx) : (s.setCtx cid v).combine = s.combine := rfl
@[simp] theorem State.setCtx_bad (s : State) (cid : Nat) (v : Ctx) : (s.setCtx cid v).bad = s.bad := rfl
@[simp] theorem State.setCtx_badSram (s : State) (cid : Nat) (v : Ctx) : (s.setCtx cid v).badSram = s.badSram := rfl
@[simp] theorem State.setCtx_ranges (s : State) (cid : Nat) (v : Ctx) : (s.setCtx cid v).ranges = s.ranges := rfl
@[simp] theorem State.setCtx_serial (s : State) (cid : Nat) (v : Ctx) : (s.setCtx cid v).serial = s.serial := rfl
@[simp] theorem State.setCtx_incumbents (s : State) (cid : Nat) (v : Ctx) : (s.setCtx cid v).incumbents = s.incumbents := rfl
@[simp] theorem State.setCtx_shadows (s : State) (cid : Nat) (v : Ctx) : (s.setCtx cid v).shadows = s.shadows := rfl
@[simp] theorem State.setCtx_groups (s : State) (cid : Nat) (v : Ctx) : (s.setCtx cid v).groups = s.groups := rfl
@[simp] theorem State.setCtx_dfrees (s : State) (cid : Nat) (v : Ctx) : (s.setCtx cid v).dfrees = s.dfrees := rfl
@[simp] theorem State.setCtx_dfreeSets (s : State) (cid : Nat) (v : Ctx) : (s.setCtx cid v).dfreeSets = s.dfreeSets := rfl
@[simp] theorem State.setCtx_invals (s : State) (cid : Nat) (v : Ctx) : (s.setCtx cid v).invals = s.invals := rfl
@[simp] theorem State.setCtx_spaces (s : State) (cid : Nat) (v : Ctx) : (s.setCtx cid v).spaces = s.spaces := rfl
@[simp] theorem State.setCtx_grids (s : State) (cid : Nat) (v : Ctx) : (s.setCtx cid v).grids = s.grids := rfl
@[simp] theorem State.setCtx_halos (s : State) (cid : Nat) (v : Ctx) : (s.setCtx cid v).halos = s.halos := rfl
@[simp] theorem State.setCtx_sync (s : State) (cid : Nat) (v : Ctx) : (s.setCtx cid v).sync = s.sync := rfl
@[simp] theorem State.setCtx_fabwin (s : State) (cid : Nat) (v : Ctx) : (s.setCtx cid v).fabwin = s.fabwin := rfl
@[simp] theorem State.setCtx_xfers (s : State) (cid : Nat) (v : Ctx) : (s.setCtx cid v).xfers = s.xfers := rfl
@[simp] theorem State.setCtx_packets (s : State) (cid : Nat) (v : Ctx) : (s.setCtx cid v).packets = s.packets := rfl
@[simp] theorem State.setCtx_gets (s : State) (cid : Nat) (v : Ctx) : (s.setCtx cid v).gets = s.gets := rfl
@[simp] theorem State.setCtx_msgs (s : State) (cid : Nat) (v : Ctx) : (s.setCtx cid v).msgs = s.msgs := rfl
@[simp] theorem State.setCtx_answers (s : State) (cid : Nat) (v : Ctx) : (s.setCtx cid v).answers = s.answers := rfl
@[simp] theorem State.setCtx_reports (s : State) (cid : Nat) (v : Ctx) : (s.setCtx cid v).reports = s.reports := rfl
@[simp] theorem State.setCtx_sends (s : State) (cid : Nat) (v : Ctx) : (s.setCtx cid v).sends = s.sends := rfl
@[simp] theorem State.setCtx_recvs (s : State) (cid : Nat) (v : Ctx) : (s.setCtx cid v).recvs = s.recvs := rfl
@[simp] theorem State.setCtx_msgRecvs (s : State) (cid : Nat) (v : Ctx) : (s.setCtx cid v).msgRecvs = s.msgRecvs := rfl
@[simp] theorem State.setCtx_ports (s : State) (cid : Nat) (v : Ctx) : (s.setCtx cid v).ports = s.ports := rfl
@[simp] theorem State.setCtx_peers (s : State) (cid : Nat) (v : Ctx) : (s.setCtx cid v).peers = s.peers := rfl
@[simp] theorem State.setCtx_linked (s : State) (cid : Nat) (v : Ctx) : (s.setCtx cid v).linked = s.linked := rfl
@[simp] theorem State.setCtx_ptroot (s : State) (cid : Nat) (v : Ctx) : (s.setCtx cid v).ptroot = s.ptroot := rfl
@[simp] theorem State.setCtx_rasid (s : State) (cid : Nat) (v : Ctx) : (s.setCtx cid v).rasid = s.rasid := rfl
@[simp] theorem State.setCtx_devid (s : State) (cid : Nat) (v : Ctx) : (s.setCtx cid v).devid = s.devid := rfl
@[simp] theorem State.setCtx_incarnation (s : State) (cid : Nat) (v : Ctx) : (s.setCtx cid v).incarnation = s.incarnation := rfl
@[simp] theorem State.setCtx_mboxes (s : State) (cid : Nat) (v : Ctx) : (s.setCtx cid v).mboxes = s.mboxes := rfl
@[simp] theorem State.setCtx_ldcmd (s : State) (cid : Nat) (v : Ctx) : (s.setCtx cid v).ldcmd = s.ldcmd := rfl
@[simp] theorem State.setCtx_ldsts (s : State) (cid : Nat) (v : Ctx) : (s.setCtx cid v).ldsts = s.ldsts := rfl
@[simp] theorem State.setCtx_ckcmd (s : State) (cid : Nat) (v : Ctx) : (s.setCtx cid v).ckcmd = s.ckcmd := rfl
@[simp] theorem State.setCtx_cksts (s : State) (cid : Nat) (v : Ctx) : (s.setCtx cid v).cksts = s.cksts := rfl
@[simp] theorem State.setCtx_mbsel (s : State) (cid : Nat) (v : Ctx) : (s.setCtx cid v).mbsel = s.mbsel := rfl
@[simp] theorem State.setCtx_attcmd (s : State) (cid : Nat) (v : Ctx) : (s.setCtx cid v).attcmd = s.attcmd := rfl
@[simp] theorem State.setCtx_watts (s : State) (cid : Nat) (v : Ctx) : (s.setCtx cid v).watts = s.watts := rfl
@[simp] theorem State.setCtx_clk (s : State) (cid : Nat) (v : Ctx) : (s.setCtx cid v).clk = s.clk := rfl
@[simp] theorem State.setCtx_hot (s : State) (cid : Nat) (v : Ctx) : (s.setCtx cid v).hot = s.hot := rfl
@[simp] theorem State.setCtx_staging (s : State) (cid : Nat) (v : Ctx) : (s.setCtx cid v).staging = s.staging := rfl
@[simp] theorem State.setCtx_saves (s : State) (cid : Nat) (v : Ctx) : (s.setCtx cid v).saves = s.saves := rfl
@[simp] theorem State.setCtx_ckPhase (s : State) (cid : Nat) (v : Ctx) : (s.setCtx cid v).ckPhase = s.ckPhase := rfl
@[simp] theorem State.setCtx_ckStep (s : State) (cid : Nat) (v : Ctx) : (s.setCtx cid v).ckStep = s.ckStep := rfl
@[simp] theorem State.setCtx_digest (s : State) (cid : Nat) (v : Ctx) : (s.setCtx cid v).digest = s.digest := rfl
@[simp] theorem State.setCtx_samples (s : State) (cid : Nat) (v : Ctx) : (s.setCtx cid v).samples = s.samples := rfl
@[simp] theorem State.setCtx_clkAt (s : State) (cid : Nat) (v : Ctx) : (s.setCtx cid v).clkAt = s.clkAt := rfl
@[simp] theorem State.setCtx_ckReq (s : State) (cid : Nat) (v : Ctx) : (s.setCtx cid v).ckReq = s.ckReq := rfl
@[simp] theorem State.setCtx_ckHit (s : State) (cid : Nat) (v : Ctx) : (s.setCtx cid v).ckHit = s.ckHit := rfl
@[simp] theorem State.setCtx_tierSelf (s : State) (cid : Nat) (v : Ctx) : (s.setCtx cid v).tierSelf = s.tierSelf := rfl
@[simp] theorem State.setCtx_tierPower (s : State) (cid : Nat) (v : Ctx) : (s.setCtx cid v).tierPower = s.tierPower := rfl

@[simp] theorem State.core_setCore (s : State) (k : Nat) (v : Core) : (s.setCore k v).core k = v := by
  simp [State.core, State.setCore]
theorem State.core_setCore_ne (s : State) {i j : Nat} (v : Core) (h : i ≠ j) : (s.setCore i v).core j = s.core j := by
  simp [State.core, State.setCore, Tab.get?_set_ne _ _ h]
@[simp] theorem State.grove_setGrove (s : State) (g : Nat) (v : Grove) : (s.setGrove g v).grove g = v := by
  simp [State.grove, State.setGrove]
theorem State.grove_setGrove_ne (s : State) {i j : Nat} (v : Grove) (h : i ≠ j) : (s.setGrove i v).grove j = s.grove j := by
  simp [State.grove, State.setGrove, Tab.get?_set_ne _ _ h]
@[simp] theorem State.die_setDie (s : State) (d : Nat) (v : Die) : (s.setDie d v).die d = v := by
  simp [State.die, State.setDie]
theorem State.die_setDie_ne (s : State) {i j : Nat} (v : Die) (h : i ≠ j) : (s.setDie i v).die j = s.die j := by
  simp [State.die, State.setDie, Tab.get?_set_ne _ _ h]
@[simp] theorem State.ctx?_setCtx (s : State) (cid : Nat) (v : Ctx) : (s.setCtx cid v).ctx? cid = some v := by
  simp [State.ctx?, State.setCtx]
theorem State.ctx?_setCtx_ne (s : State) {i j : Nat} (v : Ctx) (h : i ≠ j) : (s.setCtx i v).ctx? j = s.ctx? j := by
  simp [State.ctx?, State.setCtx, Tab.get?_set_ne _ _ h]
@[simp] theorem State.grove_of_setCore (s : State) (k j : Nat) (v : Core) : (s.setCore k v).grove j = s.grove j := rfl
@[simp] theorem State.die_of_setCore (s : State) (k j : Nat) (v : Core) : (s.setCore k v).die j = s.die j := rfl
@[simp] theorem State.ctx?_of_setCore (s : State) (k j : Nat) (v : Core) : (s.setCore k v).ctx? j = s.ctx? j := rfl
@[simp] theorem State.core_of_setGrove (s : State) (g j : Nat) (v : Grove) : (s.setGrove g v).core j = s.core j := rfl
@[simp] theorem State.die_of_setGrove (s : State) (g j : Nat) (v : Grove) : (s.setGrove g v).die j = s.die j := rfl
@[simp] theorem State.ctx?_of_setGrove (s : State) (g j : Nat) (v : Grove) : (s.setGrove g v).ctx? j = s.ctx? j := rfl
@[simp] theorem State.core_of_setDie (s : State) (d j : Nat) (v : Die) : (s.setDie d v).core j = s.core j := rfl
@[simp] theorem State.grove_of_setDie (s : State) (d j : Nat) (v : Die) : (s.setDie d v).grove j = s.grove j := rfl
@[simp] theorem State.ctx?_of_setDie (s : State) (d j : Nat) (v : Die) : (s.setDie d v).ctx? j = s.ctx? j := rfl
@[simp] theorem State.core_of_setCtx (s : State) (cid j : Nat) (v : Ctx) : (s.setCtx cid v).core j = s.core j := rfl
@[simp] theorem State.grove_of_setCtx (s : State) (cid j : Nat) (v : Ctx) : (s.setCtx cid v).grove j = s.grove j := rfl
@[simp] theorem State.die_of_setCtx (s : State) (cid j : Nat) (v : Ctx) : (s.setCtx cid v).die j = s.die j := rfl

end Sys2Proof.Machine
end

