-- ==== Sys2Proof/Laws/Ops.lean ====
section
/-! SUPPORT. One lemma for each shared operation: what it answers when its instruction is free to execute, when it is privileged and the
context is not, when a prefix is pending that it does not take, and what a commit and a trap leave unchanged. -/

namespace Sys2Proof.Machine

open Sys2Proof

theorem pfxCheck_free {m : Image} (h : m.pp = false) (accept : Prefix → Bool) : pfxCheck m accept = none := by
  simp [pfxCheck, Image.pending?, h]

/-- An instruction that is free to execute does its own part. -/
theorem runInstr_ready {s : State} {cid : Nat} {c : Ctx} {regs : List Reg} (h : s.Ready cid c regs) {sys : Bool}
    (hs : sys = false ∨ c.img.prv = true) (accept : Prefix → Bool) (f : State → Nat → Ctx → Eff) :
    runInstr sys accept regs f s = .next ((f s cid c).state cid c) := by
  obtain ⟨h1, h2, h3⟩ := h
  unfold State.At at h1
  rcases hs with rfl | hp
  · simp [runInstr, h1, pfxCheck_free h2, h3]
  · simp [runInstr, h1, pfxCheck_free h2, h3, hp]

/-- A privileged encoding traps in a context at user privilege (R88 check 5, R395). -/
theorem runInstr_user {s : State} {cid : Nat} {c : Ctx} (h : s.At cid c) (hp : c.img.prv = false) (accept : Prefix → Bool)
    (regs : List Reg) (f : State → Nat → Ctx → Eff) :
    runInstr true accept regs f s = s.traps cid c (FaultRec.mk0 cPriv 0 c.img.pc.toNat) := by
  unfold State.At at h
  simp [runInstr, h, hp, Eff.state, State.traps]

/-- With an active context an instruction always has a next state. -/
theorem runInstr_next {s : State} {cid : Nat} {c : Ctx} (h : s.At cid c) (sys : Bool) (accept : Prefix → Bool) (regs : List Reg)
    (f : State → Nat → Ctx → Eff) : ∃ t, runInstr sys accept regs f s = .next t := by
  unfold State.At at h
  simp only [runInstr, h]
  exact ⟨_, rfl⟩

theorem runRegs_ready {s : State} {cid : Nat} {c : Ctx} {regs : List Reg} (h : s.Ready cid c regs) (rm : Bool)
    {f : Image → Except FaultRec Image} {m : Image} (hf : f c.img = .ok m) : runRegs rm regs f s = s.goes cid m := by
  rw [runRegs, runInstr_ready h (.inl rfl)]
  simp [hf, Eff.state, State.goes]

theorem runRegs_fault {s : State} {cid : Nat} {c : Ctx} {regs : List Reg} (h : s.Ready cid c regs) (rm : Bool)
    {f : Image → Except FaultRec Image} {e : FaultRec} (hf : f c.img = .error e) : runRegs rm regs f s = s.traps cid c e := by
  rw [runRegs, runInstr_ready h (.inl rfl)]
  simp [hf, Eff.state, State.traps]

theorem runAlu_ready {s : State} {cid : Nat} {c : Ctx} {d : Reg} {srcs : List Reg} (h : s.Ready cid c (d :: srcs)) (len : Nat)
    (f : Image → Word) : runAlu len d srcs f s = s.goes cid ((c.img.setX d (f c.img)).next len) :=
  runRegs_ready h false rfl

/-- Dispatch into the ring of an instruction that is free to execute, names no register it may not, and finds room. -/
theorem runRing_ready {s : State} {cid : Nat} {c : Ctx} {i : Instr} (h : s.Ready cid c (ringRegs i)) (accept : Prefix → Bool)
    (len : Nat) (hv : c.img.badV (vFields i) = none) (hr : (s.coreRing s.here).length < 64) :
    runRing accept len i s =
      (((s.pushRing cid (mkEntry s c i 0)).count s.here c.img.prv 3 1).goes cid (c.img.next len)) := by
  rw [runRing, runInstr_ready h (.inl rfl)]
  simp [hv, Nat.not_le.2 hr, Eff.state, State.goes]

theorem runRing_badV {s : State} {cid : Nat} {c : Ctx} {i : Instr} (h : s.Ready cid c (ringRegs i)) (accept : Prefix → Bool)
    (len : Nat) {v : Reg} (hv : c.img.badV (vFields i) = some v) :
    runRing accept len i s = s.traps cid c (FaultRec.mk0 cReg v.toNat c.img.pc.toNat) := by
  rw [runRing, runInstr_ready h (.inl rfl)]
  simp [hv, Eff.state, State.traps]

/-- A scalar memory instruction that is free to execute, with no vector access before it. -/
theorem runMem_ready {s : State} {cid : Nat} {c : Ctx} {regs : List Reg} (h : s.Ready cid c regs) {sys : Bool}
    (hs : sys = false ∨ c.img.prv = true) (hm : ringHasMem (s.coreRing s.here) = false) (f : State → Nat → Ctx → Eff) :
    runMem sys regs f s = .next ((f s cid c).state cid c) := by
  rw [runMem, runInstr_ready h hs]
  simp [hm]

@[simp] theorem State.count_ctxs (s : State) (k : Nat) (sys : Bool) (ev n : Nat) : (s.count k sys ev n).ctxs = s.ctxs := rfl

theorem State.count_eq (s : State) (k : Nat) (sys : Bool) (ev n : Nat) :
    s.count k sys ev n = { s with cores := s.cores.set k ((s.core k).count sys ev n) } := rfl

/-- The count of R106 changes one core. -/
theorem State.issued_eq (s : State) (k : Nat) : ∃ cs, s.issued k = { s with cores := cs } := by
  unfold State.issued
  dsimp only
  cases (s.core k).active with
  | none => exact ⟨s.cores, rfl⟩
  | some i =>
    dsimp only
    split
    · exact ⟨_, rfl⟩
    · exact ⟨s.cores, rfl⟩

/-- Noting that an instruction no longer holds off an interruption changes one core at most (R405). -/
theorem State.setHolding_eq (s : State) (k : Nat) (b : Bool) : ∃ cs, s.setHolding k b = { s with cores := cs } := by
  unfold State.setHolding
  split
  · exact ⟨s.cores, rfl⟩
  · exact ⟨_, rfl⟩

/-- What a commit does: it writes the image of its context, and counts on the core. -/
theorem State.commit_eq {s : State} {cid : Nat} {c : Ctx} (h : s.ctx? cid = some c) (m : Image) :
    ∃ cs, s.commit cid m =
      { s with
        cores := cs
        ctxs := s.ctxs.set cid { c with img := if c.img.pp then m.setPp false else m, stale := none, winWait := none }
        stalled := false } := by
  simp only [State.commit, h]
  obtain ⟨cs, hc⟩ := State.issued_eq
    ((s.setCtx cid { c with img := if c.img.pp then m.setPp false else m, stale := none, winWait := none }).count s.here c.img.prv 2 1) s.here
  rw [hc]
  obtain ⟨ds, hd⟩ := State.setHolding_eq
    { ((s.setCtx cid { c with img := if c.img.pp then m.setPp false else m, stale := none, winWait := none }).count s.here c.img.prv 2 1) with
      cores := cs } s.here false
  rw [hd]
  exact ⟨ds, rfl⟩

theorem State.commit_ctx {s : State} {cid : Nat} {c : Ctx} (h : s.ctx? cid = some c) (m : Image) :
    (s.commit cid m).ctx? cid = some { c with img := if c.img.pp then m.setPp false else m, stale := none, winWait := none } := by
  obtain ⟨cs, hc⟩ := State.commit_eq h m
  rw [hc]
  simp [State.ctx?]

theorem State.commit_ctx_ne {s : State} {cid j : Nat} (hj : cid ≠ j) (m : Image) : (s.commit cid m).ctx? j = s.ctx? j := by
  cases h : s.ctx? cid with
  | none =>
    unfold State.commit
    rw [h]
    rfl
  | some c =>
    obtain ⟨cs, hc⟩ := State.commit_eq h m
    rw [hc]
    simp [State.ctx?, Tab.get?_set_ne _ _ hj]

theorem State.at_ctx {s : State} {cid : Nat} {c : Ctx} (h : s.At cid c) : s.ctx? cid = some c := by
  unfold State.At State.active? at h
  split at h
  · exact absurd h (by simp)
  · split at h
    · exact absurd h (by simp)
    · rename_i hc
      simp only [Option.some.injEq, Prod.mk.injEq] at h
      rw [← h.1, ← h.2]
      exact hc

end Sys2Proof.Machine
end

