-- ==== Sys2Proof/Tests/Slice0.lean ====
section
/-! SUPPORT. Tests: operand combinations that the encodings refuse, words written out from the spec's encodings, single steps against
the spec's worked examples, and for every statement with hypotheses a state and operands that meet them, clause by clause. The expected
results are the spec's. -/

namespace Sys2Proof.Tests

open Sys2Proof Sys2Proof.Machine

set_option Elab.async false

/-! ## Ill-formed operand combinations (check 4 of R88), and one well-formed beside them -/

theorem test_ill_formed_fields : ∀ i ∈ ([.ext 1 2 32 32, .extn 1 2 63 1, .ins 1 2 1 63] : List Instr), i.wf = false := by decide +kernel

theorem test_ill_formed_loops : ∀ i ∈ ([.loop 0 1, .loopQ 0 1] : List Instr), i.wf = false := by decide +kernel

theorem test_ill_formed_masks : ∀ i ∈ ([.vsel 1 2 3 .all, .vsel 1 2 3 (.on false true 1), .vmcnt 1 2 (.on false true 1), .vfirst 1 2 (.on false true 1),
    .vredAdd .f32 1 2 (.on false true 1), .vredMin .i32 1 2 (.on false true 1), .vredMax .n32 1 2 (.on false true 1), .vredAnd 1 2 (.on true true 1),
    .vredOr 1 2 (.on true true 1), .vredXor 1 2 (.on true true 1), .vst 1 2 3 4 (.on false true 1), .vsts 1 2 3 4 5 (.on false true 1),
    .vstx 1 2 3 4 5 (.on false true 1)] : List Instr), i.wf = false := by decide +kernel

theorem test_ill_formed_formats : ∀ i ∈ ([.vcvt .i64 .f32 1 2 .all, .vcvt .f32 .n64 1 2 .all, .vpack .f32 .f32 1 2 3 false, .vpack .bf16 .f32 1 2 3 true,
    .vunpack .f32 .n32 1 2 0, .vunpack .f32 .f16 1 2 2, .vqnt .bf16 1 2 3 none, .baddq .n8 1 2 3 4 5] : List Instr), i.wf = false := by decide +kernel

theorem test_ill_formed_operands : ∀ i ∈ ([.vmaxx 1 2 0, .vmaxx 1 2 5, .waita .gt 1 2 3 4 0 none, .tlbinv false 1 2 3 4, .crange true 1 0 0,
    .crange true 0 1 0, .ird 5 5 0] : List Instr), i.wf = false := by decide +kernel

theorem test_ill_formed_atomics : ∀ i ∈ ([.amoAdd false 1 2 3 4 0 true false .core, .amoAnd true 1 2 3 4 0 true false .core, .amoOr true 1 2 3 4 0 true false .core,
    .amoXor true 1 2 3 4 0 true false .core, .amoMin true 1 2 3 4 0 true false .core, .amoMax true 1 2 3 4 0 true false .core,
    .amoMinn true 1 2 3 4 0 true false .core, .amoMaxn true 1 2 3 4 0 true false .core, .amoSwap true 1 2 3 4 0 true false .core,
    .amoCas true 1 2 3 4 0 true false .core, .amoFadd 1 2 3 4 0 true false .core, .amoFmin 1 2 3 4 0 true false .core,
    .amoFmax 1 2 3 4 0 true false .core] : List Instr), i.wf = false := by decide +kernel

theorem test_ill_formed_commands :
    (let k : Cmd := ⟨1, 2, 3, 4, 5, 6, .plain, .none, false⟩
     let f : FabCmd := ⟨1, 2, 3, 4, 5, .plain, .none, false⟩
     ∀ i ∈ ([.dcopy k false, .dfill k true, .gather k 2 0, .scatter k 2 0 0, .scatter { k with cw := .add } 0 0 3, .spwalk k false false, .merge k false,
       .mldb { k with d := 0, a := 0 } .i8 false 0, .mldb { k with d := 0, sa := 0 } .i8 false 0, .mldb { k with d := 0, sa := 0 } .bf16 true 0,
       .mldb { k with d := 0, sa := 0, a := 0 } .f32 false 0, .mldb { k with sa := 0 } .i8 true 0, .mmac k 0 false false false,
       .mmac { k with d := 0 } 1 true false false, .mmacCoop k 0 false false, .mmacCoop { k with d := 0 } 3 true false, .put f, .get f,
       .pub 1 2 3 4 5 .none false] : List Instr), i.wf = false) := by decide +kernel

theorem test_well_formed :
    (let k : Cmd := ⟨1, 2, 3, 4, 0, 6, .plain, .set, false⟩
     ∀ i ∈ ([.ext 1 2 0 63, .loop 1 1, .vsel 1 2 3 (.on true false 1), .vmaxx 1 2 4, .dcopy k false, .mldb k .i8 true 3, .mmac k 2 true false false,
       .tlbinv true 1 2 3 4, .crange true 0 0 5, .ird 5 6 0, .ird 0 0 0] : List Instr), i.wf = true) := by decide +kernel

/-- Words that decode to nothing: an unassigned major, an unassigned function, a reserved bit. -/
theorem test_refused_words : decodeAt 0 [0#32] = .error .encoding ∧ decodeAt 0 [0x0000012C#32] = .error .encoding ∧
    decodeAt 0 [0x0700002C#32, 0#32] = .error .encoding ∧ decodeAt 0 [0xFFFFFFFF#32] = .error .length ∧
    decodeAt 28 [0x06286961#32, 0x24000040#32] = .error .crossing := by decide +kernel

/-- The words that files 04, 06 and 09 of the spec write out. -/
def words_scalar : List (List (BitVec 32) × Code) :=
  [([0x001CC504#32], .core (.add 5 6 7)),
   ([0x46286960#32], .core (.ldI64 9 5 3 8)),
   ([0x06286961#32, 0x24000040#32], .core (.ldI64Mk 9 5 3 0x40 false (some .die))),
   ([0x00148341#32, 0x00000F20#32], .core (.vaddF32 3 4 5 (.on true true 1))),
   ([0x00504430#32], .core (.fmt ⟨some .e4m3, some .e4m3, none, true, true, none⟩)),
   ([0xFE808114#32], .core (.bCc .ne 4 0 0x1FD)),
   ([0x00A00A10#32], .core (.li 10 5)),
   ([0x01296B04#32], .core (.mul 11 11 10)),
   ([0xFF81401C#32], .core (.loop 10 0x1FF)),
   ([0xFF200C10#32], .core (.li 12 0x7F9)),
   ([0x03AD8D04#32], .core (.rem 13 12 11)),
   ([0x02816E04#32], .core (.div 14 11 0)),
   ([0x00000F11#32, 0x40200000#32], .core (.liQ 15 0x40200000)),
   ([0x1001F024#32], .core (.fcvtI32F32 16 15)),
   ([0x03000030#32], .core (.fmt ⟨none, none, none, false, false, some .ru⟩)),
   ([0x20017205#32, 0x00000303#32], .core (.ext 18 11 3 3)),
   ([0x20817305#32, 0x00000303#32], .core (.extn 19 11 3 3)),
   ([0x0300002C#32], .core .exit),
   ([0xF5002760#32], .core (.ldN32 7 0 1 0x1E)),
   ([0x03184465#32, 0x28000000#32], .core (.stI64Mk 4 3 2 0 (some .die))),
   ([0x00308569#32, 0x10700010#32], .core (.amoAdd false 5 6 7 4 16 false false .grove)),
   ([0x49008869#32, 0x3C900000#32], .core (.amoCas true 8 0 9 4 0 true true .device)),
   ([0x0080406C#32], .core (.fenceAcq .die)),
   ([0x0300AA71#32, 0x00B00000#32], .core (.waita .ge 10 0 11 5 0 none)),
   ([0x002D4D81#32, 0x0062A185#32], .core (.dcopy ⟨13, 10, 11, 12, 5, 6, .rel .die, .add, false⟩ false))]

theorem test_words_scalar : ∀ p ∈ words_scalar, decodeAt 0 p.1 = .ok (p.2, 4 * p.1.length) := by decide +kernel

/-- The words that files 07, 10 and 11 of the spec write out. -/
def words_vector_commands : List (List (BitVec 32) × Code) :=
  [([0x05906241#32, 0x00000805#32], .core (.vfma 2 3 4 5 .all)),
   ([0x0000E646#32, 0x00005800#32, 0x00000064#32], .core (.vaddIntLit false 6 7 100 .all)),
   ([0x01250149#32, 0x00000800#32], .core (.vcmpF32 .lt 1 8 9 .all)),
   ([0x00308A59#32, 0x00800140#32], .core (.vld 10 6 4 128 (.on false false 2))),
   ([0x0000E05C#32], .core (.vclaim 7)),
   ([0x00020951#32, 0x00000800#32], .core (.vredAdd .f32 9 16 .all)),
   ([0x002C0D85#32, 0x44620180#32], .core (.mldb ⟨13, 0, 11, 12, 0, 6, .plain, .add, false⟩ .e4m3 false 2)),
   ([0x00AD4D85#32, 0x01626248#32], .core (.mmac ⟨13, 10, 11, 12, 8, 9, .rel .grove, .add, false⟩ 1 false false false)),
   ([0x00AD4D85#32, 0x09620248#32], .core (.mmac ⟨13, 10, 11, 12, 8, 9, .plain, .add, false⟩ 1 false true false)),
   ([0x00100430#32], .core (.fmt ⟨some .e4m3, none, none, true, false, none⟩)),
   ([0x01AD4D81#32, 0x01640185#32], .core (.gather ⟨13, 10, 11, 12, 5, 6, .plain, .set, false⟩ 1 0)),
   ([0x022D4D81#32, 0x4062A185#32], .core (.scatter ⟨13, 10, 11, 12, 5, 6, .rel .die, .add, false⟩ 0 0 2)),
   ([0x02AD4D81#32, 0x02620185#32], .core (.spwalk ⟨13, 10, 11, 12, 5, 6, .plain, .add, false⟩ false true)),
   ([0x032D4D81#32, 0x81620185#32], .core (.merge ⟨13, 10, 11, 12, 5, 6, .plain, .add, true⟩ true))]

theorem test_words_vector_commands : ∀ p ∈ words_vector_commands, decodeAt 0 p.1 = .ok (p.2, 4 * p.1.length) := by decide +kernel

/-- The words that files 12, 13, 16 and 18 of the spec write out. -/
def words_records_tasks : List (List (BitVec 32) × Code) :=
  [([0x00014889#32, 0x02300005#32], .late (.rnew 8 10 6 5 2)),
   ([0x012D4089#32, 0x00300005#32], .late (.rld 10 11 6 5 none)),
   ([0x01AD4C89#32, 0x0030A005#32], .late (.rst 12 10 11 6 5 (some .die))),
   ([0x032D4989#32, 0x03600005#32], .late (.qrad 9 10 11 12 5 3)),
   ([0x002D4D8D#32, 0x01600005#32], .late (.gld 13 10 11 12 5 1)),
   ([0x00AD4D8D#32, 0x01600005#32], .late (.gst 13 10 11 12 5 1)),
   ([0x0100008D#32, 0x01600000#32], .late (.gstep 12 1)),
   ([0x002D4D91#32, 0x00632180#32], .late (.put ⟨13, 10, 11, 12, 6, .rel .fabric, .add, false⟩)),
   ([0x00AD4D91#32, 0x00620180#32], .late (.get ⟨13, 10, 11, 12, 6, .plain, .add, false⟩)),
   ([0x012D4D91#32, 0x00600000#32], .late (.msg 13 10 11 12)),
   ([0x01814991#32, 0x00000005#32], .late (.recv 9 10 5 false)),
   ([0x022D4D91#32, 0x00640180#32], .late (.pub 13 10 11 12 6 .set false)),
   ([0x02800991#32, 0x00000000#32], .late (.rblk 9)),
   ([0x032D4091#32, 0x04600145#32], .late (.baddq .e4m3 10 11 12 5 5)),
   ([0x00800094#32], .core .kchk),
   ([0x192D4994#32], .late (.iupd 9 10 11 3)),
   ([0x19800994#32], .late (.ird 9 0 3)),
   ([0x19814994#32], .late (.ird 9 10 3)),
   ([0x02014094#32], .late (.bar 10)),
   ([0x02814994#32], .late (.sstep 9 10)),
   ([0x032D4994#32], .late (.dset 9 10 11)),
   ([0x03AD4994#32], .late (.ddec 9 10 11))]

theorem test_words_records_tasks : ∀ p ∈ words_records_tasks, decodeAt 0 p.1 = .ok (p.2, 4 * p.1.length) := by decide +kernel

/-- Words that the programs of files 21 to 25 of the spec write out. -/
def words_programs : List (List (BitVec 32) × Code) :=
  [([0x06202961#32, 0x02000000#32], .core (.ldI64Mk 9 4 1 0 true none)),
   ([0x03302E65#32, 0x28000018#32], .core (.stI64Mk 14 6 1 24 (some .die))),
   ([0x01800099#32, 0x02000004#32], .late (.pbind false 0 4 2)),
   ([0x02DABA89#32, 0x02B80004#32], .late (.qbox 26 21 22 23 4 2)),
   ([0x02DA9781#32, 0x00AA7084#32], .core (.spwalk ⟨23, 20, 22, 21, 4, 2, .acqRel .grove, .add, false⟩ false false)),
   ([0x0182D781#32, 0x05AA7084#32], .core (.gather ⟨23, 22, 0, 21, 4, 2, .acqRel .grove, .add, false⟩ 5 0)),
   ([0x00B88971#32, 0x15800000#32], .core (.waita .eq 9 23 24 4 0 (some .grove))),
   ([0x01004655#32, 0x00120800#32], .core (.vunpack .f32 .bf16 6 2 1)),
   ([0x00020995#32, 0x0000A004#32], .late (.spawn 9 16 4 (some .die))),
   ([0x01280860#32], .core (.ldN8 8 5 0 0)),
   ([0x01204069#32, 0x38700180#32], .core (.amoAdd true 0 4 7 2 384 false true .device)),
   ([0x00204C71#32, 0x00700100#32], .core (.waita .eq 12 4 7 2 256 none)),
   ([0x02204075#32, 0x00D00000#32], .core (.cflush 4 13 2 0)),
   ([0x0080606C#32], .core (.fenceAcq .device)),
   ([0x02314099#32, 0x00000000#32], .late (.crange false 10 12 0)),
   ([0x00028099#32, 0x00000144#32], .late (.sset 20 4 5)),
   ([0x0001AC81#32, 0x00727142#32], .core (.dcopy ⟨12, 13, 0, 14, 2, 5, .acqRel .grove, .add, false⟩ false)),
   ([0x009CC499#32, 0x01880000#32], .late (.tlbinv true 4 6 7 17)),
   ([0x0B00A764#32], .core (.stI64 7 0 5 1))]

theorem test_words_programs : ∀ p ∈ words_programs, decodeAt 0 p.1 = .ok (p.2, 4 * p.1.length) := by decide +kernel

/-- Words computed by hand from the field positions of R85, R115 to R117. -/
def words_ialu : List (List (BitVec 32) × Code) :=
  [([0x002D4904#32], .core (.add 9 10 11)),
   ([0x00AD4904#32], .core (.sub 9 10 11)),
   ([0x012D4904#32], .core (.mul 9 10 11)),
   ([0x01AD4904#32], .core (.mulh 9 10 11)),
   ([0x022D4904#32], .core (.mulhn 9 10 11)),
   ([0x02AD4904#32], .core (.div 9 10 11)),
   ([0x032D4904#32], .core (.divn 9 10 11)),
   ([0x03AD4904#32], .core (.rem 9 10 11)),
   ([0x042D4904#32], .core (.remn 9 10 11)),
   ([0x04AD4904#32], .core (.and_ 9 10 11)),
   ([0x052D4904#32], .core (.or_ 9 10 11)),
   ([0x05AD4904#32], .core (.xor_ 9 10 11)),
   ([0x062D4904#32], .core (.andn 9 10 11)),
   ([0x06AD4904#32], .core (.sll 9 10 11)),
   ([0x072D4904#32], .core (.srl 9 10 11)),
   ([0x07AD4904#32], .core (.sra 9 10 11)),
   ([0x082D4904#32], .core (.rol 9 10 11)),
   ([0x08AD4904#32], .core (.ror 9 10 11)),
   ([0x092D4904#32], .core (.min_ 9 10 11)),
   ([0x09AD4904#32], .core (.max_ 9 10 11)),
   ([0x0A2D4904#32], .core (.minn 9 10 11)),
   ([0x0AAD4904#32], .core (.maxn 9 10 11)),
   ([0x0B03C904#32], .core (.clz 9 30)),
   ([0x0B83C904#32], .core (.ctz 9 30)),
   ([0x0C03C904#32], .core (.popc 9 30)),
   ([0x102D4904#32], .core (.setCc .eq 9 10 11)),
   ([0x10AD4904#32], .core (.setCc .ne 9 10 11)),
   ([0x112D4904#32], .core (.setCc .lt 9 10 11)),
   ([0x11AD4904#32], .core (.setCc .ge 9 10 11)),
   ([0x122D4904#32], .core (.setCc .ltn 9 10 11)),
   ([0x12AD4904#32], .core (.setCc .gen 9 10 11)),
   ([0x132D4904#32], .core (.setCc .gt 9 10 11)),
   ([0x13AD4904#32], .core (.setCc .le 9 10 11)),
   ([0x142D4904#32], .core (.setCc .gtn 9 10 11)),
   ([0x14AD4904#32], .core (.setCc .len 9 10 11)),
   ([0x20014905#32, 0x00002803#32], .core (.ext 9 10 3 40)),
   ([0x20814905#32, 0x00002803#32], .core (.extn 9 10 3 40)),
   ([0x21014905#32, 0x00002803#32], .core (.ins 9 10 3 40)),
   ([0x21AD4905#32, 0x0000000C#32], .core (.sel 9 10 11 12))]

theorem test_words_ialu : ∀ p ∈ words_ialu, decodeAt 0 p.1 = .ok (p.2, 4 * p.1.length) := by decide +kernel

/-- Words computed by hand from the field positions of R85, R118, R119. -/
def words_imm : List (List (BitVec 32) × Code) :=
  [([0xFFA14908#32], .core (.addImm 9 10 0x7FD)),
   ([0x00014909#32, 0xFFFEFFFD#32], .core (.addImmQ 9 10 0xFFFEFFFD)),
   ([0xFFA54908#32], .core (.andImm 9 10 0x7FD)),
   ([0x00054909#32, 0xFFFEFFFD#32], .core (.andImmQ 9 10 0xFFFEFFFD)),
   ([0xFFA94908#32], .core (.orImm 9 10 0x7FD)),
   ([0x00094909#32, 0xFFFEFFFD#32], .core (.orImmQ 9 10 0xFFFEFFFD)),
   ([0xFFAD4908#32], .core (.xorImm 9 10 0x7FD)),
   ([0x000D4909#32, 0xFFFEFFFD#32], .core (.xorImmQ 9 10 0xFFFEFFFD)),
   ([0x07F14908#32], .core (.sllImm 9 10 63)),
   ([0x00114909#32, 0x00000021#32], .core (.sllImmQ 9 10 33)),
   ([0x07F54908#32], .core (.srlImm 9 10 63)),
   ([0x00154909#32, 0x00000021#32], .core (.srlImmQ 9 10 33)),
   ([0x07F94908#32], .core (.sraImm 9 10 63)),
   ([0x00194909#32, 0x00000021#32], .core (.sraImmQ 9 10 33)),
   ([0xFFBD4908#32], .core (.mulImm 9 10 0x7FD)),
   ([0x001D4909#32, 0xFFFEFFFD#32], .core (.mulImmQ 9 10 0xFFFEFFFD)),
   ([0xFF200910#32], .core (.li 9 0x7F9)),
   ([0x00000911#32, 0x40200000#32], .core (.liQ 9 0x40200000)),
   ([0x00040911#32, 0x01000008#32], .core (.lih 9 0x01000008)),
   ([0x80880910#32], .core (.lpc 9 0x404)),
   ([0x00080911#32, 0x12345678#32], .core (.lpcQ 9 0x12345678))]

theorem test_words_imm : ∀ p ∈ words_imm, decodeAt 0 p.1 = .ok (p.2, 4 * p.1.length) := by decide +kernel

/-- Words computed by hand from the field positions of R80, R121 to R124. -/
def words_branch : List (List (BitVec 32) × Code) :=
  [([0xFEAD4014#32], .core (.bCc .eq 10 11 0x1FD)),
   ([0xFEAD4114#32], .core (.bCc .ne 10 11 0x1FD)),
   ([0xFEAD4214#32], .core (.bCc .lt 10 11 0x1FD)),
   ([0xFEAD4314#32], .core (.bCc .ge 10 11 0x1FD)),
   ([0xFEAD4414#32], .core (.bCc .ltn 10 11 0x1FD)),
   ([0xFEAD4514#32], .core (.bCc .gen 10 11 0x1FD)),
   ([0xFEAD4614#32], .core (.bCc .gt 10 11 0x1FD)),
   ([0xFEAD4714#32], .core (.bCc .le 10 11 0x1FD)),
   ([0xFEAD4814#32], .core (.bCc .gtn 10 11 0x1FD)),
   ([0xFEAD4914#32], .core (.bCc .len 10 11 0x1FD)),
   ([0x002D4815#32, 0xFFFFFF00#32], .core (.bCcQ .gtn 10 11 0xFFFFFF00)),
   ([0xFFFFC118#32], .core (.jal 1 0x7FFFE)),
   ([0x00000119#32, 0x00100000#32], .core (.jalQ 1 0x00100000)),
   ([0xFF81401C#32], .core (.loop 10 0x1FF)),
   ([0x0001401D#32, 0xFFFFFE00#32], .core (.loopQ 10 0xFFFFFE00)),
   ([0x00014120#32], .core (.jr 1 10))]

theorem test_words_branch : ∀ p ∈ words_branch, decodeAt 0 p.1 = .ok (p.2, 4 * p.1.length) := by decide +kernel

/-- Words computed by hand from the field positions of R85, R126 to R129. -/
def words_sfp : List (List (BitVec 32) × Code) :=
  [([0x002D4924#32], .core (.fadd 9 10 11)),
   ([0x00AD4924#32], .core (.fsub 9 10 11)),
   ([0x012D4924#32], .core (.fmul 9 10 11)),
   ([0x01AD4924#32], .core (.fdiv 9 10 11)),
   ([0x02014924#32], .core (.fsqrt 9 10)),
   ([0x02AD4924#32], .core (.fmin 9 10 11)),
   ([0x032D4924#32], .core (.fmax 9 10 11)),
   ([0x03AD4924#32], .core (.fsgn 9 10 11)),
   ([0x042D4924#32], .core (.fsgnn 9 10 11)),
   ([0x04AD4924#32], .core (.fsgnx 9 10 11)),
   ([0x082D4924#32], .core (.fcmpCc .eq 9 10 11)),
   ([0x08AD4924#32], .core (.fcmpCc .ne 9 10 11)),
   ([0x092D4924#32], .core (.fcmpCc .lt 9 10 11)),
   ([0x09AD4924#32], .core (.fcmpCc .le 9 10 11)),
   ([0x0A2D4924#32], .core (.fcmpCc .gt 9 10 11)),
   ([0x0AAD4924#32], .core (.fcmpCc .ge 9 10 11)),
   ([0x0B2D4924#32], .core (.fcmpCc .un 9 10 11)),
   ([0x0BAD4924#32], .core (.fcmpCc .ord 9 10 11)),
   ([0x10014924#32], .core (.fcvtI32F32 9 10)),
   ([0x10814924#32], .core (.fcvtN32F32 9 10)),
   ([0x11014924#32], .core (.fcvtI64F32 9 10)),
   ([0x11814924#32], .core (.fcvtN64F32 9 10)),
   ([0x12014924#32], .core (.fcvtF32I32 9 10)),
   ([0x12814924#32], .core (.fcvtF32N32 9 10)),
   ([0x13014924#32], .core (.fcvtF32I64 9 10)),
   ([0x13814924#32], .core (.fcvtF32N64 9 10)),
   ([0x202D4925#32, 0x0000000C#32], .core (.fma 9 10 11 12))]

theorem test_words_sfp : ∀ p ∈ words_sfp, decodeAt 0 p.1 = .ok (p.2, 4 * p.1.length) := by decide +kernel

/-- Words computed by hand from the field positions of R82, R86, R95, R130 to R137. -/
def words_sys1 : List (List (BitVec 32) × Code) :=
  [([0x0000002C#32], .core .nop),
   ([0x0300002C#32], .core .exit),
   ([0x0200012C#32], .core (.brk 1)),
   ([0x0100092C#32], .core (.cwr .status 9)),
   ([0x0100292C#32], .core (.cwr .pfx 9)),
   ([0x0100492C#32], .core (.cwr .fpflags 9)),
   ([0x0102092C#32], .core (.cwr .coreid 9)),
   ([0x0102292C#32], .core (.cwr .groveid 9)),
   ([0x0102492C#32], .core (.cwr .dieid 9)),
   ([0x0102692C#32], .core (.cwr .devid 9)),
   ([0x0102892C#32], .core (.cwr .epid 9)),
   ([0x0104092C#32], .core (.cwr .ringhead 9)),
   ([0x0104292C#32], .core (.cwr .faultinfo 9)),
   ([0x0104492C#32], .core (.cwr .fva 9)),
   ([0x0104692C#32], .core (.cwr .fsq 9)),
   ([0x0104892C#32], .core (.cwr .epc 9)),
   ([0x0104A92C#32], .core (.cwr .esta 9)),
   ([0x0104C92C#32], .core (.cwr .epfx 9)),
   ([0x0104E92C#32], .core (.cwr .tvec 9)),
   ([0x0105092C#32], .core (.cwr .imgbase 9)),
   ([0x0106092C#32], .core (.cwr .mwgt 9)),
   ([0x0106292C#32], .core (.cwr .rways 9)),
   ([0x0106492C#32], .core (.cwr .isaver 9)),
   ([0x0106692C#32], .core (.cwr .lpool 9)),
   ([0x0106892C#32], .core (.cwr .cyc 9)),
   ([0x0108092C#32], .core (.cwr (.pmc 0) 9)),
   ([0x0109092C#32], .core (.cwr (.pmsel 0) 9)),
   ([0x0108A92C#32], .core (.cwr (.pmc 5) 9)),
   ([0x0109A92C#32], .core (.cwr (.pmsel 5) 9)),
   ([0x0108E92C#32], .core (.cwr (.pmc 7) 9)),
   ([0x0109E92C#32], .core (.cwr (.pmsel 7) 9)),
   ([0x0116E230#32], .core (.fmt ⟨some .bf16, some .n64, some .lg6, true, false, some .rne⟩)),
   ([0x02075430#32], .core (.fmt ⟨some .e4m3, some .e5m2, some .i8, false, false, some .rz⟩))]

theorem test_words_sys1 : ∀ p ∈ words_sys1, decodeAt 0 p.1 = .ok (p.2, 4 * p.1.length) := by decide +kernel

/-- Words computed by hand from the field positions of R82, R86, R95, R130 to R137. -/
def words_sys2 : List (List (BitVec 32) × Code) :=
  [([0x0280002C#32], .core .eret),
   ([0x01FFFF2C#32], .core (.sys 0x7FFF)),
   ([0x0080092C#32], .core (.crd 9 .status)),
   ([0x0080292C#32], .core (.crd 9 .pfx)),
   ([0x0080492C#32], .core (.crd 9 .fpflags)),
   ([0x0082092C#32], .core (.crd 9 .coreid)),
   ([0x0082292C#32], .core (.crd 9 .groveid)),
   ([0x0082492C#32], .core (.crd 9 .dieid)),
   ([0x0082692C#32], .core (.crd 9 .devid)),
   ([0x0082892C#32], .core (.crd 9 .epid)),
   ([0x0084092C#32], .core (.crd 9 .ringhead)),
   ([0x0084292C#32], .core (.crd 9 .faultinfo)),
   ([0x0084492C#32], .core (.crd 9 .fva)),
   ([0x0084692C#32], .core (.crd 9 .fsq)),
   ([0x0084892C#32], .core (.crd 9 .epc)),
   ([0x0084A92C#32], .core (.crd 9 .esta)),
   ([0x0084C92C#32], .core (.crd 9 .epfx)),
   ([0x0084E92C#32], .core (.crd 9 .tvec)),
   ([0x0085092C#32], .core (.crd 9 .imgbase)),
   ([0x0086092C#32], .core (.crd 9 .mwgt)),
   ([0x0086292C#32], .core (.crd 9 .rways)),
   ([0x0086492C#32], .core (.crd 9 .isaver)),
   ([0x0086692C#32], .core (.crd 9 .lpool)),
   ([0x0086892C#32], .core (.crd 9 .cyc)),
   ([0x0088092C#32], .core (.crd 9 (.pmc 0))),
   ([0x0089092C#32], .core (.crd 9 (.pmsel 0))),
   ([0x0088A92C#32], .core (.crd 9 (.pmc 5))),
   ([0x0089A92C#32], .core (.crd 9 (.pmsel 5))),
   ([0x0088E92C#32], .core (.crd 9 (.pmc 7))),
   ([0x0089E92C#32], .core (.crd 9 (.pmsel 7))),
   ([0x03000030#32], .core (.fmt ⟨none, none, none, false, false, some .ru⟩)),
   ([0x044D3130#32], .core (.fmt ⟨some .f32, some .f16, some .i64, false, true, some .rd⟩))]

theorem test_words_sys2 : ∀ p ∈ words_sys2, decodeAt 0 p.1 = .ok (p.2, 4 * p.1.length) := by decide +kernel

/-- Words computed by hand from the field positions of R81, R87, R144. -/
def words_vfp : List (List (BitVec 32) × Code) :=
  [([0x002D4941#32, 0x00000DC0#32], .core (.vaddF32 9 10 11 (.on false true 6))),
   ([0x00014942#32, 0x00000BA0#32, 0x3F800000#32], .core (.vaddF32Lit 9 10 0x3F800000 (.on true false 5))),
   ([0x00AD4941#32, 0x00000DC0#32], .core (.vsubF32 9 10 11 (.on false true 6))),
   ([0x00814942#32, 0x00000BA0#32, 0x3F800000#32], .core (.vsubF32Lit 9 10 0x3F800000 (.on true false 5))),
   ([0x012D4941#32, 0x00000DC0#32], .core (.vmulF32 9 10 11 (.on false true 6))),
   ([0x01014942#32, 0x00000BA0#32, 0x3F800000#32], .core (.vmulF32Lit 9 10 0x3F800000 (.on true false 5))),
   ([0x01AD4941#32, 0x00000DC0#32], .core (.vdiv 9 10 11 (.on false true 6))),
   ([0x01814942#32, 0x00000BA0#32, 0x3F800000#32], .core (.vdivLit 9 10 0x3F800000 (.on true false 5))),
   ([0x02014941#32, 0x00000DC0#32], .core (.vsqrt 9 10 (.on false true 6))),
   ([0x02814941#32, 0x00000DC0#32], .core (.vrsqrt 9 10 (.on false true 6))),
   ([0x03014941#32, 0x00000DC0#32], .core (.vexp2 9 10 (.on false true 6))),
   ([0x03AD4941#32, 0x00000DC0#32], .core (.vminF32 9 10 11 (.on false true 6))),
   ([0x03814942#32, 0x00000BA0#32, 0x3F800000#32], .core (.vminF32Lit 9 10 0x3F800000 (.on true false 5))),
   ([0x042D4941#32, 0x00000DC0#32], .core (.vmaxF32 9 10 11 (.on false true 6))),
   ([0x04014942#32, 0x00000BA0#32, 0x3F800000#32], .core (.vmaxF32Lit 9 10 0x3F800000 (.on true false 5))),
   ([0x04814941#32, 0x00000DC0#32], .core (.vabsF32 9 10 (.on false true 6))),
   ([0x05014941#32, 0x00000DC0#32], .core (.vneg 9 10 (.on false true 6))),
   ([0x05AD4941#32, 0x00000BAC#32], .core (.vfma 9 10 11 12 (.on true false 5))),
   ([0x062D4941#32, 0x00000BAC#32], .core (.vfms 9 10 11 12 (.on true false 5))),
   ([0x06AD4941#32, 0x00000BAC#32], .core (.vfnma 9 10 11 12 (.on true false 5)))]

theorem test_words_vfp : ∀ p ∈ words_vfp, decodeAt 0 p.1 = .ok (p.2, 4 * p.1.length) := by decide +kernel

/-- Words computed by hand from the field positions of R81, R87, R145. -/
def words_vint : List (List (BitVec 32) × Code) :=
  [([0x002D4945#32, 0x00005800#32], .core (.vaddInt false 9 10 11 .all)),
   ([0x00014946#32, 0x000063A0#32, 0x80000001#32], .core (.vaddIntLit true 9 10 0x80000001 (.on true false 5))),
   ([0x00AD4945#32, 0x00005800#32], .core (.vsubInt false 9 10 11 .all)),
   ([0x00814946#32, 0x000063A0#32, 0x80000001#32], .core (.vsubIntLit true 9 10 0x80000001 (.on true false 5))),
   ([0x012D4945#32, 0x00005800#32], .core (.vmulInt false 9 10 11 .all)),
   ([0x01014946#32, 0x000063A0#32, 0x80000001#32], .core (.vmulIntLit true 9 10 0x80000001 (.on true false 5))),
   ([0x01AD4945#32, 0x00005800#32], .core (.vmulh false 9 10 11 .all)),
   ([0x01814946#32, 0x000063A0#32, 0x80000001#32], .core (.vmulhLit true 9 10 0x80000001 (.on true false 5))),
   ([0x022D4945#32, 0x00005800#32], .core (.vand false 9 10 11 .all)),
   ([0x02014946#32, 0x000063A0#32, 0x80000001#32], .core (.vandLit true 9 10 0x80000001 (.on true false 5))),
   ([0x02AD4945#32, 0x00005800#32], .core (.vor false 9 10 11 .all)),
   ([0x02814946#32, 0x000063A0#32, 0x80000001#32], .core (.vorLit true 9 10 0x80000001 (.on true false 5))),
   ([0x032D4945#32, 0x00005800#32], .core (.vxor false 9 10 11 .all)),
   ([0x03014946#32, 0x000063A0#32, 0x80000001#32], .core (.vxorLit true 9 10 0x80000001 (.on true false 5))),
   ([0x03AD4945#32, 0x00005800#32], .core (.vandn false 9 10 11 .all)),
   ([0x03814946#32, 0x000063A0#32, 0x80000001#32], .core (.vandnLit true 9 10 0x80000001 (.on true false 5))),
   ([0x042D4945#32, 0x00005800#32], .core (.vsll false 9 10 11 .all)),
   ([0x04014946#32, 0x000063A0#32, 0x80000001#32], .core (.vsllLit true 9 10 0x80000001 (.on true false 5))),
   ([0x04AD4945#32, 0x00005800#32], .core (.vsrl false 9 10 11 .all)),
   ([0x04814946#32, 0x000063A0#32, 0x80000001#32], .core (.vsrlLit true 9 10 0x80000001 (.on true false 5))),
   ([0x052D4945#32, 0x00005800#32], .core (.vsra false 9 10 11 .all)),
   ([0x05014946#32, 0x000063A0#32, 0x80000001#32], .core (.vsraLit true 9 10 0x80000001 (.on true false 5))),
   ([0x05AD4945#32, 0x00005800#32], .core (.vminInt false 9 10 11 .all)),
   ([0x05814946#32, 0x000063A0#32, 0x80000001#32], .core (.vminIntLit true 9 10 0x80000001 (.on true false 5))),
   ([0x062D4945#32, 0x00005800#32], .core (.vmaxInt false 9 10 11 .all)),
   ([0x06014946#32, 0x000063A0#32, 0x80000001#32], .core (.vmaxIntLit true 9 10 0x80000001 (.on true false 5))),
   ([0x06814945#32, 0x00005DC0#32], .core (.vabsI32 9 10 (.on false true 6))),
   ([0x072D4945#32, 0x00005800#32], .core (.vadds false 9 10 11 .all)),
   ([0x07014946#32, 0x000063A0#32, 0x80000001#32], .core (.vaddsLit true 9 10 0x80000001 (.on true false 5))),
   ([0x07AD4945#32, 0x00005800#32], .core (.vsubs false 9 10 11 .all)),
   ([0x07814946#32, 0x000063A0#32, 0x80000001#32], .core (.vsubsLit true 9 10 0x80000001 (.on true false 5)))]

theorem test_words_vint : ∀ p ∈ words_vint, decodeAt 0 p.1 = .ok (p.2, 4 * p.1.length) := by decide +kernel

/-- Words computed by hand from the field positions of R87, R146. -/
def words_vcmp : List (List (BitVec 32) × Code) :=
  [([0x002D4149#32, 0x00000DC0#32], .core (.vcmpF32 .eq 1 10 11 (.on false true 6))),
   ([0x00AD4149#32, 0x00000DC0#32], .core (.vcmpF32 .ne 1 10 11 (.on false true 6))),
   ([0x012D4149#32, 0x00000DC0#32], .core (.vcmpF32 .lt 1 10 11 (.on false true 6))),
   ([0x01AD4149#32, 0x00000DC0#32], .core (.vcmpF32 .le 1 10 11 (.on false true 6))),
   ([0x022D4149#32, 0x00000DC0#32], .core (.vcmpF32 .gt 1 10 11 (.on false true 6))),
   ([0x02AD4149#32, 0x00000DC0#32], .core (.vcmpF32 .ge 1 10 11 (.on false true 6))),
   ([0x032D4149#32, 0x00000DC0#32], .core (.vcmpF32 .un 1 10 11 (.on false true 6))),
   ([0x03AD4149#32, 0x00000DC0#32], .core (.vcmpF32 .ord 1 10 11 (.on false true 6))),
   ([0x042D4149#32, 0x00005BA0#32], .core (.vcmpI32 .eq 1 10 11 (.on true false 5))),
   ([0x04AD4149#32, 0x00005BA0#32], .core (.vcmpI32 .ne 1 10 11 (.on true false 5))),
   ([0x052D4149#32, 0x00005BA0#32], .core (.vcmpI32 .lt 1 10 11 (.on true false 5))),
   ([0x05AD4149#32, 0x00005BA0#32], .core (.vcmpI32 .ge 1 10 11 (.on true false 5))),
   ([0x062D4149#32, 0x00005BA0#32], .core (.vcmpI32 .ltn 1 10 11 (.on true false 5))),
   ([0x06AD4149#32, 0x00005BA0#32], .core (.vcmpI32 .gen 1 10 11 (.on true false 5))),
   ([0x072D4149#32, 0x00005BA0#32], .core (.vcmpI32 .gt 1 10 11 (.on true false 5))),
   ([0x07AD4149#32, 0x00005BA0#32], .core (.vcmpI32 .le 1 10 11 (.on true false 5))),
   ([0x082D4149#32, 0x00005BA0#32], .core (.vcmpI32 .gtn 1 10 11 (.on true false 5))),
   ([0x08AD4149#32, 0x00005BA0#32], .core (.vcmpI32 .len 1 10 11 (.on true false 5))),
   ([0x102D4949#32, 0x000003A0#32], .core (.vsel 9 10 11 (.on true false 5))),
   ([0x10814949#32, 0x000003A0#32], .core (.vmcnt 9 10 (.on true false 5))),
   ([0x11014949#32, 0x000003A0#32], .core (.vfirst 9 10 (.on true false 5))),
   ([0x118C4149#32, 0x000005C0#32], .core (.vmand 1 2 3 (.on false true 6))),
   ([0x120C4149#32, 0x000005C0#32], .core (.vmor 1 2 3 (.on false true 6))),
   ([0x128C4149#32, 0x000005C0#32], .core (.vmxor 1 2 3 (.on false true 6))),
   ([0x13004149#32, 0x000005C0#32], .core (.vmnot 1 2 (.on false true 6)))]

theorem test_words_vcmp : ∀ p ∈ words_vcmp, decodeAt 0 p.1 = .ok (p.2, 4 * p.1.length) := by decide +kernel

/-- Words computed by hand from the field positions of R87, R147, R148. -/
def words_vmove : List (List (BitVec 32) × Code) :=
  [([0x002D494D#32, 0x000005C0#32], .core (.vperm 9 10 11 (.on false true 6))),
   ([0x0081494D#32, 0x000005C0#32], .core (.vbcast 9 10 (.on false true 6))),
   ([0x0080094E#32, 0x00000BA0#32, 0x40490FDB#32], .core (.vbcastLit .f32 9 0x40490FDB (.on true false 5))),
   ([0x0080094E#32, 0x00005BA0#32, 0x40490FDB#32], .core (.vbcastLit .i32 9 0x40490FDB (.on true false 5))),
   ([0x0080094E#32, 0x000063A0#32, 0x40490FDB#32], .core (.vbcastLit .n32 9 0x40490FDB (.on true false 5))),
   ([0x0101494D#32, 0x000F5800#32], .core (.vext true 9 10 15)),
   ([0x0101494D#32, 0x00070000#32], .core (.vext false 9 10 7)),
   ([0x0181494D#32, 0x000E0000#32], .core (.vins 9 10 14)),
   ([0x022D494D#32, 0x000D05C0#32], .core (.vslide 9 10 11 13 (.on false true 6))),
   ([0x0281494D#32, 0x000003A0#32], .core (.vcompress 9 10 (.on true false 5))),
   ([0x0301494D#32, 0x000003A0#32], .core (.vexpand 9 10 (.on true false 5))),
   ([0x0381494D#32, 0x000003A0#32], .core (.vmov 9 10 (.on true false 5)))]

theorem test_words_vmove : ∀ p ∈ words_vmove, decodeAt 0 p.1 = .ok (p.2, 4 * p.1.length) := by decide +kernel

/-- Words computed by hand from the field positions of R87, R149. -/
def words_vred : List (List (BitVec 32) × Code) :=
  [([0x00014951#32, 0x00000BA0#32], .core (.vredAdd .f32 9 10 (.on true false 5))),
   ([0x00014951#32, 0x00005BA0#32], .core (.vredAdd .i32 9 10 (.on true false 5))),
   ([0x00014951#32, 0x000063A0#32], .core (.vredAdd .n32 9 10 (.on true false 5))),
   ([0x00814951#32, 0x00000BA0#32], .core (.vredMin .f32 9 10 (.on true false 5))),
   ([0x00814951#32, 0x00005BA0#32], .core (.vredMin .i32 9 10 (.on true false 5))),
   ([0x00814951#32, 0x000063A0#32], .core (.vredMin .n32 9 10 (.on true false 5))),
   ([0x01014951#32, 0x00000BA0#32], .core (.vredMax .f32 9 10 (.on true false 5))),
   ([0x01014951#32, 0x00005BA0#32], .core (.vredMax .i32 9 10 (.on true false 5))),
   ([0x01014951#32, 0x000063A0#32], .core (.vredMax .n32 9 10 (.on true false 5))),
   ([0x01814951#32, 0x000063A0#32], .core (.vredAnd 9 10 (.on true false 5))),
   ([0x02014951#32, 0x000063A0#32], .core (.vredOr 9 10 (.on true false 5))),
   ([0x02814951#32, 0x000063A0#32], .core (.vredXor 9 10 (.on true false 5))),
   ([0x04014951#32, 0x00000DC0#32], .core (.vscanAdd .f32 9 10 (.on false true 6))),
   ([0x04014951#32, 0x00005DC0#32], .core (.vscanAdd .i32 9 10 (.on false true 6))),
   ([0x04014951#32, 0x000065C0#32], .core (.vscanAdd .n32 9 10 (.on false true 6))),
   ([0x04814951#32, 0x00000DC0#32], .core (.vscanMin .f32 9 10 (.on false true 6))),
   ([0x04814951#32, 0x00005DC0#32], .core (.vscanMin .i32 9 10 (.on false true 6))),
   ([0x04814951#32, 0x000065C0#32], .core (.vscanMin .n32 9 10 (.on false true 6))),
   ([0x05014951#32, 0x00000DC0#32], .core (.vscanMax .f32 9 10 (.on false true 6))),
   ([0x05014951#32, 0x00005DC0#32], .core (.vscanMax .i32 9 10 (.on false true 6))),
   ([0x05014951#32, 0x000065C0#32], .core (.vscanMax .n32 9 10 (.on false true 6)))]

theorem test_words_vred : ∀ p ∈ words_vred, decodeAt 0 p.1 = .ok (p.2, 4 * p.1.length) := by decide +kernel

/-- Words computed by hand from the field positions of R87, R151 to R154. -/
def words_vcvt : List (List (BitVec 32) × Code) :=
  [([0x00014955#32, 0x000115C0#32], .core (.vcvt .bf16 .f32 9 10 (.on false true 6))),
   ([0x00014955#32, 0x00070DC0#32], .core (.vcvt .f32 .i8 9 10 (.on false true 6))),
   ([0x00014955#32, 0x000155C0#32], .core (.vcvt .n16 .f32 9 10 (.on false true 6))),
   ([0x00014955#32, 0x00060DC0#32], .core (.vcvt .f32 .lg6 9 10 (.on false true 6))),
   ([0x00014955#32, 0x00012DC0#32], .core (.vcvt .e5m2 .f32 9 10 (.on false true 6))),
   ([0x00014955#32, 0x00015DC0#32], .core (.vcvt .i32 .f32 9 10 (.on false true 6))),
   ([0x00AD4955#32, 0x00011000#32], .core (.vpack .bf16 .f32 9 10 11 false)),
   ([0x00AD4955#32, 0x001B3800#32], .core (.vpack .i8 .i32 9 10 11 true)),
   ([0x01014955#32, 0x00120800#32], .core (.vunpack .f32 .bf16 9 10 1)),
   ([0x01014955#32, 0x00340800#32], .core (.vunpack .f32 .e4m3 9 10 3)),
   ([0x01AD4955#32, 0x00012000#32], .core (.vqnt .e4m3 9 10 11 none)),
   ([0x01AD4955#32, 0x0041300C#32], .core (.vqnt .lg6 9 10 11 (some 12))),
   ([0x02014955#32, 0x00410800#32], .core (.vmaxx 9 10 4))]

theorem test_words_vcvt : ∀ p ∈ words_vcvt, decodeAt 0 p.1 = .ok (p.2, 4 * p.1.length) := by decide +kernel

/-- Words computed by hand from the field positions of R87, R156, R159, R160. -/
def words_vmem : List (List (BitVec 32) × Code) :=
  [([0x0034A959#32, 0xFF8005C0#32], .core (.vld 9 6 37 0xFF80 (.on false true 6))),
   ([0x0134A959#32, 0xFF8003A0#32], .core (.vst 9 6 37 0xFF80 (.on true false 5))),
   ([0x0234A959#32, 0xFF8005CC#32], .core (.vlds 9 6 12 37 0xFF80 (.on false true 6))),
   ([0x0334A959#32, 0xFF8003AC#32], .core (.vsts 9 6 12 37 0xFF80 (.on true false 5))),
   ([0x0434A959#32, 0xFF8005CC#32], .core (.vldx 9 6 12 37 0xFF80 (.on false true 6))),
   ([0x0534A959#32, 0xFF8003AC#32], .core (.vstx 9 6 12 37 0xFF80 (.on true false 5))),
   ([0x0001E05C#32], .core (.vclaim 15)),
   ([0x0080005C#32], .core .vrelease)]

theorem test_words_vmem : ∀ p ∈ words_vmem, decodeAt 0 p.1 = .ok (p.2, 4 * p.1.length) := by decide +kernel

/-- Words computed by hand from the field positions of R80, R81, R120, R181, R182. -/
def words_load : List (List (BitVec 32) × Code) :=
  [([0xF034A960#32], .core (.ldI8 9 6 37 0x1E)),
   ([0x0034A961#32, 0x020FFFC0#32], .core (.ldI8Mk 9 6 37 0xFFFC0 true none)),
   ([0x0034A961#32, 0x34000040#32], .core (.ldI8Mk 9 6 37 0x40 false (some .device))),
   ([0x0034A962#32, 0x14000000#32, 0x89ABCDEF#32], .core (.ldI8Mkl 9 6 37 0x89ABCDEF false (some .grove))),
   ([0xF134A960#32], .core (.ldN8 9 6 37 0x1E)),
   ([0x0134A961#32, 0x020FFFC0#32], .core (.ldN8Mk 9 6 37 0xFFFC0 true none)),
   ([0x0134A961#32, 0x34000040#32], .core (.ldN8Mk 9 6 37 0x40 false (some .device))),
   ([0x0134A962#32, 0x14000000#32, 0x89ABCDEF#32], .core (.ldN8Mkl 9 6 37 0x89ABCDEF false (some .grove))),
   ([0xF234A960#32], .core (.ldI16 9 6 37 0x1E)),
   ([0x0234A961#32, 0x020FFFC0#32], .core (.ldI16Mk 9 6 37 0xFFFC0 true none)),
   ([0x0234A961#32, 0x34000040#32], .core (.ldI16Mk 9 6 37 0x40 false (some .device))),
   ([0x0234A962#32, 0x14000000#32, 0x89ABCDEF#32], .core (.ldI16Mkl 9 6 37 0x89ABCDEF false (some .grove))),
   ([0xF334A960#32], .core (.ldN16 9 6 37 0x1E)),
   ([0x0334A961#32, 0x020FFFC0#32], .core (.ldN16Mk 9 6 37 0xFFFC0 true none)),
   ([0x0334A961#32, 0x34000040#32], .core (.ldN16Mk 9 6 37 0x40 false (some .device))),
   ([0x0334A962#32, 0x14000000#32, 0x89ABCDEF#32], .core (.ldN16Mkl 9 6 37 0x89ABCDEF false (some .grove))),
   ([0xF434A960#32], .core (.ldI32 9 6 37 0x1E)),
   ([0x0434A961#32, 0x020FFFC0#32], .core (.ldI32Mk 9 6 37 0xFFFC0 true none)),
   ([0x0434A961#32, 0x34000040#32], .core (.ldI32Mk 9 6 37 0x40 false (some .device))),
   ([0x0434A962#32, 0x14000000#32, 0x89ABCDEF#32], .core (.ldI32Mkl 9 6 37 0x89ABCDEF false (some .grove))),
   ([0xF534A960#32], .core (.ldN32 9 6 37 0x1E)),
   ([0x0534A961#32, 0x020FFFC0#32], .core (.ldN32Mk 9 6 37 0xFFFC0 true none)),
   ([0x0534A961#32, 0x34000040#32], .core (.ldN32Mk 9 6 37 0x40 false (some .device))),
   ([0x0534A962#32, 0x14000000#32, 0x89ABCDEF#32], .core (.ldN32Mkl 9 6 37 0x89ABCDEF false (some .grove))),
   ([0xF634A960#32], .core (.ldI64 9 6 37 0x1E)),
   ([0x0634A961#32, 0x020FFFC0#32], .core (.ldI64Mk 9 6 37 0xFFFC0 true none)),
   ([0x0634A961#32, 0x34000040#32], .core (.ldI64Mk 9 6 37 0x40 false (some .device))),
   ([0x0634A962#32, 0x14000000#32, 0x89ABCDEF#32], .core (.ldI64Mkl 9 6 37 0x89ABCDEF false (some .grove))),
   ([0xF734A960#32], .core (.lea 9 6 37 0x1E)),
   ([0x0734A961#32, 0x000FFFC0#32], .core (.leaMk 9 6 37 0xFFFC0)),
   ([0x0734A962#32, 0x00000000#32, 0x89ABCDEF#32], .core (.leaMkl 9 6 37 0x89ABCDEF))]

theorem test_words_load : ∀ p ∈ words_load, decodeAt 0 p.1 = .ok (p.2, 4 * p.1.length) := by decide +kernel

/-- Words computed by hand from the field positions of R80, R81, R181, R183. -/
def words_store : List (List (BitVec 32) × Code) :=
  [([0x7834A964#32], .core (.stI8 9 6 37 0x0F)),
   ([0x0034A965#32, 0x00000100#32], .core (.stI8Mk 9 6 37 0x100 none)),
   ([0x0034A965#32, 0x48000018#32], .core (.stI8Mk 9 6 37 0x18 (some .fabric))),
   ([0x0034A966#32, 0x08000000#32, 0x80000008#32], .core (.stI8Mkl 9 6 37 0x80000008 (some .core))),
   ([0x7934A964#32], .core (.stI16 9 6 37 0x0F)),
   ([0x0134A965#32, 0x00000100#32], .core (.stI16Mk 9 6 37 0x100 none)),
   ([0x0134A965#32, 0x48000018#32], .core (.stI16Mk 9 6 37 0x18 (some .fabric))),
   ([0x0134A966#32, 0x08000000#32, 0x80000008#32], .core (.stI16Mkl 9 6 37 0x80000008 (some .core))),
   ([0x7A34A964#32], .core (.stI32 9 6 37 0x0F)),
   ([0x0234A965#32, 0x00000100#32], .core (.stI32Mk 9 6 37 0x100 none)),
   ([0x0234A965#32, 0x48000018#32], .core (.stI32Mk 9 6 37 0x18 (some .fabric))),
   ([0x0234A966#32, 0x08000000#32, 0x80000008#32], .core (.stI32Mkl 9 6 37 0x80000008 (some .core))),
   ([0x7B34A964#32], .core (.stI64 9 6 37 0x0F)),
   ([0x0334A965#32, 0x00000100#32], .core (.stI64Mk 9 6 37 0x100 none)),
   ([0x0334A965#32, 0x48000018#32], .core (.stI64Mk 9 6 37 0x18 (some .fabric))),
   ([0x0334A966#32, 0x08000000#32, 0x80000008#32], .core (.stI64Mkl 9 6 37 0x80000008 (some .core)))]

theorem test_words_store : ∀ p ∈ words_store, decodeAt 0 p.1 = .ok (p.2, 4 * p.1.length) := by decide +kernel

/-- Words computed by hand from the field positions of R85, R185. -/
def words_atomic : List (List (BitVec 32) × Code) :=
  [([0x0134A969#32, 0x24B00010#32], .core (.amoAdd true 9 6 11 37 0x10 true false .die)),
   ([0x0034A969#32, 0x38BFFFF8#32], .core (.amoAdd false 9 6 11 37 0xFFFF8 false true .device)),
   ([0x0934A969#32, 0x24B00010#32], .core (.amoAnd true 9 6 11 37 0x10 true false .die)),
   ([0x0834A969#32, 0x38BFFFF8#32], .core (.amoAnd false 9 6 11 37 0xFFFF8 false true .device)),
   ([0x1134A969#32, 0x24B00010#32], .core (.amoOr true 9 6 11 37 0x10 true false .die)),
   ([0x1034A969#32, 0x38BFFFF8#32], .core (.amoOr false 9 6 11 37 0xFFFF8 false true .device)),
   ([0x1934A969#32, 0x24B00010#32], .core (.amoXor true 9 6 11 37 0x10 true false .die)),
   ([0x1834A969#32, 0x38BFFFF8#32], .core (.amoXor false 9 6 11 37 0xFFFF8 false true .device)),
   ([0x2134A969#32, 0x24B00010#32], .core (.amoMin true 9 6 11 37 0x10 true false .die)),
   ([0x2034A969#32, 0x38BFFFF8#32], .core (.amoMin false 9 6 11 37 0xFFFF8 false true .device)),
   ([0x2934A969#32, 0x24B00010#32], .core (.amoMax true 9 6 11 37 0x10 true false .die)),
   ([0x2834A969#32, 0x38BFFFF8#32], .core (.amoMax false 9 6 11 37 0xFFFF8 false true .device)),
   ([0x3134A969#32, 0x24B00010#32], .core (.amoMinn true 9 6 11 37 0x10 true false .die)),
   ([0x3034A969#32, 0x38BFFFF8#32], .core (.amoMinn false 9 6 11 37 0xFFFF8 false true .device)),
   ([0x3934A969#32, 0x24B00010#32], .core (.amoMaxn true 9 6 11 37 0x10 true false .die)),
   ([0x3834A969#32, 0x38BFFFF8#32], .core (.amoMaxn false 9 6 11 37 0xFFFF8 false true .device)),
   ([0x4134A969#32, 0x24B00010#32], .core (.amoSwap true 9 6 11 37 0x10 true false .die)),
   ([0x4034A969#32, 0x38BFFFF8#32], .core (.amoSwap false 9 6 11 37 0xFFFF8 false true .device)),
   ([0x4934A969#32, 0x24B00010#32], .core (.amoCas true 9 6 11 37 0x10 true false .die)),
   ([0x4834A969#32, 0x38BFFFF8#32], .core (.amoCas false 9 6 11 37 0xFFFF8 false true .device)),
   ([0x5034A969#32, 0x24B00010#32], .core (.amoFadd 9 6 11 37 0x10 true false .die)),
   ([0x5034A969#32, 0x38BFFFF8#32], .core (.amoFadd 9 6 11 37 0xFFFF8 false true .device)),
   ([0x5834A969#32, 0x24B00010#32], .core (.amoFmin 9 6 11 37 0x10 true false .die)),
   ([0x5834A969#32, 0x38BFFFF8#32], .core (.amoFmin 9 6 11 37 0xFFFF8 false true .device)),
   ([0x6034A969#32, 0x24B00010#32], .core (.amoFmax 9 6 11 37 0x10 true false .die)),
   ([0x6034A969#32, 0x38BFFFF8#32], .core (.amoFmax 9 6 11 37 0xFFFF8 false true .device))]

theorem test_words_atomic : ∀ p ∈ words_atomic, decodeAt 0 p.1 = .ok (p.2, 4 * p.1.length) := by decide +kernel

/-- Words computed by hand from the field positions of R85, R187 to R192. -/
def words_order : List (List (BitVec 32) × Code) :=
  [([0x0000006C#32], .core (.fence .core)),
   ([0x0080006C#32], .core (.fenceAcq .core)),
   ([0x0100006C#32], .core (.fenceRel .core)),
   ([0x0000206C#32], .core (.fence .grove)),
   ([0x0080206C#32], .core (.fenceAcq .grove)),
   ([0x0100206C#32], .core (.fenceRel .grove)),
   ([0x0000406C#32], .core (.fence .die)),
   ([0x0080406C#32], .core (.fenceAcq .die)),
   ([0x0100406C#32], .core (.fenceRel .die)),
   ([0x0000606C#32], .core (.fence .device)),
   ([0x0080606C#32], .core (.fenceAcq .device)),
   ([0x0100606C#32], .core (.fenceRel .device)),
   ([0x0000806C#32], .core (.fence .fabric)),
   ([0x0080806C#32], .core (.fenceAcq .fabric)),
   ([0x0100806C#32], .core (.fenceRel .fabric)),
   ([0x0180006C#32], .core .fenceW),
   ([0x0034A971#32, 0x24B00100#32], .core (.waita .eq 9 6 11 37 0x100 (some .die))),
   ([0x0134A971#32, 0x24B00100#32], .core (.waita .ne 9 6 11 37 0x100 (some .die))),
   ([0x0234A971#32, 0x24B00100#32], .core (.waita .lt 9 6 11 37 0x100 (some .die))),
   ([0x0334A971#32, 0x24B00100#32], .core (.waita .ge 9 6 11 37 0x100 (some .die))),
   ([0x0434A971#32, 0x24B00100#32], .core (.waita .ltn 9 6 11 37 0x100 (some .die))),
   ([0x0534A971#32, 0x24B00100#32], .core (.waita .gen 9 6 11 37 0x100 (some .die))),
   ([0x0034A971#32, 0x00BFFF00#32], .core (.waita .eq 9 6 11 37 0xFFF00 none)),
   ([0x0034A975#32, 0x00B00040#32], .core (.cinv 9 6 11 37 0x40)),
   ([0x0134A075#32, 0x00B00040#32], .core (.cwb 6 11 37 0x40)),
   ([0x0234A075#32, 0x00B00040#32], .core (.cflush 6 11 37 0x40)),
   ([0x0334A075#32, 0x00B00040#32], .core (.cpref 6 11 37 0x40))]

theorem test_words_order : ∀ p ∈ words_order, decodeAt 0 p.1 = .ok (p.2, 4 * p.1.length) := by decide +kernel

/-- Words computed by hand from the field positions of R81, R193 to R209, R222 to R236. -/
def words_engine : List (List (BitVec 32) × Code) :=
  [([0x002D4981#32, 0x0162A9A5#32], .core (.dcopy ⟨9, 10, 11, 12, 37, 38, .rel .die, .add, false⟩ true)),
   ([0x002D4981#32, 0x816479A5#32], .core (.dcopy ⟨9, 10, 11, 12, 37, 38, .acqRel .grove, .set, true⟩ true)),
   ([0x002D4081#32, 0x016009A5#32], .core (.dcopy ⟨0, 10, 11, 12, 37, 38, .plain, .none, false⟩ true)),
   ([0x00AD4981#32, 0x0162A9A5#32], .core (.dfill ⟨9, 10, 11, 12, 37, 38, .rel .die, .add, false⟩ true)),
   ([0x00AD4981#32, 0x816479A5#32], .core (.dfill ⟨9, 10, 11, 12, 37, 38, .acqRel .grove, .set, true⟩ true)),
   ([0x00AD4081#32, 0x016009A5#32], .core (.dfill ⟨0, 10, 11, 12, 37, 38, .plain, .none, false⟩ true)),
   ([0x012D4081#32, 0x00000000#32], .core (.dfree 10 11)),
   ([0x01AD4981#32, 0x1562A9A5#32], .core (.gather ⟨9, 10, 11, 12, 37, 38, .rel .die, .add, false⟩ 5 2)),
   ([0x01AD4981#32, 0x956479A5#32], .core (.gather ⟨9, 10, 11, 12, 37, 38, .acqRel .grove, .set, true⟩ 5 2)),
   ([0x01AD4081#32, 0x156009A5#32], .core (.gather ⟨0, 10, 11, 12, 37, 38, .plain, .none, false⟩ 5 2)),
   ([0x022D4981#32, 0x5D62A9A5#32], .core (.scatter ⟨9, 10, 11, 12, 37, 38, .rel .die, .add, false⟩ 5 3 2)),
   ([0x022D4981#32, 0xDD6479A5#32], .core (.scatter ⟨9, 10, 11, 12, 37, 38, .acqRel .grove, .set, true⟩ 5 3 2)),
   ([0x022D4081#32, 0x5D6009A5#32], .core (.scatter ⟨0, 10, 11, 12, 37, 38, .plain, .none, false⟩ 5 3 2)),
   ([0x02AD4981#32, 0x0162A9A5#32], .core (.spwalk ⟨9, 10, 11, 12, 37, 38, .rel .die, .add, false⟩ true false)),
   ([0x02AD4981#32, 0x816479A5#32], .core (.spwalk ⟨9, 10, 11, 12, 37, 38, .acqRel .grove, .set, true⟩ true false)),
   ([0x02AD4081#32, 0x016009A5#32], .core (.spwalk ⟨0, 10, 11, 12, 37, 38, .plain, .none, false⟩ true false)),
   ([0x02AD4981#32, 0x0262A9A5#32], .core (.spwalk ⟨9, 10, 11, 12, 37, 38, .rel .die, .add, false⟩ false true)),
   ([0x02AD4981#32, 0x826479A5#32], .core (.spwalk ⟨9, 10, 11, 12, 37, 38, .acqRel .grove, .set, true⟩ false true)),
   ([0x02AD4081#32, 0x026009A5#32], .core (.spwalk ⟨0, 10, 11, 12, 37, 38, .plain, .none, false⟩ false true)),
   ([0x032D4981#32, 0x0162A9A5#32], .core (.merge ⟨9, 10, 11, 12, 37, 38, .rel .die, .add, false⟩ true)),
   ([0x032D4981#32, 0x816479A5#32], .core (.merge ⟨9, 10, 11, 12, 37, 38, .acqRel .grove, .set, true⟩ true)),
   ([0x032D4081#32, 0x016009A5#32], .core (.merge ⟨0, 10, 11, 12, 37, 38, .plain, .none, false⟩ true)),
   ([0x002C0985#32, 0x6262D980#32], .core (.mldb ⟨9, 0, 11, 12, 0, 38, .acq .device, .add, false⟩ .bf16 false 3)),
   ([0x002C0985#32, 0xE262D980#32], .core (.mldb ⟨9, 0, 11, 12, 0, 38, .acq .device, .add, true⟩ .bf16 false 3)),
   ([0x002D4985#32, 0x56640980#32], .core (.mldb ⟨9, 10, 11, 12, 0, 38, .plain, .set, false⟩ .lg6 true 2)),
   ([0x00AD4985#32, 0x1662A9A5#32], .core (.mmac ⟨9, 10, 11, 12, 37, 38, .rel .die, .add, false⟩ 2 true false true)),
   ([0x00AD4985#32, 0x966479A5#32], .core (.mmac ⟨9, 10, 11, 12, 37, 38, .acqRel .grove, .set, true⟩ 2 true false true)),
   ([0x00AD4085#32, 0x166009A5#32], .core (.mmac ⟨0, 10, 11, 12, 37, 38, .plain, .none, false⟩ 2 true false true)),
   ([0x00AD4985#32, 0x0962A9A5#32], .core (.mmac ⟨9, 10, 11, 12, 37, 38, .rel .die, .add, false⟩ 1 false true false)),
   ([0x00AD4985#32, 0x896479A5#32], .core (.mmac ⟨9, 10, 11, 12, 37, 38, .acqRel .grove, .set, true⟩ 1 false true false)),
   ([0x00AD4085#32, 0x096009A5#32], .core (.mmac ⟨0, 10, 11, 12, 37, 38, .plain, .none, false⟩ 1 false true false)),
   ([0x012D4985#32, 0x0E62A9A5#32], .core (.mmacCoop ⟨9, 10, 11, 12, 37, 38, .rel .die, .add, false⟩ 2 true true)),
   ([0x012D4985#32, 0x8E6479A5#32], .core (.mmacCoop ⟨9, 10, 11, 12, 37, 38, .acqRel .grove, .set, true⟩ 2 true true)),
   ([0x012D4085#32, 0x0E6009A5#32], .core (.mmacCoop ⟨0, 10, 11, 12, 37, 38, .plain, .none, false⟩ 2 true true))]

theorem test_words_engine : ∀ p ∈ words_engine, decodeAt 0 p.1 = .ok (p.2, 4 * p.1.length) := by decide +kernel

/-- Words computed by hand from the field positions of R86, R248, R269, R305, R341, R358 to R371. -/
def words_late : List (List (BitVec 32) × Code) :=
  [([0x00014989#32, 0x05600025#32], .late (.rnew 9 10 12 37 5)),
   ([0x00AC0089#32, 0x00600000#32], .late (.rdel 11 12)),
   ([0x012D4089#32, 0x00609025#32], .late (.rld 10 11 12 37 (some .die))),
   ([0x01AD4989#32, 0x00606025#32], .late (.rst 9 10 11 12 37 (some .grove))),
   ([0x022C0989#32, 0x00600000#32], .late (.rloc 9 11 12)),
   ([0x02AD4989#32, 0x0F600025#32], .late (.qbox 9 10 11 12 37 15)),
   ([0x032D4989#32, 0x08600025#32], .late (.qrad 9 10 11 12 37 8)),
   ([0x002D498D#32, 0x06600025#32], .late (.gld 9 10 11 12 37 6)),
   ([0x00AD498D#32, 0x09600025#32], .late (.gst 9 10 11 12 37 9)),
   ([0x0100008D#32, 0x0F600000#32], .late (.gstep 12 15)),
   ([0x002D4991#32, 0x80632980#32], .late (.put ⟨9, 10, 11, 12, 38, .rel .fabric, .add, true⟩)),
   ([0x00AD4091#32, 0x00600980#32], .late (.get ⟨0, 10, 11, 12, 38, .plain, .none, false⟩)),
   ([0x00AD4991#32, 0x00649980#32], .late (.get ⟨9, 10, 11, 12, 38, .acq .die, .set, false⟩)),
   ([0x012D4991#32, 0x00600000#32], .late (.msg 9 10 11 12)),
   ([0x01814991#32, 0x01000025#32], .late (.recv 9 10 37 true)),
   ([0x01814991#32, 0x00000025#32], .late (.recv 9 10 37 false)),
   ([0x022D4991#32, 0x80640980#32], .late (.pub 9 10 11 12 38 .set true)),
   ([0x02800991#32, 0x00000000#32], .late (.rblk 9)),
   ([0x02AD4091#32, 0x01000000#32], .late (.rblkSet 10 11)),
   ([0x032D4091#32, 0x046009A5#32], .late (.baddq .e4m3 10 11 12 37 38)),
   ([0x032D4091#32, 0x056009A5#32], .late (.baddq .e5m2 10 11 12 37 38)),
   ([0x032D4091#32, 0x066009A5#32], .late (.baddq .lg6 10 11 12 37 38)),
   ([0x032D4091#32, 0x076009A5#32], .late (.baddq .i8 10 11 12 37 38)),
   ([0x00014099#32, 0x000009A5#32], .late (.sset 10 37 38)),
   ([0x00014099#32, 0x010009A5#32], .late (.ssetT 10 37 38)),
   ([0x00AD4999#32, 0x01600000#32], .late (.tlbinv true 9 10 11 12)),
   ([0x00AD4099#32, 0x00600000#32], .late (.tlbinv false 0 10 11 12)),
   ([0x01014099#32, 0xC8000025#32], .late (.gtw 10 37 200)),
   ([0x01814099#32, 0x16000025#32], .late (.pbind true 10 37 6)),
   ([0x01814099#32, 0x0F000025#32], .late (.pbind false 10 37 15)),
   ([0x01800099#32, 0x36000000#32], .late (.pbindU true 6)),
   ([0x022D4099#32, 0x3F000000#32], .late (.crange false 10 11 63)),
   ([0x02000099#32, 0x51000000#32], .late (.crange true 0 0 17)),
   ([0x00014995#32, 0x0000A025#32], .late (.spawn 9 10 37 (some .die))),
   ([0x00014995#32, 0x00000025#32], .late (.spawn 9 10 37 none)),
   ([0x00800094#32], .core .kchk),
   ([0x192D4994#32], .late (.iupd 9 10 11 3)),
   ([0x19800994#32], .late (.ird 9 0 3)),
   ([0x19814994#32], .late (.ird 9 10 3)),
   ([0x02014094#32], .late (.bar 10)),
   ([0x02814994#32], .late (.sstep 9 10)),
   ([0x032D4994#32], .late (.dset 9 10 11)),
   ([0x03AD4994#32], .late (.ddec 9 10 11))]

theorem test_words_late : ∀ p ∈ words_late, decodeAt 0 p.1 = .ok (p.2, 4 * p.1.length) := by decide +kernel

/-! ## States for the tests -/

/-- A loaded task on core 0 of die 0 whose next instruction is a `nop` (log 20). -/
def base : State := State.reset.withFetchWord 32 0x2C

/-- The same with an image that f changes. -/
def st (f : Image → Image) : State := base.updCtx 0 fun c => { c with img := f c.img }

/-- Its active context. -/
def cx (f : Image → Image) : Ctx := { loadedCtx with img := f loadedCtx.img }

/-- A `global` segment of 64 KiB at 0x1000_0000 under ASID 1, R and W. -/
def gseg : Desc := ⟨0x10000000, 0x10000, 0x1C1, 0⟩

/-- The `cluster` segment of all 1.5 MiB. -/
def cseg : Desc := ⟨0, 0x180000, 0xC2, 0⟩

/-- Slot 1 `global`, slot 2 `cluster`, and some registers. -/
def rich (m : Image) : Image :=
  (((((m.setSlot 1 gseg).setSlot 2 cseg).setX 5 64).setX 6 3).setX 7 0xFFFFFFFFFFFFFFFE)

/-- At system privilege. -/
def sys (m : Image) : Image := { m with status := setBit m.status 4 true }

/-- The image after an outcome. -/
def img? (o : Out) : Option Image :=
  match o with
  | .next t => (t.ctx? 0).map fun c => c.img
  | _ => none

/-- The state after an outcome. -/
def ran (o : Out) : State :=
  match o with
  | .next t => t
  | _ => State.reset

/-- One x register and the pc after an outcome. -/
def xpc (r : Reg) (o : Out) : Option (Nat × Nat) := (img? o).map fun m => ((m.getX r).toNat, m.pc.toNat)

/-- Is an answer a success? -/
def good {ε α : Type} (r : State × Except ε α) : Bool :=
  match r.2 with
  | .ok _ => true
  | .error _ => false

/-- The state with ASID 0 mapped and, at tvec 0x8000, the handler 0x9000 for codes 16 and 17 and no valid entry else (R372). -/
def vectored (s : State) : State :=
  let s1 := s.setDie 0 { s.die 0 with tvec := 0x8000 }
  { s1 with ptroot := s1.ptroot.set 0 0x2001#64 }.homeWrite 0x8080 (leBytes 8 0x9001 ++ leBytes 8 0x9001)

/-- Free to execute, whatever registers an instruction names. -/
theorem ready (f : Image → Image) (h : (f loadedCtx.img).pp = false) (rs : List Reg) : (st f).Ready 0 (cx f) rs := ⟨rfl, h, rfl⟩

/-- The same for any state, by evaluation. -/
theorem readyOf {s : State} {cid : Nat} {c : Ctx} {rs : List Reg}
    (h : (decide (s.active? = some (cid, c)) && !c.img.pp && !interlocked c.ring rs) = true) : s.Ready cid c rs := by
  simp only [Bool.and_eq_true, decide_eq_true_eq, Bool.not_eq_true'] at h
  exact ⟨h.1.1, h.1.2, h.2⟩

/-- Room in the ring of the core whose turn it is, and the registers held. -/
theorem room {s : State} {c : Ctx} {vs : List Reg} (h : decide ((s.coreRing s.here).length < 64) = true) (k : c.img.badV vs = none) : s.Room c vs :=
  ⟨by simpa using h, k⟩

/-- The invariant of memory, by evaluation. -/
theorem memInv_of {s : State} (h : (s.dram.wf && s.staging.wf && s.groves.all (fun p => p.2.cluster.wf) && s.saves.isEmpty) = true) : s.MemInv := by
  simp only [Bool.and_eq_true, List.all_eq_true, List.isEmpty_iff] at h
  obtain ⟨⟨⟨h1, h2⟩, h3⟩, h4⟩ := h
  exact ⟨⟨h1, h2, h3⟩, by rw [h4]; simp⟩

/-- No line of a register cache is bad where nothing in SRAM is. -/
theorem regsSound {s : State} (h : s.badSram = []) : s.RegsSound := fun _ _ _ => by rw [h]; exact List.not_mem_nil

/-- With the prefix fmt.x.x.x.ru pending. -/
def ru (m : Image) : Image := { m.setPp true with pfx := 0x30000 }

/-- At system privilege with a given epc. -/
def back (epc : Word) (m : Image) : Image := { sys m with epc := epc }

/-- A service core of die 0 runs firmware. -/
def firmware : State := { State.reset.startFirmware 0 0 with here := 16384 }

/-- v4 is 1 in lane 3 only: under the mask v4, no lane but 3 is active, and under its inverse with v5 all ones none is. -/
def masks (m : Image) : Image := (m.setV 4 (1#512 <<< 96)).setV 5 (BitVec.allOnes 512)

/-- An entry of the context's ring, with the older ones. -/
def entry? (s : State) (seq : Nat) : Option (Ctx × List RingEntry × RingEntry) :=
  (s.ctx? 0).bind fun c => (splitRing c.ring seq).map fun p => (c, p.1, p.2)

/-- Does an entry of the context meet a condition, with the context on core 0? -/
def meets (s : State) (seq : Nat) (p : Ctx → List RingEntry → RingEntry → Bool) : Bool :=
  (entry? s seq).any fun q => q.1.core? == some 0 && p q.1 q.2.1 q.2.2

/-- Nothing holds an entry back. -/
def free (older : List RingEntry) (e : RingEntry) : Bool := !older.any fun o => holdsBack o e

/-- Where an access of core 0 to a segment lands. -/
def pa? (s : State) (d : Desc) (off : Int) (acc : Access) : Option (State × Nat) :=
  match s.accessPa 0 d off acc (acc != .read) with
  | (t, .ok pa) => some (t, pa)
  | _ => none

/-- No partial of a commutative range waits on a line (a test of `State.Plain`). -/
def plain (s : State) (line : Nat) : Bool :=
  (s.comb? line).isNone && s.groves.all fun p => (p.2.line? line).all fun l => l.upd.isNone

/-- A test of `State.PlainRange`. -/
def plainRange (s : State) (pa n : Nat) : Bool :=
  plain s (lineOf pa) && decide (pa % 128 + n ≤ 128) && (mgmtAt? pa).isNone && (List.range n).all (fun k => (s.imageAt? (pa + k)).isNone) &&
    s.dies.all fun p => p.2.mbArea.all fun a => decide (pa + n ≤ a.2) || decide (a.2 + 65536 ≤ pa)

/-- A test of `State.MemInv`, with no checkpoint taken. -/
def canon (s : State) : Bool := s.dram.wf && s.staging.wf && s.groves.all (fun p => p.2.cluster.wf) && s.saves.isEmpty

/-- Fewer than eight lines of a line's set are in a grove's L1. -/
def roomy (s : State) (g line : Nat) : Bool :=
  decide (((s.grove g).l1.filter fun l => l.line % 64 == line % 64 && l.line != line).length < 8)

/-- The ring of the core whose turn it is. -/
def ringHere (s : State) : List RingEntry := s.coreRing s.here

/-- A state whose core 0 has loaded and stored a word of line 0x200000 through its L1. -/
def cached : State := ran (exec (.stI64 6 5 1 0) (ran (exec (.ldI64 9 5 1 0) (st rich))))

/-- With an engine command in the ring that is not yet accepted. -/
def unaccepted (f : Image → Image) : State := ran (exec (.dcopy ⟨0, 5, 5, 5, 2, 2, .plain, .none, false⟩ false) (st f))

/-- Registers of a command: X(5) = 64, X(6) = 3, X(7) below zero, X(8) a length of 1,024, X(9) an offset of 0x8000. -/
def cmdRegs (m : Image) : Image := ((rich m).setX 8 1024).setX 9 0x8000

/-- The engine command of a number, with a condition on it. -/
def engine (s : State) (id : Nat) (p : EngCmd → Bool) : Bool := (s.engine? 0 id).any p

/-- Group 3 of the cores 0 and 8, so of groves 0 and 1. -/
def grouped (s : State) : State := { s with groups := s.groups.set 3 { members := [0, 8], step := 0, phase := .idle } }

/-! ## Single steps against the worked examples of the spec -/

/-- An outcome's image, with two x registers set before and what vector registers the test needs. -/
def two (p q : Word) (m : Image) : Image := (m.setX 11 p).setX 12 q

/-- File 6, after R116: −7 by 2, and 7 by −2. -/
theorem test_div : xpc 14 (exec (.div 14 11 12) (st (two (-7) 2))) = some (0xFFFFFFFFFFFFFFFD, 0x10004) ∧
    xpc 14 (exec (.rem 14 11 12) (st (two 7 (-2)))) = some (1, 0x10004) := by decide +kernel

/-- File 6, after R116: 0xFFFF_FFFF_FFFF_FFF9 by 2. -/
theorem test_divn : xpc 14 (exec (.divn 14 11 12) (st (two 0xFFFFFFFFFFFFFFF9 2))) = some (0x7FFFFFFFFFFFFFFC, 0x10004) ∧
    xpc 14 (exec (.remn 14 11 12) (st (two 0xFFFFFFFFFFFFFFF9 2))) = some (1, 0x10004) := by decide +kernel

/-- File 6, after R129: 2.5 to .i32 under RNE and, with a prefix, under RU. -/
theorem test_fcvt : (xpc 14 (exec (.fcvtI32F32 14 11) (st (two 0x40200000 0)))).map Prod.fst = some 2 ∧
    (xpc 14 (exec (.fcvtI32F32 14 11) (st fun m => ru (two 0x40200000 0 m)))).map Prod.fst = some 3 := by decide +kernel

/-- File 2, after R30: code 0x12 times code 0x13 is 2.37890625. -/
theorem test_lg6_product : (roundF32 .rne (lgMul 0x12 0x13)).1 = 0x40184000 := by decide +kernel

/-- File 2, after R31: 1.3 gives 0x12, 0.05 gives 0x00, −20.0 gives 0x3F. -/
theorem test_to_lg6 : (toLg6 (valF32 0x3FA66666)).1 = 0x12 ∧ (toLg6 (valF32 0x3D4CCCCD)).1 = 0 ∧ (toLg6 (valF32 0xC1A00000)).1 = 0x3F := by
  decide +kernel

/-- The image once a vector instruction, dispatched alone, is complete. -/
def vec (i : Instr) (f : Image → Image) : Option Image := img? (execRingEntryComplete 0 0 (ran (exec i (st f))))

/-- File 7, after R151: 300.0, 1000.0 and 0.001 as E4M3. -/
theorem test_vcvt : (vec (.vcvt .e4m3 .f32 5 9 .all) fun m => m.setV 9 (ofLanes [0x43960000, 0x447A0000, 0x3A83126F])).map
    (fun m => [lane (m.getV 5) 0, lane (m.getV 5) 1, lane (m.getV 5) 2]) = some [0x79, 0x7E, 0x01] := by decide +kernel

/-- File 7, after R149: 2^24 in lane 0 and 1.0 in the others, by the tree and by the scan. -/
theorem test_vred_add : (vec (.vredAdd .f32 14 4 .all) fun m => m.setV 4 (ofLanes (0x4B800000 :: List.replicate 15 0x3F800000))).map
    (fun m => m.getX 14) = some 0x4B800007 := by decide +kernel

theorem test_vscan_add : (vec (.vscanAdd .f32 5 4 .all) fun m => m.setV 4 (ofLanes (0x4B800000 :: List.replicate 15 0x3F800000))).map
    (fun m => lane (m.getV 5) 15) = some 0x4B800000 := by decide +kernel

/-- File 7, after R148: `vcompress.z v3, v6 if v2` with mask bits in lanes 1, 4, 5 and 9. -/
theorem test_vcompress : (vec (.vcompress 3 6 (.on false true 2)) fun m =>
      (m.setV 2 (ofLanes ((List.range 16).map fun i => if i = 1 ∨ i = 4 ∨ i = 5 ∨ i = 9 then 1 else 0))).setV 6
        (ofLanes ((List.range 16).map fun i => BitVec.ofNat 32 (100 + i)))).map
    (fun m => (List.range 6).map fun i => lane (m.getV 3) i) = some [101, 104, 105, 109, 0, 0] := by decide +kernel

/-- File 2, after R43: 2^24 and the products 1 and 2^−48 give 2^24. -/
theorem test_mat_step : matStep 0x4B800000
    (FV.mul (valF32 0x3F800000) (valF32 0x3F800000) :: FV.mul (valF32 0x33800000) (valF32 0x33800000) :: []).unzip.1 = 0x4B800000 := by decide +kernel

/-- File 9, after R185: M is 5, X(8) is 5 and X(9) is 7. -/
theorem test_amo_cas :
    (let s := (st fun m => (((m.setSlot 2 cseg).setX 8 5).setX 9 7).setX 5 64).bankWrite 0 64 (leBytes 4 5)
     let t := ran (exec (.amoCas false 8 5 9 2 0 false false .grove) s)
     leNat (t.bankBytes 0 64 4) = 7 ∧ (t.ctx? 0).map (fun c => (c.img.getX 8).toNat) = some 5) := by decide +kernel

/-- File 16, after R351: 1.0 plus 2.0 under scales of 127. -/
theorem test_baddq :
    (let blk := fun b : Byte => List.replicate 32 b ++ [127] ++ List.replicate 31 0
     (baddq .e4m3 (blk 0x38) (blk 0x40)).take 33 = List.replicate 32 0x7C ++ [0x78]) := by decide +kernel

/-- File 12, after R239: (0.0, 1.0) lies in region 3. -/
theorem test_region : regionOf [[0xC0000000, 0, 0x40000000], [0, 0x3F800000, 0x40400000]] [0, 0x3F800000, 0] = some 3 := by decide +kernel

/-- File 17, after R362: 0x0000_0002_4025_1234 through a leaf of 2 MiB. -/
theorem test_walk :
    (let s := (base.homeWrite 0x4048 (leBytes 8 0x5001)).homeWrite 0x5008 (leBytes 8 0x100040000F)
     match (s.walk 0 1 0x240251234).2 with
     | .ok l => (match s.useLeaf l 0x240251234 .read with | .ok pa => pa == 0x100045_1234 | .error _ => false) &&
         (match s.useLeaf l 0x240251234 .fetch with | .ok _ => false | .error e => e == 4)
     | .error _ => false) = true := by decide +kernel

/-- File 18, after R377: slot 41 of die 2 holds 3, `ddec` by 2. -/
theorem test_ddec :
    (let s := (st (two (BitVec.ofNat 64 (2 * 4096 + 41)) 2)).dslotSet 2 41 3
     let t := ran (exec (.ddec 14 11 12) s)
     (t.ctx? 0).map (fun c => (c.img.getX 14).toNat) = some 3 ∧ t.dslot 2 41 = 1) := by decide +kernel

/-- A step of the machine fetches and runs the word that stands at the pc. -/
theorem test_step : xpc 5 (step (State.reset.withFetchWord 32 0x001CC504)) = some (0, 0x10004) := by decide +kernel

/-- GB/T 32905 itself, example 1: the digest of the three bytes "abc". -/
theorem test_sm3 : leNat (sm3 [0x61, 0x62, 0x63]).reverse = 0x66C7F0F462EEEDD9D1F2D46BDC10E4E24167C4875CF2F7A2297DA02B8F4BA8E0 := by decide +kernel

/-! ## A witness for every statement that has hypotheses, clause by clause -/

theorem wit_IntegerRegisterResults : (st rich).Ready 0 (cx rich) [5, 6, 7] ∧ (st rich).Ready 0 (cx rich) [0, 0, 0] :=
  ⟨ready _ rfl _, ready _ rfl _⟩

theorem wit_BitCountFieldAndSelectResults : (st rich).Ready 0 (cx rich) [5, 6, 7, 0] ∧
    (63#6).toNat + (0#6).toNat + 1 ≤ 64 ∧ (0#6).toNat + (63#6).toNat + 1 ≤ 64 := ⟨ready _ rfl _, by decide, by decide⟩

theorem wit_ImmediateResults : (st rich).Ready 0 (cx rich) [5, 6] := ready _ rfl _

theorem wit_BranchAndJumpTargets : (st rich).Ready 0 (cx rich) [5, 6, 7] ∧
    (let x := (cx rich).img.getX 5; x.toNat < 2 ^ 56 ∧ x.toNat % 4 = 0) ∧
    (let x := (cx rich).img.getX 6; x.toNat < 2 ^ 56 ∧ x.toNat % 4 ≠ 0) ∧
    (let f := fun m : Image => m.setX 5 (BitVec.ofNat 64 (2 ^ 56)); (st f).Ready 0 (cx f) [1, 5, 0] ∧ 2 ^ 56 ≤ ((cx f).img.getX 5).toNat) :=
  ⟨ready _ rfl _, by decide +kernel, by decide +kernel, ready _ rfl _, by decide +kernel⟩

theorem wit_ScalarFloatResults : (st ru).At 0 (cx ru) ∧ pfxCheck (cx ru).img rmOnly = none ∧ interlocked (cx ru).ring [1, 2, 3, 4] = false ∧
    rmUnder (cx ru).img.rm (cx ru).img.pending? ≠ (cx ru).img.rm := ⟨rfl, by decide +kernel, rfl, by decide +kernel⟩

theorem wit_ScalarConversionResults : (st ru).At 0 (cx ru) ∧ pfxCheck (cx ru).img rmOnly = none ∧ interlocked (cx ru).ring [1, 2] = false :=
  ⟨rfl, by decide +kernel, rfl⟩

theorem wit_ScalarFloatBitResults : (st rich).Ready 0 (cx rich) [5, 6, 7] ∧ isNan32 0x7F800000 = false ∧ isNan32 0x7F800001 = true :=
  ⟨ready _ rfl _, by decide, by decide⟩

theorem wit_RoundingKeepsFloatValues : isNan32 0xFF800000 = false ∧ isNan32 1 = false ∧ isNan32 0x80000000 = false := by decide

theorem wit_SystemInstructionResults : (st rich).Ready 0 (cx rich) [5, 6] ∧ (st (sys ∘ rich)).Ready 0 (cx (sys ∘ rich)) [5, 6] ∧
    cregSys .epc = true ∧ (cx (sys ∘ rich)).img.prv = true ∧ (cx rich).ring = [] ∧
    cregRo .mwgt = false ∧ cregAccepts .mwgt 15 = true ∧ cregAccepts .mwgt 16 = false ∧ cregRo .cyc = true := by
  refine ⟨ready _ rfl _, ready _ rfl _, ?_⟩
  and_intros <;> decide +kernel

theorem wit_SystemCallTrapsAfterCommit : (vectored (st rich)).Ready 0 (cx rich) [] ∧ (vectored (st rich)).RegsSound ∧
    (cx rich).core? = some (vectored (st rich)).here ∧
    (((vectored (st rich)).commit 0 ((cx rich).img.next 4)).vector 0 cSys).2 = some 0x9000 :=
  ⟨readyOf (by decide +kernel), regsSound (by decide +kernel), by decide +kernel, by decide +kernel⟩

theorem wit_BreakpointTrapsUncommitted : (vectored (st rich)).Ready 0 (cx rich) [] ∧ (vectored (st rich)).RegsSound ∧
    ((vectored (st rich)).vector 0 cBrk).2 = some 0x9000 :=
  ⟨readyOf (by decide +kernel), regsSound (by decide +kernel), by decide +kernel⟩

theorem wit_TrapEntrySavesAndVectors : (vectored (st rich)).RegsSound ∧ (vectored (st rich)).ctx? 0 = some (cx rich) ∧ (cx rich).core? = some 0 ∧
    ((vectored (st rich)).vector 0 17).2 = some 0x9000 ∧
    (let s := vectored (st rich)
     let t := s.setDie 0 { s.die 0 with mcq := List.replicate 16 ⟨0, 0⟩ }
     let q := fun s : State => (((s.vector 0 5).1.fetchLines 0 0 [68, 69]).die 0).mcq
     (s.vector 0 5).2 = none ∧ (q s).length < 16 ∧ t.ctx? 0 = some (cx rich) ∧ t.badSram = [] ∧ (t.vector 0 5).2 = none ∧ 16 ≤ (q t).length) :=
  ⟨regsSound (by decide +kernel), by decide +kernel, rfl, by decide +kernel, by decide +kernel⟩

theorem wit_ReturnRestoresWhatEntrySaved :
    (st (back 0xFFFFFFFFFFFFFC)).Ready 0 (cx (back 0xFFFFFFFFFFFFFC)) [] ∧ (cx (back 0xFFFFFFFFFFFFFC)).img.prv = true ∧
    (let m := (cx (back 0xFFFFFFFFFFFFFC)).img
     m.epc.toNat < 2 ^ 56 ∧ m.epc.toNat % 4 = 0 ∧ (ringHere (st (back 0xFFFFFFFFFFFFFC))).length + m.saved.length ≤ 64) ∧
    (let m := (cx (back 0x100000000000000)).img; m.prv = true ∧ 2 ^ 56 ≤ m.epc.toNat) ∧
    (let m := (cx (back 0xFFFFFFFFFFFFFE)).img; m.prv = true ∧ m.epc.toNat < 2 ^ 56 ∧ m.epc.toNat % 4 ≠ 0) ∧
    (cx rich).img.prv = false := by
  refine ⟨ready _ rfl _, ?_⟩
  and_intros <;> decide +kernel

theorem wit_ClaimGrantsZeroedRegisters : (st rich).Ready 0 (cx rich) [] ∧ (cx rich).ring = [] ∧ isService (st rich).here = false ∧
    (cx rich).img.ln = 0 ∧ (cx fun m => m.setLn 16).img.ln ≠ 0 ∧ (15#4).toNat + 1 ≤ ((st rich).grove 0).poolSize ∧
    (((st rich).setGrove 0 { (st rich).grove 0 with lpool := 15 }).grove 0).poolSize < (15#4).toNat + 1 ∧
    (match exec (.vclaim 15) (st rich) with | .next t => (t.ctx? 0).map fun c => (c.img.ln, c.wait.isSome) | _ => none) = some (16, false) ∧
    (let s := ((st rich).setGrove 0 { (st rich).grove 0 with lpool := 16 }).setCtx 1 { cx (Image.setLn · 16) with where_ := .slot 0 1 }
     match exec (.vclaim 15) s with | .next t => (t.ctx? 0).map fun c => (c.img.ln, c.wait.isSome) | _ => none) = some (0, true) ∧
    (cx rich).core? = some (st rich).here ∧ (∀ q ∈ ((st rich).grove 0).claims, q.cid ≠ 0) ∧ (st rich).RegsSound := by
  refine ⟨ready _ rfl _, ?_⟩
  rw [show (st rich).RegsSound = True from eq_true (regsSound rfl)]
  and_intros <;> decide +kernel

theorem wit_ExitAndKillPoint : (st rich).Ready 0 (cx rich) [] ∧ (cx rich).ring = [] ∧ (cx rich).img.kp = false ∧ isService (st rich).here = false ∧
    (st (Image.setKp · true)).Ready 0 (cx (Image.setKp · true)) [] ∧ (cx (Image.setKp · true)).img.kp = true ∧
    firmware.Ready 524288 (firmwareCtx 0 0) [] ∧ (firmwareCtx 0 0).ring = [] ∧ isService firmware.here = true ∧
    (let s := ran (exec (.vaddInt false 3 1 2 .all) (st rich)); ∃ c, s.Ready 0 c [] ∧ c.ring ≠ []) ∧
    (cx rich).core? = some 0 ∧ (∀ q ∈ ((st rich).grove 0).claims, q.cid ≠ 0) ∧ (firmwareCtx 0 0).core? = some 16384 ∧ isService 16384 = true ∧
    ((base.updCtx 0 fun c => { c with task := { c.task with signal := some 4097 } }).ctx? 0).any (fun c => c.task.signal == some 4097 &&
      c.core? == some 0) = true ∧ (st rich).RegsSound :=
  ⟨ready _ rfl _, rfl, by decide +kernel, rfl, ready _ rfl _, by decide +kernel, ⟨rfl, rfl, rfl⟩, rfl, rfl, ⟨_, ⟨rfl, rfl, rfl⟩, by decide +kernel⟩, rfl,
    by decide +kernel, rfl, rfl, by decide +kernel, regsSound rfl⟩

theorem wit_PendingPrefixAndOlderEntriesHoldBack : (st ru).At 0 (cx ru) ∧ (cx ru).img.pending? = some 0x30000 ∧
    (let s := ran (exec (.vmcnt 5 3 .all) (st rich))
     ∃ c, s.At 0 c ∧ c.img.pp = false ∧ interlocked c.ring [1, 5, 2] = true) :=
  ⟨rfl, by decide +kernel, _, rfl, rfl, rfl⟩

theorem wit_DecodeFetchAndPrivilegeTraps : (st rich).At 0 (cx rich) ∧ IllegalWord.encoding ≠ .crossing ∧ (cx rich).img.prv = false ∧
    cregSys .tvec = true := ⟨rfl, by decide, rfl, rfl⟩


theorem wit_VectorFloatResults : (st ru).At 0 (cx ru) ∧ pfxCheck (cx ru).img rmOnly = none ∧ (st ru).Room (cx ru) [0, 15, 3, 4] :=
  ⟨rfl, by decide +kernel, room (by decide +kernel) (by decide +kernel)⟩

theorem wit_VectorIntegerResults : (st rich).Ready 0 (cx rich) [] ∧ (st rich).Room (cx rich) [0, 15, 3] := ⟨ready _ rfl _, room (by decide +kernel) (by decide +kernel)⟩

theorem wit_VectorCompareAndMaskResults : (st rich).Ready 0 (cx rich) [5] ∧ (st rich).Room (cx rich) [0, 15, 3] :=
  ⟨ready _ rfl _, room (by decide +kernel) (by decide +kernel)⟩

theorem wit_VectorMoveResults : (st rich).Ready 0 (cx rich) [5, 6] ∧ (st rich).Room (cx rich) [0, 15, 3] :=
  ⟨ready _ rfl _, room (by decide +kernel) (by decide +kernel)⟩

theorem wit_VectorReductionAndScanResults : (st masks).Ready 0 (cx masks) [5] ∧ (st masks).Room (cx masks) [0, 15] ∧
    (let on := fun (m : Image) (k : Mask) (a : Reg) => ((List.range 16).filter (activeLane m k)).map (lane (m.getV a))
     on (cx masks).img (.on false false 4) 4 = [1] ∧ on (cx masks).img (.on true false 5) 4 = [] ∧
     2 ≤ (on (cx masks).img .all 4).length ∧ (on (cx masks).img .all 4).any isNan32 = false ∧ (on (cx masks).img .all 5).any isNan32 = true) ∧
    LaneTy.i32 ≠ .f32 :=
  ⟨ready _ rfl _, room (by decide +kernel) (by decide +kernel), by decide +kernel, by decide⟩

theorem wit_VectorConversionResults : (st ru).At 0 (cx ru) ∧ pfxCheck (cx ru).img rmOnly = none ∧ (st ru).Room (cx ru) [0, 15, 3, 4] ∧
    fmtWidth .bf16 ≤ 16 ∧ fmtWidth .e4m3 < 16 ∧ (st masks).At 0 (cx masks) ∧ pfxCheck (cx masks).img rmOnly = none ∧
    (cx masks).img.pp = false :=
  ⟨rfl, by decide +kernel, room (by decide +kernel) (by decide +kernel), by decide, by decide, rfl, by decide +kernel, rfl⟩

theorem wit_RingEntryCompletes :
    (let s := ran (exec (.vaddInt false 4 3 3 .all) (ran (exec (.vaddInt false 3 1 2 .all) (st rich))))
     meets s 1 (fun _ o e => !isCommand e.instr && o.any fun x => holdsBack x e) = true ∧
     meets (s.setEntry 0 0 ((entry? s 0).map fun q => { q.2.2 with phase := .faulted (FaultRec.mk0 cReg 0 0) })) 1 (fun _ o e => !isCommand e.instr && barred o) = true ∧
     meets s 0 (fun c o e => !isCommand e.instr && free o e && !barred o && (againFault e c.img).isNone && (vmaxxW e.instr).isNone && !isVmem e &&
       e.phase == .waiting) = true) ∧
    (let s := ran (exec (.vld 3 5 2 0 .all) (st rich))
     meets s 0 (fun c o e => !isCommand e.instr && free o e && !barred o && (againFault e c.img).isNone && (vmaxxW e.instr).isNone && isVmem e &&
       e.phase == .waiting && good (vmemRun s 0 e c.img)) = true) ∧
    (let s := ran (exec (.vld 3 5 0 0 .all) (st rich))
     meets s 0 (fun c o e => free o e && !barred o && (againFault e c.img).isNone && isVmem e && e.phase == .waiting &&
       !good (vmemRun s 0 e c.img)) = true) := by decide +kernel

theorem wit_VectorMemoryInCluster : (st rich).MemInv ∧ (st rich).Ready 0 (cx rich) [5, 6] ∧ isService (st rich).here = false ∧ (st rich).Room (cx rich) [3, 6] ∧
    (let g := (cx rich).img.slot 2
     g.kind = kCluster ∧ (∀ j : Fin 16, segCheck g [kGlobal, kCluster] false (0x17FFC0 + 4 * (j.val : Int)) 4 4 true false false = none) ∧
       (∀ j : Fin 16, segCheck g [kGlobal, kCluster] false (0x17FFC0 + 4 * (j.val : Int)) 4 4 false true true = none) ∧
       segCheck g [kGlobal, kCluster] false (0x180000 : Int) 4 4 true false false ≠ none ∧
       segCheck g [kGlobal, kCluster] false (0x17FFFC : Int) 4 4 true false false = none) ∧ (st rich).badSram = [] ∧ ((st rich).core 0).early = [] :=
  ⟨memInv_of (by decide +kernel), ready _ rfl _, rfl, room (by decide +kernel) (by decide +kernel), by decide +kernel, rfl, rfl⟩

/-- The states of a chain of accesses, one for each active lane. -/
def chain {β : Type} (s : State) (act : Nat → Bool) (f : Nat → State → State × Except FaultRec β) : Nat → State
  | 0 => s
  | n + 1 => if act n then (f n (chain s act f n)).1 else chain s act f n

/-- Where each access of the chain succeeds, the chain is one that a statement about lanes asks for. -/
theorem chain_meets {β : Type} (s : State) (act : Nat → Bool) (f : Nat → State → State × Except FaultRec β) (d : β)
    (h : ∀ j, j < 16 → act j = true → good (f j (chain s act f j)) = true) :
    ∃ (st : Nat → State) (v : Nat → β), st 0 = s ∧ ∀ j, j < 16 → if act j then f j (st j) = (st (j + 1), .ok (v j)) else st (j + 1) = st j := by
  refine ⟨chain s act f, fun j => match (f j (chain s act f j)).2 with | .ok b => b | .error _ => d, rfl, fun j hj => ?_⟩
  cases ha : act j
  · simp [chain, ha]
  · have hg := h j hj ha
    rw [good] at hg
    simp only [chain, ha, if_true]
    cases e : (f j (chain s act f j)).2 with
    | ok b => rw [← e]
    | error x => rw [e] at hg; cases hg

/-- Sixteen lanes of a load and of a store of a `global` slot, from an offset of 64, across a line. -/
theorem wit_VectorMemoryInCluster_global : gseg.kind = kGlobal ∧
    (∃ (ss : Nat → State) (v : Nat → List Byte), ss 0 = st rich ∧ ∀ j : Nat, j < 16 → if activeLane (cx rich).img .all j then
      (ss j).segLoad 0 gseg (96 + 4 * (j : Int)) 4 false none = (ss (j + 1), .ok (v j)) else ss (j + 1) = ss j) ∧
    (∃ (ss : Nat → State) (ps : Nat → List (Nat × Nat)), ss 0 = st masks ∧ ∀ j : Nat, j < 16 → if activeLane (cx masks).img (.on false false 4) j then
      (ss j).accessParts 0 gseg (96 + 4 * (j : Int)) 4 .write true = (ss (j + 1), .ok (ps j)) else ss (j + 1) = ss j) ∧
    (∀ j : Fin 16, segCheck gseg [kGlobal, kCluster] false (96 + 4 * (j.val : Int)) 4 4 false true true = none) ∧
    (match ((st masks).accessParts 0 gseg 108 4 .write true).2 with | .ok ps => ps.all fun q => (mgmtAt? q.1).isNone | .error _ => false) = true :=
  ⟨rfl, chain_meets (st rich) (activeLane (cx rich).img .all) (fun j s => s.segLoad 0 gseg (96 + 4 * (j : Int)) 4 false none) [] (by decide +kernel),
    chain_meets (st masks) (activeLane (cx masks).img (.on false false 4))
      (fun j s => s.accessParts 0 gseg (96 + 4 * (j : Int)) 4 .write true) [] (by decide +kernel),
    by decide +kernel, by decide +kernel⟩

theorem wit_ScalarLoadResults : (st rich).Ready 0 (cx rich) [6, 5] ∧ ringHasMem (ringHere (st rich)) = false ∧
    good ((st rich).segLoad 0 ((cx rich).img.slot 1) 64 8 false none) = true ∧
    good ((st rich).segLoad 0 ((cx rich).img.slot 2) 0x17FFFF 1 false none) = true ∧
    good ((st rich).segLoad 0 ((cx rich).img.slot 2) 0x180000 1 false none) = false ∧
    good ((st rich).segLoad 0 ((cx rich).img.slot 1) 64 8 true (some .device)) = true := by
  refine ⟨ready _ rfl _, ?_⟩
  and_intros <;> decide +kernel

theorem wit_ScalarStoresAndLea : (st rich).Ready 0 (cx rich) [6, 5] ∧ ringHasMem (ringHere (st rich)) = false ∧ relWait (ringHere (st rich)) = false ∧
    (∃ c, (unaccepted rich).Ready 0 c [6, 0] ∧ ringHasMem (ringHere (unaccepted rich)) = false ∧ relWait (ringHere (unaccepted rich)) = true) ∧
    good ((st rich).segStore 0 ((cx rich).img.slot 1) 64 [1, 2] none) = true ∧
    good ((st rich).segStore 0 ((cx rich).img.slot 2) 0x17FFFF [1] (some .die)) = true ∧
    good ((st rich).segStore 0 ((cx rich).img.slot 2) 0x180000 [1] none) = false ∧ ((cx rich).img.slot 3).kind = 0 :=
  ⟨ready _ rfl _, by decide +kernel, by decide +kernel, ⟨_, ⟨rfl, rfl, by decide +kernel⟩, by decide +kernel, by decide +kernel⟩, by decide +kernel,
    by decide +kernel, by decide +kernel, by decide +kernel⟩

theorem wit_SegmentChecksInOrder :
    segCheck cseg kindsAll false 0x17FFFF 1 1 true true true = none ∧ segCheck cseg kindsAll true 0 1 1 true false false ≠ none ∧
    segCheck cseg kindsAll false 2 4 4 true false false ≠ none ∧ segCheck cseg kindsAll false (-8) 8 8 true false false ≠ none ∧
    segCheck { cseg with w2 := 0x82 } kindsAll false 0 8 8 true false false ≠ none ∧
    segCheck Desc.zero kindsAll false 0 1 1 true false false ≠ none := by decide +kernel

/-- A segment whose base is 4 bytes before a line, and one whose base is 4 bytes before the first unmapped page. -/
def oddSeg : Desc := { gseg with w0 := 0x1000007C }
def edgeSeg : Desc := { gseg with w0 := 0x3FFFFFFC }

theorem wit_PlainLoadsReadTheirPlace :
    segCheck gseg kindsAll false 64 8 8 true false false = none ∧ segCheck cseg kindsAll false 64 8 8 true false false = none ∧
    cseg.kind = kCluster ∧ gseg.kind ≠ kCluster ∧ (st rich).badBank 0 64 8 = false ∧ ((st rich).core 0).early = [] ∧
    ({ st rich with badSram := [.cluster 0 2] } : State).badBank 0 64 8 = true ∧
    (pa? (st rich) { gseg with w0 := 0x40000000 } 64 .read) = none ∧
    ([64, 120].all fun off : Nat => (pa? (st rich) gseg off .read).any fun p => p.2 == 0x10000000 + off && plain p.1 (lineOf p.2) && canon p.1 && p.1.badSram.isEmpty &&
      !p.1.badAt 0 p.2 8 && decide (p.2 % 128 + 8 ≤ 128) && (mgmtAt? p.2).isNone && (p.1.grove 0).line? (lineOf p.2) == none &&
      roomy p.1 0 (lineOf p.2) && (p.1.core 0).early.isEmpty && p.1.tierPower == 0xFF#8) = true ∧
    ((pa? cached gseg 64 .read).any fun p => plain p.1 (lineOf p.2) && canon p.1 && p.1.badSram.isEmpty && !p.1.badAt 0 p.2 8 &&
      p.1.tierPower == 0xFF#8 && ((p.1.grove 0).line? (lineOf p.2)).any fun l =>
      (List.range 8).all fun k => l.valid.getLsbD (p.2 % 128 + k)) = true ∧
    ({ gseg with w2 := 0x1E1 } : Desc).pol = 2 ∧ ({ gseg with w2 := 0x1C1 } : Desc).pol ≠ 2 ∧
    (match ((vectored base).homeWrite 0x4008 (leBytes 8 0x400000000001F)).accessPa 16384 ⟨0x40000000, 0x10000, 0xC1, 0⟩ 0x10 .read false with
      | (t, .ok pa) => mgmtAt? pa == some (0, 0x10) && t.readRegBytes 0 0x10 4 == [0, 0, 0, 0] && (t.core 16384).early.isEmpty
      | _ => false) = true := by decide +kernel

theorem wit_PlainLoadsReadTheirPlace_crossing :
    segCheck oddSeg kindsAll false 0 8 8 true false false = none ∧ 128 - (((oddSeg.base : Int) + 0) % 2 ^ 56).toNat % 128 = 4 ∧
    ((pa? (st rich) oddSeg 0 .read).any fun p => (pa? p.1 oddSeg 4 .read).any fun q =>
      match q.1.readAt 0 oddSeg p.2 4 false with
      | (t, some _) => (match t.readAt 0 oddSeg q.2 4 false with | (u, some _) => (u.core 0).early.isEmpty | _ => false)
      | _ => false) = true ∧
    segCheck edgeSeg kindsAll false 0 8 8 true false false = none ∧
    ((pa? (st rich) edgeSeg 0 .read).any fun p => (pa? p.1 edgeSeg 4 .read).isNone) = true := by decide +kernel

theorem wit_PlainStoresLandInTheirPlace : (st rich).MemInv ∧
    (segCheck gseg kindsAll false 64 8 8 false true true = none ∧ segCheck cseg kindsAll false 0x17FFF8 8 8 false true true = none ∧
    (pa? (st rich) { gseg with w0 := 0x40000000 } 64 .write) = none ∧
    ([64, 120].all fun off : Nat => (pa? (st rich) gseg off .write).any fun p => plainRange p.1 p.2 8 && canon p.1 && p.1.badSram.isEmpty &&
      p.1.tierPower == 0xFF#8 && ((p.1.grove 0).line? (lineOf p.2)).isNone && roomy p.1 0 (lineOf p.2)) = true ∧
    ({ gseg with w2 := 0x1E1 } : Desc).pol = 2 ∧
    segCheck oddSeg kindsAll false 0 8 8 false true true = none ∧
    ((pa? (st rich) oddSeg 0 .write).any fun p => (pa? p.1 oddSeg 4 .write).isSome) = true ∧
    ((pa? (st rich) edgeSeg 0 .write).any fun p => (pa? p.1 edgeSeg 4 .write).isNone) = true) :=
  ⟨memInv_of (by decide +kernel), by decide +kernel⟩

/-- What a statement about an atomic at the home asks of the state before it. -/
def atHome (s : State) (pa n : Nat) : Bool :=
  plainRange s pa n && canon s && s.badSram.isEmpty && s.tierPower == 0xFF#8 && !s.badAt (homeDie pa) pa n

theorem wit_AtomicResults : (st rich).Ready 0 (cx rich) [6, 5, 7] ∧ ringHasMem (ringHere (st rich)) = false ∧ relWait (ringHere (st rich)) = false ∧
    (∃ c, (unaccepted rich).Ready 0 c [6, 0, 7] ∧ ringHasMem (ringHere (unaccepted rich)) = false ∧ relWait (ringHere (unaccepted rich)) = true) ∧
    (st rich).badBank 0 0x17FFFC 4 = false ∧ State.badBank { st rich with badSram := [.cluster 0 0xBFFF] } 0 0x17FFFC 4 = true ∧
    ({ gseg with w2 := 0x1C3 } : Desc).kind = kHostm ∧ segCheckWord cseg false 0x17FFFC 4 true true true = none ∧
    segCheckWord gseg false 64 8 true true true = none ∧ segCheckWord oddSeg false 64 8 true true true ≠ none ∧
    (pa? (st rich) { gseg with w0 := 0x40000000 } 64 .atomic) = none ∧
    ((pa? (st rich) gseg 64 .atomic).any fun p => atHome p.1 p.2 8 && roomy p.1 0 (lineOf p.2) && ((p.1.grove 0).line? (lineOf p.2)).isNone &&
      plain p.1 (lineOf p.2) && !p.1.badAt 0 p.2 8 && (p.1.rangeAt 1 p.2).isNone &&
      atHome ((p.1.pushLine 0 (lineOf p.2)).acquireLine 0 (lineOf p.2) .die) p.2 8) = true ∧
    ((pa? cached gseg 64 .atomic).any fun p => ((p.1.grove 0).line? (lineOf p.2)).isSome && plain p.1 (lineOf p.2) && canon p.1 && p.1.badSram.isEmpty &&
      !p.1.badAt 0 p.2 8 && ((p.1.grove 0).line? (lineOf p.2)).any fun l => (List.range 8).all fun k => l.valid.getLsbD (p.2 % 128 + k)) = true ∧
    ((pa? cached gseg 0 .atomic).any fun p => atHome (p.1.pushLine 0 (lineOf p.2)) p.2 8) = true ∧
    ((pa? ((st rich).homeWrite 0x4008 (leBytes 8 0x800000000001F)) ⟨0x40000000, 0x10000, 0x1C3, 0⟩ 64 .atomic).any fun p => atHome p.1 p.2 8 && atHome (p.1.acquireLine 0 (lineOf p.2) .device) p.2 8) = true := by
  refine ⟨ready _ rfl _, by decide +kernel, by decide +kernel, ⟨_, ⟨rfl, rfl, by decide +kernel⟩, by decide +kernel, by decide +kernel⟩, ?_⟩
  and_intros <;> decide +kernel

/-- Entry 0 of the range table is 64 KiB at 0x1000_0000 for an operation and a format. -/
def ranged (op fmt : Nat) : State := { st rich with ranges := (st rich).ranges.set 0 ⟨0x10000000, 16, op, fmt⟩ }

theorem wit_AtomicResults_matching :
    (let s := ranged 0 13
     s.rangeAt 1 0x10000040 = some (0, ⟨0x10000000, 16, 0, 13⟩) ∧ rangeTakes ⟨0x10000000, 16, 0, 13⟩ .add 8 = true ∧
     rangeTakes ⟨0x10000000, 16, 0, 13⟩ .add 4 = false ∧ rangeTakes ⟨0x10000000, 16, 0, 13⟩ .and 8 = false ∧
     gseg.kind ≠ kHostm ∧ gseg.pol ≠ 2 ∧ (s.ctx? 0).any (fun c => !c.img.pp && c.ring.isEmpty && !c.img.duo) = true ∧ s.active?.any (fun p => p.1 == 0) = true ∧
     ({ cx rich with img := { (cx rich).img with status := 8 } } : Ctx).img.duo = true ∧
     ((pa? s gseg 64 .atomic).any fun p => (p.1.matching 0 p.2 8 0 ⟨0x10000000, 16, 0, 13⟩ .add 5 false).2 &&
       ((p.1.matching 0 p.2 8 0 ⟨0x10000000, 16, 0, 13⟩ .add 5 false).1.matching 0 p.2 8 0 ⟨0x10000000, 16, 0, 13⟩ .add 5 false).2) = true) := by
  decide +kernel

theorem wit_CommutativeAddReachesHome :
    ([(0, 11, AmoOp.add, 4), (0, 13, .add, 8), (1, 1, .fadd, 4), (2, 11, .min, 4), (2, 1, .fmin, 4), (3, 13, .max, 8), (3, 1, .fmax, 4), (4, 13, .or, 8)].all fun q =>
      let s := ranged q.1 q.2.1
      let r : CRange := ⟨0x10000000, 16, q.1, q.2.1⟩
      s.ranges.get? 0 == some r && rangeTakes r q.2.2.1 q.2.2.2 && ((s.grove 0).line? (lineOf 0x10000078)).isNone &&
        roomy s 0 (lineOf 0x10000078) && 0x10000078 % q.2.2.2 == 0 && plainRange s (128 * lineOf 0x10000078) 128 && canon s &&
        s.badSram.isEmpty && s.tierPower == 0xFF#8 && (s.combOldest (lineOf 0x10000078)).isNone) = true := by decide +kernel

/-- A fence that waits for the window after which core 0's last write was sent (R189). -/
def fencing : Ctx := { cx rich with winWait := some ⟨(cx rich).img.pc, 0, 0, some 0⟩ }

theorem wit_FencesOrderAndWait : (st rich).Ready 0 (cx rich) [] ∧ ringHasMem (ringHere (st rich)) = false ∧ acceptWait (ringHere (st rich)) = false ∧
    (st rich).fabricWait 0 .fabric = false ∧ isService (st rich).here = false ∧ (st rich).windowWait ((cx rich).fenceWait (st rich)) = false ∧
    (let s := (st rich).setCore 0 { (st rich).core 0 with lastWin := some 0 }
     let w := (cx rich).fenceWait s
     s.windowWait w = true ∧ w.win = some 0 ∧ s.writesQueued w.core w.serial = false ∧ s.drifted = false) ∧
    fencing.winWait = some ⟨fencing.img.pc, 0, 0, some 0⟩ ∧
    (let s := unaccepted rich
     meets s 0 (fun c _ _ => !c.img.pp && !ringHasMem (ringHere s) && acceptWait (ringHere s)) = true) ∧
    (¬ (Scope.grove = .die ∨ Scope.grove = .device ∨ Scope.grove = .fabric)) := by
  refine ⟨ready _ rfl _, ?_⟩
  and_intros <;> decide +kernel

theorem wit_WaitaComparesOrBlocks : (st rich).Ready 0 (cx rich) [5, 6, 0] ∧ ringHasMem (ringHere (st rich)) = false ∧
    good ((st rich).waitPlace 0 cseg 0x17FFF8) = true ∧ good ((st rich).waitPlace 0 cseg 4) = false ∧
    (cx rich).img.kp = false ∧ (cx (Image.setKp · true)).img.kp = true ∧ good ((st rich).waitPlace 0 gseg 64) = true ∧
    (segCheckWord oddSeg false 64 8 true false false).isSome = true ∧
    (let s := (st rich).arm 0 (WatchOn.bank 0 1)
     good (s.loadPast 0 cseg 64 8 true none) = true ∧ good (s.loadPast 0 cseg 64 8 false (some .die)) = true ∧
     good (State.loadPast { s with badSram := [.cluster 0 2] } 0 cseg 64 8 true none) = false ∧
     good (State.loadPast { s with badSram := [.cluster 0 2] } 0 cseg 64 8 false (some .die)) = false) ∧ ccMeans .eq 0 0 = true ∧ ccMeans .ne 0 0 = false := by
  refine ⟨ready _ rfl _, ?_⟩
  and_intros <;> decide +kernel

theorem wit_CacheControlResults : (st rich).Ready 0 (cx rich) [9, 0, 5] ∧ (st (sys ∘ rich)).Ready 0 (cx (sys ∘ rich)) [9, 0, 5] ∧
    ringHasMem (ringHere (st rich)) = false ∧ gseg.kind = kGlobal ∧ (cx (sys ∘ rich)).img.prv = true ∧ ((cx rich).img.getX 5).toNat = 64 ∧
    segCheck gseg [kGlobal, kTier] false 0 64 1 true false false = none ∧ segCheck gseg [kGlobal, kTier] false 0 64 1 false true true = none ∧
    ((st rich).pieces (pageFuel 64) 0 gseg 0 64 .read false).2 = ([(0x10000000, 64)], none) ∧
    ((st rich).pieces (pageFuel 64) 0 gseg 0 64 .write true).2 = ([(0x10000000, 64)], none) ∧ ((cx rich).img.getX 0).toNat = 0 := by
  refine ⟨ready _ rfl _, ready _ rfl _, ?_⟩
  and_intros <;> decide +kernel

/-- A `vmaxx` of v4 for its row's pair, dispatched alone, so that its source is read. -/
def exchanging : State := ran (exec (.vmaxx 3 4 1) (st rich))

theorem wit_MaximumExchange_send : (st rich).Ready 0 (cx rich) [] ∧ (st rich).Room (cx rich) [3, 4] ∧ (st rich).exchangeOn 0 0 = none ∧
    ((exchanging.exchangeOn 0 0).any fun q => q.2.2.2.instr == .vmaxx 3 4 1 && q.2.2.2.phase == .exchanging 0) = true ∧
    participants 0 1 = [0, 8] ∧ (exchanging.core 8).contribution 0 0 = none ∧
    (let s := ran (exec (.vmaxx 3 4 1) (ran (exec (.vaddInt false 4 1 2 .all) (st rich))))
     ((s.exchangeOn 0 0).any fun q => q.2.2.2.phase == .waiting && q.2.2.1.any fun o => holdsBack o q.2.2.2) = true ∧
     (let t := ran (execRingEntryComplete 0 0 s)
      ((t.exchangeOn 0 0).any fun q => q.2.2.2.phase == .waiting && free q.2.2.1 q.2.2.2 && !barred q.2.2.1) = true)) :=
  ⟨ready _ rfl _, room (by decide +kernel) (by decide +kernel), by decide +kernel⟩

/-- That exchange at a cycle, with what has arrived. -/
def exchangingAt (n : Nat) (cs : List Contribution) : State := { exchanging.setCore 0 { exchanging.core 0 with contribs := cs } with now := n }

/-- Is the time of an entry over with a contribution missing? -/
def overdue (s : State) (e : RingEntry) : Bool :=
  decide (e.at_ + 65536 ≤ s.now) && s.exchanged 0 e.k 1 e.at_ == none && (match e.phase with | .faulted _ => false | _ => true)

theorem wit_MaximumExchange_end :
    meets (exchangingAt 65536 []) 0 (fun _ _ e => e.instr == .vmaxx 3 4 1 && e.at_ == 0 && overdue (exchangingAt 65536 []) e) = true ∧
    meets (exchangingAt 65536 [⟨0, 8, 1, 65537, 5⟩]) 0 (fun _ _ e => overdue (exchangingAt 65536 [⟨0, 8, 1, 65537, 5⟩]) e) = true ∧
    meets (exchangingAt 65535 []) 0 (fun _ _ e => !overdue (exchangingAt 65535 []) e) = true ∧
    meets (exchangingAt 65536 [⟨0, 8, 1, 65536, 5⟩]) 0 (fun c o e => e.phase == .exchanging 0 && free o e && !barred o &&
      (againFault e c.img).isNone && !((exchangingAt 65536 [⟨0, 8, 1, 65536, 5⟩]).core 0).mismatch e.k 1 &&
      (exchangingAt 65536 [⟨0, 8, 1, 65536, 5⟩]).exchanged 0 e.k 1 e.at_ == some [5]) = true ∧
    (let s := ran (exec (.vmaxx 3 4 1) (st rich))
     meets (s.setEntry 0 0 ((entry? s 0).map fun q => { q.2.2 with phase := .waiting })) 0 (fun c o e => e.phase == .waiting && !sourceHeld o 4 &&
       c.img.getV 4 == 0) = true) := by decide +kernel

theorem wit_EngineAndMatrixCommandsDispatch : (st cmdRegs).At 0 (cx cmdRegs) ∧ (ringHere (st cmdRegs)).length < 64 ∧
    interlocked (cx cmdRegs).ring [5, 6, 7, 8] = false ∧ (cx cmdRegs).img.pp = false ∧ pfxCheck (cx cmdRegs).img matPrefix = none ∧
    (let f := fun m : Image => { (rich m).setPp true with pfx := 0x5044 }
     (st f).At 0 (cx f) ∧ pfxCheck (cx f).img matPrefix = none) :=
  ⟨rfl, by decide +kernel, rfl, rfl, by decide +kernel, rfl, by decide +kernel⟩

/-- A copy of 1,024 bytes within the banks of grove 0, accepted. -/
def copyingBy (o : Order) : State :=
  ran (execEngineAccept 0 0 (ran (exec (.dcopy ⟨0, 9, 5, 8, 2, 2, o, .none, false⟩ false) (st cmdRegs))))
def copying : State := copyingBy .plain

theorem wit_EngineTransfers_accept :
    (let k : Cmd := ⟨0, 9, 5, 8, 2, 2, .plain, .none, false⟩
     let s := ran (exec (.dcopy k false) (st cmdRegs))
     meets s 0 (fun _ o e => e.phase == .waiting && (!o.any fun x => isEngine x.instr) && (engCmd? e.instr).isSome &&
       !holdsCommand o e.acquires && good (s.acceptCheck 0 0 e)) = true ∧ (s.grove 0).eng.length < 16 ∧ acqScope k.ord = none) ∧
    (let s := ran (exec (.dcopy ⟨0, 9, 5, 8, 0, 2, .plain, .none, false⟩ false) (st cmdRegs))
     meets s 0 (fun _ o e => !holdsCommand o e.acquires && !good (s.acceptCheck 0 0 e)) = true) ∧
    (let s := ran (exec (.dcopy ⟨0, 9, 5, 8, 2, 2, .acq .grove, .none, false⟩ false) (ran (exec (.vld 3 5 2 0 .all) (st cmdRegs))))
     meets s 1 (fun _ o e => e.phase == .waiting && (!o.any fun x => isEngine x.instr) && isEngine e.instr && holdsCommand o e.acquires) = true) ∧
    (let s := ran (exec (.dfree 9 11) (ran (exec (.vaddInt false 4 1 2 .all) (st cmdRegs))))
     meets s 1 (fun c o e => e.instr == .dfree 9 11 && (c.core?.any fun k => s.olderEntries k 0 o e) && (!o.any fun x => isEngine x.instr) &&
       !holdsCommand o e.acquires) = true) := by
  decide +kernel

theorem wit_EngineTransfers_chunks :
    engine copying 1 (fun c => c.entry.instr == .dcopy ⟨0, 9, 5, 8, 2, 2, .plain, .none, false⟩ false && c.entry.sa.kind == kCluster &&
      c.entry.sb.kind == kCluster && c.stop.isNone && !c.finished && copying.inTurn 0 c && decide (512 * c.next < c.entry.xc.toNat) &&
      decide (c.flight.length < 64) && !copying.badBank 0 (c.entry.sb.base + c.entry.xb.toNat) 512) = true ∧
    (let u := ran (execChunkIssue 0 1 (ran (execChunkIssue 0 1 copying)))
     engine u 1 (fun c => decide (c.entry.xc.toNat ≤ 512 * c.next) && !c.finished && c.stop.isNone && c.flight.any fun f =>
       c.flight.find? (fun x => x.num == f.num) == some f && f.writes.all fun w => w.1 == .bank 0 0x8200) = true ∧
     (let v := ran (execChunkAck 0 1 0 (ran (execChunkAck 0 1 1 u)))
      engine v 1 (fun c => c.flight.isEmpty && !c.finished && c.stop.isNone) = true) ∧
     (let v := ran (execEngineCompletion 0 1 u)
      engine v 1 (fun c => c.finished && decide (c.flight.length = 2)) = true)) ∧
    (let u := ran (execChunkAck 0 1 0 (ran (execChunkAck 0 1 1 (ran (execChunkIssue 0 1 (ran (execChunkIssue 0 1 (copyingBy (.rel .die)))))))))
     engine u 1 (fun c => c.flight.isEmpty && !c.finished && c.stop.isNone && decide (c.entry.xc.toNat ≤ 512 * c.next) && c.rel) = true) ∧
    engine copying 1 (fun c => !c.rel) = true := by decide +kernel

theorem wit_EngineTransfers_fill :
    (let s := grouped (st fun m => ((cmdRegs m).setX 10 (BitVec.ofNat 64 (3 * 2 ^ 56 + 512))).setX 11 3)
     let t := ran (execEngineAccept 0 0 (ran (exec (.dfill ⟨0, 9, 5, 10, 2, 2, .plain, .none, false⟩ true) s)))
     let u := ran (execChunkAck 0 1 0 (ran (execChunkIssue 0 1 t)))
     engine u 1 (fun c => c.landed && c.stop.isNone && c.members.contains 1 && !c.told.contains 1) = true ∧
     (let r := ran (exec (.dfree 9 11) s)
      meets r 0 (fun _ o e => e.instr == .dfree 9 11 && !r.olderEntries 0 0 o e && (dfreeFault e (r.memberGroves 3) 0).isNone) = true ∧
      (let v := ran (execEngineAccept 0 0 r)
       v.dfrees.length = 1 ∧
       (let w := { v with dfreeSets := v.dfrees.map fun (x : DfreeMsg) => ⟨x.sender, x.off, x.group, x.tag, [1], []⟩ }
        (w.dfrees[0]?.any fun (x : DfreeMsg) => (w.dfreeSets.find? fun (k : DfreeSet) => k.sender == x.sender && k.off == x.off && k.group == x.group && k.tag == x.tag).any
          fun (k : DfreeSet) => !k.heard.contains x.source && x.members.all fun g => k.heard.contains g || g == x.source) = true ∧
        canon w = true)))) := by decide +kernel

/-- A gather of two words by the indices 1 and 0x4000, accepted; slot 1 is 64 KiB long. -/
def gathering : State :=
  let s := ((st fun m => (cmdRegs m).setX 10 (BitVec.ofNat 64 (0x100 + 0x200 * 2 ^ 21 + 2 * 2 ^ 42))).bankWrite 0 0x100 (leBytes 4 1)).bankWrite
    0 0x104 (leBytes 4 0x4000)
  ran (execEngineAccept 0 0 (ran (exec (.gather ⟨0, 9, 0, 10, 2, 1, .plain, .none, false⟩ 0 0) s)))

/-- A scatter of one word by the index 1 into a segment, accepted. -/
def scattering (d : Desc) : State :=
  let s := (st fun m => ((cmdRegs m).setX 10 (BitVec.ofNat 64 (0x100 + 0x200 * 2 ^ 21 + 1 * 2 ^ 42))).setSlot 1 d).bankWrite 0 0x100 (leBytes 4 1)
  ran (execEngineAccept 0 0 (ran (exec (.scatter ⟨0, 9, 0, 10, 2, 1, .plain, .none, false⟩ 0 0 0) s)))

theorem wit_GatherWalkAndMergeEvents_gather :
    (let o : ElemOp := ⟨4, 0, 0, false⟩
     engine gathering 1 (fun c => elemCount c.entry == 2 && (c.elems.get? 0).isNone && (c.elems.get? 1).isNone && c.elems.isEmpty &&
       decide (gathering.elemsInFlight 0 < 1024) && gathering.inTurn 0 c && !decide (2 < elemCount c.entry) &&
       gathering.indexAt 0 c o 0 == some 1 && good (gathering.places (.engine 0) 0 c.entry.sb 4 4 .read false) &&
       gathering.indexAt 0 c o 1 == some 0x4000 && c.entry.sb.len == 0x10000 &&
       (State.indexAt { gathering with badSram := [.cluster 0 (c.indexAddr o 0 / 32)] } 0 c o 0).isNone) = true ∧
     (let v := ran (execGatherElement 0 1 0 gathering)
      engine v 1 (fun c => match c.elems with
        | [(0, e)] => e.code == 0 && (match e.pieces with
          | [p] => !p.done && p.pa == 0x10000004 && decide (p.pa % 32 + p.n ≤ 32) && !(v.settle p.pa p.n).badAt (homeDie 0x10000000) 0x10000000 32 &&
              (State.settle { v with bad := [0x10000000 / 32] } p.pa p.n).badAt (homeDie 0x10000000) 0x10000000 32 &&
              (match (v.settle p.pa p.n).readHomeAs (homeDie p.pa) p.pa p.n c.entry.sb.streams with | (_, some _) => true | _ => false)
          | _ => false)
        | _ => false) = true) ∧
     (let u := ran (execAgentGroupAccess 0 1 ⟨0x800000, none⟩ (ran (execGatherElement 0 1 1 (ran (execGatherElement 0 1 0 gathering)))))
      engine u 1 (fun c => c.lines.isEmpty && c.ready 0 && c.ready 1 && (c.elems.get? 1).any (fun e => e.code == 8) &&
        (c.elems.get? 0).any fun e => e.code == 0) = true)) := by decide +kernel

theorem wit_GatherWalkAndMergeEvents_scatter :
    (let o : ElemOp := ⟨4, 0, 0, true⟩
     let s := scattering gseg
     engine s 1 (fun c => (elemOp? c.entry.instr).any (fun x => x.size == 4 && x.mode == 0 && x.store) && s.inTurn 0 c && s.indexAt 0 c o 0 == some 1 &&
       good (s.places (.engine 0) 0 c.entry.sb 4 4 o.access true) && !s.badBank 0 (c.entry.sa.base + c.entry.xa.toNat) 4 &&
       State.badBank { s with badSram := [.cluster 0 ((c.entry.sa.base + c.entry.xa.toNat) / 32)] } 0 (c.entry.sa.base + c.entry.xa.toNat) 4) = true ∧
     (let v := ran (execGatherElement 0 1 0 s)
      engine v 1 (fun c => c.top.isEmpty && match c.elems with
        | [(0, e)] => e.code == 0 && (match e.pieces with | [p] => !p.done | _ => false)
        | _ => false) = true) ∧
     (let s := scattering { gseg with w0 := 0x40000000 }
      engine s 1 (fun c => s.indexAt 0 c o 0 == some 1 && decide (4 + 4 ≤ c.entry.sb.len) && !good (s.places (.engine 0) 0 c.entry.sb 4 4 o.access true)) =
        true)) := by decide +kernel

/-- A walk of four rows with a capacity of 5, in a segment of a given length, accepted. -/
def walking (pointers : List Nat) (len : Nat) : State :=
  let s := (((st fun m => (((cmdRegs m).setX 10 (BitVec.ofNat 64 (4 * 2 ^ 32))).setX 11 0x1000).setSlot 3 { cseg with w1 := BitVec.ofNat 64 len }).bankWrite 0
    0x1000 (pointers.flatMap (leBytes 4))).bankWrite 0 0x8000
    (leBytes 8 0x1100 ++ leBytes 4 0x1200 ++ leBytes 4 5 ++ leBytes 4 0x1300 ++ leBytes 4 0x1400 ++ leBytes 8 0))
  ran (execEngineAccept 0 0 (ran (exec (.spwalk ⟨0, 9, 11, 10, 2, 3, .plain, .none, false⟩ false false) s)))

/-- Its next row, the pointers before and after it, and a condition on the state and the command with which it begins. -/
def rowAt (s : State) (p q : Nat) (more : State → EngCmd → Bool) : Bool :=
  engine s 1 fun c => !c.ended && decide (c.next < walkRows c.entry) && s.inTurn 0 c && c.entry.sb.kind == kCluster && s.badSram.isEmpty &&
    decide (0x1000 + 4 * (c.next + 1) + 4 ≤ c.entry.sb.len) && (walkDesc c.desc).cap == 5 &&
    (let z := if c.next = 0 then s.payload 0 c (c.entry.sa.base + (walkDesc c.desc).status) [0] else (s, c)
     let reads := fun off : Nat => leNat (z.2.overlay off (z.1.bankBytes 0 off 4))
     (c.ptr == some p || (c.ptr.isNone && reads 0x1000 == p && c.next == 0)) && reads (0x1000 + 4 * (c.next + 1)) == q && more z.1 z.2)

/-- The entries of the row of some pointers. -/
def entriesOf (s : State) (c : EngCmd) (p q : Nat) : Option Nat := (s.walkEntries (q - p) 0 c false c.next p c.count).2.2

theorem wit_GatherWalkAndMergeEvents_walk :
    (let t := walking [0, 2, 5, 3, 6] 0x1400
     let u := ran (execSpwalkRow 0 1 (ran (execSpwalkRow 0 1 t)))
     rowAt t 0 2 (fun s c => decide (c.count + 2 ≤ 5) && entriesOf s c 0 2 == none) = true ∧
     rowAt u 5 3 (fun _ _ => true) = true ∧ rowAt (ran (execSpwalkRow 0 1 u)) 3 6 (fun _ c => decide (5 < c.count + 3)) = true ∧
     rowAt (walking [4, 4, 5, 5, 5] 0x1400) 4 4 (fun _ _ => true) = true ∧
     rowAt (walking [0, 2, 5, 3, 6] 0x1100) 0 2 (fun s c => (entriesOf s c 0 2).isSome) = true ∧
     engine (ran (execSpwalkRow 0 1 t)) 1 (fun c => !c.rel && decide (2 ≤ c.pending.length) && c.pending.zipIdx.all fun w =>
       (c.pending.take w.2).all fun v => decide (v.1 + v.2.length ≤ w.1.1) || decide (w.1.1 + w.1.2.length ≤ v.1)) = true ∧
     (ran (execSpwalkRow 0 1 t)).agenda = []) := by decide +kernel

theorem wit_GatherWalkAndMergeEvents_walked :
    engine (walking [0, 2, 5, 3, 6] 0x1004) 1 (fun c => !c.ended && c.ptr.isNone && decide (0x1000 + 4 ≤ c.entry.sb.len) &&
      decide (c.entry.sb.len < 0x1000 + 4 + 4)) = true := by decide +kernel

/-- A merge of two lists, with a capacity, accepted; the first has n entries at an address, the second one of value v. -/
def mergingAt (a n cap v : Nat) : State :=
  let s := (((st fun m => ((cmdRegs m).setX 10 (BitVec.ofNat 64 (2 + cap * 2 ^ 32))).setX 11 0x1000).bankWrite 0 0x1000
    (leBytes 8 a ++ leBytes 8 n ++ leBytes 8 0x1200 ++ leBytes 8 1)).bankWrite 0 a (leBytes 4 7 ++ leBytes 4 0x3F800000)).bankWrite
    0 0x1200 (leBytes 4 7 ++ leBytes 4 v)
  ran (execEngineAccept 0 0 (ran (exec (.merge ⟨0, 9, 11, 10, 2, 2, .plain, .none, false⟩ true) s)))

/-- The same with one entry each. -/
def merging (cap v : Nat) : State := mergingAt 0x1100 1 cap v

/-- The heads of its fibres once they are read, with the command and the state. -/
def heads (s : State) (p : State → EngCmd → List Fibre → Bool) : Bool :=
  engine s 1 fun c => !c.ended && s.inTurn 0 c && match s.fibreHeads 0 c c.fibres c.bad with
    | (s1, fs, _, none) => p s1 c fs
    | _ => false

theorem wit_GatherWalkAndMergeEvents_merge :
    (let t := merging 4 0x40000000
     heads t (fun s1 c fs => minHead fs == some 7 && (headSum fs 7).extractLsb' 0 31 != 0#31 && c.count == 0 && c.entry.xc.toNat / 2 ^ 32 == 4 &&
       (s1.fibreHeads 0 c (takeHeads fs 7) 0).2.2.2.isNone) = true ∧
     heads (ran (execMergeResult 0 1 t)) (fun _ _ fs => minHead fs == none) = true ∧
     engine { t with badSram := [.cluster 0 (0x1100 / 32)] } 1 (fun c => !c.ended &&
       (State.fibreHeads { t with badSram := [.cluster 0 (0x1100 / 32)] } 0 c c.fibres c.bad).2.2.2 == some 12) = true ∧
     heads { mergingAt 0x1118 2 4 0x40000000 with badSram := [.cluster 0 (0x1120 / 32)] } (fun s1 c fs => minHead fs == some 7 &&
       (headSum fs 7).extractLsb' 0 31 != 0#31 && (s1.fibreHeads 0 c (takeHeads fs 7) c.bad).2.2.2 == some 12) = true) ∧
    heads (merging 4 0xBF800000) (fun _ _ fs => minHead fs == some 7 && (headSum fs 7).extractLsb' 0 31 == 0#31) = true ∧
    heads (merging 0 0x40000000) (fun _ c fs => minHead fs == some 7 && c.count == c.entry.xc.toNat / 2 ^ 32) = true := by decide +kernel



/-- An `mldb` of an INT8 tile with rows of 256 bytes at 0x1000. -/
def loading : State := ran (exec (.mldb ⟨0, 0, 11, 10, 0, 2, .plain, .none, false⟩ .i8 false 0) (st fun m => ((rich m).setX 10 256).setX 11 0x1000))

theorem wit_MatrixUnitEvents_accept :
    meets loading 0 (fun _ o e => e.phase == .waiting && o.isEmpty && (matOp? e.instr).any fun x => x.load == some (.i8, false) &&
       (loadFault x .i8 false e).isNone) = true ∧ (((loading.mat 0).ofCore 0).filter fun x => x.moved.isNone).length < 4 ∧
    (let s := ran (exec (.dcopy ⟨0, 9, 5, 8, 2, 2, .plain, .none, false⟩ false) (st cmdRegs))
     let u := ran (exec (.mldb ⟨0, 0, 11, 10, 0, 2, .plain, .none, false⟩ .i8 false 0) s)
     meets u 1 (fun _ o e => e.phase == .waiting && (matOp? e.instr).isSome && !o.isEmpty && o.all fun x => (matOp? x.instr).isNone &&
       x.phase == .waiting && !isVmem x) = true) := by decide +kernel

theorem wit_MatrixUnitEvents_load :
    (let t := ran (exec (.mldbAccept 0 0) loading);
      (((t.mat 0).ofCore 0).head?.any fun c => (matOp? c.entry.instr).any fun x => x.load.isSome && !t.loadWait 0 c.stamp x.bank &&
        good (t.readTile 0 0 0 ⟨c.entry.sb, c.entry.xb.toNat, c.entry.xc.toNat % 2 ^ 32, c.entry.xa.toNat, .i8, false⟩)) = true) := by decide +kernel

/-- An `mmac` or an `mmac.coop` of 17 rows accepted, with old C words or without, and INT8 tiles in bank 0 of groves 0 to 3 that came from a
segment. -/
def multiplyingBy (coop zc : Bool) (src : Desc) : State :=
  let s := st fun m => ((((rich m).setX 12 (BitVec.ofNat 64 (17 + 256 * 2 ^ 16 + 256 * 2 ^ 32 + (if coop then 3 * 2 ^ 56 else 0)))).setX 13 0x8000).setX
    14 0x1000)
  let b : Bank := { (s.mat 0).bank 0 with
    tile := some ⟨.i8, false, List.replicate 256 (List.replicate 256 1), []⟩, src := some ⟨src, 0, 256, 0, .i8, false⟩, lastTy := some .i8 }
  let u := [0, 1, 2, 3].foldl (fun (t : State) g => t.setMat g ((t.mat g).setBank 0 b)) s
  let v := { u with groups := u.groups.set 3 { members := [0, 8, 16, 24], step := 0, phase := .idle } }
  let k : Cmd := ⟨0, 13, 14, 12, 2, 2, .plain, .none, false⟩
  ran (execMatrixAccept 0 0 (ran (exec (if coop then .mmacCoop k 0 false zc else .mmac k 0 false zc false) v)))

/-- The product without old C words. -/
def multiplying (src : Desc) : State := multiplyingBy false true src

/-- The unit with that tile, as the multiplication finds it. -/
def multiplied : State := multiplying cseg

/-- The cooperative product once it holds its four slots, with what it has of its step. -/
def cooperating (strips : List Strip) (rows : Option (List (List Byte))) : State :=
  let t := (List.range 4).foldl (fun (t : State) _ => ran (execCoopSlotClaim 0 0 t)) (multiplyingBy true true cseg)
  t.setMat 0 { t.mat 0 with queue := (t.mat 0).queue.map fun c => { c with strips := strips, rows := rows } }

/-- The product migrated to grove 1, its tiles loaded there. -/
def migrated : State :=
  let s := ran (execMatrixMigration 0 0 1 3 { multiplying gseg with now := 5000 })
  s.setMat 0 { s.mat 0 with queue := (s.mat 0).queue.map fun c => { c with tiles := ((s.mat 0).bank 0).tile.toList } }

/-- The state in which the step that a unit's arbiter chooses begins, with its home, command and operation. -/
def stepBegins (g : Nat) (s : State) (p : State → Nat → MatCmd → MatOp → Bool) : Bool :=
  match (s.chosen g).bind fun r => (s.requester g r).map fun q => (r, q) with
  | some (r, h, c) =>
    let u := s.mat g
    let s0 := s.setMat g { u with ptr := r, used := (if s.turnLasts g then u.used else 0) + 1, spent := false, busy := s.now }
    (matOp? c.entry.instr).any (p s0 h c)
  | none => false

/-- The same once its command has passed the checks before its first step. -/
def stepping (g : Nat) (s : State) (p : State → Nat → MatCmd → MatOp → Bool) : Bool :=
  stepBegins g s fun s0 h c o =>
    if c.started then p s0 h c o
    else match s0.matStart h c o with
      | .ok e => p (s0.commandAcquire c.core (acqScope o.cmd.ord)) h { c with started := true, entry := e } o
      | .error _ => false

/-- Can its A rows be read, are its banks good, are its old C words good? -/
def stepReads (g : Nat) (t : State) (h : Nat) (x : MatCmd) (o : MatOp) : Bool × Bool × Bool :=
  (good (t.readRows (if o.coop then h else g) h x.core x.entry (t.rowLen h x o) (stepRows x.entry x.g)),
    (t.badCim g x.core (if o.coop then o.banks else x.inBanks o) x.entry).isNone,
    (t.badC (if o.coop then g else h) x.core x.entry o (if o.coop then o.banks.filterMap fun k => ((t.mat g).bank k).tile else t.matTiles h x o) x.g).isNone)

theorem wit_MatrixUnitEvents_mmac :
    (let s := st fun m => ((((rich m).setX 12 (BitVec.ofNat 64 (17 + 256 * 2 ^ 16 + 256 * 2 ^ 32))).setX 13 0x8000).setX 14 0x1000)
     let t := ran (exec (.mmac ⟨0, 13, 14, 12, 2, 2, .plain, .none, false⟩ 0 false true false) s)
     meets t 0 (fun _ o e => e.phase == .waiting && o.isEmpty && !e.packed && (matOp? e.instr).any fun x => x.load.isNone && !x.coop) = true ∧
     meets (t.setEntry 0 0 ((entry? t 0).map fun q => { q.2.2 with packed := true })) 0 (fun _ _ e => e.packed) = true ∧
     meets (ran (exec (.mmacCoop ⟨0, 13, 14, 12, 2, 2, .plain, .none, false⟩ 0 false true) (s.setMat 0 (multiplied.mat 0)))) 0
       (fun _ _ e => (matOp? e.instr).any fun x => x.coop && x.load.isNone && (mmacFault x e ((multiplied.mat 0).classOf x e)).isNone) = true) := by
  decide +kernel

theorem wit_MatrixUnitEvents_step :
    (let second := { (multiplying cseg).mat 0 with queue := ((multiplying cseg).mat 0).queue.map fun c => { c with started := true, g := 1 } }
     let empty := ((multiplying cseg).mat 0).setBank 0 { ((multiplying cseg).mat 0).bank 0 with tile := none }
     stepBegins 0 (multiplying cseg) (fun _ _ c _ => !c.started) = true ∧
     stepping 0 (multiplying cseg) (fun t h x o => !o.coop && h == 0 && stepReads 0 t h x o == (true, true, true) && !decide (stepCount x.entry ≤ x.g + 1)) = true ∧
     stepping 0 ((multiplying cseg).setMat 0 second) (fun t h x o => stepReads 0 t h x o == (true, true, true) && decide (stepCount x.entry ≤ x.g + 1)) = true ∧
     stepBegins 0 ((multiplying cseg).setMat 0 empty) (fun s h c o => !c.started && !(match s.matStart h c o with | .ok _ => true | .error _ => false)) = true ∧
     stepping 0 { multiplying cseg with badSram := [.cluster 0 (0x1000 / 32)] } (fun t h x o => !(stepReads 0 t h x o).1) = true ∧
     stepping 0 { multiplying cseg with badSram := [.bank 0 0] } (fun t h x o => stepReads 0 t h x o == (true, false, true)) = true ∧
     stepping 0 { multiplyingBy false false cseg with badSram := [.cluster 0 (0x8000 / 32)] } (fun t h x o => stepReads 0 t h x o == (true, true, false)) =
       true ∧
     stepping 1 migrated (fun t h x o => h == 0 && x.moved.isSome && !o.coop && stepReads 1 t h x o == (true, true, true)) = true) := by
  decide +kernel

theorem wit_MatrixUnitEvents_strip :
    (let three : List Strip := [⟨0, []⟩, ⟨1, []⟩, ⟨2, []⟩]
     stepping 0 (cooperating [] none) (fun t h x o => o.coop && h == 0 && x.rows.isNone && stepReads 0 t h x o == (true, true, true) &&
       decide (x.strips.length < 3)) = true ∧
     stepping 3 (cooperating three (some (List.replicate 16 (List.replicate 256 1)))) (fun t h x o => o.coop && x.rows.isSome &&
       stepReads 3 t h x o == (true, true, true) && decide (3 ≤ x.strips.length)) = true) := by decide +kernel

theorem wit_MatrixUnitEvents_migration :
    (let t := { multiplying gseg with now := 5000 };
      ((t.mat 0).ofCore 0).head?.any (fun c => (matOp? c.entry.instr).any (fun o => !o.pin && !o.coop && !o.pr && !c.started && !c.fixed &&
        c.g == 0 && ((t.mat 0).bank o.bank).homed &&
        c.since.any (fun x => decide (x + 2048 ≤ t.now)) && t.matReady 0 c)) = true ∧
      (neighbours 0).find? (fun t' => [0, 1, 2, 3].any fun k => t.takesGuest t' false k) = some 1 ∧ t.takesGuest 1 false 3 = true ∧
      (let v := ran (execMatrixMigration 0 0 1 3 t)
       let w := v.setMat 1 { (v.mat 1) with guest := none }
       ((v.mat 1).guest.isSome && ((v.mat 1).bank 3).lent && ((w.mat 1).bank 3).lent && ((w.mat 1).bank 3).tile.isNone) = true)) := by
  decide +kernel

theorem wit_MatrixUnitEvents_restore :
    (let s := (multiplying cseg).setMat 0 { (multiplying cseg).mat 0 with queue := [] }
     let t := s.setMat 0 ((s.mat 0).setBank 0 { (s.mat 0).bank 0 with lent := true })
     (((t.mat 0).bank 0).lent && (t.mat 0).guest.isNone && ((t.mat 0).bank 0).tile.isSome && !t.loadAims 0 0 &&
       ((t.mat 0).bank 0).src.any fun q => good (t.readTile 0 0 0 q)) = true) ∧
    (let t := ran (execMldbAccept 0 0 loading)
     (t.setMat 0 ((t.mat 0).setBank 0 { (t.mat 0).bank 0 with lent := true })).loadAims 0 0 = true) := by decide +kernel

theorem wit_MatrixUnitEvents_guest :
    (let s := multiplying cseg
     let t := s.setMat 1 { s.mat 1 with guest := some (0, ((s.mat 0).queue.head?.map MatCmd.stamp).getD 0) }
     (match (t.mat 1).guest with
      | some (g, st) => (t.matCmd? g st).any fun c => (matOp? c.entry.instr).any fun o => !o.pr && c.tiles.isEmpty &&
          ((t.mat g).bank o.bank).src.any fun q => good (t.readTile 1 g c.core q)
      | none => false) = true) := by decide +kernel

theorem wit_MatrixUnitEvents_claim :
    (let s := multiplying cseg
     let t := s.setMat 0 { s.mat 0 with queue := (s.mat 0).queue.map fun c => { c with members := [0, 1, 2, 3] } }
     ((t.mat 0).ofCore 0).head?.any (fun c => c.members[c.slots.length]? == some 0) = true) := by decide +kernel


/-- A record space of 64-byte records on [0, 1), stored by core 0: serial 0 is live or new, serial 2,048 is free. -/
def line1 (state : DirState) (cdir : Nat) : Space :=
  ⟨1, [[0#32, 0x3F800000#32]], [0], 0, 3, 64, cdir, 4, [(0, [0x100000])], [(0, [0x110000])], [(0, ⟨state, 0, 0, 0⟩)], [], []⟩

/-- Space 3 is bound to it; X(11) and X(15) are offsets, X(12) the handle of serial 0, X(13) a capacity, X(14) the range of four bytes at 0. -/
def recRegs (m : Image) : Image :=
  (((((rich m).setX 11 0x1000).setX 12 0x3000000000000000).setX 13 2).setX 14 0x400).setX 15 0x2000

def recs (state : DirState) (cdir : Nat) : State := { st recRegs with spaces := [(3, line1 state cdir)] }

theorem wit_RecordInstructionResults : (recs .live 4096).Ready 0 (cx recRegs) [14, 11, 12, 13] ∧ ringHasMem (ringHere (recs .live 4096)) = false ∧
    (recs .live 4096).spaces.get? 2 = none ∧ (recs .live 4096).spaces.get? 3 = some (line1 .live 4096) ∧
    (recs .live 4096).inBoundary 3 = false ∧ (recs .live 4096).Sound ∧ (((cx recRegs).img.getX 12).toNat / 2 ^ 60 = 3) ∧
    State.inBoundary { recs .live 4096 with groups := (recs .live 4096).groups.set 3 { members := [0], step := 0, phase := .moving } } 3 = true :=
  ⟨⟨rfl, rfl, rfl⟩, by decide +kernel, rfl, rfl, by decide +kernel, ⟨rfl, rfl⟩, by decide +kernel, by decide +kernel⟩

theorem wit_RecordInstructionResults_rnew :
    recSa (recs .live 4096) cseg 0x17FFC0 64 4 false = none ∧
    nanIn 1 0 (words32 3 ((recs .live 4096).bankBytes 0 0x1000 64)) = false ∧ (line1 .live 4096).freeSerial 0 = some 2048 ∧
    (line1 .live 4096).freeSlot 0 [] = some 1 ∧ (line1 .live 2048).freeSerial 0 = none ∧
    ({ line1 .live 4096 with cap := 1 } : Space).freeSlot 0 [] = none := by decide +kernel

theorem wit_RecordInstructionResults_find :
    recSa (recs .live 4096) cseg 0x1000 16 1 true = none ∧ recSa (recs .live 4096) cseg 0x2000 24 1 false = none ∧
    badQuery 1 true (words32 6 ((recs .live 4096).bankBytes 0 0x2000 24)) = false ∧
    badQuery 1 false (words32 4 ((recs .live 4096).bankBytes 0 0x2000 16)) = false := by decide +kernel

theorem wit_RecordInstructionResults_handle :
    (line1 .live 4096).current 0x3000000000000001 = none ∧ (line1 .live 4096).current 0x3000000000001000 = none ∧
    (line1 .live 4096).current 0x3000000000000000 = some ⟨.live, 0, 0, 0⟩ ∧ (line1 .new 4096).current 0x3000000000000000 = some ⟨.new, 0, 0, 0⟩ ∧
    recSa (recs .live 4096) cseg 0x1000 64 4 true = none ∧ recSa (recs .live 4096) cseg 0x1000 4 4 false = none ∧
    rangeOk 0x400 64 = true ∧ rangeOk 0x408 64 = true ∧ rangeOk 0x418 64 = true ∧ rangeOk 0x43C 64 = true ∧
    nanIn 1 0 (words32 1 ((recs .live 4096).bankBytes 0 0x1000 4)) = false ∧
    ((recs .live 4096).storeRead 0 0x110000 64).2.isSome = true ∧
    (((recs .live 4096).acquireLine 0 (lineOf 0x110000) .device).storeRead 0 0x110000 64).2.isSome = true ∧
    (let s : State := { unaccepted recRegs with spaces := [(3, line1 .live 4096)] }
     acceptWait (ringHere s) = true ∧ relWait (ringHere s) = true ∧ meets s 0 (fun c _ _ => !c.img.pp && !interlocked c.ring [14, 11, 12, 13] && (s.active?.any fun p => p.1 == 0)) = true) ∧
    acceptWait (ringHere (recs .live 4096)) = false ∧ relWait (ringHere (recs .live 4096)) = false ∧ (recs .live 4096).fabricWait 0 .fabric = false ∧
    ((recs .live 4096).storeRead 0 (0x110000 + 12) 4).2.isSome = true ∧ (recs .live 4096).spaces.get? 15 = none ∧
    (cx fun m => (recRegs m).setX 12 (BitVec.allOnes 64)).img.getX 12 = BitVec.allOnes 64 ∧
    (recs .live 4096).spaces.get? (((cx recRegs).img.getX 0).toNat / 2 ^ 60) = none ∧ (cx recRegs).img.getX 0 ≠ BitVec.allOnes 64 := by decide +kernel

/-- A one-dimensional FP32 grid of two blocks of 16 cells, halo 2, radius 1, depth 2, periodic; core 0 owns block 0, core 8 block 1. -/
def grid1 : Grid :=
  ⟨1, .f32, 2, 1, 2, [32, 1, 1], [16, 1, 1], 0, [0, 0, 0, 0, 0, 0], 3, 4096, [0, 8], 0, [(0, [0x100000]), (1, [0x110000])], [(0, 0)], [], [], []⟩

/-- Grid 4 is bound; X(11) an offset, X(12) the start −2 or 0, X(13) the tag 0, X(14) the length 4 along axis 0, X(15) the tag 1. -/
def gridRegs (m : Image) : Image := ((((((rich m).setX 11 0x1000).setX 12 8).setX 13 0).setX 14 4).setX 15 1).setX 16 6

def gridS (g : Grid) : State := { st gridRegs with grids := [(4, g)] }

theorem wit_GridInstructionResults : (gridS grid1).Ready 0 (cx gridRegs) [14, 11, 12, 13] ∧ ringHasMem (ringHere (gridS grid1)) = false ∧
    (gridS grid1).grids.get? 3 = none ∧ (gridS grid1).grids.get? 4 = some grid1 ∧ grid1.blockOf 0 = some 0 ∧ grid1.blockOf 1 = none ∧
    (gridS grid1).Sound ∧
    (let c : Ctx := { cx gridRegs with stale := some (0, (cx gridRegs).img.pc) }
     let s : State := (gridS grid1).updCtx 0 fun _ => c
     s.Ready 0 c [14, 11, 12, 13] ∧ s.now - 0 ≤ grid1.stall) := by
  refine ⟨⟨rfl, rfl, rfl⟩, ?_, rfl, rfl, ?_, ?_, ⟨rfl, rfl⟩, ⟨rfl, rfl, rfl⟩, ?_⟩ <;> decide +kernel

theorem wit_GridInstructionResults_gld :
    (let s := gridS grid1
     let m := (cx gridRegs).img
     let stale := fun (xs : List Int) => grid1.ring 0 xs != 0 && !s.fresh grid1 0 xs 0
     let stamps := grid1.stampReads 0 (grid1.runCells (GridRun.of 6 0 4))
     gridFault s m cseg 0x1000 8 0 4 grid1 0 false = none ∧ (grid1.runCells (GridRun.of 8 0 4)).any stale = false ∧
     gridFault s m cseg 0x1000 6 0 4 grid1 0 false = none ∧
     (grid1.runCells (GridRun.of 6 0 4)).find? stale = some [-2, 0, 0] ∧ (stamps.find? fun pa => s.badStore pa 4) = none ∧
     (stamps.find? fun pa => State.badStore { s with bad := [stamps.getLastD 0 / 32] } pa 4).isSome = true ∧
     (cx gridRegs).stale = none ∧ grid1.stall < 5000 - 0) := by
  decide +kernel

theorem wit_GridInstructionResults_gst : gridFault (gridS grid1) (cx gridRegs).img cseg 0x1000 8 1 4 grid1 0 true = none ∧
    (gridS grid1).badSram = [] := by decide +kernel

theorem wit_GridInstructionResults_gstep :
    (let due := fun g : Grid => match g.steps.get? 0 with | none => 0 | some n => n + 1
     due grid1 = 1 ∧ 1 % grid1.depth ≠ 0 ∧ due { grid1 with steps := [] } = 0 ∧ due { grid1 with steps := [(0, 1)] } = 2 ∧ 2 % grid1.depth = 0 ∧
     (grid1.held.any fun p => p.src == 0 && p.step + grid1.depth == 2) = false ∧
     (({ grid1 with held := [⟨4, 0, 1, 12, 0, [], false⟩] } : Grid).held.any fun p => p.src == 0 && p.step + grid1.depth == 2) = true) := by decide +kernel

/-- 32 bytes of a descriptor. -/
def descBytes (d : Desc) : List Byte := leBytes 8 d.w0.toNat ++ leBytes 8 d.w1.toNat ++ leBytes 8 d.w2.toNat ++ leBytes 8 d.w3.toNat

theorem wit_TableInstructionResults : (st recRegs).Ready 0 (cx recRegs) [14, 11, 12, 13] ∧ ringHasMem (ringHere (st recRegs)) = false ∧
    segCheck cseg [kCluster] (isService 0) 0x1000 32 8 true false false = none ∧ (st recRegs).badBank 0 0x1000 64 = false ∧
    (gseg.refused false 0 = some 82 ∧ gseg.refused true 0 = none ∧ cseg.refused false 0 = none) ∧
    Desc.ofBytes (((st recRegs).bankWrite 0 0x1000 (descBytes cseg)).bankBytes 0 0x1000 32) = cseg := by
  refine ⟨ready _ rfl _, ?_⟩
  and_intros <;> decide +kernel

theorem wit_TableInstructionResults_tlbinv :
    (let s := st fun m => sys (recRegs m)
     (cx fun m => sys (recRegs m)).img.prv = true ∧ tlbinvBad false 0 0x10000 1 0 = false ∧ tlbinvBad false 1 0x10000 1 0 = true ∧
     tlbinvBad true 0xFFFFFFFFFF0000 0x10000 4095 0xFFFFFFFFF0000 = false ∧ s.invals.get? s.here = none ∧ acceptWait (ringHere s) = false ∧
     acceptWait (ringHere (unaccepted fun m => sys (recRegs m))) = true ∧ (unaccepted fun m => sys (recRegs m)).invals.get? 0 = none ∧
     (({ s with invals := s.invals.set 0 ⟨[]⟩ } : State).invals.get? 0 = some ⟨[]⟩) ∧ (((s.releaseFence 0).dropLeaves 1 0 0x10000).invalWaits 1 0 0x10000 = [])) := by
  decide +kernel

/-- At system privilege, with the operands of a `tlbinv` of 64 KiB under ASID 1. -/
def invalRegs (m : Image) : Image := sys ((((cmdRegs m).setX 11 0x10000000).setX 12 0x10000).setX 13 1)

/-- A copy to the banks whose first chunk is translated and not yet performed. -/
def fetching : State :=
  ran (execChunkIssue 0 1 (ran (execEngineAccept 0 0 (ran (exec (.dcopy ⟨0, 9, 9, 8, 2, 1, .plain, .none, false⟩ false) (st invalRegs))))))

theorem wit_TableInstructionResults_waits :
    (let s := (fetching.releaseFence 0).dropLeaves 1 0x10000000 0x10000
     let w := s.invalWaits 1 0x10000000 0x10000
     w.isEmpty = false ∧ ({ s with invals := s.invals.set 0 ⟨w⟩ } : State).invals.get? 0 = some ⟨w⟩ ∧ acceptWait (ringHere fetching) = false ∧
     ringHasMem (ringHere fetching) = false ∧ fetching.invals.get? 0 = none ∧ tlbinvBad false 0x10000000 0x10000 1 0 = false ∧
     fetching.active?.any (fun p => p.1 == 0 && p.2.img.prv && !p.2.img.pp && !interlocked p.2.ring [0, 11, 12, 13] && p.2.img.getX 12 == 0x10000) = true) := by
  decide +kernel

/-- Bytes of a group entry with core 0 and core 8 as members. -/
def groupEntry : List Byte := [1#8] ++ List.replicate 63 0 ++ [1#8, 1#8] ++ List.replicate 2046 0

theorem wit_TableInstructionResults_gtw :
    (let s := st fun m => sys (recRegs m)
     good (s.groupBytes 0 cseg 0x1000) = true ∧ s.groupRefused 3 groupEntry = none ∧ s.groupRefused 3 (2#8 :: groupEntry.drop 1) = some 84) := by
  decide +kernel

/-- The header of a one-dimensional record space of group 3, and of a grid of one block. -/
def spaceHeader : List Byte :=
  [1, 0, 3, 0, 1, 1, 1, 0] ++ leBytes 4 0 ++ leBytes 4 1 ++ leBytes 4 4 ++ List.replicate 28 0 ++ leBytes 4 0x2000 ++ leBytes 4 0 ++
    leBytes 4 0x2100 ++ leBytes 4 0

def gridHeader : List Byte :=
  [1, 1, 3, 0x12, 2, 0, 0, 0] ++ List.replicate 12 0 ++ leBytes 4 16 ++ leBytes 4 1 ++ leBytes 4 1 ++ leBytes 4 16 ++ leBytes 4 1 ++
    leBytes 4 1 ++ leBytes 4 0 ++ leBytes 4 0x2000 ++ leBytes 4 0 ++ leBytes 4 0x2100 ++ leBytes 4 0

/-- The module with a record-and-grid area of 2 MiB per die, group 3 of core 0 and the arrays of both headers in the banks. -/
def bindable : State :=
  let s := (st recRegs).bankWrite 0 0x2004 (leBytes 4 0x3F800000)
  let dies := (List.range 8).foldl (fun (t : State) d => t.setDie d { t.die d with rgarea := 1#64 + BitVec.ofNat 64 0x1000000 }) s
  { dies with groups := dies.groups.set 3 { members := [0], step := 0, phase := .idle } }

theorem wit_TableInstructionResults_bind :
    (let m := (cx recRegs).img
     segCheck cseg [kCluster] (isService 0) 0x1000 64 4 true false false = none ∧
     bindable.spaceHeaderBad (Header.ofBytes spaceHeader) = false ∧ (bindable.bindSpace m cseg 3 (Header.ofBytes spaceHeader)).2 = none ∧
     bindable.bindWait false 3 = false ∧ bindable.badBank 0 0x1000 64 = false ∧
     (let s : State := { bindable with spaces := [(3, line1 .live 4096)], groups := bindable.groups.set 3 { members := [0], step := 0, phase := .moving } }
      s.bindWait false 3 = true ∧ s.spaceHeaderBad (Header.ofBytes spaceHeader) = false ∧ s.badBank 0 0x1000 64 = false ∧
      (s.bindSpace m cseg 3 (Header.ofBytes spaceHeader)).2 = none) ∧ bindable.spaceHeaderBad (Header.ofBytes gridHeader) = true ∧
     gridHeaderBad (Header.ofBytes gridHeader) = false ∧ gridHeaderBad (Header.ofBytes spaceHeader) = true) := by decide +kernel

theorem wit_TableInstructionResults_grid :
    (let s := bindable.bankWrite 0 0x2004 (leBytes 4 0)
     (s.bindGrid (cx recRegs).img cseg 4 (Header.ofBytes gridHeader)).2 = none) := by decide +kernel

theorem wit_TableInstructionResults_range :
    (let r : CRange := ⟨0x10000000, 16, 0, 11⟩
     r.base % 2 ^ r.z = 0 ∧ rangeAllowed r.op r.fmt = true ∧ r.base + 2 ^ r.z ≤ 2 ^ 56 ∧ r.meets { r with z := 7 } = true ∧
     r.meets { r with base := 0x10010000 } = false) := by decide +kernel


/-- 64 bytes of a task descriptor with a count, CTL and search fields. -/
def taskBytes (count ctl inc : Nat) : List Byte :=
  leBytes 8 0x10000 ++ List.replicate 32 0 ++ leBytes 4 count ++ [BitVec.ofNat 8 ctl, 0, 0, 0] ++ List.replicate 4 0 ++
    [BitVec.ofNat 8 inc, 0, 0, 0] ++ List.replicate 8 0

/-- The active context with a group in X(11) and data below 2^15 and 2^32 in X(13) and X(14). -/
def taskRegs (m : Image) : Image := (((rich m).setX 11 3).setX 13 2).setX 14 0x400

theorem wit_TaskInstructionResults : (st taskRegs).Ready 0 (cx taskRegs) [14, 11, 13] ∧ ringHasMem (ringHere (st taskRegs)) = false ∧
    segCheck cseg [kCluster] (isService 0) 0x17FFC0 64 8 true false false = none ∧ relWait (ringHere (st taskRegs)) = false ∧
    (st taskRegs).badBank 0 0x17FFC0 64 = false ∧
    (TaskDesc.ofBytes (taskBytes 1 0 0)).fault = none ∧ (TaskDesc.ofBytes (taskBytes 65537 0 0)).fault = some 65 ∧
    (TaskDesc.ofBytes (taskBytes 0 0 0)).count % 2 ^ 17 = 0 ∧ (TaskDesc.ofBytes (taskBytes 65536 0 0)).fault = none ∧
    (TaskDesc.ofBytes (taskBytes 1 16 7)).fault = none ∧ (TaskDesc.ofBytes (taskBytes 1 16 7)).srch = true ∧
    ((st taskRegs).incumbents[7]?.getD Incumbent.fresh).sv = false := by
  refine ⟨ready _ rfl _, ?_⟩
  and_intros <;> decide +kernel

theorem wit_TaskInstructionResults_search :
    (let at_ := fun key : Word => { st taskRegs with incumbents := (st taskRegs).incumbents.set 7 { Incumbent.fresh with sv := true, skey := key } }
     ((at_ 9).incumbents[7]?.getD Incumbent.fresh).sv = true ∧ (at_ 9).beatsShadow (poolAgent 0) 7 0 = true ∧
     (at_ 0).beatsShadow (poolAgent 0) 7 0 = false) := by decide +kernel

/-- A pool that holds 65,536 entries. -/
theorem wit_TaskInstructionResults_full :
    (let e : PoolEntry := { id := 0, entry := 0, args := 0, bound := 0, next := 0, count := 1, task := loadedCtx.task, hold := none
                            resume := none, acq := none }
     let s := (st taskRegs).setDie 0 { (st taskRegs).die 0 with pool := List.replicate 65536 e }
     65536 ≤ (s.die 0).pool.length) := by
  simp only [State.die, State.setDie, Tab.get?_set, Option.getD_some, List.length_replicate, Nat.le_refl]

theorem wit_TaskInstructionResults_groups :
    (let s := grouped (st taskRegs)
     s.groupOf 0 3 ≠ none ∧ s.groupOf 0 2 = none ∧ (s.core 0).arrival.get? 3 = none ∧ acceptWait (ringHere s) = false ∧
     acceptWait (ringHere (unaccepted taskRegs)) = true ∧ (grouped (unaccepted taskRegs)).groupOf 0 3 ≠ none ∧
     ((s.setArrival 0 3 (some (.arrived true 0))).core 0).arrival.get? 3 = some (.arrived true 0) ∧ ((s.setArrival 0 3 (some (.done true 0 1))).core 0).arrival.get? 3 = some (.done true 0 1) ∧
     ((s.setArrival 0 3 (some (.fault 0))).core 0).arrival.get? 3 = some (.fault 0)) := by decide +kernel

theorem wit_TaskInstructionResults_incumbents :
    (let s := st taskRegs
     let t : State := { s with incumbents := s.incumbents.set 1 { Incumbent.fresh with v := true, kt := true, key := 9, sense := false } }
     (State.incumbent { s with incumbents := s.incumbents.set 1 { Incumbent.fresh with busy := true } } 1).busy = true ∧
     (t.incumbent 1).kt = true ∧ (s.incumbent 1).busy = false ∧ (s.incumbent 1).v = false ∧ (t.incumbent 1).v = true ∧ (t.incumbent 1).busy = false ∧
     badKey 0x7FF8000000000000 = true ∧ badKey 0x80000003 = false ∧ beats false true 3 9 = true ∧ beats false true 9 9 = false) := by decide +kernel

/-- Operands of fabric instructions: X(11) a `put` of 512 bytes to core 8 of this module with a counter, X(12) its offset, X(13) its
remote address, X(14) an endpoint and a tag, X(15) a list of one subscriber for 64 bytes. -/
def fabRegs (m : Image) : Image :=
  (((((rich m).setX 11 (BitVec.ofNat 64 (8 + 0x10 * 2 ^ 28 + 2 ^ 46 + 512 * 2 ^ 48))).setX 12 0x1000).setX 13 0x8000).setX 14 0x10000008).setX 15
    (BitVec.ofNat 64 (0x2000 + 2 ^ 21 + 64 * 2 ^ 32))

/-- The operands d, a, b, c of a `put` or `get` through slot 2. -/
def fabCmd : FabCmd := { d := 0, a := 11, b := 12, c := 13, sb := 2, ord := .plain, cw := .none, ds := false }

theorem wit_FabricInstructionResults : (st fabRegs).Ready 0 (cx fabRegs) [11, 12, 13, 0] ∧ ringHasMem (ringHere (st fabRegs)) = false ∧
    (st fabRegs).badSram = [] ∧
    xferFault (st fabRegs) (cx fabRegs).img fabCmd true = none ∧ xferFault (st fabRegs) (cx fabRegs).img fabCmd false = none ∧
    xferFault (st rich) (cx rich).img { fabCmd with sb := 3 } true ≠ none ∧ ((cx fabRegs).img.getX 14).toNat < 2 ^ 44 ∧
    (st fabRegs).reachable (epDev ((cx fabRegs).img.getX 14).toNat) = true ∧ 2 ^ 44 ≤ ((cx fabRegs).img.getX 7).toNat ∧
    (st fabRegs).reachable (epDev (5 * 16384)) = false := by
  refine ⟨ready _ rfl _, ?_⟩
  and_intros <;> decide +kernel

theorem wit_FabricInstructionResults_full :
    (let s := (st fabRegs).setCore 0 { (st fabRegs).core 0 with inj := List.replicate 64 (.xfer 0) }
     64 ≤ (s.core 0).inj.length ∧ ¬ 64 ≤ ((st fabRegs).core 0).inj.length) := by decide +kernel

theorem wit_FabricInstructionResults_pub :
    (let s := st fabRegs
     let subs := subscribers 1 (s.bankBytes 0 0x2000 16)
     pubFault s (cx fabRegs).img 0 15 12 2 .none false = none ∧ subsFault s (cx fabRegs).img 64 subs = none ∧
       subsFault s (cx fabRegs).img 64 (subscribers 1 ((leBytes 8 (5 * 16384)) ++ List.replicate 8 0)) ≠ none ∧
       acceptWait (ringHere s) = false ∧ s.fabricWait 0 .fabric = false ∧ acceptWait (ringHere (unaccepted fabRegs)) = true ∧
       pubFault s (cx fabRegs).img 0 15 12 3 .none false ≠ none) := by decide +kernel

theorem wit_FabricInstructionResults_recv :
    (let s := st fabRegs
     let m := (cx fabRegs).img
     let w := s.setCore 0 { s.core 0 with recvq := [0x55] }
     let m' : Image := { m with div1 := 1 }
     recSa s cseg 0x17FFE0 32 32 true = none ∧ m.divHead = m.divTail ∧ (s.core 0).recvq = [] ∧ (w.core 0).recvq = [0x55] ∧
     m'.divHead ≠ m'.divTail ∧ (s.storeRead 0 (m'.divPa m'.divHead) 32).2.isSome = true) := by decide +kernel

theorem wit_FabricInstructionResults_rblk :
    (let s : State := { st fabRegs with here := 32, cores := (st fabRegs).cores.set 32 ((st fabRegs).core 0) }
     s.Ready 0 (cx fabRegs) [11, 12, 13, 0] ∧ inGateway 32 = true ∧ inGateway 0 = false ∧
       ((cx fabRegs).img.getX 12).toNat < 2 ^ 32 ∧ ((cx fabRegs).img.getX 6).toNat < 2 ^ 32) :=
  ⟨readyOf (by decide +kernel), by decide +kernel, by decide +kernel, by decide +kernel, by decide +kernel⟩

theorem wit_FabricInstructionResults_baddq :
    recSa (st fabRegs) cseg 0x1000 64 64 true = none ∧ recSa (st fabRegs) cseg 0x17FFC0 64 64 false = none := by decide +kernel

/-- A write of 16 bytes of a core to the banks of core 8's grove. -/
def packet (off seq : Nat) : FabPacket := ⟨0, 0, 8, 0, seq, 0, 0, .data false 0x8000 512 off (List.replicate 16 1)⟩

theorem wit_FabricWriteEvents_arrival :
    (let s : State := { st rich with packets := [packet 0 0] }
     let r := s.recvSeq 0 0
     s.packets[0]? = some (packet 0 0) ∧ (s.die 0).paused = false ∧ s.staleInc 0 0 0 = false ∧ s.staleInc 0 1 0 = true ∧
     r.state 0 = .open_ ∧ ({ r with placed := [0] } : RecvSeq).state 0 = .placed ∧ ({ r with low := 1 } : RecvSeq).state 0 = .closed ∧
     s.window < (packet 0 0).window + 2 ∧ 0x8000 + 512 ≤ Config.clusterBytes) := by decide +kernel

theorem wit_FabricWriteEvents_sends :
    (let w : OpenWrite := ⟨packet 0 0, 0, none⟩
     let a : FabAck := ⟨.write, 0, 0, 0, 0, 0, none, false, 0⟩
     let s : State := { st rich with sync := 200000000, answers := [a], sends := (st rich).sends.set 0 ⟨1, 0, [w], 0, []⟩ }
     let early : State := { s with sync := 0 }
     a.dev = s.ownDev ∧ a ∈ s.answers ∧ s.staleInc a.dev a.srcInc a.dstInc = false ∧ s.staleInc a.dev 1 0 = true ∧ (s.sendSeq 0 0).waits = [w] ∧
     (packet 0 0).seq = a.seq ∧ (packet 0 0).dstInc = a.srcInc ∧ early.window < (packet 0 0).window + 3 ∧
     (s.sendSeq 0 0).waits.find? (fun w => w.packet.seq == 0 && decide (w.time + 2000000 ≤ s.sync)) = some w ∧
     (s.sendSeq 0 0).waits.find? (fun w => w.packet.seq == 1 && decide (w.time + 2000000 ≤ s.sync)) = none ∧
     (s.sendSeq 0 0).waits.find? (fun w => w.packet.seq == 0 && decide (w.packet.window + 3 ≤ s.window)) = some w) := by decide +kernel

/-- Port 17 is up and a peer, device 5, with it. -/
def linked5 : State :=
  let s := { st rich with sync := 200000000, peers := (st rich).peers.set 5 ⟨true, 0⟩ }
  { s with ports := s.ports.set 17 { s.port 17 with up := true } }

theorem wit_FabricWriteEvents_reports :
    (let s : State := { linked5 with recvs := (st rich).recvs.set 40 { RecvSeq.fresh with due := [(3, 0)] }, reports := [⟨0, 0, 0, 0, 4, 0, 0⟩] }
     5 ≠ s.ownDev ∧ s.staleInc 5 0 0 = false ∧ s.staleInc 5 1 0 = true ∧ (s.port 17).up = true ∧ 0 = s.ownDev ∧
     (⟨0, 0, 0, 0, 4, 0, 0⟩ : SeqReport) ∈ s.reports ∧ s.staleInc 0 0 0 = false ∧
     ((s.recvSeq 5 0).due.filter fun (p : BitVec 32 × Nat) => decide (p.2 + 2 ≤ s.window)) ≠ [] ∧
     ((s.recvSeq 5 1).due.filter fun (p : BitVec 32 × Nat) => decide (p.2 + 2 ≤ s.window)) = []) := by decide +kernel

theorem wit_FabricWriteEvents_get :
    (let r : GetReq := ⟨0, 0, 8, 0, false, 0x17FE00, 512, 0⟩
     let s : State := { st rich with gets := [r] }
     s.gets[0]? = some r ∧ s.replyRoom r = true ∧ s.staleInc 0 0 0 = false ∧ r.virt = false ∧ r.addr + r.len ≤ Config.clusterBytes ∧ s.badSram = []) := by
  decide +kernel

/-- The put of `fabRegs` in the injection queue, and one whose data are all sent and acknowledged, with its counter left. -/
def putting : State := ran (execPut fabCmd (st fabRegs))
def putTail : State :=
  { putting with xfers := putting.xfers.map fun (x : Xfer) => { x with legs := x.legs.map fun (l : Leg) => { l with next := x.len } } }

/-- The first target of a transfer that can be sent something. -/
def nextLeg (s : State) (x : Xfer) : Option (Leg × Nat) :=
  x.legs.zipIdx.find? fun (p : Leg × Nat) => x.sendable p.1 && s.mayLeave 0 0 p.1.dst && s.canSend 0 (epDev p.1.dst) 0

theorem wit_FabricWriteEvents_injection :
    ((putting.core 0).inj = putting.xfers.map (fun (x : Xfer) => Inj.xfer x.id) ∧ putting.xfers.length = 1 ∧
     (putting.xfers.head?.any fun (x : Xfer) => putting.xfer? x.id == some x && (nextLeg putting x).isSome) = true ∧
     (putTail.xfers.head?.any fun (x : Xfer) => (match x.kind with | .put (some _) => true | _ => false) &&
       (nextLeg putTail x).any fun (p : Leg × Nat) => decide (x.len ≤ p.1.next)) = true) := by decide +kernel

theorem wit_FabricWriteEvents_message :
    (let s := ran (exec (.msg 0 14 12 13) (st fabRegs));
     ((s.core 0).inj[0]?.any fun e => (match e with | .msg m => m.seq.isNone && s.canSend 0 (epDev m.dst) 2 && s.mayLeave 0 0 m.dst && epDev m.dst == 0 | _ => false))
       = true) := by decide +kernel

/-- With 4,096 writes of the pair that wait for an answer. -/
theorem wit_FabricWriteEvents_limit (s : State) :
    (let t := s.setSend 0 0 { s.sendSeq 0 0 with waits := List.replicate 4096 ⟨packet 0 0, 0, none⟩ }
     4096 ≤ (t.sendSeq 0 0).waits.length) := by
  simp only [State.sendSeq, State.setSend, Tab.get?_set, Option.getD_some, List.length_replicate, Nat.le_refl]

theorem wit_FabricWriteEvents_recovery :
    (let s := { st rich with sync := 8000000 }
     let t := s.setCore 0 { s.core 0 with rate := (s.core 0).rate.set 2 ⟨5, 0, 60, none, 0, 0⟩ }
     (t.core 0).rate.get? 2 = some ⟨5, 0, 60, none, 0, 0⟩ ∧ 0 + 8000000 ≤ t.sync ∧ 60 ≤ (60 : Nat)) := by decide +kernel

theorem wit_HaloPartEvents_send :
    (let p : HaloPart := ⟨4, 0, 1, 12, 0, [(0, 1)], false⟩
     let g : Grid := { grid1 with held := [p], steps := [(0, 0), (1, 0)] }
     let s := gridS g
     (s.grids.flatMap fun q => q.2.held)[0]? = some p ∧ s.grids.get? p.grid = some g ∧ g.ownerCore 0 = some 0 ∧ g.ownerCore 1 = some 8 ∧
     g.steps.get? 1 = some 0 ∧ p.step ≤ 0 ∧ ¬ ({ p with step := 1 } : HaloPart).step ≤ 0) := by decide +kernel

theorem wit_HaloPartEvents_arrival :
    (let p : HaloPart := ⟨4, 0, 1, 12, 0, [(0, 1)], false⟩
     ({ gridS grid1 with halos := [(0, p)] } : State).halos[0]? = some (0, p) ∧ (gridS grid1).grids.get? p.grid = some grid1 ∧
     (st rich).grids.get? p.grid = none ∧ ({ p with old := true } : HaloPart).old = true ∧ grid1.overtaken p.dst p.strip p.src p.step = false ∧
     ({ grid1 with landed := [(27 * p.dst + p.strip, p.src, 2)] } : Grid).overtaken p.dst p.strip p.src p.step = true ∧
     (let all := fun (g : Grid) => (g.suppliers p.dst p.strip).all fun q => (g.land p.dst p.strip p.src p.step).1.landed.contains (27 * p.dst + p.strip, q, p.step)
      all grid1 = true ∧ all { grid1 with h := 8, ext := [20, 1, 1] } = false)) := by
  decide +kernel

theorem wit_HaloPartEvents_stall :
    (let s := { (gridS grid1).updCtx 0 (fun (c : Ctx) => { c with wait := some .halo, stale := some (0, 0) }) with now := 5000 }
     (s.ctx? 0).any (fun (c : Ctx) => c.wait == some .halo && c.stale == some (0, 0)) = true ∧ (∃ g ∈ s.grids, g.2.stall < s.now - 0) ∧
     ∀ g ∈ s.grids, { s with now := 4096 }.now - 0 ≤ g.2.stall) := by decide +kernel


/-- A message of core 0 to the active context of core 0, or to any context of core 8. -/
def message (dst : Nat) (tag : BitVec 16) : MsgPacket := ⟨0, 0, dst, 0, 0, tag, 5⟩

/-- A message in an injection queue that has been sent and refused. -/
def sentMsg : MsgOut :=
  { id := 0, dst := 8, tag := 0, pay := 0, cid := 0, uid := 0, seq := some 0, inc := 0, sentNo := 0, first := 0, last := 0, answer := some 0, refused := true }

theorem wit_MessageAndPortEvents_messages :
    (let s : State := { st rich with msgs := [message 0 0, message 8 0xFFFF], sync := 200000000 }
     let t := s.setCore 0 { s.core 0 with inj := [.msg sentMsg] }
     s.msgs[0]? = some (message 0 0) ∧ s.msgs[1]? = some (message 8 0xFFFF) ∧ s.staleInc 0 0 0 = false ∧
     RecvSeq.fresh.state 0 = .open_ ∧ s.activeCid 0 = some 0 ∧ ctxTag 0 = 0 ∧ (s.core 0).recvq.length < 64 ∧ (s.core 8).recvq.length < 64 ∧
     (s.die 0).paused = false ∧ ((s.setDie 0 { s.die 0 with paused := true }).die 0).paused = true ∧ RecvSeq.fresh.state 4095 = .open_ ∧
     RecvSeq.fresh.state 4096 = .beyond ∧ (t.core 0).inj[0]? = some (.msg sentMsg) ∧ sentMsg.refused = true ∧ sentMsg.answer = some 0 ∧
     t.msgCan (epDev sentMsg.dst) = true ∧ t.paced 0 sentMsg.dst = true ∧ 0 + 1000000 ≤ t.sync ∧ 0 + 3 * t.windowLen ≤ t.sync) := by decide +kernel

theorem wit_MessageAndPortEvents_silence :
    (let t := { (st rich).setCore 0 { (st rich).core 0 with inj := [.msg sentMsg] } with sync := 200000000 }
     t.findMsg 0 0 0 (fun m => decide (m.answer.getD m.first + 3 * t.windowLen ≤ t.sync)) = some (0, 0, sentMsg) ∧ 0 = t.ownDev ∧
     t.findMsg 0 0 1 (fun m => decide (m.answer.getD m.first + 3 * t.windowLen ≤ t.sync)) = none) := by decide +kernel

theorem wit_MessageAndPortEvents_close :
    (let s := linked5
     (5 : Nat) ≠ s.ownDev ∧ s.mayAnswer = true ∧ (s.port 17).up = true ∧ s.staleInc 5 0 0 = false ∧ s.staleInc 5 1 0 = true ∧
     ((s.msgRecvs.get? 40).getD RecvSeq.fresh).state 0 = .open_ ∧ ({ RecvSeq.fresh with placed := [0] } : RecvSeq).state 0 = .placed ∧
     (s.port 17).allows 3 = true ∧ (s.port 16).allows 3 = false) := by decide +kernel

theorem wit_MessageAndPortEvents_ports :
    (let s := st rich
     (5 : Nat) ≠ s.ownDev ∧ (s.port 17).up = false ∧ 17 < 18 ∧ s.fabwin.toNat % 128 = 8 ∧
     ((64#64 : Word).toNat = (64#64 : Word).toNat % 128) ∧ (64#64 : Word).toNat ≠ s.fabwin.toNat % 128 ∧ (1 : Nat) ≠ s.fabwin.toNat % 128 ∧
     0 < s.windowLen) := by decide +kernel

/-- Two contexts on core 0: context 0 in slot 0 and a copy of it in slot 1. -/
def pair (f : Ctx → Ctx) : State :=
  let s := (st rich).updCtx 0 f
  { (s.setCtx 1 { cx rich with uid := 7, where_ := .slot 0 1 }).setCore 0 { s.core 0 with slots := (s.core 0).slots.set 1 (some 1) } with serial := 8 }

theorem wit_ContextAndFaultEvents_switch :
    (((pair id).core 0).active = some 0 ∧ (pair id).slotReady 0 0 = true ∧
     (pair fun c => { c with wait := some .watch }).slotReady 0 0 = false ∧
     [(1 : Fin 4), 2, 3].find? ((pair id).slotReady 0) = some 1 ∧
     (((pair id).setCore 0 { (pair id).core 0 with issue := 4096 }).core 0).issue = 4096 ∧ ((pair id).core 0).issue < 4096 ∧
     (pair id).inTlbinv 0 = false ∧ ((pair id).core 0).holding = false ∧ (State.reset.core 0).active = none) := by decide +kernel

theorem wit_ContextAndFaultEvents_wait :
    ((st rich).activeCid 0 = some 0 ∧ (st rich).ctx? 0 = some (cx rich) ∧ (cx rich).ready = true ∧ (st rich).inTlbinv 0 = false ∧
     ((st rich).core 0).holding = false ∧ (st rich).stalled = false) := by decide +kernel

/-- What the waits of a context need: the latch, a barrier that is over, a message; and one beside it whose condition holds too, on a core with no
active context. -/
theorem wit_ContextAndFaultEvents_ready :
    (let done := fun (s : State) (cid : Nat) => match (s.ctx? cid).bind Ctx.core? with
       | some k => !((s.core k).arrival.any fun p => match p.2 with | .arrived _ o => o == cid | _ => false)
       | none => false
     let s := grouped (st rich)
     let both := pair fun c => { c with wait := some .access }
     let idle := (both.updCtx 1 fun c => { c with wait := some .watch, latch := true }).setCore 0 { both.core 0 with active := none }
     done s 0 = true ∧ done (s.setArrival 0 3 (some (.arrived false 0))) 0 = false ∧ ({ cx rich with latch := true } : Ctx).latch = true ∧
     (idle.residents 0).contains 0 = true ∧ (idle.residents 0).contains 1 = true ∧ (idle.core 0).active = none ∧
     (idle.ctx? 0).any (fun c => c.wait == some .access && c.core? == some 0) = true ∧
     (idle.ctx? 1).any (fun c => c.wait == some .watch && c.latch) = true) := by
  decide +kernel

theorem wit_ContextAndFaultEvents_image : (st rich).MemInv ∧ (st rich).Sound ∧
    (isService 0 = false ∧ (st rich).tierPower = 0xFF#8 ∧ ((st rich).residents 0).contains 0 = true ∧ ((st rich).core 0).lines.contains (0, 127) = false ∧
     ((st rich).core 0).lines.length < 512 ∧
     (let s := (st rich).setCore 0 { (st rich).core 0 with lines := (List.range 512).map fun i => (1 + i / 128, i % 128) }
      s.ctx? 0 = some (cx rich) ∧ s.bad = [] ∧ s.badSram = [] ∧ (s.residents 0).contains 0 = true ∧ (s.core 0).lines.contains (0, 127) = false ∧
      512 ≤ (s.core 0).lines.length ∧ (s.lineVictim 0).isSome = true)) :=
  ⟨memInv_of (by decide +kernel), ⟨rfl, rfl⟩, by decide +kernel⟩

/-- Two copies in the ring: the first has faulted. -/
def faulted : State :=
  let i := Instr.dcopy ⟨0, 9, 9, 8, 2, 1, .plain, .none, false⟩ false
  let s := ran (exec i (ran (exec i (st cmdRegs))))
  s.updCtx 0 fun c => { c with ring := c.ring.map fun e => if e.seq = 0 then { e with phase := .faulted (FaultRec.mk0 2 16 0) } else e }

theorem wit_ContextAndFaultEvents_late :
    ((faulted.ctx? 0).any fun c => match c.ring with
      | e :: young => c.core? == some 0 && c.late.isNone && (match e.phase with | .faulted _ => true | _ => false) && young.length == 1 &&
          young.all fun y => (vmaxxW y.instr).isNone && (faulted.queuedMat 0 0 c.uid y).isNone
      | [] => false) = true := by decide +kernel

theorem wit_ContextAndFaultEvents_trap :
    (let f := FaultRec.mk0 2 16 0
     let s := (st rich).updCtx 0 fun (c : Ctx) => { c with late := some f }
     let t := (st rich).updCtx 0 fun (c : Ctx) => { c with psu := [⟨0, 64, 8, true⟩] }
     s.pendingTrap 0 = some (0, f, false) ∧ (t.pendingTrap 0).any (fun (p : Nat × FaultRec × Bool) => p.1 == 0 && p.2.2) = true ∧
     s.inTlbinv 0 = false ∧ (s.core 0).holding = false) := by decide +kernel

theorem wit_ContextAndFaultEvents_preemption :
    (let s := (st rich).updCtx 0 fun (c : Ctx) => { c with leaving := some 4 }
     (s.ctx? 0).any (fun (c : Ctx) => c.where_ == .slot 0 0 && c.leaving == some 4 && c.ring.isEmpty) = true ∧ s.owes 0 0 = false ∧
     s.inTlbinv 0 = false ∧ (s.core 0).holding = false ∧ (s.die (coreDie 0)).pool.length < 65536) := by decide +kernel

/-- A pool entry with index 0 of one task, ordinary or of the search 3. -/
def pooled (srch : Bool) (count : Nat) : PoolEntry :=
  { id := 4, entry := 0x10000, args := 5, bound := 9, next := 0, count := count
    task := { loadedCtx.task with cls := 2, srch := srch, inc := if srch then 3 else 0, signal := none }, hold := none, resume := none, acq := none }

/-- Die 0 with one entry in its pool. -/
def waiting (e : PoolEntry) : State := (st rich).setDie 0 { (st rich).die 0 with pool := [e], poolcfg := 0x104, imgCount := 64 }

theorem wit_TaskAndGroupEvents_dispatch :
    (let s := waiting (pooled false 2)
     (!(s.die 0).paused && s.dispatchOrder 0 == [pooled false 2] && (s.targetCore 0 (pooled false 2).task).isSome && (s.freeImage 0).isSome) = true) := by decide +kernel

theorem wit_TaskAndGroupEvents_search :
    (let s := waiting (pooled true 2)
     s.dispatchOrder 0 = [pooled true 2] ∧ (s.die 0).paused = false ∧ (pooled true 2).task.signal = none ∧
     ({ s with shadows := s.shadows.set (8 * poolAgent 0 + 3) 9 } : State).beatsShadow (poolAgent 0) 3 9 = false) := by decide +kernel

theorem wit_TaskAndGroupEvents_aging :
    (let s := { waiting (pooled false 2) with now := 16 }
     (s.die 0).poolcfg.getLsbD 8 = true ∧ (pooled false 2).hold = none ∧ (pooled false 2).task.cls < 3 ∧
     (pooled false 2).task.elig + ((pooled false 2).task.promo + 1) * 2 ^ ((s.die 0).poolcfg.toNat % 64) ≤ s.now) := by decide +kernel

theorem wit_TaskAndGroupEvents_incumbents :
    (let s := st rich
     let b : State := { s with incumbents := s.incumbents.set 3 { Incumbent.fresh with busy := true } }
     let h : State := { s with incumbents := s.incumbents.set 3 { Incumbent.fresh with v := true, sv := true, ssense := true, hist := [(0, 5)] }, now := 10000 }
     (7#64 : Word).extractLsb' 3 4 = 0#4 ∧ (7#64 : Word).extractLsb' 8 56 = 0#56 ∧ (s.incumbent 3).busy = false ∧ s.searchLeft 3 = false ∧
     (3#64 : Word).getLsbD 2 = false ∧ (3#64 : Word).extractLsb' 3 4 = 0#4 ∧
     badKey 0xFFFFFFFF = true ∧ (b.incumbent 3).busy = true ∧ s.nextImprovement (poolAgent 0) 3 = none ∧
     (h.nextImprovement (poolAgent 0) 3 = some 5)) := by decide +kernel

theorem wit_TaskAndGroupEvents_kp :
    (let s := (st rich).updCtx 0 fun (c : Ctx) => { c with task := { c.task with srch := true, inc := 3 }, img := { c.img with bound := 9 } }
     (s.residents 0).contains 0 = true ∧ (s.ctx? 0).any (fun (x : Ctx) => x.core? == some 0 && x.task.srch && x.task.inc == 3 &&
       !beats (s.incumbent 3).ssense (s.incumbent 3).skt x.img.bound 5) = true) := by decide +kernel

/-- Group 3 of the cores 0 and 8 with their arrivals and its phase. -/
def arrived (a b : Bool) (ph : Episode) : State :=
  let s := ((st rich).setArrival 0 3 (some (.arrived a 0))).setArrival 8 3 (some (.arrived b 1))
  { s with groups := s.groups.set 3 { members := [0, 8], step := 0, phase := ph } }

theorem wit_TaskAndGroupEvents_episodes :
    ((grouped (st rich)).arrivals 3 ⟨[0, 8], 0, .idle⟩ = none ∧ (arrived true false .idle).arrivals 3 ⟨[0, 8], 0, .idle⟩ = some [true, false] ∧
     (arrived false false .idle).arrivals 3 ⟨[0, 8], 0, .idle⟩ = some [false, false] ∧
     (arrived true true .idle).arrivals 3 ⟨[0, 8], 0, .idle⟩ = some [true, true] ∧
     (arrived true true .landing).groups.get? 3 = some ⟨[0, 8], 0, .landing⟩ ∧ (arrived true true .landing).landed ⟨[0, 8], 0, .landing⟩ = true ∧
     ((arrived true true .landing).spaces.filter fun (p : Nat × Space) => p.2.group == 3) = [] ∧
     ({ arrived true true .landing with spaces := [(3, line1 .live 4096)] } : State).spaces.filter (fun (p : Nat × Space) => p.2.group == 3) =
       [(3, line1 .live 4096)] ∧
     ((arrived true true .landing).arrivals 3 ⟨[0, 8], 0, .landing⟩).isSome = true ∧ ((arrived true true .moving).arrivals 3 ⟨[0, 8], 0, .moving⟩).isSome = true ∧
     (let s : State := { arrived true true .moving with cksts := 1, ckReq := 3 * 2 ^ 26 }; s.cksts = 1 ∧ s.ckGroup = 3) ∧
     (arrived true true .moving).landed ⟨[0, 8], 0, .moving⟩ = true) := by decide +kernel


/-- The context of core 0 waits for an access under a leaf that its core has used. -/
def blocked : State := cached.updCtx 0 fun (c : Ctx) => { c with wait := some .access }

theorem wit_CacheAndHomeEvents_fill : blocked.MemInv ∧ blocked.Sound ∧
    (blocked.waitingCores 0 0x200001 ≠ [] ∧ blocked.tierPower = 0xFF#8 ∧ kindOfPa (128 * 0x200001) = kGlobal ∧
     kindOfPa (128 * (Config.tierBase / 128)) = kTier ∧ plain blocked 0x200001 = true ∧ roomy blocked 0 0x200001 = true) :=
  ⟨memInv_of (by decide +kernel), ⟨by decide +kernel, by decide +kernel⟩, by decide +kernel⟩

theorem wit_CacheAndHomeEvents_writeback :
    (((cached.grove 0).line? 0x200000).any (fun (l : L1Line) => l.upd.isNone && l.dirty != 0) = true ∧
     (cached.proxies.get? 0x200000).getD 0 &&& ~~~(1#8 <<< groveDie 0) = 0 ∧
     (({ cached with proxies := cached.proxies.set 0x200000 2 } : State).proxies.get? 0x200000).getD 0 &&& ~~~(1#8 <<< groveDie 0) ≠ 0 ∧
     cached.waiting.contains (0, 0x200000, true) = false ∧ plainRange cached (128 * 0x200000) 128 = true ∧ canon cached = true ∧
     cached.bad = [] ∧ cached.badSram = [] ∧ cached.tierPower = 0xFF#8) := by decide +kernel

theorem wit_CacheAndHomeEvents_homes :
    (let sums : CombLine := ⟨0x200000, [(124, valF32 0x3F800000)]⟩
     let s : State := { st rich with combine := [sums], waiting := [(0, 5, false)] }
     let tier := Config.tierBase / 128
     s.comb? 0x200001 = none ∧ s.comb? 0x200000 = some sums ∧ (st rich).tierPower = 0xFF#8 ∧ (st rich).comb? tier = none ∧ kindOfPa (128 * tier) = kTier ∧
     ({ st rich with tierPower := 0xFE } : State).tierPower.getLsbD (homeDie (128 * tier)) = false ∧
     s.waiting = [(0, 5, false)] ∧ s.proxies.get? 5 = none ∧ (∀ w ∈ s.waiting, w.2.1 ≠ 0x200000) ∧ (st rich).waiting = []) := by decide +kernel

/-- An update-only copy of line 0x200000, and 64 other lines with sums in the combine buffer of its home. -/
theorem wit_CacheAndHomeEvents_updates :
    (let old : CombLine := ⟨0x210000, [(124, valF32 0x3F800000)]⟩
     let s := ranged 1 1
     let t := s.setGrove 0 { s.grove 0 with l1 := [{ L1Line.fresh 0x200000 with upd := some 0 }] }
     let full : State := { t with combine := List.replicate 64 old }
     ((t.grove 0).line? 0x200000).any (fun (l : L1Line) => l.upd == some 0) = true ∧ t.ranges.get? 0 = some ⟨0x10000000, 16, 1, 1⟩ ∧
     ((full.grove 0).line? 0x200000).any (fun (l : L1Line) => l.upd == some 0) = true ∧ full.ranges.get? 0 = some ⟨0x10000000, 16, 1, 1⟩ ∧
     full.badSram = [] ∧ full.combOldest 0x200000 = some old ∧ (old.sums.all fun p => decide (p.1 < 128)) = true ∧
     ((cached.grove 0).line? 0x200000).any (fun (l : L1Line) => l.upd.isNone) = true) := by decide +kernel

theorem wit_CacheAndHomeEvents_errors :
    (let s := (st rich).writeAt 0 slicePolicy 0x10000000 [5] none
     let g := homeGrove 0x10000000
     kindOfPa 0x10000000 ≠ 0 ∧ s.holdsSector g (0x10000000 / 32) = true ∧ s.badSram.contains (.slice g (0x10000000 / 32)) = false ∧
     (st rich).holdsSector g (0x10000000 / 32) = false ∧ (st rich).bad.contains (0x10000000 / 32) = false ∧
     cached.siteLives (.l1 0 (4 * 0x200000 + 2)) = true ∧ cached.badSram.contains (.l1 0 (4 * 0x200000 + 2)) = false ∧
     (st rich).siteLives (.l1 0 (4 * 0x200000 + 2)) = false) := by decide +kernel

theorem wit_CacheAndHomeEvents_walks :
    (let s := st rich
     scopeWide .die = true ∧ scopeWide .core = false ∧ isService 0 = false ∧ (s.walk 0 1 0x10000000).2.toBool = true ∧
     (s.walk 0 2 0x10000000).2.toBool = false ∧ (∀ k, TlbAt.grove 1 ≠ .micro k) ∧
     ((s.leaves (.grove 1)).1.find? fun l => l.hits 1 0x10000000) = none ∧ ((cached.leaves (.grove 0)).1.find? fun l => l.hits 1 0x10000000).isSome = true ∧
     (s.grove 0).eng.find? (fun (c : EngCmd) => c.id == 5) = none) :=
  ⟨rfl, rfl, rfl, by decide +kernel, by decide +kernel, fun _ h => (by cases h), by decide +kernel, by decide +kernel, by decide +kernel⟩

theorem wit_CacheAndHomeEvents_ways :
    (let s := st rich
     let d := cached.setDie 0 { cached.die 0 with rwaysPend := some (3, 0) }
     let u := d.setDie 0 { d.die 0 with rwaysPend := none }
     (s.die 0).rwaysPend = none ∧ (d.die 0).rwaysPend = some (3, 0) ∧ d.combine = [] ∧ d.bad = [] ∧ d.badSram = [] ∧ d.tierPower = 0xFF#8 ∧
     canon d = true ∧ d.ways ≠ [] ∧
     d.ways.all (fun p => groveDie (p.1 / 512) != 0 || (
        let home := p.2.filter fun w => homeGrove (128 * w.line) == p.1 / 512
        decide (home.length ≤ (u.slicePlan 0).1) && decide (p.2.length - home.length ≤ (u.slicePlan 0).2))) = true) := by decide +kernel

/-- Die 0 with its mailbox rings at 0x20000000 and their indexes at 0x21000000; version 1 is chosen. -/
def mail : State :=
  let s := { st rich with mbsel := 1 }
  s.setDie 0 { s.die 0 with mbArea := some (0x20000000, 0x21000000) }

theorem wit_MailboxAndServiceEvents_post :
    ((mail.die (4095 / 4096)).mbArea = some (0x20000000, 0x21000000) ∧ ((st rich).die 0).mbArea = none ∧ mail.mbsel ≠ 0 ∧ mail.ckPhase = 0 ∧
     (let t := (mail.setMbox 4095 { mail.mbox 4095 with post := 7 }).mbLook 4095
      (t.mbTail 4095 - t.mbHead 4095).toNat < 64) ∧
     (let u := { mail with dram := mail.dram.write (0x21000000 + 16 * 4095) 64 }
      let t := (u.setMbox 4095 { u.mbox 4095 with post := 7 }).mbLook 4095
      64 ≤ (t.mbTail 4095 - t.mbHead 4095).toNat)) := by decide +kernel

theorem wit_MailboxAndServiceEvents_spawn :
    (let s := mail.setMbox 0 { mail.mbox 0 with bind := 1#128 <<< 63 }
     let t := { s with dram := s.dram.write 0x21000000 1 }
     (s.mbox 0).bind.getLsbD 63 = true ∧ (mail.mbox 0).bind.getLsbD 63 = false ∧
     (t.mbLook 0).mbHead 0 ≠ (t.mbLook 0).mbTail 0 ∧ (s.mbLook 0).mbHead 0 = (s.mbLook 0).mbTail 0 ∧ (t.die 0).pool.length < 65536) := by
  decide +kernel

theorem wit_MailboxAndServiceEvents_queue :
    (let open_ := { cx rich with hqOpen := true }
     let full : Ctx := { open_ with img := { open_.img with div1 := 0x100000000000 } }
     (st rich).ctx? 1 = none ∧ (st rich).ctx? 0 = some (cx rich) ∧ (cx rich).hqOpen = false ∧ open_.hqOpen = true ∧
     open_.where_ ≠ .ended ∧ open_.img.divFull = false ∧ full.img.divFull = true) := by decide +kernel

/-- Die 0's service core n runs its firmware context. -/
def serving (n : Nat) : State :=
  let s := State.reset.startFirmware 0 n
  s.setDie 0 { s.die 0 with mcq := [⟨1, 2⟩], causes := [1, 2] }

theorem wit_MailboxAndServiceEvents_registers :
    (regAt 0x18000 = .unassigned ∧ regAt 0xFFFFFF8 = .unassigned ∧ regAt 0x1000008 = .counter 0 1 ∧ regAt 0x1000200 = .rate 0 0 ∧
     (3200#64 : Word).extractLsb' 12 52 = 0#52 ∧ 10 ≤ (40#64 : Word).toNat % 64 ∧ (40#64 : Word).toNat % 64 ≤ 40 ∧
     (0x100#64 : Word).extractLsb' 16 48 = 0#48 ∧ (0x100#64 : Word).extractLsb' 8 8 = 1#8 ∧ (st rich).mbsel = 0 ∧
     (st rich).loadBusy = false ∧ State.running (st rich) = false ∧ ((serving 0).die 0).mcq ≠ [] ∧ ((serving 0).die 0).mcLost = false ∧
     (let t := (serving 0).setDie 0 { (serving 0).die 0 with mcLost := true }
      (t.die 0).mcLost = true ∧ ((t.die 0).mcq.drop 1).length < 16)) := by decide +kernel

theorem wit_MailboxAndServiceEvents_service :
    (((serving 0).die 0).mcq.length ≠ 0 ∧ ((serving 0).core 16384).mcHeld = false ∧ (serving 0).activeCid 16384 = some 524288 ∧
     (serving 0).busyCore 16384 = false ∧ (serving 1).busyCore 16385 = false ∧ ((serving 0).ctx? 524288).any Ctx.ready = true ∧ ((serving 1).die 0).causes.foldl (fun a b => a ||| b) 0 = 3 ∧
     ((serving 1).core 16385).svHeld = false ∧ (serving 1).activeCid 16385 = some 524289 ∧ ((serving 1).ctx? 524289).any Ctx.ready = true ∧
     (let u := ((serving 1).setCore 16385 { (serving 1).core 16385 with svHeld := true }).updCtx 524289 fun (c : Ctx) => { c with img := { c.img with faultinfo := 33 } }
      (u.core 16385).svHeld = true ∧ u.activeCid 16385 = some 524289 ∧ (u.ctx? 524289).any (fun (c : Ctx) => c.img.faultinfo.toNat % 256 == 33) = true)) := by
  decide +kernel

theorem wit_MailboxAndServiceEvents_clock :
    (let s := { st rich with sync := 100000000, samples := [3201] }
     let t := { s with samples := [3040] }
     s.clkAt + 100000000 ≤ s.sync ∧ s.samples ≠ [] ∧ s.hot = false ∧ 400 ≤ s.clk ∧ s.clk ≤ 800 ∧
     s.watts.toNat * s.samples.length < s.samples.sum ∧ 100 * t.samples.sum ≤ 95 * t.watts.toNat * t.samples.length ∧
     t.samples.sum ≤ t.watts.toNat * t.samples.length ∧ (st rich).sync < (st rich).clkAt + 100000000) := by decide +kernel


theorem wit_LoadResetAndCheckpointEvents_boot (d : Nat) (image : List Byte) :
    (st rich).booted = false ∧ ((st rich).die 0).boot = none ∧ (Config.imageVerifies d image = true ∨ Config.imageVerifies d image = false) ∧
    ((st rich).setDie 0 { (st rich).die 0 with boot := some (sm3Value image) }).booted = false :=
  ⟨by decide +kernel, by decide +kernel, by cases Config.imageVerifies d image <;> simp, by
    rw [State.booted, Bool.and_eq_false_iff, List.all_eq_false]
    refine .inr ⟨1, by decide, fun h => ?_⟩
    have h' : ((none : Option (BitVec 256)) == some (sm3Value image)) = true := h
    cases h'⟩

/-- The dies before n have accepted the same firmware image. -/
def on (n : Nat) (h : BitVec 256) (s : State) : State :=
  (List.range n).foldl (fun (t : State) d => t.setDie d { t.die d with boot := some h }) s

/-- Seven dies have accepted an image, and the eighth accepts the same. -/
theorem wit_LoadResetAndCheckpointEvents_last (image : List Byte) :
    (let s := on 7 (sm3Value image) (st rich)
     (s.die 7).boot = none ∧ (s.setDie 7 { s.die 7 with boot := some (sm3Value image) }).booted = true) := by
  refine ⟨rfl, ?_⟩
  have h : ∀ d, d < 8 → (((on 7 (sm3Value image) (st rich)).setDie 7 { (on 7 (sm3Value image) (st rich)).die 7 with
      boot := some (sm3Value image) }).die d).boot = some (sm3Value image) := by
    intro d hd
    interval_cases d <;> rfl
  simp only [State.booted, h 0 (by decide), Option.isSome_some, Bool.true_and, List.all_eq_true, List.mem_range, beq_iff_eq]
  exact h

/-- A program image of no section at offset 0 of the tier, as its 128 bytes of header. -/
def header : List Byte :=
  [0x56, 0x37, 0x49, 0x4D, 1, 0, 128, 0] ++ List.replicate 56 0 ++ sm3 [] ++ List.replicate 32 0

/-- The module after its boot, with that image in the tier and ldcmd written with GO. -/
def loading0 : State := { on 8 7 (st rich) with dram := base.dram.writes Config.tierBase header, slice := [] }

/-- A plan for it with frames for page tables: 8,192 images a die. -/
def planWith (tables : List Nat) : LoadPlan :=
  let byDie := fun o : Nat => (List.range 8).map fun d => d * Config.hbmPerDie + o
  { pages := [], heap := [], tables := tables
    images := (byDie 0).map fun a => (a, 8192), rgBases := byDie 0, rings := byDie 0x10000000, indexes := byDie 0x11000000
    diverts := byDie 0x12000000 }

/-- 4,200 frames at the top of HBM. -/
def frames : List Nat := (List.range 4200).map fun i => Config.hbmBytes - 4096 * (i + 1)
def plan0 : LoadPlan := planWith frames

/-- Does each part lie before the one in front of it? -/
def falling (acc ls : List (Nat × Nat × Nat × Option Nat)) : Bool :=
  match ls with
  | [] => true
  | x :: rest => (match acc with | [] => true | y :: _ => !decide (y.1 ≤ x.1)) && falling (x :: acc) rest

theorem insert_falling (ls acc : List (Nat × Nat × Nat × Option Nat)) (h : falling acc ls = true) :
    ls.foldl (fun acc x => insertBy (fun a b => decide (a.1 ≤ b.1)) x acc) acc = ls.reverse ++ acc := by
  induction ls generalizing acc with
  | nil => rfl
  | cons x rest ih =>
    simp only [falling, Bool.and_eq_true] at h
    have hx : insertBy (fun a b => decide (a.1 ≤ b.1)) x acc = x :: acc := by
      cases acc with
      | nil => rfl
      | cons y ys =>
        have hy : decide (y.1 ≤ x.1) = false := by simpa using h.1
        simp only [insertBy, List.takeWhile_cons, List.dropWhile_cons, hy, Bool.false_eq_true, if_false, List.nil_append]
    rw [List.foldl_cons, hx, ih _ h.2, List.reverse_cons, List.append_assoc, List.singleton_append]

/-- The frames for page tables among the parts, and the parts after them. -/
def tableParts (tables : List Nat) : List (Nat × Nat × Nat × Option Nat) := tables.map fun a => (a, 4096, 4096, none)
def otherParts : List (Nat × Nat × Nat × Option Nat) := (planParts (planWith []) 0).filter fun x => x.2.1 != 0

theorem parts_planWith (ts : List Nat) : (planParts (planWith ts) 0).filter (fun x => x.2.1 != 0) = tableParts ts ++ otherParts := by
  have h : (tableParts ts).filter (fun x => x.2.1 != 0) = tableParts ts := by
    apply List.filter_eq_self.2
    intro x hx
    obtain ⟨a, -, rfl⟩ := List.mem_map.1 hx
    rfl
  have e : planParts (planWith ts) 0 = tableParts ts ++ planParts (planWith []) 0 := by
    simp only [planParts, tableParts, planWith, List.map_nil, List.nil_append, List.append_assoc]
  rw [e, List.filter_append, h]
  rfl

theorem sorted_plan0 : sortBy (fun a b => decide (a.1 ≤ b.1)) (tableParts frames ++ otherParts) =
    otherParts.foldl (fun acc x => insertBy (fun a b => decide (a.1 ≤ b.1)) x acc) (tableParts frames).reverse := by
  rw [sortBy, List.foldl_append, insert_falling (tableParts frames) [] (by decide +kernel), List.append_nil]

theorem plan0_good : planGood plan0 [] 0 0 = true := by
  have h : (planParts plan0 0).filter (fun x => x.2.1 != 0) = tableParts frames ++ otherParts := parts_planWith frames
  simp only [planGood, h, sorted_plan0]
  decide +kernel

theorem writeLdcmd_keeps (s : State) (w : Word) : (s.writeLdcmd w).dram = s.dram ∧ (s.writeLdcmd w).slice = s.slice := by
  simp only [State.writeLdcmd, State.countBad]
  split <;> exact ⟨rfl, rfl⟩

theorem homeByte_behind (s : State) (hs : s.slice = []) {pa : Nat} (h : Config.hbmBytes ≤ pa) : s.homeByte pa = s.dram.read pa := by
  rw [State.homeByte, State.imageAt?, if_pos h, hs]
  rfl

theorem header_sections (s : State) : s.imageSections header = [] := by
  rw [State.imageSections, show halfAt header 24 = 0 by decide +kernel]
  rfl

theorem homeBytes_written (s : State) (hs : s.slice = []) {pa : Nat} (h : Config.hbmBytes ≤ pa) {m : Memory} (hw : m.wf = true)
    (bs : List Byte) (hd : s.dram = m.writes pa bs) : s.homeBytes pa bs.length = bs := by
  apply List.ext_getElem (by simp [State.homeBytes])
  intro i h1 h2
  simp only [State.homeBytes, List.getElem_map, List.getElem_range]
  rw [homeByte_behind s hs (Nat.le_trans h (Nat.le_add_right _ _)), hd, Memory.read_writes_in hw _ _ h2]

theorem imageBytes_loading0 : (loading0.writeLdcmd (1#64 <<< 63)).imageBytes 0 128 = header := by
  have hd : (loading0.writeLdcmd (1#64 <<< 63)).dram = base.dram.writes Config.tierBase header := (writeLdcmd_keeps _ _).1.trans (by rw [loading0])
  have hs : (loading0.writeLdcmd (1#64 <<< 63)).slice = [] := (writeLdcmd_keeps _ _).2.trans (by rw [loading0])
  have ho : Config.tierBase + (loading0.writeLdcmd (1#64 <<< 63)).ldcmd.toNat % 2 ^ 26 * 65536 + 0 = Config.tierBase := by decide +kernel
  have hl : header.length = 128 := by decide +kernel
  rw [State.imageBytes, ho, ← hl]
  exact homeBytes_written _ hs (by decide) (by decide +kernel) header hd

theorem mapLeaf_some (plan : List (Nat × Nat)) (s : State) (free : List Nat) (table va pa shift flags : Nat) (h : shift ∈ plan.map Prod.fst)
    (hf : plan.length ≤ free.length + 1) :
    ∃ t f, State.mapLeaf plan s free table va pa shift flags = some (t, f) ∧ free.length + 1 ≤ f.length + plan.length := by
  induction plan generalizing s free table with
  | nil => simp at h
  | cons q rest ih =>
    obtain ⟨lo, bits⟩ := q
    rw [State.mapLeaf.eq_def]
    dsimp only
    by_cases e : lo = shift
    · exact ⟨_, _, by rw [if_pos e], by simp⟩
    · have hm : shift ∈ rest.map Prod.fst := by simpa [Ne.symm e] using h
      have hr : 1 ≤ rest.length := by
        cases rest with
        | nil => simp at hm
        | cons _ _ => simp
      rw [if_neg e]
      simp only [List.length_cons] at hf
      split
      · obtain ⟨t, f, h1, h2⟩ := ih s free _ hm (by omega)
        exact ⟨t, f, h1, by simp only [List.length_cons]; omega⟩
      · cases free with
        | nil => simp only [List.length_nil] at hf; omega
        | cons x more =>
          simp only [List.length_cons] at hf
          obtain ⟨t, f, h1, h2⟩ := ih (s.pokeWord _ (x + 1)) more x hm (by omega)
          exact ⟨t, f, h1, by simp only [List.length_cons]; omega⟩

theorem mapAll_some (ms : List (Nat × Nat × Nat × Nat)) (s : State) (free : List Nat) (root : Nat)
    (h : ∀ m ∈ ms, m.2.2.1 = 16 ∨ m.2.2.1 = 30) (hf : 4 * ms.length ≤ free.length) : ∃ q, s.mapAll free root ms = some q := by
  induction ms generalizing s free with
  | nil => exact ⟨_, rfl⟩
  | cons m rest ih =>
    obtain ⟨va, pa, shift, flags⟩ := m
    simp only [List.length_cons] at hf
    obtain ⟨t, f, h1, h2⟩ := mapLeaf_some [(48, 8), (39, 9), (30, 9), (21, 9), (16, 5)] s free root va pa shift flags
      (by rcases h _ (List.mem_cons_self ..) with h | h <;> (simp only at h; subst h; decide)) (by simp; omega)
    rw [State.mapAll, h1]
    exact ih t f (fun m hm => h m (List.mem_cons_of_mem _ hm)) (by simp at h2; omega)

theorem range_split (n : Nat) (f : Nat → Nat) : ∃ root free, (List.range (n + 1)).map f = root :: free ∧ free.length = n :=
  ⟨_, _, (congrArg _ List.range_succ_eq_map).trans List.map_cons, by simp⟩

theorem frames_split : ∃ root free, frames = root :: free ∧ 4128 ≤ free.length := by
  obtain ⟨root, free, h1, h2⟩ := range_split 4199 fun i => Config.hbmBytes - 4096 * (i + 1)
  exact ⟨root, free, h1, by omega⟩

theorem loadProgram_some (s : State) (plan : LoadPlan) (h : List Byte) (ss : List Section_) {root : Nat} {free : List Nat}
    (ht : plan.tables = root :: free) (hm : ∀ m ∈ planMaps plan ss, m.2.2.1 = 16 ∨ m.2.2.1 = 30)
    (hf : 4 * (planMaps plan ss).length ≤ free.length) : ∃ t, s.loadProgram plan h ss = some t := by
  simp only [State.loadProgram, ht]
  obtain ⟨q, hq⟩ := mapAll_some (planMaps plan ss) _ free root hm hf
  rw [hq]
  exact ⟨_, rfl⟩

theorem wit_LoadResetAndCheckpointEvents_load :
    loading0.loadBusy = false ∧ (1#64 <<< 63).getLsbD 63 = true ∧ (1#64 <<< 63).getLsbD 62 = false ∧
    (let s0 := loading0.writeLdcmd (1#64 <<< 63)
     s0.booted = true ∧ s0.heapGib = 0 ∧ s0.rgaUnits = 0 ∧ s0.imageSections (s0.imageBytes 0 128) = [] ∧
     planGood plan0 [] s0.heapGib s0.rgaUnits = true ∧ ∃ t, s0.loadProgram plan0 (s0.imageBytes 0 128) [] = some t) := by
  refine ⟨by decide +kernel, by decide, by decide, by decide +kernel, by decide +kernel, by decide +kernel, ?_, plan0_good, ?_⟩
  · rw [imageBytes_loading0, header_sections]
  · obtain ⟨root, free, h1, h2⟩ := frames_split
    refine loadProgram_some _ plan0 _ [] (root := root) (free := free) (by rw [plan0, planWith, ← h1]) (fun m hm => ?_) (Nat.le_trans (by decide +kernel) h2)
    have h : (planMaps plan0 []).all (fun m => m.2.2.1 == 16) = true := by decide +kernel
    exact .inl (by simpa using List.all_eq_true.1 h m hm)

/-- The image is not refused. -/
theorem wit_LoadResetAndCheckpointEvents_image : (loading0.writeLdcmd (1#64 <<< 63)).imageRefused = none := by
  have h0 : (loading0.writeLdcmd (1#64 <<< 63)).imageBytes 128 0 = [] := rfl
  have he : imageEnd header [] = 128 := by decide +kernel
  have hd : (header.drop 64).take 32 = sm3 [] := by decide +kernel
  simp only [State.imageRefused, imageBytes_loading0, header_sections, he, Nat.sub_self, h0, hd, bne_self_eq_false]
  repeat rw [if_neg (by decide +kernel)]


theorem wit_LoadResetAndCheckpointEvents_refused :
    (let s := on 8 7 (st rich)
     let s0 := s.writeLdcmd (1#64 <<< 63)
     let r : State := { s with ldsts := 1 }
     s.loadBusy = false ∧ r.loadBusy = true ∧ (5#64 : Word).getLsbD 63 = false ∧ s0.booted = true ∧ s0.imageRefused = some 1) := by
  decide +kernel

/-- A checkpoint of a module whose HBM and cluster memories hold nothing; its region is its descriptor. -/
def savedCk : Checkpoint := { (st rich).toCheckpoint with dram := [], groves := [] }

/-- Its region stands at offset 5 of the tier, and nothing else is written there. -/
def saved : State :=
  { on 8 7 (st rich) with slice := [], bad := [], saves := [savedCk], dram := savedCk.region.map fun c => (Config.tierBase + 5 * 65536 + c.1, c.2) }

/-- A byte that a write leaves is an old one or the one written. -/
theorem mem_write {c : Host.Cell} {m : Memory} {a : Nat} {v : Byte} (h : c ∈ m.write a v) : c ∈ m ∨ c.1 = a := by
  induction m with
  | nil =>
    simp only [Memory.write] at h
    split at h
    · cases h
    · exact .inr (by rw [List.mem_singleton.1 h])
  | cons p rest ih =>
    obtain ⟨j, b⟩ := p
    have one : ∀ rest : Memory, c ∈ (a, v) :: rest → c ∈ rest ∨ c.1 = a := fun rest h =>
      (List.mem_cons.1 h).elim (fun h => .inr (by rw [h])) .inl
    simp only [Memory.write] at h
    by_cases hj : j = a
    · rw [if_pos hj] at h
      split at h
      · exact .inl (List.mem_cons_of_mem _ h)
      · exact (one _ h).imp_left (List.mem_cons_of_mem _)
    · rw [if_neg hj] at h
      by_cases hl : a < j
      · rw [if_pos hl] at h
        split at h
        · exact .inl h
        · exact one _ h
      · rw [if_neg hl] at h
        rcases List.mem_cons.1 h with h | h
        · exact .inl (h ▸ List.mem_cons_self ..)
        · exact (ih h).imp_left (List.mem_cons_of_mem _)

/-- The bytes that a run of writes leaves are old ones or lie in the run. -/
theorem mem_writes {c : Host.Cell} (bs : List Byte) {m : Memory} {a : Nat} (h : c ∈ m.writes a bs) : c ∈ m ∨ (a ≤ c.1 ∧ c.1 < a + bs.length) := by
  induction bs generalizing m a with
  | nil => exact .inl h
  | cons b rest ih =>
    simp only [Memory.writes] at h
    rcases ih h with h | ⟨h1, h2⟩
    · exact (mem_write h).imp id fun h => by simp [h]
    · exact .inr ⟨by omega, by simp only [List.length_cons]; omega⟩

theorem savedCk_low : ∀ c ∈ savedCk.region, c.1 < 96 := by
  intro c h
  have hs : savedCk.streamed = [] := rfl
  have hd : (descriptorBytes savedCk).length = 64 := by decide +kernel
  have hg : (regionDigest (Memory.put [] savedCk.streamed)).length = 32 := by rw [regionDigest, sm3]; rfl
  rcases mem_writes _ h with h | ⟨-, h⟩
  · rw [hs] at h
    cases h
  · rw [List.length_append, hd, hg] at h
    omega

theorem saved_keeps (v : Word) : (saved.writeLdcmd v).saves = [savedCk] ∧ (saved.writeLdcmd v).bad = [] ∧ (saved.writeLdcmd v).tierPower = 0xFF#8 := by
  simp only [State.writeLdcmd, State.countBad]
  split <;> exact ⟨rfl, rfl, rfl⟩

theorem regionCells_saved (v : Word) : (saved.writeLdcmd v).regionCells 5 = savedCk.region := by
  have hd : (saved.writeLdcmd v).dram = saved.dram := (writeLdcmd_keeps saved v).1
  have hl : (saved.writeLdcmd v).slice = [] := (writeLdcmd_keeps saved v).2.trans rfl
  have hp : (saved.writeLdcmd v).spillAll = saved.writeLdcmd v := by rw [State.spillAll, hl]; rfl
  have hb : saved.dram = savedCk.region.map fun c => (Config.tierBase + 5 * 65536 + c.1, c.2) := by rw [saved]
  have hk : 96 ≤ ckBytes := by decide +kernel
  rw [State.regionCells, hp, hd, hb, List.filter_eq_self.2, List.map_map]
  · conv => rhs; rw [← List.map_id savedCk.region]
    refine List.map_congr_left fun c _ => ?_
    simp only [Function.comp_def, id_eq, Nat.add_sub_cancel_left]
  · intro c hc
    obtain ⟨q, hq, rfl⟩ := List.mem_map.1 hc
    have := savedCk_low q hq
    simp only [inRegion, Bool.and_eq_true, decide_eq_true_eq]
    exact ⟨Nat.le_add_right _ _, Nat.add_lt_add_left (Nat.lt_of_lt_of_le this hk) _⟩

theorem regionSave_saved (v : Word) : (saved.writeLdcmd v).regionSave 5 = some savedCk := by
  have hr : (saved.writeLdcmd v).regionReadable 5 = true := by
    rw [State.regionReadable, (saved_keeps v).2.1, (saved_keeps v).2.2]
    decide +kernel
  rw [State.regionSave, if_pos hr, (saved_keeps v).1, regionCells_saved]
  exact List.find?_cons_of_pos (beq_self_eq_true _)

theorem wit_LoadResetAndCheckpointEvents_restore :
    (let v : Word := 3#64 <<< 62 ||| 5
     saved.loadBusy = false ∧ v.getLsbD 63 = true ∧ v.getLsbD 62 = true ∧ (saved.writeLdcmd v).booted = true ∧ v.toNat % 2 ^ 26 = 5 ∧
     (saved.writeLdcmd v).regionSave 5 = some savedCk ∧
     ((on 8 7 (st rich)).writeLdcmd v).saves = [] ∧ ((on 8 7 (st rich)).writeLdcmd v).regionSave 5 = none ∧
     State.regionReadable { saved with bad := [(Config.tierBase + 5 * 65536 + ckBytes) / 32 - 1] } 5 = false ∧
     State.regionReadable { saved with tierPower := 0xFE } 5 = false ∧ State.regionSave { saved with tierPower := 0xFE } 5 = none) := by
  refine ⟨by decide +kernel, by decide, by decide, by decide +kernel, by decide +kernel, regionSave_saved _, ?_⟩
  and_intros <;> decide +kernel

theorem wit_LoadResetAndCheckpointEvents_checkpoint :
    (let s := grouped (st rich)
     let w : Word := 1#64 <<< 63
     let a : State := { s with cksts := 1, ckReq := 3 * 2 ^ 26, ckHit := true }
     w.extractLsb' 34 29 = 0#29 ∧ s.cksts ≠ 1 ∧ s.ckPhase = 0 ∧ w.getLsbD 63 = true ∧
     (w.toNat % 2 ^ 26) * 65536 + 772 * 2 ^ 30 ≤ Config.tierBytes ∧ Config.tierBytes < ((w + 0x3FFFFFF).toNat % 2 ^ 26) * 65536 + 772 * 2 ^ 30 ∧
     s.ckDue = false ∧ a.ckDue = true ∧ s.ckPhase ≠ 1 ∧ s.quiet = true ∧ ({ a with ckPhase := 1 } : State).ckPhase = 1 ∧
     ({ a with ckPhase := 2 } : State).ckPhase = 2 ∧ canon { a with ckPhase := 2 } = true ∧ a.tierPower = 0xFF#8 ∧
     a.ckOff * 65536 + ckBytes ≤ Config.tierBytes) := by decide +kernel

theorem wit_LoadResetAndCheckpointEvents_host :
    ((1#64 : Word).getLsbD 0 = true ∧ (0#64 : Word).getLsbD 0 = false ∧ (st rich).attcmd = false ∧ (on 8 7 (st rich)).booted = true ∧
     Config.tierBytes - 4 + ([1, 2, 3, 4] : List Byte).length ≤ Config.tierBytes ∧
     ([1, 2, 3, 4] : List Byte).length ≤ Config.hostEnd - Config.hostBase ∧ State.reset.now = 0 ∧ State.reset.slice = [] ∧
     State.reset.tierPower = 0xFF#8 ∧ ({ st rich with tierSelf := 0 } : State).tierSelf = 0 ∧ State.reset.dieReset.tierSelf ≠ 0) := by decide +kernel

theorem wit_CommitFrame : (st rich).ctx? 0 = some (cx rich) ∧ (5 : Reg) ≠ 0 ∧ (6 : Reg) ≠ 5 := by decide +kernel

theorem wit_InstructionsNeverStop : (st rich).active? ≠ none := by decide +kernel

/-- The loaded task may issue, and its page is cached once it has fetched. -/
theorem wit_StepRunsTheDecodedInstruction :
    (let s := (base.fetch 0 loadedCtx.img).1
     base.agenda = [] ∧ base.mayIssue base.here = true ∧ base.stalled = false ∧ base.ckDue = false ∧ base.serviceDue = none ∧ base.fairDue base.here = false ∧
     base.pendingTrap base.here = none ∧ base.active? = some (0, loadedCtx) ∧
     good (base.fetch 0 loadedCtx.img) = true ∧ loadedCtx.img.pc.toNat % 4 = 0 ∧
     (match s.translate 0 (s.fetchAsid loadedCtx.img) (blockOf loadedCtx.img.pc.toNat) .fetch with
      | (t, .ok pa) => decide (t = s) && decide (pa % 32 = 0) && plain s (lineOf pa) && (s.imageAt? (128 * lineOf pa)).isNone
      | _ => false) = true) := by decide +kernel

/-- With no error the image lines that it uses are fetched, with bad data in one of them the use fails; a `nop` passes the checks before its operands,
an `eret` at user privilege does not. -/
theorem wit_StepRunsTheDecodedInstruction_lines :
    (let s := (base.fetch 0 loadedCtx.img).1.keepEarly (.core .nop)
     s.bad = [] ∧ s.badSram = [] ∧ failsEarly (.core .nop) loadedCtx.img = false ∧ (s.useLines s.here 0 (codeLines (.core .nop) loadedCtx.img)).2 = none ∧
     (State.useLines { (s.useLines 0 0 [5]).1 with badSram := [.regs 0 0 5] } 0 0 [5]).2.isSome = true) ∧
    (let b := State.reset.withFetchWord 32 0x0280002C
     match (b.fetch 0 loadedCtx.img).2 with
     | .ok ps => decodeAt 0 ps == .ok (.core .eret, 4) && failsEarly (.core .eret) loadedCtx.img
     | .error _ => false) = true := by decide +kernel

theorem wit_StepRunsTheDecodedInstruction_runs :
    (match (base.fetch 0 loadedCtx.img).2 with
     | .ok ps => decodeAt 0 ps == .ok (.core .nop, 4)
     | .error _ => false) = true ∧
    good (base.fetch 0 { loadedCtx.img with pc := 0x40000000 }) = false ∧
    isEvent (.clockStep) = true ∧ (∀ k, (base.incumbent k).hist = []) ∧
    (∀ p ∈ base.dies, p.2.rwaysPend = none) ∧ base.sends = [] ∧ base.xfers = [] ∧ 65535 + ([7] : List Byte).length ≤ 65536 := by decide +kernel

theorem wit_EncodeThenDecode : Instr.wf (.add 5 6 7) = true ∧ encode (.add 5 6 7) ≠ [] ∧ 28 + 4 * (encode (.add 5 6 7)).length ≤ 32 ∧
    decodeAt 28 [0x001CC504#32] = .ok (.core (.add 5 6 7), 4) := by decide +kernel

theorem wit_MemoryInvariantKept : base.MemInv ∧ ∃ t, step base = .next t := ⟨memInv_of (by decide +kernel), _, rfl⟩

end Sys2Proof.Tests
end

section
/-! PROOF. What the operations of the homes leave unchanged (R94, R165 to R179, R191). -/

namespace Sys2Proof.Machine

open Sys2Proof

/-- Two dies differ in their host error log and their machine-check queue only. -/
def Die.SameButLogs (a b : Die) : Prop :=
  b = { a with mcq := b.mcq, mcOvf := b.mcOvf, mcLost := b.mcLost, hostLog := b.hostLog }

theorem Die.SameButLogs.trans {a b c : Die} (h : a.SameButLogs b) (k : b.SameButLogs c) : a.SameButLogs c :=
  Eq.trans k (congrArg (fun x : Die => { x with mcq := c.mcq, mcOvf := c.mcOvf, mcLost := c.mcLost, hostLog := c.hostLog }) h)

/-- A state with what the homes and caches hold, and what an access to them may touch, taken from another state. -/
def State.withHomes (s t : State) : State :=
  { s with
    ctxs := t.ctxs, cores := t.cores, groves := t.groves, dies := t.dies, dram := t.dram, slice := t.slice, ways := t.ways
    proxies := t.proxies, combine := t.combine, bad := t.bad, badSram := t.badSram }

/-- A state comes from another by work at the homes: memory and its caches may differ, with contexts and cores (images, watches) and the
logs and machine-check queues of the dies; all else is the same. -/
def State.OnlyHomes (s t : State) : Prop := t = s.withHomes t ∧ ∀ d, (s.die d).SameButLogs (t.die d)

namespace State.OnlyHomes

theorem refl (s : State) : s.OnlyHomes s := ⟨rfl, fun _ => rfl⟩

theorem trans {s t u : State} (h : s.OnlyHomes t) (k : t.OnlyHomes u) : s.OnlyHomes u :=
  ⟨k.1.trans (congrArg (a₂ := s.withHomes t) (fun x : State => x.withHomes u) h.1), fun d => (h.2 d).trans (k.2 d)⟩

theorem foldl {α : Type} {f : State → α → State} (hf : ∀ (t : State) (a : α), t.OnlyHomes (f t a)) (s : State) (l : List α) :
    s.OnlyHomes (l.foldl f s) := by
  induction l generalizing s with
  | nil => exact refl s
  | cons a l ih => exact (hf s a).trans (ih (f s a))

/-- A write of the logs or the machine-check queue of a die. -/
theorem setDie {s : State} {d : Nat} {v : Die} (h : (s.die d).SameButLogs v) : s.OnlyHomes (s.setDie d v) := by
  refine ⟨rfl, fun e => ?_⟩
  by_cases he : d = e
  · subst he
    rwa [State.die_setDie]
  · rw [State.die_setDie_ne s v he]
    rfl

theorem logHost (s : State) (d src info : Nat) : s.OnlyHomes (s.logHost d src info) := setDie rfl

theorem machineCheck (s : State) (d src mem info pa grove core : Nat) : s.OnlyHomes (s.machineCheck d src mem info pa grove core) := by
  unfold State.machineCheck
  dsimp only
  split
  · exact setDie rfl
  · exact setDie rfl

theorem setCtx (s : State) (cid : Nat) (c : Ctx) : s.OnlyHomes (s.setCtx cid c) := ⟨rfl, fun _ => rfl⟩

theorem updCtx (s : State) (cid : Nat) (f : Ctx → Ctx) : s.OnlyHomes (s.updCtx cid f) := by
  unfold State.updCtx
  split
  · exact setCtx _ _ _
  · exact refl s

theorem latchPhys (s : State) (pa n : Nat) : s.OnlyHomes (s.latchPhys pa n) := by
  unfold State.latchPhys
  split
  · exact refl s
  · exact ⟨rfl, fun _ => rfl⟩

/-! Images in the register caches (R94, R103). -/

theorem dropReg (s : State) (cid line : Nat) : s.OnlyHomes (s.dropReg cid line) := by
  unfold State.dropReg
  split
  · exact refl s
  · exact trans ⟨rfl, fun _ => rfl⟩ (updCtx _ _ _)

theorem recallImage (s : State) (line : Nat) : s.OnlyHomes (s.recallImage line) := by
  unfold State.recallImage
  split
  · exact refl s
  · split
    · exact refl s
    · exact (dropReg _ _ _).trans (dropReg _ _ _)

theorem imageWrite (s : State) (cid pa : Nat) (edits : List (Nat × Byte)) : s.OnlyHomes (s.imageWrite cid pa edits) := by
  unfold State.imageWrite
  split
  · exact refl s
  · split
    · exact machineCheck _ _ _ _ _ _ _ _
    · exact (setCtx _ _ _).trans (latchPhys _ _ _)

/-! The slices and the memory behind them (R163, R166 to R168). -/

theorem sweep (s : State) : s.OnlyHomes s.sweep := by
  unfold State.sweep
  split
  · exact refl s
  · exact ⟨rfl, fun _ => rfl⟩

theorem dropL1 (s : State) (g line : Nat) : s.OnlyHomes (s.dropL1 g line) := trans ⟨rfl, fun _ => rfl⟩ (sweep _)

theorem spillSectors (s : State) (line : Nat) (m : BitVec 4) : s.OnlyHomes (s.spillSectors line m) := ⟨rfl, fun _ => rfl⟩

theorem leaveSlice (s : State) (g line : Nat) : s.OnlyHomes (s.leaveSlice g line) := by
  unfold State.leaveSlice
  dsimp only
  refine trans ?_ (sweep _)
  split
  · exact (spillSectors s line 0xF).trans ⟨rfl, fun _ => rfl⟩
  · exact ⟨rfl, fun _ => rfl⟩

theorem hold (s : State) (g line : Nat) (m : BitVec 4) (streaming : Bool) : s.OnlyHomes (s.hold g line m streaming) := by
  unfold State.hold
  extract_lets key ws isHome put plan cap mine
  have h (t : State) (w : Way) : t.OnlyHomes (put t w) := ⟨rfl, fun _ => rfl⟩
  split
  · exact h _ _
  · split
    · exact h _ _
    · split
      · split
        · exact refl s
        · exact (leaveSlice _ _ _).trans (h _ _)
      · exact refl s

theorem holdHome (s : State) (line : Nat) (m : BitVec 4) (streaming : Bool) : s.OnlyHomes (s.holdHome line m streaming) := by
  unfold State.holdHome
  dsimp only
  split
  · exact refl s
  · exact hold _ _ _ _ _

theorem spillUnheld (s : State) (line : Nat) : s.OnlyHomes (s.spillUnheld line) := by
  unfold State.spillUnheld
  extract_lets m
  split
  · exact spillSectors _ _ _
  · exact refl s

theorem dropProxies (s : State) (line : Nat) (keep : Option Nat) : s.OnlyHomes (s.dropProxies line keep) := by
  unfold State.dropProxies
  split
  · exact refl s
  · exact foldl (fun t d => leaveSlice t _ _) _ _

theorem placeBytes (s : State) (line : Nat) (bs : List (Nat × Byte)) (keep : Option Nat) (streaming : Bool) :
    s.OnlyHomes (s.placeBytes line bs keep streaming) := by
  unfold State.placeBytes
  extract_lets g has whole some_ m s1 s2
  have h1 : s.OnlyHomes s1 := dropProxies _ _ _
  have h2 : s1.OnlyHomes s2 := ⟨rfl, fun _ => rfl⟩
  exact ((h1.trans h2).trans (holdHome _ _ _ _)).trans (spillUnheld _ _)

theorem rawWriteAs (s : State) (pa : Nat) (bs : List Byte) (streaming : Bool) : s.OnlyHomes (s.rawWriteAs pa bs streaming) :=
  (foldl (fun t line => placeBytes t line _ _ _) _ _).trans (latchPhys _ _ _)

/-! The combine buffer, HEAD words and writes at the homes (R173, R176, R325). -/

theorem roundWords (s : State) (line : Nat) (hit : Nat → Bool) : s.OnlyHomes (s.roundWords line hit) := by
  unfold State.roundWords
  split
  · exact refl s
  · exact (foldl (fun t p => rawWriteAs t _ _ _) _ _).trans ⟨rfl, fun _ => rfl⟩

theorem roundSums (s : State) (pa n : Nat) : s.OnlyHomes (s.roundSums pa n) := foldl (fun t line => roundWords t line _) _ _

theorem yieldSums (s : State) (line : Nat) (writes : Nat → Bool) : s.OnlyHomes (s.yieldSums line writes) := by
  unfold State.yieldSums
  split
  · exact refl s
  · exact (roundWords _ _ _).trans ⟨rfl, fun _ => rfl⟩

theorem keepHeads (s t : State) (pa n : Nat) : t.OnlyHomes (s.keepHeads t pa n) := by
  refine foldl (fun u p => ?_) _ _
  split
  · exact refl u
  · split
    · exact refl u
    · refine foldl (fun v i => ?_) _ _
      dsimp only
      split
      · exact refl v
      · exact (rawWriteAs _ _ _ _).trans (logHost _ _ _ _)

/-- The sums of the words that a write touches give way, where there are any. -/
theorem ifSums {s t : State} (h : s.OnlyHomes t) : s.OnlyHomes (if s.combine.isEmpty then s else t) := by
  split
  · exact refl s
  · exact h

theorem homeWriteAs (s : State) (pa : Nat) (bs : List Byte) (streaming : Bool) : s.OnlyHomes (s.homeWriteAs pa bs streaming) := by
  unfold State.homeWriteAs
  split
  · exact imageWrite _ _ _ _
  · exact ((ifSums (foldl (fun t line => yieldSums t line _) _ _)).trans (rawWriteAs _ _ _ _)).trans (keepHeads _ _ _ _)

theorem homeMasked (s : State) (g line : Nat) (data : BitVec 1024) (mask : BitVec 128) (streaming : Bool) :
    s.OnlyHomes (s.homeMasked g line data mask streaming) := by
  unfold State.homeMasked
  dsimp only
  split
  · exact refl s
  · split
    · exact imageWrite _ _ _ _
    · exact (((ifSums (yieldSums _ _ _)).trans (placeBytes _ _ _ _ _)).trans (latchPhys _ _ _)).trans (keepHeads _ _ _ _)

/-! The partials of the grove L1s come to their homes (R173). -/

theorem combRoom (s : State) (line : Nat) : s.OnlyHomes (s.combRoom line) := by
  unfold State.combRoom
  split
  · exact roundSums _ _ _
  · exact refl s

theorem combinePartial (s : State) (r : CRange) (l : L1Line) : s.OnlyHomes (s.combinePartial r l) := by
  unfold State.combinePartial
  dsimp only
  split
  · exact (((combRoom s l.line).trans (holdHome _ _ _ _)).trans ⟨rfl, fun _ => rfl⟩).trans (latchPhys _ _ _)
  · exact foldl (fun t i => homeWriteAs t _ _ _) _ _

theorem writeBackLine (s : State) (g : Nat) (l : L1Line) : s.OnlyHomes (s.writeBackLine g l) := by
  unfold State.writeBackLine
  split
  · exact homeMasked _ _ _ _ _ _
  · split
    · split
      · exact combinePartial _ _ _
      · exact refl s
    · exact refl s

theorem recallLine (s : State) (line : Nat) : s.OnlyHomes (s.recallLine line) := by
  refine (recallImage s line).trans (foldl (fun t g => ?_) _ _)
  split
  · split
    · exact (writeBackLine _ _ _).trans (dropL1 _ _ _)
    · exact refl t
  · exact refl t

theorem recallRange (s : State) (pa n : Nat) : s.OnlyHomes (s.recallRange pa n) := foldl (fun t line => recallLine t line) _ _

/-! What is read off two states of which one comes from the other by work at the homes. -/

section
variable {s t : State} (h : s.OnlyHomes t)
include h

theorem mbsel : t.mbsel = s.mbsel := (congrArg State.mbsel h.1 :)
theorem ckPhase : t.ckPhase = s.ckPhase := (congrArg State.ckPhase h.1 :)
theorem mboxes : t.mboxes = s.mboxes := (congrArg State.mboxes h.1 :)
theorem mbArea (d : Nat) : (t.die d).mbArea = (s.die d).mbArea := (congrArg Die.mbArea (show t.die d = _ from h.2 d) :)
theorem pool (d : Nat) : (t.die d).pool = (s.die d).pool := (congrArg Die.pool (show t.die d = _ from h.2 d) :)

end

end State.OnlyHomes

end Sys2Proof.Machine
end

section
/-! PROOF. Mailboxes, host queues, registers, logs, service traps, power and clocks (R3, R4, R323, R325, R407 to R414, R426). -/

namespace Sys2Proof.Machine

open Sys2Proof

theorem State.updCtx_some {s : State} {cid : Nat} {c : Ctx} (h : s.ctx? cid = some c) (f : Ctx → Ctx) :
    s.updCtx cid f = s.setCtx cid (f c) := by
  simp only [State.updCtx, h]

theorem State.updCtx_none {s : State} {cid : Nat} (h : s.ctx? cid = none) (f : Ctx → Ctx) : s.updCtx cid f = s := by
  simp only [State.updCtx, h]

/-! Posts to a mailbox (R323, R324, R413, R414). -/

@[simp] theorem State.mbox_setMbox (s : State) (m : Nat) (b : Mbox) : (s.setMbox m b).mbox m = b := by
  simp [State.mbox, State.setMbox]

theorem State.mbIndex_none {s : State} {m : Nat} (h : (s.die (m / 4096)).mbArea = none) : s.mbIndex m = none := by
  simp [State.mbIndex, h]

theorem State.mbIndex_some {s : State} {m rings index : Nat} (h : (s.die (m / 4096)).mbArea = some (rings, index)) :
    s.mbIndex m = some (index + 16 * (m % 4096)) := by
  simp [State.mbIndex, h]

theorem State.mbRing_some {s : State} {m rings index : Nat} (h : (s.die (m / 4096)).mbArea = some (rings, index)) :
    s.mbRing m = some (rings + 2048 * (m % 4096)) := by
  simp [State.mbRing, h]

/-- A look at the index words is work at their home. -/
theorem State.onlyHomes_mbLook (s : State) (m : Nat) : s.OnlyHomes (s.mbLook m) := by
  unfold State.mbLook
  split
  · exact State.OnlyHomes.recallRange _ _ _
  · exact State.OnlyHomes.refl s

theorem State.mbox_mbLook (s : State) (m n : Nat) : (s.mbLook m).mbox n = s.mbox n := by
  unfold State.mbox
  rw [(s.onlyHomes_mbLook m).mboxes]

theorem State.mbArea_mbLook (s : State) (m d : Nat) : ((s.mbLook m).die d).mbArea = (s.die d).mbArea :=
  (s.onlyHomes_mbLook m).mbArea d

theorem State.post_noArea {s : State} {m : Nat} (h : (s.die (m / 4096)).mbArea = none) :
    s.post m = s.setMbox m { s.mbox m with full := true } := by
  have hlook : s.mbLook m = s := by
    simp only [State.mbLook, State.mbIndex_none h]
  simp only [State.post, hlook, State.mbIndex_none h]

section
variable {s : State} {m rings index : Nat} (h : (s.die (m / 4096)).mbArea = some (rings, index))
include h

theorem State.post_refused
    (hr : s.mbsel = 0 ∨ s.ckPhase ≠ 0 ∨ 64 ≤ ((s.mbLook m).mbTail m - (s.mbLook m).mbHead m).toNat) :
    s.post m = (s.mbLook m).setMbox m { (s.mbLook m).mbox m with full := true } := by
  have ht := (s.mbArea_mbLook m (m / 4096)).trans h
  have hl := s.onlyHomes_mbLook m
  simp only [State.post, State.mbIndex_some ht, State.mbRing_some ht]
  rw [if_pos]
  simpa [hl.mbsel, hl.ckPhase, or_assoc] using hr

theorem State.post_taken (hv : s.mbsel ≠ 0) (hc : s.ckPhase = 0)
    (hr : ((s.mbLook m).mbTail m - (s.mbLook m).mbHead m).toNat < 64) :
    s.post m = (((s.mbLook m).writeHome (rings + 2048 * (m % 4096) + 32 * (((s.mbLook m).mbTail m).toNat % 64))
      (leBytes 32 (s.mbox m).post.toNat)).writeHome (index + 16 * (m % 4096))
        (leBytes 8 ((s.mbLook m).mbTail m + 1).toNat)).raiseCause (m / 4096) 1 := by
  have ht := (s.mbArea_mbLook m (m / 4096)).trans h
  have hl := s.onlyHomes_mbLook m
  simp only [State.post, State.mbIndex_some ht, State.mbRing_some ht, State.mbox_mbLook]
  rw [if_neg]
  simpa [hl.mbsel, hl.ckPhase, hc] using And.intro hv hr

/-! A bound mailbox's message becomes a descriptor (R325). -/

theorem State.mailSpawn_empty (he : (s.mbLook m).mbHead m = (s.mbLook m).mbTail m) : s.mailSpawn m = s := by
  have ht := (s.mbArea_mbLook m (m / 4096)).trans h
  simp [State.mailSpawn, State.mbIndex_some ht, State.mbRing_some ht, he]

theorem State.mailSpawn_message (hb : (s.mbox m).bind.getLsbD 63 = true) (he : (s.mbLook m).mbHead m ≠ (s.mbLook m).mbTail m)
    (hp : (s.die (m / 4096)).pool.length < 65536) :
    let t := s.mbLook m
    let a := rings + 2048 * (m % 4096) + 32 * ((t.mbHead m).toNat % 64)
    s.mailSpawn m =
      (((t.recallRange a 32).poolEnter (m / 4096)
        (bindTask (s.mbox m).bind (BitVec.ofNat 256 (leNat ((t.recallRange a 32).homeBytes a 32)))) (some (.device, none))).writeHome
          (index + 16 * (m % 4096) + 8) (leBytes 8 (t.mbHead m + 1).toNat)) := by
  have ht := (s.mbArea_mbLook m (m / 4096)).trans h
  have hl := s.onlyHomes_mbLook m
  simp only [State.mailSpawn, State.mbIndex_some ht, State.mbRing_some ht]
  rw [if_neg]
  simpa [hb, hl.pool] using And.intro he hp

end

theorem State.mailSpawn_unbound {s : State} {m : Nat} (hb : (s.mbox m).bind.getLsbD 63 = false) : s.mailSpawn m = s := by
  unfold State.mailSpawn
  dsimp only
  split
  · rw [if_pos (by rw [hb]; rfl)]
  · rfl

/-- A descriptor enters the pool of a die as its last entry (R307, R311). -/
theorem State.poolEnter_pool (s : State) (d : Nat) (t : TaskDesc) (acq : Option (Scope × Option Nat)) :
    ∃ e : PoolEntry, ((s.poolEnter d t acq).die d).pool = (s.die d).pool ++ [e] ∧
      e.entry = t.entry ∧ e.args = t.args ∧ e.count = t.count % 2 ^ 17 ∧ e.next = 0 ∧ e.bound = t.bound ∧ e.acq = acq :=
  ⟨_, congrArg Die.pool (s.die_setDie d _), rfl, rfl, rfl, rfl, rfl, rfl⟩

/-! Posts to a host queue (R407). -/

theorem State.hqPost_noCtx {s : State} {d n : Nat} (h : s.ctx? (65536 * d + n) = none) :
    s.hqPost d n = s.logHost d 2 (hqOff n) := by
  simp only [State.hqPost, h]

section
variable {s : State} {d n : Nat} {x : Ctx} (h : s.ctx? (65536 * d + n) = some x)
include h

theorem State.hqPost_closed (ho : x.hqOpen = false) : s.hqPost d n = s.logHost d 2 (hqOff n) := by
  simp [State.hqPost, h, ho]

theorem State.hqPost_full (ho : x.hqOpen = true) (he : x.where_ ≠ .ended) (hf : x.img.divFull = true) :
    s.hqPost d n = (s.setCtx (65536 * d + n) { x with hqFull := true }).bump d 2 false 1 := by
  simp [State.hqPost, h, ho, he, hf, State.updCtx_some h]

theorem State.hqPost_taken (ho : x.hqOpen = true) (he : x.where_ ≠ .ended) (hf : x.img.divFull = false) :
    s.hqPost d n = (s.divert (65536 * d + n) x (hostMsg n x.hqBuf)).raiseCause d 2 := by
  simp [State.hqPost, h, ho, he, hf]

end

@[simp] theorem State.ctx?_bump (s : State) (d : Nat) (i : Fin 4) (high : Bool) (n cid : Nat) :
    (s.bump d i high n).ctx? cid = s.ctx? cid := rfl

theorem exec_hostQueuePost_noCtx {s : State} {d n : Nat} (hn : n < 65536) (h : s.ctx? (65536 * d + n) = none) (msg : BitVec 256) :
    exec (.hostQueuePost d n msg) s = .next (s.hqPost d n) := by
  rw [exec_hostQueuePost, execHostQueuePost, if_neg (by omega), State.updCtx_none h]

theorem exec_hostQueuePost_ctx {s : State} {d n : Nat} {x : Ctx} (hn : n < 65536) (h : s.ctx? (65536 * d + n) = some x)
    (msg : BitVec 256) :
    exec (.hostQueuePost d n msg) s = .next ((s.setCtx (65536 * d + n) { x with hqBuf := msg }).hqPost d n) := by
  rw [exec_hostQueuePost, execHostQueuePost, if_neg (by omega), State.updCtx_some h]

/-! Writes of registers (R3, R4, R410, R411). -/

@[simp] theorem State.countBad_false (s : State) (d off : Nat) : s.countBad d off false = s := rfl
@[simp] theorem State.countBad_true (s : State) (d off : Nat) : s.countBad d off true = s.logHost d 1 off := rfl

/-- A write that is counted adds one record to the host error log. -/
@[simp] theorem State.logHost_count (s : State) (d src info : Nat) :
    ((s.logHost d src info).die d).hostLog.count = (s.die d).hostLog.count + 1 := by
  simp [State.logHost, Log.add]

@[simp] theorem State.watts_logHost (s : State) (d src info : Nat) : (s.logHost d src info).watts = s.watts := rfl
@[simp] theorem State.rasid_logHost (s : State) (d src info : Nat) : (s.logHost d src info).rasid = s.rasid := rfl

@[simp] theorem State.rasid_countBad (s : State) (d off : Nat) (bad : Bool) : (s.countBad d off bad).rasid = s.rasid := by
  cases bad <;> rfl

theorem exec_registerWrite_aligned (s : State) {d off : Nat} (w : Word) (hd : d < 8) (ho : off < 0x10000000) (ha : off % 8 = 0) :
    exec (.registerWrite d off w) s = .next (s.writeReg d off w) := by
  have hoff : off / 8 * 8 = off := by omega
  rw [exec_registerWrite, execRegisterWrite, if_pos ⟨hd, ho⟩, hoff]

/-- The offset of `ptroot[n]` (R410). -/
theorem regAt_ptroot {n : Nat} (hn : n < 4096) : regAt (0x10000 + 8 * n) = .ptroot n := by
  have ho : (0x10000 + 8 * n) / 8 * 8 = 0x10000 + 8 * n := by omega
  have hi : (0x10000 + 8 * n - 0x10000) / 8 = n := by omega
  simp only [regAt, ho, hi]
  rw [if_neg (by omega), if_pos (by omega)]

/-- A word below 2^12 has no bit set from bit 12 on. -/
theorem extractLsb'_of_lt {w : Word} (h : w.toNat < 2 ^ 12) {k : Nat} (hk : 12 ≤ k) (n : Nat) : w.extractLsb' k n = 0#n := by
  apply BitVec.eq_of_toNat_eq
  have hz : w.toNat >>> k = 0 := Nat.shiftRight_eq_zero _ _ (h.trans_le (Nat.pow_le_pow_right (by omega) hk))
  simp [BitVec.extractLsb'_toNat, hz]

theorem State.writePwrcap_watts (s : State) (w : Word) (hw : w.extractLsb' 12 52 = 0#52) :
    (s.writePwrcap w).watts = (if 1000 ≤ w.toNat ∧ w.toNat ≤ 3200 then w.extractLsb' 0 12 else s.watts) ∧
      ((s.writePwrcap w).die 0).hostLog.count =
        (s.die 0).hostLog.count + (if 1000 ≤ w.toNat ∧ w.toNat ≤ 3200 then 0 else 1) := by
  have hlt : w.toNat < 2 ^ 12 := by
    have := congrArg BitVec.toNat hw
    simp only [BitVec.extractLsb'_toNat, BitVec.toNat_ofNat] at this
    omega
  have hmod : w.toNat % 4096 = w.toNat := Nat.mod_eq_of_lt hlt
  simp only [State.writePwrcap, hmod, extractLsb'_of_lt hlt (k := 33) (by omega), extractLsb'_of_lt hlt (k := 12) le_rfl]
  by_cases hin : 1000 ≤ w.toNat ∧ w.toNat ≤ 3200
  · have hout : (decide (w.toNat < 1000) || decide (3200 < w.toNat)) = false := by simp; omega
    simp [hout, hin]
    rfl
  · have hout : (decide (w.toNat < 1000) || decide (3200 < w.toNat)) = true := by simp; omega
    simp [hout, hin]

theorem State.writeRasid_rasid (s : State) (w : Word) :
    (s.writeRasid w).rasid =
      if s.running = true ∨ w.extractLsb' 0 12 = 0#12 then s.rasid else (w.extractLsb' 0 12).setWidth 64 := by
  unfold State.writeRasid
  by_cases hr : s.running = true
  · simp [hr]
  · by_cases hz : w.extractLsb' 0 12 = 0#12
    · simp [hr, hz]
    · simp [hr, hz]

theorem State.readReg_writeReg_ptroot (s : State) {n : Nat} (hn : n < 4096) (w : Word) :
    (s.writeReg 0 (0x10000 + 8 * n) w).readReg 0 (0x10000 + 8 * n) = w &&& 0x000FFFFFFFFFF801#64 := by
  simp [State.writeReg, State.readReg, regAt_ptroot hn]

/-- AGE from 10 to 40 is taken (R313). -/
theorem State.writePoolcfg_poolcfg (s : State) (d : Nat) {w : Word} (h1 : 10 ≤ w.toNat % 64) (h2 : w.toNat % 64 ≤ 40) :
    ((s.writePoolcfg d w).die d).poolcfg = w &&& 0x33F#64 := by
  have hout : (decide (w.toNat % 64 < 10) || decide (40 < w.toNat % 64)) = false := by simp; omega
  simp only [State.writePoolcfg, hout, State.die_setDie, Bool.false_eq_true, if_false, ← BitVec.and_or_distrib_left]
  rfl

theorem State.commandLoad_idle {s : State} (h : s.loadBusy = false) (w : Word) :
    s.commandLoad w = if w.getLsbD 63 = true ∧ s.booted = true then { s.writeLdcmd w with ldsts := 1 } else s.writeLdcmd w := by
  simp [State.commandLoad, h]

theorem State.writeMbver_first {s : State} {w : Word} (hw : w.extractLsb' 16 48 = 0#48) (hs : s.mbsel = 0)
    (hv : w.extractLsb' 8 8 = 1#8) : s.writeMbver w = { s with mbsel := 1 } := by
  simp [State.writeMbver, hw, hs, hv]

theorem State.writeMbver_refused {s : State} {w : Word} (hw : w.extractLsb' 16 48 = 0#48)
    (h : s.mbsel ≠ 0 ∨ w.extractLsb' 8 8 ≠ 1#8) : s.writeMbver w = s.logHost 0 2 0x20 := by
  simp only [State.writeMbver, hw]
  rw [if_pos (by simpa using h)]
  rfl

/-! The oldest machine-check record leaves its queue (R408, R409). -/

theorem State.popRecord_empty {s : State} {d : Nat} (h : (s.die d).mcq = []) : s.popRecord d = s := by
  simp only [State.popRecord, h]

section
variable {s : State} {d : Nat} {r : McRec} {rest : List McRec} (h : (s.die d).mcq = r :: rest)
include h

theorem State.popRecord_popped : ((s.popRecord d).core (Config.allCores + 4 * d)).mcPopped = true := by
  simp [State.popRecord, h]

theorem State.popRecord_kept (hl : (s.die d).mcLost = false) : ((s.popRecord d).die d).mcq = rest := by
  simp [State.popRecord, h, hl]

theorem State.popRecord_lost (hl : (s.die d).mcLost = true) (hr : rest.length < 16) :
    ((s.popRecord d).die d).mcLost = false ∧
      ((s.popRecord d).die d).mcq = rest ++ [{ rec0 := BitVec.ofNat 64 (6 * 2 ^ 56 + d * 2 ^ 11), rec1 := 0 }] := by
  simp [State.popRecord, h, hl, State.machineCheck, hr]

end

/-! Service traps (R408, R409). -/

section
variable {s : State} {d k cid : Nat} {c : Ctx}

theorem State.serviceTrap_ready (ha : s.activeCid k = some cid) (hc : s.ctx? cid = some c) (hr : c.ready = true) (code data : Nat) :
    s.serviceTrap k code data = some (s.takeTrap cid k (FaultRec.mk0 code data 0) c.img.pc) := by
  simp [State.serviceTrap, ha, hc, hr]

theorem State.serviceMc_quiet (h : (s.die d).mcq.length = 0 ∨ (s.core (Config.allCores + 4 * d)).mcHeld = true) :
    s.serviceMc d = s := by
  unfold State.serviceMc
  dsimp only
  rw [if_pos]
  rcases h with h | h <;> simp [h]

theorem State.serviceMc_taken (hn : (s.die d).mcq.length ≠ 0) (hh : (s.core (Config.allCores + 4 * d)).mcHeld = false)
    (hb : s.busyCore (Config.allCores + 4 * d) = false) (ha : s.activeCid (Config.allCores + 4 * d) = some cid)
    (hc : s.ctx? cid = some c) (hr : c.ready = true) :
    let t := s.takeTrap cid (Config.allCores + 4 * d) (FaultRec.mk0 32 (s.die d).mcq.length 0) c.img.pc
    s.serviceMc d = t.setCore (Config.allCores + 4 * d) { t.core (Config.allCores + 4 * d) with mcHeld := true, mcPopped := false } := by
  unfold State.serviceMc
  dsimp only
  rw [if_neg (by simp [List.length_eq_zero_iff.not.1 hn, hh, hb]), State.serviceTrap_ready ha hc hr]

theorem State.serviceInt_quiet
    (h : (s.die d).causes.foldl (fun a b => a ||| b) 0 = 0 ∨ (s.core (Config.allCores + 4 * d + 1)).svHeld = true) :
    s.serviceInt d = s := by
  unfold State.serviceInt
  dsimp only
  rw [if_pos]
  rcases h with h | h <;> simp [h]

theorem State.serviceInt_taken (hn : (s.die d).causes.foldl (fun a b => a ||| b) 0 ≠ 0)
    (hh : (s.core (Config.allCores + 4 * d + 1)).svHeld = false) (hb : s.busyCore (Config.allCores + 4 * d + 1) = false)
    (ha : s.activeCid (Config.allCores + 4 * d + 1) = some cid) (hc : s.ctx? cid = some c) (hr : c.ready = true) :
    let k := Config.allCores + 4 * d + 1
    let t := s.takeTrap cid k (FaultRec.mk0 33 ((s.die d).causes.foldl (fun a b => a ||| b) 0) 0) c.img.pc
    s.serviceInt d = (t.setDie d { t.die d with causes := [] }).setCore k { t.core k with svHeld := true } := by
  unfold State.serviceInt
  dsimp only
  rw [if_neg (by simp [hn, hh, hb]), State.serviceTrap_ready ha hc hr]
  rfl

/-- A cause that is raised while core 1 holds code 33 joins the DATA of the held trap (R409). -/
theorem State.raiseCause_held (hs : (s.core (Config.allCores + 4 * d + 1)).svHeld = true)
    (ha : s.activeCid (Config.allCores + 4 * d + 1) = some cid) (hc : s.ctx? cid = some c)
    (hf : c.img.faultinfo.toNat % 256 = 33) (cause : Nat) :
    s.raiseCause d cause =
      s.setCtx cid { c with img := { c.img with faultinfo := c.img.faultinfo ||| BitVec.ofNat 64 (cause * 2 ^ 32) } } := by
  simp [State.raiseCause, hs, ha, hc, hf, State.updCtx_some hc]

theorem State.raiseCause_waits (hs : (s.core (Config.allCores + 4 * d + 1)).svHeld = false) (cause : Nat) :
    s.raiseCause d cause = s.setDie d { s.die d with causes := (s.die d).causes ++ [cause] } := by
  unfold State.raiseCause
  cases ha : s.activeCid (Config.allCores + 4 * d + 1) with
  | none => simp [ha]
  | some cid => simp [ha, hs]

end

/-! The steps of the clock (R426). -/

theorem State.clockStep_early {s : State} (h : s.sync < s.clkAt + 100000000) : s.clockStep = s := by
  unfold State.clockStep
  dsimp only
  rw [if_pos (by simp [micro, h])]

section
variable {s : State} (ht : s.clkAt + 100000000 ≤ s.sync) (hn : s.samples ≠ []) (hh : s.hot = false)
include ht hn hh

/-- A step that is due goes by 50 MHz, down above the limit and up 5% below it. -/
theorem State.clockStep_due :
    s.clockStep =
      if s.watts.toNat * s.samples.length < s.samples.sum then { s with clkAt := s.sync, clk := max 400 (s.clk - 50) }
      else if 100 * s.samples.sum ≤ 95 * s.watts.toNat * s.samples.length then { s with clkAt := s.sync, clk := min 800 (s.clk + 50) }
      else { s with clkAt := s.sync } := by
  have hdown : (if 450 ≤ s.clk then s.clk - 50 else 400) = max 400 (s.clk - 50) := by split <;> omega
  have hup : (if s.clk + 50 ≤ 800 then s.clk + 50 else 800) = min 800 (s.clk + 50) := by split <;> omega
  have hdue : ¬ (decide (s.samples.length = 0) || decide (s.sync < s.clkAt + 100 * micro)) = true := by
    rw [Bool.or_eq_true, decide_eq_true_eq, decide_eq_true_eq, not_or]
    exact ⟨mt List.length_eq_zero_iff.1 hn, Nat.not_lt.2 ht⟩
  unfold State.clockStep
  dsimp only
  rw [if_neg hdue, if_neg (by simp [hh]), hdown, hup]

theorem State.clockStep_down (hw : s.watts.toNat * s.samples.length < s.samples.sum) :
    s.clockStep = { s with clkAt := s.sync, clk := max 400 (s.clk - 50) } := by
  rw [State.clockStep_due ht hn hh, if_pos hw]

theorem State.clockStep_up (h5 : 100 * s.samples.sum ≤ 95 * s.watts.toNat * s.samples.length)
    (hw : s.samples.sum ≤ s.watts.toNat * s.samples.length) :
    s.clockStep = { s with clkAt := s.sync, clk := min 800 (s.clk + 50) } := by
  rw [State.clockStep_due ht hn hh, if_neg (Nat.not_lt.2 hw), if_pos h5]

end

end Sys2Proof.Machine
end

section
namespace Sys2Proof.Machine

open Sys2Proof

/-- Settles O52: each clause is the rule of its operation above, read at the event that performs it. -/
theorem mailboxAndServiceEvents : Obligations.MailboxAndServiceEvents := by
  refine ⟨?posts, ?spawns, ?queues, ?registers, ?version, ?logs, ?traps, ?clocks⟩
  case posts =>
    intro s m msg hm u t
    have hpost : exec (.mailboxPost m msg) s = .next (u.post m) := by
      rw [exec_mailboxPost, execMailboxPost, if_pos hm]
    refine ⟨fun h => ?_, fun rings index h => ⟨fun hr => ?_, fun hv hc hr => ?_⟩⟩
    · rw [hpost, State.post_noArea (s := u) h]
    · rw [hpost, State.post_refused (s := u) h hr]
    · rw [hpost, State.post_taken (s := u) h hv hc hr, State.mbox_setMbox]
  case spawns =>
    intro s m rings index d b t
    refine ⟨fun hb => ?_, fun hb h => ⟨fun he => ?_, fun he hp => ?_⟩⟩
    · rw [exec_mailboxSpawn, execMailboxSpawn, State.mailSpawn_unbound hb]
    · rw [exec_mailboxSpawn, execMailboxSpawn, State.mailSpawn_empty h he]
    · intro a
      obtain ⟨e, hpool, hentry, hargs, hcount, hnext, hbound, hacq⟩ := (t.recallRange a 32).poolEnter_pool d
        (bindTask b (BitVec.ofNat 256 (leNat ((t.recallRange a 32).homeBytes a 32)))) (some (.device, none))
      have hkept := (s.onlyHomes_mbLook m).trans (State.OnlyHomes.recallRange t a 32)
      rw [hkept.pool d] at hpool
      exact ⟨_, e, congrArg Host.Outcome.next (State.mailSpawn_message h hb he hp), hpool, hentry, hargs, hcount, hnext, hbound, hacq⟩
  case queues =>
    intro s d n msg hn cid
    refine ⟨fun h => ?_, fun x h => ?_⟩
    · rw [exec_hostQueuePost_noCtx hn h, State.hqPost_noCtx h, hqOff]
    · intro u
      have hu : u.ctx? cid = some { x with hqBuf := msg } := s.ctx?_setCtx cid _
      rw [exec_hostQueuePost_ctx hn h]
      refine ⟨fun ho => ?_, fun ho he hf => ?_, fun ho he hf => ?_⟩
      · rw [State.hqPost_closed hu ho, hqOff]
      · refine ⟨_, { x with hqBuf := msg, hqFull := true }, rfl, ?_, rfl, rfl⟩
        rw [State.hqPost_full hu ho he hf, State.ctx?_bump, State.ctx?_setCtx]
      · rw [State.hqPost_taken hu ho he hf]
  case registers =>
    intro s d off w hd hlt hal i
    have hw : exec i s = .next (s.writeReg d off w) := exec_registerWrite_aligned s w hd hlt hal
    rw [hw]
    refine ⟨fun h => ?_, fun a b h => ?_, ?_, ?_, ?_, ?_, ?_⟩
    · simp only [State.writeReg, h]
    · rcases h with h | h <;> simp only [State.writeReg, h]
    · rintro rfl rfl hres
      exact ⟨_, rfl, s.writePwrcap_watts w hres⟩
    · rintro rfl rfl
      exact ⟨_, rfl, s.writeRasid_rasid w⟩
    · rintro rfl rfl hbusy
      exact congrArg Host.Outcome.next (State.commandLoad_idle hbusy w)
    · rintro n rfl hn rfl
      exact ⟨_, rfl, s.readReg_writeReg_ptroot hn w⟩
    · rintro rfl h1 h2
      exact ⟨_, rfl, s.writePoolcfg_poolcfg d h1 h2⟩
  case version =>
    intro s w hres
    refine ⟨fun hs hv => ?_, fun h => ?_⟩
    · rw [exec_mbverSelect, execMbverSelect, State.writeMbver_first hres hs hv]
    · rw [exec_mbverSelect, execMbverSelect, State.writeMbver_refused hres h]
  case logs =>
    intro s d
    refine ⟨⟨_, rfl, congrArg Die.hostLog (s.die_setDie d _)⟩, ⟨_, rfl, congrArg Die.dieLog (s.die_setDie d _)⟩,
      ⟨_, rfl, congrArg Die.engLog (s.die_setDie d _)⟩, rfl, fun h => ?_, fun r rest h => ?_⟩
    · rw [exec_mcpop, execMcpop, State.popRecord_empty h]
    · exact ⟨_, rfl, State.popRecord_popped h, State.popRecord_kept h, State.popRecord_lost h⟩
  case traps =>
    intro s d cid c k0 k1 n data
    refine ⟨fun hn => ?_, fun hh => ?_, fun hn hh hb ha hc hr => ?_, fun hn => ?_, fun hh => ?_, fun hn hh hb ha hc hr => ?_,
      fun cause => ⟨fun hs ha hc hf => State.raiseCause_held hs ha hc hf cause, fun hs => State.raiseCause_waits hs cause⟩⟩
    · rw [exec_serviceMachineCheck, execServiceMachineCheck, State.serviceMc_quiet (.inl hn)]
    · rw [exec_serviceMachineCheck, execServiceMachineCheck, State.serviceMc_quiet (.inr hh)]
    · rw [exec_serviceMachineCheck, execServiceMachineCheck, State.serviceMc_taken hn hh hb ha hc hr]
    · rw [exec_serviceInterrupt, execServiceInterrupt, State.serviceInt_quiet (.inl hn)]
    · rw [exec_serviceInterrupt, execServiceInterrupt, State.serviceInt_quiet (.inr hh)]
    · refine ⟨_, congrArg Host.Outcome.next (State.serviceInt_taken hn hh hb ha hc hr), ?_, ?_, rfl⟩
      · exact congrArg Die.causes (State.die_setDie _ d _)
      · exact congrArg Core.svHeld (State.core_setCore _ k1 _)
  case clocks =>
    intro s n
    refine ⟨rfl, rfl, rfl, fun h => ?_, fun ht hn hh _ _ => ⟨fun hw => ?_, fun h5 hw => ?_⟩⟩
    · rw [exec_clockStep, execClockStep, State.clockStep_early h]
    · rw [exec_clockStep, execClockStep, State.clockStep_down ht hn hh hw]
    · rw [exec_clockStep, execClockStep, State.clockStep_up ht hn hh h5 hw]

end Sys2Proof.Machine
end

section
/-! PROOF. What the machine leaves of a resident task while other work goes on around it (R94, R103, R109, R165 to R169). `State.OnlyHomes`
lets work at the homes change any context; a task that retires needs to know that its own stays, which R94 gives while it is resident. -/

namespace Sys2Proof

/-- A table whose entries are replaced under their keys is read through the replacement. -/
theorem Tab.get?_map {α β : Type} {f : Nat × α → Nat × β} (hf : ∀ p, (f p).1 = p.1) (t : Tab α) (k : Nat) :
    Tab.get? (t.map f) k = (t.get? k).map fun v => (f (k, v)).2 := by
  induction t with
  | nil => rfl
  | cons p rest ih =>
    have h : Tab.get? ((p :: rest).map f) k = if (f p).1 = k then some (f p).2 else Tab.get? (rest.map f) k := rfl
    rw [h, hf, ih]
    by_cases hk : p.1 = k
    · subst hk
      simp [Tab.get?]
    · simp [Tab.get?, hk]

end Sys2Proof

namespace Sys2Proof.Machine

open Sys2Proof

theorem State.die_of_dies {s t : State} (h : t.dies = s.dies) (d : Nat) : t.die d = s.die d := by
  rw [State.die, State.die, h]

/-- A field of the dies that a write of one die keeps. -/
theorem State.die_setDie_keeps {α : Type} (f : Die → α) {s : State} {d : Nat} {v : Die} (h : f v = f (s.die d)) (e : Nat) :
    f ((s.setDie d v).die e) = f (s.die e) := by
  by_cases he : d = e
  · subst he
    rw [State.die_setDie, h]
  · rw [State.die_setDie_ne s v he]

/-- A context that is resident stays so with its ring and its pending late fault. -/
def Ctx.SameStay (a b : Ctx) : Prop := b.where_ = a.where_ ∧ b.ring = a.ring ∧ b.late = a.late

/-- What work of the machine leaves alone while a task is resident: the kill counters and dependency slots, what is sound in SRAM, and the
task's place, ring and pending late fault; where `p` holds and no line of a register cache holds uncorrectable data, its image too. -/
structure State.KeepsTask (p : Prop) (cid : Nat) (s t : State) : Prop where
  killcnt (d : Nat) : (t.die d).killcnt = (s.die d).killcnt
  dslots (d : Nat) : (t.die d).dslots = (s.die d).dslots
  badSram : ∀ q ∈ t.badSram, q ∈ s.badSram
  task {c : Ctx} {k i : Nat} (hc : s.ctx? cid = some c) (hw : c.where_ = .slot k i) :
    ∃ x, t.ctx? cid = some x ∧ c.SameStay x ∧ (p → s.RegsSound → x.img = c.img)

namespace State.KeepsTask

variable {p : Prop} {cid : Nat}

theorem regsSound {s t : State} (h : KeepsTask p cid s t) (hs : s.RegsSound) : t.RegsSound :=
  fun core c line hq => hs core c line (h.badSram _ hq)

theorem refl (s : State) : KeepsTask p cid s s :=
  ⟨fun _ => rfl, fun _ => rfl, fun _ h => h, fun hc _ => ⟨_, hc, ⟨rfl, rfl, rfl⟩, fun _ _ => rfl⟩⟩

theorem trans {s t u : State} (h : KeepsTask p cid s t) (k : KeepsTask p cid t u) : KeepsTask p cid s u := by
  refine ⟨fun d => (k.killcnt d).trans (h.killcnt d), fun d => (k.dslots d).trans (h.dslots d), fun q hq => h.badSram q (k.badSram q hq),
    fun hc hw => ?_⟩
  obtain ⟨x, hx, ⟨xw, xr, xl⟩, xi⟩ := h.task hc hw
  obtain ⟨y, hy, ⟨yw, yr, yl⟩, yi⟩ := k.task hx (xw.trans hw)
  exact ⟨y, hy, ⟨yw.trans xw, yr.trans xr, yl.trans xl⟩, fun hp hs => (yi hp (h.regsSound hs)).trans (xi hp hs)⟩

theorem foldl {α : Type} {f : State → α → State} {l : List α} (hf : ∀ (t : State), ∀ a ∈ l, KeepsTask p cid t (f t a)) (s : State) :
    KeepsTask p cid s (l.foldl f s) := by
  induction l generalizing s with
  | nil => exact refl s
  | cons a l ih => exact (hf s a (by simp)).trans (ih (fun t b hb => hf t b (List.mem_cons_of_mem a hb)) (f s a))

/-- Work that changes no die and no context, and makes no place in SRAM bad. -/
theorem quiet {s t : State} (hd : t.dies = s.dies) (hc : t.ctxs = s.ctxs) (hb : ∀ q ∈ t.badSram, q ∈ s.badSram) :
    KeepsTask p cid s t := by
  refine ⟨fun d => congrArg Die.killcnt (State.die_of_dies hd d), fun d => congrArg Die.dslots (State.die_of_dies hd d), hb,
    fun h _ => ⟨_, ?_, ⟨rfl, rfl, rfl⟩, fun _ _ => rfl⟩⟩
  rw [State.ctx?, hc]
  exact h

theorem setCore (s : State) (k : Nat) (v : Core) : KeepsTask p cid s (s.setCore k v) := quiet rfl rfl fun _ h => h

theorem setGrove (s : State) (g : Nat) (v : Grove) : KeepsTask p cid s (s.setGrove g v) := quiet rfl rfl fun _ h => h

theorem setDie {s : State} {d : Nat} {v : Die} (hk : v.killcnt = (s.die d).killcnt) (hs : v.dslots = (s.die d).dslots) :
    KeepsTask p cid s (s.setDie d v) :=
  ⟨State.die_setDie_keeps Die.killcnt hk, State.die_setDie_keeps Die.dslots hs, fun _ h => h,
    fun hc _ => ⟨_, hc, ⟨rfl, rfl, rfl⟩, fun _ _ => rfl⟩⟩

/-- A context is replaced: if it is the task's own and resident, by one with the same stay, and with the same image. -/
theorem setCtx {s : State} {j : Nat} {v : Ctx}
    (h : ∀ c k i, j = cid → s.ctx? cid = some c → c.where_ = .slot k i → c.SameStay v ∧ (p → s.RegsSound → v.img = c.img)) :
    KeepsTask p cid s (s.setCtx j v) := by
  refine ⟨fun _ => rfl, fun _ => rfl, fun _ hq => hq, fun {c k i} hc hw => ?_⟩
  by_cases hj : j = cid
  · obtain ⟨hstay, himg⟩ := h c k i hj hc hw
    exact ⟨v, hj ▸ State.ctx?_setCtx s j v, hstay, himg⟩
  · exact ⟨c, (State.ctx?_setCtx_ne s v hj).trans hc, ⟨rfl, rfl, rfl⟩, fun _ _ => rfl⟩

theorem updCtx {s : State} {j : Nat} {f : Ctx → Ctx}
    (h : ∀ c, s.ctx? j = some c → c.SameStay (f c) ∧ (p → s.RegsSound → j = cid → (f c).img = c.img)) :
    KeepsTask p cid s (s.updCtx j f) := by
  cases hj : s.ctx? j with
  | none =>
    rw [State.updCtx_none hj]
    exact refl s
  | some x =>
    rw [State.updCtx_some hj]
    refine setCtx fun c k i he hc hw => ?_
    subst he
    obtain rfl : x = c := by simpa [hj] using hc
    exact ⟨(h x hj).1, fun hp hs => (h x hj).2 hp hs rfl⟩

theorem count (s : State) (k : Nat) (sys : Bool) (ev n : Nat) : KeepsTask p cid s (s.count k sys ev n) := setCore _ _ _

theorem logHost (s : State) (d src info : Nat) : KeepsTask p cid s (s.logHost d src info) := setDie rfl rfl

theorem machineCheck (s : State) (d src mem info pa grove core : Nat) :
    KeepsTask p cid s (s.machineCheck d src mem info pa grove core) := by
  unfold State.machineCheck
  dsimp only
  split
  · exact setDie rfl rfl
  · exact setDie rfl rfl

theorem latchPhys (s : State) (pa n : Nat) : KeepsTask p cid s (s.latchPhys pa n) := by
  unfold State.latchPhys
  split
  · exact refl s
  · refine ⟨fun _ => rfl, fun _ => rfl, fun _ h => h, fun {c k i} hc hw => ?_⟩
    rw [State.ctx?, Tab.get?_map, show s.ctxs.get? cid = some c from hc]
    · refine ⟨_, rfl, ?_⟩
      dsimp only
      split
      · split <;> exact ⟨⟨rfl, rfl, rfl⟩, fun _ _ => rfl⟩
      · exact ⟨⟨rfl, rfl, rfl⟩, fun _ _ => rfl⟩
    · intro q
      split
      · split <;> rfl
      · rfl

/-! The slices and the memory behind them (R163, R166 to R168). -/

theorem sweep (s : State) : KeepsTask p cid s s.sweep := by
  unfold State.sweep
  split
  · exact refl s
  · exact quiet rfl rfl fun _ => List.mem_of_mem_filter

theorem spillSectors (s : State) (line : Nat) (m : BitVec 4) : KeepsTask p cid s (s.spillSectors line m) := quiet rfl rfl fun _ h => h

theorem leaveSlice (s : State) (g line : Nat) : KeepsTask p cid s (s.leaveSlice g line) := by
  unfold State.leaveSlice
  dsimp only
  refine trans ?_ (sweep _)
  split
  · exact (spillSectors s line 0xF).trans (quiet rfl rfl fun _ h => h)
  · exact quiet rfl rfl fun _ h => h

theorem hold (s : State) (g line : Nat) (m : BitVec 4) (streaming : Bool) : KeepsTask p cid s (s.hold g line m streaming) := by
  unfold State.hold
  extract_lets key ws isHome put plan cap mine
  have h (t : State) (w : Way) : KeepsTask p cid t (put t w) := quiet rfl rfl fun _ h => h
  split
  · exact h _ _
  · split
    · exact h _ _
    · split
      · split
        · exact refl s
        · exact (leaveSlice _ _ _).trans (h _ _)
      · exact refl s

theorem holdHome (s : State) (line : Nat) (m : BitVec 4) (streaming : Bool) : KeepsTask p cid s (s.holdHome line m streaming) := by
  unfold State.holdHome
  dsimp only
  split
  · exact refl s
  · exact hold _ _ _ _ _

theorem touch (s : State) (d line : Nat) (m : BitVec 4) (streaming : Bool) : KeepsTask p cid s (s.touch d line m streaming) := by
  unfold State.touch
  split
  · extract_lets g have_ s1 s2
    have h1 : KeepsTask p cid s s1 := by
      unfold s1
      split
      · exact refl s
      · exact holdHome _ _ _ _
    have h2 := h1.trans (hold s1 g line m streaming)
    split
    · exact h2.trans (quiet rfl rfl fun _ h => h)
    · exact h2
  · exact holdHome _ _ _ _

theorem touchRange (s : State) (d pa n : Nat) (streaming : Bool) : KeepsTask p cid s (s.touchRange d pa n streaming) :=
  foldl (fun t line _ => touch t d line _ streaming) s

theorem placeBytes (s : State) (line : Nat) (bs : List (Nat × Byte)) (keep : Option Nat) (streaming : Bool) :
    KeepsTask p cid s (s.placeBytes line bs keep streaming) := by
  unfold State.placeBytes State.spillUnheld State.dropProxies
  extract_lets g has whole some_ m s1 s2 held
  have h1 : KeepsTask p cid s s1 := by
    unfold s1
    split
    · exact refl s
    · exact foldl (fun t d _ => leaveSlice t _ _) s
  have h2 : KeepsTask p cid s1 s2 := quiet rfl rfl fun _ => List.mem_of_mem_filter
  have h3 := (h1.trans h2).trans (holdHome s2 line m streaming)
  split
  · exact h3.trans (spillSectors _ _ _)
  · exact h3

theorem rawWriteAs (s : State) (pa : Nat) (bs : List Byte) (streaming : Bool) : KeepsTask p cid s (s.rawWriteAs pa bs streaming) :=
  (foldl (fun t line _ => placeBytes t line _ _ _) s).trans (latchPhys _ _ _)

/-! Write-backs of a grove's L1 at the homes (R173, R176, R325). -/

theorem roundWords (s : State) (line : Nat) (hit : Nat → Bool) : KeepsTask p cid s (s.roundWords line hit) := by
  unfold State.roundWords
  split
  · exact refl s
  · exact (foldl (fun t _ _ => rawWriteAs t _ _ _) s).trans (quiet rfl rfl fun _ h => h)

theorem yieldSums (s : State) (line : Nat) (writes : Nat → Bool) : KeepsTask p cid s (s.yieldSums line writes) := by
  unfold State.yieldSums
  split
  · exact refl s
  · exact (roundWords _ _ _).trans (quiet rfl rfl fun _ h => h)

theorem keepHeads (s t : State) (pa n : Nat) : KeepsTask p cid t (s.keepHeads t pa n) := by
  refine foldl (fun u q _ => ?_) t
  split
  · exact refl u
  · split
    · exact refl u
    · refine foldl (fun v i _ => ?_) u
      dsimp only
      split
      · exact refl v
      · exact (rawWriteAs _ _ _ _).trans (logHost _ _ _ _)

/-- A store to the image of a resident context is discarded (R94). -/
theorem imageWrite (s : State) (j pa : Nat) (edits : List (Nat × Byte)) : KeepsTask p cid s (s.imageWrite j pa edits) := by
  unfold State.imageWrite
  split
  · exact refl s
  next x hx =>
    split
    · exact machineCheck _ _ _ _ _ _ _ _
    next hno =>
      refine trans (setCtx fun c k i he hc hw => ?_) (latchPhys _ _ _)
      subst he
      obtain rfl : x = c := by simpa [hx] using hc
      exact absurd hw (hno k i)

theorem homeMasked (s : State) (g line : Nat) (data : BitVec 1024) (mask : BitVec 128) (streaming : Bool) :
    KeepsTask p cid s (s.homeMasked g line data mask streaming) := by
  unfold State.homeMasked
  dsimp only
  split
  · exact refl s
  · split
    · exact imageWrite _ _ _ _
    · refine ((trans ?_ (placeBytes _ _ _ _ _)).trans (latchPhys _ _ _)).trans (keepHeads _ _ _ _)
      split
      · exact refl s
      · exact yieldSums _ _ _

theorem drainLines (s : State) (g : Nat) (hit : L1Line → Bool) : KeepsTask p cid s (s.drainLines g hit) :=
  ((foldl (fun t _ _ => homeMasked t _ _ _ _ _) s).trans (setGrove _ _ _)).trans (sweep _)

theorem releaseFence (s : State) (core : Nat) : KeepsTask p cid s (s.releaseFence core) := by
  unfold State.releaseFence
  split
  · exact drainLines _ _ _
  · exact refl s

/-! The lines of a register cache (R94, R103). -/

/-- That no line of a register cache holds uncorrectable data is at hand wherever the image matters. -/
theorem of_sound {s t : State} (h : KeepsTask (p ∧ s.RegsSound) cid s t) : KeepsTask p cid s t := by
  refine ⟨h.killcnt, h.dslots, h.badSram, fun hc hw => ?_⟩
  obtain ⟨x, hx, hstay, himg⟩ := h.task hc hw
  exact ⟨x, hx, hstay, fun hp hs => himg ⟨hp, hs⟩ hs⟩

/-- A line leaves the register caches; the image loses what it held only where the line is uncorrectable there (R94, R179). -/
theorem dropReg (s : State) (j line : Nat) : KeepsTask p cid s (s.dropReg j line) := by
  unfold State.dropReg
  split
  · exact refl s
  · extract_lets lost
    refine of_sound (trans ?lines (updCtx (f := _) ?image))
    case lines => exact quiet rfl rfl fun _ => List.mem_of_mem_filter
    refine fun c _ => ⟨⟨rfl, rfl, rfl⟩, fun hp _ _ => ?_⟩
    have hlost : lost = false := by
      simp only [lost, List.any_eq_false]
      intro q hq
      split
      · exact absurd hq (hp.2 _ _ _)
      · simp
    rw [hlost]
    dsimp only
    split <;> rfl

theorem takeLine (s : State) (core j line : Nat) : KeepsTask p cid s (s.takeLine core j line) := by
  unfold State.takeLine
  extract_lets s1 s2 s3
  have h1 : KeepsTask p cid s s1 := (dropReg _ _ _).trans (touchRange _ _ _ _ _)
  have h2 : KeepsTask p cid s1 s2 := by
    unfold s2
    split
    · exact refl s1
    · split
      · exact dropReg _ _ _
      · exact refl s1
  have h3 : KeepsTask p cid s2 s3 := updCtx fun c _ => ⟨⟨rfl, rfl, rfl⟩, fun _ _ _ => rfl⟩
  exact (((h1.trans h2).trans h3).trans (setCore _ _ _)).trans (count _ _ _ _ _)

theorem useLine (s : State) (core j line : Nat) : KeepsTask p cid s (s.useLine core j line).1 := by
  unfold State.useLine State.touchLine
  split
  · split
    · exact machineCheck _ _ _ _ _ _ _ _
    · exact setCore _ _ _
  · dsimp only
    split
    · exact machineCheck _ _ _ _ _ _ _ _
    · exact takeLine _ _ _ _

theorem fetchLines (s : State) (core j : Nat) (lines : List Nat) : KeepsTask p cid s (s.fetchLines core j lines) := by
  unfold State.fetchLines
  split
  · exact refl s
  · exact foldl (fun t line _ => useLine t core j line) s

/-! Claims are granted (R104, R109). -/

theorem wakeCore (s : State) (k : Nat) : KeepsTask p cid s (s.wakeCore k) := by
  unfold State.wakeCore
  dsimp only
  split
  · exact refl s
  · split
    · exact (setCore _ _ _).trans (count _ _ _ _ _)
    · exact refl s

theorem wakeCtx (s : State) (j : Nat) : KeepsTask p cid s (s.wakeCtx j) := by
  unfold State.wakeCtx
  split
  · exact wakeCore _ _
  · exact refl s

theorem countGrant (s : State) (j : Nat) : KeepsTask p cid s (s.countGrant j) := by
  unfold State.countGrant
  split
  · split
    · exact refl s
    · exact count _ _ _ _ _
  · exact refl s

/-- A claim that is granted writes the image of its own context only. -/
theorem grantOne (s : State) {q : Claim} (hq : p → q.cid ≠ cid) : KeepsTask p cid s (s.grantOne q) := by
  unfold State.grantOne
  extract_lets t s1
  have ht : KeepsTask p cid s t := by
    unfold t
    split
    · exact fetchLines _ _ _ _
    · exact refl s
  have h1 : KeepsTask p cid s s1 := by
    unfold s1
    split
    · exact refl s
    · refine (ht.trans (updCtx (f := _) ?_)).trans (countGrant _ _)
      exact fun c _ => ⟨⟨rfl, rfl, rfl⟩, fun hp _ he => absurd he (hq hp)⟩
  refine h1.trans (updCtx (f := _) ?_)
  exact fun c _ => ⟨⟨rfl, rfl, rfl⟩, fun _ _ _ => rfl⟩

theorem grantFrom (g : Nat) {qs : List Claim} (hq : p → ∀ q ∈ qs, q.cid ≠ cid) (s : State) :
    KeepsTask p cid s (s.grantFrom g qs).1 := by
  induction qs generalizing s with
  | nil => exact setGrove _ _ _
  | cons q rest ih =>
    unfold State.grantFrom
    split
    · exact (grantOne s fun hp => hq hp q (by simp)).trans (ih (fun hp r hr => hq hp r (List.mem_cons_of_mem q hr)) _)
    · exact setGrove _ _ _

theorem grantClaims (s : State) {g : Nat} (hq : p → ∀ q ∈ (s.grove g).claims, q.cid ≠ cid) : KeepsTask p cid s (s.grantClaims g) :=
  (grantFrom g hq s).trans (foldl (fun t j _ => wakeCtx t j) _)

end State.KeepsTask

end Sys2Proof.Machine
end

section
/-! PROOF. `exit`, `kchk` and how a task retires (R23, R137, R304, R391, R392). -/

namespace Sys2Proof.Machine

open Sys2Proof

@[simp] theorem Image.ln_setLn_zero (m : Image) : (m.setLn 0).ln = 0 := by
  have h : (withLn m.status 0).extractLsb' 6 5 = 0#5 := by
    apply BitVec.eq_of_getLsbD_eq
    intro i hi
    have : i = 0 ∨ i = 1 ∨ i = 2 ∨ i = 3 ∨ i = 4 := by omega
    rcases this with rfl | rfl | rfl | rfl | rfl <;> simp [withLn]
  simp [Image.ln, Image.setLn, h]

/-! The slot that a task signals (R304, R376, R377). -/

theorem State.killcnt_dslotSet (s : State) (d n v e : Nat) : ((s.dslotSet d n v).die e).killcnt = (s.die e).killcnt :=
  State.die_setDie_keeps Die.killcnt (by rfl) e

theorem State.killcnt_dslotDec (s : State) (d n amount e : Nat) : ((s.dslotDec d n amount).die e).killcnt = (s.die e).killcnt := by
  unfold State.dslotDec
  dsimp only
  split
  · exact (State.die_setDie_keeps Die.killcnt (by rfl) e).trans (s.killcnt_dslotSet d n 0 e)
  · split
    · rfl
    · exact s.killcnt_dslotSet d n _ e

theorem State.killcnt_signalDec (s : State) (sig : Option Nat) (e : Nat) :
    ((s.signalDec sig).die e).killcnt = (s.die e).killcnt := by
  cases sig with
  | none => rfl
  | some n => exact State.killcnt_dslotDec s _ _ _ e

theorem State.dslotDec_ctxs (s : State) (d n amount : Nat) : (s.dslotDec d n amount).ctxs = s.ctxs := by
  unfold State.dslotDec
  dsimp only
  split
  · rfl
  · split <;> rfl

@[simp] theorem State.signalDec_ctxs (s : State) (sig : Option Nat) : (s.signalDec sig).ctxs = s.ctxs := by
  cases sig with
  | none => rfl
  | some n => exact State.dslotDec_ctxs s _ _ _

theorem State.dslot_dslotSet (s : State) (d n : Nat) {v : Nat} (hv : v < 2 ^ 32) : (s.dslotSet d n v).dslot d n = v := by
  rw [State.dslot, State.dslotSet, State.die_setDie]
  simpa using Nat.mod_eq_of_lt hv

theorem State.dslot_setDie_keeps {s : State} {d : Nat} {v : Die} (h : v.dslots = (s.die d).dslots) (e n : Nat) :
    (s.setDie d v).dslot e n = s.dslot e n := by
  rw [State.dslot, State.dslot, State.die_setDie_keeps Die.dslots h]

theorem State.dslot_lt (s : State) (d n : Nat) : s.dslot d n < 2 ^ 32 := BitVec.isLt _

/-- A decrement takes 1 from a slot, and leaves 0 at 0 (R377). -/
theorem State.dslot_dslotDec_one (s : State) (d n : Nat) : (s.dslotDec d n 1).dslot d n = s.dslot d n - 1 := by
  have hlt := s.dslot_lt d n
  unfold State.dslotDec
  dsimp only
  split
  · rw [State.logEngine, State.dslot_setDie_keeps (by rfl), State.dslot_dslotSet s d n (by omega)]
    omega
  · rw [if_neg one_ne_zero, State.dslot_dslotSet s d n (by omega)]

theorem State.dslot_signalDec (s : State) {n : Nat} (hn : n < 32768) :
    (s.signalDec (some n)).dslot (n / 4096) (n % 4096) = s.dslot (n / 4096) (n % 4096) - 1 := by
  have hd : n / 4096 % 8 = n / 4096 := by omega
  rw [State.signalDec, hd, State.dslot_dslotDec_one]

/-! A context leaves its slot (R103, R107). -/

theorem State.deliver_eq (s : State) (src dst k w : Nat) (v : BitVec 512) : ∃ cs, s.deliver src dst k w v = { s with cores := cs } := by
  unfold State.deliver
  dsimp only
  split
  · exact ⟨_, rfl⟩
  · exact ⟨_, rfl⟩

theorem State.sendRest_eq (s : State) (core : Nat) (m : Image) (older : List RingEntry) (e : RingEntry) :
    ∃ cs, s.sendRest core m older e = { s with cores := cs } := by
  unfold State.sendRest
  split
  · refine List.foldlRecOn (motive := fun t : State => ∃ cs, t = { s with cores := cs }) _ _ ⟨_, rfl⟩ ?_
    rintro _ ⟨cs, rfl⟩ q _
    exact State.deliver_eq _ core q _ _ _
  · exact ⟨_, rfl⟩

/-- What the exchanges of a ring send changes the cores only (R155). -/
theorem State.sendRests_eq (s : State) (core : Nat) (m : Image) (older ring : List RingEntry) :
    ∃ cs, s.sendRests core m older ring = { s with cores := cs } := by
  induction ring generalizing s older with
  | nil => exact ⟨_, rfl⟩
  | cons e rest ih =>
    obtain ⟨cs, h⟩ := s.sendRest_eq core m older e
    obtain ⟨ds, h'⟩ := ih { s with cores := cs } (older ++ [e])
    exact ⟨ds, by rw [State.sendRests, h, h']⟩

theorem State.switchCore_eq (s : State) (k : Nat) : ∃ cs, s.switchCore k = { s with cores := cs } := by
  unfold State.switchCore
  dsimp only
  split
  · exact ⟨_, rfl⟩
  · exact ⟨_, rfl⟩

theorem State.freeSlotOf_eq {s : State} {cid : Nat} {c : Ctx} (hc : s.ctx? cid = some c) (w : Residence) :
    ∃ cs, s.freeSlotOf cid w = { s.setCtx cid { c with where_ := w } with cores := cs } := by
  simp only [State.freeSlotOf, hc]
  split
  · split
    · obtain ⟨cs, h⟩ := State.switchCore_eq ((s.setCtx cid { c with where_ := w }).setCore _ _) _
      exact ⟨cs, by rw [h]; rfl⟩
    · exact ⟨_, rfl⟩
  · exact ⟨_, rfl⟩

/-! A task retires (R137, R321, R322, R391). -/

/-- A context that retires holds nothing in its ring, no fault that is pending, and no watch, wait or open host queue. -/
def Ctx.bare (c : Ctx) : Ctx :=
  { c with
    ring := [], late := none, psu := [], watch := none, latch := false, wait := none, leaving := none, stale := none, hqOpen := false }

/-- A context whose charge has returned. -/
def Ctx.uncharged (c : Ctx) : Ctx := { c with img := c.img.setLn 0 }

/-- What an exchange in the ring of a retiring context contributes is sent, and its ring goes (R155). -/
def State.bared (s : State) (cid core : Nat) (c : Ctx) : State := (s.sendRests core c.img [] c.ring).setCtx cid c.bare

/-- A kill is counted in its die (R321). -/
def State.countKill (s : State) (d : Nat) (k : Bool) : State :=
  if k then s.setDie d { s.die d with killcnt := (s.die d).killcnt + 1 } else s

/-- The exit action of a task that signals a slot: a release at device scope, then the decrement (R322). -/
def State.exitAction (s : State) (core : Nat) (sig : Option Nat) : State :=
  if sig.isSome then (s.releaseFence core).signalDec sig else s

theorem State.retire_eq {s : State} {cid core : Nat} {c : Ctx} (hc : s.ctx? cid = some c) (hk : c.core? = some core) (k : Bool) :
    s.retire cid k = ((((((s.bared cid core c).releaseLent cid).countKill (coreDie core) k).exitAction core c.task.signal).updCtx cid
      fun x => { x with img := x.img.unsave, winWait := none }).freeSlotOf cid .ended) := by
  simp only [State.retire, hc, hk]
  rfl

theorem State.dies_updCtx (s : State) (cid : Nat) (f : Ctx → Ctx) : (s.updCtx cid f).dies = s.dies := by
  unfold State.updCtx
  split <;> rfl

theorem State.dies_freeSlotOf (s : State) (cid : Nat) (w : Residence) : (s.freeSlotOf cid w).dies = s.dies := by
  cases hc : s.ctx? cid with
  | none => simp only [State.freeSlotOf, hc]
  | some c =>
    obtain ⟨cs, h⟩ := State.freeSlotOf_eq hc w
    rw [h]
    rfl

theorem State.ctx?_freeSlotOf {s : State} {cid : Nat} {c : Ctx} (hc : s.ctx? cid = some c) (w : Residence) :
    (s.freeSlotOf cid w).ctx? cid = some { c with where_ := w } := by
  obtain ⟨cs, h⟩ := State.freeSlotOf_eq hc w
  rw [h]
  exact State.ctx?_setCtx s cid _

@[simp] theorem State.ctx?_bared (s : State) (cid core : Nat) (c : Ctx) : (s.bared cid core c).ctx? cid = some c.bare :=
  State.ctx?_setCtx _ _ _

/-- Up to there only contexts and cores have changed. -/
theorem State.bared_eq (s : State) (cid core : Nat) (c : Ctx) :
    ∃ cs xs, s.bared cid core c = { s with cores := cs, ctxs := xs } := by
  obtain ⟨cs, h⟩ := s.sendRests_eq core c.img [] c.ring
  exact ⟨cs, _, by rw [State.bared, h]; rfl⟩

theorem State.releaseLent_eq {s : State} {cid core i : Nat} {x : Ctx} (hx : s.ctx? cid = some x) (hw : x.where_ = .slot core i) :
    s.releaseLent cid =
      let t := s.setCtx cid x.uncharged
      if isService core then t else t.grantClaims (coreGrove core) := by
  have hk : x.core? = some core := by rw [Ctx.core?, hw]
  simp only [State.releaseLent, hx, hk]
  rfl

/-- A charge that returns, and what the pool then grants, leaves the resident task as it is but for its charge, and all of its image else
where it claims nothing; a service core has no pool (R109, R441). -/
theorem State.releaseLent_task {s : State} {cid core i : Nat} {x : Ctx} (hx : s.ctx? cid = some x) (hw : x.where_ = .slot core i) :
    ∃ y, (s.releaseLent cid).ctx? cid = some y ∧ x.SameStay y ∧
      (isService core = true ∨ (s.RegsSound ∧ ∀ q ∈ (s.grove (coreGrove core)).claims, q.cid ≠ cid) → y.img = x.img.setLn 0) := by
  rw [State.releaseLent_eq hx hw]
  dsimp only
  have hlent := State.ctx?_setCtx s cid x.uncharged
  split
  · exact ⟨_, hlent, ⟨rfl, rfl, rfl⟩, fun _ => rfl⟩
  next hs =>
    obtain ⟨y, hy, hstay, himg⟩ :=
      (State.KeepsTask.grantClaims (p := ∀ q ∈ (s.grove (coreGrove core)).claims, q.cid ≠ cid)
        (s.setCtx cid x.uncharged) id).task hlent hw
    exact ⟨y, hy, hstay, fun h => h.elim (fun h => absurd h hs) fun h => himg h.2 h.1⟩

theorem State.keepsTask_releaseLent {s : State} {cid core i : Nat} {x : Ctx} (hx : s.ctx? cid = some x) (hw : x.where_ = .slot core i) :
    s.KeepsTask False cid (s.releaseLent cid) := by
  rw [State.releaseLent_eq hx hw]
  dsimp only
  have hlent : s.KeepsTask False cid (s.setCtx cid x.uncharged) :=
    .setCtx fun c _ _ _ hc _ => by
      obtain rfl : x = c := by simpa [hx] using hc
      exact ⟨⟨rfl, rfl, rfl⟩, False.elim⟩
  split
  · exact hlent
  · exact hlent.trans (.grantClaims _ False.elim)

theorem State.ctx?_countKill (s : State) (d : Nat) (k : Bool) (cid : Nat) : (s.countKill d k).ctx? cid = s.ctx? cid := by
  cases k <;> rfl

theorem State.badSram_countKill (s : State) (d : Nat) (k : Bool) : (s.countKill d k).badSram = s.badSram := by
  cases k <;> rfl

theorem State.killcnt_countKill (s : State) (d : Nat) (k : Bool) :
    ((s.countKill d k).die d).killcnt = (s.die d).killcnt + (if k then 1 else 0) := by
  cases k <;> simp [State.countKill]

theorem State.dslot_countKill (s : State) (d : Nat) (k : Bool) (e n : Nat) : (s.countKill d k).dslot e n = s.dslot e n := by
  cases k with
  | false => rfl
  | true => exact State.dslot_setDie_keeps (by rfl) e n

theorem State.KeepsTask.dslot {p : Prop} {cid : Nat} {s t : State} (h : s.KeepsTask p cid t) (d n : Nat) :
    t.dslot d n = s.dslot d n := by
  rw [State.dslot, State.dslot, h.dslots]

theorem State.killcnt_exitAction (s : State) (core : Nat) (sig : Option Nat) (d : Nat) :
    ((s.exitAction core sig).die d).killcnt = (s.die d).killcnt := by
  unfold State.exitAction
  split
  · rw [State.killcnt_signalDec, (State.KeepsTask.releaseFence (p := True) (cid := 0) s core).killcnt]
  · rfl

theorem State.dslot_exitAction (s : State) (core : Nat) {n : Nat} (hn : n < 32768) :
    (s.exitAction core (some n)).dslot (n / 4096) (n % 4096) = s.dslot (n / 4096) (n % 4096) - 1 := by
  rw [State.exitAction, Option.isSome_some, if_pos rfl, State.dslot_signalDec _ hn, (State.KeepsTask.releaseFence (p := True) (cid := 0) s core).dslot]

/-- The exit action keeps the resident task; a service core has no line to drain. -/
theorem State.exitAction_task {s : State} {cid core k i : Nat} {x : Ctx} (hx : s.ctx? cid = some x) (hw : x.where_ = .slot k i)
    (sig : Option Nat) :
    ∃ y, (s.exitAction core sig).ctx? cid = some y ∧ x.SameStay y ∧ (isService core = true ∨ s.RegsSound → y.img = x.img) := by
  unfold State.exitAction
  split
  · obtain ⟨y, hy, hstay, himg⟩ := (State.KeepsTask.releaseFence (p := True) (cid := cid) s core).task hx hw
    rw [State.ctx?, State.signalDec_ctxs]
    refine ⟨y, hy, hstay, fun h => h.elim (fun hs => ?_) (himg trivial)⟩
    have hnone : s.releaseFence core = s := by simp [State.releaseFence, groveOf, hs]
    rw [hnone, hx] at hy
    rw [Option.some.inj hy]
  · exact ⟨x, hx, ⟨rfl, rfl, rfl⟩, fun _ => rfl⟩

theorem Ctx.where_of_core? {c : Ctx} {core : Nat} (hk : c.core? = some core) : ∃ i, c.where_ = .slot core i := by
  unfold Ctx.core? at hk
  split at hk
  next k i hw => exact ⟨i, by rw [hw, Option.some.inj hk]⟩
  · exact absurd hk (by simp)

section
variable {s : State} {cid core : Nat} {c : Ctx} (hc : s.ctx? cid = some c) (hk : c.core? = some core) (k : Bool)
include hc hk

theorem State.retire_dies :
    (s.retire cid k).dies =
      ((((s.bared cid core c).releaseLent cid).countKill (coreDie core) k).exitAction core c.task.signal).dies := by
  rw [State.retire_eq hc hk, State.dies_freeSlotOf, State.dies_updCtx]

/-- What is left of a retired task. -/
theorem State.retire_ctx :
    ∃ x, (s.retire cid k).ctx? cid = some x ∧ x.where_ = .ended ∧ x.ring = [] ∧ x.late = none ∧ x.img.saved = [] ∧
      (isService core = true ∨ (s.RegsSound ∧ ∀ q ∈ (s.grove (coreGrove core)).claims, q.cid ≠ cid) → x.img.ln = 0) := by
  obtain ⟨i, hw⟩ := Ctx.where_of_core? hk
  obtain ⟨cs, xs, hbared⟩ := s.bared_eq cid core c
  have hsound : s.RegsSound → (s.bared cid core c).RegsSound := by
    rw [hbared]
    exact id
  have hclaims : ((s.bared cid core c).grove (coreGrove core)).claims = (s.grove (coreGrove core)).claims := by
    rw [hbared]
    rfl
  have hbare := s.ctx?_bared cid core c
  obtain ⟨x, hx, ⟨xw, xr, xl⟩, ximg⟩ := State.releaseLent_task hbare hw
  obtain ⟨y, hy, ⟨-, yr, yl⟩, yimg⟩ := State.exitAction_task (s := ((s.bared cid core c).releaseLent cid).countKill (coreDie core) k)
    (core := core) ((State.ctx?_countKill _ _ _ _).trans hx) (xw.trans hw) c.task.signal
  rw [State.retire_eq hc hk, State.updCtx_some hy]
  refine ⟨_, State.ctx?_freeSlotOf (State.ctx?_setCtx _ _ _) .ended, rfl, yr.trans xr, yl.trans xl, rfl, fun h => ?_⟩
  have hx0 : x.img = c.img.setLn 0 := ximg (h.imp_right fun ⟨h1, h2⟩ => ⟨hsound h1, hclaims ▸ h2⟩)
  have hyx : y.img = x.img := by
    refine yimg (h.imp_right fun ⟨h1, _⟩ => ?_)
    unfold State.RegsSound
    rw [State.badSram_countKill]
    exact (State.keepsTask_releaseLent hbare hw).regsSound (hsound h1)
  calc y.img.ln = (c.img.setLn 0).ln := by rw [hyx, hx0]
    _ = 0 := c.img.ln_setLn_zero

theorem State.retire_killcnt :
    ((s.retire cid k).die (coreDie core)).killcnt = (s.die (coreDie core)).killcnt + (if k then 1 else 0) := by
  obtain ⟨i, hw⟩ := Ctx.where_of_core? hk
  obtain ⟨cs, xs, hbared⟩ := s.bared_eq cid core c
  have hlent := (State.keepsTask_releaseLent (s.ctx?_bared cid core c) hw).killcnt (coreDie core)
  rw [State.die_of_dies (State.retire_dies hc hk k), State.killcnt_exitAction, State.killcnt_countKill, hlent, hbared]
  rfl

theorem State.retire_dslot {n : Nat} (hs : c.task.signal = some n) (hn : n < 32768) :
    (s.retire cid k).dslot (n / 4096) (n % 4096) = s.dslot (n / 4096) (n % 4096) - 1 := by
  obtain ⟨i, hw⟩ := Ctx.where_of_core? hk
  obtain ⟨cs, xs, hbared⟩ := s.bared_eq cid core c
  have hlent := (State.keepsTask_releaseLent (s.ctx?_bared cid core c) hw).dslot (n / 4096) (n % 4096)
  rw [State.dslot, State.die_of_dies (State.retire_dies hc hk k), ← State.dslot, hs, State.dslot_exitAction _ _ hn,
    State.dslot_countKill, hlent, hbared]
  rfl

end

/-- Settles O15: an instruction that is free to execute does its own part, and a retirement leaves what the rules above say. -/
theorem exitAndKillPoint : Obligations.ExitAndKillPoint := by
  intro s cid c h
  have hexit : exec .exit s = .next ((if !c.ring.isEmpty then Eff.stall s else if isService s.here then .done s (c.img.next 4)
      else .left ((s.commit cid (c.img.next 4)).retire cid c.img.kp)).state cid c) := by
    rw [exec_exit, execExit, runInstr_ready h (.inl rfl)]
  have hkchk : exec .kchk s = .next ((if c.img.kp then Eff.left (s.retire cid true) else .done s (c.img.next 4)).state cid c) := by
    rw [exec_kchk, execKchk, runInstr_ready h (.inl rfl)]
  refine ⟨fun hr hs => ?_, fun hr hs => ?_, fun hr => ?_, fun hk => ?_, fun hk => ?_, fun core k hcore => ?_⟩
  · rw [hexit, hr, hs]
    rfl
  · rw [hexit, hr, hs]
    rfl
  · rw [hexit, if_pos (by simpa using hr)]
    rfl
  · rw [hkchk, hk]
    rfl
  · rw [hkchk, hk]
    rfl
  · intro t
    have hc := State.at_ctx h.1
    obtain ⟨x, hx, hw, hring, hlate, hsaved, hln⟩ := State.retire_ctx hc hcore k
    exact ⟨x, hx, hw, hring, hlate, hsaved, hln, State.retire_killcnt hc hcore k, fun n hs hn => State.retire_dslot hc hcore k hs hn⟩

end Sys2Proof.Machine
end

section
/-! PROOF. What resets, boot, loads, checkpoints and the host's accesses do, operation by operation (R18, R412, R416 to R425). -/

namespace Sys2Proof

/-- A table that keeps the entries of some keys. -/
theorem Tab.get?_filter_key {α : Type} (q : Nat → Bool) (t : Tab α) (k : Nat) :
    Tab.get? (t.filter fun p => q p.1) k = if q k then t.get? k else none := by
  induction t with
  | nil => simp [Tab.get?]
  | cons p rest ih =>
    by_cases hk : p.1 = k
    · subst hk
      by_cases hq : q p.1 = true
      · simp [Tab.get?, hq]
      · simpa [Tab.get?, hq] using ih
    · by_cases hq : q p.1 = true <;> simp [Tab.get?, hq, hk, ih]

/-- What one element of a list brings about, and every element keeps, holds at the end of a fold over the list. -/
theorem foldl_brings {σ α : Type} {f : σ → α → σ} {P : σ → Prop} {l : List α} {a : α} (ha : a ∈ l) (hbring : ∀ t, P (f t a))
    (hkeep : ∀ t, ∀ b ∈ l, P t → P (f t b)) (s : σ) : P (l.foldl f s) := by
  obtain ⟨l₁, l₂, rfl⟩ := List.append_of_mem ha
  rw [List.foldl_append, List.foldl_cons]
  exact List.foldlRecOn l₂ f (hbring _) fun t ht b hb => hkeep t b (by simp [hb]) ht

end Sys2Proof

namespace Sys2Proof.Machine

open Sys2Proof

/-! Memory of which a part is lost, and memory into which cells are put. -/

theorem Memory.read_filter_key (q : Nat → Bool) (m : Memory) (a : Nat) :
    Memory.read (m.filter fun c => q c.1) a = if q a then m.read a else unwritten := by
  induction m with
  | nil => simp [Memory.read]
  | cons p rest ih =>
    by_cases hk : p.1 = a
    · subst hk
      by_cases hq : q p.1 = true
      · simp [Memory.read, hq]
      · simpa [Memory.read, hq] using ih
    · by_cases hq : q p.1 = true <;> simp [Memory.read, hq, hk, ih]

theorem Memory.read_of_mem {m : Memory} (h : m.wf = true) {c : Host.Cell} (hc : c ∈ m) : m.read c.1 = c.2 := by
  induction m with
  | nil => exact absurd hc List.not_mem_nil
  | cons p rest ih =>
    obtain ⟨-, above, w⟩ := Memory.wf_cons.1 h
    rcases List.mem_cons.1 hc with rfl | hc
    · rw [Memory.read, if_pos rfl]
    · rw [Memory.read, if_neg (above c hc).ne, ih w hc]

theorem Memory.mem_of_read {m : Memory} {a : Nat} (h : m.read a ≠ unwritten) : ∃ c ∈ m, c.1 = a := by
  induction m with
  | nil => exact absurd rfl h
  | cons p rest ih =>
    rw [Memory.read] at h
    split at h
    next hp => exact ⟨p, List.mem_cons_self, hp⟩
    · obtain ⟨c, hc, hca⟩ := ih h
      exact ⟨c, List.mem_cons_of_mem p hc, hca⟩

theorem Memory.wf_put {m : Memory} (h : m.wf = true) (cs : List (Nat × Byte)) : (m.put cs).wf = true := by
  induction cs generalizing m with
  | nil => exact h
  | cons c rest ih => exact ih (Memory.wf_write h c.1 c.2)

/-- Where the cells put at an address agree, memory reads what they say, or what it held before. -/
theorem Memory.read_put {m : Memory} (h : m.wf = true) {cs : List (Nat × Byte)} {a : Nat} {v : Byte}
    (hv : ∀ c ∈ cs, c.1 = a → c.2 = v) (hex : (∃ c ∈ cs, c.1 = a) ∨ m.read a = v) : (m.put cs).read a = v := by
  induction cs generalizing m with
  | nil => exact hex.resolve_left (by simp)
  | cons c rest ih =>
    have hnext : (∃ d ∈ rest, d.1 = a) ∨ (m.write c.1 c.2).read a = v := by
      by_cases hc : c.1 = a
      · exact .inr (by rw [hc, Memory.read_write h, hv c List.mem_cons_self hc])
      · rw [Memory.read_write_ne c.2 h hc]
        refine hex.imp_left fun ⟨d, hd, hda⟩ => ⟨d, (List.mem_cons.1 hd).resolve_left ?_, hda⟩
        rintro rfl
        exact hc hda
    exact ih (Memory.wf_write h c.1 c.2) (fun d hd => hv d (List.mem_cons_of_mem c hd)) hnext

/-! Resets and loss of power (R18, R425). -/

theorem State.die_dieReset (s : State) (d : Nat) : s.dieReset.die d = (s.die d).reset := by
  have h : s.dieReset.dies.get? d = (s.dies.get? d).map Die.reset := Tab.get?_map (f := fun p : Nat × Die => (p.1, p.2.reset)) (fun _ => rfl) s.dies d
  rw [State.die, State.die, h]
  cases s.dies.get? d <;> rfl

/-- What a reset leaves of the memory behind the homes: HBM is lost. -/
theorem Memory.read_outsideHbm (m : Memory) (pa : Nat) :
    Memory.read (m.filter fun c => !inHbm c.1) pa = if pa < Config.hbmBytes then unwritten else m.read pa := by
  rw [Memory.read_filter_key (fun a => !inHbm a)]
  by_cases h : pa < Config.hbmBytes <;> simp [inHbm, h]

theorem State.ctx?_dieReset (s : State) {cid : Nat} (h : cid < 524288) : s.dieReset.ctx? cid = none := by
  have hk := Tab.get?_filter_key (fun k => decide (524288 ≤ k)) s.ctxs cid
  rwa [if_neg (by simpa using h)] at hk

theorem State.core_dieReset (s : State) {k : Nat} (h : k < Config.allCores) : s.dieReset.core k = Core.fresh := by
  have hk := Tab.get?_filter_key isService s.cores k
  rw [if_neg (by simpa [isService] using h)] at hk
  exact congrArg (Option.getD · Core.fresh) hk

theorem Memory.read_withoutTierOf (m : Memory) (d pa : Nat) :
    Memory.read (m.filter fun c => !tierOfDie d c.1) pa =
      if Config.tierBase + d * Config.tierPerDie ≤ pa ∧ pa < Config.tierBase + (d + 1) * Config.tierPerDie then unwritten
      else m.read pa := by
  rw [Memory.read_filter_key (fun a => !tierOfDie d a)]
  by_cases h : Config.tierBase + d * Config.tierPerDie ≤ pa ∧ pa < Config.tierBase + (d + 1) * Config.tierPerDie
  · simp [tierOfDie, h]
  · rw [if_neg h, if_pos]
    simpa [tierOfDie, -not_and] using not_and_or.1 h

/-! Boot (R419). -/

theorem State.booted_of_dies {s t : State} (h : t.dies = s.dies) : t.booted = s.booted := by
  simp only [State.booted, State.die_of_dies h]

/-- Firmware has reopened the tier where it runs (R18). -/
theorem State.tierSelf_reopenTier {s : State} (h : s.booted = true) : s.reopenTier.tierSelf = 0 := by
  rw [State.reopenTier, if_pos h]

@[simp] theorem State.ctx?_reopenTier (s : State) (cid : Nat) : s.reopenTier.ctx? cid = s.ctx? cid := by
  unfold State.reopenTier
  split <;> rfl

@[simp] theorem State.activeCid_reopenTier (s : State) (k : Nat) : s.reopenTier.activeCid k = s.activeCid k := by
  unfold State.reopenTier
  split <;> rfl

@[simp] theorem State.die_reopenTier (s : State) (d : Nat) : s.reopenTier.die d = s.die d := by
  unfold State.reopenTier
  split <;> rfl

/-- Service core n of a die runs its firmware context. -/
def State.RunsFirmware (s : State) (d n : Nat) : Prop :=
  s.ctx? (524288 + 4 * d + n) = some (firmwareCtx d n) ∧ s.activeCid (Config.allCores + 4 * d + n) = some (524288 + 4 * d + n)

theorem State.runsFirmware_startFirmware (s : State) (d n : Nat) : (s.startFirmware d n).RunsFirmware d n := by
  refine ⟨State.ctx?_setCtx s _ _, ?_⟩
  simp [State.activeCid, State.startFirmware]

theorem State.RunsFirmware.startFirmware {s : State} {d n : Nat} (h : s.RunsFirmware d n) (e : Nat) {m : Nat} (hn : n < 4)
    (hm : m < 4) : (s.startFirmware e m).RunsFirmware d n := by
  by_cases hk : 4 * e + m = 4 * d + n
  · obtain ⟨rfl, rfl⟩ : e = d ∧ m = n := by omega
    exact s.runsFirmware_startFirmware e m
  · refine ⟨(State.ctx?_setCtx_ne s _ (by omega)).trans h.1, ?_⟩
    have hcore : (s.startFirmware e m).core (Config.allCores + 4 * d + n) = s.core (Config.allCores + 4 * d + n) :=
      State.core_setCore_ne _ _ (by omega)
    rw [State.activeCid, hcore]
    exact h.2

/-- The firmware of every service core starts (R23, R419). -/
def State.startAll (s : State) : State :=
  (List.range Config.dies).foldl (fun (t : State) d =>
    (List.range Config.serviceCores).foldl (fun (t : State) n => t.startFirmware d n) t) s

theorem State.dies_startAll (s : State) : s.startAll.dies = s.dies :=
  List.foldlRecOn (motive := fun t : State => t.dies = s.dies) _ _ rfl fun _ ht _ _ =>
    List.foldlRecOn (motive := fun t : State => t.dies = s.dies) _ _ ht fun _ hu _ _ => hu

theorem State.runsFirmware_startAll (s : State) {d n : Nat} (hd : d < 8) (hn : n < 4) : s.startAll.RunsFirmware d n := by
  have hdie : d ∈ List.range Config.dies := List.mem_range.2 hd
  have hcore : n ∈ List.range Config.serviceCores := List.mem_range.2 hn
  have hlt {m : Nat} (hm : m ∈ List.range Config.serviceCores) : m < 4 := List.mem_range.1 hm
  refine foldl_brings (P := fun t : State => t.RunsFirmware d n) hdie (fun t => ?_) (fun t e _ ht => ?_) s
  · exact foldl_brings (P := fun t : State => t.RunsFirmware d n) hcore (fun u => u.runsFirmware_startFirmware d n)
      (fun u m hm hu => hu.startFirmware d hn (hlt hm)) t
  · exact List.foldlRecOn (motive := fun t : State => t.RunsFirmware d n) _ _ ht fun u hu m hm => hu.startFirmware e hn (hlt hm)

theorem State.accept_ignored {s : State} {d : Nat} {image : List Byte}
    (h : (s.die d).boot ≠ none ∨ Config.imageVerifies d image = false) : s.accept d image = s := by
  rw [State.accept, if_pos]
  rcases h with h | h
  · simp [Option.isSome_iff_ne_none.2 h]
  · simp [h]

theorem State.accept_taken {s : State} {d : Nat} {image : List Byte} (hd : d < 8) (hb : (s.die d).boot = none)
    (hv : Config.imageVerifies d image = true) :
    let u := s.setDie d { s.die d with boot := some (sm3Value image) }
    s.accept d image = if u.booted then u.startAll.reopenTier else u := by
  have hdies : ¬ Config.dies ≤ d := by
    unfold Config.dies
    omega
  rw [State.accept, if_neg (by simp [hb, hv, hdies])]
  rfl

/-! Loads (R416, R417). -/

section
variable {s : State} {v : Word} {plan : LoadPlan}

theorem State.load_busy (h : s.loadBusy = true) : s.load v plan = s.logHost 0 2 0 := by
  rw [State.load, if_pos h]

theorem State.load_fields (h : s.loadBusy = false) (hg : v.getLsbD 63 = false) : s.load v plan = s.writeLdcmd v := by
  rw [State.load, if_neg (by rw [h]; exact Bool.false_ne_true)]
  dsimp only
  rw [if_pos (by rw [hg]; rfl)]

theorem State.load_go (h : s.loadBusy = false) (hg : v.getLsbD 63 = true) (hr : v.getLsbD 62 = false)
    (hb : (s.writeLdcmd v).booted = true) : s.load v plan = (s.writeLdcmd v).carryLoad plan := by
  rw [State.load, if_neg (by rw [h]; exact Bool.false_ne_true)]
  dsimp only
  rw [if_neg (by rw [hg, hr, hb]; decide)]

theorem State.carryLoad_refused {r : Nat} (h : s.imageRefused = some r) :
    s.carryLoad plan = { s with ldsts := BitVec.ofNat 64 (16 * r + 4) } := by
  simp only [State.carryLoad, h]

/-- An image that is good runs with firmware's plan, or, where that is none that firmware could choose, with the model's own (log 65). -/
theorem State.carryLoad_good (h : s.imageRefused = none) {t : State} :
    let header := s.imageBytes 0 128
    let ss := s.imageSections header
    let own := ownPlan ss (tablesNeeded ss s.heapGib) s.heapGib s.rgaUnits
    s.loadProgram (if planGood plan ss s.heapGib s.rgaUnits then plan else own) header ss = some t → s.carryLoad plan = t := by
  intro header ss own ht
  simp only [State.carryLoad, h]
  by_cases hg : planGood plan ss s.heapGib s.rgaUnits = true
  · rw [if_pos hg] at ht ⊢
    rw [ht]
  · rw [if_neg hg] at ht ⊢
    simp only [own, ss, header] at ht
    rw [ht, Option.getD_some]

end

theorem State.dies_mapLeaf {plan : List (Nat × Nat)} {s t : State} {free f : List Nat} {table va pa shift flags : Nat}
    (h : s.mapLeaf plan free table va pa shift flags = some (t, f)) : t.dies = s.dies := by
  induction plan generalizing s free table with
  | nil => simp [State.mapLeaf] at h
  | cons p rest ih =>
    obtain ⟨lo, bits⟩ := p
    simp only [State.mapLeaf] at h
    split at h
    · simp only [Option.some.injEq, Prod.mk.injEq] at h
      rw [← h.1]
      rfl
    · split at h
      · exact ih h
      · split at h
        · simp at h
        · exact ih (s := s.pokeWord _ _) h

theorem State.dies_mapAll {ms : List (Nat × Nat × Nat × Nat)} {s t : State} {free f : List Nat} {root : Nat}
    (h : s.mapAll free root ms = some (t, f)) : t.dies = s.dies := by
  induction ms generalizing s free with
  | nil =>
    simp only [State.mapAll, Option.some.injEq, Prod.mk.injEq] at h
    rw [h.1]
  | cons m rest ih =>
    simp only [State.mapAll] at h
    split at h
    next u g hu => exact (ih h).trans (State.dies_mapLeaf hu)
    · simp at h

theorem State.pool_loadDie (s : State) (p : LoadPlan) (ss : List Section_) (heap rga d e : Nat) :
    ((s.loadDie p ss heap rga d).die e).pool = (s.die e).pool :=
  State.die_setDie_keeps Die.pool (by rfl) e

/-- The start task enters the pool of die 0, eligible (R416). -/
theorem State.poolEnter_startTask (s : State) (entry : Word) :
    ∃ e : PoolEntry, ((s.poolEnter 0 (startTask entry) none).die 0).pool = (s.die 0).pool ++ [e] ∧
      e.entry = entry ∧ e.args = 0 ∧ e.count = 1 ∧ e.hold = none :=
  ⟨_, congrArg Die.pool (s.die_setDie 0 _), rfl, rfl, rfl, by simp [startTask, TaskDesc.holds]⟩

theorem State.pool_foldl {α : Type} {f : State → α → State} (hf : ∀ t a, ((f t a).die 0).pool = (t.die 0).pool) (l : List α)
    (s : State) : ((l.foldl f s).die 0).pool = (s.die 0).pool :=
  List.foldlRecOn (motive := fun t : State => (t.die 0).pool = (s.die 0).pool) l f rfl fun t ht a _ => (hf t a).trans ht

/-- A program that a load starts: STATE is 3, its ASID 1, and the pool of die 0 holds the start task alone. -/
theorem State.loadProgram_runs {s t : State} {plan : LoadPlan} {h : List Byte} {ss : List Section_}
    (ht : s.loadProgram plan h ss = some t) :
    t.ldsts = 3 ∧ t.rasid = 1 ∧ ∃ e, (t.die 0).pool = [e] ∧ e.entry = wordAt h 16 ∧ e.args = 0 ∧ e.count = 1 ∧ e.hold = none := by
  unfold State.loadProgram at ht
  extract_lets heap rga files s1 put s2 at ht
  have h1 : (s1.die 0).pool = [] := congrArg Die.pool (State.die_dieReset _ 0)
  have hput (u : State) (q : Section_ × Nat × Nat) : ((put u q).die 0).pool = (u.die 0).pool := by
    unfold put
    split <;> rfl
  have h2 : (s2.die 0).pool = [] := (State.pool_foldl hput _ s1).trans h1
  clear_value s2
  split at ht
  · simp at ht
  · split at ht
    · simp at ht
    next s3 _ hmap =>
      have h3 : (s3.die 0).pool = [] := by rw [State.die_of_dies (State.dies_mapAll hmap), h2]
      extract_lets s4 s5 at ht
      have h4 : (s4.die 0).pool = [] := (State.pool_foldl (fun u d => u.pool_loadDie plan ss heap rga d 0) _ s3).trans h3
      clear_value s4
      have h5 : (s5.die 0).pool = [] := (congrArg Die.pool (s4.die_reopenTier 0)).trans h4
      obtain rfl := Option.some.inj ht
      obtain ⟨e, he, hentry, hargs, hcount, hhold⟩ := s5.poolEnter_startTask (wordAt h 16)
      rw [h5] at he
      exact ⟨rfl, rfl, e, he, hentry, hargs, hcount, hhold⟩

/-! Restores (R424). -/

/-- OFF of `ldcmd` as written. -/
theorem State.ldcmdOff_writeLdcmd (s : State) (v : Word) : (s.writeLdcmd v).ldcmd.toNat % 2 ^ 26 = v.toNat % 2 ^ 26 := by
  have hlow : (s.writeLdcmd v).ldcmd.setWidth 26 = v.setWidth 26 := by
    unfold State.writeLdcmd
    dsimp only
    have hones (x : BitVec 26) : x &&& 67108863#26 = x := BitVec.and_allOnes
    split <;> simp [hones]
  simpa using congrArg BitVec.toNat hlow

theorem State.restore_busy {s : State} (h : s.loadBusy = true) (v : Word) : s.restore v = s.logHost 0 2 0 := by
  rw [State.restore, if_pos h]

theorem State.restore_go {s : State} {v : Word} (h : s.loadBusy = false) (hg : v.getLsbD 63 = true) (hr : v.getLsbD 62 = true)
    (hb : (s.writeLdcmd v).booted = true) : s.restore v = (s.writeLdcmd v).carryRestore := by
  rw [State.restore, if_neg (by rw [h]; exact Bool.false_ne_true)]
  dsimp only
  rw [if_neg (by rw [hg, hr, hb]; decide)]

theorem State.regionSave_mem {s : State} {off : Nat} {k : Checkpoint} (h : s.regionSave off = some k) : k ∈ s.saves := by
  unfold State.regionSave at h
  split at h
  · exact List.mem_of_find?_eq_some h
  · simp at h

theorem State.regionSave_none {s : State} {off : Nat} (h : s.regionReadable off = false ∨ s.saves = []) : s.regionSave off = none := by
  unfold State.regionSave
  rcases h with h | h <;> simp [h]

theorem State.carryRestore_found {s : State} {k : Checkpoint} (h : s.regionSave (s.ldcmd.toNat % 2 ^ 26) = some k) :
    s.carryRestore = { (s.dieReset.reload k).reopenTier with ldsts := 3 } := by
  simp only [State.carryRestore, h]

theorem State.carryRestore_failed {s : State} (h : s.regionSave (s.ldcmd.toNat % 2 ^ 26) = none) :
    s.carryRestore = { s with ldsts := 0x64 } := by
  simp only [State.carryRestore, h]

/-! Checkpoints (R421 to R423). -/

section
variable {s : State} {w : Word} (hw : w.extractLsb' 34 29 = 0#29)
include hw

theorem State.writeCkcmd_fields (h : w.getLsbD 63 = false ∨ s.cksts = 1 ∨ s.ckPhase ≠ 0) :
    s.writeCkcmd w = { s with ckcmd := (w.extractLsb' 0 34).setWidth 64 } := by
  simp only [State.writeCkcmd, hw]
  rw [if_pos (by simpa [or_assoc] using h)]
  rfl

theorem State.writeCkcmd_go (hg : w.getLsbD 63 = true) (hs : s.cksts ≠ 1) (hp : s.ckPhase = 0) :
    s.writeCkcmd w =
      if Config.tierBytes < (w.toNat % 2 ^ 26) * 65536 + 772 * 2 ^ 30 then
        { s with ckcmd := (w.extractLsb' 0 34).setWidth 64, cksts := 4 }
      else { s with
        ckcmd := (w.extractLsb' 0 34).setWidth 64, cksts := 1, ckReq := (w.extractLsb' 0 34).setWidth 64, ckHit := false } := by
  simp only [State.writeCkcmd, hw]
  rw [if_neg (by simpa [hg, hp] using hs)]
  rfl

end

theorem State.paused_pauseAll (s : State) (b : Bool) {d : Nat} (hd : d < 8) : ((s.pauseAll b).die d).paused = b := by
  refine foldl_brings (P := fun t : State => (t.die d).paused = b) (List.mem_range.2 hd)
    (fun t => congrArg Die.paused (t.die_setDie d _)) (fun t e _ ht => ?_) s
  by_cases he : e = d
  · subst he
    exact congrArg Die.paused (t.die_setDie e _)
  · rwa [State.die_setDie_ne t _ he]

theorem State.spillSectors_slice (s : State) (line : Nat) :
    (s.spillSectors line 0xF).slice = s.slice.filter fun p => lineOf p.1 != line := by
  have hall (k : Nat) : (0xF : BitVec 4).getLsbD (k % 4) = true := by
    rw [show (0xF : BitVec 4) = BitVec.allOnes 4 from rfl, BitVec.getLsbD_allOnes]
    simpa using Nat.mod_lt k (by omega)
  simp only [State.spillSectors, hall, Bool.and_true]
  rfl

/-- Once every slice has written back, none holds a dirty byte. -/
theorem State.spillAll_slice (s : State) : s.spillAll.slice = [] := by
  have hfold (ls : List Nat) (t : State) (p : Nat × Byte)
      (hp : p ∈ (ls.foldl (fun (t : State) l => t.spillSectors l 0xF) t).slice) : p ∈ t.slice ∧ lineOf p.1 ∉ ls := by
    induction ls generalizing t with
    | nil => exact ⟨hp, List.not_mem_nil⟩
    | cons l rest ih =>
      obtain ⟨hmem, hrest⟩ := ih _ hp
      rw [State.spillSectors_slice] at hmem
      obtain ⟨hmem, hl⟩ := List.mem_filter.1 hmem
      exact ⟨hmem, by simpa [hrest] using hl⟩
  refine List.eq_nil_iff_forall_not_mem.2 fun p hp => ?_
  obtain ⟨hmem, hno⟩ := hfold _ s p hp
  exact hno (List.mem_dedup.2 (List.mem_map_of_mem hmem))

theorem State.spillSectors_wf {s : State} (h : s.dram.wf = true) (line : Nat) (m : BitVec 4) :
    (s.spillSectors line m).dram.wf = true := by
  unfold State.spillSectors
  dsimp only
  split
  · exact h
  · exact List.foldrRecOn (motive := fun m : Memory => m.wf = true) _ _ h fun m hm p _ => Memory.wf_write hm p.1 p.2

theorem State.spillAll_wf {s : State} (h : s.dram.wf = true) : s.spillAll.dram.wf = true :=
  List.foldlRecOn (motive := fun t : State => t.dram.wf = true) _ _ h fun _ ht l _ => State.spillSectors_wf ht l 0xF

theorem State.onlyHomes_spillAll (s : State) : s.OnlyHomes s.spillAll :=
  State.OnlyHomes.foldl (fun t l => State.OnlyHomes.spillSectors t l 0xF) s _

theorem State.ckBegin_due {s : State} (h : s.ckDue = true) : s.ckBegin = { s.pauseAll true with cksts := 2, ckPhase := 1 } := by
  rw [State.ckBegin, if_pos h]

theorem State.ckQuiesced_early {s : State} (h : s.ckPhase ≠ 1 ∨ s.quiet = false) : s.ckQuiesced = s := by
  rw [State.ckQuiesced, if_neg]
  rcases h with h | h <;> simp [h]

theorem State.putStateBlock_slice (s : State) : s.putStateBlock.slice = s.slice := by
  unfold State.putStateBlock
  dsimp only
  split <;> rfl

theorem State.ckQuiesced_done {s : State} (hp : s.ckPhase = 1) (hq : s.quiet = true) :
    s.ckQuiesced.ckPhase = 2 ∧ s.ckQuiesced.slice = [] := by
  rw [State.ckQuiesced, if_pos (by simp [hp, hq])]
  exact ⟨rfl, (State.putStateBlock_slice _).trans (State.spillAll_slice _)⟩

theorem Checkpoint.region_wf (k : Checkpoint) : k.region.wf = true :=
  Memory.wf_writes (Memory.wf_put (m := []) rfl k.streamed) 0 _

/-- With every island powered no address of the tier is dark (R18). -/
theorem State.tierDark_lit {s : State} (h : s.tierPower = 0xFF#8) {pa : Nat} (h1 : Config.tierBase ≤ pa)
    (h2 : pa < Config.tierBase + Config.tierBytes) : s.tierDark pa = false := by
  have hdie : homeDie pa < 8 := by
    unfold homeDie
    rw [if_neg (by unfold Config.tierBase Config.hbmBytes at *; omega), if_pos ⟨h1, h2⟩]
    unfold Config.tierBase Config.tierBytes Config.tierPerDie at *
    omega
  have hon : (0xFF#8).getLsbD (homeDie pa) = true := by
    rw [show (0xFF#8) = BitVec.allOnes 8 from rfl, BitVec.getLsbD_allOnes]
    simpa using hdie
  simp [State.tierDark, h, hon]

/-- At the end of a checkpoint issue resumes, and the checkpoint is kept. -/
theorem State.ckDone_resumes {s : State} (hp : s.ckPhase = 2) :
    s.ckDone.cksts = 3 ∧ s.ckDone.ckPhase = 0 ∧ (∀ d, d < 8 → (s.ckDone.die d).paused = false) ∧
      s.ckDone.saves = s.spillAll.toCheckpoint :: s.saves := by
  have hne : ¬ s.ckPhase ≠ 2 := by simpa using hp
  have hdies : s.ckDone.dies = (s.spillAll.pauseAll false).dies := by rw [State.ckDone, if_neg hne]
  have hkept : s.ckDone.saves = s.spillAll.toCheckpoint :: s.spillAll.saves := by rw [State.ckDone, if_neg hne]
  have hsaves : s.spillAll.saves = s.saves := (congrArg State.saves s.onlyHomes_spillAll.1 :)
  refine ⟨by rw [State.ckDone, if_neg hne], by rw [State.ckDone, if_neg hne], fun d hd => ?_, by rw [hkept, hsaves]⟩
  rw [State.die_of_dies hdies, State.paused_pauseAll _ _ hd]

/-- At the end of a checkpoint its region of the tier reads as the checkpoint's bytes. -/
theorem State.ckDone_region {s : State} (hp : s.ckPhase = 2) (hm : s.dram.wf = true) (hl : s.tierPower = 0xFF#8)
    (hfit : s.ckOff * 65536 + ckBytes ≤ Config.tierBytes) {i : Nat} (hi : i < ckBytes) :
    s.ckDone.dram.read (Config.tierBase + s.ckOff * 65536 + i) = s.spillAll.toCheckpoint.region.read i := by
  have hwf := s.spillAll.toCheckpoint.region_wf
  rw [State.ckDone, if_neg (by simpa using hp)]
  dsimp only
  refine Memory.read_put (Memory.wf_filter (State.spillAll_wf hm) _) (fun c hc ha => ?_) ?_
  · obtain ⟨c', hc', rfl⟩ := List.mem_map.1 (List.mem_of_mem_filter hc)
    obtain rfl : c'.1 = i := by
      dsimp only at ha
      omega
    exact (Memory.read_of_mem hwf hc').symm
  · by_cases hz : s.spillAll.toCheckpoint.region.read i = unwritten
    · refine .inr ?_
      have hin : inRegion s.ckOff (Config.tierBase + s.ckOff * 65536 + i) = true := by
        simp [inRegion, hi]
      rw [hz, Memory.read_filter_key (fun a => !inRegion s.ckOff a), hin]
      rfl
    · obtain ⟨c, hc, rfl⟩ := Memory.mem_of_read hz
      have hlit := State.tierDark_lit hl (pa := Config.tierBase + s.ckOff * 65536 + c.1) (by omega) (by omega)
      exact .inl ⟨_, List.mem_filter.2 ⟨List.mem_map_of_mem hc, by simp [hlit]⟩, rfl⟩

/-! Attestation (R420). -/

theorem State.attest_idle {s : State} {v : Word} (hv : v.getLsbD 0 = false) (ha : s.attcmd = false) : s.attest v = s := by
  rw [State.attest, if_pos (by rw [hv, ha]; rfl)]

theorem State.attest_asked {s : State} {v : Word} (h : v.getLsbD 0 = true ∨ s.attcmd = true) :
    s.attest v = if s.booted then
      { s with staging := s.staging.writes 0 (s.reportBytes ++ signature s.reportBytes), attcmd := false }
      else { s with attcmd := true } := by
  have hasked : (!(v.getLsbD 0 || s.attcmd)) = false := by
    rcases h with h | h <;> simp [h, -BitVec.getLsbD_eq_getElem]
  rw [State.attest, if_neg (by rw [hasked]; exact Bool.false_ne_true)]

/-! The host's accesses (R18, R412). -/

theorem State.hostAccess_write {s : State} {base bytes addr : Nat} {bs : List Byte} (h : addr + bs.length ≤ bytes) :
    s.hostAccess base bytes (.write addr bs) = s.writeHome (base + addr) bs := by
  rw [State.hostAccess, if_pos h]

theorem State.hostAccess_read {s : State} {base bytes addr n : Nat} (h : addr + n ≤ bytes) :
    s.hostAccess base bytes (.read addr n) = (s.settleRange (base + addr) n).spillRange (base + addr) n := by
  rw [State.hostAccess, if_pos h]

theorem State.islandsOn_lit {s : State} (h : s.tierPower = 0xFF#8) (a : HostAccess) : s.islandsOn a = true := by
  refine List.all_eq_true.2 fun d hd => ?_
  have hon : (0xFF#8).getLsbD d = true := by
    rw [show (0xFF#8) = BitVec.allOnes 8 from rfl, BitVec.getLsbD_allOnes]
    simpa using (List.mem_range.1 hd : d < 8)
  simp [h, hon]

theorem State.slicesHold_empty {s : State} (h : s.slice = []) (a : HostAccess) : s.slicesHold a = false := by
  simp [State.slicesHold, h]

theorem State.islandServe_write {s : State} (h : s.tierPower = 0xFF#8) {addr : Nat} {bs : List Byte}
    (hb : addr + bs.length ≤ Config.tierBytes) :
    s.islandServe (.write addr bs) =
      { s with dram := s.dram.writes (Config.tierBase + addr) bs, bad := clearBad s.bad (Config.tierBase + addr) bs.length } := by
  simp only [State.islandServe]
  rw [if_neg (by simp [State.islandsOn_lit h, hb])]

theorem State.memAccess_open {s : State} (h : s.tierPower = 0xFF#8) (ht : s.tierSelf = 0) (a : HostAccess) :
    s.memAccess a = s.hostAccess Config.tierBase Config.tierBytes a := by
  rw [State.memAccess, if_neg (by simp [ht]), if_pos (State.islandsOn_lit h a)]

theorem State.memAccess_selfRefresh {s : State} (ht : s.tierSelf ≠ 0) (hs : s.slice = []) (a : HostAccess) :
    s.memAccess a = s.islandServe a := by
  rw [State.memAccess, if_pos (by simpa [State.slicesHold_empty hs] using ht)]

theorem State.islandAccess_inReset {s : State} (hn : s.now = 0) (hs : s.slice = []) (a : HostAccess) :
    s.islandAccess a = s.islandServe a := by
  rw [State.islandAccess, if_neg (by simp [hn, State.slicesHold_empty hs])]

theorem State.islandAccess_read (s : State) (addr n : Nat) : s.islandAccess (.read addr n) = s := by
  unfold State.islandAccess
  split <;> rfl

end Sys2Proof.Machine
end

section
namespace Sys2Proof.Machine

open Sys2Proof

/-- Settles O53: each clause is the rule of its operation above, read at the event that performs it. -/
theorem loadResetAndCheckpointEvents : Obligations.LoadResetAndCheckpointEvents := by
  refine ⟨?reset, ?powerOn, ?island, ?boot, ?staged, ?load, ?request, ?checkpoint, ?attest, ?host⟩
  case reset =>
    intro s
    refine ⟨s.dieReset, rfl, rfl, fun pa => Memory.read_outsideHbm s.dram pa, rfl, rfl, rfl, rfl, rfl, rfl, rfl, rfl, rfl, rfl, rfl, rfl,
      rfl, rfl, rfl, rfl, rfl, rfl, fun cid h => s.ctx?_dieReset h, fun k h => s.core_dieReset h, fun d => ?_, rfl, rfl, rfl, rfl, rfl,
      rfl, rfl⟩
    rw [s.die_dieReset d]
    exact ⟨rfl, rfl, rfl, rfl, rfl, rfl, rfl, rfl, rfl⟩
  case powerOn => exact fun s => ⟨_, rfl, fun pa => Memory.read_outsideHbm s.dram pa, rfl⟩
  case island => exact fun s d pa => ⟨_, rfl, rfl, Memory.read_withoutTierOf s.dram d pa⟩
  case boot =>
    intro s d image u
    refine ⟨fun h => ?_, fun hd hb hv => ⟨fun hu => ?_, fun hu => ⟨u.startAll.reopenTier, ?_, ?_, fun e n he hn => ?_⟩⟩⟩
    · rw [exec_bootImageCheck, execBootImageCheck, State.accept_ignored h]
    · rw [exec_bootImageCheck, execBootImageCheck, State.accept_taken hd hb hv, if_neg (by rw [hu]; exact Bool.false_ne_true)]
    · rw [exec_bootImageCheck, execBootImageCheck, State.accept_taken hd hb hv, if_pos hu]
    · exact State.tierSelf_reopenTier ((State.booted_of_dies u.dies_startAll).trans hu)
    · rw [State.ctx?_reopenTier, State.activeCid_reopenTier]
      exact u.runsFirmware_startAll he hn
  case staged =>
    intro s d len h
    rw [exec_stagedImageCheck, execStagedImageCheck, if_pos h, exec_bootImageCheck, execBootImageCheck]
  case load =>
    intro s v plan ok s0
    refine ⟨fun h => ⟨?_, ?_⟩, fun h hg => ?_, fun h hg hr hb => ⟨fun r hrefused => ?_, ?_⟩, fun h hg hr hb => ?_⟩
    · rw [exec_ldcmdLoad, execLdcmdLoad, State.load_busy h]
    · rw [exec_ldcmdRestore, execLdcmdRestore, State.restore_busy h]
    · rw [exec_ldcmdLoad, execLdcmdLoad, State.load_fields h hg]
    · rw [exec_ldcmdLoad, execLdcmdLoad, State.load_go h hg hr hb, State.carryLoad_refused hrefused]
    · intro header ss own good hnone t ht
      refine ⟨?_, State.loadProgram_runs ht⟩
      rw [exec_ldcmdLoad, execLdcmdLoad, State.load_go h hg hr hb, State.carryLoad_good hnone ht]
    · intro off
      have hoff : s0.ldcmd.toNat % 2 ^ 26 = off := s.ldcmdOff_writeLdcmd v
      refine ⟨fun k hk => ⟨State.regionSave_mem hk, ?_⟩, fun hnone => ?_, State.regionSave_none⟩
      · rw [exec_ldcmdRestore, execLdcmdRestore, State.restore_go h hg hr hb, State.carryRestore_found (by rw [hoff]; exact hk)]
      · rw [exec_ldcmdRestore, execLdcmdRestore, State.restore_go h hg hr hb, State.carryRestore_failed (by rw [hoff]; exact hnone)]
  case request =>
    intro s w hw fields u
    refine ⟨fun h => ?_, fun hg hs hp => ⟨fun hout => ?_, fun hfit => ?_⟩⟩
    · rw [exec_ckcmdCheckpoint, execCkcmdCheckpoint, State.writeCkcmd_fields hw h]
    · rw [exec_ckcmdCheckpoint, execCkcmdCheckpoint, State.writeCkcmd_go hw hg hs hp, if_pos hout]
    · rw [exec_ckcmdCheckpoint, execCkcmdCheckpoint, State.writeCkcmd_go hw hg hs hp, if_neg (Nat.not_lt.2 hfit)]
  case checkpoint =>
    intro s
    refine ⟨fun h => ?_, fun h => ?_, fun h => ?_, fun hp hq => ?_, fun h => ?_, fun hp => ?_⟩
    · rw [exec_checkpointBegin, execCheckpointBegin, State.ckBegin, if_neg (by rw [h]; exact Bool.false_ne_true)]
    · rw [exec_checkpointBegin, execCheckpointBegin, State.ckBegin_due h]
      exact ⟨_, rfl, rfl, rfl, fun d hd => s.paused_pauseAll true hd⟩
    · rw [exec_checkpointQuiesced, execCheckpointQuiesced, State.ckQuiesced_early h]
    · exact ⟨_, rfl, State.ckQuiesced_done hp hq⟩
    · rw [exec_checkpointStreamDone, execCheckpointStreamDone, State.ckDone, if_pos h]
    · obtain ⟨hsts, hphase, hpaused, hsaves⟩ := State.ckDone_resumes hp
      exact ⟨s.ckDone, rfl, hsts, hphase, hpaused, hsaves, fun hm hl hfit i hi => State.ckDone_region hp hm.1.1 hl hfit hi⟩
  case attest =>
    intro s v
    refine ⟨fun hv ha => ?_, fun h => ⟨fun hb => ?_, fun hb => ?_⟩⟩
    · rw [exec_attestation, execAttestation, State.attest_idle hv ha]
    · rw [exec_attestation, execAttestation, State.attest_asked h, if_neg (by rw [hb]; exact Bool.false_ne_true)]
    · rw [exec_attestation, execAttestation, State.attest_asked h, if_pos hb]
  case host =>
    intro s addr bs host pa served
    refine ⟨fun h => ?_, ?_, fun hb hl => ⟨fun ht => ⟨?_, ?_⟩, fun ht hs => ?_, fun hn hs => ?_⟩⟩
    · rw [exec_cxlCacheAccess, execCxlCacheAccess, State.hostAccess_write h]
    · rw [exec_cxlMemDuringReset, execCxlMemDuringReset, State.islandAccess_read]
    · rw [exec_cxlMemAccess, execCxlMemAccess, State.memAccess_open hl ht, State.hostAccess_write hb]
    · rw [exec_cxlMemAccess, execCxlMemAccess, State.memAccess_open hl ht, State.hostAccess_read hb]
    · rw [exec_cxlMemAccess, execCxlMemAccess, State.memAccess_selfRefresh ht hs, State.islandServe_write hl hb]
    · rw [exec_cxlMemDuringReset, execCxlMemDuringReset, State.islandAccess_inReset hn hs, State.islandServe_write hl hb]

end Sys2Proof.Machine
end

section
/-! PROOF. Rounding a value that a floating-point format holds (R24, R34). -/

namespace Sys2Proof.Machine

open Sys2Proof

/-- A magnitude in whole units of 2^q is rounded to itself. -/
theorem roundAt_of_le {q e : Int} (h : q ≤ e) (rm : Rm) (neg : Bool) (m : Nat) : roundAt rm neg m e q = (m * 2 ^ (e - q).toNat, false) :=
  if_pos h

namespace FloatFmt

variable {f : FloatFmt} {bits : Nat}

/-- A magnitude in the units of its own exponent, normal or at the least exponent, is kept by rounding. -/
theorem round_fin {m : Nat} {e : Int} (hm : m ≠ 0) (hlog : Nat.log2 m ≤ f.fbits) (he : 1 - (f.bias : Int) - f.fbits ≤ e)
    (hnorm : Nat.log2 m = f.fbits ∨ e = 1 - (f.bias : Int) - f.fbits)
    (hmag : (e - (1 - (f.bias : Int) - f.fbits)).toNat * 2 ^ f.fbits + m ≤ f.maxMag) (rm : Rm) (neg : Bool) :
    f.round rm (.fin neg m e) = (f.signed neg ((e - (1 - (f.bias : Int) - f.fbits)).toNat * 2 ^ f.fbits + m), fNone) := by
  have hq : max ((Nat.log2 m : Int) + e - f.fbits) (1 - (f.bias : Int) - f.fbits) = e := by omega
  unfold FloatFmt.round
  split
  · next h => cases h
  · next h => cases h
  · next h => exact absurd (FV.fin.inj h).2.1 hm
  · next h =>
    obtain ⟨rfl, rfl, rfl⟩ := FV.fin.inj h
    simp [hq, roundAt_of_le, Nat.not_lt.2 hmag]

/-- The exponent and fraction fields side by side are the bits below the sign. -/
theorem fields_eq_mod (f : FloatFmt) (bits : Nat) :
    bits / 2 ^ f.fbits % 2 ^ f.ebits * 2 ^ f.fbits + bits % 2 ^ f.fbits = bits % 2 ^ (f.fbits + f.ebits) := by
  rw [Nat.pow_add, Nat.mod_mul, Nat.mul_comm, Nat.add_comm]

/-- An encoding is its sign and its magnitude. -/
theorem signed_mod (h : bits < 2 ^ (f.fbits + f.ebits + 1)) :
    f.signed (bits / 2 ^ (f.fbits + f.ebits) % 2 == 1) (bits % 2 ^ (f.fbits + f.ebits)) = bits := by
  have hsplit := Nat.div_add_mod bits (2 ^ (f.fbits + f.ebits))
  have htop : bits / 2 ^ (f.fbits + f.ebits) < 2 := Nat.div_lt_of_lt_mul (by rwa [← Nat.pow_succ])
  unfold FloatFmt.signed
  generalize bits / 2 ^ (f.fbits + f.ebits) = t at *
  obtain rfl | rfl : t = 0 ∨ t = 1 := by omega
  · simpa using hsplit
  · simpa using hsplit

/-- The rounding of the exact value of an encoding that is no NaN gives the encoding, in a format whose infinities have the
largest exponent field. -/
theorem round_val (hinf : f.hasInf = true → f.maxMag + 1 = (2 ^ f.ebits - 1) * 2 ^ f.fbits)
    (hbits : bits < 2 ^ (f.fbits + f.ebits + 1)) (hnan : f.val bits ≠ .nan) (rm : Rm) : f.round rm (f.val bits) = (bits, fNone) := by
  have hfrac : bits % 2 ^ f.fbits < 2 ^ f.fbits := Nat.mod_lt _ (Nat.two_pow_pos _)
  have hexp : bits / 2 ^ f.fbits % 2 ^ f.ebits < 2 ^ f.ebits := Nat.mod_lt _ (Nat.two_pow_pos _)
  have hsigned := signed_mod hbits
  rw [← fields_eq_mod] at hsigned
  unfold FloatFmt.val at hnan ⊢
  dsimp only at hnan ⊢
  generalize bits % 2 ^ f.fbits = frac at *
  generalize bits / 2 ^ f.fbits % 2 ^ f.ebits = ef at *
  generalize (bits / 2 ^ (f.fbits + f.ebits) % 2 == 1) = neg at *
  by_cases hover : f.maxMag < ef * 2 ^ f.fbits + frac
  · rw [if_pos hover] at hnan ⊢
    by_cases hi : (f.hasInf && frac == 0) = true
    · obtain ⟨hhas, hzero⟩ : f.hasInf = true ∧ frac = 0 := by simpa using hi
      subst hzero
      have hmax := hinf hhas
      have hle : ef * 2 ^ f.fbits ≤ (2 ^ f.ebits - 1) * 2 ^ f.fbits := Nat.mul_le_mul_right _ (by omega)
      rw [if_pos hi, ← hsigned, show ef * 2 ^ f.fbits + 0 = f.maxMag + 1 by omega]
      simp [FloatFmt.round, FloatFmt.infBits, hhas]
    · rw [if_neg hi] at hnan
      exact absurd rfl hnan
  · have hmag := Nat.not_lt.1 hover
    rw [if_neg hover]
    by_cases hsub : ef = 0
    · subst hsub
      rw [if_pos rfl]
      by_cases hzero : frac = 0
      · subst hzero
        simpa [FloatFmt.round] using hsigned
      · have hlog : Nat.log2 frac ≤ f.fbits := Nat.le_of_lt ((Nat.log2_lt hzero).2 hfrac)
        rw [round_fin hzero hlog (Int.le_refl _) (.inr rfl) (by simpa using hmag)]
        simpa using hsigned
    · have hlog : Nat.log2 (2 ^ f.fbits + frac) = f.fbits :=
        (Nat.log2_eq_iff (by omega)).2 ⟨by omega, by rw [Nat.pow_succ]; omega⟩
      have hunits : ((ef : Int) - f.bias - f.fbits - (1 - (f.bias : Int) - f.fbits)).toNat * 2 ^ f.fbits + (2 ^ f.fbits + frac) =
          ef * 2 ^ f.fbits + frac := by
        rw [show ((ef : Int) - f.bias - f.fbits - (1 - (f.bias : Int) - f.fbits)).toNat = ef - 1 by omega, ← Nat.add_assoc,
          ← Nat.succ_mul, Nat.succ_eq_add_one, Nat.sub_add_cancel (by omega)]
      rw [if_neg hsub, round_fin (by omega) hlog.le (by omega) (.inl hlog) (by rw [hunits]; exact hmag), hunits, hsigned]

/-- What a NaN encoding looks like: a magnitude beyond the largest finite one that is no infinity. -/
theorem val_eq_nan (h : f.val bits = .nan) :
    f.maxMag < bits / 2 ^ f.fbits % 2 ^ f.ebits * 2 ^ f.fbits + bits % 2 ^ f.fbits ∧ ¬(f.hasInf = true ∧ bits % 2 ^ f.fbits = 0) := by
  unfold FloatFmt.val at h
  dsimp only at h
  split at h
  · next hover =>
    split at h
    · cases h
    · next hinf => exact ⟨hover, by simpa using hinf⟩
  · split at h <;> cases h

end FloatFmt

/-- A NaN of FP32 by the numbers in its exponent and fraction fields (R24). -/
theorem isNan32_iff (b : BitVec 32) : isNan32 b = true ↔ b.toNat / 2 ^ 23 % 2 ^ 8 = 255 ∧ b.toNat % 2 ^ 23 ≠ 0 := by
  simp [isNan32, BitVec.toNat_eq, Nat.shiftRight_eq_div_pow]

/-- An FP32 encoding that is no NaN has a value (R24). -/
theorem valF32_ne_nan {b : BitVec 32} (h : isNan32 b = false) : valF32 b ≠ .nan := by
  intro hval
  obtain ⟨hover, hfrac⟩ := FloatFmt.val_eq_nan hval
  have hexp : b.toNat / 2 ^ 23 % 2 ^ 8 < 2 ^ 8 := Nat.mod_lt _ (by decide)
  have hzero : b.toNat % 2 ^ 23 ≠ 0 := fun h0 => hfrac ⟨rfl, h0⟩
  have hmag : 0x7F7FFFFF < b.toNat / 2 ^ 23 % 2 ^ 8 * 2 ^ 23 + b.toNat % 2 ^ 23 := hover
  exact absurd ((isNan32_iff b).2 ⟨by omega, hzero⟩) (Bool.eq_false_iff.1 h)

/-- Settles O8: every FP32 encoding is a magnitude that the format holds, an infinity or a zero. -/
theorem roundingKeepsFloatValues : Obligations.RoundingKeepsFloatValues := by
  intro rm b h
  have hround : fmtF32.round rm (valF32 b) = (b.toNat, fNone) := FloatFmt.round_val (fun _ => rfl) b.isLt (valF32_ne_nan h) rm
  simp [roundF32, hround, fNone]

end Sys2Proof.Machine
end

section
/-! PROOF. What an instruction that may round under a pending `fmt` answers when no check of R88 stops it (R83, R88, R113, R125, R141). -/

namespace Sys2Proof.Machine

open Sys2Proof

variable {s : State} {cid : Nat} {c : Ctx}

/-- An unprivileged instruction that accepts what `fmt` left pending, and whose registers no older entry has still to write, does its
own part. -/
theorem runInstr_unstopped {accept : Prefix → Bool} {regs : List Reg} (h : s.At cid c) (hp : pfxCheck c.img accept = none)
    (hi : interlocked c.ring regs = false) (f : State → Nat → Ctx → Eff) :
    runInstr false accept regs f s = .next ((f s cid c).state cid c) := by
  unfold State.At at h
  simp [runInstr, h, hp, hi]

/-- An instruction on registers that rounds under `fmt` commits with its image. -/
theorem runRegs_rounding {regs : List Reg} (h : s.At cid c) (hp : pfxCheck c.img rmOnly = none) (hi : interlocked c.ring regs = false)
    {f : Image → Except FaultRec Image} {m : Image} (hf : f c.img = .ok m) : runRegs true regs f s = s.goes cid m := by
  rw [runRegs, if_pos rfl, runInstr_unstopped h hp hi]
  simp [hf, Eff.state, State.goes]

/-- A vector instruction that no check stops is dispatched when the ring has room. -/
theorem runRing_dispatched {accept : Prefix → Bool} {i : Instr} (h : s.At cid c) (hp : pfxCheck c.img accept = none)
    (hi : interlocked c.ring (ringRegs i) = false) (hr : s.Room c (vFields i)) (len : Nat) :
    runRing accept len i s = s.dispatched cid c i len := by
  obtain ⟨hroom, hheld⟩ := hr
  rw [runRing, runInstr_unstopped h hp hi]
  simp [hheld, Nat.not_le.2 hroom, Eff.state, State.dispatched, State.goes]

/-- A context that holds some registers holds those of them that an instruction names (R108). -/
theorem State.Room.subset {vs us : List Reg} (h : s.Room c vs) (hsub : us ⊆ vs) : s.Room c us := by
  obtain ⟨hroom, hheld⟩ := h
  refine ⟨hroom, ?_⟩
  simp only [Image.badV, List.find?_eq_none] at hheld ⊢
  exact fun r hr => hheld r (hsub hr)

/-- No x register, no interlock (R113). -/
@[simp] theorem interlocked_nil (ring : List RingEntry) : interlocked ring [] = false := by
  induction ring with
  | nil => rfl
  | cons e rest ih =>
    rw [interlocked, List.any_cons, ← interlocked, ih]
    cases ringWritesX e.instr <;> simp

/-- No flag changes no image (R37). -/
@[simp] theorem Image.orFlags_fNone (m : Image) : m.orFlags fNone = m := by
  simp [Image.orFlags, fNone]

@[simp] theorem rmUnder_none (rm : Rm) : rmUnder rm none = rm := rfl

/-- With no `fmt` pending an entry rounds under `status.RM` (R125). -/
theorem Image.pending?_of_pp {m : Image} (h : m.pp = false) : m.pending? = none := by simp [Image.pending?, h]

end Sys2Proof.Machine
end

section
/-! PROOF. Scalar FP32 instructions that never round, and the conversions (R38, R39, R127 to R129). -/

namespace Sys2Proof.Machine

open Sys2Proof

/-- An instruction that never rounds commits with its bits and flags. -/
theorem runFpBits_ready {s : State} {cid : Nat} {c : Ctx} {d : Reg} {srcs : List Reg} (h : s.Ready cid c (d :: srcs))
    (f : Image → Word × FFlags) :
    runFpBits d srcs f s = s.goes cid (((c.img.setX d (f c.img).1).orFlags (f c.img).2).next 4) :=
  runRegs_ready h false rfl

/-- One that sets no flag leaves `fpflags` as it was. -/
theorem runFpBits_quiet {s : State} {cid : Nat} {c : Ctx} {d : Reg} {srcs : List Reg} (h : s.Ready cid c (d :: srcs))
    (f : Image → Word) : runFpBits d srcs (fun m => (f m, fNone)) s = s.goes cid ((c.img.setX d (f c.img)).next 4) := by
  rw [runFpBits_ready h, Image.orFlags_fNone]

/-- A comparison of a NaN (R127). -/
theorem fpCond_nan {x y : BitVec 32} (h : isNan32 x = true ∨ isNan32 y = true) (cc : FpCc) :
    fpCond cc x y = (cc == .ne || cc == .un, if cc = .lt ∨ cc = .le ∨ cc = .gt ∨ cc = .ge then 0b10000#5 else 0#5) := by
  have hor : (isNan32 x || isNan32 y) = true := by simpa using h
  cases cc <;> simp [fpCond, hor, fNone, fNV]

/-- A comparison of two numbers sets no flag (R127). -/
theorem fpCond_flags {x y : BitVec 32} (hx : isNan32 x = false) (hy : isNan32 y = false) (cc : FpCc) : (fpCond cc x y).2 = 0#5 := by
  simp [fpCond, hx, hy, fNone]

/-- Settles O6: each instruction is `runFpBits` of the bits that the statement names. -/
theorem scalarFloatBitResults : Obligations.ScalarFloatBitResults := by
  intro s cid c d a b h
  refine ⟨?_, ?_, ?_, ?_, ?_, fun cc => ?_, fun cc hx hy => fpCond_flags hx hy cc, fun cc hnan => fpCond_nan hnan cc⟩
  · exact runFpBits_quiet h fun m => (minF32 (m.getF a) (m.getF b)).setWidth 64
  · exact runFpBits_quiet h fun m => (maxF32 (m.getF a) (m.getF b)).setWidth 64
  · exact runFpBits_quiet h fun m => (BitVec.ofBool ((m.getF b).getLsbD 31) ++ (m.getF a).extractLsb' 0 31).setWidth 64
  · exact runFpBits_quiet h fun m => (BitVec.ofBool (!(m.getF b).getLsbD 31) ++ (m.getF a).extractLsb' 0 31).setWidth 64
  · exact runFpBits_quiet h fun m =>
      (BitVec.ofBool ((m.getF a).getLsbD 31 != (m.getF b).getLsbD 31) ++ (m.getF a).extractLsb' 0 31).setWidth 64
  · exact runFpBits_ready h fun m =>
      (if (fpCond cc (m.getF a) (m.getF b)).1 then 1 else 0, (fpCond cc (m.getF a) (m.getF b)).2)

section

variable {s : State} {cid : Nat} {c : Ctx} {d a : Reg} (h : s.At cid c) (hp : pfxCheck c.img rmOnly = none)
  (hi : interlocked c.ring [d, a] = false)

include h hp hi

/-- A conversion of FP32 to `.i32` commits with its word sign-extended, and its flags (R129). -/
theorem runToInt_signed :
    let r := convert .i32 .f32 (rmUnder c.img.rm c.img.pending?) ((c.img.getX a).toNat % 2 ^ 32)
    runToInt .i32 d a s = s.goes cid (((c.img.setX d (BitVec.ofInt 64 (BitVec.ofNat 32 r.1).toInt)).orFlags r.2).next 4) := by
  rw [← BitVec.toNat_setWidth]
  exact runRegs_rounding h hp hi rfl

/-- A conversion of FP32 to another integer format commits with its bits zero-extended, and its flags (R129). -/
theorem runToInt_unsigned {dst : Fmt} (hd : dst ≠ .i32) :
    let r := convert dst .f32 (rmUnder c.img.rm c.img.pending?) ((c.img.getX a).toNat % 2 ^ 32)
    runToInt dst d a s = s.goes cid (((c.img.setX d (BitVec.ofNat 64 r.1)).orFlags r.2).next 4) := by
  rw [← BitVec.toNat_setWidth, runToInt]
  simp only [if_neg hd]
  exact runRegs_rounding h hp hi rfl

/-- A conversion of an integer to FP32 commits with its bits and flags (R129). -/
theorem runOfInt_commits {src : Fmt} :
    let r := convert .f32 src (rmUnder c.img.rm c.img.pending?) (c.img.getX a).toNat
    runOfInt src d a s = s.goes cid (((c.img.setX d (BitVec.ofNat 64 r.1)).orFlags r.2).next 4) :=
  runRegs_rounding h hp hi rfl

end

/-- Settles O7: each `fcvt` is one of the two conversions, at its format. The statement's abbreviations are known by their equations,
so that no check evaluates `convert` at a format. -/
theorem scalarConversionResults : Obligations.ScalarConversionResults := by
  intro s cid c d a h hp hi m rm toInt ofInt gives
  have hto : ∀ f, toInt f = convert f .f32 rm ((m.getX a).toNat % 2 ^ 32) := fun _ => rfl
  have hof : ∀ f, ofInt f = convert .f32 f rm (m.getX a).toNat := fun _ => rfl
  have hgives : ∀ w fl, gives w fl = s.goes cid (((m.setX d w).orFlags fl).next 4) := fun _ _ => rfl
  clear_value gives toInt ofInt
  simp only [hto, hof, hgives]
  refine ⟨?_, ?_, ?_, ?_, ?_, ?_, ?_, ?_⟩
  · rw [exec_fcvtI32F32]; exact runToInt_signed h hp hi
  · rw [exec_fcvtN32F32]; exact runToInt_unsigned h hp hi (by decide)
  · rw [exec_fcvtI64F32]; exact runToInt_unsigned h hp hi (by decide)
  · rw [exec_fcvtN64F32]; exact runToInt_unsigned h hp hi (by decide)
  · rw [exec_fcvtF32I32]; exact runOfInt_commits h hp hi
  · rw [exec_fcvtF32N32]; exact runOfInt_commits h hp hi
  · rw [exec_fcvtF32I64]; exact runOfInt_commits h hp hi
  · rw [exec_fcvtF32N64]; exact runOfInt_commits h hp hi

end Sys2Proof.Machine
end

section
/-! PROOF. What a vector instruction writes lane by lane under a mask (R89, R90, R142). -/

namespace Sys2Proof.Machine

open Sys2Proof

/-- Digit i of a number that is written out by its digits, the lowest first. -/
theorem foldr_digit {α : Type} {b : Nat} {g : α → Nat} (hg : ∀ x, g x < b) (ls : List α) (i : Nat) :
    ls.foldr (fun x acc => acc * b + g x) 0 / b ^ i % b = (ls.map g).getD i 0 := by
  induction ls generalizing i with
  | nil => simp
  | cons x xs ih =>
    have hpos : 0 < b := Nat.zero_lt_of_lt (hg x)
    cases i with
    | zero => simp [Nat.mod_eq_of_lt (hg x)]
    | succ i =>
      have hdiv : (xs.foldr (fun x acc => acc * b + g x) 0 * b + g x) / b = xs.foldr (fun x acc => acc * b + g x) 0 := by
        rw [Nat.mul_comm, Nat.mul_add_div hpos, Nat.div_eq_of_lt (hg x), Nat.add_zero]
      rw [List.foldr_cons, Nat.pow_succ', ← Nat.div_div_eq_div_mul, hdiv, ih]
      simp

/-- A field of a number survives the cutting of the number behind it. -/
theorem mod_two_pow_field (n : Nat) {s w t : Nat} (h : s + w ≤ t) : n % 2 ^ t / 2 ^ s % 2 ^ w = n / 2 ^ s % 2 ^ w := by
  obtain ⟨r, rfl⟩ := Nat.exists_eq_add_of_le h
  rw [Nat.add_assoc, Nat.pow_add, Nat.mod_mul_right_div_self, Nat.pow_add, Nat.mod_mod_of_dvd _ (Nat.dvd_mul_right _ _)]

/-- A field of a bit vector is that of the number it was made of. -/
theorem toNat_ofNat_field (n : Nat) {s w t : Nat} (h : s + w ≤ t) : (BitVec.ofNat t n).toNat / 2 ^ s % 2 ^ w = n / 2 ^ s % 2 ^ w := by
  rw [BitVec.toNat_ofNat, mod_two_pow_field n h]

/-- A lane of a vector that is put together from lanes. -/
theorem lane_ofLanes (ls : List (BitVec 32)) {i : Nat} (h : i < 16) : lane (ofLanes ls) i = ls.getD i 0 := by
  have hfit : 32 * i + 32 ≤ 512 := by omega
  have hlane := foldr_digit (b := 2 ^ 32) (g := BitVec.toNat) (fun w => w.isLt) ls i
  apply BitVec.eq_of_toNat_eq
  rw [lane, ofLanes, BitVec.extractLsb'_toNat, Nat.shiftRight_eq_div_pow, toNat_ofNat_field _ hfit,
    Nat.pow_mul, hlane, List.getD_eq_getElem?_getD, List.getD_eq_getElem?_getD, List.getElem?_map]
  cases ls[i]? <;> rfl

@[simp] theorem Image.getV_setV (m : Image) (d : Reg) (v : BitVec 512) : (m.setV d v).getV d = v := by
  simp [Image.getV, Image.setV]

theorem Image.getV_setV_ne (m : Image) {d r : Reg} (h : r ≠ d) (v : BitVec 512) : (m.setV d v).getV r = m.getV r := by
  have hne : d.toNat ≠ r.toNat := fun he => h (BitVec.eq_of_toNat_eq he.symm)
  simp [Image.getV, Image.setV, Vector.getElem_set_ne, hne]

@[simp] theorem Image.getV_orFlags (m : Image) (f : FFlags) (r : Reg) : (m.orFlags f).getV r = m.getV r := rfl

/-- A fold over optional values that passes over the absent ones is a fold over those that are there. -/
theorem foldl_present {α β γ : Type} {g : γ → Option β → γ} (hg : ∀ acc, g acc none = acc) (p : α → Bool) (f : α → β) (l : List α)
    (acc : γ) :
    (l.map fun i => if p i then some (f i) else none).foldl g acc = (l.filter p).foldl (fun acc i => g acc (some (f i))) acc := by
  induction l generalizing acc with
  | nil => rfl
  | cons i rest ih => cases hp : p i <;> simp [hp, hg, ih]

/-- The values of a vector write, lane by lane (R142). -/
theorem vecWrite_laneWise (m : Image) (k : Mask) (d : Reg) (f : Nat → BitVec 32 × FFlags) : LaneWise m (vecWrite m k d f) k d f := by
  refine ⟨fun i hi => ?_, fun r hr => ?_, ?_, rfl⟩
  · rw [vecWrite, Image.getV_orFlags, Image.getV_setV, lane_ofLanes _ hi]
    cases ha : activeLane m k i <;> simp [hi, ha]
  · rw [vecWrite, Image.getV_orFlags, Image.getV_setV_ne m hr]
  · simp only [vecWrite, Image.orFlags, Image.setV, laneFlags]
    rw [foldl_present (fun _ => rfl)]
    rfl

/-- Lanes that are written alike where they are active. -/
theorem LaneWise.congr {m n : Image} {k : Mask} {d : Reg} {f g : Nat → BitVec 32 × FFlags} (h : LaneWise m n k d f)
    (hfg : ∀ i, i < 16 → activeLane m k i = true → f i = g i) : LaneWise m n k d g := by
  obtain ⟨hlanes, hregs, hflags, hrest⟩ := h
  refine ⟨fun i hi => ?_, hregs, ?_, hrest⟩
  · rw [hlanes i hi]
    by_cases ha : activeLane m k i = true
    · rw [if_pos ha, if_pos ha, hfg i hi ha]
    · rw [if_neg ha, if_neg ha]
  · rw [hflags, laneFlags, laneFlags]
    congr 2
    refine List.foldl_ext _ _ _ fun acc i hi => ?_
    obtain ⟨hrange, ha⟩ := List.mem_filter.1 hi
    rw [hfg i (List.mem_range.1 hrange) ha]

/-- Lanes that are written with no flag. -/
theorem LaneWise.bitsWise {m n : Image} {k : Mask} {d : Reg} {f : Nat → BitVec 32} (h : LaneWise m n k d fun i => (f i, fNone)) :
    BitsWise m n k d f := by
  obtain ⟨hlanes, hregs, hflags, hrest⟩ := h
  refine ⟨hlanes, hregs, ?_⟩
  have hnone : laneFlags m k (fun i => (f i, fNone)) = 0#5 := by simp [laneFlags, fNone]
  have hkept : n.fpflags = m.fpflags := by simpa [hnone] using hflags
  rw [hkept] at hrest
  exact hrest

end Sys2Proof.Machine
end

section
/-! PROOF. Reductions and scans: the tree and the running values as folds, minimum and maximum as choices by a key (R39, R41, R42,
R149). -/

namespace Sys2Proof.Machine

open Sys2Proof

/-- The active lanes of a register among the lowest j, in order. -/
def lanesBelow (m : Image) (k : Mask) (a : Reg) (j : Nat) : List (BitVec 32) :=
  ((List.range j).filter (activeLane m k)).map (lane (m.getV a))

section

variable {α : Type} {op : α → α → α}

/-- The values of a list combined from the first on; an empty list has no value (R41, R42). -/
def combined (op : α → α → α) (ls : List α) : Option α :=
  match ls with
  | [] => none
  | w :: rest => some (rest.foldl op w)

@[simp] theorem combined_nil : combined op [] = none := rfl

@[simp] theorem combined_cons (w : α) (rest : List α) : combined op (w :: rest) = some (rest.foldl op w) := rfl

/-- The first two values may be combined beforehand. -/
theorem combined_cons_cons (w u : α) (rest : List α) : combined op (w :: u :: rest) = combined op (op w u :: rest) := rfl

@[simp] theorem combOpt_none_left (y : Option α) : combOpt op none y = y := rfl

@[simp] theorem combOpt_none_right (x : Option α) : combOpt op x none = x := by cases x <;> rfl

theorem combOpt_assoc [Std.Associative op] (x y z : Option α) : combOpt op (combOpt op x y) z = combOpt op x (combOpt op y z) := by
  cases x with
  | none => rfl
  | some a =>
    cases y with
    | none => simp
    | some b =>
      cases z with
      | none => simp
      | some c => exact congrArg some (Std.Associative.assoc a b c)

/-- One level of the tree halves the list. -/
theorem length_pairUp (op : α → α → α) (ls : List (Option α)) : (pairUp op ls).length = (ls.length + 1) / 2 := by
  induction ls using pairUp.induct with
  | case1 x y rest ih => simp only [pairUp, List.length_cons, ih]; omega
  | case2 rest h =>
    match rest, h with
    | [], _ => simp [pairUp]
    | [_], _ => simp [pairUp]
    | x :: y :: rest, h => exact absurd rfl (h x y rest)

/-- One level of the tree of an associative operation changes no total. -/
theorem foldr_pairUp [Std.Associative op] (ls : List (Option α)) :
    (pairUp op ls).foldr (combOpt op) none = ls.foldr (combOpt op) none := by
  induction ls using pairUp.induct with
  | case1 x y rest ih => simp only [pairUp, List.foldr_cons, ih, combOpt_assoc]
  | case2 rest h =>
    match rest, h with
    | [], _ => rfl
    | [_], _ => rfl
    | x :: y :: rest, h => exact absurd rfl (h x y rest)

/-- The tree of sixteen lanes under an associative operation is the total in lane order (R41). -/
theorem treeOf_eq_foldr [Std.Associative op] {ls : List (Option α)} (h : ls.length = 16) :
    treeOf op ls = ls.foldr (combOpt op) none := by
  have hone : (pairUp op (pairUp op (pairUp op (pairUp op ls)))).length = 1 := by simp [length_pairUp, h]
  obtain ⟨x, hx⟩ := List.length_eq_one_iff.1 hone
  have htotal : [x].foldr (combOpt op) none = ls.foldr (combOpt op) none := by simp only [← hx, foldr_pairUp]
  simpa [treeOf, hx] using htotal

/-- The total of optional values is that of the values that are there. -/
theorem foldr_combOpt [Std.Associative op] (p : Nat → Bool) (f : Nat → α) (l : List Nat) :
    (l.map fun i => if p i then some (f i) else none).foldr (combOpt op) none = combined op ((l.filter p).map f) := by
  induction l with
  | nil => rfl
  | cons i rest ih =>
    cases hp : p i with
    | false => simpa [hp] using ih
    | true =>
      simp only [List.map_cons, List.foldr_cons, ih, hp, if_true, List.filter_cons_of_pos, combined_cons]
      cases (rest.filter p).map f with
      | nil => rfl
      | cons w ws => exact congrArg some List.foldl_assoc.symm

/-- The tree over the active lanes of a register (R41). -/
theorem treeOf_activeLanes [Std.Associative op] (m : Image) (k : Mask) (a : Reg) (f : BitVec 32 → α) :
    treeOf op (activeLanes m k a f) = combined op ((lanesBelow m k a 16).map f) := by
  rw [treeOf_eq_foldr (by simp [activeLanes]), activeLanes, foldr_combOpt, lanesBelow, List.map_map]
  rfl

/-- A total from the neutral value on. -/
theorem combined_getD {z : α} (hz : ∀ w, op z w = w) (ls : List α) : (combined op ls).getD z = ls.foldl op z := by
  cases ls with
  | nil => rfl
  | cons w rest => simp [hz]

/-- The values of a list that are there. -/
theorem filterMap_present (p : Nat → Bool) (f : Nat → α) (l : List Nat) :
    (l.map fun i => if p i then some (f i) else none).filterMap id = (l.filter p).map f := by
  induction l with
  | nil => rfl
  | cons i rest ih => cases hp : p i <;> simpa [hp] using ih

/-- A running value of a scan is the total so far (R42). -/
theorem scanFrom_getD {ls : List (Option α)} {j : Nat} {x : α} (h : ls.getD j none = some x) (acc : Option α) :
    (scanFrom op acc ls).getD j none = combined op (acc.toList ++ (ls.take (j + 1)).filterMap id) := by
  induction ls generalizing acc j with
  | nil => simp at h
  | cons y rest ih =>
    cases y with
    | none =>
      cases j with
      | zero => simp at h
      | succ j => simpa [scanFrom] using ih (by simpa using h) acc
    | some y =>
      cases j with
      | zero => cases acc <;> simp [scanFrom]
      | succ j =>
        have htail := ih (by simpa using h) (some (match acc with | some w => op w y | none => y))
        cases acc <;> simpa [scanFrom] using htail

/-- The running value of an active lane is the total of the active lanes up to it (R42). -/
theorem scanFrom_activeLanes {m : Image} {k : Mask} {j : Nat} (hj : j < 16) (ha : activeLane m k j = true) (a : Reg)
    (f : BitVec 32 → α) :
    (scanFrom op none (activeLanes m k a f)).getD j none =
      combined op ((lanesBelow m k a (j + 1)).map f) := by
  have hlane : (activeLanes m k a f).getD j none = some (f (lane (m.getV a) j)) := by simp [activeLanes, hj, ha]
  rw [scanFrom_getD hlane, activeLanes, ← List.map_take, List.take_range, Nat.min_eq_left hj, filterMap_present, lanesBelow, List.map_map]
  rfl

end

/-! Minimum and maximum choose one of their operands by a key, and an FP32 NaN among the operands gives the canonical one (R39). -/

section

variable {α β : Type} [LinearOrder β]

/-- The operand with the smaller key; the first of two with one key. -/
def leastBy (key : α → β) (x y : α) : α := if key x ≤ key y then x else y

/-- The operand with the larger key; the second of two with one key. -/
def greatestBy (key : α → β) (x y : α) : α := if key x ≤ key y then y else x

theorem leastBy_cases (key : α → β) (x y : α) :
    leastBy key x y = x ∧ key x ≤ key y ∨ leastBy key x y = y ∧ key y ≤ key x := by
  by_cases h : key x ≤ key y
  · exact .inl ⟨if_pos h, h⟩
  · exact .inr ⟨if_neg h, (not_le.1 h).le⟩

theorem greatestBy_cases (key : α → β) (x y : α) :
    greatestBy key x y = x ∧ key y ≤ key x ∨ greatestBy key x y = y ∧ key x ≤ key y := by
  by_cases h : key x ≤ key y
  · exact .inr ⟨if_pos h, h⟩
  · exact .inl ⟨if_neg h, (not_le.1 h).le⟩

theorem leastBy_assoc (key : α → β) : Std.Associative (leastBy key) := by
  refine ⟨fun x y z => ?_⟩
  by_cases hxy : key x ≤ key y <;> by_cases hyz : key y ≤ key z
  · simp [leastBy, hxy, hyz, hxy.trans hyz]
  · simp [leastBy, hxy, hyz]
  · simp [leastBy, hxy, hyz]
  · simp [leastBy, hxy, hyz, ((not_le.1 hyz).trans (not_le.1 hxy)).not_ge]

/-- The larger of two is the smaller of the two, the other way round, in the reverse order. -/
theorem greatestBy_assoc (key : α → β) : Std.Associative (greatestBy key) :=
  ⟨fun x y z => ((leastBy_assoc fun u => OrderDual.toDual (key u)).assoc z y x).symm⟩

end

theorem vminI_assoc (nat : Bool) : Std.Associative (vminI nat) := leastBy_assoc (laneInt nat)

theorem vmaxI_assoc (nat : Bool) : Std.Associative (vmaxI nat) := greatestBy_assoc (laneInt nat)

/-- An operation that chooses an operand which stands in a relation to the other chooses one of a list that stands in it to all. -/
theorem combined_chosen {α : Type} {op : α → α → α} {r : α → α → Prop} (hrefl : ∀ x, r x x)
    (htrans : ∀ x y z, r x y → r y z → r x z) (hop : ∀ x y, op x y = x ∧ r x y ∨ op x y = y ∧ r y x) {ls : List α} (h : ls ≠ []) :
    ∃ w ∈ ls, (∀ u ∈ ls, r w u) ∧ combined op ls = some w := by
  obtain ⟨v, rest, rfl⟩ := List.exists_cons_of_ne_nil h
  clear h
  induction rest generalizing v with
  | nil => exact ⟨v, by simp, by simpa using hrefl v, rfl⟩
  | cons u rest ih =>
    obtain ⟨w, hmem, hall, hw⟩ := ih (op v u)
    have hbest : r w (op v u) := hall _ List.mem_cons_self
    have hrest : ∀ t ∈ rest, r w t := fun t ht => hall t (List.mem_cons_of_mem _ ht)
    rcases hop v u with ⟨ho, hle⟩ | ⟨ho, hle⟩
    · rw [ho] at hmem hbest
      refine ⟨w, ((List.sublist_cons_self u rest).cons_cons v).subset hmem, ?_, hw⟩
      simpa [hbest, htrans _ _ _ hbest hle] using hrest
    · rw [ho] at hmem hbest
      refine ⟨w, List.mem_cons_of_mem _ hmem, ?_, hw⟩
      simpa [hbest, htrans _ _ _ hbest hle] using hrest

/-- The canonical NaN where an operand is a NaN, else what an operation gives (R39). -/
def nanOr (op : BitVec 32 → BitVec 32 → BitVec 32) (x y : BitVec 32) : BitVec 32 :=
  if isNan32 x || isNan32 y then qnan32 else op x y

theorem minF32_eq : minF32 = nanOr (leastBy fun w => (orderedKey w).toNat) := by
  funext x y
  simp only [minF32, nanOr, leastBy, BitVec.le_def]

theorem maxF32_eq : maxF32 = nanOr (greatestBy fun w => (orderedKey w).toNat) := by
  funext x y
  simp only [maxF32, nanOr, greatestBy, BitVec.le_def]

section

variable {op : BitVec 32 → BitVec 32 → BitVec 32}

theorem nanOr_of_nan {x y : BitVec 32} (h : isNan32 x = true ∨ isNan32 y = true) : nanOr op x y = qnan32 :=
  if_pos (by simpa using h)

theorem nanOr_of_numbers {x y : BitVec 32} (hx : isNan32 x = false) (hy : isNan32 y = false) : nanOr op x y = op x y := by
  simp [nanOr, hx, hy]

@[simp] theorem isNan32_qnan32 : isNan32 qnan32 = true := by decide

theorem isNan32_nanOr (hop : ∀ x y, op x y = x ∨ op x y = y) (x y : BitVec 32) :
    isNan32 (nanOr op x y) = (isNan32 x || isNan32 y) := by
  by_cases h : isNan32 x = true ∨ isNan32 y = true
  · rw [nanOr_of_nan h, isNan32_qnan32]
    simpa using h
  · obtain ⟨hx, hy⟩ : isNan32 x = false ∧ isNan32 y = false := by simpa using h
    rcases hop x y with ho | ho <;> simp [nanOr_of_numbers hx hy, ho, hx, hy]

theorem nanOr_assoc (hop : ∀ x y, op x y = x ∨ op x y = y) (hassoc : Std.Associative op) : Std.Associative (nanOr op) := by
  refine ⟨fun x y z => ?_⟩
  by_cases h : (isNan32 x || isNan32 y || isNan32 z) = true
  · rw [nanOr_of_nan (by simpa [isNan32_nanOr hop] using h), nanOr_of_nan (by simpa [isNan32_nanOr hop, or_assoc] using h)]
  · obtain ⟨⟨hx, hy⟩, hz⟩ : (isNan32 x = false ∧ isNan32 y = false) ∧ isNan32 z = false := by simpa using h
    have hxy : isNan32 (nanOr op x y) = false := by simp [isNan32_nanOr hop, hx, hy]
    have hyz : isNan32 (nanOr op y z) = false := by simp [isNan32_nanOr hop, hy, hz]
    rw [nanOr_of_numbers hxy hz, nanOr_of_numbers hx hyz, nanOr_of_numbers hx hy, nanOr_of_numbers hy hz, hassoc.assoc]

/-- Two or more values with a NaN among them combine to the canonical NaN. -/
theorem combined_nanOr_nan {ls : List (BitVec 32)} (hlen : 2 ≤ ls.length) (hnan : ls.any isNan32 = true) :
    combined (nanOr op) ls = some qnan32 := by
  obtain ⟨w, u, rest, rfl⟩ : ∃ w u rest, ls = w :: u :: rest := by
    match ls, hlen with
    | w :: u :: rest, _ => exact ⟨w, u, rest, rfl⟩
  clear hlen
  induction rest generalizing w u with
  | nil => exact congrArg some (nanOr_of_nan (by simpa using hnan))
  | cons v rest ih =>
    rw [combined_cons_cons]
    refine ih (nanOr op w u) v ?_
    by_cases h : isNan32 w = true ∨ isNan32 u = true
    · simp [nanOr_of_nan h]
    · obtain ⟨hw, hu⟩ : isNan32 w = false ∧ isNan32 u = false := by simpa using h
      have htail : (v :: rest).any isNan32 = true := by simpa [hw, hu] using hnan
      rw [List.any_cons, htail, Bool.or_true]

/-- Numbers combine as if there were no NaN. -/
theorem combined_nanOr_numbers (hop : ∀ x y, op x y = x ∨ op x y = y) {ls : List (BitVec 32)} (hnum : ls.any isNan32 = false) :
    combined (nanOr op) ls = combined op ls := by
  cases ls with
  | nil => rfl
  | cons w rest =>
    refine congrArg some ?_
    induction rest generalizing w with
    | nil => rfl
    | cons u rest ih =>
      obtain ⟨hw, hu, hrest⟩ : isNan32 w = false ∧ isNan32 u = false ∧ rest.any isNan32 = false := by simpa using hnum
      have hwu : isNan32 (op w u) = false := by rcases hop w u with ho | ho <;> simp [ho, hw, hu]
      rw [List.foldl_cons, List.foldl_cons, nanOr_of_numbers hw hu]
      exact ih (op w u) (by simp [hwu, hrest])

end

end Sys2Proof.Machine
end

section
/-! PROOF. What reductions and scans write (R41, R42, R149). -/

namespace Sys2Proof.Machine

open Sys2Proof

section

variable (m : Image) (k : Mask) (d a : Reg)

/-- A sum of signed lanes is exact before it is wrapped (R149). -/
theorem redAdd_i32 (rm : Rm) :
    redAdd .i32 rm m k a = (BitVec.ofInt 64 ((lanesBelow m k a 16).map BitVec.toInt).sum, fNone) := by
  rw [redAdd, treeOf_activeLanes, combined_getD Int.zero_add, ← List.sum_eq_foldl]
  rfl

/-- A sum of natural lanes is exact before it is wrapped (R149). -/
theorem redAdd_n32 (rm : Rm) :
    redAdd .n32 rm m k a = (BitVec.ofNat 64 ((lanesBelow m k a 16).map BitVec.toNat).sum, fNone) := by
  rw [redAdd, treeOf_activeLanes, combined_getD Int.zero_add, ← List.sum_eq_foldl, ← BitVec.ofInt_natCast, Nat.cast_list_sum,
    List.map_map]
  rfl

/-- An FP32 sum is the tree's, with its flags; +0 where no lane is active (R149). -/
theorem redAdd_f32 (rm : Rm) :
    redAdd .f32 rm m k a =
      ((treeOf (addLanes rm) (activeLanes m k a fun w => (w, 0#5))).map fun r => (r.1.setWidth 64, r.2)).getD (0, 0#5) := by
  unfold redAdd fNone
  dsimp only
  cases treeOf (addLanes rm) (activeLanes m k a fun w => (w, 0#5)) <;> rfl

/-- The tree of an associative operation on lanes, with the value of an absent lane. -/
theorem treeOf_lanes {op : BitVec 32 → BitVec 32 → BitVec 32} (hop : Std.Associative op) (z : BitVec 32) :
    (treeOf op (activeLanes m k a id)).getD z = (combined op (lanesBelow m k a 16)).getD z := by
  rw [treeOf_activeLanes, List.map_id]

/-- A bitwise reduction starts from the neutral value (R149). -/
theorem redBits_eq {op : BitVec 32 → BitVec 32 → BitVec 32} (hop : Std.Associative op) {z : BitVec 32} (hz : ∀ w, op z w = w) :
    redBits op z m k a = ((lanesBelow m k a 16).foldl op z).setWidth 64 := by
  rw [redBits, treeOf_lanes m k a hop, combined_getD hz]

/-- An FP32 extreme (R39, R149): the absent lane's value, the one lane as it is, the canonical NaN, or a lane that is as far as all. -/
theorem treeOf_extreme {op : BitVec 32 → BitVec 32 → BitVec 32} {r : BitVec 32 → BitVec 32 → Prop} (hassoc : Std.Associative op)
    (hrefl : ∀ x, r x x) (htrans : ∀ x y z, r x y → r y z → r x z) (hop : ∀ x y, op x y = x ∧ r x y ∨ op x y = y ∧ r y x)
    (z : BitVec 32) :
    let on := lanesBelow m k a 16
    let v := (treeOf (nanOr op) (activeLanes m k a id)).getD z
    (on = [] → v = z) ∧ (∀ w, on = [w] → v = w) ∧ (2 ≤ on.length → on.any isNan32 = true → v = qnan32) ∧
      (2 ≤ on.length → on.any isNan32 = false → ∃ w ∈ on, (∀ u ∈ on, r w u) ∧ v = w) := by
  have hpick : ∀ x y, op x y = x ∨ op x y = y := fun x y => (hop x y).imp And.left And.left
  intro on v
  have hv : v = (combined (nanOr op) on).getD z := treeOf_lanes m k a (nanOr_assoc hpick hassoc) z
  refine ⟨fun h => ?_, fun w h => ?_, fun hlen hnan => ?_, fun hlen hnum => ?_⟩
  · rw [hv, h]; rfl
  · rw [hv, h]; rfl
  · rw [hv, combined_nanOr_nan hlen hnan]; rfl
  · obtain ⟨w, hmem, hall, hw⟩ := combined_chosen hrefl htrans hop (List.ne_nil_of_length_pos (by omega : 0 < on.length))
    refine ⟨w, hmem, hall, ?_⟩
    rw [hv, combined_nanOr_numbers hpick hnum, hw]
    rfl

/-- A scan writes to each active lane the total of the active lanes up to it (R42, R149). -/
theorem vscan_laneWise (op : BitVec 32 × FFlags → BitVec 32 × FFlags → BitVec 32 × FFlags) :
    LaneWise m (vscan m k d a op) k d fun j =>
      (combined op ((lanesBelow m k a (j + 1)).map fun w => (w, fNone))).getD (0, fNone) := by
  refine (vecWrite_laneWise m k d _).congr fun j hj ha => ?_
  rw [scanFrom_activeLanes hj ha]

/-- A total without flags. -/
theorem combined_scanBits (op : BitVec 32 → BitVec 32 → BitVec 32) (ls : List (BitVec 32)) :
    combined (scanBits op) (ls.map fun w => (w, fNone)) = (combined op ls).map fun w => (w, fNone) := by
  cases ls with
  | nil => rfl
  | cons w rest =>
    refine congrArg some ?_
    induction rest generalizing w with
    | nil => rfl
    | cons u rest ih => exact ih (op w u)

/-- A scan without flags. -/
theorem vscan_bitsWise (op : BitVec 32 → BitVec 32 → BitVec 32) :
    BitsWise m (vscan m k d a (scanBits op)) k d fun j => (combined op (lanesBelow m k a (j + 1))).getD 0 := by
  refine ((vscan_laneWise m k d a (scanBits op)).congr fun j _ _ => ?_).bitsWise
  rw [combined_scanBits]
  cases combined op (lanesBelow m k a (j + 1)) <;> rfl

end

/-- Settles O22: the tree of an associative operation and the running values of a scan are both the active lanes combined in order. -/
theorem vectorReductionAndScanResults : Obligations.VectorReductionAndScanResults := by
  intro s cid c ty d a k hready hroom m rm on upto runs after tree fold
  obtain ⟨hat, hpp, hfree⟩ := hready
  have hred : ∀ (accept : Prefix → Bool) {i : Instr}, ringRegs i = [d] → vFields i = [a] →
      runRing accept 8 i s = s.dispatched cid c i 8 := fun accept i hx hv =>
    runRing_dispatched hat (pfxCheck_free hpp accept) (hx ▸ hfree) (hv ▸ hroom.subset (by simp)) 8
  have hscan : ∀ (accept : Prefix → Bool) {i : Instr}, ringRegs i = [] → vFields i = [d, a] →
      runRing accept 8 i s = s.dispatched cid c i 8 := fun accept i hx hv =>
    runRing_dispatched hat (pfxCheck_free hpp accept) (hx ▸ interlocked_nil _) (hv ▸ hroom) 8
  have hfold : ∀ op z ls, fold op z ls = (combined op ls).getD z := by
    intro op z ls
    cases ls <;> rfl
  have hrm : rmUnder c.img.rm c.img.pending? = rm := by rw [Image.pending?_of_pp hpp, rmUnder_none]
  have hadd : ∀ ty, after (.vredAdd ty d a k) = (m.setX d (redAdd ty rm m k a).1).orFlags (redAdd ty rm m k a).2 := by
    intro ty
    rw [← hrm]
    rfl
  have hmin : ∀ ty, after (.vredMin ty d a k) = m.setX d (redMin ty m k a) := fun _ => rfl
  have hmax : ∀ ty, after (.vredMax ty d a k) = m.setX d (redMax ty m k a) := fun _ => rfl
  have hand : after (.vredAnd d a k) = m.setX d (redBits (· &&& ·) 0xFFFFFFFF m k a) := rfl
  have hor : after (.vredOr d a k) = m.setX d (redBits (· ||| ·) 0 m k a) := rfl
  have hxor : after (.vredXor d a k) = m.setX d (redBits (· ^^^ ·) 0 m k a) := rfl
  have hscanAdd : ty ≠ .f32 → after (.vscanAdd ty d a k) = vscan m k d a (scanBits (· + ·)) := fun h => if_neg h
  have hscanAddF : after (.vscanAdd .f32 d a k) = vscan m k d a (addLanes rm) := by
    rw [← hrm]
    rfl
  have hscanMin : after (.vscanMin ty d a k) = vscan m k d a (scanBits (minLane ty)) := rfl
  have hscanMax : after (.vscanMax ty d a k) = vscan m k d a (scanBits (maxLane ty)) := rfl
  have htree : treeOf (addLanes rm) (activeLanes m k a fun w => (w, 0#5)) = tree := rfl
  have hon : on = lanesBelow m k a 16 := rfl
  have hupto : upto = fun j => lanesBelow m k a (j + 1) := rfl
  clear_value after fold tree on upto
  subst hon hupto
  obtain ⟨hminNil, hminOne, hminNan, hminNum⟩ := minF32_eq ▸ treeOf_extreme m k a (r := fun x y => orderedKey x ≤ orderedKey y)
    (leastBy_assoc _) (fun _ => Nat.le_refl _) (fun _ _ _ => Nat.le_trans) (leastBy_cases fun w => (orderedKey w).toNat) 0x7F800000#32
  obtain ⟨hmaxNil, hmaxOne, hmaxNan, hmaxNum⟩ := maxF32_eq ▸ treeOf_extreme m k a (r := fun x y => orderedKey y ≤ orderedKey x)
    (greatestBy_assoc _) (fun _ => Nat.le_refl _) (fun _ _ _ h1 h2 => Nat.le_trans h2 h1)
    (greatestBy_cases fun w => (orderedKey w).toNat) 0xFF800000#32
  refine ⟨hred _ rfl rfl, hred _ rfl rfl, hred _ rfl rfl, hred _ rfl rfl, hred _ rfl rfl, hred _ rfl rfl, hscan _ rfl rfl,
    hscan _ rfl rfl, hscan _ rfl rfl, ?sumI, ?sumN, ?sumF, ?minI, ?minN, ?maxI, ?maxN, fun h => ⟨?minNil, ?maxNil⟩,
    fun w h => ⟨?minOne, ?maxOne⟩, fun hlen hnan => ⟨?minNan, ?maxNan⟩, fun hlen hnum => ⟨?minNum, ?maxNum⟩, ?and, ?or, ?xor,
    fun hty => ?scanInt, ?scanMin, ?scanMax, ?scanF⟩
  case sumI => rw [hadd, redAdd_i32, Image.orFlags_fNone]
  case sumN => rw [hadd, redAdd_n32, Image.orFlags_fNone]
  case sumF =>
    rw [hadd, redAdd_f32, htree]
    cases tree <;> rfl
  case minI => rw [hmin, redMin, treeOf_lanes m k a (vminI_assoc false), hfold]; rfl
  case minN => rw [hmin, redMin, treeOf_lanes m k a (vminI_assoc true), hfold]; rfl
  case maxI => rw [hmax, redMax, treeOf_lanes m k a (vmaxI_assoc false), hfold]; rfl
  case maxN => rw [hmax, redMax, treeOf_lanes m k a (vmaxI_assoc true), hfold]; rfl
  case minNil => rw [hmin, redMin, hminNil h]; rfl
  case maxNil => rw [hmax, redMax, hmaxNil h]; rfl
  case minOne => rw [hmin, redMin, hminOne w h]
  case maxOne => rw [hmax, redMax, hmaxOne w h]
  case minNan => rw [hmin, redMin, hminNan hlen hnan]; rfl
  case maxNan => rw [hmax, redMax, hmaxNan hlen hnan]; rfl
  case minNum =>
    obtain ⟨w, hmem, hall, hw⟩ := hminNum hlen hnum
    exact ⟨w, hmem, hall, by rw [hmin, redMin, hw]⟩
  case maxNum =>
    obtain ⟨w, hmem, hall, hw⟩ := hmaxNum hlen hnum
    exact ⟨w, hmem, hall, by rw [hmax, redMax, hw]⟩
  case and => exact hand.trans (congrArg (m.setX d) (redBits_eq m k a ⟨BitVec.and_assoc⟩ fun _ => BitVec.allOnes_and))
  case or => exact hor.trans (congrArg (m.setX d) (redBits_eq m k a ⟨BitVec.or_assoc⟩ fun _ => BitVec.zero_or))
  case xor => exact hxor.trans (congrArg (m.setX d) (redBits_eq m k a ⟨BitVec.xor_assoc⟩ fun _ => BitVec.zero_xor))
  case scanInt =>
    have hsum : ∀ ls : List (BitVec 32), (combined (· + ·) ls).getD 0 = ls.foldl (· + ·) 0#32 := combined_getD BitVec.zero_add
    rw [hscanAdd hty]
    simpa only [hsum] using vscan_bitsWise m k d a (· + ·)
  case scanMin =>
    simp only [hscanMin, hfold]
    exact vscan_bitsWise m k d a (minLane ty)
  case scanMax =>
    simp only [hscanMax, hfold]
    exact vscan_bitsWise m k d a (maxLane ty)
  case scanF =>
    rw [hscanAddF]
    refine (vscan_laneWise m k d a (addLanes rm)).congr fun j _ _ => ?_
    unfold fNone
    dsimp only
    cases (lanesBelow m k a (j + 1)).map fun w => (w, 0#5) <;> rfl

end Sys2Proof.Machine
end

section
/-! PROOF. Bytes of packed elements, and the vector conversions (R1, R28, R151 to R153). -/

namespace Sys2Proof.Machine

open Sys2Proof

theorem leNat_cons (b : Byte) (bs : List Byte) : leNat (b :: bs) = leNat bs * 2 ^ 8 + b.toNat := rfl

theorem leNat_append (xs ys : List Byte) : leNat (xs ++ ys) = leNat ys * 2 ^ (8 * xs.length) + leNat xs := by
  induction xs with
  | nil => simp [leNat]
  | cons b xs ih =>
    rw [List.cons_append, leNat_cons, leNat_cons, ih, List.length_cons, Nat.mul_succ, Nat.pow_add]
    ring

theorem leNat_lt (bs : List Byte) : leNat bs < 2 ^ (8 * bs.length) := by
  induction bs with
  | nil => simp [leNat]
  | cons b bs ih =>
    have hb := b.isLt
    rw [leNat_cons, List.length_cons, Nat.mul_succ, Nat.pow_add]
    calc leNat bs * 2 ^ 8 + b.toNat < (leNat bs + 1) * 2 ^ 8 := by omega
      _ ≤ 2 ^ (8 * bs.length) * 2 ^ 8 := Nat.mul_le_mul_right _ ih

@[simp] theorem length_leBytes (n v : Nat) : (leBytes n v).length = n := by simp [leBytes]

/-- Bytes that follow do not touch a field of those before them. -/
theorem leNat_append_field (xs ys : List Byte) {s w : Nat} (h : s + w ≤ 8 * xs.length) :
    leNat (xs ++ ys) / 2 ^ s % 2 ^ w = leNat xs / 2 ^ s % 2 ^ w := by
  rw [← mod_two_pow_field _ h, leNat_append, Nat.mul_add_mod_self_right, Nat.mod_eq_of_lt (leNat_lt xs)]

/-- A field behind some bytes is one of the bytes that follow them. -/
theorem leNat_append_shift (xs ys : List Byte) (s : Nat) : leNat (xs ++ ys) / 2 ^ (8 * xs.length + s) = leNat ys / 2 ^ s := by
  rw [leNat_append, Nat.pow_add, ← Nat.div_div_eq_div_mul, Nat.mul_comm, Nat.mul_add_div (Nat.two_pow_pos _),
    Nat.div_eq_of_lt (leNat_lt xs), Nat.add_zero]

/-- The bytes of a number hold its low bits. -/
theorem leNat_leBytes (n v : Nat) : leNat (leBytes n v) = v % 2 ^ (8 * n) := by
  induction n generalizing v with
  | zero => simp [leBytes, leNat, Nat.mod_one]
  | succ n ih =>
    have hcons : leBytes (n + 1) v = BitVec.ofNat 8 v :: leBytes n (v / 2 ^ 8) := by
      rw [leBytes, List.range_succ_eq_map, List.map_cons, List.map_map]
      refine congrArg₂ List.cons rfl (List.map_congr_left fun k _ => ?_)
      simp only [Function.comp, Nat.mul_succ, Nat.shiftRight_eq_div_pow, Nat.div_div_eq_div_mul, ← Nat.pow_add, Nat.add_comm]
    rw [hcons, leNat_cons, ih, BitVec.toNat_ofNat, Nat.mul_succ, Nat.add_comm (8 * n), Nat.pow_add, Nat.mod_mul]
    omega

/-- Elements of n bytes side by side are digits of 8n bits. -/
theorem leNat_flatMap (n : Nat) (els : List Nat) :
    leNat (els.flatMap (leBytes n)) = els.foldr (fun x acc => acc * 2 ^ (8 * n) + x % 2 ^ (8 * n)) 0 := by
  induction els with
  | nil => rfl
  | cons x els ih => rw [List.flatMap_cons, leNat_append, length_leBytes, ih, leNat_leBytes, List.foldr_cons]

/-- The bytes that `vpack` makes of its elements (R28, R152). -/
def packedBytes (f : Fmt) (els : List Nat) : List Byte :=
  if f = .lg6 then packLg6 els ++ List.replicate 8 0 else els.flatMap (leBytes (fmtWidth f / 8))

/-- Where they stand in the register: all of it, or the half that q names, beside the bytes that were there (R152). -/
def placedBytes (q : Bool) (bytes old : List Byte) : List Byte :=
  if bytes.length = 64 then bytes else if q then old.take 32 ++ bytes else bytes ++ old.drop 32

/-- `vpack` by its converted lanes and their bytes. -/
theorem vpackEffect_eq (dst : Fmt) (src : LaneTy) (q : Bool) (rm : Rm) (m : Image) (d a b : Reg) :
    let rs := (lanes (m.getV a) ++ lanes (m.getV b)).map (cvtLane dst (laneFmt src) rm)
    vpackEffect dst src q rm m d a b =
      (m.setV d (BitVec.ofNat 512 (leNat (placedBytes q (packedBytes dst (rs.map fun r => r.1.toNat)) (vBytes (m.getV d)))))).orFlags
        (rs.foldl (fun acc r => acc ||| r.2) fNone) := by
  cases dst <;> rfl

/-- A narrow format is LG6, or one or two whole bytes wide (R5, R28). -/
theorem fmtWidth_narrow {f : Fmt} (h : fmtWidth f ≤ 16) : f = .lg6 ∨ f ≠ .lg6 ∧ (fmtWidth f = 8 ∨ fmtWidth f = 16) := by
  cases f <;> simp_all [fmtWidth]

/-- The dense array of a format of whole bytes (R152). -/
theorem packedElem_of_ne {f : Fmt} (hf : f ≠ .lg6) (v : BitVec 512) (j : Nat) :
    packedElem f v j = v.toNat / 2 ^ (fmtWidth f * j) % 2 ^ fmtWidth f := by
  rw [← Nat.shiftRight_eq_div_pow]
  unfold packedElem
  split
  · exact absurd rfl hf
  · rfl

/-- The dense array of LG6: two runs of 32 elements, 256 bits apart (R28, R152). -/
theorem packedElem_lg6 (v : BitVec 512) (j : Nat) :
    packedElem .lg6 v j = v.toNat / 2 ^ (8 * 32 * (j / 32) + fmtWidth .lg6 * (j % 32)) % 2 ^ fmtWidth .lg6 := by
  rw [← Nat.shiftRight_eq_div_pow]
  rfl

/-- The first 32 elements of a dense array are fields from bit 0 on (R152). -/
theorem packedElem_low (f : Fmt) (v : BitVec 512) {j : Nat} (hj : j < 32) :
    packedElem f v j = v.toNat / 2 ^ (fmtWidth f * j) % 2 ^ fmtWidth f := by
  by_cases hf : f = .lg6
  · subst hf
    rw [packedElem_lg6, Nat.div_eq_of_lt hj, Nat.mod_eq_of_lt hj, Nat.mul_zero, Nat.zero_add]
  · exact packedElem_of_ne hf v j

/-- The elements after the first 32 of a format of at most a byte are fields from bit 256 on (R152). -/
theorem packedElem_high {f : Fmt} (h : fmtWidth f < 16) (v : BitVec 512) {j : Nat} (hj : j < 32) :
    packedElem f v (32 + j) = v.toNat / 2 ^ (8 * 32 + fmtWidth f * j) % 2 ^ fmtWidth f := by
  rcases fmtWidth_narrow h.le with rfl | ⟨hf, hw⟩
  · rw [packedElem_lg6, Nat.add_div_left j (by decide), Nat.add_mod_left, Nat.div_eq_of_lt hj, Nat.mod_eq_of_lt hj, Nat.mul_one]
  · have hbyte : fmtWidth f = 8 := by omega
    rw [packedElem_of_ne hf, hbyte, Nat.mul_add]

/-- Thirty-two elements of at most a byte fill half the register. -/
theorem length_packedBytes_half {f : Fmt} (h : fmtWidth f < 16) {els : List Nat} (hlen : els.length = 32) :
    (packedBytes f els).length = 32 := by
  rcases fmtWidth_narrow h.le with rfl | ⟨hf, hw⟩
  · simp [packedBytes, packLg6]
  · have hbyte : fmtWidth f = 8 := by omega
    simp [packedBytes, hf, hbyte, hlen]

/-- Thirty-two elements of two bytes fill the register. -/
theorem length_packedBytes_full {f : Fmt} (h : fmtWidth f = 16) {els : List Nat} (hlen : els.length = 32) :
    (packedBytes f els).length = 64 := by
  have hf : f ≠ .lg6 := by rintro rfl; cases h
  simp [packedBytes, hf, h, hlen]

/-- Element j of the packed bytes. -/
theorem packedBytes_field {f : Fmt} (h : fmtWidth f ≤ 16) {els : List Nat} (hlen : els.length = 32) {j : Nat} (hj : j < 32) :
    leNat (packedBytes f els) / 2 ^ (fmtWidth f * j) % 2 ^ fmtWidth f = els.getD j 0 % 2 ^ fmtWidth f := by
  have hdigit : ∀ w, els.foldr (fun x acc => acc * 2 ^ w + x % 2 ^ w) 0 / 2 ^ (w * j) % 2 ^ w = els.getD j 0 % 2 ^ w := by
    intro w
    rw [Nat.pow_mul, foldr_digit fun x => Nat.mod_lt x (Nat.two_pow_pos w)]
    simp [hlen, hj]
  rcases fmtWidth_narrow h with rfl | ⟨hf, hw⟩
  · have hbytes : packedBytes .lg6 els =
        leBytes 24 (els.foldr (fun x acc => acc * 2 ^ 6 + x % 2 ^ 6) 0) ++ List.replicate 8 0 := rfl
    have hfit : 6 * j + 6 ≤ 8 * 24 := by omega
    rw [hbytes, fmtWidth, leNat_append_field _ _ (by rwa [length_leBytes]), leNat_leBytes, mod_two_pow_field _ hfit, hdigit]
  · have hbytes : 8 * (fmtWidth f / 8) = fmtWidth f := by omega
    rw [packedBytes, if_neg hf, leNat_flatMap, hbytes, hdigit]

/-- The element that `vpack` puts in place j of its half, or of the register (R152). -/
theorem packedElem_placed {f : Fmt} (h : fmtWidth f ≤ 16) {els : List Nat} (hlen : els.length = 32) {old : List Byte}
    (hold : old.length = 64) (q : Bool) {j : Nat} (hj : j < 32) :
    packedElem f (BitVec.ofNat 512 (leNat (placedBytes q (packedBytes f els) old))) (if fmtWidth f < 16 ∧ q then 32 + j else j) =
      els.getD j 0 % 2 ^ fmtWidth f := by
  rw [← packedBytes_field h hlen hj]
  by_cases hw : fmtWidth f < 16
  · have hbytes := length_packedBytes_half hw hlen
    have hbyte : fmtWidth f ≤ 8 := by
      rcases fmtWidth_narrow h with rfl | ⟨-, h8⟩
      · decide
      · omega
    have hfit : fmtWidth f * (j + 1) ≤ 8 * 32 := Nat.mul_le_mul hbyte hj
    rw [Nat.mul_succ] at hfit
    rw [placedBytes, if_neg (by omega)]
    cases q with
    | true =>
      have htake : (old.take 32).length = 32 := by simp [hold]
      have hshift := leNat_append_shift (old.take 32) (packedBytes f els) (fmtWidth f * j)
      rw [htake] at hshift
      rw [if_pos rfl, if_pos ⟨hw, rfl⟩, packedElem_high hw _ hj, toNat_ofNat_field _ (by omega), hshift]
    | false =>
      rw [if_neg (by simp), if_neg (by simp), packedElem_low f _ hj, toNat_ofNat_field _ (by omega),
        leNat_append_field _ _ (by omega)]
  · have hword : fmtWidth f = 16 := by omega
    rw [placedBytes, if_pos (length_packedBytes_full hword hlen), if_neg fun hc => hw hc.1, packedElem_low f _ hj,
      toNat_ofNat_field _ (by rw [hword]; omega)]

/-- What `vpack` packs are the 32 lanes of a and b, each converted once (R152). -/
theorem packedElem_vpackEffect {dst : Fmt} (src : LaneTy) (rm : Rm) (m : Image) (d a b : Reg) (hw : fmtWidth dst ≤ 16) (q : Bool) {j : Nat}
    (hj : j < 32) :
    packedElem dst ((vpackEffect dst src q rm m d a b).getV d) (if fmtWidth dst < 16 ∧ q then 32 + j else j) =
      (cvtLane dst (laneFmt src) rm ((lanes (m.getV a) ++ lanes (m.getV b)).getD j 0)).1.toNat % 2 ^ fmtWidth dst := by
  have hlanes : j < (lanes (m.getV a) ++ lanes (m.getV b)).length := by simpa [lanes] using hj
  rw [vpackEffect_eq, Image.getV_orFlags, Image.getV_setV,
    packedElem_placed hw (by simp [lanes]) (by simp [vBytes]) q hj]
  simp only [List.getD_eq_getElem?_getD, List.getElem?_map, List.getElem?_eq_getElem hlanes, Option.map_some, Option.getD_some]

/-- Settles O23: `vcvt` and `vunpack` are lane writes, `vpack` puts its elements where `packedElem` reads them, and `vqnt` is the block
of R33 as it stands. -/
theorem vectorConversionResults : Obligations.VectorConversionResults := by
  intro s cid c dst src lt d a b e q p k hat hpfx hroom m rm conv all runs after
  have hrun : ∀ (vs : List Reg) {accept : Prefix → Bool} {i : Instr}, pfxCheck c.img accept = none → ringRegs i = [] →
      vFields i = vs → vs ⊆ [d, a, b, e] → runRing accept 8 i s = s.dispatched cid c i 8 := fun vs _ i hp hx hv hsub =>
    runRing_dispatched hat hp (hx ▸ interlocked_nil _) (hv ▸ hroom.subset hsub) 8
  have hqnt : ∀ x, after (.vqnt dst d a b x) = vqntEffect dst m d a b x := fun _ => rfl
  refine ⟨hrun [d, a] hpfx rfl rfl ?_, vecWrite_laneWise m k d _, hrun [d, a] hpfx rfl rfl ?_, vecWrite_laneWise m .all d _,
    hrun [d, a, b] hpfx rfl rfl ?_, fun hw j hj => packedElem_vpackEffect lt rm m d a b hw q hj,
    fun hpp x hx => ⟨hrun ([d, a, b] ++ x.toList) (pfxCheck_free hpp _) rfl rfl ?_, ?_⟩⟩
  · simp
  · simp
  · simp
  · rcases hx with rfl | rfl <;> simp
  · rcases hx with rfl | rfl
    · exact hqnt none
    · exact hqnt (some e)

end Sys2Proof.Machine
end

section
/-! PROOF. The fields of the encoding formats, and the codes of the operands (R74 to R87). -/

namespace Sys2Proof

theorem toNat_append_add {v w : Nat} (x : BitVec v) (y : BitVec w) : (x ++ y).toNat = x.toNat * 2 ^ w + y.toNat := by
  rw [BitVec.toNat_append, ← Nat.shiftLeft_add_eq_or_of_lt y.isLt, Nat.shiftLeft_eq]

/-- A field of bits is a quotient and a remainder of its number. -/
theorem extractLsb'_eq_iff {w n : Nat} (p : BitVec w) (s : Nat) (x : BitVec n) :
    p.extractLsb' s n = x ↔ p.toNat / 2 ^ s % 2 ^ n = x.toNat := by
  rw [BitVec.toNat_eq, BitVec.extractLsb'_toNat, Nat.shiftRight_eq_div_pow]

/-! The formats of the first parcel (R80, R86): each field of a parcel is what was laid there. -/

section
variable (low : BitVec 8) (fn : BitVec 9) (a b c d xo : BitVec 5) (seg : BitVec 6)

@[simp] theorem fields_pA :
    fop (pA low fn b a d) = low.extractLsb' 2 6 ∧ fL (pA low fn b a d) = low.extractLsb' 0 2 ∧ fd (pA low fn b a d) = d ∧
      fa (pA low fn b a d) = a ∧ fb (pA low fn b a d) = b ∧ ffn (pA low fn b a d) = fn := by
  simp only [fop, fL, fd, fa, fb, ffn, extractLsb'_eq_iff, BitVec.extractLsb'_toNat, Nat.shiftRight_eq_div_pow]
  rw [pA, toNat_append_add, toNat_append_add, toNat_append_add, toNat_append_add]
  omega

/-- The two parts of fn in major TASK (R391). -/
@[simp] theorem fields_pA_task :
    (pA low fn b a d).extractLsb' 27 3 = fn.extractLsb' 4 3 ∧ (pA low fn b a d).extractLsb' 23 4 = fn.extractLsb' 0 4 := by
  simp only [extractLsb'_eq_iff, BitVec.extractLsb'_toNat, Nat.shiftRight_eq_div_pow]
  rw [pA, toNat_append_add, toNat_append_add, toNat_append_add, toNat_append_add]
  omega

@[simp] theorem fields_pS (n : BitVec 15) :
    fop (pS low fn n) = low.extractLsb' 2 6 ∧ fL (pS low fn n) = low.extractLsb' 0 2 ∧ fd (pS low fn n) = n.extractLsb' 0 5 ∧
      sMid (pS low fn n) = n.extractLsb' 5 10 ∧ sN (pS low fn n) = n ∧ ffn (pS low fn n) = fn := by
  simp only [fop, fL, fd, sMid, sN, ffn, extractLsb'_eq_iff, BitVec.extractLsb'_toNat, Nat.shiftRight_eq_div_pow]
  rw [pS, toNat_append_add, toNat_append_add]
  omega

@[simp] theorem fields_pI (imm : BitVec 11) (fn3 : BitVec 3) :
    fop (pI low imm fn3 a d) = low.extractLsb' 2 6 ∧ fL (pI low imm fn3 a d) = low.extractLsb' 0 2 ∧ fd (pI low imm fn3 a d) = d ∧
      fa (pI low imm fn3 a d) = a ∧ f3 (pI low imm fn3 a d) = fn3 ∧ fimm (pI low imm fn3 a d) = imm := by
  simp only [fop, fL, fd, fa, f3, fimm, extractLsb'_eq_iff, BitVec.extractLsb'_toNat, Nat.shiftRight_eq_div_pow]
  rw [pI, toNat_append_add, toNat_append_add, toNat_append_add, toNat_append_add]
  omega

@[simp] theorem fields_pC (off : BitVec 9) (cc : BitVec 4) :
    fop (pC low off b a cc) = low.extractLsb' 2 6 ∧ fL (pC low off b a cc) = low.extractLsb' 0 2 ∧
      cCc (pC low off b a cc) = cc.toNat ∧ fa (pC low off b a cc) = a ∧ fb (pC low off b a cc) = b ∧
        (pC low off b a cc).extractLsb' 23 9 = off := by
  simp only [fop, fL, cCc, fa, fb, extractLsb'_eq_iff, BitVec.extractLsb'_toNat, Nat.shiftRight_eq_div_pow]
  rw [pC, toNat_append_add, toNat_append_add, toNat_append_add, toNat_append_add, toNat_append_add]
  omega

@[simp] theorem fields_pJ (off : BitVec 19) :
    fop (pJ low off d) = low.extractLsb' 2 6 ∧ fL (pJ low off d) = low.extractLsb' 0 2 ∧ fd (pJ low off d) = d ∧
      (pJ low off d).extractLsb' 13 19 = off := by
  simp only [fop, fL, fd, extractLsb'_eq_iff, BitVec.extractLsb'_toNat, Nat.shiftRight_eq_div_pow]
  rw [pJ, toNat_append_add, toNat_append_add]
  omega

@[simp] theorem fields_pM (disp : BitVec 5) (fn3 : BitVec 3) :
    fop (pM low disp fn3 xo seg d) = low.extractLsb' 2 6 ∧ fL (pM low disp fn3 xo seg d) = low.extractLsb' 0 2 ∧
      fd (pM low disp fn3 xo seg d) = d ∧ fseg (pM low disp fn3 xo seg d) = seg ∧ fxo (pM low disp fn3 xo seg d) = xo ∧
        fm3 (pM low disp fn3 xo seg d) = fn3 ∧ fdisp (pM low disp fn3 xo seg d) = disp := by
  simp only [fop, fL, fd, fseg, fxo, fm3, fdisp, extractLsb'_eq_iff, BitVec.extractLsb'_toNat, Nat.shiftRight_eq_div_pow]
  rw [pM, toNat_append_add, toNat_append_add, toNat_append_add, toNat_append_add, toNat_append_add]
  omega

@[simp] theorem fields_pF (p : Prefix) :
    fop (pF low p) = low.extractLsb' 2 6 ∧ fL (pF low p) = low.extractLsb' 0 2 := by
  simp only [fop, fL, extractLsb'_eq_iff, BitVec.extractLsb'_toNat, Nat.shiftRight_eq_div_pow]
  rw [pF, toNat_append_add]
  omega

/-! The formats of the second parcel (R81). -/

@[simp] theorem qc_qC : qc (qC c) = c := by
  rw [qc, extractLsb'_eq_iff, qC, toNat_append_add]
  omega

@[simp] theorem fields_qPos (pos lenm1 : BitVec 6) : qp (qPos pos lenm1) = pos ∧ ql (qPos pos lenm1) = lenm1 := by
  simp only [qp, ql, extractLsb'_eq_iff]
  rw [qPos, toNat_append_add, toNat_append_add, toNat_append_add]
  omega

theorem ofBool_eq_one (x : Bool) : (BitVec.ofBool x == 1#1) = x := by cases x <;> rfl

@[simp] theorem fields_pK (o : Order) (nc : Bool) (disp : BitVec 20) :
    kd (pK o nc b disp) = disp ∧ kb (pK o nc b disp) = b ∧ knc (pK o nc b disp) = nc ∧ ksc (pK o nc b disp) = o.bits.1 ∧
      kaq (pK o nc b disp) = (o.bits.2.1 == 1#1) ∧ krl (pK o nc b disp) = (o.bits.2.2 == 1#1) := by
  have h : (pK o nc b disp).extractLsb' 0 20 = disp ∧ (pK o nc b disp).extractLsb' 20 5 = b ∧
      (pK o nc b disp).extractLsb' 25 1 = BitVec.ofBool nc ∧ (pK o nc b disp).extractLsb' 28 3 = o.bits.1 ∧
        (pK o nc b disp).extractLsb' 26 1 = o.bits.2.1 ∧ (pK o nc b disp).extractLsb' 27 1 = o.bits.2.2 := by
    simp only [extractLsb'_eq_iff]
    rw [pK, toNat_append_add, toNat_append_add, toNat_append_add, toNat_append_add, toNat_append_add, toNat_append_add]
    omega
  simp only [kd, kb, knc, ksc, kaq, krl, h, ofBool_eq_one, and_self]

@[simp] theorem fields_pKA (aq rl : Bool) (sc : Scope) (disp : BitVec 20) :
    kd (pKA aq rl sc b disp) = disp ∧ kb (pKA aq rl sc b disp) = b ∧ ksc (pKA aq rl sc b disp) = sc.code ∧
      kaq (pKA aq rl sc b disp) = aq ∧ krl (pKA aq rl sc b disp) = rl := by
  have h : (pKA aq rl sc b disp).extractLsb' 0 20 = disp ∧ (pKA aq rl sc b disp).extractLsb' 20 5 = b ∧
      (pKA aq rl sc b disp).extractLsb' 28 3 = sc.code ∧ (pKA aq rl sc b disp).extractLsb' 26 1 = BitVec.ofBool aq ∧
        (pKA aq rl sc b disp).extractLsb' 27 1 = BitVec.ofBool rl := by
    simp only [extractLsb'_eq_iff]
    rw [pKA, toNat_append_add, toNat_append_add, toNat_append_add, toNat_append_add, toNat_append_add, toNat_append_add, BitVec.toNat_zero]
    omega
  simp only [kd, kb, ksc, kaq, krl, h, ofBool_eq_one, and_self]

@[simp] theorem fields_pV (imm : BitVec 16) (ty : BitVec 4) (m : Mask) :
    vc (pV imm ty m c) = c ∧ vt (pV imm ty m c) = ty ∧ vi (pV imm ty m c) = imm := by
  simp only [vc, vt, vi, extractLsb'_eq_iff]
  rw [pV, toNat_append_add, toNat_append_add, toNat_append_add, toNat_append_add]
  omega

@[simp] theorem vm_pV (imm : BitVec 16) (ty : BitVec 4) (m : Mask) : vm (pV imm ty m c) = m := by
  have h : (pV imm ty m c).extractLsb' 8 1 = m.bits.extractLsb' 3 1 ∧ (pV imm ty m c).extractLsb' 9 1 = m.bits.extractLsb' 4 1 ∧
      (pV imm ty m c).extractLsb' 10 1 = m.bits.extractLsb' 5 1 ∧ (pV imm ty m c).extractLsb' 5 3 = m.bits.extractLsb' 0 3 := by
    simp only [extractLsb'_eq_iff, BitVec.extractLsb'_toNat, Nat.shiftRight_eq_div_pow]
    rw [pV, toNat_append_add, toNat_append_add, toNat_append_add, toNat_append_add]
    omega
  simp only [vm, h]
  cases m with
  | all => rfl
  | on inv z r => clear h; revert inv z r; decide

@[simp] theorem fields_pE (imm : BitVec 8) (cw : Cw) (o : Order) (sb sa : BitVec 6) :
    esa (pE imm c cw o sb sa) = sa ∧ esb (pE imm c cw o sb sa) = sb ∧ esc (pE imm c cw o sb sa) = o.bits.1 ∧
      ecw (pE imm c cw o sb sa) = cw.code ∧ ec (pE imm c cw o sb sa) = c ∧ ei (pE imm c cw o sb sa) = imm ∧
        eaq (pE imm c cw o sb sa) = (o.bits.2.1 == 1#1) ∧ erl (pE imm c cw o sb sa) = (o.bits.2.2 == 1#1) := by
  have h : (pE imm c cw o sb sa).extractLsb' 0 6 = sa ∧ (pE imm c cw o sb sa).extractLsb' 6 6 = sb ∧
      (pE imm c cw o sb sa).extractLsb' 14 3 = o.bits.1 ∧ (pE imm c cw o sb sa).extractLsb' 17 2 = cw.code ∧
        (pE imm c cw o sb sa).extractLsb' 19 5 = c ∧ (pE imm c cw o sb sa).extractLsb' 24 8 = imm ∧
          (pE imm c cw o sb sa).extractLsb' 12 1 = o.bits.2.1 ∧ (pE imm c cw o sb sa).extractLsb' 13 1 = o.bits.2.2 := by
    simp only [extractLsb'_eq_iff]
    rw [pE, toNat_append_add, toNat_append_add, toNat_append_add, toNat_append_add, toNat_append_add, toNat_append_add,
      toNat_append_add]
    omega
  simp only [esa, esb, esc, ecw, ec, ei, eaq, erl, h, and_self]

end

/-! The codes of the operands (R76 to R82, R95). -/

@[simp] theorem IntCc.ofCode_code (cc : IntCc) : IntCc.ofCode cc.code = some cc := by cases cc <;> rfl
@[simp] theorem FpCc.ofCode_code (cc : FpCc) : FpCc.ofCode cc.code = some cc := by cases cc <;> rfl
@[simp] theorem Fmt.ofCode_code (f : Fmt) : Fmt.ofCode f.code = some f := by cases f <;> rfl
@[simp] theorem LaneTy.ofCode_code (t : LaneTy) : LaneTy.ofCode t.code = some t := by cases t <;> rfl
@[simp] theorem Scope.ofCode_code (s : Scope) : Scope.ofCode s.code = some s := by cases s <;> rfl
@[simp] theorem Cw.ofCode_code (c : Cw) : Cw.ofCode c.code = some c := by cases c <;> rfl
@[simp] theorem tyNat_tyInt (nat : Bool) : tyNat (tyInt nat) = some nat := by cases nat <;> rfl
@[simp] theorem Fmt.ofCode0_code0 (f : Option Fmt) : Fmt.ofCode0 (Fmt.code0 f) = some f := by
  rcases f with _ | f
  · rfl
  · cases f <;> rfl
@[simp] theorem Rm.ofCode0_code0 (r : Option Rm) : Rm.ofCode0 (Rm.code0 r) = some r := by
  rcases r with _ | r
  · rfl
  · cases r <;> rfl

@[simp] theorem Creg.ofCode_code (r : Creg) : Creg.ofCode r.code = some r := by
  cases r with
  | pmc k => revert k; decide
  | pmsel k => revert k; decide
  | _ => rfl

@[simp] theorem tyNat_eleven : tyNat 11#4 = some false := rfl

/-- A condition code fits the four bits of format C (R80). -/
@[simp] theorem IntCc.code_mod_16 (cc : IntCc) : cc.code % 16 = cc.code := by cases cc <;> rfl

/-- A prefix is read back from its parcel (R82). -/
@[simp] theorem prefixOf_pF (low : BitVec 8) (p : Prefix) : prefixOf (pF low p) = some p := by
  have h : (pF low p).extractLsb' 8 4 = Fmt.code0 p.fa ∧ (pF low p).extractLsb' 12 4 = Fmt.code0 p.fb ∧
      (pF low p).extractLsb' 16 4 = Fmt.code0 p.fd ∧ (pF low p).extractLsb' 24 3 = Rm.code0 p.rm ∧
        (pF low p).extractLsb' 20 1 = BitVec.ofBool p.ka ∧ (pF low p).extractLsb' 22 1 = BitVec.ofBool p.kb := by
    simp only [extractLsb'_eq_iff]
    rw [pF, Prefix.payload, toNat_append_add, toNat_append_add, toNat_append_add, toNat_append_add, toNat_append_add, toNat_append_add,
      toNat_append_add, toNat_append_add, toNat_append_add, BitVec.toNat_zero, BitVec.toNat_zero]
    omega
  simp only [prefixOf, h, Fmt.ofCode0_code0, Rm.ofCode0_code0, Option.bind_some, ofBool_eq_one]

/-! Orders and commands (R81, R193, R341). -/

section
variable (s : Option Scope) (nc : Bool) (b c : BitVec 5) (disp : BitVec 20) (imm : BitVec 8) (cw : Cw) (sb sa : BitVec 6)

@[simp] theorem acqOf_pK_plain : acqOf kaq ksc (pK .plain nc b disp) = some none := by
  simp [acqOf, Order.bits]

@[simp] theorem acqOf_pK : acqOf kaq ksc (pK (acqO s) nc b disp) = some s ∧ acqOf krl ksc (pK (relO s) nc b disp) = some s := by
  cases s <;> simp [acqOf, acqO, relO, Order.bits]

@[simp] theorem acqOf_pE_plain :
    acqOf eaq esc (pE imm c cw .plain sb sa) = some none ∧ acqOf erl esc (pE imm c cw .plain sb sa) = some none := by
  simp [acqOf, Order.bits]

@[simp] theorem acqOf_pE_acqO :
    acqOf eaq esc (pE imm c cw (acqO s) sb sa) = some s ∧ acqOf erl esc (pE imm c cw (acqO s) sb sa) = some none := by
  cases s <;> simp [acqOf, acqO, Order.bits]

@[simp] theorem acqOf_pE_relO :
    acqOf eaq esc (pE imm c cw (relO s) sb sa) = some none ∧ acqOf erl esc (pE imm c cw (relO s) sb sa) = some s := by
  cases s <;> simp [acqOf, relO, Order.bits]

@[simp] theorem ib_pE (o : Order) (k : Nat) : ib (pE imm c cw o sb sa) k = imm.getLsbD k := by
  simp [ib]

@[simp] theorem ordOf_pE (o : Order) : ordOf (pE imm c cw o sb sa) = some o := by
  cases o <;> simp [ordOf, Order.bits]

end

@[simp] theorem cmd_pE (k : Cmd) (imm : BitVec 8) (h : imm.getLsbD 7 = k.ds) :
    cmd k.d k.a k.b (pE imm k.c k.cw k.ord k.sb k.sa) = some k := by
  simp [cmd, h, -BitVec.getLsbD_eq_getElem]

@[simp] theorem fcmd_pE (k : FabCmd) (imm : BitVec 8) (sa : BitVec 6) (h : imm.getLsbD 7 = k.ds) :
    fcmd k.d k.a k.b (pE imm k.c k.cw k.ord k.sb sa) = some k := by
  simp [fcmd, h, -BitVec.getLsbD_eq_getElem]

/-! What shares an immediate field: few bits, so that every value is tried. -/

section
variable (ds x y z : Bool)

@[simp] theorem parts_flag : BitVec.getLsbD (w := 8) (BitVec.ofBool ds ++ (0#6 ++ BitVec.ofBool x)) 7 = ds ∧
    BitVec.getLsbD (w := 8) (BitVec.ofBool ds ++ (0#6 ++ BitVec.ofBool x)) 0 = x := by
  revert ds x; decide

@[simp] theorem parts_index (mode it : BitVec 2) (es : BitVec 3) :
    BitVec.getLsbD (w := 8) (BitVec.ofBool ds ++ (mode ++ it ++ es)) 7 = ds ∧
      BitVec.setWidth (w := 8) 3 (BitVec.ofBool ds ++ (mode ++ it ++ es)) = es ∧
        BitVec.extractLsb' (n := 8) 3 2 (BitVec.ofBool ds ++ (mode ++ it ++ es)) = it ∧
          BitVec.extractLsb' (n := 8) 5 2 (BitVec.ofBool ds ++ (mode ++ it ++ es)) = mode := by
  revert ds mode it es; decide

@[simp] theorem parts_spwalk : BitVec.getLsbD (w := 8) (BitVec.ofBool ds ++ (0#5 ++ BitVec.ofBool x ++ BitVec.ofBool y)) 7 = ds ∧
    BitVec.getLsbD (w := 8) (BitVec.ofBool ds ++ (0#5 ++ BitVec.ofBool x ++ BitVec.ofBool y)) 0 = y ∧
      BitVec.getLsbD (w := 8) (BitVec.ofBool ds ++ (0#5 ++ BitVec.ofBool x ++ BitVec.ofBool y)) 1 = x := by
  revert ds x y; decide

@[simp] theorem parts_mldb (bank : BitVec 2) (ty : BitVec 4) :
    BitVec.getLsbD (w := 8) (BitVec.ofBool ds ++ bank ++ BitVec.ofBool x ++ ty) 7 = ds ∧
      BitVec.setWidth (w := 8) 4 (BitVec.ofBool ds ++ bank ++ BitVec.ofBool x ++ ty) = ty ∧
        BitVec.getLsbD (w := 8) (BitVec.ofBool ds ++ bank ++ BitVec.ofBool x ++ ty) 4 = x ∧
          BitVec.extractLsb' (n := 8) 5 2 (BitVec.ofBool ds ++ bank ++ BitVec.ofBool x ++ ty) = bank := by
  revert ds bank x ty; decide

@[simp] theorem parts_mmac (bank : BitVec 2) :
    BitVec.getLsbD (w := 8) (BitVec.ofBool ds ++ (0#2 ++ BitVec.ofBool x ++ BitVec.ofBool y ++ BitVec.ofBool z ++ bank)) 7 = ds ∧
      BitVec.setWidth (w := 8) 2 (BitVec.ofBool ds ++ (0#2 ++ BitVec.ofBool x ++ BitVec.ofBool y ++ BitVec.ofBool z ++ bank)) = bank ∧
        BitVec.getLsbD (w := 8) (BitVec.ofBool ds ++ (0#2 ++ BitVec.ofBool x ++ BitVec.ofBool y ++ BitVec.ofBool z ++ bank)) 2 = z ∧
          BitVec.getLsbD (w := 8) (BitVec.ofBool ds ++ (0#2 ++ BitVec.ofBool x ++ BitVec.ofBool y ++ BitVec.ofBool z ++ bank)) 3 = y ∧
            BitVec.getLsbD (w := 8) (BitVec.ofBool ds ++ (0#2 ++ BitVec.ofBool x ++ BitVec.ofBool y ++ BitVec.ofBool z ++ bank)) 4 = x := by
  revert ds x y z bank; decide

@[simp] theorem parts_mmacCoop (bank : BitVec 2) :
    BitVec.getLsbD (w := 8) (BitVec.ofBool ds ++ (0#3 ++ BitVec.ofBool y ++ BitVec.ofBool z ++ bank)) 7 = ds ∧
      BitVec.setWidth (w := 8) 2 (BitVec.ofBool ds ++ (0#3 ++ BitVec.ofBool y ++ BitVec.ofBool z ++ bank)) = bank ∧
        BitVec.getLsbD (w := 8) (BitVec.ofBool ds ++ (0#3 ++ BitVec.ofBool y ++ BitVec.ofBool z ++ bank)) 2 = z ∧
          BitVec.getLsbD (w := 8) (BitVec.ofBool ds ++ (0#3 ++ BitVec.ofBool y ++ BitVec.ofBool z ++ bank)) 3 = y := by
  revert ds y z bank; decide

@[simp] theorem parts_ds : BitVec.getLsbD (w := 8) (BitVec.ofBool ds ++ 0#7) 7 = ds := by revert ds; decide

@[simp] theorem parts_low_flag : BitVec.getLsbD (w := 8) (0#7 ++ BitVec.ofBool x) 0 = x := by revert x; decide

@[simp] theorem parts_bind (hi : BitVec 3) (n : BitVec 4) : BitVec.setWidth (w := 8) 4 (hi ++ BitVec.ofBool x ++ n) = n ∧
    BitVec.getLsbD (w := 8) (hi ++ BitVec.ofBool x ++ n) 4 = x ∧ BitVec.getLsbD (w := 8) (hi ++ BitVec.ofBool x ++ n) 5 = hi[0] := by
  revert hi x n; decide

@[simp] theorem parts_crange (k : BitVec 6) :
    BitVec.setWidth (w := 8) 6 (0#1 ++ BitVec.ofBool x ++ k) = k ∧ BitVec.getLsbD (w := 8) (0#1 ++ BitVec.ofBool x ++ k) 6 = x := by
  revert x k; decide

@[simp] theorem parts_wide : (0#2 ++ BitVec.ofBool x == 1#3) = x := by revert x; decide

@[simp] theorem parts_signed : ((bif x then 11#4 else 0#4) == 11#4) = x := by revert x; decide

end

@[simp] theorem parts_nibble (n : BitVec 4) :
    BitVec.setWidth (w := 5) 4 (0#1 ++ n) = n ∧ BitVec.setWidth (w := 8) 4 (0#4 ++ n) = n ∧
      BitVec.setWidth (w := 16) 4 (0#12 ++ n) = n := by
  revert n; decide

@[simp] theorem parts_shift (sh : BitVec 6) :
    BitVec.setWidth (w := 11) 6 (0#5 ++ sh) = sh ∧ BitVec.setWidth (w := 32) 6 (0#26 ++ sh) = sh := by
  revert sh; decide

@[simp] theorem parts_scope (sc : BitVec 3) : BitVec.setWidth (w := 5) 3 (0#2 ++ sc) = sc := by revert sc; decide

@[simp] theorem parts_vpack (q : Bool) (ty : BitVec 4) :
    BitVec.setWidth (w := 16) 4 (0#11 ++ BitVec.ofBool q ++ ty) = ty ∧
      BitVec.getLsbD (w := 16) (0#11 ++ BitVec.ofBool q ++ ty) 4 = q := by
  revert q ty; decide

@[simp] theorem parts_vunpack (p : BitVec 2) (ty : BitVec 4) :
    BitVec.setWidth (w := 16) 4 (0#10 ++ p ++ ty) = ty ∧ BitVec.extractLsb' (n := 16) 4 2 (0#10 ++ p ++ ty) = p := by
  revert p ty; decide

theorem parts_written (x : Bool) : BitVec.getLsbD (w := 16) (0#9 ++ BitVec.ofBool x ++ 1#6) 6 = x := by revert x; decide

/-- `vqnt` holds a register field and whether it is written (R153). -/
@[simp] theorem parts_vqnt (c : Option Reg) :
    (bif BitVec.getLsbD (w := 16) (0#9 ++ BitVec.ofBool c.isSome ++ 1#6) 6 then some (c.getD 0#5) else none) = c := by
  rw [parts_written]
  cases c <;> rfl

@[simp] theorem parts_vmaxx (w : BitVec 3) : BitVec.extractLsb' (n := 16) 4 3 (0#9 ++ w ++ 1#4) = w := by revert w; decide

@[simp] theorem parts_creg (r : BitVec 10) (d : BitVec 5) :
    BitVec.extractLsb' (n := 15) 5 10 (r ++ d) = r ∧ BitVec.extractLsb' (n := 15) 0 5 (r ++ d) = d := by
  simp only [extractLsb'_eq_iff]
  rw [toNat_append_add]
  omega

@[simp] theorem parts_incumbent (k : BitVec 3) (n : BitVec 4) : BitVec.extractLsb' (n := 9) 4 3 ((0#2 ++ k) ++ n) = k ∧
    BitVec.extractLsb' (n := 9) 0 4 ((0#2 ++ k) ++ n) = n := by
  revert k n; decide

end Sys2Proof
end

section
/-! PROOF. What is encoded is decoded: the dispatch of `readFields`, and each instruction read back from its parcels (R84, R85). -/

namespace Sys2Proof

/-! The reader of each major and length. -/

section
variable {p1 p2 p3 : BitVec 32}

theorem readFields_ialu (ho : fop p1 = 1#6) (hl : fL p1 = 0#2) : readFields p1 p2 p3 = readIalu p1 := by
  rw [readFields, ho, hl]; rfl
theorem readFields_ialuQ (ho : fop p1 = 1#6) (hl : fL p1 = 1#2) : readFields p1 p2 p3 = readIaluQ p1 p2 := by
  rw [readFields, ho, hl]; rfl
theorem readFields_ialui (ho : fop p1 = 2#6) (hl : fL p1 = 0#2) : readFields p1 p2 p3 = readIalui p1 := by
  rw [readFields, ho, hl]; rfl
theorem readFields_ialuiQ (ho : fop p1 = 2#6) (hl : fL p1 = 1#2) : readFields p1 p2 p3 = readIaluiQ p1 p2 := by
  rw [readFields, ho, hl]; rfl
theorem readFields_lit (ho : fop p1 = 4#6) (hl : fL p1 = 0#2) : readFields p1 p2 p3 = readLit p1 := by
  rw [readFields, ho, hl]; rfl
theorem readFields_litQ (ho : fop p1 = 4#6) (hl : fL p1 = 1#2) : readFields p1 p2 p3 = readLitQ p1 p2 := by
  rw [readFields, ho, hl]; rfl
theorem readFields_bcc (ho : fop p1 = 5#6) (hl : fL p1 = 0#2) : readFields p1 p2 p3 = readBcc p1 := by
  rw [readFields, ho, hl]; rfl
theorem readFields_bccQ (ho : fop p1 = 5#6) (hl : fL p1 = 1#2) : readFields p1 p2 p3 = readBccQ p1 p2 := by
  rw [readFields, ho, hl]; rfl
theorem readFields_jal (ho : fop p1 = 6#6) (hl : fL p1 = 0#2) : readFields p1 p2 p3 = readJal p1 := by
  rw [readFields, ho, hl]; rfl
theorem readFields_jalQ (ho : fop p1 = 6#6) (hl : fL p1 = 1#2) : readFields p1 p2 p3 = readJalQ p1 p2 := by
  rw [readFields, ho, hl]; rfl
theorem readFields_loop (ho : fop p1 = 7#6) (hl : fL p1 = 0#2) : readFields p1 p2 p3 = readLoop p1 := by
  rw [readFields, ho, hl]; rfl
theorem readFields_loopQ (ho : fop p1 = 7#6) (hl : fL p1 = 1#2) : readFields p1 p2 p3 = readLoopQ p1 p2 := by
  rw [readFields, ho, hl]; rfl
theorem readFields_jr (ho : fop p1 = 8#6) (hl : fL p1 = 0#2) : readFields p1 p2 p3 = readJr p1 := by
  rw [readFields, ho, hl]; rfl
theorem readFields_sfp (ho : fop p1 = 9#6) (hl : fL p1 = 0#2) : readFields p1 p2 p3 = readSfp p1 := by
  rw [readFields, ho, hl]; rfl
theorem readFields_sfpQ (ho : fop p1 = 9#6) (hl : fL p1 = 1#2) : readFields p1 p2 p3 = readSfpQ p1 p2 := by
  rw [readFields, ho, hl]; rfl
theorem readFields_sys (ho : fop p1 = 11#6) (hl : fL p1 = 0#2) : readFields p1 p2 p3 = readSys p1 := by
  rw [readFields, ho, hl]; rfl
theorem readFields_fmt (ho : fop p1 = 12#6) (hl : fL p1 = 0#2) : readFields p1 p2 p3 = readFmt p1 := by
  rw [readFields, ho, hl]; rfl
theorem readFields_vfpQ (ho : fop p1 = 16#6) (hl : fL p1 = 1#2) : readFields p1 p2 p3 = readVfpQ p1 p2 := by
  rw [readFields, ho, hl]; rfl
theorem readFields_vfpL (ho : fop p1 = 16#6) (hl : fL p1 = 2#2) : readFields p1 p2 p3 = readVfpL p1 p2 p3 := by
  rw [readFields, ho, hl]; rfl
theorem readFields_vintQ (ho : fop p1 = 17#6) (hl : fL p1 = 1#2) : readFields p1 p2 p3 = readVintQ p1 p2 := by
  rw [readFields, ho, hl]; rfl
theorem readFields_vintL (ho : fop p1 = 17#6) (hl : fL p1 = 2#2) : readFields p1 p2 p3 = readVintL p1 p2 p3 := by
  rw [readFields, ho, hl]; rfl
theorem readFields_vcmpQ (ho : fop p1 = 18#6) (hl : fL p1 = 1#2) : readFields p1 p2 p3 = readVcmpQ p1 p2 := by
  rw [readFields, ho, hl]; rfl
theorem readFields_vmoveQ (ho : fop p1 = 19#6) (hl : fL p1 = 1#2) : readFields p1 p2 p3 = readVmoveQ p1 p2 := by
  rw [readFields, ho, hl]; rfl
theorem readFields_vmoveL (ho : fop p1 = 19#6) (hl : fL p1 = 2#2) : readFields p1 p2 p3 = readVmoveL p1 p2 p3 := by
  rw [readFields, ho, hl]; rfl
theorem readFields_vredQ (ho : fop p1 = 20#6) (hl : fL p1 = 1#2) : readFields p1 p2 p3 = readVredQ p1 p2 := by
  rw [readFields, ho, hl]; rfl
theorem readFields_vcvtQ (ho : fop p1 = 21#6) (hl : fL p1 = 1#2) : readFields p1 p2 p3 = readVcvtQ p1 p2 := by
  rw [readFields, ho, hl]; rfl
theorem readFields_vmemQ (ho : fop p1 = 22#6) (hl : fL p1 = 1#2) : readFields p1 p2 p3 = readVmemQ p1 p2 := by
  rw [readFields, ho, hl]; rfl
theorem readFields_vlend (ho : fop p1 = 23#6) (hl : fL p1 = 0#2) : readFields p1 p2 p3 = readVlend p1 := by
  rw [readFields, ho, hl]; rfl
theorem readFields_ld (ho : fop p1 = 24#6) (hl : fL p1 = 0#2) : readFields p1 p2 p3 = readLd p1 := by
  rw [readFields, ho, hl]; rfl
theorem readFields_ldQ (ho : fop p1 = 24#6) (hl : fL p1 = 1#2) : readFields p1 p2 p3 = readLdQ p1 p2 := by
  rw [readFields, ho, hl]; rfl
theorem readFields_ldL (ho : fop p1 = 24#6) (hl : fL p1 = 2#2) : readFields p1 p2 p3 = readLdL p1 p2 p3 := by
  rw [readFields, ho, hl]; rfl
theorem readFields_st (ho : fop p1 = 25#6) (hl : fL p1 = 0#2) : readFields p1 p2 p3 = readSt p1 := by
  rw [readFields, ho, hl]; rfl
theorem readFields_stQ (ho : fop p1 = 25#6) (hl : fL p1 = 1#2) : readFields p1 p2 p3 = readStQ p1 p2 := by
  rw [readFields, ho, hl]; rfl
theorem readFields_stL (ho : fop p1 = 25#6) (hl : fL p1 = 2#2) : readFields p1 p2 p3 = readStL p1 p2 p3 := by
  rw [readFields, ho, hl]; rfl
theorem readFields_amoQ (ho : fop p1 = 26#6) (hl : fL p1 = 1#2) : readFields p1 p2 p3 = readAmoQ p1 p2 := by
  rw [readFields, ho, hl]; rfl
theorem readFields_fence (ho : fop p1 = 27#6) (hl : fL p1 = 0#2) : readFields p1 p2 p3 = readFence p1 := by
  rw [readFields, ho, hl]; rfl
theorem readFields_waitaQ (ho : fop p1 = 28#6) (hl : fL p1 = 1#2) : readFields p1 p2 p3 = readWaitaQ p1 p2 := by
  rw [readFields, ho, hl]; rfl
theorem readFields_cacheQ (ho : fop p1 = 29#6) (hl : fL p1 = 1#2) : readFields p1 p2 p3 = readCacheQ p1 p2 := by
  rw [readFields, ho, hl]; rfl
theorem readFields_engQ (ho : fop p1 = 32#6) (hl : fL p1 = 1#2) : readFields p1 p2 p3 = readEngQ p1 p2 := by
  rw [readFields, ho, hl]; rfl
theorem readFields_matQ (ho : fop p1 = 33#6) (hl : fL p1 = 1#2) : readFields p1 p2 p3 = readMatQ p1 p2 := by
  rw [readFields, ho, hl]; rfl
theorem readFields_recQ (ho : fop p1 = 34#6) (hl : fL p1 = 1#2) : readFields p1 p2 p3 = readRecQ p1 p2 := by
  rw [readFields, ho, hl]; rfl
theorem readFields_gridQ (ho : fop p1 = 35#6) (hl : fL p1 = 1#2) : readFields p1 p2 p3 = readGridQ p1 p2 := by
  rw [readFields, ho, hl]; rfl
theorem readFields_fabQ (ho : fop p1 = 36#6) (hl : fL p1 = 1#2) : readFields p1 p2 p3 = readFabQ p1 p2 := by
  rw [readFields, ho, hl]; rfl
theorem readFields_task (ho : fop p1 = 37#6) (hl : fL p1 = 0#2) : readFields p1 p2 p3 = readTask p1 := by
  rw [readFields, ho, hl]; rfl
theorem readFields_taskQ (ho : fop p1 = 37#6) (hl : fL p1 = 1#2) : readFields p1 p2 p3 = readTaskQ p1 p2 := by
  rw [readFields, ho, hl]; rfl
theorem readFields_tblQ (ho : fop p1 = 38#6) (hl : fL p1 = 1#2) : readFields p1 p2 p3 = readTblQ p1 p2 := by
  rw [readFields, ho, hl]; rfl

theorem lengthOf_one (hl : fL p1 = 0#2) : lengthOf p1 = some 1 := by rw [lengthOf, hl]; rfl
theorem lengthOf_two (hl : fL p1 = 1#2) : lengthOf p1 = some 2 := by rw [lengthOf, hl]; rfl
theorem lengthOf_three (hl : fL p1 = 2#2) : lengthOf p1 = some 3 := by rw [lengthOf, hl]; rfl

end

/-- The fields of its own parcels name an instruction with its length, whatever parcels follow. -/
def Code.ReadsBack (c : Code) : Prop :=
  ∀ rest, lengthOf ((c.parcels ++ rest).getD 0 0) = some c.parcels.length ∧
    readFields ((c.parcels ++ rest).getD 0 0) ((c.parcels ++ rest).getD 1 0) ((c.parcels ++ rest).getD 2 0) = some c

section
variable {c : Code} {p q r : BitVec 32}

theorem readsBack_one (hc : c.parcels = [p]) (hl : fL p = 0#2) (h : ∀ q r, readFields p q r = some c) : c.ReadsBack := by
  intro rest
  rw [hc]
  exact ⟨lengthOf_one hl, h _ _⟩

theorem readsBack_two (hc : c.parcels = [p, q]) (hl : fL p = 1#2) (h : ∀ r, readFields p q r = some c) : c.ReadsBack := by
  intro rest
  rw [hc]
  exact ⟨lengthOf_two hl, h _⟩

theorem readsBack_three (hc : c.parcels = [p, q, r]) (hl : fL p = 2#2) (h : readFields p q r = some c) : c.ReadsBack := by
  intro rest
  rw [hc]
  exact ⟨lengthOf_three hl, h⟩

end

/-- The codes of the conditions of `waita` fit three bits (R190). -/
theorem IntCc.code_mod_8 {cc : IntCc} (h : decide (cc.code ≤ 5) = true) : cc.code % 8 = cc.code :=
  Nat.mod_eq_of_lt (by have := of_decide_eq_true h; omega)

/-- Every instruction with parcels is read back, or is one of the late majors. -/
theorem readsBack_core (i : Instr) (hw : i.wf = true) (he : encode i ≠ []) :
    (∃ l : LateInstr, i = l.instr) ∨ (Code.core i).ReadsBack := by
  cases i
  case setCc cc d a b =>
    exact .inr (readsBack_one rfl (by simp) fun _ _ => (readFields_ialu (by simp) (by simp)).trans
        (by cases cc <;> simp [readIalu, IntCc.code, IntCc.ofCode]))
  case add | sub | mul | mulh | mulhn | div | divn | rem | remn | and_ | or_ | xor_ | andn | sll | srl | sra | rol | ror | min_ | max_
      | minn | maxn | clz | ctz | popc =>
    exact .inr (readsBack_one rfl (by simp) fun _ _ => (readFields_ialu (by simp) (by simp)).trans (by simp [readIalu]))
  case ext | extn | ins | sel =>
    exact .inr (readsBack_two rfl (by simp) fun _ => (readFields_ialuQ (by simp) (by simp)).trans (by simp [readIaluQ]))
  case addImm | andImm | orImm | xorImm | sllImm | srlImm | sraImm | mulImm =>
    exact .inr (readsBack_one rfl (by simp) fun _ _ => (readFields_ialui (by simp) (by simp)).trans (by simp [readIalui]))
  case addImmQ | andImmQ | orImmQ | xorImmQ | sllImmQ | srlImmQ | sraImmQ | mulImmQ =>
    exact .inr (readsBack_two rfl (by simp) fun _ => (readFields_ialuiQ (by simp) (by simp)).trans (by simp [readIaluiQ]))
  case li | lpc =>
    exact .inr (readsBack_one rfl (by simp) fun _ _ => (readFields_lit (by simp) (by simp)).trans (by simp [readLit]))
  case liQ | lih | lpcQ =>
    exact .inr (readsBack_two rfl (by simp) fun _ => (readFields_litQ (by simp) (by simp)).trans (by simp [readLitQ]))
  case bCc =>
    exact .inr (readsBack_one rfl (by simp) fun _ _ => (readFields_bcc (by simp) (by simp)).trans (by simp [readBcc]))
  case bCcQ =>
    exact .inr (readsBack_two rfl (by simp) fun _ => (readFields_bccQ (by simp) (by simp)).trans (by simp [readBccQ]))
  case jal =>
    exact .inr (readsBack_one rfl (by simp) fun _ _ => (readFields_jal (by simp) (by simp)).trans (by simp [readJal]))
  case jalQ =>
    exact .inr (readsBack_two rfl (by simp) fun _ => (readFields_jalQ (by simp) (by simp)).trans (by simp [readJalQ]))
  case loop =>
    exact .inr (readsBack_one rfl (by simp) fun _ _ => (readFields_loop (by simp) (by simp)).trans (by simp [readLoop]))
  case loopQ =>
    exact .inr (readsBack_two rfl (by simp) fun _ => (readFields_loopQ (by simp) (by simp)).trans (by simp [readLoopQ]))
  case jr =>
    exact .inr (readsBack_one rfl (by simp) fun _ _ => (readFields_jr (by simp) (by simp)).trans (by simp [readJr]))
  case fcmpCc cc d a b =>
    exact .inr (readsBack_one rfl (by simp) fun _ _ => (readFields_sfp (by simp) (by simp)).trans
        (by cases cc <;> simp [readSfp, FpCc.code, FpCc.ofCode]))
  case fadd | fsub | fmul | fdiv | fsqrt | fmin | fmax | fsgn | fsgnn | fsgnx | fcvtI32F32 | fcvtN32F32 | fcvtI64F32 | fcvtN64F32
      | fcvtF32I32 | fcvtF32N32 | fcvtF32I64 | fcvtF32N64 =>
    exact .inr (readsBack_one rfl (by simp) fun _ _ => (readFields_sfp (by simp) (by simp)).trans (by simp [readSfp]))
  case fma =>
    exact .inr (readsBack_two rfl (by simp) fun _ => (readFields_sfpQ (by simp) (by simp)).trans (by simp [readSfpQ]))
  case nop | crd | cwr | sys | brk | eret | exit =>
    exact .inr (readsBack_one rfl (by simp) fun _ _ => (readFields_sys (by simp) (by simp)).trans (by simp [readSys]))
  case fmt =>
    exact .inr (readsBack_one rfl (by simp) fun _ _ => (readFields_fmt (by simp) (by simp)).trans (by simp [readFmt]))
  case vaddF32 | vsubF32 | vmulF32 | vdiv | vsqrt | vrsqrt | vexp2 | vminF32 | vmaxF32 | vabsF32 | vneg | vfma | vfms | vfnma =>
    exact .inr (readsBack_two rfl (by simp) fun _ => (readFields_vfpQ (by simp) (by simp)).trans (by simp [readVfpQ]))
  case vaddF32Lit | vsubF32Lit | vmulF32Lit | vdivLit | vminF32Lit | vmaxF32Lit =>
    exact .inr (readsBack_three rfl (by simp) ((readFields_vfpL (by simp) (by simp)).trans (by simp [readVfpL])))
  case vaddInt | vsubInt | vmulInt | vmulh | vand | vor | vxor | vandn | vsll | vsrl | vsra | vminInt | vmaxInt | vabsI32 | vadds
      | vsubs =>
    exact .inr (readsBack_two rfl (by simp) fun _ => (readFields_vintQ (by simp) (by simp)).trans (by simp [readVintQ]))
  case vaddIntLit | vsubIntLit | vmulIntLit | vmulhLit | vandLit | vorLit | vxorLit | vandnLit | vsllLit | vsrlLit | vsraLit
      | vminIntLit | vmaxIntLit | vaddsLit | vsubsLit =>
    exact .inr (readsBack_three rfl (by simp) ((readFields_vintL (by simp) (by simp)).trans (by simp [readVintL])))
  case vcmpF32 cc d a b m =>
    exact .inr (readsBack_two rfl (by simp) fun _ => (readFields_vcmpQ (by simp) (by simp)).trans
        (by cases cc <;> simp [readVcmpQ, FpCc.code, FpCc.ofCode]))
  case vcmpI32 cc d a b m =>
    exact .inr (readsBack_two rfl (by simp) fun _ => (readFields_vcmpQ (by simp) (by simp)).trans
        (by cases cc <;> simp [readVcmpQ, IntCc.code, IntCc.ofCode]))
  case vsel | vmcnt | vfirst | vmand | vmor | vmxor | vmnot =>
    exact .inr (readsBack_two rfl (by simp) fun _ => (readFields_vcmpQ (by simp) (by simp)).trans (by simp [readVcmpQ]))
  case vperm | vbcast | vext | vins | vslide | vcompress | vexpand | vmov =>
    exact .inr (readsBack_two rfl (by simp) fun _ => (readFields_vmoveQ (by simp) (by simp)).trans (by simp [readVmoveQ]))
  case vbcastLit =>
    exact .inr (readsBack_three rfl (by simp) ((readFields_vmoveL (by simp) (by simp)).trans (by simp [readVmoveL])))
  case vredAdd | vredMin | vredMax | vredAnd | vredOr | vredXor | vscanAdd | vscanMin | vscanMax =>
    exact .inr (readsBack_two rfl (by simp) fun _ => (readFields_vredQ (by simp) (by simp)).trans (by simp [readVredQ]))
  case vcvt | vpack | vunpack | vqnt | vmaxx =>
    exact .inr (readsBack_two rfl (by simp) fun _ => (readFields_vcvtQ (by simp) (by simp)).trans
        (by simp [readVcvtQ, -Nat.reduceAdd, -BitVec.getLsbD_eq_getElem]))
  case vld | vst | vlds | vsts | vldx | vstx =>
    exact .inr (readsBack_two rfl (by simp) fun _ => (readFields_vmemQ (by simp) (by simp)).trans (by simp [readVmemQ]))
  case vclaim | vrelease =>
    exact .inr (readsBack_one rfl (by simp) fun _ _ => (readFields_vlend (by simp) (by simp)).trans (by simp [readVlend]))
  case ldI8 | ldN8 | ldI16 | ldN16 | ldI32 | ldN32 | ldI64 | lea =>
    exact .inr (readsBack_one rfl (by simp) fun _ _ => (readFields_ld (by simp) (by simp)).trans (by simp [readLd]))
  case ldI8Mk | ldN8Mk | ldI16Mk | ldN16Mk | ldI32Mk | ldN32Mk | ldI64Mk | leaMk =>
    exact .inr (readsBack_two rfl (by simp) fun _ => (readFields_ldQ (by simp) (by simp)).trans (by simp [readLdQ]))
  case ldI8Mkl | ldN8Mkl | ldI16Mkl | ldN16Mkl | ldI32Mkl | ldN32Mkl | ldI64Mkl | leaMkl =>
    exact .inr (readsBack_three rfl (by simp) ((readFields_ldL (by simp) (by simp)).trans (by simp [readLdL])))
  case stI8 | stI16 | stI32 | stI64 =>
    exact .inr (readsBack_one rfl (by simp) fun _ _ => (readFields_st (by simp) (by simp)).trans (by simp [readSt]))
  case stI8Mk | stI16Mk | stI32Mk | stI64Mk =>
    exact .inr (readsBack_two rfl (by simp) fun _ => (readFields_stQ (by simp) (by simp)).trans (by simp [readStQ]))
  case stI8Mkl | stI16Mkl | stI32Mkl | stI64Mkl =>
    exact .inr (readsBack_three rfl (by simp) ((readFields_stL (by simp) (by simp)).trans (by simp [readStL])))
  case amoAdd | amoAnd | amoOr | amoXor | amoMin | amoMax | amoMinn | amoMaxn | amoSwap | amoCas | amoFadd | amoFmin | amoFmax =>
    exact .inr (readsBack_two rfl (by simp) fun _ => (readFields_amoQ (by simp) (by simp)).trans (by simp [readAmoQ]))
  case fence | fenceAcq | fenceRel | fenceW =>
    exact .inr (readsBack_one rfl (by simp) fun _ _ => (readFields_fence (by simp) (by simp)).trans (by simp [readFence]))
  case waita cc d xo b seg disp acq =>
    exact .inr (readsBack_two rfl (by simp) fun _ => (readFields_waitaQ (by simp) (by simp)).trans
        (by simp [readWaitaQ, IntCc.code_mod_8 hw]))
  case cinv | cwb | cflush | cpref =>
    exact .inr (readsBack_two rfl (by simp) fun _ => (readFields_cacheQ (by simp) (by simp)).trans (by simp [readCacheQ]))
  case dcopy | dfill | dfree | gather | scatter | spwalk | merge =>
    exact .inr (readsBack_two rfl (by simp) fun _ => (readFields_engQ (by simp) (by simp)).trans
        (by simp [readEngQ, -Nat.reduceAdd, -BitVec.getLsbD_eq_getElem]))
  case mldb | mmac | mmacCoop =>
    exact .inr (readsBack_two rfl (by simp) fun _ => (readFields_matQ (by simp) (by simp)).trans
        (by simp [readMatQ, -Nat.reduceAdd, -BitVec.getLsbD_eq_getElem]))
  case kchk =>
    exact .inr (readsBack_one rfl (by simp) fun _ _ => (readFields_task (by simp) (by simp)).trans (by simp [readTask]))
  case rnew d a c sa sp => exact .inl ⟨.rnew d a c sa sp, rfl⟩
  case rdel b c => exact .inl ⟨.rdel b c, rfl⟩
  case rld a b c sa acq => exact .inl ⟨.rld a b c sa acq, rfl⟩
  case rst d a b c sa rel => exact .inl ⟨.rst d a b c sa rel, rfl⟩
  case rloc d b c => exact .inl ⟨.rloc d b c, rfl⟩
  case qbox d a b c sa sp => exact .inl ⟨.qbox d a b c sa sp, rfl⟩
  case qrad d a b c sa sp => exact .inl ⟨.qrad d a b c sa sp, rfl⟩
  case gld d a b c sa g => exact .inl ⟨.gld d a b c sa g, rfl⟩
  case gst d a b c sa g => exact .inl ⟨.gst d a b c sa g, rfl⟩
  case gstep c g => exact .inl ⟨.gstep c g, rfl⟩
  case put k => exact .inl ⟨.put k, rfl⟩
  case get k => exact .inl ⟨.get k, rfl⟩
  case msg d a b c => exact .inl ⟨.msg d a b c, rfl⟩
  case recv d a sa nb => exact .inl ⟨.recv d a sa nb, rfl⟩
  case pub d a b c sb cw ds => exact .inl ⟨.pub d a b c sb cw ds, rfl⟩
  case rblk d => exact .inl ⟨.rblk d, rfl⟩
  case rblkSet a b => exact .inl ⟨.rblkSet a b, rfl⟩
  case baddq ty a b c sa sb => exact .inl ⟨.baddq ty a b c sa sb, rfl⟩
  case sset a sa sb => exact .inl ⟨.sset a sa sb, rfl⟩
  case ssetT a sa sb => exact .inl ⟨.ssetT a sa sb, rfl⟩
  case tlbinv wb d a b c => exact .inl ⟨.tlbinv wb d a b c, rfl⟩
  case gtw a sa g => exact .inl ⟨.gtw a sa g, rfl⟩
  case pbind gd a sa n => exact .inl ⟨.pbind gd a sa n, rfl⟩
  case pbindU gd n => exact .inl ⟨.pbindU gd n, rfl⟩
  case crange clr a b k => exact .inl ⟨.crange clr a b k, rfl⟩
  case spawn d a sa rel => exact .inl ⟨.spawn d a sa rel, rfl⟩
  case iupd d a b k => exact .inl ⟨.iupd d a b k, rfl⟩
  case ird d a k => exact .inl ⟨.ird d a k, rfl⟩
  case bar a => exact .inl ⟨.bar a, rfl⟩
  case sstep d a => exact .inl ⟨.sstep d a, rfl⟩
  case dset d a b => exact .inl ⟨.dset d a b, rfl⟩
  case ddec d a b => exact .inl ⟨.ddec d a b, rfl⟩
  all_goals exact absurd rfl he

theorem readsBack_late (l : LateInstr) : (Code.late l).ReadsBack := by
  cases l
  case rnew | rdel | rld | rst | rloc | qbox | qrad =>
    exact readsBack_two rfl (by simp) fun _ => (readFields_recQ (by simp) (by simp)).trans (by simp [readRecQ])
  case gld | gst | gstep =>
    exact readsBack_two rfl (by simp) fun _ => (readFields_gridQ (by simp) (by simp)).trans (by simp [readGridQ])
  case put | get | msg | recv | pub | rblk | rblkSet | baddq =>
    exact readsBack_two rfl (by simp) fun _ => (readFields_fabQ (by simp) (by simp)).trans
        (by simp [readFabQ, -Nat.reduceAdd, -BitVec.getLsbD_eq_getElem])
  case sset | ssetT | tlbinv | gtw | pbind | pbindU | crange =>
    exact readsBack_two rfl (by simp) fun _ => (readFields_tblQ (by simp) (by simp)).trans
        (by simp [readTblQ, -Nat.reduceAdd, -BitVec.getLsbD_eq_getElem])
  case spawn =>
    exact readsBack_two rfl (by simp) fun _ => (readFields_taskQ (by simp) (by simp)).trans (by simp [readTaskQ])
  case iupd | ird | bar | sstep | dset | ddec =>
    exact readsBack_one rfl (by simp) fun _ _ => (readFields_task (by simp) (by simp)).trans (by simp [readTask])

/-! What the decoder builds is the instruction, with its operands and its parcels. -/

@[simp] theorem Code.wf_instr (c : Code) : c.instr.wf = c.wf := by
  cases c with
  | core i => rfl
  | late l => cases l <;> rfl

@[simp] theorem Code.encode_instr (c : Code) : encode c.instr = c.parcels := by
  cases c with
  | core i => rfl
  | late l => cases l <;> rfl

/-- Every instruction that has an encoding is one that the decoder can build. -/
theorem exists_readsBack {i : Instr} (hw : i.wf = true) (he : encode i ≠ []) : ∃ c : Code, c.instr = i ∧ c.ReadsBack := by
  rcases readsBack_core i hw he with ⟨l, rfl⟩ | h
  · exact ⟨.late l, rfl, readsBack_late l⟩
  · exact ⟨.core i, rfl, h⟩

/-- What `decode` answers (R84, R85): what the fields name, if an encoding can hold it and its parcels are the parcels read. -/
theorem decode_eq_some {p1 p2 p3 : BitVec 32} {c : Code} : decode p1 p2 p3 = some c ↔
    readFields p1 p2 p3 = some c ∧ c.wf = true ∧ ∃ n, lengthOf p1 = some n ∧ c.parcels = [p1, p2, p3].take n := by
  unfold decode
  cases lengthOf p1 with
  | none => simp
  | some n =>
    cases readFields p1 p2 p3 with
    | none => simp
    | some d =>
      simp only [Option.ite_none_right_eq_some, Option.some.injEq, Bool.and_eq_true, beq_iff_eq]
      constructor
      · rintro ⟨⟨hw, hp⟩, rfl⟩
        exact ⟨rfl, hw, n, rfl, hp⟩
      · rintro ⟨rfl, hw, _, rfl, hp⟩
        exact ⟨⟨hw, hp⟩, rfl⟩

/-- What `decodeAt` answers: the instruction of the parcels, where it ends within its block. -/
theorem decodeAt_eq_ok {off : Nat} {ps : List (BitVec 32)} {c : Code} {n : Nat} : decodeAt off ps = .ok (c, n) ↔
    ps ≠ [] ∧ ∃ k, lengthOf (ps.getD 0 0) = some k ∧ n = 4 * k ∧ off + 4 * k ≤ 32 ∧
      decode (ps.getD 0 0) (ps.getD 1 0) (ps.getD 2 0) = some c := by
  cases ps with
  | nil => simp [decodeAt]
  | cons p rest =>
    simp only [decodeAt, List.getD_cons_zero, List.getD_cons_succ]
    cases lengthOf p with
    | none => simp
    | some k =>
      by_cases hk : 32 < off + 4 * k
      · simp [hk]
      · cases decode p (rest.getD 0 0) (rest.getD 1 0) with
        | none => simp [hk]
        | some d =>
          have hoff : off + 4 * k ≤ 32 := Nat.le_of_not_lt hk
          simp only [hk, if_false, Except.ok.injEq, Prod.mk.injEq, Option.some.injEq, ne_eq, reduceCtorEq, not_false_eq_true, true_and]
          constructor
          · rintro ⟨rfl, rfl⟩
            exact ⟨k, rfl, rfl, hoff, rfl⟩
          · rintro ⟨_, rfl, rfl, -, rfl⟩
            exact ⟨rfl, rfl⟩

theorem lengthOf_le {p : BitVec 32} {k : Nat} (h : lengthOf p = some k) : 1 ≤ k ∧ k ≤ 3 := by
  unfold lengthOf at h
  split at h <;> simp_all <;> omega

theorem take_of_getD {ps : List (BitVec 32)} (h : ps ≠ []) {k : Nat} (hk : k ≤ 3) :
    [ps.getD 0 0, ps.getD 1 0, ps.getD 2 0].take k = (ps ++ [0, 0]).take k := by
  rcases ps with _ | ⟨p, _ | ⟨q, _ | ⟨r, rest⟩⟩⟩
  · exact absurd rfl h
  all_goals interval_cases k <;> rfl

/-- The parcels of an instruction stand where the decoder looks for them. -/
theorem take_append_getD {qs rest : List (BitVec 32)} (h : qs ≠ []) (hk : qs.length ≤ 3) :
    [(qs ++ rest).getD 0 0, (qs ++ rest).getD 1 0, (qs ++ rest).getD 2 0].take qs.length = qs := by
  rw [take_of_getD (by simp [h]) hk, List.append_assoc, List.take_left']
  rfl

end Sys2Proof
end

section
namespace Sys2Proof.Machine

open Sys2Proof

/-- Settles O58: encoding then decoding is `exists_readsBack`; what is decoded has the parcels that were read, as `decode` asks. -/
theorem encodeThenDecode : Obligations.EncodeThenDecode := by
  refine ⟨fun i off rest hw he hoff => ?_, fun off ps c n h => ?_⟩
  · obtain ⟨c, rfl, hc⟩ := exists_readsBack hw he
    rw [Code.wf_instr] at hw
    rw [Code.encode_instr] at he hoff ⊢
    obtain ⟨hl, hr⟩ := hc rest
    have htake := take_append_getD (rest := rest) he (lengthOf_le hl).2
    exact ⟨c, rfl, decodeAt_eq_ok.2 ⟨by simp [he], _, hl, rfl, hoff, decode_eq_some.2 ⟨hr, hw, _, hl, htake.symm⟩⟩⟩
  · obtain ⟨hps, k, hl, rfl, hoff, hd⟩ := decodeAt_eq_ok.1 h
    obtain ⟨-, hw, k', hl', hp⟩ := decode_eq_some.1 hd
    obtain rfl : k = k' := Option.some.inj (hl.symm.trans hl')
    have hk := (lengthOf_le hl).2
    rw [take_of_getD hps hk] at hp
    have hlen : (ps ++ [0, 0]).length ≥ 3 := by
      have := List.length_pos_iff.2 hps
      simp
      omega
    rw [Code.wf_instr, Code.encode_instr, hp]
    refine ⟨hw, ?_, hoff, by rw [Nat.mul_div_cancel_left k (by omega)]⟩
    rw [List.length_take, Nat.min_eq_left (by omega)]

/-- Settles O57: each word is read by the decoder. -/
theorem wordsOfTheEncodingTables : Obligations.WordsOfTheEncodingTables := by
  unfold Obligations.WordsOfTheEncodingTables
  decide

end Sys2Proof.Machine
end

section /-! PROOF. A commit also ends the wait of a `fence.w`, which the frame of O54 does not list. -/
namespace Sys2Proof.Machine
open Sys2Proof

/-- A context of the pool that waits at a `fence.w` for any window. -/
def waitingAtFence : Ctx :=
  { Ctx.start Image.zero 0 { cls := 0, place := 0, placeArg := 0, srch := false, inc := 0, signal := none, elig := 0, promo := 0 } with
    winWait := some ⟨0, 0, 0, none⟩ }

/-- The reset machine with `waitingAtFence` as its context 0. -/
def stateAtFence : State := State.reset.setCtx 0 waitingAtFence

/-- Refutes O54: the context after a commit has no `winWait`, where the statement keeps the one before. A context that waits at a
`fence.w` shows it. -/
theorem not_commitFrame : ¬ Obligations.CommitFrame := by
  intro ⟨_, hcommit⟩
  have h : stateAtFence.ctx? 0 = some waitingAtFence := State.ctx?_setCtx ..
  obtain ⟨hctx, -⟩ := hcommit stateAtFence 0 waitingAtFence Image.zero h
  rw [State.commit_ctx h] at hctx
  have hwait : (none : Option WinWait) = waitingAtFence.winWait := congrArg Ctx.winWait (Option.some.inj hctx)
  simp [waitingAtFence] at hwait

end Sys2Proof.Machine
end

section /-! PROOF. What holds an instruction back before its own part: its privilege, a prefix that it does not take, an older ring
entry that is still to write one of its registers. -/
namespace Sys2Proof.Machine
open Sys2Proof

variable {s : State} {cid : Nat} {c : Ctx} {regs : List Reg} {p : BitVec 24}

/-- A pending prefix is refused by an instruction that takes none, whatever its payload (R83). -/
theorem pfxCheck_noPrefix {m : Image} (hp : m.pending? = some p) : pfxCheck m noPrefix = some (FaultRec.mk0 cPfx p.toNat m.pc.toNat) := by
  rw [pfxCheck, hp]
  cases h : payloadOf p with
  | none => simp [h]
  | some q => simp [h, noPrefix]

theorem runInstr_pending (h : s.At cid c) (hp : c.img.pending? = some p) (regs : List Reg) (f : State → Nat → Ctx → Eff) :
    runInstr false noPrefix regs f s = s.traps cid c (FaultRec.mk0 cPfx p.toNat c.img.pc.toNat) := by
  unfold State.At at h
  simp [runInstr, h, pfxCheck_noPrefix hp, Eff.state, State.traps]

theorem runInstr_interlocked (h : s.At cid c) (hp : c.img.pp = false) (hi : interlocked c.ring regs = true)
    (f : State → Nat → Ctx → Eff) (accept : Prefix → Bool) : runInstr false accept regs f s = .next { s with stalled := true } := by
  unfold State.At at h
  simp [runInstr, h, pfxCheck_free hp, hi, Eff.state]

theorem runRegs_pending (h : s.At cid c) (hp : c.img.pending? = some p) (regs : List Reg) (f : Image → Except FaultRec Image) :
    runRegs false regs f s = s.traps cid c (FaultRec.mk0 cPfx p.toNat c.img.pc.toNat) := runInstr_pending h hp _ _

theorem runMem_pending (h : s.At cid c) (hp : c.img.pending? = some p) (regs : List Reg) (f : State → Nat → Ctx → Eff) :
    runMem false regs f s = s.traps cid c (FaultRec.mk0 cPfx p.toNat c.img.pc.toNat) := runInstr_pending h hp _ _

theorem runRing_pending (h : s.At cid c) (hp : c.img.pending? = some p) (len : Nat) (i : Instr) :
    runRing noPrefix len i s = s.traps cid c (FaultRec.mk0 cPfx p.toNat c.img.pc.toNat) := runInstr_pending h hp _ _

theorem execAdd_interlocked {d a b : Reg} (h : s.At cid c) (hpp : c.img.pp = false) (hi : interlocked c.ring [d, a, b] = true) :
    execAdd d a b s = .next { s with stalled := true } := by
  rw [execAdd, runAlu, runRegs]
  exact runInstr_interlocked h hpp hi _ _

/-- Settles O16: each of the instructions named is one of the shared forms, which take no prefix. -/
theorem pendingPrefixAndOlderEntriesHoldBack : Obligations.PendingPrefixAndOlderEntriesHoldBack := by
  refine ⟨fun s cid c p hat hp => ?_, fun s cid c d a b hat hpp hi => execAdd_interlocked hat hpp hi⟩
  have regs := runRegs_pending hat hp
  have mem := runMem_pending hat hp
  have ring := runRing_pending hat hp
  refine ⟨fun d a b => ?_, fun d i => ?_, fun cc a b o => ?_, fun d xo seg disp => ?_, fun d xo seg disp => ?_, ?_, ?_, fun q => ?_,
    fun n d a b m => ?_, fun k r => ?_, fun sc => ?_, fun d a b => ?_⟩
  · rw [exec_add, execAdd, runAlu, regs, cPfx]
  · rw [exec_li, execLi, runAlu, regs, cPfx]
  · rw [exec_bCc, execBCc, runBranch, regs, cPfx]
  · rw [exec_ldI64, execLdI64, runLoad, mem, cPfx]
  · rw [exec_stI64, execStI64, runStore, mem, cPfx]
  · rw [exec_nop, execNop, regs, cPfx]
  · rw [exec_exit, execExit, runInstr_pending hat hp, cPfx]
  · rw [exec_fmt, execFmt, regs, cPfx]
  · rw [exec_vaddInt, execVaddInt, ring, cPfx]
  · rw [exec_dcopy, execDcopy, ring, cPfx]
  · rw [exec_fence, execFence, runFence, mem, cPfx]
  · rw [exec_fmin, execFmin, runFpBits, regs, cPfx]

theorem execIllegalInstruction_at (h : s.At cid c) (w : IllegalWord) :
    execIllegalInstruction w s =
      s.traps cid c (FaultRec.mk0 (match w with | .crossing => cMisInstr | _ => cIllegal) 0 c.img.pc.toNat) := by
  unfold State.At at h
  unfold execIllegalInstruction
  rw [h]
  rfl

theorem execInstructionFetchFault_at (h : s.At cid c) (code detail : Nat) :
    execInstructionFetchFault code detail s = s.traps cid c (FaultRec.mk0 code detail c.img.pc.toNat) := by
  unfold State.At at h
  unfold execInstructionFetchFault
  rw [h]
  rfl

/-- Settles O17: the two fault events by their definitions, the privileged encodings by `runInstr_user`. -/
theorem decodeFetchAndPrivilegeTraps : Obligations.DecodeFetchAndPrivilegeTraps := by
  refine ⟨fun s cid c hat => ⟨fun w hw => ?_, execIllegalInstruction_at hat .crossing, execInstructionFetchFault_at hat⟩,
    fun s cid c hat hprv => ?_⟩
  · cases w with
    | crossing => exact absurd rfl hw
    | encoding => exact execIllegalInstruction_at hat .encoding
    | length => exact execIllegalInstruction_at hat .length
  · have refuse : ∀ accept regs f, runInstr true accept regs f s = s.traps cid c (FaultRec.mk0 3 0 c.img.pc.toNat) :=
      runInstr_user hat hprv
    have runMem_refused : ∀ regs f, runMem true regs f s = s.traps cid c (FaultRec.mk0 3 0 c.img.pc.toNat) := fun _ _ => refuse ..
    refine ⟨?_, fun d xo b seg disp => ?_, fun wb d a b e => ?_, fun a sa g => ?_, fun r hr => ⟨fun d => ?_, fun a => ?_⟩⟩
    · rw [exec_eret, execEret, refuse]
    · rw [exec_cinv, execCinv, runMem_refused]
    · rw [exec_tlbinv, execTlbinv, runMem_refused]
    · rw [exec_gtw, execGtw, runMem_refused]
    · rw [exec_crd, execCrd, hr, refuse]
    · rw [exec_cwr, execCwr, hr, refuse]

end Sys2Proof.Machine
end

section /-! PROOF. The system instructions, and the count of a commit beside a counter that the same instruction writes. -/
namespace Sys2Proof.Machine
open Sys2Proof

variable {s : State} {cid : Nat} {c : Ctx} {m : Image} {us vs : List Reg}

theorem interlocked_subset {ring : List RingEntry} (hsub : us ⊆ vs) (h : interlocked ring vs = false) : interlocked ring us = false := by
  simp only [interlocked, List.any_eq_false] at h ⊢
  intro e he
  have hv := h e he
  cases hw : ringWritesX e.instr with
  | none => simp
  | some d =>
    simp only [hw, Bool.and_eq_true, bne_iff_ne, List.contains_iff_mem, not_and] at hv ⊢
    exact fun h0 hd => hv h0 (hsub hd)

theorem State.Ready.subset (h : s.Ready cid c vs) (hsub : us ⊆ vs) : s.Ready cid c us := by
  obtain ⟨hat, hpp, hi⟩ := h
  exact ⟨hat, hpp, interlocked_subset hsub hi⟩

theorem State.setCore_pmc {v : Core} {k : Nat} (h : v.pmc = (s.core k).pmc) (j : Nat) : ((s.setCore k v).core j).pmc = (s.core j).pmc := by
  by_cases hk : k = j
  · subst hk
    rw [State.core_setCore, h]
  · rw [State.core_setCore_ne _ _ hk]

theorem State.issued_pmc (s : State) (k j : Nat) : ((s.issued k).core j).pmc = (s.core j).pmc := by
  unfold State.issued
  dsimp only
  split
  · split
    · refine State.setCore_pmc ?_ j
      rfl
    · rfl
  · rfl

theorem State.setHolding_pmc (s : State) (k j : Nat) (b : Bool) : ((s.setHolding k b).core j).pmc = (s.core j).pmc := by
  unfold State.setHolding
  split
  · rfl
  · refine State.setCore_pmc ?_ j
    rfl

/-- The counters of the core after a commit: event 2 is counted (R102). -/
theorem State.commit_pmc (h : s.ctx? cid = some c) (m : Image) :
    ((s.commit cid m).core s.here).pmc = ((s.core s.here).count c.img.prv 2 1).pmc := by
  simp only [State.commit, h]
  exact (State.setHolding_pmc ..).trans ((State.issued_pmc ..).trans (congrArg Core.pmc (State.core_setCore ..)))

/-- The value that a `cwr` puts into a counter is the one that the count of its own commit brings to the value written (R132). -/
theorem writeCreg_pmc_count (s : State) (k : Nat) (m : Image) (n : BitVec 3) (w : Word) :
    (((s.writeCreg k m (.pmc n) w).1.core k).count m.prv 2 1).pmc[n.toNat] = w := by
  simp [State.writeCreg, Core.count]
  split_ifs
  · exact BitVec.sub_add_cancel w 1
  · rfl

/-- Settles O9: each instruction is its own part when it is free to execute. -/
theorem systemInstructionResults : Obligations.SystemInstructionResults := by
  intro s cid c d a r p h
  have hnone : s.Ready cid c [] := h.subset (List.nil_subset _)
  refine ⟨?_, ?_, fun hsys hring => ?_, fun w => rfl⟩
  · rw [exec_nop, execNop]
    exact runRegs_ready hnone _ rfl
  · rw [exec_fmt, execFmt]
    exact runRegs_ready hnone _ rfl
  have hprv : cregSys r = false ∨ c.img.prv = true := by
    cases hr : cregSys r with
    | false => exact .inl rfl
    | true => exact .inr (hsys hr)
  have hwait : (r == .fpflags && !c.ring.isEmpty) = false := by
    by_cases hr : r = .fpflags
    · simp [hring hr]
    · simp [hr]
  have hcwr : cregRo r = false → cregAccepts r (c.img.getX a) = true →
      exec (.cwr r a) s =
        (s.writeCreg s.here c.img r (c.img.getX a)).1.goes cid ((s.writeCreg s.here c.img r (c.img.getX a)).2.next 4) := by
    intro hro hacc
    rw [exec_cwr, execCwr, runInstr_ready (h.subset (by simp)) hprv]
    simp [hro, hacc, hwait, Eff.state, State.goes]
  refine ⟨?_, hcwr, fun n hr => ?_, fun hbad => ?_⟩
  · rw [exec_crd, execCrd, runInstr_ready (h.subset (by simp)) hprv]
    simp [hwait, Eff.state, State.goes]
  · subst hr
    have hctx : (s.writeCreg s.here c.img (.pmc n) (c.img.getX a)).1.ctx? cid = some c :=
      (State.ctx?_of_setCore ..).trans (State.at_ctx h.1)
    refine ⟨_, hcwr rfl rfl, ?_⟩
    have hpmc := State.commit_pmc hctx ((s.writeCreg s.here c.img (.pmc n) (c.img.getX a)).2.next 4)
    exact (congrArg (·[n.toNat]) hpmc).trans (writeCreg_pmc_count s s.here c.img n (c.img.getX a))
  · rw [exec_cwr, execCwr, runInstr_ready (h.subset (by simp)) hprv]
    rcases hbad with hro | hacc
    · simp [hro, Eff.state, State.traps]
    · simp [hacc, Eff.state, State.traps]

end Sys2Proof.Machine
end

section /-! PROOF. Work at the homes, translation and the lines of a register cache leave the active context of every core (R104, R105). -/
namespace Sys2Proof.Machine
open Sys2Proof

/-- The focus, the slots of every core and the slot that is active are the same, and the same contexts exist. -/
structure State.KeepsFocus (s t : State) : Prop where
  here : t.here = s.here
  active : ∀ k, (t.core k).active = (s.core k).active
  slots : ∀ k, (t.core k).slots = (s.core k).slots
  ctxs : ∀ cid, (t.ctx? cid).isSome = (s.ctx? cid).isSome

namespace State.KeepsFocus

theorem refl (s : State) : s.KeepsFocus s := ⟨rfl, fun _ => rfl, fun _ => rfl, fun _ => rfl⟩

theorem trans {s t u : State} (h : s.KeepsFocus t) (k : t.KeepsFocus u) : s.KeepsFocus u :=
  ⟨k.here.trans h.here, fun i => (k.active i).trans (h.active i), fun i => (k.slots i).trans (h.slots i),
    fun i => (k.ctxs i).trans (h.ctxs i)⟩

theorem foldl {α : Type} {f : State → α → State} (hf : ∀ (t : State) (a : α), t.KeepsFocus (f t a)) (s : State) (l : List α) :
    s.KeepsFocus (l.foldl f s) := by
  induction l generalizing s with
  | nil => exact refl s
  | cons a l ih => exact (hf s a).trans (ih (f s a))

/-- A change of anything but the focus, the cores and the contexts. -/
theorem quiet {s t : State} (hh : t.here = s.here := by rfl) (hk : t.cores = s.cores := by rfl) (hc : t.ctxs = s.ctxs := by rfl) :
    s.KeepsFocus t := by
  refine ⟨hh, fun k => ?_, fun k => ?_, fun cid => ?_⟩
  · rw [State.core, State.core, hk]
  · rw [State.core, State.core, hk]
  · rw [State.ctx?, State.ctx?, hc]

theorem setDie (s : State) (d : Nat) (v : Die) : s.KeepsFocus (s.setDie d v) := quiet

theorem setGrove (s : State) (g : Nat) (v : Grove) : s.KeepsFocus (s.setGrove g v) := quiet

theorem setCore {s : State} {k : Nat} {v : Core} (ha : v.active = (s.core k).active := by rfl)
    (hs : v.slots = (s.core k).slots := by rfl) : s.KeepsFocus (s.setCore k v) := by
  refine ⟨rfl, fun j => ?_, fun j => ?_, fun _ => rfl⟩
  all_goals
    by_cases hj : k = j
    · subst hj
      rwa [State.core_setCore]
    · rw [State.core_setCore_ne _ _ hj]

theorem count (s : State) (k : Nat) (sys : Bool) (ev n : Nat) : s.KeepsFocus (s.count k sys ev n) := setCore

theorem setCtx {s : State} {cid : Nat} {v c : Ctx} (h : s.ctx? cid = some c) : s.KeepsFocus (s.setCtx cid v) := by
  refine ⟨rfl, fun _ => rfl, fun _ => rfl, fun j => ?_⟩
  by_cases hj : cid = j
  · subst hj
    rw [State.ctx?_setCtx, h]
    rfl
  · rw [State.ctx?_setCtx_ne _ _ hj]

theorem updCtx (s : State) (cid : Nat) (f : Ctx → Ctx) : s.KeepsFocus (s.updCtx cid f) := by
  unfold State.updCtx
  split
  · exact setCtx ‹_›
  · exact refl s

theorem logHost (s : State) (d src info : Nat) : s.KeepsFocus (s.logHost d src info) := setDie _ _ _

theorem machineCheck (s : State) (d src mem info pa grove core : Nat) : s.KeepsFocus (s.machineCheck d src mem info pa grove core) := by
  unfold State.machineCheck
  dsimp only
  split
  · exact setDie _ _ _
  · exact setDie _ _ _

/-- Each context changed in place. -/
theorem mapCtxs (s : State) {f : Nat × Ctx → Nat × Ctx} (hf : ∀ p, (f p).1 = p.1) : s.KeepsFocus { s with ctxs := s.ctxs.map f } := by
  refine ⟨rfl, fun _ => rfl, fun _ => rfl, fun cid => ?_⟩
  simp [State.ctx?, Tab.get?_map hf]

theorem latchPhys (s : State) (pa n : Nat) : s.KeepsFocus (s.latchPhys pa n) := by
  unfold State.latchPhys
  split
  · exact refl s
  · refine mapCtxs s fun p => ?_
    split
    · split
      · rfl
      · rfl
    · rfl

/-- Each core changed in place, in neither its slots nor the active one, and the sites that fail. -/
theorem mapCores (s : State) {f : Nat × Core → Nat × Core} (bad : List SramSite)
    (hf : ∀ p, (f p).1 = p.1 ∧ (f p).2.active = p.2.active ∧ (f p).2.slots = p.2.slots) :
    s.KeepsFocus { s with cores := s.cores.map f, badSram := bad } := by
  have hcore (k : Nat) : (State.core { s with cores := s.cores.map f, badSram := bad } k).active = (s.core k).active ∧
      (State.core { s with cores := s.cores.map f, badSram := bad } k).slots = (s.core k).slots := by
    simp only [State.core, Tab.get?_map fun p => (hf p).1]
    cases s.cores.get? k with
    | none => exact ⟨rfl, rfl⟩
    | some v => exact (hf (k, v)).2
  exact ⟨rfl, fun k => (hcore k).1, fun k => (hcore k).2, fun _ => rfl⟩

/-! Images in the register caches (R94, R103). -/

theorem dropReg (s : State) (cid line : Nat) : s.KeepsFocus (s.dropReg cid line) := by
  unfold State.dropReg
  split
  · exact refl s
  · exact (mapCores s _ fun p => by split <;> exact ⟨rfl, rfl, rfl⟩).trans (updCtx _ _ _)

theorem recallImage (s : State) (line : Nat) : s.KeepsFocus (s.recallImage line) := by
  unfold State.recallImage
  split
  · exact refl s
  · split
    · exact refl s
    · exact (dropReg _ _ _).trans (dropReg _ _ _)

theorem imageWrite (s : State) (cid pa : Nat) (edits : List (Nat × Byte)) : s.KeepsFocus (s.imageWrite cid pa edits) := by
  unfold State.imageWrite
  split
  · exact refl s
  · split
    · exact machineCheck _ _ _ _ _ _ _ _
    · exact (setCtx ‹_›).trans (latchPhys _ _ _)

/-! The slices and the memory behind them (R163, R166 to R168). -/

theorem sweep (s : State) : s.KeepsFocus s.sweep := by
  unfold State.sweep
  split
  · exact refl s
  · exact quiet

theorem dropL1 (s : State) (g line : Nat) : s.KeepsFocus (s.dropL1 g line) := trans quiet (sweep _)

theorem spillSectors (s : State) (line : Nat) (m : BitVec 4) : s.KeepsFocus (s.spillSectors line m) := quiet

theorem leaveSlice (s : State) (g line : Nat) : s.KeepsFocus (s.leaveSlice g line) := by
  unfold State.leaveSlice
  dsimp only
  refine trans ?_ (sweep _)
  split
  · exact (spillSectors s line 0xF).trans quiet
  · exact quiet

theorem hold (s : State) (g line : Nat) (m : BitVec 4) (streaming : Bool) : s.KeepsFocus (s.hold g line m streaming) := by
  unfold State.hold
  extract_lets key ws isHome put plan cap mine
  have h (t : State) (w : Way) : t.KeepsFocus (put t w) := quiet
  split
  · exact h _ _
  · split
    · exact h _ _
    · split
      · split
        · exact refl s
        · exact (leaveSlice _ _ _).trans (h _ _)
      · exact refl s

theorem holdHome (s : State) (line : Nat) (m : BitVec 4) (streaming : Bool) : s.KeepsFocus (s.holdHome line m streaming) := by
  unfold State.holdHome
  dsimp only
  split
  · exact refl s
  · exact hold _ _ _ _ _

theorem spillUnheld (s : State) (line : Nat) : s.KeepsFocus (s.spillUnheld line) := by
  unfold State.spillUnheld
  extract_lets m
  split
  · exact spillSectors _ _ _
  · exact refl s

theorem dropProxies (s : State) (line : Nat) (keep : Option Nat) : s.KeepsFocus (s.dropProxies line keep) := by
  unfold State.dropProxies
  split
  · exact refl s
  · exact foldl (fun t d => leaveSlice t _ _) _ _

theorem placeBytes (s : State) (line : Nat) (bs : List (Nat × Byte)) (keep : Option Nat) (streaming : Bool) :
    s.KeepsFocus (s.placeBytes line bs keep streaming) := by
  unfold State.placeBytes
  extract_lets g has whole some_ m s1 s2
  have h1 : s.KeepsFocus s1 := dropProxies _ _ _
  have h2 : s1.KeepsFocus s2 := quiet
  exact ((h1.trans h2).trans (holdHome _ _ _ _)).trans (spillUnheld _ _)

theorem rawWriteAs (s : State) (pa : Nat) (bs : List Byte) (streaming : Bool) : s.KeepsFocus (s.rawWriteAs pa bs streaming) :=
  (foldl (fun t line => placeBytes t line _ _ _) _ _).trans (latchPhys _ _ _)

/-! The combine buffer, HEAD words and writes at the homes (R173, R176, R325). -/

theorem roundWords (s : State) (line : Nat) (hit : Nat → Bool) : s.KeepsFocus (s.roundWords line hit) := by
  unfold State.roundWords
  split
  · exact refl s
  · exact (foldl (fun t p => rawWriteAs t _ _ _) _ _).trans quiet

theorem roundSums (s : State) (pa n : Nat) : s.KeepsFocus (s.roundSums pa n) := foldl (fun t line => roundWords t line _) _ _

theorem yieldSums (s : State) (line : Nat) (writes : Nat → Bool) : s.KeepsFocus (s.yieldSums line writes) := by
  unfold State.yieldSums
  split
  · exact refl s
  · exact (roundWords _ _ _).trans quiet

theorem keepHeads (s t : State) (pa n : Nat) : t.KeepsFocus (s.keepHeads t pa n) := by
  refine foldl (fun u p => ?_) _ _
  split
  · exact refl u
  · split
    · exact refl u
    · refine foldl (fun v i => ?_) _ _
      dsimp only
      split
      · exact refl v
      · exact (rawWriteAs _ _ _ _).trans (logHost _ _ _ _)

/-- The sums of the words that a write touches give way, where there are any. -/
theorem ifSums {s t : State} (h : s.KeepsFocus t) : s.KeepsFocus (if s.combine.isEmpty then s else t) := by
  split
  · exact refl s
  · exact h

theorem homeWriteAs (s : State) (pa : Nat) (bs : List Byte) (streaming : Bool) : s.KeepsFocus (s.homeWriteAs pa bs streaming) := by
  unfold State.homeWriteAs
  split
  · exact imageWrite _ _ _ _
  · exact ((ifSums (foldl (fun t line => yieldSums t line _) _ _)).trans (rawWriteAs _ _ _ _)).trans (keepHeads _ _ _ _)

theorem homeMasked (s : State) (g line : Nat) (data : BitVec 1024) (mask : BitVec 128) (streaming : Bool) :
    s.KeepsFocus (s.homeMasked g line data mask streaming) := by
  unfold State.homeMasked
  dsimp only
  split
  · exact refl s
  · split
    · exact imageWrite _ _ _ _
    · exact (((ifSums (yieldSums _ _ _)).trans (placeBytes _ _ _ _ _)).trans (latchPhys _ _ _)).trans (keepHeads _ _ _ _)

/-! The partials of the grove L1s come to their homes (R173). -/

theorem combRoom (s : State) (line : Nat) : s.KeepsFocus (s.combRoom line) := by
  unfold State.combRoom
  split
  · exact roundSums _ _ _
  · exact refl s

theorem combinePartial (s : State) (r : CRange) (l : L1Line) : s.KeepsFocus (s.combinePartial r l) := by
  unfold State.combinePartial
  dsimp only
  split
  · exact (((combRoom s l.line).trans (holdHome _ _ _ _)).trans quiet).trans (latchPhys _ _ _)
  · exact foldl (fun t i => homeWriteAs t _ _ _) _ _

theorem writeBackLine (s : State) (g : Nat) (l : L1Line) : s.KeepsFocus (s.writeBackLine g l) := by
  unfold State.writeBackLine
  split
  · exact homeMasked _ _ _ _ _ _
  · split
    · split
      · exact combinePartial _ _ _
      · exact refl s
    · exact refl s

theorem recallLine (s : State) (line : Nat) : s.KeepsFocus (s.recallLine line) := by
  refine (recallImage s line).trans (foldl (fun t g => ?_) _ _)
  split
  · split
    · exact (writeBackLine _ _ _).trans (dropL1 _ _ _)
    · exact refl t
  · exact refl t

theorem recallRange (s : State) (pa n : Nat) : s.KeepsFocus (s.recallRange pa n) := foldl (fun t line => recallLine t line) _ _


/-! Reads at the homes (R163, R173, R179). -/

theorem touch (s : State) (d line : Nat) (m : BitVec 4) (streaming : Bool) : s.KeepsFocus (s.touch d line m streaming) := by
  unfold State.touch
  split
  · extract_lets g have_ s1 s2
    have h1 : s.KeepsFocus s1 := by
      unfold s1
      split
      · exact refl s
      · exact holdHome _ _ _ _
    have h2 : s.KeepsFocus s2 := h1.trans (hold _ _ _ _ _)
    split
    · exact h2.trans quiet
    · exact h2
  · exact holdHome _ _ _ _

theorem touchRange (s : State) (d pa n : Nat) (streaming : Bool) : s.KeepsFocus (s.touchRange d pa n streaming) :=
  foldl (fun t line => touch t d line _ _) _ _

theorem settle (s : State) (pa n : Nat) : s.KeepsFocus (s.settle pa n) := (recallRange s pa n).trans (roundSums _ _ _)

theorem readHome (s : State) (d pa n : Nat) : s.KeepsFocus (s.readHome d pa n).1 := by
  unfold State.readHome State.readHomeAs
  dsimp only
  split
  · exact settle _ _ _
  · exact (settle _ _ _).trans (touchRange _ _ _ _ _)

theorem reportBad (s : State) (g? : Option Nat) (d pa n core : Nat) : s.KeepsFocus (s.reportBad g? d pa n core) :=
  machineCheck _ _ _ _ _ _ _ _

/-! Translation (R355 to R360). -/

theorem readEntry (s : State) (d pa : Nat) : s.KeepsFocus (s.readEntry d pa).1 := by
  have h := readHome s d pa 8
  unfold State.readEntry
  split
  · rename_i heq
    rwa [heq] at h
  · rename_i heq
    rw [heq] at h
    exact h.trans (reportBad _ _ _ _ _ _)

theorem walkFrom (d asid va : Nat) (plan : List (Nat × Nat × Nat × Bool × Bool)) (s : State) (table : Nat) :
    s.KeepsFocus (s.walkFrom d plan table asid va).1 := by
  induction plan generalizing s table with
  | nil => exact refl s
  | cons step rest ih =>
    have h := readEntry s d (table + 8 * ((va / 2 ^ step.1) % 2 ^ step.2.1))
    simp only [State.walkFrom]
    split_ifs
    · exact h
    · exact h
    · exact h
    · exact h
    · exact h
    · exact h.trans (ih _ _)

theorem walk (s : State) (d asid va : Nat) : s.KeepsFocus (s.walk d asid va).1 := by
  unfold State.walk
  dsimp only
  split
  · exact refl s
  · exact walkFrom _ _ _ _ _ _

theorem coreLeaf (s : State) (core asid va : Nat) : s.KeepsFocus (s.coreLeaf core asid va).1 := by
  have h := walk s (coreDie core) asid va
  unfold State.coreLeaf
  dsimp only
  split
  · exact refl s
  · split
    · split
      · rename_i heq
        rwa [heq] at h
      · rename_i heq
        rw [heq] at h
        exact h.trans setCore
    · split
      · exact setCore
      · split
        · rename_i heq
          rwa [heq] at h
        · rename_i heq
          rw [heq] at h
          exact (h.trans setCore).trans (setGrove _ _ _)

theorem translate (s : State) (core asid va : Nat) (acc : Access) : s.KeepsFocus (s.translate core asid va acc).1 := by
  have h := coreLeaf s core asid va
  unfold State.translate
  split
  · rename_i heq
    rwa [heq] at h
  · rename_i heq
    rwa [heq] at h

theorem fetch (s : State) (core : Nat) (m : Image) : s.KeepsFocus (s.fetch core m).1 := by
  have ht := translate s core (s.fetchAsid m) (blockOf m.pc.toNat) .fetch
  unfold State.fetch
  split
  · rename_i heq
    rwa [heq] at ht
  · rename_i s1 pa heq
    rw [heq] at ht
    dsimp only
    split
    · exact ht
    · have hr := readHome s1 (coreDie core) pa 32
      split
      · rename_i heq'
        rw [heq'] at hr
        exact (ht.trans hr).trans (reportBad _ _ _ _ _ _)
      · rename_i heq'
        rw [heq'] at hr
        exact ht.trans hr

/-! The lines of a register cache, and the loads performed ahead (R94, R103, log 89). -/

theorem takeLine (s : State) (core cid line : Nat) : s.KeepsFocus (s.takeLine core cid line) := by
  unfold State.takeLine
  extract_lets s1 s2 s3
  have h1 : s.KeepsFocus s1 := (dropReg _ _ _).trans (touchRange _ _ _ _ _)
  have h2 : s.KeepsFocus s2 := by
    unfold s2
    split
    · exact h1
    · split
      · exact h1.trans (dropReg _ _ _)
      · exact h1
  have h3 : s.KeepsFocus s3 := h2.trans (updCtx _ _ _)
  exact (h3.trans setCore).trans (count _ _ _ _ _)

theorem useLine (s : State) (core cid line : Nat) : s.KeepsFocus (s.useLine core cid line).1 := by
  unfold State.useLine State.touchLine
  dsimp only
  split
  · split
    · exact machineCheck _ _ _ _ _ _ _ _
    · exact setCore
  · split
    · exact reportBad _ _ _ _ _ _
    · exact takeLine _ _ _ _

theorem useLines (s : State) (core cid : Nat) (lines : List Nat) : s.KeepsFocus (s.useLines core cid lines).1 := by
  have each (ls : List Nat) (u : State × Option Nat) :
      u.1.KeepsFocus (ls.foldl (fun (t : State × Option Nat) l => match t.2 with | some _ => t | none => t.1.useLine core cid l) u).1 := by
    induction ls generalizing u with
    | nil => exact refl u.1
    | cons l ls ih =>
      refine trans ?_ (ih _)
      dsimp only
      split
      · exact refl u.1
      · exact useLine _ _ _ _
  unfold State.useLines
  split
  · exact refl s
  · exact each lines (s, none)

theorem keepEarly (s : State) (c : Code) : s.KeepsFocus (s.keepEarly c) := by
  unfold State.keepEarly State.dropEarly
  split
  · exact refl s
  · split
    · exact refl s
    · exact setCore

/-- A core at an instruction is still at one. -/
theorem active_ne_none {s t : State} (h : s.KeepsFocus t) (ha : s.active? ≠ none) : t.active? ≠ none := by
  have hcid : t.activeCid t.here = s.activeCid s.here := by
    rw [State.activeCid, State.activeCid, h.here, h.active, h.slots]
  unfold State.active? at ha ⊢
  rw [hcid]
  cases hs : s.activeCid s.here with
  | none => simp [hs] at ha
  | some cid =>
    have hx := h.ctxs cid
    cases hc : s.ctx? cid with
    | none => simp [hs, hc] at ha
    | some c =>
      rw [hc] at hx
      obtain ⟨c', hc'⟩ := Option.isSome_iff_exists.1 hx
      simp [hc']

end State.KeepsFocus
end Sys2Proof.Machine
end

section /-! PROOF. Every instruction, event and step answers a next state (R88, R113, R396). -/
namespace Sys2Proof.Machine
open Sys2Proof

variable {s : State} {cid : Nat} {c : Ctx}

/-- What each instruction is, once its definitions are unfolded as far as the context that runs it. -/
theorem answers_of_active (h : s.At cid c) (f : Nat → Ctx → State) (stop : Out) :
    ∃ t, (match s.active? with | none => stop | some (cid, c) => Host.Outcome.next (f cid c)) = .next t := by
  unfold State.At at h
  rw [h]
  exact ⟨_, rfl⟩

/-- An event needs no active context; what is no event answers when there is one. -/
theorem exec_answers {i : Instr} {s : State} (h : isEvent i = true ∨ ∃ cid c, s.At cid c) : ∃ t, exec i s = .next t := by
  cases i with
  | contextSwitch | accessWaitBlock | fairnessSwitch | contextReady | imageLineFill | ringEntryComplete | lateFault | pendingTrapTaken
  | preemption | vmaxxContribution | exchangeTimeout | taskDispatch | agingPromotion | shadowUpdate | incctlWrite | incumbentReinitDone
  | mailboxPost | mailboxSpawn | hostQueuePost | syncEpisode | superstepBoundary | stepCounterIncrement | l1Fill | homeRequest
  | proxyInvalidateDone | updateOnlyEviction | drainRequest | acquireComplete | rwaysReconfiguration | translationWalk
  | tlbinvAgentReply | engineAccept | chunkIssue | chunkAck | engineCompletion | gatherElement | agentGroupAccess | packedLineReturn
  | spwalkRow | mergeResult | dfillMemberDelivery | dfreeArrival | mldbAccept | bankLoadComplete | matrixAccept | matrixStep
  | coopSlotClaim | matrixMigration | migrationLoadComplete | bankRestore | haloPartSend | haloPartArrival | injectionSend
  | fabricWriteArrival | fabricAckArrival | rateRecovery | retransmit | putStatusUnknown | sequenceReportSend | sequenceReportArrival
  | sequenceClose | creditUpdateSend | creditUpdateArrival | msgArrival | msgRetry | msgSilenceTimeout | closeNoticeArrival
  | getRequestServe | peerLinkLoss | peerRejoin | portBringup | clockDrift | ldcmdLoad | ldcmdRestore | ckcmdCheckpoint
  | checkpointBegin | checkpointQuiesced | checkpointStreamDone | attestation | mbverSelect | fabwinWrite | logCountClear | killcntClear
  | mcpop | registerWrite | serviceMachineCheck | serviceInterrupt | powerOnReset | computeDieReset | portReset | powerSample
  | clockStep | thermalHold | thermalTrip | bootImageCheck | stagedImageCheck | cxlMemAccess | cxlMemDuringReset | cxlCacheAccess
  | haloStallLimit | visibilityWindowBegin | clockDriftRecovery | thermalHoldRelease | tierIslandPowerLoss | portLinkFailure =>
    exact ⟨_, rfl⟩
  | _ =>
    obtain ⟨cid, c, hat⟩ := h.resolve_left nofun
    exact answers_of_active hat _ _

theorem exec_answers_of_active (h : s.active? ≠ none) (i : Instr) : ∃ t, exec i s = .next t := by
  obtain ⟨⟨cid, c⟩, h⟩ := Option.ne_none_iff_exists'.1 h
  exact exec_answers (.inr ⟨cid, c, h⟩)

/-! The turns. -/

theorem runCode_eq (c : Code) (s : State) : runCode c s = exec c.instr s := by
  cases c with
  | core i => rfl
  | late l => exact execLate_eq l s

/-- The instruction at the pc, or the fault of its fetch, runs in a state in which the core is still at it. -/
theorem runNext_answers (s : State) : ∃ t, s.runNext = .next t := by
  unfold State.runNext
  split
  · exact ⟨_, rfl⟩
  · rename_i cid c hat
    have hne : s.active? ≠ none := by simp [hat]
    have hfetch := State.KeepsFocus.fetch s s.here c.img
    split
    · rename_i s1 e heq
      rw [heq] at hfetch
      exact exec_answers_of_active (hfetch.active_ne_none hne) (.instructionFetchFault e.1 e.2)
    · rename_i s1 ps heq
      rw [heq] at hfetch
      have h1 : s1.active? ≠ none := hfetch.active_ne_none hne
      split
      · exact exec_answers_of_active h1 (.illegalInstruction .crossing)
      · split
        · rename_i r _
          have h2 := (State.KeepsFocus.keepEarly s1 r.1).active_ne_none h1
          dsimp only
          split
          · rw [runCode_eq]
            exact exec_answers_of_active h2 _
          · have huse := State.KeepsFocus.useLines (s1.keepEarly r.1) (s1.keepEarly r.1).here cid (codeLines r.1 c.img)
            split
            · rename_i hlines
              rw [hlines] at huse
              rw [runCode_eq]
              exact exec_answers_of_active (huse.active_ne_none h2) _
            · rename_i s2 e hlines
              rw [hlines] at huse
              exact exec_answers_of_active (huse.active_ne_none h2) (.instructionFetchFault cUncorr e)
        · rename_i w _
          exact exec_answers_of_active h1 (.illegalInstruction w)

theorem issue_answers (s : State) : ∃ t, s.issue = .next t := by
  unfold State.issue
  split
  · exact ⟨_, rfl⟩
  · split
    · exact ⟨_, rfl⟩
    · split
      · exact ⟨_, rfl⟩
      · split
        · exact ⟨_, rfl⟩
        · exact runNext_answers s

theorem coreTurn_answers (s : State) (core : Nat) : ∃ t, s.coreTurn core = .next t := by
  unfold State.coreTurn
  split
  · exact issue_answers _
  · exact ⟨_, rfl⟩

theorem background_answers (s : State) : ∃ t, s.background = .next t := by
  unfold State.background
  split
  · exact ⟨_, rfl⟩
  · split
    · exact coreTurn_answers _ _
    · exact ⟨_, rfl⟩

theorem runTurn_answers (t : Turn) (s : State) : ∃ u, runTurn t s = .next u := by
  cases t with
  | core c => exact coreTurn_answers _ _
  | event i =>
    unfold runTurn
    dsimp only
    split
    · exact exec_answers (.inl ‹_›)
    · exact ⟨_, rfl⟩
  | elapse | write | call | record | stage | load | reopen | land | early => exact ⟨_, rfl⟩

theorem step_answers (s : State) : s.GoesOn := by
  unfold State.GoesOn step
  split
  · exact runTurn_answers _ _
  · split
    · exact issue_answers _
    · exact background_answers _

/-- Settles O55: `exec_answers_of_active` of the instructions and `step_answers` of the steps. -/
theorem instructionsNeverStop : Obligations.InstructionsNeverStop :=
  ⟨fun i _ h => exec_answers_of_active h i, step_answers⟩

end Sys2Proof.Machine
end

section /-! PROOF. What the passing of time leaves alone (R102, R334): the agenda always, and memory while no reconfiguration runs and
nothing sent waits for an answer. -/
namespace Sys2Proof.Machine
open Sys2Proof

/-- A state comes from another by work on tasks: cores, contexts, dies and incumbents may differ; all else is the same. -/
def State.OnlyTasks (s t : State) : Prop :=
  t = { s with cores := t.cores, ctxs := t.ctxs, dies := t.dies, incumbents := t.incumbents, shadows := t.shadows }

namespace State.OnlyTasks

theorem refl (s : State) : s.OnlyTasks s := rfl

theorem trans {s t u : State} (h : s.OnlyTasks t) (k : t.OnlyTasks u) : s.OnlyTasks u :=
  Eq.trans k (congrArg (fun x : State =>
    { x with cores := u.cores, ctxs := u.ctxs, dies := u.dies, incumbents := u.incumbents, shadows := u.shadows }) h)

theorem foldl {α : Type} {f : State → α → State} (hf : ∀ (t : State) (a : α), t.OnlyTasks (f t a)) (s : State) (l : List α) :
    s.OnlyTasks (l.foldl f s) := by
  induction l generalizing s with
  | nil => exact refl s
  | cons a l ih => exact (hf s a).trans (ih (f s a))

theorem sameMemory {s t : State} (h : s.OnlyTasks t) : s.SameMemory t := by
  rw [h]
  exact ⟨rfl, rfl, rfl, rfl, rfl⟩

theorem setDie (s : State) (d : Nat) (v : Die) : s.OnlyTasks (s.setDie d v) := rfl

theorem setCore (s : State) (k : Nat) (v : Core) : s.OnlyTasks (s.setCore k v) := rfl

theorem setCtx (s : State) (cid : Nat) (c : Ctx) : s.OnlyTasks (s.setCtx cid c) := rfl

theorem count (s : State) (k : Nat) (sys : Bool) (ev n : Nat) : s.OnlyTasks (s.count k sys ev n) := rfl

theorem updCtx (s : State) (cid : Nat) (f : Ctx → Ctx) : s.OnlyTasks (s.updCtx cid f) := by
  unfold State.updCtx
  split
  · exact setCtx _ _ _
  · exact refl s

theorem dslotDec (s : State) (d n amount : Nat) : s.OnlyTasks (s.dslotDec d n amount) := by
  unfold State.dslotDec
  dsimp only
  split
  · exact (setDie s _ _).trans (setDie _ _ _)
  · split
    · exact refl s
    · exact setDie _ _ _

theorem signalDec (s : State) (sig : Option Nat) : s.OnlyTasks (s.signalDec sig) := by
  cases sig with
  | none => exact refl s
  | some n => exact dslotDec _ _ _ _

theorem killIndices (s : State) (d : Nat) (sig : Option Nat) (n : Nat) : s.OnlyTasks (s.killIndices d sig n) :=
  (setDie _ _ _).trans (foldl (fun t _ => signalDec t sig) _ _)

theorem discardBeaten (s : State) (d k : Nat) : s.OnlyTasks (s.discardBeaten d k) :=
  foldl (fun t _ => (setDie t _ _).trans (killIndices _ _ _ _)) _ _

theorem checkKp (s : State) (cid : Nat) : s.OnlyTasks (s.checkKp cid) := by
  unfold State.checkKp
  split
  · exact refl s
  · split
    · split
      · exact setCtx _ _ _
      · exact refl s
    · exact refl s

theorem catchUp (s : State) (k : BitVec 3) : s.OnlyTasks (s.catchUp k) := by
  unfold State.catchUp
  dsimp only
  split
  · exact refl s
  · split
    · exact refl s
    · refine trans ?_ (foldl (fun t p => checkKp t _) _ _)
      refine trans ?_ (foldl (fun t d => discardBeaten t d _) _ _)
      rfl

end State.OnlyTasks

/-- A state comes from another by changes of its cores. -/
def State.OnlyCores (s t : State) : Prop := t = { s with cores := t.cores }

namespace State.OnlyCores

theorem trans {s t u : State} (h : s.OnlyCores t) (k : t.OnlyCores u) : s.OnlyCores u :=
  Eq.trans k (congrArg (fun x : State => { x with cores := u.cores }) h)

theorem countCycles (s : State) (n : Nat) : s.OnlyCores (s.countCycles n) := by
  refine List.foldlRecOn (motive := s.OnlyCores) _ _ rfl fun t ht p _ => ht.trans ?_
  extract_lets t1 held
  have h1 : t.OnlyCores t1 := by
    unfold t1
    split
    · split
      · exact rfl
      · exact rfl
    · exact rfl
  split
  · exact h1
  · exact h1.trans rfl

end State.OnlyCores

/-- The agenda and the clock are the same. -/
def State.SameClock (s t : State) : Prop := t.agenda = s.agenda ∧ t.now = s.now

namespace State.SameClock

theorem refl (s : State) : s.SameClock s := ⟨rfl, rfl⟩

theorem trans {s t u : State} (h : s.SameClock t) (k : t.SameClock u) : s.SameClock u := ⟨k.1.trans h.1, k.2.trans h.2⟩

theorem foldl {α : Type} {f : State → α → State} (hf : ∀ (t : State) (a : α), t.SameClock (f t a)) (s : State) (l : List α) :
    s.SameClock (l.foldl f s) :=
  List.foldlRecOn (motive := s.SameClock) _ _ (refl s) fun t ht a _ => ht.trans (hf t a)

theorem of_onlyTasks {s t : State} (h : s.OnlyTasks t) : s.SameClock t := by
  rw [h]
  exact ⟨rfl, rfl⟩

theorem of_onlyHomes {s t : State} (h : s.OnlyHomes t) : s.SameClock t := by
  rw [h.1]
  exact ⟨rfl, rfl⟩

/-! A change of the slices' shares (R168). -/

theorem rewayed (s : State) (d : Nat) : s.SameClock (s.rewayed d) := by
  unfold State.rewayed
  split
  · exact refl s
  · dsimp only
    refine trans (of_onlyTasks (.setDie _ _ _)) (foldl (fun t p => ?_) _ _)
    refine foldl (fun u line => ?_) _ _
    refine trans ?_ (of_onlyHomes (State.OnlyHomes.leaveSlice _ _ _))
    split
    · exact of_onlyHomes (State.OnlyHomes.roundSums _ _ _)
    · exact refl u

theorem rewayDue (s : State) : s.SameClock s.rewayDue := foldl (fun t _ => rewayed t _) _ _

/-! What waits too long for an answer ends with its status unknown (R337, R338). -/

theorem latchBank (s : State) (g off n : Nat) : s.SameClock (s.latchBank g off n) := by
  unfold State.latchBank
  split
  · exact refl s
  · exact ⟨rfl, rfl⟩

theorem bankWrite (s : State) (g off : Nat) (bs : List Byte) : s.SameClock (s.bankWrite g off bs) := by
  unfold State.bankWrite
  extract_lets gr s1 s2
  refine trans ?_ (latchBank _ _ _ _)
  unfold s2
  split
  · exact ⟨rfl, rfl⟩
  · exact ⟨rfl, rfl⟩

theorem complete (s : State) (grove : Nat) (cw : Cw) (xd : Word) (status : Option Word) (ds : Bool) (dep : Word) :
    s.SameClock (s.complete grove cw xd status ds dep) := by
  unfold State.complete
  extract_lets w s1 s2
  have h1 : s.SameClock s1 := by
    unfold s1
    split
    · split
      · exact refl s
      · exact bankWrite _ _ _ _
    · exact refl s
  have h2 : s.SameClock s2 := by
    unfold s2
    split
    · exact h1
    · exact h1.trans (bankWrite _ _ _ _)
    · exact h1.trans (bankWrite _ _ _ _)
  split
  · exact h2.trans (of_onlyTasks (.signalDec _ _))
  · exact h2

theorem psuTo (s : State) (cid uid core : Nat) (f : PsuFault) : s.SameClock (s.psuTo cid uid core f) := by
  unfold State.psuTo
  extract_lets live
  clear_value live
  split
  · exact of_onlyTasks (.updCtx _ _ _)
  · exact ⟨rfl, rfl⟩

theorem finishXfer (s : State) (x : Xfer) : s.SameClock (s.finishXfer x) := by
  unfold State.finishXfer
  extract_lets g bad status lost
  clear_value lost
  split
  · split
    · exact of_onlyHomes (.machineCheck _ _ _ _ _ _ _ _)
    · exact refl s
  · extract_lets s1 s2
    have h1 : s.SameClock s1 := by
      unfold s1
      split
      · exact bankWrite _ _ _ _
      · exact refl s
    have h2 : s.SameClock s2 := h1.trans (complete _ _ _ _ _ _ _)
    split
    · exact h2.trans (psuTo _ _ _ _ _)
    · exact h2

theorem leaveLeg (s : State) (x : Xfer) (i : Nat) (f : Leg → Leg) : s.SameClock (s.leaveLeg x i f) := by
  unfold State.leaveLeg
  extract_lets s1 y s2
  have h2 : s.SameClock s2 := by
    unfold s2 s1
    split
    · exact ⟨rfl, rfl⟩
    · exact ⟨rfl, rfl⟩
  split
  · exact h2.trans ⟨rfl, rfl⟩
  · exact h2

theorem progressLeg (s : State) (id i : Nat) : s.SameClock (s.progressLeg id i) := by
  unfold State.progressLeg
  split
  · exact refl s
  · split
    · exact refl s
    · split
      · exact refl s
      · extract_lets s1 s2
        have h1 : s.SameClock s1 := by
          unfold s1
          split
          · exact refl s
          · exact leaveLeg _ _ _ _
        have h2 : s.SameClock s2 := by
          unfold s2
          split
          · exact h1.trans ⟨rfl, rfl⟩
          · exact h1
        exact h2.trans ⟨rfl, rfl⟩

theorem progress (s : State) (id : Nat) : s.SameClock (s.progress id) := by
  unfold State.progress
  split
  · exact refl s
  · extract_lets s1
    have h1 : s.SameClock s1 := foldl (fun t i => progressLeg t _ _) _ _
    split
    · exact h1
    · split
      · exact (h1.trans ⟨rfl, rfl⟩).trans (finishXfer _ _)
      · exact h1

theorem dropHeld (s : State) (p : HaloPart) : s.SameClock (s.dropHeld p) := by
  unfold State.dropHeld
  split
  · exact ⟨rfl, rfl⟩
  · exact refl s

theorem legUnknown (s : State) (id i : Nat) (q : Option (BitVec 32)) : s.SameClock (s.legUnknown id i q) := by
  unfold State.legUnknown
  split
  · exact refl s
  · split
    · exact refl s
    · dsimp only
      split
      · exact trans ⟨rfl, rfl⟩ (progress _ _)
      · refine trans ?_ ((leaveLeg _ _ _ _).trans (progress _ _))
        split
        · exact dropHeld _ _
        · exact refl s

theorem unknown (s : State) (die dev seq : Nat) : s.SameClock (s.unknown die dev seq) := by
  unfold State.unknown
  split
  · dsimp only
    split
    · exact refl s
    · split
      · exact trans ⟨rfl, rfl⟩ (legUnknown _ _ _ _)
      · exact ⟨rfl, rfl⟩
  · split
    · exact refl s
    · split
      · split
        · exact legUnknown _ _ _ _
        · exact refl s
      · exact refl s

theorem endOverdue (s : State) : s.SameClock s.endOverdue := foldl (fun t _ => unknown t _ _ _) _ _

end State.SameClock

/-! Time where nothing is due. -/

theorem State.rewayDue_none {s : State} (h : ∀ p ∈ s.dies, p.2.rwaysPend = none) : s.rewayDue = s := by
  unfold State.rewayDue
  rw [List.filter_eq_nil_iff.2]
  · rfl
  · intro p hp
    simp [h p hp]

theorem State.endOverdue_none {s : State} (hs : s.sends = []) (hx : s.xfers = []) : s.endOverdue = s := by
  simp [State.endOverdue, hs, hx]

theorem State.catchUp_none {s : State} {k : BitVec 3} (h : (s.incumbent k).hist = []) : s.catchUp k = s := by
  simp [State.catchUp, State.dueKey, h]

/-- The incumbents learn what is due (R389). -/
def State.catchUpAll (s : State) : State := (List.range 8).foldl (fun (u : State) k => u.catchUp (BitVec.ofNat 3 k)) s

theorem State.onlyTasks_catchUpAll (s : State) : s.OnlyTasks s.catchUpAll := State.OnlyTasks.foldl (fun t _ => .catchUp t _) _ _

theorem State.catchUpAll_none {s : State} (h : ∀ k, (s.incumbent k).hist = []) : s.catchUpAll = s :=
  List.foldlRecOn (motive := (· = s)) _ _ rfl fun t ht _ _ => by
    subst ht
    exact State.catchUp_none (h _)

/-- The state whose cycles are counted and whose clock has moved on. -/
def State.clocked (s : State) (cycles ps : Nat) : State := { s.countCycles cycles with now := s.now + cycles, sync := s.sync + ps }

theorem State.pass_eq (s : State) (cycles ps : Nat) : s.pass cycles ps = (s.clocked cycles ps).rewayDue.endOverdue.catchUpAll := rfl

section
variable (s : State) (cycles ps : Nat)

theorem State.clocked_agenda : (s.clocked cycles ps).agenda = s.agenda := (congrArg State.agenda (State.OnlyCores.countCycles s cycles) :)
theorem State.clocked_ctxs : (s.clocked cycles ps).ctxs = s.ctxs := (congrArg State.ctxs (State.OnlyCores.countCycles s cycles) :)
theorem State.clocked_dies : (s.clocked cycles ps).dies = s.dies := (congrArg State.dies (State.OnlyCores.countCycles s cycles) :)
theorem State.clocked_sends : (s.clocked cycles ps).sends = s.sends := (congrArg State.sends (State.OnlyCores.countCycles s cycles) :)
theorem State.clocked_xfers : (s.clocked cycles ps).xfers = s.xfers := (congrArg State.xfers (State.OnlyCores.countCycles s cycles) :)
theorem State.clocked_incumbents : (s.clocked cycles ps).incumbents = s.incumbents :=
  (congrArg State.incumbents (State.OnlyCores.countCycles s cycles) :)

theorem State.clocked_sameMemory : s.SameMemory (s.clocked cycles ps) := by
  have h := State.OnlyCores.countCycles s cycles
  exact ⟨(congrArg State.dram h :), (congrArg State.slice h :), (congrArg State.groves h :), (congrArg State.combine h :),
    (congrArg State.staging h :)⟩

theorem State.pass_clock : (s.pass cycles ps).agenda = s.agenda ∧ (s.pass cycles ps).now = s.now + cycles := by
  have h := ((State.SameClock.rewayDue (s.clocked cycles ps)).trans (.endOverdue _)).trans (.of_onlyTasks (State.onlyTasks_catchUpAll _))
  rw [← State.pass_eq] at h
  exact ⟨h.1.trans (State.clocked_agenda s cycles ps), h.2⟩

end

theorem State.SameMemory.trans {s t u : State} (h : s.SameMemory t) (k : t.SameMemory u) : s.SameMemory u := by
  obtain ⟨h1, h2, h3, h4, h5⟩ := h
  obtain ⟨k1, k2, k3, k4, k5⟩ := k
  exact ⟨k1.trans h1, k2.trans h2, k3.trans h3, k4.trans h4, k5.trans h5⟩

section
variable {s : State} (hr : ∀ p ∈ s.dies, p.2.rwaysPend = none) (hs : s.sends = []) (hx : s.xfers = []) (cycles ps : Nat)
include hr hs hx

theorem State.pass_quiet : s.pass cycles ps = (s.clocked cycles ps).catchUpAll := by
  rw [State.pass_eq, State.rewayDue_none, State.endOverdue_none]
  · rwa [State.clocked_sends]
  · rwa [State.clocked_xfers]
  · rwa [State.clocked_dies]

theorem State.pass_sameMemory : s.SameMemory (s.pass cycles ps) := by
  rw [State.pass_quiet hr hs hx]
  exact (State.clocked_sameMemory s cycles ps).trans (State.onlyTasks_catchUpAll _).sameMemory

theorem State.pass_ctxs (hi : ∀ k, (s.incumbent k).hist = []) : (s.pass cycles ps).ctxs = s.ctxs := by
  rw [State.pass_quiet hr hs hx, State.catchUpAll_none, State.clocked_ctxs]
  intro k
  rw [State.incumbent, State.clocked_incumbents]
  exact hi k

end

end Sys2Proof.Machine
end

section /-! PROOF. A step of a core that may issue: the fetch of a plain line, and what runs then (R71, R72, R88, R103, R179). -/
namespace Sys2Proof.Machine
open Sys2Proof

/-! The fetch of a line with no partial, no image and no error. -/

theorem linesOf_block {pa : Nat} (h : pa % 32 = 0) : linesOf pa 32 = [lineOf pa] := by
  have hlast : (pa + 32 - 1) / 128 + 1 - pa / 128 = 1 := by omega
  rw [linesOf, if_neg (by decide), hlast]
  rfl

variable {s s1 : State} {cid : Nat} {c : Ctx} {line pa : Nat}

theorem State.recallLine_plain (hp : s.Plain line) (hi : s.imageAt? (128 * line) = none) : s.recallLine line = s := by
  have himage : s.recallImage line = s := by rw [State.recallImage, hi]
  unfold State.recallLine
  rw [himage]
  refine List.foldlRecOn (motive := (· = s)) _ _ rfl fun t ht g _ => ?_
  subst ht
  split
  · rename_i l hl
    simp [hp.2 g l hl]
  · rfl

theorem State.settle_block (hpa : pa % 32 = 0) (hp : s.Plain (lineOf pa)) (hi : s.imageAt? (128 * lineOf pa) = none) :
    s.settle pa 32 = s := by
  rw [State.settle, State.roundSums, linesOf_block hpa]
  simp only [List.foldl_cons, List.foldl_nil]
  rw [State.recallLine_plain hp hi, State.roundWords, hp.1]

theorem State.badAt_sound (h : s.Sound) (d pa n : Nat) : s.badAt d pa n = false := by
  obtain ⟨hbad, hsram⟩ := h
  simp [State.badAt, State.badMemory, State.badSlice, hbad, hsram]

theorem State.homeBytes_drop (s : State) (pa n k : Nat) : (s.homeBytes pa n).drop k = s.homeBytes (pa + k) (n - k) := by
  apply List.ext_getElem
  · simp [State.homeBytes]
  · intro i h1 h2
    simp [State.homeBytes, Nat.add_assoc]

theorem State.fetch_plain {core : Nat} {m : Image} {ps : List (BitVec 32)} (hf : s.fetch core m = (s1, .ok ps))
    (ht : s.translate core (s.fetchAsid m) (blockOf m.pc.toNat) .fetch = (s, .ok pa)) (hpa : pa % 32 = 0) (hp : s.Plain (lineOf pa))
    (hi : s.imageAt? (128 * lineOf pa) = none) (hs : s.Sound) :
    s1 = s.touchRange (coreDie core) pa 32 false ∧ ps = parcelsOf (s.homeBytes (pa + m.pc.toNat % 32) (32 - m.pc.toNat % 32)) := by
  have hread : s.readHome (coreDie core) pa 32 = (s.touchRange (coreDie core) pa 32 false, some (s.homeBytes pa 32)) := by
    rw [State.readHome, State.readHomeAs, State.settle_block hpa hp hi, State.badAt_sound hs]
    rfl
  unfold State.fetch at hf
  rw [ht] at hf
  simp only [hread] at hf
  split at hf
  · simp at hf
  · simp only [Prod.mk.injEq, Except.ok.injEq] at hf
    obtain ⟨rfl, rfl⟩ := hf
    exact ⟨rfl, by rw [State.homeBytes_drop]⟩

/-! What runs after the fetch. -/

/-- Nothing comes before the instruction at the pc. -/
theorem step_runNext (ha : s.agenda = []) (hm : s.mayIssue s.here = true) (hst : s.stalled = false) (hck : s.ckDue = false)
    (hsv : s.serviceDue = none) (hfd : s.fairDue s.here = false) (hpt : s.pendingTrap s.here = none) : step s = s.runNext := by
  unfold step
  rw [ha]
  simp only [hm, hst, State.issue, hck, hsv, hfd, hpt]
  rfl

section
variable (hat : s.At cid c)
include hat

theorem runNext_error {code data : Nat} (hf : s.fetch s.here c.img = (s1, .error (code, data))) :
    s.runNext = exec (.instructionFetchFault code data) s1 := by
  unfold State.At at hat
  unfold State.runNext
  rw [hat]
  simp only [hf]
  rfl

variable {ps : List (BitVec 32)} (hf : s.fetch s.here c.img = (s1, .ok ps)) (hpc : c.img.pc.toNat % 4 = 0)
include hf hpc

theorem runNext_illegal {w : IllegalWord} (hd : decodeAt (c.img.pc.toNat % 32) ps = .error w) :
    s.runNext = exec (.illegalInstruction w) s1 := by
  unfold State.At at hat
  unfold State.runNext
  rw [hat]
  simp only [hf, hpc, hd, ne_eq, not_true_eq_false, if_false]
  rfl

variable {i : Code} {n : Nat} (hd : decodeAt (c.img.pc.toNat % 32) ps = .ok (i, n))
include hd

theorem runNext_early (he : failsEarly i c.img = true) : s.runNext = exec i.instr (s1.keepEarly i) := by
  unfold State.At at hat
  unfold State.runNext
  rw [hat]
  simp only [hf, hpc, hd, he, ne_eq, not_true_eq_false, if_false, if_true]
  exact runCode_eq _ _

theorem runNext_lines (he : failsEarly i c.img = false)
    (hl : ((s1.keepEarly i).useLines (s1.keepEarly i).here cid (codeLines i c.img)).2 = none) :
    s.runNext = exec i.instr ((s1.keepEarly i).useLines (s1.keepEarly i).here cid (codeLines i c.img)).1 := by
  rcases hu : (s1.keepEarly i).useLines (s1.keepEarly i).here cid (codeLines i c.img) with ⟨u, r⟩
  rw [hu] at hl
  obtain rfl : r = _ := hl
  unfold State.At at hat
  unfold State.runNext
  rw [hat]
  simp only [hf, hpc, hd, he, hu, ne_eq, not_true_eq_false, if_false, Bool.false_eq_true]
  exact runCode_eq _ _

theorem runNext_badLine (he : failsEarly i c.img = false) {e : Nat}
    (hl : ((s1.keepEarly i).useLines (s1.keepEarly i).here cid (codeLines i c.img)).2 = some e) :
    s.runNext =
      exec (.instructionFetchFault cUncorr e) ((s1.keepEarly i).useLines (s1.keepEarly i).here cid (codeLines i c.img)).1 := by
  rcases hu : (s1.keepEarly i).useLines (s1.keepEarly i).here cid (codeLines i c.img) with ⟨u, r⟩
  rw [hu] at hl
  obtain rfl : r = _ := hl
  unfold State.At at hat
  unfold State.runNext
  rw [hat]
  simp only [hf, hpc, hd, he, hu, ne_eq, not_true_eq_false, if_false, Bool.false_eq_true]
  rfl

end

/-- A passing of time on the agenda happens. -/
theorem step_elapse {n : Nat} {rest : List Turn} (ha : s.agenda = .elapse n :: rest) :
    step s = .next (State.pass { s with agenda := rest } n (n * 1000000 / s.clk)) := by
  unfold step
  rw [ha]
  rfl

theorem step_event {i : Instr} {rest : List Turn} (ha : s.agenda = .event i :: rest) (hi : isEvent i = true) :
    step s = exec i { s with agenda := rest, stalled := false } := by
  unfold step
  rw [ha]
  simp only [runTurn, hi, if_true]

theorem step_stage {off : Nat} {bs : List Byte} {rest : List Turn} (ha : s.agenda = .stage off bs :: rest)
    (hoff : off + bs.length ≤ 65536) : step s = .next { s with agenda := rest, staging := s.staging.writes off bs } := by
  unfold step
  rw [ha]
  simp only [runTurn, State.stage, hoff, if_true]

theorem elapse_passed {n : Nat} {rest : List Turn} (ha : s.agenda = .elapse n :: rest) :
    ∃ t, step s = .next t ∧ t.now = s.now + n ∧ t.agenda = rest ∧
      ((∀ p ∈ s.dies, p.2.rwaysPend = none) → s.sends = [] → s.xfers = [] → s.SameMemory t ∧
        ((∀ k, (s.incumbent k).hist = []) → t.ctxs = s.ctxs)) := by
  obtain ⟨hagenda, hnow⟩ := State.pass_clock { s with agenda := rest } n (n * 1000000 / s.clk)
  refine ⟨_, step_elapse ha, hnow, hagenda, fun hr hs hx => ⟨?_, fun hi => ?_⟩⟩
  · exact State.pass_sameMemory (s := { s with agenda := rest }) hr hs hx _ _
  · exact State.pass_ctxs (s := { s with agenda := rest }) hr hs hx _ _ hi

/-- Settles O56: `step_runNext` and the `runNext` lemmas of a core's turn, `State.fetch_plain` of the fetch, and a lemma for each other
turn on the agenda. -/
theorem stepRunsTheDecodedInstruction : Obligations.StepRunsTheDecodedInstruction := by
  refine ⟨fun s s1 cid c ps ha hm hst hck hsv hfd hpt hat => ?_, fun s i rest => step_event, fun s n rest => elapse_passed,
    fun s off bs rest => step_stage⟩
  have hstep := step_runNext ha hm hst hck hsv hfd hpt
  refine ⟨fun hf hpc => ⟨fun i n hd => ⟨fun he => ?_, fun he => ⟨fun hu => ?_, fun e hu => ?_⟩⟩, fun w hd => ?_⟩,
    fun pa hf ht hpa hp hi hs => State.fetch_plain hf ht hpa hp hi hs, fun code data hf => ?_⟩
  · exact hstep.trans (runNext_early hat hf hpc hd he)
  · exact hstep.trans (runNext_lines hat hf hpc hd he hu)
  · exact hstep.trans (runNext_badLine hat hf hpc hd he hu)
  · exact hstep.trans (runNext_illegal hat hf hpc hd)
  · exact hstep.trans (runNext_error hat hf)

end Sys2Proof.Machine
end

section /-! PROOF. The fields of `status` (R96), and what `eret` restores (R99, R136, R404). -/
namespace Sys2Proof.Machine
open Sys2Proof

theorem getLsbD_setBit (w : Word) {i : Nat} (hi : i < 64) (b : Bool) (k : Nat) :
    (setBit w i b).getLsbD k = if k = i then b else w.getLsbD k := by
  unfold setBit
  by_cases hk : k = i
  · subst hk
    cases b <;> simp [hi]
  · cases b <;> simp [hk] <;> grind

/-- The bits of LN (R96). -/
theorem getLsbD_lnMask (k : Nat) : (0x7C0#64).getLsbD k = decide (6 ≤ k ∧ k < 11) := by
  by_cases hk : k < 64
  · revert k
    decide
  · rw [BitVec.getLsbD_of_ge _ _ (by omega)]
    simp
    omega

theorem getLsbD_withLn (w : Word) (n k : Nat) :
    (withLn w n).getLsbD k = if 6 ≤ k ∧ k < 11 then n.testBit (k - 6) else w.getLsbD k := by
  have hn : (BitVec.ofNat 64 (n % 32) <<< 6).getLsbD k = (decide (6 ≤ k ∧ k < 11) && n.testBit (k - 6)) := by
    have h32 : (n % 32).testBit (k - 6) = (decide (k - 6 < 5) && n.testBit (k - 6)) := Nat.testBit_mod_two_pow n 5 (k - 6)
    rw [BitVec.getLsbD_shiftLeft, BitVec.getLsbD_ofNat, h32]
    grind
  unfold withLn
  rw [BitVec.getLsbD_or, BitVec.getLsbD_and, BitVec.getLsbD_not, getLsbD_lnMask, hn]
  by_cases hk : 6 ≤ k ∧ k < 11
  · simp [hk]
  · by_cases h64 : k < 64
    · simp [hk, h64]
    · simp [hk, BitVec.getLsbD_of_ge w k (by omega)]

theorem Image.ln_lt (m : Image) : m.ln < 32 := (m.status.extractLsb' 6 5).isLt

/-- LN is a number of five bits (R96). -/
theorem Image.ln_eq_iff {m : Image} {n : Nat} (hn : n < 32) : m.ln = n ↔ ∀ i, i < 5 → m.status.getLsbD (6 + i) = n.testBit i := by
  have hl := m.ln_lt
  have hbit (i : Nat) : m.ln.testBit i = (decide (i < 5) && m.status.getLsbD (6 + i)) := by
    rw [Image.ln, BitVec.testBit_toNat, BitVec.getLsbD_extractLsb']
  refine ⟨fun h i hi => ?_, fun h => Nat.eq_of_testBit_eq fun i => ?_⟩
  · rw [← h, hbit]
    simp [hi]
  · by_cases hi : i < 5
    · rw [hbit, h i hi]
      simp [hi]
    · have h32 : 2 ^ 5 ≤ 2 ^ i := Nat.pow_le_pow_right (by omega) (by omega)
      rw [Nat.testBit_lt_two_pow (by omega), Nat.testBit_lt_two_pow (by omega)]

theorem Image.testBit_ln (m : Image) {i : Nat} (hi : i < 5) : m.ln.testBit i = m.status.getLsbD (6 + i) :=
  ((Image.ln_eq_iff m.ln_lt).1 rfl i hi).symm

/-- What `eret` makes of `esta`: its LN and KP are the current ones, and its other bits stay (R99, R136). -/
theorem Image.getLsbD_leave_status (m : Image) (k : Nat) :
    m.leave.status.getLsbD k = if 5 ≤ k ∧ k < 11 then m.status.getLsbD k else m.esta.getLsbD k := by
  have h : m.leave.status = setBit (withLn m.esta m.ln) 5 m.kp := rfl
  rw [h, getLsbD_setBit _ (by decide), getLsbD_withLn]
  by_cases h5 : k = 5
  · subst h5
    rfl
  · by_cases hk : 6 ≤ k ∧ k < 11
    · have hi : 6 + (k - 6) = k := by omega
      rw [if_neg h5, if_pos hk, if_pos (by omega), Image.testBit_ln _ (by omega), hi]
    · rw [if_neg h5, if_neg hk, if_neg (by omega)]

theorem Image.ln_leave (m : Image) : m.leave.ln = m.ln := by
  refine (Image.ln_eq_iff m.ln_lt).2 fun i hi => ?_
  rw [Image.getLsbD_leave_status, if_pos (by omega), Image.testBit_ln _ hi]

theorem Image.kp_leave (m : Image) : m.leave.kp = m.kp := Image.getLsbD_leave_status m 5

/-- The status of a trap entry: PP is clear, PRV set, and every other bit kept (R99). -/
theorem Image.getLsbD_enter_status (m : Image) (f : FaultRec) (epc : Word) (k : Nat) :
    (m.enter f epc).status.getLsbD k = if k = 4 then true else if k = 2 then false else m.status.getLsbD k := by
  have h : (m.enter f epc).status = setBit (setBit m.status 2 false) 4 true := rfl
  rw [h, getLsbD_setBit _ (by decide), getLsbD_setBit _ (by decide)]

/-- A handler that changes nothing returns to the status before its entry. -/
theorem Image.status_enter_leave (m : Image) (f : FaultRec) (epc : Word) : (m.enter f epc).leave.status = m.status := by
  refine BitVec.eq_of_getLsbD_eq fun k _ => ?_
  rw [Image.getLsbD_leave_status]
  split
  · rw [Image.getLsbD_enter_status, if_neg (by omega), if_neg (by omega)]
  · rfl

theorem Image.enter_leave (m : Image) (f : FaultRec) : (m.enter f m.pc).leave = { (m.enter f m.pc).unsave with status := m.status } := by
  have hstatus := m.status_enter_leave f m.pc
  calc (m.enter f m.pc).leave
      = { (m.enter f m.pc).unsave with
          esta := (m.enter f m.pc).leave.status, status := (m.enter f m.pc).leave.status, pfx := m.pfx, pc := m.pc } := rfl
    _ = { (m.enter f m.pc).unsave with status := m.status } := by
        rw [hstatus]
        rfl

/-! The checks of `epc` (R124, R136). -/

theorem extractLsb'_high_eq_zero {w : Word} : w.extractLsb' 56 8 = 0#8 ↔ w.toNat < 2 ^ 56 := by
  rw [← BitVec.toNat_inj, BitVec.extractLsb'_toNat, Nat.shiftRight_eq_div_pow]
  have := w.isLt
  simp
  omega

theorem extractLsb'_low_eq_zero {w : Word} : w.extractLsb' 0 2 = 0#2 ↔ w.toNat % 4 = 0 := by
  rw [← BitVec.toNat_inj, BitVec.extractLsb'_toNat, Nat.shiftRight_zero]
  simp

section
variable {m : Image} {t : Word}

theorem targetFault_high (h : 2 ^ 56 ≤ t.toNat) : targetFault m t = some (operandFault m 0) :=
  if_pos (mt extractLsb'_high_eq_zero.1 (Nat.not_lt.2 h))

variable (h : t.toNat < 2 ^ 56)
include h

theorem targetFault_misaligned (ha : t.toNat % 4 ≠ 0) : targetFault m t = some (FaultRec.mk0 cMisInstr 0 t.toNat) := by
  rw [targetFault, if_neg (not_not.2 (extractLsb'_high_eq_zero.2 h)), if_pos (mt extractLsb'_low_eq_zero.1 ha)]

theorem targetFault_none (ha : t.toNat % 4 = 0) : targetFault m t = none := by
  rw [targetFault, if_neg (not_not.2 (extractLsb'_high_eq_zero.2 h)), if_neg (not_not.2 (extractLsb'_low_eq_zero.2 ha))]

end

/-! `eret` (R136). -/

section
variable {s : State} {cid : Nat} {c : Ctx} (h : s.Ready cid c []) (hp : c.img.prv = true)
include h hp

theorem execEret_fault {f : FaultRec} (hf : targetFault c.img c.img.epc = some f) : execEret s = s.traps cid c f := by
  rw [execEret, runInstr_ready h (.inr hp), hf]
  rfl

theorem execEret_returns (hf : targetFault c.img c.img.epc = none) (hr : (s.coreRing s.here).length + c.img.saved.length ≤ 64) :
    execEret s = ((s.redispatch cid c.img c.img.prv c.img.saved).acknowledge s.here).goes cid c.img.leave := by
  rw [execEret, runInstr_ready h (.inr hp), hf]
  dsimp only
  rw [if_neg (Nat.not_lt.2 hr)]
  rfl

end

/-- Settles O13: `execEret_returns`, `execEret_fault` and the privilege check of the outcomes, the lemmas on `Image.leave` of the image. -/
theorem returnRestoresWhatEntrySaved : Obligations.ReturnRestoresWhatEntrySaved := by
  intro s cid c h m
  refine ⟨fun hp hhigh hlow hr => ?_, fun hp hhigh => ?_, fun hp hhigh hlow => ?_, fun hp => ?_, rfl, rfl, m.ln_leave, m.kp_leave, rfl, rfl,
    fun k hk => ?_, m.enter_leave⟩
  · exact execEret_returns h hp (targetFault_none hhigh hlow) hr
  · exact execEret_fault h hp (targetFault_high hhigh)
  · exact execEret_fault h hp (targetFault_misaligned hhigh hlow)
  · rw [exec_eret, execEret, runInstr_user h.1 hp]
  · rw [Image.getLsbD_leave_status, if_neg (by omega)]

end Sys2Proof.Machine
end

section /-! PROOF. Reads at the homes, translation and the table of trap handlers leave a resident task alone (R94, R165 to R179, R355 to R362,
R372). -/
namespace Sys2Proof.Machine
open Sys2Proof

namespace State.KeepsTask

variable {p : Prop} {cid : Nat}

theorem dropL1 (s : State) (g line : Nat) : KeepsTask p cid s (s.dropL1 g line) := (setGrove _ _ _).trans (sweep _)

theorem homeWriteAs (s : State) (pa : Nat) (bs : List Byte) (streaming : Bool) : KeepsTask p cid s (s.homeWriteAs pa bs streaming) := by
  unfold State.homeWriteAs
  split
  · exact imageWrite _ _ _ _
  · refine (trans ?_ (rawWriteAs _ _ _ _)).trans (keepHeads _ _ _ _)
    split
    · exact refl s
    · exact foldl (fun t line _ => yieldSums t line _) s

theorem roundSums (s : State) (pa n : Nat) : KeepsTask p cid s (s.roundSums pa n) := foldl (fun t line _ => roundWords t line _) s

theorem combRoom (s : State) (line : Nat) : KeepsTask p cid s (s.combRoom line) := by
  unfold State.combRoom
  split
  · exact roundSums _ _ _
  · exact refl s

theorem setCombine (s : State) (q : List CombLine) : KeepsTask p cid s { s with combine := q } := quiet rfl rfl fun _ h => h

theorem combinePartial (s : State) (r : CRange) (l : L1Line) : KeepsTask p cid s (s.combinePartial r l) := by
  unfold State.combinePartial
  dsimp only
  split
  · exact (((combRoom s l.line).trans (holdHome _ _ _ _)).trans (setCombine _ _)).trans (latchPhys _ _ _)
  · exact foldl (fun t i _ => homeWriteAs t _ _ _) s

theorem writeBackLine (s : State) (g : Nat) (l : L1Line) : KeepsTask p cid s (s.writeBackLine g l) := by
  unfold State.writeBackLine
  split
  · exact homeMasked _ _ _ _ _ _
  · split
    · split
      · exact combinePartial _ _ _
      · exact refl s
    · exact refl s

theorem recallImage (s : State) (line : Nat) : KeepsTask p cid s (s.recallImage line) := by
  unfold State.recallImage
  split
  · exact refl s
  · split
    · exact refl s
    · exact (dropReg _ _ _).trans (dropReg _ _ _)

theorem recallLine (s : State) (line : Nat) : KeepsTask p cid s (s.recallLine line) := by
  refine (recallImage s line).trans (foldl (fun t g _ => ?_) _)
  split
  · split
    · exact (writeBackLine _ _ _).trans (dropL1 _ _ _)
    · exact refl t
  · exact refl t

theorem settle (s : State) (pa n : Nat) : KeepsTask p cid s (s.settle pa n) :=
  (foldl (fun t line _ => recallLine t line) s).trans (roundSums _ _ _)

theorem readHome (s : State) (d pa n : Nat) : KeepsTask p cid s (s.readHome d pa n).1 := by
  unfold State.readHome State.readHomeAs
  dsimp only
  split
  · exact settle _ _ _
  · exact (settle _ _ _).trans (touchRange _ _ _ _ _)

theorem reportBad (s : State) (g? : Option Nat) (d pa n core : Nat) : KeepsTask p cid s (s.reportBad g? d pa n core) :=
  machineCheck _ _ _ _ _ _ _ _

/-! Translation (R355 to R362). -/

theorem readEntry (s : State) (d pa : Nat) : KeepsTask p cid s (s.readEntry d pa).1 := by
  have h := readHome (p := p) (cid := cid) s d pa 8
  unfold State.readEntry
  split
  next heq => rwa [heq] at h
  next heq =>
    rw [heq] at h
    exact h.trans (reportBad _ _ _ _ _ _)

theorem walkFrom (d asid va : Nat) (plan : List (Nat × Nat × Nat × Bool × Bool)) (s : State) (table : Nat) :
    KeepsTask p cid s (s.walkFrom d plan table asid va).1 := by
  induction plan generalizing s table with
  | nil => exact refl s
  | cons step rest ih =>
    have h := readEntry (p := p) (cid := cid) s d (table + 8 * ((va / 2 ^ step.1) % 2 ^ step.2.1))
    simp only [State.walkFrom]
    split_ifs
    · exact h
    · exact h
    · exact h
    · exact h
    · exact h
    · exact h.trans (ih _ _)

theorem walk (s : State) (d asid va : Nat) : KeepsTask p cid s (s.walk d asid va).1 := by
  unfold State.walk
  dsimp only
  split
  · exact refl s
  · exact walkFrom _ _ _ _ _ _

theorem coreLeaf (s : State) (core asid va : Nat) : KeepsTask p cid s (s.coreLeaf core asid va).1 := by
  have h := walk (p := p) (cid := cid) s (coreDie core) asid va
  unfold State.coreLeaf
  dsimp only
  split
  · exact refl s
  · split
    · split
      next heq => rwa [heq] at h
      next heq =>
        rw [heq] at h
        exact h.trans (setCore _ _ _)
    · split
      · exact setCore _ _ _
      · split
        next heq => rwa [heq] at h
        next heq =>
          rw [heq] at h
          exact (h.trans (setCore _ _ _)).trans (setGrove _ _ _)

theorem translate (s : State) (core asid va : Nat) (acc : Access) : KeepsTask p cid s (s.translate core asid va acc).1 := by
  have h := coreLeaf (p := p) (cid := cid) s core asid va
  unfold State.translate
  split
  next heq => rwa [heq] at h
  next heq => rwa [heq] at h

/-! The table of trap handlers (R372, R396). -/

theorem fetchPart0 (s : State) (core va n : Nat) : KeepsTask p cid s (s.fetchPart0 core va n).1 := by
  have ht := translate (p := p) (cid := cid) s core 0 va .fetch
  unfold State.fetchPart0
  split
  next heq => rwa [heq] at ht
  next s1 pa heq =>
    rw [heq] at ht
    split
    · exact ht
    · have hr := readHome (p := p) (cid := cid) s1 (coreDie core) pa n
      split
      next heq' =>
        rw [heq'] at hr
        exact ht.trans hr
      next heq' =>
        rw [heq'] at hr
        exact (ht.trans hr).trans (reportBad _ _ _ _ _ _)

theorem fetchWord0 (s : State) (core va : Nat) : KeepsTask p cid s (s.fetchWord0 core va).1 := by
  have h1 := fetchPart0 (p := p) (cid := cid) s core va (min 8 (65536 - va % 65536))
  unfold State.fetchWord0
  dsimp only
  split
  next heq => rwa [heq] at h1
  next s1 bs heq =>
    rw [heq] at h1
    split
    · exact h1
    · have h2 := h1.trans (fetchPart0 s1 core ((va + min 8 (65536 - va % 65536)) % 2 ^ 56) (8 - min 8 (65536 - va % 65536)))
      split
      next heq' => rwa [heq'] at h2
      next heq' => rwa [heq'] at h2

theorem vector (s : State) (core code : Nat) : KeepsTask p cid s (s.vector core code).1 := by
  have h1 := fetchWord0 (p := p) (cid := cid) s core
    ((((s.die (coreDie core)).tvec.extractLsb' 2 54).toNat * 4 + 8 * code) % 2 ^ 56)
  unfold State.vector
  dsimp only
  split
  next heq => rwa [heq] at h1
  next s1 e heq =>
    rw [heq] at h1
    split
    · exact h1
    · have h2 := h1.trans (fetchPart0 s1 core (((e.extractLsb' 2 54).setWidth 64 <<< 2).toNat / 32 * 32) 32)
      split
      next heq' => rwa [heq'] at h2
      next heq' => rwa [heq'] at h2

end State.KeepsTask

end Sys2Proof.Machine
end

section /-! PROOF. What a trap does with the image of its context, and what a failed entry leaves (R99, R100, R396 to R399). -/
namespace Sys2Proof.Machine
open Sys2Proof

/-- A context that has entered the handler at `h`. -/
def Ctx.entered (c : Ctx) (f : FaultRec) (epc h : Word) : Ctx :=
  { c with
    img := { c.img.enter f epc with pc := h }, wait := none, late := none, watch := none, latch := false, parked := false, winWait := none }

/-- A context whose trap entry has failed. -/
def Ctx.entryFailed (c : Ctx) (f : FaultRec) (epc : Word) : Ctx :=
  { c with
    img := { c.img with pc := epc }, wait := none, late := some f, watch := none, latch := false, parked := true, winWait := none }

theorem Ctx.ready_entryFailed (c : Ctx) (f : FaultRec) (epc : Word) : (c.entryFailed f epc).ready = false := rfl

/-- The lines of an image that a trap entry uses are fetched into the core's register cache (R103). -/
def State.trapLines (s : State) (core cid : Nat) : State := s.fetchLines core cid [68, 69]

/-- The machine check of a failed trap entry (R396). -/
def State.entryCheck (s : State) (core : Nat) (f : FaultRec) : State :=
  s.machineCheck (coreDie core) 5 0 f.code 0 ((groveOf core).getD 0) (coreInGrove core)

theorem State.ctx?_setHolding (s : State) (k : Nat) (b : Bool) (cid : Nat) : (s.setHolding k b).ctx? cid = s.ctx? cid := by
  obtain ⟨cs, h⟩ := s.setHolding_eq k b
  rw [h]
  rfl

theorem State.ctx?_switchCore (s : State) (k cid : Nat) : (s.switchCore k).ctx? cid = s.ctx? cid := by
  obtain ⟨cs, h⟩ := s.switchCore_eq k
  rw [h]
  rfl

theorem State.dies_switchCore (s : State) (k : Nat) : (s.switchCore k).dies = s.dies := by
  obtain ⟨cs, h⟩ := s.switchCore_eq k
  rw [h]

theorem State.ctx?_machineCheck (s : State) (d src mem info pa grove core cid : Nat) :
    (s.machineCheck d src mem info pa grove core).ctx? cid = s.ctx? cid := by
  unfold State.machineCheck
  dsimp only
  split
  · rfl
  · rfl

theorem State.machineCheck_joins {s : State} {d : Nat} (h : (s.die d).mcq.length < 16) (src mem info pa grove core : Nat) :
    ((s.machineCheck d src mem info pa grove core).die d).mcq = (s.die d).mcq ++
      [{ rec0 := BitVec.ofNat 64
          (src * 2 ^ 56 + mem * 2 ^ 48 + (info % 2 ^ 32) * 2 ^ 16 + d * 2 ^ 11 + (grove % 256) * 8 + core % 8)
         rec1 := BitVec.ofNat 64 (pa % 2 ^ 52) }] := by
  rw [State.machineCheck, if_pos h, State.die_setDie]

theorem State.machineCheck_lost {s : State} {d : Nat} (h : 16 ≤ (s.die d).mcq.length) (src mem info pa grove core : Nat) :
    (s.machineCheck d src mem info pa grove core).die d = { s.die d with mcOvf := true, mcLost := true } := by
  rw [State.machineCheck, if_neg (Nat.not_lt.2 h), State.die_setDie]

theorem coreDie_lt {core : Nat} (h : core < Config.allCores + 32) : coreDie core < 8 := by
  unfold coreDie Config.allCores at *
  split
  · omega
  · omega

section
variable {s s1 : State} {cid core : Nat} {c : Ctx} {f : FaultRec} {epc h : Word} (hc : s.ctx? cid = some c)
include hc

theorem State.takeTrap_vectored (hv : s.vector core f.code = (s1, some h)) :
    s.takeTrap cid core f epc =
      { ((s1.trapLines core cid).updCtx cid fun x => x.entered f epc h).setHolding core false with stalled := false } := by
  simp only [State.takeTrap, hc, hv]
  rfl

theorem State.takeTrap_failed (hv : s.vector core f.code = (s1, none)) :
    s.takeTrap cid core f epc =
      { ((((s1.trapLines core cid).entryCheck core f).updCtx cid fun x => x.entryFailed f epc).switchCore core) with stalled := false } := by
  simp only [State.takeTrap, hc, hv]
  rfl

variable (hk : c.core? = some core) (hs : s.RegsSound)
include hk hs

/-- The search for the handler and the fetch of the lines leave the image of the context. -/
theorem State.trapLines_ctx {r : Option Word} (hv : s.vector core f.code = (s1, r)) :
    ∃ x, (s1.trapLines core cid).ctx? cid = some x ∧ c.SameStay x ∧ x.img = c.img := by
  obtain ⟨i, hw⟩ := Ctx.where_of_core? hk
  have hvec := State.KeepsTask.vector (p := True) (cid := cid) s core f.code
  rw [hv] at hvec
  obtain ⟨x, hx, hstay, himg⟩ := (hvec.trans (.fetchLines s1 core cid [68, 69])).task hc hw
  exact ⟨x, hx, hstay, himg trivial hs⟩

theorem State.takeTrap_vectored_ctx (hv : s.vector core f.code = (s1, some h)) :
    ∃ x, (s.takeTrap cid core f epc).ctx? cid = some (x.entered f epc h) ∧ c.SameStay x ∧ x.img = c.img := by
  obtain ⟨x, hx, hstay, himg⟩ := State.trapLines_ctx hc hk hs hv
  refine ⟨x, ?_, hstay, himg⟩
  rw [State.takeTrap_vectored hc hv, State.updCtx_some hx]
  exact (State.ctx?_setHolding _ _ _ _).trans (State.ctx?_setCtx _ _ _)

theorem State.takeTrap_failed_ctx (hv : s.vector core f.code = (s1, none)) :
    ∃ x, (s.takeTrap cid core f epc).ctx? cid = some (x.entryFailed f epc) ∧ c.SameStay x ∧ x.img = c.img := by
  obtain ⟨x, hx, hstay, himg⟩ := State.trapLines_ctx hc hk hs hv
  refine ⟨x, ?_, hstay, himg⟩
  have hx' : ((s1.trapLines core cid).entryCheck core f).ctx? cid = some x := (State.ctx?_machineCheck _ _ _ _ _ _ _ _ _).trans hx
  rw [State.takeTrap_failed hc hv, State.updCtx_some hx']
  exact (State.ctx?_switchCore _ _ _).trans (State.ctx?_setCtx _ _ _)

omit hk hs in
theorem State.takeTrap_failed_die (hv : s.vector core f.code = (s1, none)) (d : Nat) :
    (s.takeTrap cid core f epc).die d = ((s1.trapLines core cid).entryCheck core f).die d := by
  rw [State.takeTrap_failed hc hv]
  exact State.die_of_dies ((State.dies_switchCore _ _).trans (State.dies_updCtx _ _ _)) d

end

/-- The record of a failed entry names source 5 and the code (R396, R408). -/
theorem State.entryCheck_record {s : State} {core : Nat} (f : FaultRec) (hl : ((s.die (coreDie core)).mcq).length < 16)
    (hcore : core < Config.allCores + 32) :
    ∃ r : McRec, ((s.entryCheck core f).die (coreDie core)).mcq = (s.die (coreDie core)).mcq ++ [r] ∧ r.rec0.toNat / 2 ^ 56 = 5 ∧
      r.rec0.toNat / 2 ^ 16 % 2 ^ 32 = f.code % 2 ^ 32 ∧ r.rec1 = 0 := by
  have hd := coreDie_lt hcore
  refine ⟨_, State.machineCheck_joins hl _ _ _ _ _ _, ?_, ?_, rfl⟩
  · rw [BitVec.toNat_ofNat]
    omega
  · rw [BitVec.toNat_ofNat]
    omega

/-- Settles O12: `State.takeTrap_vectored_ctx` of an entry that finds its handler; `State.takeTrap_failed_ctx` and the record of
`State.entryCheck` of one that does not. -/
theorem trapEntrySavesAndVectors : Obligations.TrapEntrySavesAndVectors := by
  intro s cid core c f epc hc hk hs
  refine ⟨fun s1 h hv => ?entered, fun s1 hv => ?failed⟩
  case entered =>
    obtain ⟨x, hx, ⟨-, hring, -⟩, himg⟩ := State.takeTrap_vectored_ctx (epc := epc) hc hk hs hv
    have hstatus (k : Nat) := c.img.getLsbD_enter_status f epc k
    have hentered : (x.entered f epc h).img = { c.img.enter f epc with pc := h } := by rw [Ctx.entered, himg]
    refine ⟨_, hx, ?_⟩
    rw [hentered]
    refine ⟨rfl, ?_, ?_, rfl, rfl, rfl, rfl, hstatus 2, hstatus 4, fun k h2 h4 => ?_, rfl, rfl, rfl, rfl, rfl, rfl, hring, rfl, rfl⟩
    · have hlt : f.va % 2 ^ 56 < 2 ^ 64 := by omega
      exact (BitVec.toNat_ofNat _ _).trans (Nat.mod_eq_of_lt hlt)
    · obtain ⟨code, data, va, w, late, seq, step⟩ := f
      cases seq <;> rfl
    · exact (hstatus k).trans (by rw [if_neg h4, if_neg h2])
  case failed =>
    obtain ⟨x, hx, -, himg⟩ := State.takeTrap_failed_ctx (epc := epc) hc hk hs hv
    refine ⟨_, hx, ?_, rfl, rfl, x.ready_entryFailed f epc, ?_⟩
    · rw [Ctx.entryFailed, himg]
    · intro d v q
      have hv' : v = ((s1.trapLines core cid).entryCheck core f).die d := State.takeTrap_failed_die hc hv d
      rw [hv']
      refine ⟨fun hl hcore => State.entryCheck_record f hl hcore, fun hl => ?_⟩
      have hlost : ((s1.trapLines core cid).entryCheck core f).die d =
          { (s1.trapLines core cid).die d with mcOvf := true, mcLost := true } := State.machineCheck_lost hl _ _ _ _ _ _
      rw [hlost]
      exact ⟨rfl, rfl, rfl⟩

end Sys2Proof.Machine
end

section /-! PROOF. A read at a slice moves bytes between the slices and the memory behind them, and changes no byte that a home holds (R166 to R168). -/
namespace Sys2Proof.Machine
open Sys2Proof

/-- Bytes written in turn, the first of the list last: what is read is the first entry of an address. -/
theorem Memory.wf_foldr_write {m : Memory} (h : m.wf = true) (t : Tab Byte) :
    (t.foldr (fun p (m : Memory) => m.write p.1 p.2) m).wf = true := by
  induction t with
  | nil => exact h
  | cons p rest ih => exact Memory.wf_write ih _ _

theorem Memory.read_foldr_write {m : Memory} (h : m.wf = true) (t : Tab Byte) (a : Nat) :
    (t.foldr (fun p (m : Memory) => m.write p.1 p.2) m).read a = (t.get? a).getD (m.read a) := by
  induction t with
  | nil => rfl
  | cons p rest ih =>
    have hwf := Memory.wf_foldr_write h rest
    rw [List.foldr_cons]
    by_cases hp : p.1 = a
    · subst hp
      simp [Memory.read_write hwf, Tab.get?]
    · rw [Memory.read_write_ne _ hwf hp, ih]
      simp [Tab.get?, hp]

/-- The byte of a slice, or of the memory behind it (R166). -/
def State.stored (s : State) (pa : Nat) : Byte := (s.slice.get? pa).getD (s.dram.read pa)

/-- What of a place in memory no image holds is read from its slice or from behind it. -/
theorem State.homeByte_stored {s : State} {pa : Nat} (h : s.imageAt? pa = none) : s.homeByte pa = s.stored pa := by
  unfold State.homeByte State.stored
  rw [h]
  dsimp only
  cases s.slice.get? pa <;> rfl

/-- Nothing in SRAM is uncorrectable, every tier island has power, and memory is in canonical form: what a slice gives up arrives behind it. -/
def State.Steady (s : State) : Prop := s.badSram = [] ∧ s.tierPower = 0xFF#8 ∧ s.dram.wf = true

/-- A state comes from another by moves between slices and memory. -/
structure State.OnlySlices (s t : State) : Prop where
  eq : t = { s with dram := t.dram, slice := t.slice, ways := t.ways, proxies := t.proxies, badSram := t.badSram }
  badSram : ∀ q ∈ t.badSram, q ∈ s.badSram
  stored : s.Steady → t.dram.wf = true ∧ ∀ pa, t.stored pa = s.stored pa

theorem kindOfPa_tier {pa : Nat} (h : kindOfPa pa = kTier) : homeDie pa < 8 := by
  have ht : ¬ pa < Config.hbmBytes ∧ Config.tierBase ≤ pa ∧ pa < Config.tierBase + Config.tierBytes := by
    unfold kindOfPa at h
    split at h
    · exact absurd h (by decide)
    next hh =>
      split at h
      next ht => exact ⟨hh, ht⟩
      · split at h
        · exact absurd h (by decide)
        · exact absurd h (by decide)
  unfold homeDie
  rw [if_neg ht.1, if_pos ht.2]
  unfold Config.tierBase Config.tierBytes Config.tierPerDie at *
  omega

/-- No island is dark while all have power (R18). -/
theorem State.tierDark_powered {s : State} (h : s.tierPower = 0xFF#8) (pa : Nat) : s.tierDark pa = false := by
  unfold State.tierDark
  by_cases hk : kindOfPa pa = kTier
  · have hd := kindOfPa_tier hk
    have hbit : ∀ d, d < 8 → (0xFF#8).getLsbD d = true := by decide
    rw [h, hbit _ hd]
    simp
  · simp [hk]

namespace State.OnlySlices

variable {s t u : State}

theorem refl (s : State) : s.OnlySlices s := ⟨rfl, fun _ h => h, fun h => ⟨h.2.2, fun _ => rfl⟩⟩

theorem steady (h : s.OnlySlices t) (hs : s.Steady) : t.Steady := by
  refine ⟨List.eq_nil_iff_forall_not_mem.2 fun q hq => ?_, ?_, (h.stored hs).1⟩
  · have := h.badSram q hq
    rw [hs.1] at this
    exact absurd this (by simp)
  · rw [h.eq]
    exact hs.2.1

theorem trans (h : s.OnlySlices t) (k : t.OnlySlices u) : s.OnlySlices u := by
  refine ⟨k.eq.trans (congrArg (fun x : State =>
    { x with dram := u.dram, slice := u.slice, ways := u.ways, proxies := u.proxies, badSram := u.badSram }) h.eq),
    fun q hq => h.badSram q (k.badSram q hq), fun hs => ⟨(k.stored (h.steady hs)).1, fun pa => ?_⟩⟩
  rw [(k.stored (h.steady hs)).2, (h.stored hs).2]

theorem foldl {α : Type} {f : State → α → State} (hf : ∀ (t : State) (a : α), t.OnlySlices (f t a)) (s : State) (l : List α) :
    s.OnlySlices (l.foldl f s) :=
  List.foldlRecOn (motive := s.OnlySlices) _ _ (refl s) fun t ht a _ => ht.trans (hf t a)

theorem setWays (s : State) (w : Tab (List Way)) : s.OnlySlices { s with ways := w } := ⟨rfl, fun _ h => h, fun h => ⟨h.2.2, fun _ => rfl⟩⟩

theorem setProxies (s : State) (w : Tab (BitVec 8)) : s.OnlySlices { s with proxies := w } :=
  ⟨rfl, fun _ h => h, fun h => ⟨h.2.2, fun _ => rfl⟩⟩

theorem sweep (s : State) : s.OnlySlices s.sweep := by
  unfold State.sweep
  split
  · exact refl s
  · exact ⟨rfl, fun _ => List.mem_of_mem_filter, fun h => ⟨h.2.2, fun _ => rfl⟩⟩

/-- What leaves a slice is read behind it from then on. -/
theorem spillSectors (s : State) (line : Nat) (m : BitVec 4) : s.OnlySlices (s.spillSectors line m) := by
  refine ⟨rfl, fun _ h => h, fun ⟨hbad, hpower, hwf⟩ => ?_⟩
  unfold State.spillSectors
  extract_lets g out lost
  have hlost : lost = false := by
    simp only [lost, State.tierDark_powered hpower, hbad]
    simp
  rw [hlost]
  dsimp only
  refine ⟨Memory.wf_foldr_write hwf _, fun pa => ?_⟩
  have hslice : Tab.get? (s.slice.filter fun p => !out p) pa = if out (pa, 0) then none else s.slice.get? pa := by
    have h := Tab.get?_filter_key (fun a => !out (a, 0)) s.slice pa
    rw [show (fun p : Nat × Byte => !out p) = fun p => !out (p.1, 0) from rfl, h]
    cases out (pa, 0) <;> rfl
  have hmoved : Tab.get? (s.slice.filter out) pa = if out (pa, 0) then s.slice.get? pa else none :=
    Tab.get?_filter_key (fun a => out (a, 0)) s.slice pa
  unfold State.stored
  dsimp only
  rw [if_neg Bool.false_ne_true, hslice, Memory.read_foldr_write hwf, hmoved]
  cases out (pa, 0) <;> simp

theorem leaveSlice (s : State) (g line : Nat) : s.OnlySlices (s.leaveSlice g line) := by
  unfold State.leaveSlice
  extract_lets t ws
  have ht : s.OnlySlices t := by
    unfold t
    split
    · exact spillSectors _ _ _
    · exact setProxies _ _
  exact (ht.trans (setWays _ _)).trans (sweep _)

theorem hold (s : State) (g line : Nat) (m : BitVec 4) (streaming : Bool) : s.OnlySlices (s.hold g line m streaming) := by
  unfold State.hold
  extract_lets key ws isHome put plan cap mine
  have h (t : State) (w : Way) : t.OnlySlices (put t w) := setWays _ _
  split
  · exact h _ _
  · split
    · exact h _ _
    · split
      · split
        · exact refl s
        · exact (leaveSlice _ _ _).trans (h _ _)
      · exact refl s

theorem holdHome (s : State) (line : Nat) (m : BitVec 4) (streaming : Bool) : s.OnlySlices (s.holdHome line m streaming) := by
  unfold State.holdHome
  dsimp only
  split
  · exact refl s
  · exact hold _ _ _ _ _

theorem touch (s : State) (d line : Nat) (m : BitVec 4) (streaming : Bool) : s.OnlySlices (s.touch d line m streaming) := by
  unfold State.touch
  split
  · extract_lets g have_ s1 s2
    have h1 : s.OnlySlices s1 := by
      unfold s1
      split
      · exact refl s
      · exact holdHome _ _ _ _
    have h2 := h1.trans (hold s1 g line m streaming)
    split
    · exact h2.trans (setProxies _ _)
    · exact h2
  · exact holdHome _ _ _ _

theorem touchRange (s : State) (d pa n : Nat) (streaming : Bool) : s.OnlySlices (s.touchRange d pa n streaming) :=
  foldl (fun t line => touch t d line _ _) _ _

/-! What is read off two states of which one comes from the other by moves between slices and memory. -/

section
variable (h : s.OnlySlices t)
include h

theorem ctxs : t.ctxs = s.ctxs := (congrArg State.ctxs h.eq :)
theorem cores : t.cores = s.cores := (congrArg State.cores h.eq :)
theorem groves : t.groves = s.groves := (congrArg State.groves h.eq :)
theorem dies : t.dies = s.dies := (congrArg State.dies h.eq :)

end

end State.OnlySlices

end Sys2Proof.Machine
end

section /-! PROOF. What the lines of a register cache and the grants of a lending pool leave of a context (R92, R103, R109, R110). -/
namespace Sys2Proof.Machine
open Sys2Proof

/-- Two contexts differ in their image, in what the homes hold of its lines, and in what they wait for. -/
def Ctx.SameHold (a b : Ctx) : Prop := b = { a with img := b.img, homes := b.homes, wait := b.wait }

theorem Ctx.SameHold.trans {a b c : Ctx} (h : a.SameHold b) (k : b.SameHold c) : a.SameHold c :=
  Eq.trans k (congrArg (fun x : Ctx => { x with img := c.img, homes := c.homes, wait := c.wait }) h)

/-- Work that makes no place in SRAM bad, and changes of a context nothing but its image, its lines at home and its wait; where `p` holds, not its
wait either, and its image only where a line of a register cache holds uncorrectable data. -/
structure State.KeepsCtx (p : Prop) (cid : Nat) (s t : State) : Prop where
  badSram : ∀ q ∈ t.badSram, q ∈ s.badSram
  ctx {c : Ctx} (hc : s.ctx? cid = some c) :
    ∃ x, t.ctx? cid = some x ∧ c.SameHold x ∧ (p → x.wait = c.wait ∧ (s.RegsSound → x.img = c.img))

namespace State.KeepsCtx

variable {p : Prop} {cid : Nat} {s t u : State}

theorem regsSound (h : KeepsCtx p cid s t) (hs : s.RegsSound) : t.RegsSound := fun core c line hq => hs core c line (h.badSram _ hq)

/-- Work that changes no context, and makes no place in SRAM bad. -/
theorem quiet (hc : t.ctxs = s.ctxs) (hb : ∀ q ∈ t.badSram, q ∈ s.badSram) : KeepsCtx p cid s t := by
  refine ⟨hb, fun {c} h => ⟨c, ?_, rfl, fun _ => ⟨rfl, fun _ => rfl⟩⟩⟩
  rw [State.ctx?, hc]
  exact h

theorem refl (s : State) : KeepsCtx p cid s s := quiet rfl fun _ h => h

theorem trans (h : KeepsCtx p cid s t) (k : KeepsCtx p cid t u) : KeepsCtx p cid s u := by
  refine ⟨fun q hq => h.badSram q (k.badSram q hq), fun hc => ?_⟩
  obtain ⟨x, hx, xhold, xkeep⟩ := h.ctx hc
  obtain ⟨y, hy, yhold, ykeep⟩ := k.ctx hx
  exact ⟨y, hy, xhold.trans yhold, fun hp => ⟨(ykeep hp).1.trans (xkeep hp).1,
    fun hs => ((ykeep hp).2 (h.regsSound hs)).trans ((xkeep hp).2 hs)⟩⟩

theorem foldl {α : Type} {f : State → α → State} (hf : ∀ (t : State) (a : α), KeepsCtx p cid t (f t a)) (s : State) (l : List α) :
    KeepsCtx p cid s (l.foldl f s) :=
  List.foldlRecOn (motive := KeepsCtx p cid s) _ _ (refl s) fun t ht a _ => ht.trans (hf t a)

theorem setCore (s : State) (k : Nat) (v : Core) : KeepsCtx p cid s (s.setCore k v) := quiet rfl fun _ h => h

theorem setGrove (s : State) (g : Nat) (v : Grove) : KeepsCtx p cid s (s.setGrove g v) := quiet rfl fun _ h => h

theorem count (s : State) (k : Nat) (sys : Bool) (ev n : Nat) : KeepsCtx p cid s (s.count k sys ev n) := setCore _ _ _

theorem machineCheck (s : State) (d src mem info pa grove core : Nat) :
    KeepsCtx p cid s (s.machineCheck d src mem info pa grove core) := by
  unfold State.machineCheck
  dsimp only
  split
  · exact quiet rfl fun _ h => h
  · exact quiet rfl fun _ h => h

/-- After work that changes no context, one is replaced. -/
theorem updCtx {j : Nat} {f : Ctx → Ctx} (hc : t.ctxs = s.ctxs) (hb : ∀ q ∈ t.badSram, q ∈ s.badSram)
    (h : ∀ c, c.SameHold (f c) ∧ (p → j = cid → (f c).wait = c.wait ∧ (s.RegsSound → (f c).img = c.img))) :
    KeepsCtx p cid s (t.updCtx j f) := by
  cases hj : t.ctx? j with
  | none =>
    rw [State.updCtx_none hj]
    exact quiet hc hb
  | some x =>
    rw [State.updCtx_some hj]
    refine ⟨hb, fun {c} h' => ?_⟩
    have hcid : t.ctx? cid = some c := by
      rw [State.ctx?, hc]
      exact h'
    by_cases he : j = cid
    · subst he
      obtain rfl : x = c := by simpa [hj] using hcid
      exact ⟨f x, State.ctx?_setCtx t j _, (h x).1, fun hp => (h x).2 hp rfl⟩
    · exact ⟨c, (State.ctx?_setCtx_ne t _ he).trans hcid, rfl, fun _ => ⟨rfl, fun _ => rfl⟩⟩

theorem of_onlySlices (h : s.OnlySlices t) : KeepsCtx p cid s t := quiet h.ctxs h.badSram

/-! The lines of a register cache (R94, R103). -/

/-- A line leaves the register caches; the image loses what it held only where the line is uncorrectable there (R94, R179). -/
theorem dropReg (s : State) (j line : Nat) : KeepsCtx p cid s (s.dropReg j line) := by
  unfold State.dropReg
  split
  · exact refl s
  · extract_lets lost
    have hlost (hs : s.RegsSound) : lost = false := by
      simp only [lost, List.any_eq_false]
      intro q hq
      split
      · exact absurd hq (hs _ _ _)
      · simp
    refine updCtx (f := _) (by rfl) (fun _ => List.mem_of_mem_filter) fun c => ⟨rfl, fun _ _ => ⟨rfl, fun hs => ?_⟩⟩
    rw [hlost hs]
    dsimp only
    split <;> rfl

theorem takeLine (s : State) (core j line : Nat) : KeepsCtx p cid s (s.takeLine core j line) := by
  unfold State.takeLine
  extract_lets s1 s2 s3
  have h1 : KeepsCtx p cid s s1 := (dropReg _ _ _).trans (of_onlySlices (.touchRange _ _ _ _ _))
  have h2 : KeepsCtx p cid s1 s2 := by
    unfold s2
    split
    · exact refl s1
    · split
      · exact dropReg _ _ _
      · exact refl s1
  have h3 : KeepsCtx p cid s2 s3 := updCtx rfl (fun _ h => h) fun c => ⟨rfl, fun _ _ => ⟨rfl, fun _ => rfl⟩⟩
  exact (((h1.trans h2).trans h3).trans (setCore _ _ _)).trans (count _ _ _ _ _)

theorem useLine (s : State) (core j line : Nat) : KeepsCtx p cid s (s.useLine core j line).1 := by
  unfold State.useLine State.touchLine
  split
  · split
    · exact machineCheck _ _ _ _ _ _ _ _
    · exact setCore _ _ _
  · dsimp only
    split
    · exact machineCheck _ _ _ _ _ _ _ _
    · exact takeLine _ _ _ _

theorem fetchLines (s : State) (core j : Nat) (lines : List Nat) : KeepsCtx p cid s (s.fetchLines core j lines) := by
  unfold State.fetchLines
  split
  · exact refl s
  · exact foldl (fun t line => useLine t core j line) s _

/-! Claims are granted (R109, R110). -/

theorem countGrant (s : State) (j : Nat) : KeepsCtx p cid s (s.countGrant j) := by
  unfold State.countGrant
  split
  · split
    · exact refl s
    · exact count _ _ _ _ _
  · exact refl s

/-- A claim that is granted changes the wait of its own context, and its registers. -/
theorem grantOne (s : State) {q : Claim} (hq : p → q.cid ≠ cid) : KeepsCtx p cid s (s.grantOne q) := by
  unfold State.grantOne
  extract_lets t s1
  have ht : KeepsCtx p cid s t := by
    unfold t
    split
    · exact fetchLines _ _ _ _
    · exact refl s
  have h1 : KeepsCtx p cid s s1 := by
    unfold s1
    split
    · exact refl s
    · refine (ht.trans (updCtx (f := _) rfl (fun _ h => h) ?_)).trans (countGrant _ _)
      exact fun c => ⟨rfl, fun hp he => absurd he (hq hp)⟩
  exact h1.trans (updCtx rfl (fun _ h => h) fun c => ⟨rfl, fun hp he => absurd he (hq hp)⟩)

theorem grantFrom (g : Nat) {qs : List Claim} (hq : p → ∀ q ∈ qs, q.cid ≠ cid) (s : State) :
    KeepsCtx p cid s (s.grantFrom g qs).1 := by
  induction qs generalizing s with
  | nil => exact setGrove _ _ _
  | cons q rest ih =>
    unfold State.grantFrom
    split
    · exact (grantOne s fun hp => hq hp q (by simp)).trans (ih (fun hp r hr => hq hp r (List.mem_cons_of_mem q hr)) _)
    · exact setGrove _ _ _

end State.KeepsCtx

/-! An idle core that resumes changes cores only (R104). -/

theorem State.OnlyCores.refl (s : State) : s.OnlyCores s := rfl

theorem State.OnlyCores.wakeCore (s : State) (k : Nat) : s.OnlyCores (s.wakeCore k) := by
  unfold State.wakeCore
  dsimp only
  split
  · exact rfl
  · split
    · exact rfl
    · exact rfl

theorem State.OnlyCores.wakeCtx (s : State) (cid : Nat) : s.OnlyCores (s.wakeCtx cid) := by
  unfold State.wakeCtx
  split
  · exact wakeCore _ _
  · exact rfl

theorem State.OnlyCores.wakeAll (s : State) (cids : List Nat) : s.OnlyCores (cids.foldl (fun (t : State) cid => t.wakeCtx cid) s) :=
  List.foldlRecOn (motive := s.OnlyCores) _ _ rfl fun t ht cid _ => ht.trans (wakeCtx t cid)

theorem State.OnlyCores.ctx? {s t : State} (h : s.OnlyCores t) (cid : Nat) : t.ctx? cid = s.ctx? cid := by
  rw [h]
  rfl

theorem State.ctx?_grantClaims (s : State) (g cid : Nat) :
    (s.grantClaims g).ctx? cid = (s.grantFrom g (s.grove g).claims).1.ctx? cid :=
  (State.OnlyCores.wakeAll _ _).ctx? cid

theorem State.KeepsCtx.grantClaims {p : Prop} {cid : Nat} (s : State) {g : Nat} (hq : p → ∀ q ∈ (s.grove g).claims, q.cid ≠ cid) :
    KeepsCtx p cid s (s.grantClaims g) := by
  have h := State.OnlyCores.wakeAll (s.grantFrom g (s.grove g).claims).1 (s.grantFrom g (s.grove g).claims).2
  refine (grantFrom g hq s).trans (quiet (congrArg State.ctxs h :) fun q => ?_)
  rw [State.grantClaims, h]
  exact id

end Sys2Proof.Machine
end

section /-! PROOF. `vclaim` and `vrelease` (R108, R109, R159, R160). -/
namespace Sys2Proof.Machine
open Sys2Proof

/-- The image of a context to which a new claim of n registers is granted. -/
def Image.granted (m : Image) (n : Nat) : Image := ((m.setLn n).zeroLent n).next 4

section
variable (m : Image) {n : Nat}

theorem Image.ln_setLn (hn : n < 32) : (m.setLn n).ln = n := by
  refine (Image.ln_eq_iff hn).2 fun i hi => ?_
  have hmid : 6 ≤ 6 + i ∧ 6 + i < 11 := by omega
  rw [show (m.setLn n).status = withLn m.status n from rfl, getLsbD_withLn, if_pos hmid, Nat.add_sub_cancel_left]

theorem Image.ln_granted (hn : n < 32) : (m.granted n).ln = n := by
  have hstatus : (m.granted n).status = (m.setLn n).status := rfl
  rw [Image.ln, hstatus]
  exact m.ln_setLn hn

theorem Image.pc_granted (n : Nat) : (m.granted n).pc = (m.next 4).pc := by
  unfold Image.granted Image.next Image.zeroLent Image.setLn
  rfl

theorem Image.x_granted (n : Nat) : (m.granted n).x = m.x := by
  unfold Image.granted Image.next Image.zeroLent Image.setLn
  rfl

theorem Image.slots_granted (n : Nat) : (m.granted n).slots = m.slots := by
  unfold Image.granted Image.next Image.zeroLent Image.setLn
  rfl

/-- A grant zeroes the registers lent, and no other (R109). -/
theorem Image.getV_granted (r : Reg) : (m.granted n).getV r = if 16 ≤ r.toNat ∧ r.toNat < 16 + n then 0 else m.getV r := by
  unfold Image.getV Image.granted Image.next Image.zeroLent
  dsimp only
  rw [Vector.getElem_ofFn]
  split
  · rfl
  · rfl

end

section
variable {s : State} {cid : Nat} {c x : Ctx}

/-- A new claim that is granted commits its `vclaim`, into lines that its core has fetched. -/
theorem State.grantOne_own (hc : s.ctx? cid = some c) (hs : s.RegsSound) {n : Nat}
    (hx : (s.grantOne { cid := cid, n := n, re := false }).ctx? cid = some x) : x.img = c.img.granted n := by
  unfold State.grantOne at hx
  extract_lets t s1 at hx
  have ht : State.KeepsCtx True cid s t := by
    unfold t
    split
    · exact .fetchLines _ _ _ _
    · exact .refl s
  obtain ⟨y, hy, -, hkeep⟩ := ht.ctx hc
  have himg : y.img = c.img := (hkeep trivial).2 hs
  have h1 : State.KeepsCtx True cid (t.setCtx cid { y with img := y.img.granted n }) s1 := by
    have hs1 : s1 = (t.updCtx cid fun x => { x with img := ((x.img.setLn n).zeroLent n).next 4 }).countGrant cid := rfl
    rw [hs1, State.updCtx_some hy]
    exact .countGrant _ _
  obtain ⟨z, hz, -, hkeep⟩ := h1.ctx (State.ctx?_setCtx t cid _)
  have hgranted : z.img = y.img.granted n := (hkeep trivial).2 (ht.regsSound hs)
  rw [State.updCtx_some hz, State.ctx?_setCtx] at hx
  rw [← Option.some.inj hx, ← himg, ← hgranted]

/-- A new claim at the end of the queue, behind others' claims: once the context waits no longer, its image is that of the grant. -/
theorem State.grantFrom_own (g : Nat) {qs : List Claim} (hq : ∀ q ∈ qs, q.cid ≠ cid) (hc : s.ctx? cid = some c) (hw : c.wait ≠ none)
    (hs : s.RegsSound) {n : Nat} (hx : (s.grantFrom g (qs ++ [{ cid := cid, n := n, re := false }])).1.ctx? cid = some x)
    (hg : x.wait = none) : x.img = c.img.granted n := by
  have hblocked (cs : List Claim) (h : (s.setGrove g { s.grove g with claims := cs }).ctx? cid = some x) : x.img = c.img.granted n := by
    obtain rfl : c = x := Option.some.inj (hc.symm.trans h)
    exact absurd hg hw
  induction qs generalizing s c with
  | nil =>
    rw [List.nil_append, State.grantFrom] at hx
    split at hx
    · rw [State.grantFrom] at hx
      exact State.grantOne_own hc hs hx
    · exact hblocked _ hx
  | cons q rest ih =>
    rw [List.cons_append, State.grantFrom] at hx
    split at hx
    · have hone : State.KeepsCtx True cid s (s.grantOne q) := .grantOne s fun _ => hq q List.mem_cons_self
      obtain ⟨y, hy, -, hkeep⟩ := hone.ctx hc
      obtain ⟨hwait, himg⟩ := hkeep trivial
      rw [← himg hs]
      refine ih (fun r hr => hq r (List.mem_cons_of_mem q hr)) hy (hwait ▸ hw) (hone.regsSound hs) hx fun cs h => ?_
      obtain rfl : y = x := Option.some.inj (hy.symm.trans h)
      exact absurd hg (hwait ▸ hw)
    · exact hblocked _ hx

variable (h : s.Ready cid c []) (hring : c.ring = [])
include h hring

theorem execVrelease_ready : execVrelease s = (s.releaseLent cid).goes cid ((c.img.setLn 0).next 4) := by
  rw [execVrelease, runInstr_ready h (.inl rfl), hring]
  rfl

variable {n : BitVec 4} (hs : isService s.here = false)
include hs

theorem execVclaim_refused (hn : c.img.ln ≠ 0 ∨ (s.grove (coreGrove s.here)).poolSize < n.toNat + 1) :
    execVclaim n s = s.traps cid c (FaultRec.mk0 cClaim (n.toNat + 1) c.img.pc.toNat) := by
  rw [execVclaim, runInstr_ready h (.inl rfl)]
  refine congrArg (fun e : Eff => Host.Outcome.next (e.state cid c)) (a₂ := .trap s _) ((if_neg ?_).trans (if_pos ?_))
  · simp [hring]
  · simpa [hs] using hn

/-- The state in which a claim of a context has joined the queue of its grove (R109). -/
def State.claimed (s : State) (cid : Nat) (c : Ctx) (n : BitVec 4) : State :=
  let g := coreGrove s.here
  let s1 := s.setCtx cid { c with wait := some .claim }
  s1.setGrove g { s1.grove g with claims := (s1.grove g).claims ++ [{ cid := cid, n := n.toNat + 1, re := false }] }

/-- A claim that is not refused commits with its grant, or blocks. -/
theorem execVclaim_claimed (hl : c.img.ln = 0) (hn : n.toNat + 1 ≤ (s.grove (coreGrove s.here)).poolSize)
    (hx : ((s.claimed cid c n).grantClaims (coreGrove s.here)).ctx? cid = some x) :
    execVclaim n s = .next (Eff.state (if x.wait = none then .done ((s.claimed cid c n).grantClaims (coreGrove s.here)) x.img
      else .block ((s.claimed cid c n).grantClaims (coreGrove s.here)) .claim) cid c) := by
  rw [execVclaim, runInstr_ready h (.inl rfl)]
  refine congrArg (fun e : Eff => Host.Outcome.next (e.state cid c)) ((if_neg ?_).trans ((if_neg ?_).trans ?_))
  · simp [hring]
  · simpa [hs, hl] using hn
  · rw [State.updCtx_some (State.at_ctx h.1)]
    unfold State.claimed at hx
    dsimp only at hx ⊢
    rw [hx]
    rfl

omit h hring hs in
/-- The registers of a claim that has been granted (R109). -/
theorem State.claimed_granted (hclaims : ∀ q ∈ (s.grove (coreGrove s.here)).claims, q.cid ≠ cid) (hsound : s.RegsSound)
    (hx : ((s.claimed cid c n).grantClaims (coreGrove s.here)).ctx? cid = some x) (hg : x.wait = none) :
    x.img = c.img.granted (n.toNat + 1) := by
  rw [State.ctx?_grantClaims] at hx
  have hqueue : ((s.claimed cid c n).grove (coreGrove s.here)).claims =
      (s.grove (coreGrove s.here)).claims ++ [{ cid := cid, n := n.toNat + 1, re := false }] :=
    congrArg Grove.claims (State.grove_setGrove _ _ _)
  rw [hqueue] at hx
  have hctx : (s.claimed cid c n).ctx? cid = some { c with wait := some .claim } := State.ctx?_setCtx s cid _
  exact State.grantFrom_own _ hclaims hctx nofun hsound hx hg

end

/-- Settles O14: `execVclaim_refused` and `execVclaim_claimed` of a claim, `State.claimed_granted` of its registers, `execVrelease_ready` of
the return. -/
theorem claimGrantsZeroedRegisters : Obligations.ClaimGrantsZeroedRegisters := by
  intro s cid c n h hring hs g want s1 s2
  have hwant : want < 32 := by
    have := n.isLt
    dsimp only [want]
    omega
  refine ⟨execVclaim_refused h hring hs, fun hl hn => ⟨fun x hx hg => ⟨?_, fun _ hclaims hsound => ?_⟩, fun x hx hg => ?_⟩,
    execVrelease_ready h hring, c.img.ln_setLn_zero⟩
  · rw [exec_vclaim, execVclaim_claimed h hring hs hl hn hx, if_pos hg]
    rfl
  · rw [State.claimed_granted hclaims hsound hx hg]
    exact ⟨c.img.ln_granted hwant, c.img.pc_granted want, c.img.x_granted want, c.img.slots_granted want, c.img.getV_granted⟩
  · rw [exec_vclaim, execVclaim_claimed h hring hs hl hn hx, if_neg hg]
    rfl

end Sys2Proof.Machine
end

section /-! PROOF. How a core goes from one context to the next (R104 to R106, R405). -/
namespace Sys2Proof.Machine
open Sys2Proof

/-- Two states differ in one core. -/
def State.OnlyCore (k : Nat) (s t : State) : Prop := t = { s with cores := t.cores } ∧ ∀ h, h ≠ k → t.core h = s.core h

section
variable {s : State} {k : Nat}

theorem State.OnlyCore.refl (s : State) (k : Nat) : State.OnlyCore k s s := ⟨rfl, fun _ _ => rfl⟩

theorem State.OnlyCore.setCore (s : State) (k : Nat) (v : Core) : State.OnlyCore k s (s.setCore k v) :=
  ⟨rfl, fun _ h => State.core_setCore_ne s v h.symm⟩

theorem State.OnlyCore.trans {t u : State} (h : State.OnlyCore k s t) (i : State.OnlyCore k t u) : State.OnlyCore k s u :=
  ⟨Eq.trans i.1 (congrArg (fun x : State => { x with cores := u.cores }) h.1), fun j hj => (i.2 j hj).trans (h.2 j hj)⟩

theorem State.OnlyCore.switchCore (s : State) (k : Nat) : State.OnlyCore k s (s.switchCore k) := by
  unfold State.switchCore
  dsimp only
  split
  · exact (setCore _ _ _).trans (setCore _ _ _)
  · exact setCore _ _ _

theorem State.OnlyCore.wakeCore (s : State) (k : Nat) : State.OnlyCore k s (s.wakeCore k) := by
  unfold State.wakeCore
  dsimp only
  split
  · exact refl s k
  · split
    · exact (setCore _ _ _).trans (setCore _ _ _)
    · exact refl s k

/-- A core that leaves its active slot goes on to the first ready one in the order of R104. -/
theorem State.switchCore_core {i : Fin 4} (hi : (s.core k).active = some i) :
    ((s.switchCore k).core k).active = [i + 1, i + 2, i + 3].find? (s.slotReady k) ∧ ((s.switchCore k).core k).issue = 0 := by
  have hnext : s.nextReady k i false = [i + 1, i + 2, i + 3].find? (s.slotReady k) := rfl
  unfold State.switchCore
  dsimp only
  rw [hi, Option.getD_some]
  split
  next j hj =>
    rw [State.count, State.core_setCore, State.core_setCore, ← hnext, hj]
    exact ⟨rfl, rfl⟩
  next hj =>
    rw [State.core_setCore, ← hnext, hj]
    exact ⟨rfl, rfl⟩

/-- An idle core resumes the first ready slot in the order of R104, its last one at the end. -/
theorem State.wakeCore_idle (hi : (s.core k).active = none) :
    ((s.wakeCore k).core k).active =
      [(s.core k).last + 1, (s.core k).last + 2, (s.core k).last + 3, (s.core k).last].find? (s.slotReady k) := by
  have hnext : s.nextReady k (s.core k).last true =
      [(s.core k).last + 1, (s.core k).last + 2, (s.core k).last + 3, (s.core k).last].find? (s.slotReady k) := rfl
  unfold State.wakeCore
  dsimp only
  rw [hi]
  dsimp only
  split
  next j hj =>
    rw [State.count, State.core_setCore, State.core_setCore, ← hnext, hj]
    rfl
  next hj => rw [hi, ← hnext, hj]

theorem State.wakeCore_busy {i : Fin 4} (hi : (s.core k).active = some i) : s.wakeCore k = s := by
  unfold State.wakeCore
  dsimp only
  rw [hi]

theorem execContextSwitch_ready {i : Fin 4} (hi : (s.core k).active = some i) (hr : s.slotReady k i = true) :
    execContextSwitch k s = .next s := by
  unfold execContextSwitch
  rw [hi]
  dsimp only
  rw [if_pos hr]

theorem execContextSwitch_blocked {i : Fin 4} (hi : (s.core k).active = some i) (hr : s.slotReady k i = false) :
    execContextSwitch k s = .next (s.switchCore k) := by
  unfold execContextSwitch
  rw [hi]
  dsimp only
  rw [if_neg (by rw [hr]; decide)]

theorem execContextSwitch_idle (hi : (s.core k).active = none) : execContextSwitch k s = .next (s.wakeCore k) := by
  unfold execContextSwitch
  rw [hi]

theorem State.busyCore_free (ht : s.inTlbinv k = false) (hh : (s.core k).holding = false) : s.busyCore k = false := by
  rw [State.busyCore, ht, hh]
  rfl

theorem execFairnessSwitch_due {i j : Fin 4} (hi : (s.core k).active = some i) (hn : 4096 ≤ (s.core k).issue) (hb : s.busyCore k = false)
    (hj : [i + 1, i + 2, i + 3].find? (s.slotReady k) = some j) : execFairnessSwitch k s = .next (s.switchCore k) := by
  have hnext : s.nextReady k i false = some j := hj
  have hdue : s.fairDue k = true := by
    unfold State.fairDue
    rw [hi]
    simp [hn, hb, hnext]
  rw [execFairnessSwitch, if_pos hdue]

theorem execFairnessSwitch_early (hn : (s.core k).issue < 4096) : execFairnessSwitch k s = .next s := by
  have hdue : s.fairDue k = false := by
    unfold State.fairDue
    split
    · rfl
    · rw [decide_eq_false (Nat.not_le.2 hn)]
      rfl
  rw [execFairnessSwitch, hdue]
  rfl

/-! A context blocks (R104). -/

theorem State.block_ctxs {cid : Nat} {c : Ctx} (hc : s.ctx? cid = some c) (w : Wait) :
    (s.block cid w).ctxs = (s.setCtx cid { c with wait := some w }).ctxs := by
  unfold State.block
  rw [hc]
  dsimp only
  split
  · exact (congrArg State.ctxs (State.OnlyCore.switchCore _ _).1 :)
  · rfl

theorem execAccessWaitBlock_blocks {cid : Nat} {c : Ctx} (ha : s.activeCid k = some cid) (hc : s.ctx? cid = some c) (hr : c.ready = true)
    (hb : s.busyCore k = false) (hst : s.stalled = false ∨ s.here ≠ k) : execAccessWaitBlock k s = .next (s.block cid .access) := by
  have hstall : (s.stalled && s.here == k) = false := by
    rcases hst with h | h
    · simp [h]
    · simp [h]
  unfold execAccessWaitBlock
  rw [ha]
  dsimp only
  rw [hc]
  dsimp only
  rw [hr, hb, hstall]
  rfl

end

end Sys2Proof.Machine
end

section /-! PROOF. Blocked contexts whose conditions hold become ready together (R104). -/
namespace Sys2Proof.Machine
open Sys2Proof

theorem State.ctx?_updCtx (s : State) (cid : Nat) (f : Ctx → Ctx) (o : Nat) :
    (s.updCtx cid f).ctx? o = if cid = o then (s.ctx? o).map f else s.ctx? o := by
  cases hc : s.ctx? cid with
  | none =>
    rw [State.updCtx_none hc]
    split
    next h => rw [← h, hc, Option.map_none]
    next h => rfl
  | some c =>
    rw [State.updCtx_some hc]
    split
    next h => rw [← h, State.ctx?_setCtx, hc, Option.map_some]
    next h => rw [State.ctx?_setCtx_ne _ _ h]

/-- Contexts wait no longer, and no core has gone on yet. -/
def State.unblock (s : State) (cids : List Nat) : State :=
  cids.foldl (fun (t : State) cid => t.updCtx cid fun c => { c with wait := none }) s

theorem State.makeAllReady_eq (s : State) (cids : List Nat) :
    s.makeAllReady cids = cids.foldl (fun (t : State) cid => t.wakeCtx cid) (s.unblock cids) := rfl

theorem State.unblock_eq (s : State) (cids : List Nat) : s.unblock cids = { s with ctxs := (s.unblock cids).ctxs } := by
  refine List.foldlRecOn (motive := fun t : State => t = { s with ctxs := t.ctxs }) _ _ rfl fun t ht cid _ => ?_
  unfold State.updCtx
  split
  · exact congrArg (fun x : State => x.setCtx cid _) ht
  · exact ht

theorem State.ctx?_unblock (s : State) (cids : List Nat) (o : Nat) :
    (s.unblock cids).ctx? o = (s.ctx? o).map fun y => if o ∈ cids then { y with wait := none } else y := by
  induction cids generalizing s with
  | nil => simp [State.unblock]
  | cons cid rest ih =>
    have hstep : s.unblock (cid :: rest) = (s.updCtx cid fun c => { c with wait := none }).unblock rest := rfl
    rw [hstep, ih, State.ctx?_updCtx]
    by_cases h : cid = o
    · subst h
      cases s.ctx? cid <;> simp
    · simp [h, Ne.symm h]

theorem State.slotReady_congr {s t : State} {k : Nat} (hslots : (t.core k).slots = (s.core k).slots) (hctxs : t.ctxs = s.ctxs) :
    t.slotReady k = s.slotReady k := by
  funext i
  unfold State.slotReady State.ctx?
  rw [hslots, hctxs]

theorem State.wakeCore_slots (s : State) (k j : Nat) : ((s.wakeCore k).core j).slots = (s.core j).slots := by
  by_cases hj : j = k
  · subst hj
    unfold State.wakeCore
    dsimp only
    split
    · rfl
    · split
      · rw [State.count, State.core_setCore, State.core_setCore]
        rfl
      · rfl
  · rw [(State.OnlyCore.wakeCore s k).2 j hj]

/-- The slot that an idle core resumes (R104). -/
def State.resumes (s : State) (k : Nat) : Option (Fin 4) :=
  [(s.core k).last + 1, (s.core k).last + 2, (s.core k).last + 3, (s.core k).last].find? (s.slotReady k)

/-- Other cores may have gone on, and core k too, if a slot of it is ready. -/
structure State.Waking (k : Nat) (s t : State) : Prop where
  cores : s.OnlyCores t
  slots : (t.core k).slots = (s.core k).slots
  core : t.core k = s.core k ∨ (t.core k).active = s.resumes k ∧ s.resumes k ≠ none

namespace State.Waking

variable {s t : State} {k : Nat}

theorem wakeCore_active (h : Waking k s t) (hi : (s.core k).active = none) : ((t.wakeCore k).core k).active = s.resumes k := by
  rcases h.core with hcore | ⟨hactive, hne⟩
  · rw [State.wakeCore_idle (hcore ▸ hi), hcore, State.slotReady_congr h.slots (congrArg State.ctxs h.cores :)]
    rfl
  · obtain ⟨i, hsome⟩ := Option.ne_none_iff_exists'.1 hne
    rw [State.wakeCore_busy (hactive.trans hsome), hactive]

theorem wakeCore (h : Waking k s t) (hi : (s.core k).active = none) (j : Nat) : Waking k s (t.wakeCore j) := by
  refine ⟨h.cores.trans (.wakeCore _ _), (State.wakeCore_slots t j k).trans h.slots, ?_⟩
  by_cases hj : j = k
  · subst hj
    have hactive := h.wakeCore_active hi
    by_cases hnone : s.resumes j = none
    · have hcore : t.core j = s.core j := h.core.resolve_right fun hr => hr.2 hnone
      have hnext : t.nextReady j (t.core j).last true = none := by
        rw [← hnone, hcore, State.nextReady, State.slotReady_congr h.slots (congrArg State.ctxs h.cores :)]
        rfl
      refine .inl ?_
      unfold State.wakeCore
      dsimp only
      rw [hcore, hi]
      dsimp only
      rw [← hcore, hnext, hcore]
    · exact .inr ⟨hactive, hnone⟩
  · rw [(State.OnlyCore.wakeCore t j).2 k (Ne.symm hj)]
    exact h.core

theorem wakeCtx (h : Waking k s t) (hi : (s.core k).active = none) (j : Nat) : Waking k s (t.wakeCtx j) := by
  unfold State.wakeCtx
  split
  · exact h.wakeCore hi _
  · exact h

/-- Once core k has resumed what it can, it stays as it is. -/
theorem wakeCtx_active (h : Waking k s t) (hi : (s.core k).active = none) (ha : (t.core k).active = s.resumes k) (j : Nat) :
    ((t.wakeCtx j).core k).active = s.resumes k := by
  unfold State.wakeCtx
  split
  next m hm =>
    by_cases hk : m = k
    · subst hk
      exact h.wakeCore_active hi
    · rw [(State.OnlyCore.wakeCore t m).2 k (Ne.symm hk), ha]
  · exact ha

/-- The idle core of one of the contexts resumes the first ready slot. -/
theorem wakeAll {cids : List Nat} {cid : Nat} (hi : (s.core k).active = none) (hmem : cid ∈ cids)
    (hk : (s.ctx? cid).bind Ctx.core? = some k) :
    Waking k s (cids.foldl (fun (t : State) cid => t.wakeCtx cid) s) ∧
      ((cids.foldl (fun (t : State) cid => t.wakeCtx cid) s).core k).active = s.resumes k := by
  obtain ⟨l₁, l₂, rfl⟩ := List.append_of_mem hmem
  rw [List.foldl_append, List.foldl_cons]
  have h₁ : Waking k s (l₁.foldl (fun (t : State) cid => t.wakeCtx cid) s) :=
    List.foldlRecOn (motive := Waking k s) _ _ ⟨rfl, rfl, .inl rfl⟩ fun t ht j _ => ht.wakeCtx hi j
  have h₂ : ((State.wakeCtx (l₁.foldl (fun (t : State) cid => t.wakeCtx cid) s) cid).core k).active = s.resumes k := by
    rw [State.wakeCtx, h₁.cores.ctx? cid, hk]
    exact h₁.wakeCore_active hi
  exact List.foldlRecOn (motive := fun t => Waking k s t ∧ (t.core k).active = s.resumes k) _ _ ⟨h₁.wakeCtx hi cid, h₂⟩
    fun t ht j _ => ⟨ht.1.wakeCtx hi j, ht.1.wakeCtx_active hi ht.2 j⟩

end State.Waking

/-! The condition of a context holds. -/

section
variable {s : State} {cid : Nat} {c : Ctx}

theorem State.mem_readyNow_self (h : ∀ k, c.core? = some k → (s.residents k).contains cid = true) : cid ∈ s.readyNow cid c := by
  unfold State.readyNow
  split
  · exact List.mem_singleton_self cid
  next k hk => exact List.mem_filter.2 ⟨List.contains_iff_mem.1 (h k hk), by simp⟩

/-- Of another context it is asked that it is resident there, that it waits for no access and no cell, and that its condition holds. -/
theorem State.mem_readyNow {o : Nat} {y : Ctx} (ho : o ≠ cid) (hy : s.ctx? o = some y) :
    o ∈ s.readyNow cid c ↔
      (∃ k, c.core? = some k ∧ o ∈ s.residents k) ∧ y.wait ≠ some .access ∧ y.wait ≠ some .halo ∧ s.condHolds o y = true := by
  unfold State.readyNow
  split
  next hk => simp [hk, ho]
  next k hk =>
    rw [List.mem_filter, hy]
    simp [hk, ho, and_assoc]

theorem State.makeAllReady_eq_with (cids : List Nat) :
    s.makeAllReady cids = { s with ctxs := (s.makeAllReady cids).ctxs, cores := (s.makeAllReady cids).cores } := by
  have hwoken := State.OnlyCores.wakeAll (s.unblock cids) cids
  have hunblock := s.unblock_eq cids
  rw [← State.makeAllReady_eq] at hwoken
  calc s.makeAllReady cids = { s.unblock cids with cores := (s.makeAllReady cids).cores } := hwoken
    _ = { s with ctxs := (s.unblock cids).ctxs, cores := (s.makeAllReady cids).cores } :=
        congrArg (fun x : State => { x with cores := (s.makeAllReady cids).cores }) hunblock
    _ = { s with ctxs := (s.makeAllReady cids).ctxs, cores := (s.makeAllReady cids).cores } :=
        congrArg (fun x : Tab Ctx => { s with ctxs := x, cores := (s.makeAllReady cids).cores }) (congrArg State.ctxs hwoken :).symm

theorem State.ctx?_makeAllReady (cids : List Nat) (o : Nat) :
    (s.makeAllReady cids).ctx? o = (s.ctx? o).map fun y => if o ∈ cids then { y with wait := none } else y := by
  rw [State.makeAllReady_eq, (State.OnlyCores.wakeAll _ _).ctx? o, State.ctx?_unblock]

variable (hc : s.ctx? cid = some c)
include hc

/-- The core of the context, if it was idle, resumes what is ready then. -/
theorem State.makeAllReady_resumes {cids : List Nat} {k : Nat} (hmem : cid ∈ cids) (hk : c.core? = some k) (hi : (s.core k).active = none) :
    ((s.makeAllReady cids).core k).active =
      [(s.core k).last + 1, (s.core k).last + 2, (s.core k).last + 3, (s.core k).last].find? ((s.makeAllReady cids).slotReady k) := by
  have hcore : (s.unblock cids).core k = s.core k := by
    rw [s.unblock_eq cids]
    rfl
  have hwhere : ((s.unblock cids).ctx? cid).bind Ctx.core? = some k := by
    rw [State.ctx?_unblock, hc, Option.map_some, Option.bind_some, if_pos hmem]
    exact hk
  obtain ⟨hwaking, hactive⟩ := State.Waking.wakeAll (by rw [hcore, hi]) hmem hwhere
  rw [← State.makeAllReady_eq] at hwaking hactive
  rw [hactive, State.resumes, hcore, State.slotReady_congr hwaking.slots (congrArg State.ctxs hwaking.cores :)]

theorem execContextReady_waits (h : s.condHolds cid c = false) : execContextReady cid s = .next s := by
  unfold execContextReady
  rw [hc]
  dsimp only
  rw [h]
  rfl

theorem execContextReady_holds (h : s.condHolds cid c = true) : execContextReady cid s = .next (s.makeAllReady (s.readyNow cid c)) := by
  unfold execContextReady
  rw [hc]
  dsimp only
  rw [if_pos h]

end

end Sys2Proof.Machine
end

section /-! PROOF. A line of an image joins a register cache (R94, R103): no byte at a home changes. -/
namespace Sys2Proof
open Sys2Proof

theorem Tab.mem_of_get? {α : Type} {t : Tab α} {k : Nat} {v : α} (h : t.get? k = some v) : (k, v) ∈ t := by
  induction t with
  | nil => exact absurd h (by simp [Tab.get?])
  | cons p rest ih =>
    rw [Tab.get?] at h
    split at h
    next hk =>
      rw [← hk, ← Option.some.inj h]
      exact List.mem_cons_self
    · exact List.mem_cons_of_mem p (ih h)

end Sys2Proof

namespace Sys2Proof.Machine
open Sys2Proof

/-- What the homes hold but for images stays: the slices and the memory behind them may exchange bytes where nothing is uncorrectable. -/
structure State.KeepsHomes (s t : State) : Prop where
  groves : t.groves = s.groves
  dies : t.dies = s.dies
  badSram : ∀ q ∈ t.badSram, q ∈ s.badSram
  tierPower : t.tierPower = s.tierPower
  stored : s.Steady → t.dram.wf = true ∧ ∀ pa, t.stored pa = s.stored pa

namespace State.KeepsHomes

variable {s t u : State}

theorem steady (h : s.KeepsHomes t) (hs : s.Steady) : t.Steady := by
  refine ⟨List.eq_nil_iff_forall_not_mem.2 fun q hq => ?_, h.tierPower.trans hs.2.1, (h.stored hs).1⟩
  have := h.badSram q hq
  rw [hs.1] at this
  exact absurd this List.not_mem_nil

theorem refl (s : State) : s.KeepsHomes s := ⟨rfl, rfl, fun _ h => h, rfl, fun h => ⟨h.2.2, fun _ => rfl⟩⟩

theorem trans (h : s.KeepsHomes t) (k : t.KeepsHomes u) : s.KeepsHomes u :=
  ⟨k.groves.trans h.groves, k.dies.trans h.dies, fun q hq => h.badSram q (k.badSram q hq), k.tierPower.trans h.tierPower,
    fun hs => ⟨(k.stored (h.steady hs)).1, fun pa => ((k.stored (h.steady hs)).2 pa).trans ((h.stored hs).2 pa)⟩⟩

theorem of_onlySlices (h : s.OnlySlices t) : s.KeepsHomes t :=
  ⟨h.groves, h.dies, h.badSram, (congrArg State.tierPower h.eq :), h.stored⟩

/-- A change of cores, contexts and errors that have gone. -/
theorem quiet (hg : t.groves = s.groves := by rfl) (hd : t.dies = s.dies := by rfl) (hp : t.tierPower = s.tierPower := by rfl)
    (hm : t.dram = s.dram := by rfl) (hl : t.slice = s.slice := by rfl) (hb : ∀ q ∈ t.badSram, q ∈ s.badSram := by exact fun _ h => h) :
    s.KeepsHomes t := by
  refine ⟨hg, hd, hb, hp, fun h => ⟨hm ▸ h.2.2, fun pa => ?_⟩⟩
  rw [State.stored, State.stored, hm, hl]

theorem updCtx (s : State) (cid : Nat) (f : Ctx → Ctx) : s.KeepsHomes (s.updCtx cid f) := by
  unfold State.updCtx
  split
  · exact quiet
  · exact refl s

theorem dropReg (s : State) (cid line : Nat) : s.KeepsHomes (s.dropReg cid line) := by
  unfold State.dropReg
  split
  · exact refl s
  · exact trans (quiet (hb := fun _ => List.mem_of_mem_filter)) (updCtx _ _ _)

theorem setCore (s : State) (k : Nat) (v : Core) : s.KeepsHomes (s.setCore k v) := quiet

theorem takeLine (s : State) (core cid line : Nat) : s.KeepsHomes (s.takeLine core cid line) := by
  unfold State.takeLine
  extract_lets s1 s2 s3
  have h1 : s.KeepsHomes s1 := (dropReg _ _ _).trans (of_onlySlices (.touchRange _ _ _ _ _))
  have h2 : s1.KeepsHomes s2 := by
    unfold s2
    split
    · exact refl s1
    · split
      · exact dropReg _ _ _
      · exact refl s1
  exact (((h1.trans h2).trans (updCtx s2 _ _)).trans (setCore s3 _ _)).trans (setCore _ _ _)

end State.KeepsHomes

/-- With the same images beside what the homes hold else, each byte at a home is the same. -/
theorem State.KeepsHomes.homeByte {s t : State} (h : s.KeepsHomes t) (hs : s.Steady)
    (hx : ∀ o, (t.ctx? o).map Ctx.img = (s.ctx? o).map Ctx.img) (pa : Nat) : t.homeByte pa = s.homeByte pa := by
  have hsome (o : Nat) : (t.ctx? o).isSome = (s.ctx? o).isSome := by
    rw [← Option.isSome_map (f := Ctx.img), hx o, Option.isSome_map]
  have himage : t.imageAt? pa = s.imageAt? pa := by
    simp only [State.imageAt?, State.die_of_dies h.dies, hsome]
  cases hi : s.imageAt? pa with
  | none => rw [State.homeByte_stored hi, State.homeByte_stored (himage.trans hi), (h.stored hs).2]
  | some p =>
    obtain ⟨cid, o⟩ := p
    have himg := hx cid
    unfold State.homeByte
    rw [himage, hi]
    dsimp only
    cases ht : t.ctx? cid with
    | none =>
      rw [ht] at himg
      rw [Option.map_eq_none_iff.1 himg.symm]
    | some x =>
      rw [ht] at himg
      obtain ⟨c, hc, hcimg⟩ := Option.map_eq_some_iff.1 himg.symm
      rw [hc]
      dsimp only
      rw [hcimg]

theorem State.cores_updCtx (s : State) (cid : Nat) (f : Ctx → Ctx) : (s.updCtx cid f).cores = s.cores := by
  unfold State.updCtx
  split
  · rfl
  · rfl

/-- A core whose register cache gives up a line. -/
def Core.without (c : Core) (l : Nat × Nat) : Core := { c with lines := c.lines.filter fun m => m != l }

theorem Core.without_absent {c : Core} {l : Nat × Nat} (h : c.lines.contains l = false) : c.without l = c := by
  have hself : (c.lines.filter fun m => m != l) = c.lines := by
    refine List.filter_eq_self.2 fun m hm => ?_
    rw [bne_iff_ne]
    rintro rfl
    exact absurd (List.contains_iff_mem.2 hm) (by rw [h]; exact Bool.false_ne_true)
  rw [Core.without, hself]

/-- A line that leaves the register caches leaves the list of each core, and changes nothing else of one. -/
theorem State.core_dropReg (s : State) (cid line h : Nat) : (s.dropReg cid line).core h = (s.core h).without (cid, line) := by
  unfold State.dropReg
  split
  next hany =>
    refine (Core.without_absent ?_).symm
    unfold State.core
    cases hget : s.cores.get? h with
    | none => rfl
    | some c =>
      rw [Bool.not_eq_true', List.any_eq_false] at hany
      exact Bool.not_eq_true _ ▸ hany _ (Tab.mem_of_get? hget)
  next hany =>
    rw [State.core, State.cores_updCtx, State.core, Tab.get?_map (by intro p; dsimp only; split <;> rfl)]
    cases hget : s.cores.get? h with
    | none => rfl
    | some c =>
      dsimp only [Option.map_some, Option.getD_some]
      split
      · rfl
      next hc => exact (Core.without_absent (Bool.not_eq_true _ ▸ hc)).symm

/-! A fill in steps: the line leaves every other cache and the slice has it, a full cache gives one up, and the line joins. -/

/-- No register cache holds the line, and its home slice does. -/
def State.recalled (s : State) (core cid line : Nat) : State :=
  (s.dropReg cid line).touchRange (coreDie core) (s.linePa cid line) 64 false

/-- A full register cache has given up a line (R103). -/
def State.madeRoom (s : State) (core : Nat) : State :=
  if (s.core core).lines.length < 512 then s else
    match s.lineVictim core with | some v => s.dropReg v.1 v.2 | none => s

section
variable (s : State) (core cid line : Nat)

theorem State.core_recalled (h : Nat) : (s.recalled core cid line).core h = (s.core h).without (cid, line) := by
  rw [State.recalled, State.core, (State.OnlySlices.touchRange _ _ _ _ _).cores]
  exact s.core_dropReg cid line h

theorem State.takeLine_eq :
    s.takeLine core cid line =
      let s2 := (s.recalled core cid line).madeRoom core
      let s3 := s2.updCtx cid fun c => { c with homes := c.homes.set line (c.img.line line) }
      (s3.setCore core { s3.core core with lines := (cid, line) :: (s3.core core).lines }).count core (s.atSystem cid) 5 1 := rfl

theorem State.lines_takeLine :
    ((s.takeLine core cid line).core core).lines = (cid, line) :: (((s.recalled core cid line).madeRoom core).core core).lines := by
  rw [State.takeLine_eq]
  dsimp only
  rw [State.count, State.core_setCore, State.core_setCore, State.core, State.cores_updCtx]
  rfl

theorem State.core_takeLine_ne {h : Nat} (hh : h ≠ core) :
    (s.takeLine core cid line).core h = ((s.recalled core cid line).madeRoom core).core h := by
  rw [State.takeLine_eq]
  dsimp only
  rw [State.count, State.core_setCore_ne _ _ hh.symm, State.core_setCore_ne _ _ hh.symm, State.core, State.cores_updCtx]
  rfl

end

theorem State.lineVictim_congr {s t : State} {k : Nat} (h : t.core k = s.core k) : t.lineVictim k = s.lineVictim k := by
  unfold State.lineVictim State.activeCid
  rw [h]

section
variable {s : State} {core cid line : Nat}

theorem State.madeRoom_free (h : (s.core core).lines.length < 512) : s.madeRoom core = s := if_pos h

theorem State.madeRoom_full {v : Nat × Nat} (h : 512 ≤ (s.core core).lines.length) (hv : s.lineVictim core = some v) :
    s.madeRoom core = s.dropReg v.1 v.2 := by
  rw [State.madeRoom, if_neg (Nat.not_lt.2 h), hv]

/-- With no uncorrectable error, a fill leaves every context but for what its homes hold. -/
theorem State.ctx?_takeLine (hs : s.RegsSound) (o : Nat) :
    ((s.takeLine core cid line).ctx? o).map (fun y => { y with homes := [] }) = (s.ctx? o).map fun y => { y with homes := [] } := by
  cases hc : s.ctx? o with
  | none =>
    have hsome := (State.KeepsFocus.takeLine s core cid line).ctxs o
    rw [hc] at hsome
    rw [Option.isNone_iff_eq_none.1 (Option.isSome_eq_false_iff.1 hsome)]
  | some c =>
    obtain ⟨x, hx, hhold, hkeep⟩ := (State.KeepsCtx.takeLine (p := True) s core cid line).ctx hc
    obtain ⟨hwait, himg⟩ := hkeep trivial
    rw [hx, Option.map_some, Option.map_some, hhold, hwait, himg hs]

variable (habsent : (s.core core).lines.contains (cid, line) = false)
include habsent

theorem State.core_recalled_self : (s.recalled core cid line).core core = s.core core := by
  rw [State.core_recalled, Core.without_absent habsent]

theorem State.takeLine_free (h : (s.core core).lines.length < 512) :
    ((s.takeLine core cid line).core core).lines = (cid, line) :: (s.core core).lines ∧
      ∀ k, k ≠ core → (s.takeLine core cid line).core k = (s.core k).without (cid, line) := by
  have hroom : (s.recalled core cid line).madeRoom core = s.recalled core cid line :=
    State.madeRoom_free (by rw [State.core_recalled_self habsent]; exact h)
  refine ⟨?_, fun k hk => ?_⟩
  · rw [State.lines_takeLine, hroom, State.core_recalled_self habsent]
  · rw [State.core_takeLine_ne _ _ _ _ hk, hroom, State.core_recalled]

theorem State.takeLine_full {v : Nat × Nat} (h : 512 ≤ (s.core core).lines.length) (hv : s.lineVictim core = some v) :
    ((s.takeLine core cid line).core core).lines = (cid, line) :: (s.core core).lines.filter fun l => l != v := by
  have hself : (s.recalled core cid line).core core = s.core core := State.core_recalled_self habsent
  have hroom : (s.recalled core cid line).madeRoom core = (s.recalled core cid line).dropReg v.1 v.2 :=
    State.madeRoom_full (by rw [hself]; exact h) ((State.lineVictim_congr hself).trans hv)
  rw [State.lines_takeLine, hroom, State.core_dropReg, hself]
  rfl

theorem execImageLineFill_takes {c : Ctx} (hservice : isService core = false) (hl : line < 128)
    (hr : (s.residents core).contains cid = true) (hc : s.ctx? cid = some c) (hs : s.Sound) :
    execImageLineFill core cid line s = .next (s.takeLine core cid line) := by
  have hgo : (isService core || 128 ≤ line || !((s.residents core).contains cid) || (s.core core).lines.contains (cid, line)) = false := by
    rw [hservice, hr, habsent, decide_eq_false (Nat.not_le.2 hl)]
    rfl
  rw [execImageLineFill, State.lineFill, hgo, hc]
  dsimp only
  rw [if_neg Bool.false_ne_true, State.badAt_sound hs, if_neg Bool.false_ne_true]

end

theorem State.Sound.regsSound {s : State} (h : s.Sound) : s.RegsSound := fun core cid line hq => by
  rw [h.2] at hq
  exact absurd hq List.not_mem_nil

/-- With no uncorrectable error and power for every island, a fill changes no byte at a home. -/
theorem State.homeByte_takeLine {s : State} {core cid line : Nat} (hs : s.Sound) (hm : s.MemInv) (hp : s.tierPower = 0xFF#8) (pa : Nat) :
    (s.takeLine core cid line).homeByte pa = s.homeByte pa := by
  obtain ⟨⟨hwf, -, -⟩, -⟩ := hm
  refine (State.KeepsHomes.takeLine s core cid line).homeByte ⟨hs.2, hp, hwf⟩ (fun o => ?_) pa
  have h := congrArg (Option.map Ctx.img) (State.ctx?_takeLine (core := core) (cid := cid) (line := line) hs.regsSound o)
  rwa [Option.map_map, Option.map_map] at h

end Sys2Proof.Machine
end

section /-! PROOF. A victim leaves its slot and goes back to the pool (R107, R317). -/
namespace Sys2Proof.Machine
open Sys2Proof

/-- Every die's pool is the same. -/
def State.SamePools (s t : State) : Prop := ∀ d, (t.die d).pool = (s.die d).pool

namespace State.SamePools

variable {s t u : State}

theorem refl (s : State) : s.SamePools s := fun _ => rfl

theorem trans (h : s.SamePools t) (k : t.SamePools u) : s.SamePools u := fun d => (k d).trans (h d)

theorem of_dies (h : t.dies = s.dies) : s.SamePools t := fun d => congrArg Die.pool (State.die_of_dies h d)

theorem foldl {α : Type} {f : State → α → State} (hf : ∀ (t : State) (a : α), t.SamePools (f t a)) (s : State) (l : List α) :
    s.SamePools (l.foldl f s) :=
  List.foldlRecOn (motive := s.SamePools) _ _ (refl s) fun t ht a _ => ht.trans (hf t a)

theorem updCtx (s : State) (cid : Nat) (f : Ctx → Ctx) : s.SamePools (s.updCtx cid f) := of_dies (State.dies_updCtx s cid f)

theorem machineCheck (s : State) (d src mem info pa grove core : Nat) : s.SamePools (s.machineCheck d src mem info pa grove core) :=
  (State.OnlyHomes.machineCheck s d src mem info pa grove core).pool

theorem useLine (s : State) (core cid line : Nat) : s.SamePools (s.useLine core cid line).1 := by
  unfold State.useLine State.touchLine
  split
  · split
    · exact machineCheck _ _ _ _ _ _ _ _
    · exact of_dies rfl
  · dsimp only
    split
    · exact machineCheck _ _ _ _ _ _ _ _
    · exact of_dies (State.KeepsHomes.takeLine _ _ _ _).dies

theorem fetchLines (s : State) (core cid : Nat) (lines : List Nat) : s.SamePools (s.fetchLines core cid lines) := by
  unfold State.fetchLines
  split
  · exact refl s
  · exact foldl (fun t line => useLine t core cid line) s lines

theorem countGrant (s : State) (cid : Nat) : s.SamePools (s.countGrant cid) := by
  unfold State.countGrant
  split
  · split
    · exact refl s
    · exact of_dies rfl
  · exact refl s

theorem grantOne (s : State) (q : Claim) : s.SamePools (s.grantOne q) := by
  unfold State.grantOne
  extract_lets t s1
  have ht : s.SamePools t := by
    unfold t
    split
    · exact fetchLines _ _ _ _
    · exact refl s
  have h1 : s.SamePools s1 := by
    unfold s1
    split
    · exact refl s
    · exact (ht.trans (updCtx t _ _)).trans (countGrant _ _)
  exact h1.trans (updCtx s1 _ _)

theorem grantFrom (s : State) (g : Nat) (qs : List Claim) : s.SamePools (s.grantFrom g qs).1 := by
  induction qs generalizing s with
  | nil => exact of_dies rfl
  | cons q rest ih =>
    unfold State.grantFrom
    split
    · exact (grantOne s q).trans (ih _)
    · exact of_dies rfl

theorem grantClaims (s : State) (g : Nat) : s.SamePools (s.grantClaims g) := by
  have h := State.OnlyCores.wakeAll (s.grantFrom g (s.grove g).claims).1 (s.grantFrom g (s.grove g).claims).2
  exact (grantFrom s g _).trans (of_dies (congrArg State.dies h :))

end State.SamePools

/-- The pool entry of a context that has been pre-empted (R317). -/
def PoolEntry.resuming (serial cid : Nat) (c : Ctx) : PoolEntry :=
  { id := serial, entry := c.img.pc, args := c.img.args, bound := c.img.bound, next := 0, count := 1, task := c.task
    hold := none, resume := some cid, acq := none }

section
variable {s : State} {cid core : Nat} {c : Ctx}

theorem State.evictTask_ctx (s : State) (cid core : Nat) (c : Ctx) :
    ∃ x, (s.evictTask cid core c).ctx? cid = some x ∧ x.where_ = .queued ∧ x.chosen = true := by
  let s2 := ((s.withdrawClaim cid (coreGrove core)).setCore core ((s.core core).withdraw cid)).setCtx cid
    { c with wait := none, watch := none, latch := false, leaving := none, stale := none, chosen := true }
  have h3 := State.ctx?_freeSlotOf (State.ctx?_setCtx _ _ _ : s2.ctx? cid = some _) .queued
  obtain ⟨x, hx, hhold, -⟩ := (State.KeepsCtx.grantClaims (p := False) _ (g := coreGrove core) False.elim).ctx h3
  refine ⟨x, hx, ?_, ?_⟩
  · rw [hhold]
  · rw [hhold]

theorem State.evictTask_pool (s : State) (cid core : Nat) (c : Ctx) :
    ∃ n, ((s.evictTask cid core c).die (coreDie core)).pool = (s.die (coreDie core)).pool ++ [PoolEntry.resuming n cid c] := by
  let s2 := ((s.withdrawClaim cid (coreGrove core)).setCore core ((s.core core).withdraw cid)).setCtx cid
    { c with wait := none, watch := none, latch := false, leaving := none, stale := none, chosen := true }
  let s3 := (s2.freeSlotOf cid .queued).grantClaims (coreGrove core)
  have hpool : s.SamePools s3 := .trans (.of_dies ((State.dies_freeSlotOf s2 cid .queued).trans rfl)) (.grantClaims _ _)
  have hdie : (s.evictTask cid core c).die (coreDie core) =
      { s3.die (coreDie core) with pool := (s3.die (coreDie core)).pool ++ [PoolEntry.resuming s3.serial cid c] } :=
    State.die_setDie s3 (coreDie core) _
  refine ⟨s3.serial, ?_⟩
  rw [hdie]
  dsimp only
  rw [hpool]

variable (hc : s.ctx? cid = some c)
include hc

theorem execPreemption_leaves {i n : Nat} (hw : c.where_ = .slot core i) (hl : c.leaving = some n) (hr : c.ring = [])
    (ho : s.owes core cid = false) (ht : s.inTlbinv core = false) (hh : (s.core core).holding = false)
    (hp : (s.die (coreDie core)).pool.length < 65536) : execPreemption cid s = .next (s.evictTask cid core c) := by
  have hcore : c.core? = some core := by rw [Ctx.core?, hw]
  have hinv : (s.invals.get? core).isNone = true := by
    rw [← Option.not_isSome, show (s.invals.get? core).isSome = false from ht]
    rfl
  rw [execPreemption, State.preempt, hc]
  dsimp only
  rw [hcore]
  dsimp only
  rw [hl]
  dsimp only
  rw [hr, ho, hinv, hh, decide_eq_true hp, if_pos (by rfl)]

end

end Sys2Proof.Machine
end

section /-! PROOF. Faults that wait to be taken (R400, R402, R403). -/
namespace Sys2Proof.Machine
open Sys2Proof

/-- A fold none of whose steps changes what it starts from. -/
theorem foldl_fixed_of_mem {α β : Type} {f : β → α → β} {s : β} {l : List α} (h : ∀ a ∈ l, f s a = s) : l.foldl f s = s :=
  List.foldlRecOn (motive := fun t => t = s) l f rfl fun t ht a ha => by rw [ht, h a ha]

theorem State.sendRests_none {s : State} {core : Nat} {m : Image} {ring : List RingEntry} (h : ∀ y ∈ ring, vmaxxW y.instr = none)
    (older : List RingEntry) : s.sendRests core m older ring = s := by
  induction ring generalizing older with
  | nil => rfl
  | cons e rest ih =>
    have he : s.sendRest core m older e = s := by rw [State.sendRest, h e List.mem_cons_self]
    rw [State.sendRests, he, ih fun y hy => h y (List.mem_cons_of_mem e hy)]

section
variable {s : State} {cid core : Nat} {c : Ctx} (hc : s.ctx? cid = some c)
include hc

/-- Younger entries that no unit has and that exchange nothing go into the save area as they are. -/
theorem execLateFault_saves {e : RingEntry} {young : List RingEntry} {f : FaultRec} (hcore : c.core? = some core) (hr : c.ring = e :: young)
    (hf : e.phase = .faulted f) (he : vmaxxW e.instr = none)
    (hy : ∀ y ∈ young, vmaxxW y.instr = none ∧ s.queuedMat (coreGrove core) cid c.uid y = none) :
    execLateFault cid e.seq.toNat s = .next
      (((s.fetchLines core cid (70 :: areaLines c.img.saved.length (young.length + 1))).updCtx cid fun x => { x with
        ring := []
        late := some (c.late.getD { f with late := true, seq := some e.seq.toNat })
        img := x.img.saveMore (e.save c.late.isNone :: young.map fun y => y.save false) }).wakeCore core) := by
  have hbegun : ∀ y ∈ young, s.begun (coreGrove core) cid c.uid y = false := fun y hmem => by rw [State.begun, (hy y hmem).2]
  have hstay : (young.filter fun y => s.begun (coreGrove core) cid c.uid y) = [] :=
    List.filter_eq_nil_iff.2 fun y hmem => Bool.not_eq_true _ ▸ hbegun y hmem
  have hout : (young.filter fun y => !s.begun (coreGrove core) cid c.uid y) = young :=
    List.filter_eq_self.2 fun y hmem => by rw [hbegun y hmem]; rfl
  have hsend : s.sendRests core c.img [] (e :: young) = s :=
    State.sendRests_none (List.forall_mem_cons.2 ⟨he, fun y hmem => (hy y hmem).1⟩) []
  have hfault : s.entryFault core c [] e = some f := by rw [State.entryFault, hf]
  have hraise : s.raiseLate cid core c e young f =
      ((s.fetchLines core cid (70 :: areaLines c.img.saved.length (young.length + 1))).updCtx cid fun x => { x with
        ring := []
        late := some (c.late.getD { f with late := true, seq := some e.seq.toNat })
        img := x.img.saveMore (e.save c.late.isNone :: young.map fun y => y.save false) }).wakeCore core := by
    unfold State.raiseLate
    dsimp only
    rw [hstay, hout, foldl_fixed_of_mem (s := s), hsend, List.length_cons, List.length_map]
    intro y hmem
    rw [(hy y hmem).2]
  rw [← hraise, execLateFault, State.lateFault, hc]
  dsimp only
  rw [hcore, hr]
  dsimp only
  rw [if_neg (not_not_intro rfl), hfault]
  dsimp only
  rw [hf]

theorem execPendingTrapTaken_takes {f : FaultRec} {psu : Bool} (hb : s.busyCore core = false)
    (hp : s.pendingTrap core = some (cid, f, psu)) :
    execPendingTrapTaken core s =
      .next ((if psu then s.setCtx cid { c with psu := c.psu.drop 1 } else s).takeTrap cid core f c.img.pc) := by
  rw [execPendingTrapTaken, State.takePending, hp]
  dsimp only
  rw [hb, if_neg Bool.false_ne_true, hc]

end

/-- Settles O49: a clause per event, each from what its function does on the state that the clause describes. -/
theorem contextAndFaultEvents : Obligations.ContextAndFaultEvents := by
  unfold Obligations.ContextAndFaultEvents
  intro order only
  refine ⟨fun s k i hi => ⟨?_, ?_, ?_, ?_⟩, ?_, ?_, ?_, ?_, ?_, ?_, ?_⟩
  · exact execContextSwitch_ready hi
  · intro hr
    exact ⟨_, execContextSwitch_blocked hi hr, (State.switchCore_core hi).1, (State.switchCore_core hi).2, State.OnlyCore.switchCore s k⟩
  · intro hn ht hh j hj
    exact ⟨_, execFairnessSwitch_due hi hn (State.busyCore_free ht hh) hj, (State.switchCore_core hi).1.trans hj,
      (State.switchCore_core hi).2, State.OnlyCore.switchCore s k⟩
  · exact execFairnessSwitch_early
  · intro s k hi
    exact ⟨_, execContextSwitch_idle hi, State.wakeCore_idle hi, State.OnlyCore.wakeCore s k⟩
  · intro s k cid c ha hc hr ht hh hst
    refine ⟨_, execAccessWaitBlock_blocks ha hc hr (State.busyCore_free ht hh) hst, ?_, fun o ho => ?_⟩
    · rw [State.ctx?, State.block_ctxs hc]
      exact State.ctx?_setCtx s cid _
    · rw [State.ctx?, State.block_ctxs hc]
      exact State.ctx?_setCtx_ne s _ ho.symm
  · intro s cid c hc holds mate
    refine ⟨execContextReady_waits hc, fun hholds hres => ?_⟩
    have hself : cid ∈ s.readyNow cid c := State.mem_readyNow_self hres
    refine ⟨_, execContextReady_holds hc hholds, ?_, fun o ho => ?_, fun k hk hi => State.makeAllReady_resumes hc hself hk hi,
      State.makeAllReady_eq_with _⟩
    · rw [State.ctx?_makeAllReady, hc, Option.map_some, if_pos hself]
    · rw [State.ctx?_makeAllReady]
      cases hy : s.ctx? o with
      | none => rfl
      | some y =>
        have hmate : o ∈ s.readyNow cid c ↔ mate o y = true := by
          have hholds : holds o y = s.condHolds o y := rfl
          rw [State.mem_readyNow ho hy]
          dsimp only [mate]
          rw [hholds]
          cases c.core? with
          | none => simp
          | some k => simp [and_assoc]
        rw [Option.map_some, Option.map_some]
        simp only [hmate]
  · intro s k cid line c hservice hl hr habsent hc hs hm hp
    refine ⟨_, execImageLineFill_takes habsent hservice hl hr hc hs, fun hfree => ?_, fun v => State.takeLine_full habsent,
      State.ctx?_takeLine hs.regsSound, (State.KeepsHomes.takeLine s k cid line).groves, (State.KeepsHomes.takeLine s k cid line).dies,
      State.homeByte_takeLine hs hm hp⟩
    obtain ⟨hlines, hothers⟩ := State.takeLine_free habsent hfree
    exact ⟨hlines, fun h hh => congrArg Core.lines (hothers h hh)⟩
  · intro s cid core c e young f hc hcore hr hf he hy
    exact execLateFault_saves hc hcore hr hf he hy
  · intro s k cid c f hc ht hh
    exact ⟨execPendingTrapTaken_takes hc (State.busyCore_free ht hh), execPendingTrapTaken_takes hc (State.busyCore_free ht hh)⟩
  · intro s cid core i n c hc hw hl hr ho ht hh hp
    obtain ⟨x, hx, hwhere, hchosen⟩ := s.evictTask_ctx cid core c
    obtain ⟨m, hpool⟩ := s.evictTask_pool cid core c
    exact ⟨_, _, x, execPreemption_leaves hc hw hl hr ho ht hh hp, hx, hwhere, hchosen, hpool, rfl, rfl, rfl, rfl, rfl⟩

end Sys2Proof.Machine
end

section /-! PROOF. The machine right after reset (R102, R202, R313, R340, R350, R355, R374, R379, R385, R393, R426). -/
namespace Sys2Proof.Machine
open Sys2Proof

/-- No memory is listed, and no checkpoint is kept. -/
theorem State.reset_memInv : State.reset.MemInv := ⟨⟨rfl, rfl, nofun⟩, nofun⟩

theorem State.reset_die (d : Nat) : State.reset.die d = Die.fresh := rfl
theorem State.reset_grove (g : Nat) : State.reset.grove g = Grove.fresh := rfl
theorem State.reset_core (k : Nat) : State.reset.core k = Core.fresh := rfl

theorem State.reset_incumbent (k : BitVec 3) : State.reset.incumbent k = Incumbent.fresh := by
  simp [State.incumbent, State.reset]

/-- Settles O60: each unit is as its fresh value says. -/
theorem resetState : Obligations.ResetState := by
  unfold Obligations.ResetState
  intro s
  refine ⟨State.reset_memInv, ⟨rfl, rfl⟩, rfl, rfl, rfl, rfl, rfl, rfl, rfl, rfl, rfl, rfl, rfl, rfl, rfl, rfl, rfl, rfl, fun d => ?dies,
    fun g => ?groves, fun k => ?cores, fun k => ?incumbents, fun _ => rfl⟩
  case dies =>
    rw [State.reset_die]
    refine ⟨rfl, rfl, rfl, rfl, rfl, rfl, fun _ => rfl, fun i => ?_⟩
    simp [Die.fresh]
  case groves =>
    rw [State.mat, State.reset_grove]
    refine ⟨rfl, rfl, rfl, rfl, fun b => ?_⟩
    simp [Grove.fresh, MatUnit.fresh, Bank.empty]
  case cores =>
    rw [State.reset_core]
    refine ⟨rfl, rfl, rfl, fun i => ?_⟩
    simp [Core.fresh]
  case incumbents =>
    rw [State.reset_incumbent]
    exact ⟨rfl, rfl⟩

end Sys2Proof.Machine
end

section /-! PROOF. Scalar stores and `lea` (R91, R120, R180, R181, R183). -/
namespace Sys2Proof.Machine
open Sys2Proof

variable {s : State} {cid : Nat} {c : Ctx} {d xo : Reg} {seg : Slot} {disp : Int} {n len : Nat}

section
variable {rel : Option Scope} (h : s.Ready cid c [d, xo]) (hm : ringHasMem (s.coreRing s.here) = false)
include h hm

/-- A release waits for what older entries of the ring still have to do (R183). -/
theorem runStore_waits (hr : rel.isSome = true) (hw : relWait (s.coreRing s.here) = true) :
    runStore n len d xo seg disp rel s = .next { s with stalled := true } := by
  rw [runStore, runMem_ready h (.inl rfl) hm, if_pos (by rw [hr, hw]; rfl)]
  rfl

variable (hw : rel.isSome = true → relWait (s.coreRing s.here) = false)
include hw

/-- A store that does not wait is its access. -/
theorem runStore_access :
    runStore n len d xo seg disp rel s =
      .next (Eff.state (match s.segStore s.here (c.img.slot seg) (nOf (c.img.getX xo) + disp) (leBytes n (c.img.getX d).toNat) rel with
        | (s1, .error f) => .trap s1 f
        | (s1, .ok _) => .done s1 (c.img.next len)) cid c) := by
  have hno : ¬(rel.isSome && relWait (s.coreRing s.here)) = true := by
    rw [Bool.and_eq_true, not_and, Bool.not_eq_true]
    exact hw
  rw [runStore]
  exact (runMem_ready h (.inl rfl) hm _).trans (congrArg (fun e : Eff => Host.Outcome.next (e.state cid c)) (if_neg hno))

theorem runStore_ok {t : State}
    (ht : s.segStore s.here (c.img.slot seg) (nOf (c.img.getX xo) + disp) (leBytes n (c.img.getX d).toNat) rel = (t, .ok ())) :
    runStore n len d xo seg disp rel s = t.goes cid (c.img.next len) := by
  rw [runStore_access h hm hw, ht]
  rfl

theorem runStore_fault {t : State} {f : FaultRec}
    (ht : s.segStore s.here (c.img.slot seg) (nOf (c.img.getX xo) + disp) (leBytes n (c.img.getX d).toNat) rel = (t, .error f)) :
    runStore n len d xo seg disp rel s = t.traps cid c f := by
  rw [runStore_access h hm hw, ht]
  rfl

end

theorem runLea_ready (h : s.Ready cid c [d, xo]) :
    runLea len d xo seg disp s =
      if (c.img.slot seg).kind = 0 then
        s.traps cid c (FaultRec.mk0 cSegment 1 (segVa (c.img.slot seg) (nOf (c.img.getX xo) + disp)))
      else s.goes cid ((c.img.setX d (BitVec.ofNat 64 (segVa (c.img.slot seg) (nOf (c.img.getX xo) + disp)))).next len) := by
  split
  next hk => exact runRegs_fault h _ (if_pos hk)
  next hk => exact runRegs_ready h _ (if_neg hk)

/-- Settles O27: `runStore_waits`, `runStore_ok` and `runStore_fault` of the stores, `runLea_ready` of the addresses. -/
theorem scalarStoresAndLea : Obligations.ScalarStoresAndLea := by
  intro s cid c d xo seg d5 d20 d32 rel h m x g low stores lea
  have hstore {i : Instr} {n len : Nat} {disp : Int} {rel : Option Scope} (hi : exec i s = runStore n len d xo seg disp rel s) :
      stores i n len disp rel := by
    intro hm
    rw [hi]
    exact ⟨runStore_waits h hm, fun hw => ⟨fun _ => runStore_ok h hm hw, fun _ _ => runStore_fault h hm hw⟩⟩
  have hlea {i : Instr} {len : Nat} {disp : Int} (hi : exec i s = runLea len d xo seg disp s) : lea i len disp := by
    have hva : (((g.base : Int) + x + disp) % 2 ^ 56).toNat = segVa g (x + disp) := by rw [segVa, Int.add_assoc]
    dsimp only [lea]
    rw [hi, hva]
    exact runLea_ready h
  refine ⟨hstore ?_, hstore ?_, hstore ?_, hstore ?_, hstore rfl, hstore rfl, hstore rfl, hstore rfl, hstore rfl, hstore rfl, hstore rfl,
    hstore rfl, hlea rfl, hlea rfl, hlea rfl⟩
  · rw [exec_stI8, execStI8, Int.mul_one]
  · rw [exec_stI16, execStI16, Int.mul_comm]
  · rw [exec_stI32, execStI32, Int.mul_comm]
  · rw [exec_stI64, execStI64, Int.mul_comm]

end Sys2Proof.Machine
end

section /-! PROOF. Scalar integer instructions: registers, bit fields, immediates, literals and pc-relative values (R115 to R119). -/
namespace Sys2Proof.Machine
open Sys2Proof

variable {s : State} {cid : Nat} {c : Ctx} {d : Reg} {srcs : List Reg} {w : Nat}

/-- An integer instruction commits with what its operation yields. -/
theorem runAlu_yields (h : s.Ready cid c (d :: srcs)) {o : Out} {len : Nat} {f : Image → Word} {v : Word} (ho : o = runAlu len d srcs f s)
    (hf : f c.img = v) : o = s.goes cid ((c.img.setX d v).next len) := by
  rw [ho, runAlu_ready h, hf]

/-! Quotients and remainders (R116). -/

theorem ofInt_tdiv (x y : BitVec w) : BitVec.ofInt w (x.toInt.tdiv y.toInt) = x.sdiv y :=
  BitVec.eq_of_toInt_eq ((BitVec.toInt_ofInt _).trans (BitVec.toInt_sdiv x y).symm)

theorem ofInt_tmod (x y : BitVec w) : BitVec.ofInt w (x.toInt.tmod y.toInt) = x.srem y := by
  rw [← BitVec.toInt_srem, BitVec.ofInt_toInt]

theorem divS_eq (x y : Word) : divS x y = if y = 0 then BitVec.allOnes 64 else x.sdiv y := by
  rw [divS, ofInt_tdiv]
  rfl

theorem remS_eq (x y : Word) : remS x y = if y = 0 then x else x.srem y := by
  rw [remS, ofInt_tmod]

theorem divN_eq (x y : Word) : divN x y = if y = 0 then BitVec.allOnes 64 else x / y := by
  rw [divN, ← BitVec.toNat_udiv, BitVec.ofNat_toNat, BitVec.setWidth_eq]

theorem remN_eq (x y : Word) : remN x y = if y = 0 then x else x % y := by
  rw [remN, ← BitVec.toNat_umod, BitVec.ofNat_toNat, BitVec.setWidth_eq]

/-! Rotations, minima and maxima (R115). -/

theorem count64_lt (y : Word) : count64 y < 64 := Nat.mod_lt _ (by decide)

theorem rotL_eq_rotateLeft (x : Word) {n : Nat} (hn : n < 64) : rotL x n = x.rotateLeft n := by
  rw [rotL, BitVec.rotateLeft_def, Nat.mod_eq_of_lt hn]

theorem rotL_eq_rotateRight (x : Word) {n : Nat} (hn : n < 64) : rotL x (64 - n) = x.rotateRight n := by
  rw [rotL, BitVec.rotateRight_def, Nat.mod_eq_of_lt hn, Nat.sub_sub_self (Nat.le_of_lt hn), BitVec.or_comm]

theorem pick_sle (x y u v : Word) : pick (x.sle y) u v = if x.toInt ≤ y.toInt then u else v := by
  simp only [pick, BitVec.sle_iff_toInt_le]

theorem pick_ule (x y u v : Word) : pick (x.ule y) u v = if x.toNat ≤ y.toNat then u else v := by
  simp only [pick, BitVec.ule_iff_toNat_le]

/-- Settles O1: `runAlu_yields`, and what each operation yields. -/
theorem integerRegisterResults : Obligations.IntegerRegisterResults := by
  intro s cid c d a b h x y n gives
  have hn : n < 64 := count64_lt y
  exact ⟨runAlu_yields h (exec_add ..) rfl, runAlu_yields h (exec_sub ..) rfl, runAlu_yields h (exec_mul ..) rfl,
    runAlu_yields h (exec_mulh ..) rfl, runAlu_yields h (exec_mulhn ..) rfl,
    runAlu_yields h (exec_div ..) (divS_eq x y), runAlu_yields h (exec_divn ..) (divN_eq x y),
    runAlu_yields h (exec_rem ..) (remS_eq x y), runAlu_yields h (exec_remn ..) (remN_eq x y),
    runAlu_yields h (exec_and_ ..) rfl, runAlu_yields h (exec_or_ ..) rfl, runAlu_yields h (exec_xor_ ..) rfl,
    runAlu_yields h (exec_andn ..) rfl, runAlu_yields h (exec_sll ..) rfl, runAlu_yields h (exec_srl ..) rfl,
    runAlu_yields h (exec_sra ..) rfl,
    runAlu_yields h (exec_rol ..) (rotL_eq_rotateLeft x hn), runAlu_yields h (exec_ror ..) (rotL_eq_rotateRight x hn),
    runAlu_yields h (exec_min_ ..) (pick_sle x y x y), runAlu_yields h (exec_max_ ..) (pick_sle x y y x),
    runAlu_yields h (exec_minn ..) (pick_ule x y x y), runAlu_yields h (exec_maxn ..) (pick_ule x y y x)⟩

/-! Bit counts (R115). -/

theorem clzFrom_le (n : Nat) (x : Word) : clzFrom n x ≤ n := by
  induction n with
  | zero => exact Nat.le_refl 0
  | succ n ih =>
    rw [clzFrom]
    split
    · exact Nat.zero_le _
    · exact Nat.succ_le_succ ih

/-- The bits that `clzFrom` counts are 0. -/
theorem getLsbD_above_clzFrom {n k : Nat} {x : Word} (hk : k < clzFrom n x) : x.getLsbD (n - 1 - k) = false := by
  induction n generalizing k with
  | zero => exact absurd hk (Nat.not_lt_zero k)
  | succ n ih =>
    rw [clzFrom] at hk
    split at hk
    next => exact absurd hk (Nat.not_lt_zero k)
    next hx =>
      cases k with
      | zero => exact Bool.eq_false_of_not_eq_true hx
      | succ k =>
        have hbit := ih (Nat.lt_of_succ_lt_succ hk)
        rwa [show n + 1 - 1 - (k + 1) = n - 1 - k by omega]

/-- The count of `clzFrom` ends at a 1. -/
theorem getLsbD_at_clzFrom {n : Nat} {x : Word} (hn : clzFrom n x < n) : x.getLsbD (n - 1 - clzFrom n x) = true := by
  induction n with
  | zero => exact absurd hn (Nat.not_lt_zero _)
  | succ n ih =>
    rw [clzFrom] at hn ⊢
    split at hn
    next hx => rwa [if_pos hx]
    next hx =>
      rw [if_neg hx, show n + 1 - 1 - (clzFrom n x + 1) = n - 1 - clzFrom n x by omega]
      exact ih (Nat.lt_of_succ_lt_succ hn)

theorem ctzFrom_le (n : Nat) (x : Word) : ctzFrom n x ≤ n := by
  induction n with
  | zero => exact Nat.le_refl 0
  | succ n ih =>
    rw [ctzFrom]
    split
    · exact Nat.zero_le _
    · exact Nat.succ_le_succ ih

/-- The bits that `ctzFrom` counts are 0. -/
theorem getLsbD_below_ctzFrom {n k : Nat} {x : Word} (hn : n ≤ 64) (hk : k < ctzFrom n x) : x.getLsbD (64 - n + k) = false := by
  induction n generalizing k with
  | zero => exact absurd hk (Nat.not_lt_zero k)
  | succ n ih =>
    rw [ctzFrom] at hk
    split at hk
    next => exact absurd hk (Nat.not_lt_zero k)
    next hx =>
      cases k with
      | zero =>
        rw [show 64 - (n + 1) + 0 = 63 - n by omega]
        exact Bool.eq_false_of_not_eq_true hx
      | succ k =>
        have hbit := ih (Nat.le_of_succ_le hn) (Nat.lt_of_succ_lt_succ hk)
        rwa [show 64 - (n + 1) + (k + 1) = 64 - n + k by omega]

/-- The count of `ctzFrom` ends at a 1. -/
theorem getLsbD_at_ctzFrom {n : Nat} {x : Word} (hn : n ≤ 64) (hlt : ctzFrom n x < n) : x.getLsbD (64 - n + ctzFrom n x) = true := by
  induction n with
  | zero => exact absurd hlt (Nat.not_lt_zero _)
  | succ n ih =>
    rw [ctzFrom] at hlt ⊢
    split at hlt
    next hx => rwa [if_pos hx, show 64 - (n + 1) + 0 = 63 - n by omega]
    next hx =>
      rw [if_neg hx, show 64 - (n + 1) + (ctzFrom n x + 1) = 64 - n + ctzFrom n x by omega]
      exact ih (Nat.le_of_succ_le hn) (Nat.lt_of_succ_lt_succ hlt)

theorem popcFrom_eq (n : Nat) (x : Word) : popcFrom n x = ((List.range n).filter fun k => x.getLsbD k).length := by
  induction n with
  | zero => rfl
  | succ n ih =>
    rw [popcFrom, ih, List.range_succ, List.filter_append, List.length_append]
    cases hx : x.getLsbD n with
    | false => simp [hx]
    | true => simp [hx]

/-! Conditions (R76). -/

theorem intCond_eq_ccMeans (cc : IntCc) (x y : Word) : intCond cc x y = ccMeans cc x y := by
  cases cc with
  | eq => rfl
  | ne => exact (decide_not ..).symm
  | lt => exact BitVec.slt_eq_decide
  | gt => exact BitVec.slt_eq_decide
  | ge => simp [intCond, ccMeans, BitVec.slt_eq_decide, ← decide_not]
  | le => simp [intCond, ccMeans, BitVec.slt_eq_decide, ← decide_not]
  | ltn => rfl
  | gtn => rfl
  | gen => simp [intCond, ccMeans, BitVec.ult, ← decide_not]
  | len => simp [intCond, ccMeans, BitVec.ult, ← decide_not]

/-! Bit fields (R117). -/

/-- The model's signed reading of a natural number's low bits is that of a word of the width. -/
theorem toSigned_eq_toInt {len : Nat} (hlen : 0 < len) (n : Nat) : toSigned len n = (BitVec.ofNat len n).toInt := by
  obtain ⟨m, rfl⟩ : ∃ m, len = m + 1 := ⟨len - 1, by omega⟩
  have hnat : (2 : Nat) ^ (m + 1) = 2 * 2 ^ m := pow_succ' 2 m
  have hint : (2 : Int) ^ (m + 1) = 2 * 2 ^ m := pow_succ' 2 m
  rw [BitVec.toInt_eq_toNat_cond, BitVec.toNat_ofNat, toSigned]
  simp only [Nat.add_sub_cancel, hnat, hint, Nat.mul_lt_mul_left Nat.zero_lt_two]
  push_cast
  rfl

theorem fieldN_eq (x : Word) (pos len : Nat) : fieldN x pos len = (x.extractLsb' pos len).setWidth 64 := by
  refine BitVec.eq_of_toNat_eq ?_
  rw [fieldN, BitVec.toNat_ofNat, BitVec.toNat_setWidth, BitVec.extractLsb'_toNat, Nat.shiftRight_eq_div_pow]

theorem fieldS_eq (x : Word) (pos : Nat) {len : Nat} (hlen : 0 < len) : fieldS x pos len = (x.extractLsb' pos len).signExtend 64 := by
  rw [fieldS, toSigned_eq_toInt hlen, ← Nat.shiftRight_eq_div_pow]
  rfl

theorem getLsbD_fieldN (x : Word) (pos l : Nat) {k : Nat} (hk : k < 64) :
    (fieldN x pos (l + 1)).getLsbD k = (decide (k ≤ l) && x.getLsbD (pos + k)) := by
  rw [fieldN_eq, BitVec.getLsbD_setWidth, BitVec.getLsbD_extractLsb']
  simp [hk]

/-- Above the field its highest bit is repeated. -/
theorem getLsbD_fieldS (x : Word) (pos l : Nat) {k : Nat} (hk : k < 64) :
    (fieldS x pos (l + 1)).getLsbD k = x.getLsbD (pos + min k l) := by
  rw [fieldS_eq x pos l.succ_pos, BitVec.getLsbD_signExtend, BitVec.msb_eq_getLsbD_last, BitVec.getLsbD_extractLsb',
    BitVec.getLsbD_extractLsb']
  by_cases hl : k ≤ l
  · simp [hk, hl]
  · simp [hk, hl, Nat.min_eq_right (Nat.le_of_not_le hl)]

theorem getLsbD_fieldMask (pos len : Nat) {k : Nat} (hk : k < 64) :
    (fieldMask pos len).getLsbD k = decide (pos ≤ k ∧ k < pos + len) := by
  rw [fieldMask, BitVec.getLsbD_ofNat, Nat.testBit_mul_two_pow, Nat.testBit_two_pow_sub_one]
  simp only [hk, decide_true, Bool.true_and, ← Bool.decide_and, decide_eq_decide]
  omega

/-- `ins` replaces the bits of the field by the low bits of its operand. -/
theorem getLsbD_inserted (x y : Word) (pos l : Nat) {k : Nat} (hk : k < 64) :
    ((y &&& ~~~(fieldMask pos (l + 1))) ||| ((x <<< pos) &&& fieldMask pos (l + 1))).getLsbD k =
      if pos ≤ k ∧ k ≤ pos + l then x.getLsbD (k - pos) else y.getLsbD k := by
  rw [BitVec.getLsbD_or, BitVec.getLsbD_and, BitVec.getLsbD_and, BitVec.getLsbD_not, getLsbD_fieldMask pos (l + 1) hk,
    BitVec.getLsbD_shiftLeft]
  by_cases hin : pos ≤ k ∧ k ≤ pos + l
  · obtain ⟨hlow, hhigh⟩ := hin
    simp [hk, hlow, hhigh, ← Nat.add_assoc]
  · have hout : ¬(pos ≤ k ∧ k < pos + (l + 1)) := by omega
    rw [if_neg hin, decide_eq_false hout]
    simp [hk]

/-- Settles O2: `runAlu_yields`, and the bits of what each operation yields. -/
theorem bitCountFieldAndSelectResults : Obligations.BitCountFieldAndSelectResults := by
  intro s cid c d a b e h x y gives
  have hda : s.Ready cid c [d, a] := h.subset (by simp)
  have hdab : s.Ready cid c [d, a, b] := h.subset (by simp)
  refine ⟨⟨clzFrom 64 x, clzFrom_le 64 x, runAlu_yields hda (exec_clz ..) rfl, fun k => getLsbD_above_clzFrom, getLsbD_at_clzFrom⟩,
    ⟨ctzFrom 64 x, ctzFrom_le 64 x, runAlu_yields hda (exec_ctz ..) rfl, fun k hk => ?_, fun hlt => ?_⟩,
    runAlu_yields hda (exec_popc ..) (congrArg (BitVec.ofNat 64) (popcFrom_eq 64 x)),
    fun cc => runAlu_yields hdab (exec_setCc ..) (congrArg (fun p : Bool => if p then 1#64 else 0#64) (intCond_eq_ccMeans cc x y)),
    fun pos lenm1 hlen => ⟨⟨_, runAlu_yields hda (exec_extn ..) rfl, fun k => getLsbD_fieldN x _ _⟩,
      ⟨_, runAlu_yields hda (exec_ext ..) rfl, fun k => getLsbD_fieldS x _ _⟩,
      ⟨_, runAlu_yields hda (exec_ins ..) rfl, fun k => getLsbD_inserted x _ _ _⟩⟩,
    runAlu_yields h (exec_sel ..) (ite_not ..)⟩
  · simpa using getLsbD_below_ctzFrom (Nat.le_refl 64) hk
  · simpa using getLsbD_at_ctzFrom (Nat.le_refl 64) hlt

/-! Addresses modulo 2^56 (R114). -/

theorem toNat_a56 (v : Word) : (a56 v).toNat = v.toNat % 2 ^ 56 := by
  rw [a56, BitVec.toNat_setWidth, BitVec.extractLsb'_toNat, Nat.shiftRight_zero]
  omega

theorem a56_add_ofInt (v : Word) (i : Int) : a56 (v + BitVec.ofInt 64 i) = BitVec.ofNat 64 (((v.toNat : Int) + i) % 2 ^ 56).toNat := by
  refine BitVec.eq_of_toNat_eq ?_
  rw [toNat_a56, BitVec.toNat_add, BitVec.toNat_ofInt, BitVec.toNat_ofNat]
  omega

theorem a56_add_ofNat (v : Word) (n : Nat) : a56 (v + BitVec.ofNat 64 n) = BitVec.ofNat 64 ((v.toNat + n) % 2 ^ 56) := by
  refine BitVec.eq_of_toNat_eq ?_
  rw [toNat_a56, BitVec.toNat_add, BitVec.toNat_ofNat, BitVec.toNat_ofNat]
  omega

/-! Immediates and literals (R118, R119). -/

theorem append_extractLsb'_low (j : BitVec 32) (x : Word) :
    (j ++ x.extractLsb' 0 32 : Word) = BitVec.ofNat 64 (j.toNat * 2 ^ 32 + x.toNat % 2 ^ 32) := by
  refine BitVec.eq_of_toNat_eq ?_
  have hj := j.isLt
  rw [BitVec.toNat_append, BitVec.extractLsb'_toNat, Nat.shiftRight_zero, ← Nat.shiftLeft_add_eq_or_of_lt (Nat.mod_lt _ (by decide)),
    BitVec.toNat_ofNat, Nat.shiftLeft_eq]
  omega

/-- Settles O3: `runAlu_yields`; a sign extension is the word of the immediate's value. -/
theorem immediateResults : Obligations.ImmediateResults := by
  intro s cid c d a i j n h x pc near far
  have hd : s.Ready cid c [d] := h.subset (by simp)
  exact ⟨runAlu_yields h (exec_addImm ..) rfl, runAlu_yields h (exec_andImm ..) rfl, runAlu_yields h (exec_orImm ..) rfl,
    runAlu_yields h (exec_xorImm ..) rfl, runAlu_yields h (exec_mulImm ..) rfl, runAlu_yields h (exec_sllImm ..) rfl,
    runAlu_yields h (exec_srlImm ..) rfl, runAlu_yields h (exec_sraImm ..) rfl, runAlu_yields h (exec_addImmQ ..) rfl,
    runAlu_yields h (exec_andImmQ ..) rfl, runAlu_yields h (exec_orImmQ ..) rfl, runAlu_yields h (exec_xorImmQ ..) rfl,
    runAlu_yields h (exec_mulImmQ ..) rfl, runAlu_yields h (exec_sllImmQ ..) rfl, runAlu_yields h (exec_srlImmQ ..) rfl,
    runAlu_yields h (exec_sraImmQ ..) rfl, runAlu_yields hd (exec_li ..) rfl, runAlu_yields hd (exec_liQ ..) rfl,
    runAlu_yields hd (exec_lih ..) (append_extractLsb'_low ..), runAlu_yields hd (exec_lpc ..) (a56_add_ofInt ..),
    runAlu_yields hd (exec_lpcQ ..) (a56_add_ofInt ..)⟩

end Sys2Proof.Machine
end

section /-! PROOF. Branches, loops and jumps (R114, R121 to R124). -/
namespace Sys2Proof.Machine
open Sys2Proof

variable {s : State} {cid : Nat} {c : Ctx} {d a b : Reg} {w len : Nat}

theorem signExtend_shiftLeft_two (off : BitVec w) : off.signExtend 64 <<< 2 = BitVec.ofInt 64 (4 * off.toInt) := by
  rw [BitVec.shiftLeft_eq_mul_twoPow, BitVec.mul_comm, BitVec.ofInt_mul]
  rfl

theorem branchTo_eq (m : Image) (off : BitVec w) :
    branchTo m off = BitVec.ofNat 64 (((m.pc.toNat : Int) + 4 * off.toInt) % 2 ^ 56).toNat := by
  rw [branchTo, signExtend_shiftLeft_two, a56_add_ofInt]

/-- An instruction on registers that takes no fault commits with its image. -/
theorem runRegs_commits {regs : List Reg} (h : s.Ready cid c regs) {rm : Bool} {f : Image → Image} :
    runRegs rm regs (fun m => .ok (f m)) s = s.goes cid (f c.img) := runRegs_ready h rm rfl

theorem runBranch_ready (h : s.Ready cid c [a, b]) (cc : IntCc) (off : BitVec w) :
    runBranch len cc a b off s =
      if ccMeans cc (c.img.getX a) (c.img.getX b) then s.goes cid { c.img with pc := branchTo c.img off } else s.goes cid (c.img.next len) := by
  refine (runRegs_commits h).trans ?_
  rw [intCond_eq_ccMeans, apply_ite (s.goes cid)]

theorem runLoop_ready (h : s.Ready cid c [a]) (off : BitVec w) :
    let m := c.img.setX a (c.img.getX a - 1)
    runLoop len a off s =
      if c.img.getX a - 1 = 0 then s.goes cid (m.next len) else s.goes cid { m with pc := branchTo c.img off } := by
  intro m
  refine (runRegs_commits h).trans ?_
  rw [apply_ite (s.goes cid), ite_not]

theorem runJal_ready (h : s.Ready cid c [d]) (off : BitVec w) :
    runJal len d off s = s.goes cid { c.img.setX d (a56 (c.img.pc + BitVec.ofNat 64 len)) with pc := branchTo c.img off } :=
  runRegs_commits h

theorem execJr_fault (h : s.Ready cid c [d, a]) {f : FaultRec} (hf : targetFault c.img (c.img.getX a) = some f) :
    execJr d a s = s.traps cid c f :=
  runRegs_fault h _ (by rw [hf])

theorem execJr_jumps (h : s.Ready cid c [d, a]) (hf : targetFault c.img (c.img.getX a) = none) :
    execJr d a s = s.goes cid { c.img.setX d (a56 (c.img.pc + 4)) with pc := c.img.getX a } :=
  runRegs_ready h _ (by rw [hf])

/-- Settles O4: the forms of branches and jumps, `branchTo_eq` of their targets, `a56_add_ofNat` of their links. -/
theorem branchAndJumpTargets : Obligations.BranchAndJumpTargets := by
  intro s cid c d a b cc o9 o19 o32 h m x pc target jump fall link
  have hab : s.Ready cid c [a, b] := h.subset (by simp)
  have hda : s.Ready cid c [d, a] := h.subset (by simp)
  have ha : s.Ready cid c [a] := h.subset (by simp)
  have hd : s.Ready cid c [d] := h.subset (by simp)
  have htarget {w : Nat} (off : BitVec w) : target off.toInt = branchTo m off := (branchTo_eq m off).symm
  have hlink (n : Nat) : link n = a56 (m.pc + BitVec.ofNat 64 n) := (a56_add_ofNat m.pc n).symm
  simp only [jump, htarget, hlink]
  exact ⟨runBranch_ready hab cc o9, runBranch_ready hab cc o32, runLoop_ready ha o9, runLoop_ready ha o32, runJal_ready hd o19,
    runJal_ready hd o32, fun hlt hal => execJr_jumps hda (targetFault_none hlt hal), fun hle => execJr_fault hda (targetFault_high hle),
    fun hlt hal => execJr_fault hda (targetFault_misaligned hlt hal)⟩

end Sys2Proof.Machine
end

section /-! PROOF. Scalar FP32 instructions that round (R125, R126). -/
namespace Sys2Proof.Machine
open Sys2Proof

/-- A rounding instruction commits with its exact result rounded once, and the flags of both. -/
theorem runFp_rounds {s : State} {cid : Nat} {c : Ctx} {d : Reg} {srcs : List Reg} (h : s.At cid c) (hp : pfxCheck c.img rmOnly = none)
    (hi : interlocked c.ring (d :: srcs) = false) {o : Out} {len : Nat} {f : Rm → Image → FV × FFlags} {p : FV × FFlags}
    (ho : o = runFp len d srcs f s) (hf : f (rmUnder c.img.rm c.img.pending?) c.img = p) :
    let r := roundF32 (rmUnder c.img.rm c.img.pending?) p.1
    o = s.goes cid (((c.img.setX d (r.1.setWidth 64)).orFlags (p.2 ||| r.2)).next len) := by
  rw [ho, ← hf]
  exact runRegs_rounding h hp hi rfl

/-- Settles O5: each instruction is `runFp` of its exact result. The statement's abbreviations are known by their equations, so that no
check evaluates the arithmetic. -/
theorem scalarFloatResults : Obligations.ScalarFloatResults := by
  intro s cid c d a b e h hp hi m rm v gives
  have hdab : interlocked c.ring [d, a, b] = false := interlocked_subset (by simp) hi
  have hda : interlocked c.ring [d, a] = false := interlocked_subset (by simp) hi
  have hv : ∀ r, v r = valF32 (m.getF r) := fun _ => rfl
  have hgives : ∀ len p, gives len p =
      s.goes cid (((m.setX d ((roundF32 rm p.1).1.setWidth 64)).orFlags (p.2 ||| (roundF32 rm p.1).2)).next len) := fun _ _ => rfl
  clear_value gives v
  simp only [hgives, hv]
  exact ⟨runFp_rounds h hp hdab (exec_fadd ..) rfl, runFp_rounds h hp hdab (exec_fsub ..) rfl, runFp_rounds h hp hdab (exec_fmul ..) rfl,
    runFp_rounds h hp hdab (exec_fdiv ..) rfl, runFp_rounds h hp hda (exec_fsqrt ..) rfl, runFp_rounds h hp hi (exec_fma ..) rfl⟩

end Sys2Proof.Machine
end

section /-! PROOF. `sys` and `brk` (R134, R135). -/
namespace Sys2Proof.Machine
open Sys2Proof

variable {s s1 : State} {cid core : Nat} {c : Ctx}

theorem faultWord_data {f : FaultRec} (hd : f.data < 2 ^ 32) (prv : Bool) : (faultWord f prv).toNat / 2 ^ 32 = f.data := by
  rw [faultWord, BitVec.toNat_ofNat]
  split_ifs <;> omega

theorem faultWord_code {f : FaultRec} (hc : f.code < 256) (prv : Bool) : (faultWord f prv).toNat % 256 = f.code := by
  rw [faultWord, BitVec.toNat_ofNat]
  split_ifs <;> omega

/-- A trap that finds its handler leaves the image of a trap entry at the handler's address (R396). -/
theorem State.takeTrap_vectored_img {f : FaultRec} {epc h : Word} (hc : s.ctx? cid = some c) (hk : c.core? = some core)
    (hs : s.RegsSound) (hv : s.vector core f.code = (s1, some h)) :
    ∃ x, (s.takeTrap cid core f epc).ctx? cid = some x ∧ x.img = { c.img.enter f epc with pc := h } := by
  obtain ⟨x, hx, -, himg⟩ := State.takeTrap_vectored_ctx (epc := epc) hc hk hs hv
  exact ⟨_, hx, by rw [Ctx.entered, himg]⟩

theorem Image.pp_enter (m : Image) (f : FaultRec) (epc : Word) : (m.enter f epc).pp = false := m.getLsbD_enter_status f epc 2

theorem Image.prv_enter (m : Image) (f : FaultRec) (epc : Word) : (m.enter f epc).prv = true := m.getLsbD_enter_status f epc 4

theorem State.RegsSound.commit (hs : s.RegsSound) (hc : s.ctx? cid = some c) (m : Image) : (s.commit cid m).RegsSound := by
  obtain ⟨cs, hcommit⟩ := State.commit_eq hc m
  rw [hcommit]
  exact hs

theorem execSys_ready (h : s.Ready cid c []) (n : BitVec 15) :
    execSys n s = .next ((s.commit cid (c.img.next 4)).takeTrap cid s.here (FaultRec.mk0 cSys n.toNat c.img.pc.toNat) (c.img.next 4).pc) :=
  runInstr_ready h (.inl rfl) _ _

theorem execBrk_ready (h : s.Ready cid c []) (n : BitVec 15) :
    execBrk n s = s.traps cid c (FaultRec.mk0 cBrk n.toNat c.img.pc.toNat) :=
  runInstr_ready h (.inl rfl) _ _

theorem toNat_callNumber_lt (n : BitVec 15) : n.toNat < 2 ^ 32 := Nat.lt_trans n.isLt (by decide)

/-- Settles O10: the trap finds in the committed context the image of the next instruction. -/
theorem systemCallTrapsAfterCommit : Obligations.SystemCallTrapsAfterCommit := by
  intro s cid c n h hk r m f
  have hpc : m.pc = r := a56_add_ofNat c.img.pc 4
  have hexec : exec (.sys n) s = .next ((s.commit cid m).takeTrap cid s.here f m.pc) := execSys_ready h n
  refine ⟨hexec, hpc, fun s1 handler hs hv => ?_⟩
  obtain ⟨hat, hpp, -⟩ := h
  have hc := State.at_ctx hat
  obtain ⟨x, hx, himg⟩ := State.takeTrap_vectored_img (f := f) (epc := m.pc) (State.commit_ctx hc m) hk (hs.commit hc m) hv
  rw [if_neg (by simp [hpp])] at himg
  refine ⟨_, x, hexec, hx, ?_⟩
  rw [himg]
  exact ⟨rfl, m.prv_enter f m.pc, m.pp_enter f m.pc, hpc, rfl, faultWord_data (toNat_callNumber_lt n) _,
    faultWord_code (f := f) (show cSys < 256 by decide) _, hpc⟩

/-- Settles O11: the trap finds the image as it was before `brk`. -/
theorem breakpointTrapsUncommitted : Obligations.BreakpointTrapsUncommitted := by
  intro s cid c n h hk f
  have hexec : exec (.brk n) s = .next (s.takeTrap cid s.here f c.img.pc) := execBrk_ready h n
  refine ⟨hexec, fun s1 handler hs hv => ?_⟩
  obtain ⟨hat, -⟩ := h
  obtain ⟨x, hx, himg⟩ := State.takeTrap_vectored_img (f := f) (epc := c.img.pc) (State.at_ctx hat) hk hs hv
  refine ⟨_, x, hexec, hx, ?_⟩
  rw [himg]
  exact ⟨rfl, c.img.prv_enter f c.img.pc, rfl, rfl, faultWord_data (toNat_callNumber_lt n) _,
    faultWord_code (f := f) (show cBrk < 256 by decide) _, rfl, rfl⟩

end Sys2Proof.Machine
end

section /-! PROOF. Ring entries complete, are held back, or stay (R141, R142, R404). -/
namespace Sys2Proof.Machine
open Sys2Proof

variable {s : State} {cid seq core : Nat} {c : Ctx} {older : List RingEntry} {e : RingEntry}

/-- A state comes from another by changes of its contexts. -/
def State.OnlyCtxs (s t : State) : Prop := t = { s with ctxs := t.ctxs }

theorem State.OnlyCtxs.trans {s t u : State} (h : s.OnlyCtxs t) (k : t.OnlyCtxs u) : s.OnlyCtxs u :=
  Eq.trans k (congrArg (fun x : State => { x with ctxs := u.ctxs }) h)

theorem State.OnlyCtxs.updCtx (s : State) (cid : Nat) (f : Ctx → Ctx) : s.OnlyCtxs (s.updCtx cid f) := by
  unfold State.updCtx
  split <;> rfl

/-- An entry that leaves a ring leaves the others in their order. -/
theorem filterMap_leaving (ring : List RingEntry) (seq : Nat) :
    (ring.filterMap fun x => if x.seq.toNat = seq then none else some x) = ring.filter fun x => x.seq.toNat != seq := by
  rw [← List.filterMap_eq_filter]
  refine congrArg (List.filterMap · ring) (funext fun x => ?_)
  by_cases h : x.seq.toNat = seq <;> simp [Option.guard, h]

/-- The image that a completion leaves, and the ring without its entry. -/
def State.finished (s : State) (cid seq : Nat) (m : Image) : State :=
  (s.updCtx cid fun x => { x with img := m }).setEntry cid seq none

theorem State.finished_ctx (hc : s.ctx? cid = some c) (seq : Nat) (m : Image) :
    (s.finished cid seq m).ctx? cid = some { c with img := m, ring := c.ring.filter fun x => x.seq.toNat != seq } := by
  rw [State.finished, State.setEntry, State.ctx?_updCtx, if_pos rfl, State.ctx?_updCtx, if_pos rfl, hc, ← filterMap_leaving]
  rfl

theorem State.finished_ctx_ne {j : Nat} (hj : j ≠ cid) (s : State) (seq : Nat) (m : Image) :
    (s.finished cid seq m).ctx? j = s.ctx? j := by
  rw [State.finished, State.setEntry, State.ctx?_updCtx, if_neg hj.symm, State.ctx?_updCtx, if_neg hj.symm]

theorem State.OnlyCtxs.finished (s : State) (cid seq : Nat) (m : Image) : s.OnlyCtxs (s.finished cid seq m) :=
  (State.OnlyCtxs.updCtx ..).trans (State.OnlyCtxs.updCtx ..)

section

variable (hc : s.ctx? cid = some c) (hk : c.core? = some core) (hsplit : splitRing c.ring seq = some (older, e))

include hc hk hsplit

/-- An entry that an older one holds back, or that stands behind one that has failed the check of its re-dispatch, stays (R141, R404). -/
theorem State.completeEntry_held (h : (older.any fun o => holdsBack o e) = true ∨ barred older = true) : s.completeEntry cid seq = s := by
  have hstays : ((older.any fun o => holdsBack o e) || barred older || (againFault e c.img).isSome || isCommand e.instr) = true := by
    rcases h with h | h <;> simp [h]
  simp only [State.completeEntry, hc, hk, hsplit]
  exact if_pos hstays

variable (hheld : (older.any fun o => holdsBack o e) = false) (hbar : barred older = false) (hagain : againFault e c.img = none)
  (hcmd : isCommand e.instr = false)

include hheld hbar hagain hcmd

/-- A vector entry leaves its effect (R142). -/
theorem State.completeEntry_vector (hmax : vmaxxW e.instr = none) (hmem : isVmem e = false) (hphase : e.phase = .waiting) :
    s.completeEntry cid seq = s.finished cid seq (vecEffect e c.img) := by
  simp [State.completeEntry, hc, hk, hsplit, hheld, hbar, hagain, hcmd, hmax, hmem, hphase, State.finished]

/-- A vector access whose checks pass makes its accesses (R157). -/
theorem State.completeEntry_access (hmax : vmaxxW e.instr = none) (hmem : isVmem e = true) (hphase : e.phase = .waiting) {t : State}
    {m : Image} (hrun : vmemRun s core e c.img = (t, .ok m)) : s.completeEntry cid seq = t.finished cid seq m := by
  simp [State.completeEntry, hc, hk, hsplit, hheld, hbar, hagain, hcmd, hmax, hmem, hphase, hrun, State.finished]

/-- A vector access that would fault stays (R157). -/
theorem State.completeEntry_fault (hmax : vmaxxW e.instr = none) (hmem : isVmem e = true) (hphase : e.phase = .waiting) {t : State}
    {f : FaultRec} (hrun : vmemRun s core e c.img = (t, .error f)) : s.completeEntry cid seq = s := by
  simp [State.completeEntry, hc, hk, hsplit, hheld, hbar, hagain, hcmd, hmax, hmem, hphase, hrun]

end

/-- Settles O24: the event is `State.completeEntry`, whose cases are the lemmas above. -/
theorem ringEntryCompletes : Obligations.RingEntryCompletes := by
  intro s cid seq core c older e hc hk hsplit hcmd
  refine ⟨fun h => ?_, fun hheld hbar hagain hmax hmem hphase => ⟨s.finished cid seq (vecEffect e c.img), ?_, ?_, fun j hj => ?_, ?_⟩,
    fun hheld hbar hagain hmax hmem hphase => ⟨fun t m hrun => ?_, fun t f hrun => ?_⟩⟩
  · exact congrArg Host.Outcome.next (State.completeEntry_held hc hk hsplit h)
  · exact congrArg Host.Outcome.next (State.completeEntry_vector hc hk hsplit hheld hbar hagain hcmd hmax hmem hphase)
  · exact State.finished_ctx hc seq _
  · exact State.finished_ctx_ne hj s seq _
  · exact State.OnlyCtxs.finished s cid seq _
  · exact congrArg Host.Outcome.next (State.completeEntry_access hc hk hsplit hheld hbar hagain hcmd hmax hmem hphase hrun)
  · exact congrArg Host.Outcome.next (State.completeEntry_fault hc hk hsplit hheld hbar hagain hcmd hmax hmem hphase hrun)

end Sys2Proof.Machine
end

section /-! PROOF. The maximum exchange (R154, R155, R404). -/
namespace Sys2Proof.Machine
open Sys2Proof

/-! The largest magnitude of some values (R154). -/

/-- The larger of a magnitude and the magnitude of a value. -/
def maxMagnitude (acc w : BitVec 32) : BitVec 32 :=
  if acc.toNat < (w &&& 0x7FFFFFFF#32).toNat then w &&& 0x7FFFFFFF#32 else acc

theorem maxMagnitude_cases (acc w : BitVec 32) :
    acc.toNat ≤ (maxMagnitude acc w).toNat ∧ (w &&& 0x7FFFFFFF#32).toNat ≤ (maxMagnitude acc w).toNat ∧
      (maxMagnitude acc w = acc ∨ maxMagnitude acc w = w &&& 0x7FFFFFFF#32) := by
  by_cases h : acc.toNat < (w &&& 0x7FFFFFFF#32).toNat
  · rw [maxMagnitude, if_pos h]
    exact ⟨h.le, Nat.le_refl _, .inr rfl⟩
  · rw [maxMagnitude, if_neg h]
    exact ⟨Nat.le_refl _, Nat.le_of_not_lt h, .inl rfl⟩

/-- A fold of magnitudes is at least as large as each of them, and is one of them or what it began with. -/
theorem foldl_maxMagnitude (ls : List (BitVec 32)) (acc : BitVec 32) :
    let r := ls.foldl maxMagnitude acc
    acc.toNat ≤ r.toNat ∧ (∀ w ∈ ls, (w &&& 0x7FFFFFFF#32).toNat ≤ r.toNat) ∧ (r = acc ∨ ∃ w ∈ ls, r = w &&& 0x7FFFFFFF#32) := by
  induction ls generalizing acc with
  | nil => simp
  | cons u rest ih =>
    obtain ⟨hacc, hall, hone⟩ := ih (maxMagnitude acc u)
    obtain ⟨hle, hmag, hpick⟩ := maxMagnitude_cases acc u
    refine ⟨hle.trans hacc, List.forall_mem_cons.2 ⟨hmag.trans hacc, hall⟩, ?_⟩
    rcases hone with hone | ⟨w, hw, hone⟩
    · rcases hpick with hpick | hpick
      · exact .inl (hone.trans hpick)
      · exact .inr ⟨u, List.mem_cons_self, hone.trans hpick⟩
    · exact .inr ⟨w, List.mem_cons_of_mem u hw, hone⟩

/-- A lane of an exchange: NaN, or the largest magnitude of the values there. -/
theorem lane_vmaxxOf (xs : List (BitVec 512)) {i : Nat} (hi : i < 16) :
    lane (vmaxxOf xs) i =
      if (xs.map fun v => lane v i).any isNan32 then qnan32 else (xs.map fun v => lane v i).foldl maxMagnitude 0 := by
  rw [vmaxxOf, lane_ofLanes _ hi]
  simp only [List.getD_eq_getElem?_getD, List.getElem?_map, List.getElem?_range hi, Option.map_some, Option.getD_some]
  rfl

theorem lane_vmaxxOf_nan {xs : List (BitVec 512)} {i : Nat} (hi : i < 16) (h : ∃ x ∈ xs, isNan32 (lane x i) = true) :
    lane (vmaxxOf xs) i = 0x7FC00000#32 := by
  rw [lane_vmaxxOf xs hi, if_pos (by simpa using h)]
  rfl

theorem lane_vmaxxOf_numbers {xs : List (BitVec 512)} {i : Nat} (hi : i < 16) (h : ∀ x ∈ xs, isNan32 (lane x i) = false) :
    (∀ x ∈ xs, (lane x i &&& 0x7FFFFFFF#32).toNat ≤ (lane (vmaxxOf xs) i).toNat) ∧
      (lane (vmaxxOf xs) i = 0#32 ∨ ∃ x ∈ xs, lane (vmaxxOf xs) i = lane x i &&& 0x7FFFFFFF#32) := by
  obtain ⟨-, hall, hone⟩ := foldl_maxMagnitude (xs.map fun v => lane v i) 0
  rw [lane_vmaxxOf xs hi, if_neg (by simpa using h)]
  exact ⟨fun x hx => hall _ (List.mem_map_of_mem hx), hone.imp_right fun ⟨w, hw, hr⟩ => by
    obtain ⟨x, hx, rfl⟩ := List.mem_map.1 hw
    exact ⟨x, hx, hr⟩⟩

/-! Contributions (R155). -/

theorem State.OnlyCtxs.now {s t : State} (h : s.OnlyCtxs t) : t.now = s.now := by
  rw [h]

/-- What a contribution does at its receiver: a participant other than the sender keeps the first of an exchange, with its time. -/
theorem State.deliver_gives (s : State) (src dst k w : Nat) (v : BitVec 512) :
    s.deliver src dst k w v =
      if dst ≠ src ∧ dst ∈ participants src w ∧ (s.core dst).contribution k src = none then
        s.setCore dst { s.core dst with contribs := (s.core dst).contribs ++ [⟨k, src, w, s.now, v⟩] }
      else s := by
  have hcond : (dst == src || !(participants src w).contains dst || ((s.core dst).contribution k src).isSome) = true ↔
      ¬ (dst ≠ src ∧ dst ∈ participants src w ∧ (s.core dst).contribution k src = none) := by
    simp only [Bool.or_eq_true, beq_iff_eq, Bool.not_eq_true', List.contains_eq_mem, decide_eq_false_iff_not, Option.isSome_iff_ne_none]
    tauto
  unfold State.deliver
  dsimp only
  simp only [hcond, ite_not]

/-- Where all values of an exchange are there, each other participant has contributed one of them, with the same w and in time. -/
theorem State.exchanged_some {s : State} {core k w t : Nat} {vs : List (BitVec 512)} (h : s.exchanged core k w t = some vs) {p : Nat}
    (hp : p ∈ participants core w) (hne : p ≠ core) :
    ∃ q, (s.core core).contribution k p = some q ∧ q.value ∈ vs ∧ q.w = w ∧ q.time ≤ t + 65536 := by
  have hmem : (s.core core).contribution k p ∈
      ((participants core w).filter (· != core)).map fun p => (s.core core).contribution k p :=
    List.mem_map_of_mem (List.mem_filter.2 ⟨hp, by simpa using hne⟩)
  unfold State.exchanged at h
  dsimp only at h
  split at h
  next hall =>
    have hgood := List.all_eq_true.1 hall _ hmem
    have hvs := Option.some.inj h
    subst hvs
    cases hq : (s.core core).contribution k p with
    | none => rw [hq] at hgood; exact absurd hgood (by simp)
    | some q =>
      rw [hq] at hgood hmem
      obtain ⟨hw, htime⟩ : q.w = w ∧ q.time ≤ t + 65536 := by simpa using hgood
      exact ⟨q, rfl, List.mem_map.2 ⟨some q, hmem, rfl⟩, hw, htime⟩
  next => exact absurd h (by simp)

section

variable {s : State} {cid seq core : Nat} {c : Ctx} {older : List RingEntry} {e : RingEntry} {d a : Reg} {w : BitVec 3} {v : BitVec 512}

/-- The dispatch of an exchange with its core's number (R155). -/
theorem execVmaxx_dispatched (h : s.Ready cid c []) (hr : s.Room c [d, a]) :
    let k := (s.core s.here).xchg
    let e0 := mkEntry s c (.vmaxx d a w) k.toNat
    let t := (s.pushRing cid (if sourceHeld c.ring a then e0 else { e0 with phase := .exchanging (c.img.getV a) })).count s.here c.img.prv 3 1
    execVmaxx d a w s = (t.setCore s.here { t.core s.here with xchg := k + 1 }).goes cid (c.img.next 8) := by
  obtain ⟨hroom, hheld⟩ := hr
  rw [execVmaxx, runInstr_ready h (.inl rfl)]
  simp [hheld, Nat.not_le.2 hroom, Eff.state, State.goes]

/-- An exchange whose values are all there completes with the largest magnitudes, and sends what is left (R154, R155). -/
theorem State.completeEntry_exchange (hc : s.ctx? cid = some c) (hk : c.core? = some core)
    (hsplit : splitRing c.ring seq = some (older, e)) (hinstr : e.instr = .vmaxx d a w) (hphase : e.phase = .exchanging v)
    (hheld : (older.any fun o => holdsBack o e) = false) (hbar : barred older = false) (hagain : againFault e c.img = none)
    (hw : (s.core core).mismatch e.k w.toNat = false) {vs : List (BitVec 512)} (hvs : s.exchanged core e.k w.toNat e.at_ = some vs) :
    s.completeEntry cid seq = (s.sendRest core c.img older e).finished cid seq (c.img.setV d (vmaxxOf (v :: vs))) := by
  have hmax : vmaxxW e.instr = some w.toNat := by rw [hinstr, vmaxxW]
  have hcmd : isCommand e.instr = false := by rw [hinstr]; rfl
  have hwrites : vWrites e.instr = some d := by rw [hinstr]; rfl
  simp [State.completeEntry, hc, hk, hsplit, hheld, hbar, hagain, hcmd, hmax, hphase, hw, hvs, hwrites, State.finished]

/-- An entry that has read its source, or can read it, sends it to every participant (R155). -/
theorem State.sendRest_sends (hinstr : e.instr = .vmaxx d a w)
    (hv : e.phase = .exchanging v ∨ e.phase = .waiting ∧ sourceHeld older a = false ∧ v = c.img.getV a) :
    s.sendRest core c.img older e = (participants core w.toNat).foldl (fun (t : State) p => t.deliver core p e.k w.toNat v) s := by
  have hvalue : exchangeValue c.img older e = some v := by
    rcases hv with hphase | ⟨hphase, hsrc, rfl⟩
    · simp [exchangeValue, hinstr, hphase]
    · simp [exchangeValue, hinstr, hphase, hsrc]
  simp [State.sendRest, hinstr, vmaxxW, hvalue]

/-- When an exchange is late (R155). -/
theorem State.exchangeLate_iff (hinstr : e.instr = .vmaxx d a w) :
    s.exchangeLate core e = true ↔
      e.at_ + 65536 ≤ s.now ∧ s.exchanged core e.k w.toNat e.at_ = none ∧ ∀ f, e.phase ≠ .faulted f := by
  simp only [State.exchangeLate, hinstr, vmaxxW]
  cases e.phase <;> simp

/-- The event of the limit is the late fault of an entry that is late (R155). -/
theorem State.exchangeExpire_eq (hc : s.ctx? cid = some c) (hk : c.core? = some core) (hsplit : splitRing c.ring seq = some (older, e)) :
    s.exchangeExpire cid seq = s.failLate core cid c.img older e := by
  simp [State.exchangeExpire, hc, hk, hsplit]

/-- Where no exchange of the number is on the sender's core, nothing is sent. -/
theorem State.contribute_none {src k : Nat} (dst : Nat) (hx : s.exchangeOn src k = none) : s.contribute src dst k = s := by
  simp only [State.contribute, hx]

/-- The contribution of an entry that has read its source (R155). -/
theorem State.contribute_read {src dst k : Nat} (hx : s.exchangeOn src k = some (cid, c, older, e)) (hinstr : e.instr = .vmaxx d a w)
    (hphase : e.phase = .exchanging v) : s.contribute src dst k = s.deliver src dst k w.toNat v := by
  simp [State.contribute, hx, hinstr, hphase]

/-- An entry that waits reads its source once nothing older holds it back (R155). -/
theorem State.contribute_reads {src dst k : Nat} (hx : s.exchangeOn src k = some (cid, c, older, e)) (hinstr : e.instr = .vmaxx d a w)
    (hphase : e.phase = .waiting) (hfree : ¬ ((older.any fun o => holdsBack o e) = true ∨ barred older = true)) :
    s.contribute src dst k =
      (s.setEntry cid e.seq.toNat (some { e with phase := .exchanging (c.img.getV a) })).deliver src dst k w.toNat (c.img.getV a) := by
  obtain ⟨hheld, hbar⟩ := not_or.1 hfree
  simp [State.contribute, hx, hinstr, hphase, hheld, hbar]

/-- Until then it waits on. -/
theorem State.contribute_held {src dst k : Nat} (hx : s.exchangeOn src k = some (cid, c, older, e)) (hinstr : e.instr = .vmaxx d a w)
    (hphase : e.phase = .waiting) (hheld : (older.any fun o => holdsBack o e) = true ∨ barred older = true) :
    s.contribute src dst k = s := by
  have hstays : ((older.any fun o => holdsBack o e) || barred older) = true := by simpa using hheld
  simp only [State.contribute, hx, hinstr, hphase]
  exact if_pos hstays

end

/-- Settles O36: a lemma above for each event of an exchange, and `lane_vmaxxOf` for what it writes. -/
theorem maximumExchange : Obligations.MaximumExchange := by
  refine ⟨fun s cid c d a w h hr => execVmaxx_dispatched h hr,
    fun s src dst k => ⟨fun hnone => ?_, fun cid c older e d a w hx hinstr => ?_⟩,
    fun s cid seq core c older e d a w v vs hc hk hsplit hinstr hphase hheld hbar hagain hw hvs =>
      ⟨fun p hp hne => State.exchanged_some hvs hp hne, vmaxxOf (v :: vs), ?_, fun i hi => ⟨lane_vmaxxOf_nan hi, lane_vmaxxOf_numbers hi⟩⟩,
    fun s cid seq core c older e d a w hc hk hsplit hinstr => ?_⟩
  · exact congrArg Host.Outcome.next (State.contribute_none dst hnone)
  · intro held gives
    have hgives : ∀ u v, u.now = s.now → s.contribute src dst k = u.deliver src dst k w.toNat v → gives u v := by
      intro u v hnow hu
      rw [State.deliver_gives, hnow] at hu
      exact congrArg Host.Outcome.next hu
    refine ⟨fun v hphase => ?_, fun hphase hfree => ?_, fun hphase hheld => ?_⟩
    · exact hgives s v rfl (State.contribute_read hx hinstr hphase)
    · exact hgives _ _ (State.OnlyCtxs.now (State.OnlyCtxs.updCtx ..)) (State.contribute_reads hx hinstr hphase hfree)
    · exact congrArg Host.Outcome.next (State.contribute_held hx hinstr hphase hheld)
  · exact congrArg Host.Outcome.next
      (State.completeEntry_exchange hc hk hsplit hinstr hphase hheld hbar hagain hw hvs)
  · have hexec : exec (.exchangeTimeout cid seq) s = .next (s.failLate core cid c.img older e) :=
      congrArg Host.Outcome.next (State.exchangeExpire_eq hc hk hsplit)
    have hlate := State.exchangeLate_iff (s := s) (core := core) hinstr
    refine ⟨fun h => ?_, fun h => ?_, fun v hv => State.sendRest_sends hinstr hv⟩
    · exact hexec.trans (congrArg Host.Outcome.next (if_pos (hlate.2 h)))
    · exact hexec.trans (congrArg Host.Outcome.next (if_neg fun hl => h (hlate.1 hl)))

end Sys2Proof.Machine
end

section /-! PROOF. Vector instructions that work lane by lane: arithmetic, comparisons and mask logic (R142, R144 to R147). -/
namespace Sys2Proof.Machine
open Sys2Proof

section

variable {s : State} {cid len : Nat} {c : Ctx} {i : Instr} {d : Reg} {k : Mask} {xs vs : List Reg}

/-- A vector instruction that is free to execute, and whose registers are among those that are free and held, is dispatched. -/
theorem exec_dispatched (h : s.Ready cid c xs) (hr : s.Room c vs) (he : exec i s = runRing noPrefix len i s) (hx : ringRegs i ⊆ xs)
    (hv : vFields i ⊆ vs) : exec i s = s.dispatched cid c i len := by
  obtain ⟨hroom, hheld⟩ := hr.subset hv
  exact he.trans (runRing_ready (h.subset hx) noPrefix len hheld hroom)

/-- Its lanes, where it writes bits. -/
theorem exec_bitsWise {f : Nat → BitVec 32} (h : s.Ready cid c xs) (hr : s.Room c vs) (he : exec i s = runRing noPrefix len i s)
    (hx : ringRegs i ⊆ xs) (hv : vFields i ⊆ vs) (hf : vecEffect (mkEntry s c i 0) c.img = vecBits c.img k d f) :
    exec i s = s.dispatched cid c i len ∧ BitsWise c.img (vecEffect (mkEntry s c i 0) c.img) k d f := by
  refine ⟨exec_dispatched h hr he hx hv, ?_⟩
  rw [hf]
  exact (vecWrite_laneWise c.img k d fun j => (f j, fNone)).bitsWise

/-- A rounding instruction is dispatched, and writes its lanes rounded once. -/
theorem exec_laneWise_rounded {f : Nat → FV × FFlags} (h : s.At cid c) (hp : pfxCheck c.img rmOnly = none) (hr : s.Room c vs)
    (he : exec i s = runRing rmOnly len i s) (hx : ringRegs i = []) (hv : vFields i ⊆ vs)
    (hf : vecEffect (mkEntry s c i 0) c.img = vecWrite c.img k d fun j => rounded (rmUnder c.img.rm c.img.pending?) (f j)) :
    exec i s = s.dispatched cid c i len ∧
      LaneWise c.img (vecEffect (mkEntry s c i 0) c.img) k d fun j => rounded (rmUnder c.img.rm c.img.pending?) (f j) := by
  refine ⟨he.trans (runRing_dispatched h hp (hx ▸ interlocked_nil _) (hr.subset hv) len), ?_⟩
  rw [hf]
  exact vecWrite_laneWise c.img k d _

end

/-- Settles O18: each instruction writes its lanes through `rounded`. The rounding is known by its equation, so that no check evaluates
it. -/
theorem vectorFloatResults : Obligations.VectorFloatResults := by
  intro s cid c d a b e w k hat hpfx hroom m rm x y once gives
  have honce : once = rounded rm := rfl
  have hgives : ∀ i len f, gives i len f =
      (exec i s = s.dispatched cid c i len ∧ LaneWise m (vecEffect (mkEntry s c i 0) m) k d fun j => once (f j)) := fun _ _ _ => rfl
  clear_value gives once
  subst honce
  have hdab : [d, a, b] ⊆ [d, a, b, e] := by simp
  have hda : [d, a] ⊆ [d, a, b, e] := by simp
  have hdabe : [d, a, b, e] ⊆ [d, a, b, e] := List.Subset.refl _
  simp only [hgives]
  exact ⟨exec_laneWise_rounded hat hpfx hroom (exec_vaddF32 ..) rfl hdab rfl,
    exec_laneWise_rounded hat hpfx hroom (exec_vsubF32 ..) rfl hdab rfl,
    exec_laneWise_rounded hat hpfx hroom (exec_vmulF32 ..) rfl hdab rfl,
    exec_laneWise_rounded hat hpfx hroom (exec_vdiv ..) rfl hdab rfl,
    exec_laneWise_rounded hat hpfx hroom (exec_vsqrt ..) rfl hda rfl,
    exec_laneWise_rounded hat hpfx hroom (exec_vrsqrt ..) rfl hda rfl,
    exec_laneWise_rounded hat hpfx hroom (exec_vexp2 ..) rfl hda rfl,
    exec_laneWise_rounded hat hpfx hroom (exec_vfma ..) rfl hdabe rfl,
    exec_laneWise_rounded hat hpfx hroom (exec_vfms ..) rfl hdabe rfl,
    exec_laneWise_rounded hat hpfx hroom (exec_vfnma ..) rfl hdabe rfl,
    exec_laneWise_rounded hat hpfx hroom (exec_vaddF32Lit ..) rfl hda rfl,
    exec_laneWise_rounded hat hpfx hroom (exec_vsubF32Lit ..) rfl hda rfl,
    exec_laneWise_rounded hat hpfx hroom (exec_vmulF32Lit ..) rfl hda rfl,
    exec_laneWise_rounded hat hpfx hroom (exec_vdivLit ..) rfl hda rfl⟩

/-- Saturation by the range of the type (R145). -/
theorem vsat_eq (n : Bool) (v : Int) :
    vsat n v = BitVec.ofInt 32 (if n then max 0 (min (2 ^ 32 - 1) v) else max (-2 ^ 31) (min (2 ^ 31 - 1) v)) := by
  cases n <;> rfl

/-- The sign bit of a lane says whether its value is below 0 (R144). -/
theorem ite_sign_bit (w u v : BitVec 32) : (if w.getLsbD 31 then u else v) = if w.toInt < 0 then u else v := by
  have hsign : w.getLsbD 31 = true ↔ w.toInt < 0 := by
    rw [← BitVec.msb_eq_getLsbD_last w, BitVec.msb_eq_toInt, decide_eq_true_iff]
  simp only [hsign]

/-- Settles O19: each instruction writes its lanes by `vecBits`, with a register or a literal as b. -/
theorem vectorIntegerResults : Obligations.VectorIntegerResults := by
  intro s cid c n d a b w k h hroom m x y num sat one two
  have hda : [d, a] ⊆ [d, a, b] := by simp
  have hdab : [d, a, b] ⊆ [d, a, b] := List.Subset.refl _
  have hnil : ([] : List Reg) ⊆ [] := List.Subset.refl _
  have hone : ∀ {i f}, exec i s = runRing noPrefix 8 i s → ringRegs i = [] → vFields i = [d, a] →
      vecEffect (mkEntry s c i 0) m = (vecBits m k d fun j => f (x j)) → one i f := fun he hx hv hf =>
    exec_bitsWise h hroom he (hx ▸ hnil) (hv ▸ hda) hf
  have htwo : ∀ {i l f}, exec i s = runRing noPrefix 8 i s → exec l s = runRing noPrefix 12 l s → ringRegs i = [] → ringRegs l = [] →
      vFields i = [d, a, b] → vFields l = [d, a] → vecEffect (mkEntry s c i 0) m = vbits2 m k d a (.reg b) f →
      vecEffect (mkEntry s c l 0) m = vbits2 m k d a (.lit w) f → two i l f := fun hi hl hxi hxl hvi hvl hfi hfl => by
    obtain ⟨hrun, hbits⟩ := exec_bitsWise h hroom hi (hxi ▸ hnil) (hvi ▸ hdab) hfi
    exact ⟨hrun, hbits, exec_bitsWise h hroom hl (hxl ▸ hnil) (hvl ▸ hda) hfl⟩
  have hsat : ∀ v, sat v = vsat n v := fun v => (vsat_eq n v).symm
  have habs : (fun p : BitVec 32 => if p.toInt < 0 then -p else p) = fun p => if p.getLsbD 31 then -p else p :=
    funext fun p => (ite_sign_bit p (-p) p).symm
  clear_value one two sat
  simp only [hsat, habs]
  exact ⟨htwo (exec_vaddInt ..) (exec_vaddIntLit ..) rfl rfl rfl rfl rfl rfl,
    htwo (exec_vsubInt ..) (exec_vsubIntLit ..) rfl rfl rfl rfl rfl rfl,
    htwo (exec_vmulInt ..) (exec_vmulIntLit ..) rfl rfl rfl rfl rfl rfl,
    htwo (exec_vmulh ..) (exec_vmulhLit ..) rfl rfl rfl rfl rfl rfl,
    htwo (exec_vand ..) (exec_vandLit ..) rfl rfl rfl rfl rfl rfl,
    htwo (exec_vor ..) (exec_vorLit ..) rfl rfl rfl rfl rfl rfl,
    htwo (exec_vxor ..) (exec_vxorLit ..) rfl rfl rfl rfl rfl rfl,
    htwo (exec_vandn ..) (exec_vandnLit ..) rfl rfl rfl rfl rfl rfl,
    htwo (exec_vsll ..) (exec_vsllLit ..) rfl rfl rfl rfl rfl rfl,
    htwo (exec_vsrl ..) (exec_vsrlLit ..) rfl rfl rfl rfl rfl rfl,
    htwo (exec_vsra ..) (exec_vsraLit ..) rfl rfl rfl rfl rfl rfl,
    htwo (exec_vminInt ..) (exec_vminIntLit ..) rfl rfl rfl rfl rfl rfl,
    htwo (exec_vmaxInt ..) (exec_vmaxIntLit ..) rfl rfl rfl rfl rfl rfl,
    htwo (exec_vadds ..) (exec_vaddsLit ..) rfl rfl rfl rfl rfl rfl,
    htwo (exec_vsubs ..) (exec_vsubsLit ..) rfl rfl rfl rfl rfl rfl,
    htwo (exec_vminF32 ..) (exec_vminF32Lit ..) rfl rfl rfl rfl rfl rfl,
    htwo (exec_vmaxF32 ..) (exec_vmaxF32Lit ..) rfl rfl rfl rfl rfl rfl,
    hone (exec_vabsI32 ..) rfl rfl rfl,
    hone (exec_vabsF32 ..) rfl rfl rfl,
    hone (exec_vneg ..) rfl rfl rfl⟩

/-- 1 or 0 in a lane. -/
theorem bit0_eq (p : Bool) : bit0 p = (BitVec.ofBool p).setWidth 32 := by
  cases p <;> rfl

/-- What mask logic writes is one bit (R146). -/
theorem and_one_eq (w : BitVec 32) : w &&& 1 = (BitVec.ofBool (w.getLsbD 0)).setWidth 32 := by
  ext j hj
  cases j with
  | zero => simp
  | succ j => simp [BitVec.getElem_setWidth]

/-- The first index below n at which a condition holds; n where there is none. -/
theorem find?_range_getD (p : Nat → Bool) (n : Nat) :
    let i := ((List.range n).find? p).getD n
    i ≤ n ∧ (∀ j, j < i → p j = false) ∧ (i < n → p i = true) := by
  dsimp only
  cases h : (List.range n).find? p with
  | none => exact ⟨Nat.le_refl n, fun j hj => by simpa using List.find?_eq_none.1 h j (List.mem_range.2 hj), fun hn => absurd hn (lt_irrefl n)⟩
  | some i =>
    obtain ⟨hi, hmem, hbelow⟩ := List.find?_range_eq_some.1 h
    exact ⟨(List.mem_range.1 hmem).le, fun j hj => by simpa using hbelow j hj, fun _ => hi⟩

/-- Settles O20: comparisons and mask logic write one bit a lane; `vfirst` finds the first lane that hits. -/
theorem vectorCompareAndMaskResults : Obligations.VectorCompareAndMaskResults := by
  intro s cid c d a b k h hroom m x y hit bits xreg bit
  have hdab : [d, a, b] ⊆ [d, a, b] := List.Subset.refl _
  have hda : [d, a] ⊆ [d, a, b] := by simp
  have ha : [a] ⊆ [d, a, b] := by simp
  have hd : [d] ⊆ [d] := List.Subset.refl _
  have hnil : ([] : List Reg) ⊆ [d] := List.nil_subset _
  have hbit : bit = bit0 := funext fun p => (bit0_eq p).symm
  have hlogic : ∀ w : BitVec 32, w &&& 1 = bit (w.getLsbD 0) := and_one_eq
  clear_value bit
  subst hbit
  refine ⟨fun cc => ⟨exec_dispatched h hroom (exec_vcmpF32 ..) hnil hdab, vecWrite_laneWise m k d _⟩,
    fun cc => exec_bitsWise h hroom (exec_vcmpI32 ..) hnil hdab rfl, exec_bitsWise h hroom (exec_vsel ..) hnil hdab rfl,
    exec_bitsWise h hroom (exec_vmand ..) hnil hdab (congrArg (vecBits m k d) (funext fun j => ?and)),
    exec_bitsWise h hroom (exec_vmor ..) hnil hdab (congrArg (vecBits m k d) (funext fun j => ?or)),
    exec_bitsWise h hroom (exec_vmxor ..) hnil hdab (congrArg (vecBits m k d) (funext fun j => ?xor)),
    exec_bitsWise h hroom (exec_vmnot ..) hnil hda (congrArg (vecBits m k d) (funext fun j => ?not)),
    ⟨exec_dispatched h hroom (exec_vmcnt ..) hd ha, rfl⟩,
    ((List.range 16).find? hit).getD 16, ⟨exec_dispatched h hroom (exec_vfirst ..) hd ha, rfl⟩, find?_range_getD hit 16⟩
  case and => exact (hlogic _).trans (congrArg bit0 (BitVec.getLsbD_and ..))
  case or => exact (hlogic _).trans (congrArg bit0 (BitVec.getLsbD_or ..))
  case xor => exact (hlogic _).trans (congrArg bit0 (BitVec.getLsbD_xor ..))
  case not => exact (hlogic _).trans (congrArg bit0 (BitVec.getLsbD_not ..))

end Sys2Proof.Machine
end

section /-! PROOF. What lanes store as runs of bytes in rising order, the highest lane winning a byte (R158). -/
namespace Sys2Proof

/-- The keys of a table rise. -/
def Tab.Rising {α : Type} (t : Tab α) : Prop := t.Pairwise fun p q => p.1 < q.1

theorem Tab.key_set {α : Type} {t : Tab α} {k : Nat} {v : α} {q : Nat × α} (h : q ∈ t.set k v) : q.1 = k ∨ q ∈ t := by
  induction t with
  | nil => exact .inl (congrArg Prod.fst (List.mem_singleton.1 h))
  | cons p rest ih =>
    rw [Tab.set] at h
    split_ifs at h with heq hlt
    · exact (List.mem_cons.1 h).imp (congrArg Prod.fst) (List.mem_cons_of_mem p)
    · exact (List.mem_cons.1 h).imp_left (congrArg Prod.fst)
    · rcases List.mem_cons.1 h with rfl | h
      · exact .inr List.mem_cons_self
      · exact (ih h).imp_right (List.mem_cons_of_mem p)

theorem Tab.Rising.set {α : Type} {t : Tab α} (h : t.Rising) (k : Nat) (v : α) : (t.set k v).Rising := by
  induction t with
  | nil => exact List.pairwise_singleton _ _
  | cons p rest ih =>
    obtain ⟨hhead, hrest⟩ := List.pairwise_cons.1 h
    rw [Tab.set]
    split_ifs with heq hlt
    · exact List.pairwise_cons.2 ⟨fun q hq => heq ▸ hhead q hq, hrest⟩
    · exact List.pairwise_cons.2 ⟨List.forall_mem_cons.2 ⟨hlt, fun q hq => hlt.trans (hhead q hq)⟩, h⟩
    · refine List.pairwise_cons.2 ⟨fun q hq => ?_, ih hrest⟩
      rcases Tab.key_set hq with hk | hq
      · have hne : p.1 ≠ k := heq
        have hle : ¬ k < p.1 := hlt
        omega
      · exact hhead q hq

/-- An entry of a table with rising keys is what is found at its key. -/
theorem Tab.Rising.get?_iff {α : Type} {t : Tab α} (h : t.Rising) (k : Nat) (v : α) : t.get? k = some v ↔ (k, v) ∈ t := by
  induction t with
  | nil => simp [Tab.get?]
  | cons p rest ih =>
    obtain ⟨hhead, hrest⟩ := List.pairwise_cons.1 h
    rw [Tab.get?, List.mem_cons]
    by_cases hk : p.1 = k
    · subst hk
      have hnot : (p.1, v) ∉ rest := fun hmem => absurd (hhead _ hmem) (lt_irrefl _)
      rw [if_pos rfl, Option.some.injEq]
      exact ⟨fun hv => .inl (Prod.ext rfl hv.symm), fun hv => (congrArg Prod.snd (hv.resolve_right hnot)).symm⟩
    · rw [if_neg hk, ih hrest]
      exact ⟨.inr, fun hv => hv.resolve_left fun he => hk (congrArg Prod.fst he).symm⟩

end Sys2Proof

namespace Sys2Proof.Machine
open Sys2Proof

/-- Bytes put into a table one after the other. -/
def byteTab (cells : List (Nat × Byte)) : Tab Byte := cells.foldl (fun (t : Tab Byte) q => t.set q.1 q.2) []

theorem byteTab_concat (cells : List (Nat × Byte)) (q : Nat × Byte) : byteTab (cells ++ [q]) = (byteTab cells).set q.1 q.2 := by
  rw [byteTab, List.foldl_concat, ← byteTab]

theorem byteTab_rising (cells : List (Nat × Byte)) : (byteTab cells).Rising := by
  induction cells using List.reverseRecOn with
  | nil => exact List.Pairwise.nil
  | append_singleton cells q ih => rw [byteTab_concat]; exact ih.set q.1 q.2

/-- The last byte that was put at an address is the one that is there. -/
theorem byteTab_get? (cells : List (Nat × Byte)) (p : Nat) :
    (byteTab cells).get? p = (cells.reverse.find? fun q => q.1 == p).map Prod.snd := by
  induction cells using List.reverseRecOn with
  | nil => rfl
  | append_singleton cells q ih =>
    rw [byteTab_concat, List.reverse_concat, List.find?_cons]
    by_cases hq : q.1 = p
    · subst hq; simp
    · rw [Tab.get?_set_ne _ _ hq, ih, beq_false_of_ne hq]

/-- A byte before some runs: it begins the first of them, or a run of its own where that one begins a line or does not follow (R158). -/
def joinRun (q : Nat × Byte) (rs : List (Nat × List Byte)) : List (Nat × List Byte) :=
  match rs with
  | (a, bs) :: rest => if q.1 + 1 = a && a % 128 != 0 then (q.1, q.2 :: bs) :: rest else (q.1, [q.2]) :: rs
  | [] => [(q.1, [q.2])]

/-- The byte of some runs at an address is b. -/
def RunByte (rs : List (Nat × List Byte)) (p : Nat) (b : Byte) : Prop := ∃ w ∈ rs, w.1 ≤ p ∧ w.2[p - w.1]? = some b

/-- Runs in rising order that do not overlap, none empty and none across a line. -/
def RunsInLines (rs : List (Nat × List Byte)) : Prop :=
  (∀ w ∈ rs, w.2 ≠ [] ∧ w.1 % 128 + w.2.length ≤ 128) ∧ rs.Pairwise fun v w => v.1 + v.2.length ≤ w.1

theorem runByte_cons {w : Nat × List Byte} {rs : List (Nat × List Byte)} {p : Nat} {b : Byte} :
    RunByte (w :: rs) p b ↔ (w.1 ≤ p ∧ w.2[p - w.1]? = some b) ∨ RunByte rs p b := by
  simp [RunByte]

/-- A byte alone. -/
theorem single_byte {q : Nat × Byte} {p : Nat} {b : Byte} : (q.1 ≤ p ∧ [q.2][p - q.1]? = some b) ↔ (p, b) = q := by
  constructor
  · rintro ⟨hle, hb⟩
    obtain ⟨hlt, hb⟩ := List.getElem?_eq_some_iff.1 hb
    have hp : p = q.1 := by simp at hlt; omega
    subst hp
    exact Prod.ext rfl (by simpa using hb.symm)
  · rintro rfl
    simp

/-- A byte before a run that begins at the next address. -/
theorem joined_byte {q : Nat × Byte} {bs : List Byte} {p : Nat} {b : Byte} :
    (q.1 ≤ p ∧ (q.2 :: bs)[p - q.1]? = some b) ↔ (p, b) = q ∨ (q.1 + 1 ≤ p ∧ bs[p - (q.1 + 1)]? = some b) := by
  by_cases hp : q.1 + 1 ≤ p
  · have hsub : p - q.1 = p - (q.1 + 1) + 1 := by omega
    have hne : (p, b) ≠ q := fun h => by rw [← h] at hp; exact absurd hp (by simp)
    rw [hsub, List.getElem?_cons_succ]
    simp [hp, hne, (show q.1 ≤ p by omega)]
  · by_cases he : p = q.1
    · subst he
      simp [Prod.ext_iff, eq_comm]
    · have hne : (p, b) ≠ q := fun h => he (congrArg Prod.fst h)
      simp [hp, hne, (show ¬ q.1 ≤ p by omega)]

/-- The bytes of the runs of a table are its entries. -/
theorem runByte_joinRun (q : Nat × Byte) (rs : List (Nat × List Byte)) (p : Nat) (b : Byte) :
    RunByte (joinRun q rs) p b ↔ (p, b) = q ∨ RunByte rs p b := by
  match rs with
  | [] => rw [joinRun, runByte_cons, single_byte]
  | (a, bs) :: rest =>
    by_cases h : (q.1 + 1 = a && a % 128 != 0) = true
    · have ha : q.1 + 1 = a := by simp at h; exact h.1
      rw [joinRun, if_pos h, runByte_cons, runByte_cons, joined_byte, ha, or_assoc]
    · rw [joinRun, if_neg h, runByte_cons, single_byte]

theorem RunsInLines.joinRun {q : Nat × Byte} {rs : List (Nat × List Byte)} (h : RunsInLines rs) (hq : ∀ w ∈ rs, q.1 < w.1) :
    RunsInLines (joinRun q rs) := by
  obtain ⟨hline, hpair⟩ := h
  have halone : RunsInLines ((q.1, [q.2]) :: rs) := by
    refine ⟨List.forall_mem_cons.2 ⟨⟨by simp, ?_⟩, hline⟩, List.pairwise_cons.2 ⟨fun w hw => hq w hw, hpair⟩⟩
    simp only [List.length_singleton]
    omega
  match rs with
  | [] => exact halone
  | (a, bs) :: rest =>
    by_cases hjoin : (q.1 + 1 = a && a % 128 != 0) = true
    · obtain ⟨ha, hmod⟩ : q.1 + 1 = a ∧ a % 128 ≠ 0 := by simpa using hjoin
      obtain ⟨⟨-, hlen⟩, hrest⟩ := List.forall_mem_cons.1 hline
      obtain ⟨hbefore, hpair⟩ := List.pairwise_cons.1 hpair
      dsimp only at hlen hbefore
      rw [Machine.joinRun, if_pos hjoin]
      refine ⟨List.forall_mem_cons.2 ⟨⟨by simp, ?_⟩, hrest⟩, List.pairwise_cons.2 ⟨fun w hw => ?_, hpair⟩⟩
      · simp only [List.length_cons]
        omega
      · have := hbefore w hw
        simp only [List.length_cons]
        omega
    · rw [Machine.joinRun, if_neg hjoin]
      exact halone

/-- A run begins with one of its bytes. -/
theorem RunsInLines.runByte_start {rs : List (Nat × List Byte)} (h : RunsInLines rs) {w : Nat × List Byte} (hw : w ∈ rs) :
    ∃ b, RunByte rs w.1 b := by
  obtain ⟨hne, -⟩ := h.1 w hw
  obtain ⟨b, bs, hbs⟩ := List.exists_cons_of_ne_nil hne
  exact ⟨b, w, hw, Nat.le_refl _, by simp [hbs]⟩

/-- The runs of a table with rising keys. -/
theorem foldr_joinRun {t : Tab Byte} (ht : t.Rising) :
    RunsInLines (t.foldr joinRun []) ∧ ∀ p b, RunByte (t.foldr joinRun []) p b ↔ (p, b) ∈ t := by
  induction t with
  | nil => exact ⟨⟨by simp, List.Pairwise.nil⟩, by simp [RunByte]⟩
  | cons q rest ih =>
    obtain ⟨hhead, hrest⟩ := List.pairwise_cons.1 ht
    obtain ⟨hruns, hbytes⟩ := ih hrest
    refine ⟨hruns.joinRun fun w hw => ?_, fun p b => ?_⟩
    · obtain ⟨b, hb⟩ := hruns.runByte_start hw
      exact hhead _ ((hbytes w.1 b).1 hb)
    · rw [List.foldr_cons, runByte_joinRun, hbytes, List.mem_cons]

/-- The bytes of some stores by their addresses, in order. -/
def storeCells (ws : List (Nat × List Byte)) : List (Nat × Byte) := ws.flatMap fun w => w.2.zipIdx.map fun b => (w.1 + b.2, b.1)

theorem laneRuns_eq (ws : List (Nat × List Byte)) : laneRuns ws = (byteTab (storeCells ws)).foldr joinRun [] := by
  have htab : ws.foldl (fun (t : Tab Byte) w => w.2.zipIdx.foldl (fun (t : Tab Byte) b => t.set (w.1 + b.2) b.1) t) [] =
      byteTab (storeCells ws) := by
    simp only [byteTab, storeCells, List.foldl_flatMap, List.foldl_map]
  rw [laneRuns, htab]
  rfl

theorem laneRuns_inLines (ws : List (Nat × List Byte)) : RunsInLines (laneRuns ws) := by
  rw [laneRuns_eq]
  exact (foldr_joinRun (byteTab_rising _)).1

/-- The runs hold at each address the byte that was stored there last (R158). -/
theorem runByte_laneRuns (ws : List (Nat × List Byte)) (p : Nat) (b : Byte) :
    RunByte (laneRuns ws) p b ↔ ((storeCells ws).reverse.find? fun q => q.1 == p).map Prod.snd = some b := by
  rw [laneRuns_eq, (foldr_joinRun (byteTab_rising _)).2, ← (byteTab_rising _).get?_iff, byteTab_get?]

end Sys2Proof.Machine
end

section /-! PROOF. Vector loads and stores (R156 to R158, R166, R181). -/
namespace Sys2Proof.Machine
open Sys2Proof

/-- The active lanes under a mask, in rising order. -/
def activeList (m : Image) (k : Mask) : List Nat := (List.range 16).filter (activeLane m k)

/-- A vector access of data register d under mask k, whose lanes are at some offsets of a segment (R156). -/
def RingEntry.Accesses (e : RingEntry) (m : Image) (d : Reg) (store : Bool) (k : Mask) (g : Desc) (off : Nat → Int) : Prop :=
  vmemReg e.instr = some (d, store) ∧ vMask e.instr = k ∧ e.sa = g ∧ ∀ j, laneOffset e m j = off j

section

variable {s : State} {core : Nat} {g : Desc} {off : Int}

/-- The checks of a vector lane on a segment of the two kinds that it accepts are those of a scalar access. -/
theorem segCheck_kindsAll (hk : g.kind = kGlobal ∨ g.kind = kCluster) (service : Bool) (off : Int) (n align : Nat) (needR needW wr : Bool) :
    segCheck g kindsAll service off n align needR needW wr = segCheck g [kGlobal, kCluster] service off n align needR needW wr := by
  have hall : kindsAll.contains g.kind = true := by rcases hk with h | h <;> rw [h] <;> rfl
  have htwo : [kGlobal, kCluster].contains g.kind = true := by rcases hk with h | h <;> rw [h] <;> rfl
  simp only [segCheck, segChecks, hall, htwo]

/-- A load of good bytes of the banks (R181), where nothing has been read ahead. -/
theorem State.loadPast_cluster (hk : g.kind = kCluster) (hgood : s.badSram = []) (hearly : (s.core core).early = []) (off : Int) (n : Nat) :
    s.loadPast core g off n false none = (s, .ok (s.bankBytes (coreGrove core) (g.base + off.toNat) n)) := by
  simp [State.loadPast, hk, State.readBank, State.badBank, hgood, State.takeEarly, hearly]

variable (hs : isService core = false)

include hs

theorem laneAccess_fault {store : Bool} {f : FaultRec} (hf : segCheck g [kGlobal, kCluster] false off 4 4 (!store) store store = some f) :
    laneAccess s core g store off = (s, .error f) := by
  simp [laneAccess, hs, hf]

theorem laneAccess_load (hk : g.kind = kGlobal ∨ g.kind = kCluster) {t : State} {bs : List Byte}
    (hload : s.segLoad core g off 4 false none = (t, .ok bs)) : laneAccess s core g false off = (t, .ok (bs, [])) := by
  rw [State.segLoad, segCheck_kindsAll hk, hs] at hload
  cases hf : segCheck g [kGlobal, kCluster] false off 4 4 true false false with
  | some f => simp [hf] at hload
  | none =>
    rw [hf] at hload
    simp [laneAccess, hs, hf, hload]

theorem laneAccess_load_cluster (hk : g.kind = kCluster) (hgood : s.badSram = []) (hearly : (s.core core).early = [])
    (hf : segCheck g [kGlobal, kCluster] false off 4 4 true false false = none) :
    laneAccess s core g false off = (s, .ok (s.bankBytes (coreGrove core) (g.base + off.toNat) 4, [])) := by
  simp [laneAccess, hs, hf, State.loadPast_cluster hk hgood hearly]

theorem laneAccess_store_global (hk : g.kind = kGlobal) {t : State} {ps : List (Nat × Nat)}
    (hf : segCheck g [kGlobal, kCluster] false off 4 4 false true true = none)
    (hparts : s.accessParts core g off 4 .write true = (t, .ok ps)) : laneAccess s core g true off = (t, .ok ([], ps)) := by
  have hne : g.kind ≠ kCluster := by rw [hk]; decide
  simp [laneAccess, hs, hf, hne, hparts]

theorem laneAccess_store_cluster (hk : g.kind = kCluster) (hf : segCheck g [kGlobal, kCluster] false off 4 4 false true true = none) :
    laneAccess s core g true off = (s, .ok ([], [(g.base + off.toNat, 4)])) := by
  simp [laneAccess, hs, hf, hk]

end

/-! The lanes in rising order (R157). -/

section

variable {s : State} {core : Nat} {e : RingEntry} {m : Image} {store : Bool}

/-- The accesses of the active lanes, from state to state. -/
theorem lanesAccess_ok (p : Nat → Bool) {st : Nat → State} {r : Nat → List Byte × List (Nat × Nat)} (lo n : Nat)
    (h : ∀ j, lo ≤ j → j < lo + n →
      if p j then laneAccess (st j) core e.sa store (laneOffset e m j) = (st (j + 1), .ok (r j)) else st (j + 1) = st j) :
    lanesAccess (st lo) core e m store ((List.range' lo n).filter p) =
      (st (lo + n), .ok (((List.range' lo n).filter p).map fun j => (j, r j))) := by
  induction n generalizing lo with
  | zero => rfl
  | succ n ih =>
    have hhead := h lo (Nat.le_refl lo) (by omega)
    have htail := ih (lo + 1) fun j h1 h2 => h j (by omega) (by omega)
    rw [show lo + 1 + n = lo + (n + 1) by omega] at htail
    rw [List.range'_succ]
    cases hp : p lo with
    | false =>
      rw [hp, if_neg (by simp)] at hhead
      rw [List.filter_cons_of_neg (by simp [hp]), ← hhead, htail]
    | true =>
      rw [hp, if_pos rfl] at hhead
      rw [List.filter_cons_of_pos hp, lanesAccess, hhead]
      dsimp only
      rw [htail]
      rfl

/-- The accesses of all sixteen lanes. -/
theorem lanesAccess_active {st : Nat → State} {r : Nat → List Byte × List (Nat × Nat)} {k : Mask}
    (h : ∀ j, j < 16 →
      if activeLane m k j then laneAccess (st j) core e.sa store (laneOffset e m j) = (st (j + 1), .ok (r j)) else st (j + 1) = st j) :
    lanesAccess (st 0) core e m store (activeList m k) = (st 16, .ok ((activeList m k).map fun j => (j, r j))) := by
  rw [activeList, List.range_eq_range']
  exact lanesAccess_ok (activeLane m k) 0 16 fun j _ hj => h j (by omega)

/-- Accesses that change nothing. -/
theorem lanesAccess_still {r : Nat → List Byte × List (Nat × Nat)} {k : Mask}
    (h : ∀ j ∈ activeList m k, laneAccess s core e.sa store (laneOffset e m j) = (s, .ok (r j))) :
    lanesAccess s core e m store (activeList m k) = (s, .ok ((activeList m k).map fun j => (j, r j))) := by
  refine lanesAccess_active (st := fun _ => s) fun j hj => ?_
  by_cases ha : activeLane m k j = true
  · rw [if_pos ha]
    exact h j (List.mem_filter.2 ⟨List.mem_range.2 hj, ha⟩)
  · rw [if_neg ha]

/-- A lane that fails after some that change nothing. -/
theorem lanesAccess_fault {j : Nat} {f : FaultRec} (hj : laneAccess s core e.sa store (laneOffset e m j) = (s, .error f)) (post : List Nat)
    {pre : List Nat} (hpre : ∀ h ∈ pre, ∃ r, laneAccess s core e.sa store (laneOffset e m h) = (s, .ok r)) :
    lanesAccess s core e m store (pre ++ j :: post) = (s, .error f) := by
  induction pre with
  | nil => rw [List.nil_append, lanesAccess, hj]
  | cons h pre ih =>
    obtain ⟨⟨r, hr⟩, hrest⟩ := List.forall_mem_cons.1 hpre
    rw [List.cons_append, lanesAccess, hr]
    dsimp only
    rw [ih hrest]

/-- An active lane stands behind the lower active ones. -/
theorem activeList_split {k : Mask} {j : Nat} (hj : j ∈ activeList m k) :
    ∃ pre post, activeList m k = pre ++ j :: post ∧ ∀ h ∈ pre, h ∈ activeList m k ∧ h < j := by
  obtain ⟨pre, post, hsplit⟩ := List.append_of_mem hj
  have hrise : (activeList m k).Pairwise (· < ·) := List.pairwise_lt_range.filter _
  rw [hsplit] at hrise
  refine ⟨pre, post, hsplit, fun h hh => ⟨hsplit ▸ List.mem_append_left _ hh, ?_⟩⟩
  exact (List.pairwise_append.1 hrise).2.2 h hh j List.mem_cons_self

end

/-! What an access leaves (R142, R157). -/

section

variable {s t : State} {core : Nat} {e : RingEntry} {m : Image} {d : Reg} {k : Mask} {g : Desc} {off : Nat → Int}

/-- The fault of the lowest lane that fails its checks, on a segment of cluster memory. -/
theorem vmemRun_fault {store : Bool} (ha : e.Accesses m d store k g off) (hs : isService core = false) (hgood : s.badSram = [])
    (hearly : (s.core core).early = []) (hk : g.kind = kCluster) {j : Nat} (hj : j ∈ activeList m k) {f : FaultRec}
    (hf : segCheck g [kGlobal, kCluster] false (off j) 4 4 (!store) store store = some f)
    (hlow : ∀ h ∈ activeList m k, h < j → segCheck g [kGlobal, kCluster] false (off h) 4 4 (!store) store store = none) :
    vmemRun s core e m = (s, .error f) := by
  obtain ⟨hreg, hmask, hsa, hoff⟩ := ha
  obtain ⟨pre, post, hsplit, hpre⟩ := activeList_split hj
  have hfail : laneAccess s core e.sa store (laneOffset e m j) = (s, .error f) := by
    rw [hsa, hoff]
    exact laneAccess_fault hs hf
  have hpass : ∀ h ∈ pre, ∃ r, laneAccess s core e.sa store (laneOffset e m h) = (s, .ok r) := by
    intro h hh
    obtain ⟨hon, hlt⟩ := hpre h hh
    have hcheck := hlow h hon hlt
    rw [hsa, hoff]
    cases store with
    | false => exact ⟨_, laneAccess_load_cluster hs hk hgood hearly hcheck⟩
    | true => exact ⟨_, laneAccess_store_cluster hs hk hcheck⟩
  have hlanes := lanesAccess_fault hfail post hpass
  rw [← hsplit, activeList] at hlanes
  simp only [vmemRun, hreg, hmask, hlanes]

/-- What a load has read for a lane. -/
theorem find?_lane {α : Type} {on : List Nat} {i : Nat} (hi : i ∈ on) (r : Nat → α) :
    (on.map fun j => (j, r j)).find? (fun q => q.1 == i) = some (i, r i) := by
  induction on with
  | nil => exact absurd hi (by simp)
  | cons j rest ih =>
    by_cases hj : j = i
    · subst hj
      simp
    · have hrest : i ∈ rest := (List.mem_cons.1 hi).resolve_left (Ne.symm hj)
      rw [List.map_cons, List.find?_cons_of_neg (by simpa using hj), ih hrest]

/-- A load writes to each active lane what it has read for it. -/
theorem vmemRun_load (ha : e.Accesses m d false k g off) {r : Nat → List Byte × List (Nat × Nat)}
    (h : lanesAccess s core e m false (activeList m k) = (t, .ok ((activeList m k).map fun j => (j, r j)))) :
    ∃ n, vmemRun s core e m = (t, .ok n) ∧ BitsWise m n k d fun j => BitVec.ofNat 32 (leNat (r j).1) := by
  obtain ⟨hreg, hmask, -, -⟩ := ha
  rw [activeList] at h
  simp only [vmemRun, hreg, hmask, h]
  refine ⟨_, rfl, ((vecWrite_laneWise m k d _).congr fun i hi hact => ?_).bitsWise⟩
  have hfind := find?_lane (List.mem_filter.2 ⟨List.mem_range.2 hi, hact⟩) r
  dsimp only
  rw [hfind]

/-- A load reads each active lane as scalar loads of four bytes do, one after the other (R157, R181). -/
theorem vmemRun_loads (ha : e.Accesses m d false k g off) (hs : isService core = false) (hk : g.kind = kGlobal ∨ g.kind = kCluster)
    {st : Nat → State} {v : Nat → List Byte}
    (h : ∀ j, j < 16 → if activeLane m k j then (st j).segLoad core g (off j) 4 false none = (st (j + 1), .ok (v j)) else st (j + 1) = st j) :
    ∃ n, vmemRun (st 0) core e m = (st 16, .ok n) ∧ BitsWise m n k d fun j => BitVec.ofNat 32 (leNat (v j)) := by
  refine vmemRun_load ha (r := fun j => (v j, [])) (lanesAccess_active fun j hj => ?_)
  obtain ⟨-, -, hsa, hoff⟩ := ha
  have hlane := h j hj
  by_cases hact : activeLane m k j = true
  · rw [if_pos hact] at hlane ⊢
    rw [hsa, hoff]
    exact laneAccess_load hs hk hlane
  · rwa [if_neg hact] at hlane ⊢

/-- A load from the banks (R166). -/
theorem vmemRun_loads_cluster (ha : e.Accesses m d false k g off) (hs : isService core = false) (hgood : s.badSram = [])
    (hearly : (s.core core).early = []) (hk : g.kind = kCluster)
    (h : ∀ j ∈ activeList m k, segCheck g [kGlobal, kCluster] false (off j) 4 4 true false false = none) :
    ∃ n, vmemRun s core e m = (s, .ok n) ∧
      BitsWise m n k d fun j => BitVec.ofNat 32 (leNat (s.bankBytes (coreGrove core) (g.base + (off j).toNat) 4)) := by
  refine vmemRun_load ha (r := fun j => (s.bankBytes (coreGrove core) (g.base + (off j).toNat) 4, [])) (lanesAccess_still fun j hj => ?_)
  obtain ⟨-, -, hsa, hoff⟩ := ha
  rw [hsa, hoff]
  exact laneAccess_load_cluster hs hk hgood hearly (h j hj)

/-! Stores (R158). -/

/-- The bytes of a store dealt to its parts in order. -/
def dealtParts (ps : List (Nat × Nat)) (bs : List Byte) : List (Nat × List Byte) :=
  match ps with
  | [] => []
  | p :: rest => (p.1, bs.take p.2) :: dealtParts rest (bs.drop p.2)

theorem foldl_dealtParts (ps : List (Nat × Nat)) (ws : List (Nat × List Byte)) (bs : List Byte) :
    (ps.foldl (fun (t : List (Nat × List Byte) × List Byte) p => (t.1 ++ [(p.1, t.2.take p.2)], t.2.drop p.2)) (ws, bs)).1 =
      ws ++ dealtParts ps bs := by
  induction ps generalizing ws bs with
  | nil => rw [List.foldl_nil, dealtParts, List.append_nil]
  | cons p rest ih => rw [List.foldl_cons, ih, dealtParts, List.append_assoc, List.singleton_append]

theorem storeCells_dealtParts (ps : List (Nat × Nat)) (bs : List Byte) : storeCells (dealtParts ps bs) = partCells ps bs := by
  induction ps generalizing bs with
  | nil => rfl
  | cons p rest ih => rw [dealtParts, storeCells, List.flatMap_cons, ← storeCells, ih, partCells]

/-- A part of a store is at the address of one of the access. -/
theorem mem_dealtParts {ps : List (Nat × Nat)} {bs : List Byte} {w : Nat × List Byte} (hw : w ∈ dealtParts ps bs) :
    ∃ p ∈ ps, w.1 = p.1 := by
  induction ps generalizing bs with
  | nil => exact absurd hw (by simp [dealtParts])
  | cons p rest ih =>
    rcases List.mem_cons.1 hw with rfl | hw
    · exact ⟨p, List.mem_cons_self, rfl⟩
    · obtain ⟨q, hq, hwq⟩ := ih hw
      exact ⟨q, List.mem_cons_of_mem p hq, hwq⟩

/-- What some lanes of a register store at their places. -/
def laneStores (m : Image) (d : Reg) (on : List Nat) (ps : Nat → List (Nat × Nat)) : List (Nat × List Byte) :=
  on.flatMap fun j => dealtParts (ps j) (leBytes 4 (lane (m.getV d) j).toNat)

theorem storeCells_laneStores (m : Image) (d : Reg) (on : List Nat) (ps : Nat → List (Nat × Nat)) :
    storeCells (laneStores m d on ps) = on.flatMap fun j => partCells (ps j) (leBytes 4 (lane (m.getV d) j).toNat) := by
  simp only [← storeCells_dealtParts]
  exact List.flatMap_assoc

/-- A store, once the checks of its lanes have passed, is the stores of its lanes. -/
theorem vmemRun_store (ha : e.Accesses m d true k g off) {ps : Nat → List (Nat × Nat)}
    (h : lanesAccess s core e m true (activeList m k) = (t, .ok ((activeList m k).map fun j => (j, [], ps j)))) :
    vmemRun s core e m = (t.storeLanes core g (laneStores m d (activeList m k) ps), .ok m) := by
  obtain ⟨hreg, hmask, hsa, -⟩ := ha
  have hws : ∀ on : List Nat, ((on.map fun j => (j, ([] : List Byte), ps j)).flatMap fun r =>
      (r.2.2.foldl (fun (t : List (Nat × List Byte) × List Byte) p => (t.1 ++ [(p.1, t.2.take p.2)], t.2.drop p.2))
        ([], leBytes 4 (lane (m.getV d) r.1).toNat)).1) = laneStores m d on ps := by
    intro on
    simp only [foldl_dealtParts, List.nil_append, List.flatMap_map, laneStores]
  rw [activeList] at h
  simp only [vmemRun, hreg, hmask, h, if_true, hws, hsa]
  rfl

/-- Stores that reach no register of the management space are written run by run. -/
theorem State.storeLanes_runs {ws : List (Nat × List Byte)} (h : ∀ w ∈ ws, g.kind = kCluster ∨ mgmtAt? w.1 = none) :
    s.storeLanes core g ws = (laneRuns ws).foldl (fun (t : State) w =>
      if g.kind = kCluster then t.bankWrite (coreGrove core) w.1 w.2 else t.writeAt core g w.1 w.2 none) s := by
  have hreg : ∀ w ∈ ws, (g.kind != kCluster && (mgmtAt? w.1).isSome) = false := by
    intro w hw
    rcases h w hw with hk | hm
    · simp [hk]
    · simp [hm]
  have hnone : (ws.filter fun w => g.kind != kCluster && (mgmtAt? w.1).isSome) = [] :=
    List.filter_eq_nil_iff.2 fun w hw => by simp [hreg w hw]
  have hall : (ws.filter fun w => !(g.kind != kCluster && (mgmtAt? w.1).isSome)) = ws :=
    List.filter_eq_self.2 fun w hw => by simp [hreg w hw]
  simp only [State.storeLanes, hnone, hall, List.foldl_nil]

/-- A store to a global segment writes runs within lines through the core's L1, as scalar stores do (R158, R181). -/
theorem vmemRun_stores (ha : e.Accesses m d true k g off) (hs : isService core = false) (hk : g.kind = kGlobal) {st : Nat → State}
    {ps : Nat → List (Nat × Nat)}
    (h : ∀ j, j < 16 → if activeLane m k j then
        segCheck g [kGlobal, kCluster] false (off j) 4 4 false true true = none ∧
          (st j).accessParts core g (off j) 4 .write true = (st (j + 1), .ok (ps j)) ∧ ∀ q ∈ ps j, mgmtAt? q.1 = none
      else st (j + 1) = st j) :
    let rs := laneRuns (laneStores m d (activeList m k) ps)
    vmemRun (st 0) core e m = (rs.foldl (fun t w => t.writeAt core g w.1 w.2 none) (st 16), .ok m) := by
  have hne : g.kind ≠ kCluster := by rw [hk]; decide
  have hlanes : lanesAccess (st 0) core e m true (activeList m k) = (st 16, .ok ((activeList m k).map fun j => (j, [], ps j))) := by
    refine lanesAccess_active fun j hj => ?_
    obtain ⟨-, -, hsa, hoff⟩ := ha
    have hlane := h j hj
    by_cases hact : activeLane m k j = true
    · rw [if_pos hact] at hlane ⊢
      obtain ⟨hf, hparts, -⟩ := hlane
      rw [hsa, hoff]
      exact laneAccess_store_global hs hk hf hparts
    · rwa [if_neg hact] at hlane ⊢
  have hplain : ∀ w ∈ laneStores m d (activeList m k) ps, g.kind = kCluster ∨ mgmtAt? w.1 = none := by
    intro w hw
    obtain ⟨j, hj, hw⟩ := List.mem_flatMap.1 hw
    obtain ⟨hrange, hact⟩ := List.mem_filter.1 hj
    have hlane := h j (List.mem_range.1 hrange)
    rw [if_pos hact] at hlane
    obtain ⟨q, hq, hwq⟩ := mem_dealtParts hw
    exact .inr (hwq ▸ hlane.2.2 q hq)
  rw [vmemRun_store ha hlanes, State.storeLanes_runs hplain]
  simp only [if_neg hne]

end

/-! Stores to the banks (R158, R166). -/

section

variable {s t : State} {g : Nat}

theorem State.OnlyBanks.refl (s : State) (g : Nat) : s.OnlyBanks s g := ⟨rfl, fun _ h => h, fun _ _ => rfl, rfl⟩

theorem State.OnlyBanks.trans {u : State} (h : s.OnlyBanks t g) (k : t.OnlyBanks u g) : s.OnlyBanks u g := by
  obtain ⟨heq, hbad, hother, hgrove⟩ := h
  obtain ⟨heq', hbad', hother', hgrove'⟩ := k
  refine ⟨heq'.trans (congrArg (fun x : State =>
    { x with groves := u.groves, ctxs := u.ctxs, cores := u.cores, badSram := u.badSram }) heq), fun p hp => hbad p (hbad' p hp),
    fun j hj => (hother' j hj).trans (hother j hj), ?_⟩
  rw [hgrove', hgrove]

theorem State.latchBank_eq (s : State) (g off n : Nat) : ∃ cs, s.latchBank g off n = { s with ctxs := cs } := by
  unfold State.latchBank
  split
  · exact ⟨s.ctxs, rfl⟩
  · exact ⟨_, rfl⟩

/-- What a write of a grove's banks does. -/
theorem State.bankWrite_eq (s : State) (g off : Nat) (bs : List Byte) :
    ∃ cs bad, (∀ p ∈ bad, p ∈ s.badSram) ∧
      s.bankWrite g off bs =
        { s.setGrove g { s.grove g with cluster := (s.grove g).cluster.writes off bs } with ctxs := cs, badSram := bad } := by
  unfold State.bankWrite
  extract_lets gr s1 s2
  obtain ⟨cs, hcs⟩ := s2.latchBank_eq g off bs.length
  rw [hcs]
  unfold s2
  split
  · exact ⟨cs, s.badSram, fun p hp => hp, rfl⟩
  · exact ⟨cs, _, fun p hp => List.mem_of_mem_filter hp, rfl⟩

theorem State.grove_bankWrite (s : State) (g off : Nat) (bs : List Byte) :
    (s.bankWrite g off bs).grove g = { s.grove g with cluster := (s.grove g).cluster.writes off bs } := by
  obtain ⟨cs, bad, -, h⟩ := s.bankWrite_eq g off bs
  rw [h]
  exact s.grove_setGrove g _

theorem State.OnlyBanks.bankWrite (s : State) (g off : Nat) (bs : List Byte) : s.OnlyBanks (s.bankWrite g off bs) g := by
  have hgrove := s.grove_bankWrite g off bs
  obtain ⟨cs, bad, hbad, h⟩ := s.bankWrite_eq g off bs
  refine ⟨?_, ?_, fun j hj => ?_, ?_⟩
  · rw [h]; rfl
  · rw [h]; exact hbad
  · rw [h]; exact s.grove_setGrove_ne _ hj.symm
  · rw [hgrove]

theorem State.OnlyBanks.bankWrites (s : State) (g : Nat) (rs : List (Nat × List Byte)) :
    s.OnlyBanks (rs.foldl (fun (t : State) w => t.bankWrite g w.1 w.2) s) g :=
  List.foldlRecOn (motive := fun t => s.OnlyBanks t g) _ _ (refl s g) fun _ ht w _ => ht.trans (bankWrite _ g w.1 w.2)

theorem State.cluster_bankWrites (s : State) (g : Nat) (rs : List (Nat × List Byte)) :
    ((rs.foldl (fun (t : State) w => t.bankWrite g w.1 w.2) s).grove g).cluster =
      rs.foldl (fun (b : Memory) w => b.writes w.1 w.2) (s.grove g).cluster := by
  induction rs generalizing s with
  | nil => rfl
  | cons w rest ih => rw [List.foldl_cons, ih, State.grove_bankWrite, List.foldl_cons]

/-- The banks of every grove are in canonical form. -/
theorem State.MemInv.cluster_wf (h : s.MemInv) (g : Nat) : (s.grove g).cluster.wf = true := by
  obtain ⟨⟨-, -, hgroves⟩, -⟩ := h
  rw [State.grove]
  cases hg : s.groves.get? g with
  | none => rfl
  | some v => exact hgroves _ (Tab.mem_of_get? hg)

end

/-- Memory after runs that do not overlap: their bytes, and elsewhere what was there. -/
theorem read_foldl_writes {rs : List (Nat × List Byte)} (hrs : rs.Pairwise fun v w => v.1 + v.2.length ≤ w.1) {b : Memory} (hb : b.wf = true)
    (p : Nat) :
    let r := rs.foldl (fun (b : Memory) w => b.writes w.1 w.2) b
    (∀ x, RunByte rs p x → r.read p = x) ∧ ((∀ x, ¬ RunByte rs p x) → r.read p = b.read p) := by
  induction rs generalizing b with
  | nil => exact ⟨fun x hx => absurd hx (by simp [RunByte]), fun _ => rfl⟩
  | cons w rest ih =>
    obtain ⟨hafter, hrest⟩ := List.pairwise_cons.1 hrs
    obtain ⟨hin, hout⟩ := ih hrest (Memory.wf_writes hb w.1 w.2)
    refine ⟨fun x hx => ?_, fun hno => ?_⟩
    · rcases runByte_cons.1 hx with ⟨hle, hx⟩ | hx
      · obtain ⟨hlt, hx⟩ := List.getElem?_eq_some_iff.1 hx
        have hnot : ∀ y, ¬ RunByte rest p y := by
          rintro y ⟨v, hv, hvp, -⟩
          have := hafter v hv
          omega
        have hread := Memory.read_writes_in hb w.1 w.2 hlt
        rw [Nat.add_sub_cancel' hle, hx] at hread
        exact (hout hnot).trans hread
      · exact hin x hx
    · have hpast : p < w.1 ∨ w.1 + w.2.length ≤ p := by
        by_contra hwithin
        have hlt : p - w.1 < w.2.length := by omega
        exact hno _ (runByte_cons.2 (.inl ⟨by omega, List.getElem?_eq_getElem hlt⟩))
      exact (hout fun x hx => hno x (runByte_cons.2 (.inr hx))).trans (Memory.read_writes_out hb w.1 w.2 hpast)

/-- The byte of a word of four bytes at an address. -/
theorem find?_wordCells (a : Nat) (w : BitVec 32) (p : Nat) :
    (partCells [(a, 4)] (leBytes 4 w.toNat)).reverse.find? (fun q => q.1 == p) =
      if a ≤ p ∧ p < a + 4 then some (p, w.extractLsb' (8 * (p - a)) 8) else none := by
  have hcells : partCells [(a, 4)] (leBytes 4 w.toNat) =
      [(a, w.extractLsb' 0 8), (a + 1, w.extractLsb' 8 8), (a + 2, w.extractLsb' 16 8), (a + 3, w.extractLsb' 24 8)] := rfl
  rw [hcells]
  split
  next h =>
    obtain ⟨i, rfl⟩ := Nat.exists_eq_add_of_le h.1
    have hi : i < 4 := by omega
    interval_cases i <;> simp
  next h =>
    refine List.find?_eq_none.2 fun q hq => ?_
    simp only [List.mem_reverse, List.mem_cons, List.not_mem_nil, or_false] at hq
    rcases hq with rfl | rfl | rfl | rfl <;> simp <;> omega

/-- The byte that the highest of some lanes stores at an address. -/
theorem lastByte_lanes (at_ : Nat → Nat) (w : Nat → BitVec 32) (p : Nat) (on : List Nat) :
    ((on.flatMap fun j => partCells [(at_ j, 4)] (leBytes 4 (w j).toNat)).reverse.find? fun q => q.1 == p).map Prod.snd =
      (on.reverse.find? fun j => decide (at_ j ≤ p ∧ p < at_ j + 4)).map fun j => (w j).extractLsb' (8 * (p - at_ j)) 8 := by
  induction on using List.reverseRecOn with
  | nil => rfl
  | append_singleton on j ih =>
    rw [List.flatMap_append, List.flatMap_singleton, List.reverse_append, List.find?_append, find?_wordCells, List.reverse_concat]
    by_cases hj : at_ j ≤ p ∧ p < at_ j + 4
    · rw [if_pos hj, List.find?_cons_of_pos (by simpa using hj)]
      rfl
    · rw [if_neg hj, List.find?_cons_of_neg (by simpa using hj), ← ih]
      rfl

section

variable {s : State} {core : Nat} {e : RingEntry} {m : Image} {d : Reg} {k : Mask} {g : Desc} {off : Nat → Int}

/-- A store to a cluster segment writes the bytes of its active lanes, the highest lane winning a byte, and nothing else (R158, R166). -/
theorem vmemRun_stores_cluster (ha : e.Accesses m d true k g off) (hs : isService core = false) (hinv : s.MemInv) (hk : g.kind = kCluster)
    (h : ∀ j ∈ activeList m k, segCheck g [kGlobal, kCluster] false (off j) 4 4 false true true = none) :
    ∃ t, vmemRun s core e m = (t, .ok m) ∧ s.OnlyBanks t (coreGrove core) ∧
      ∀ p : Nat, (t.grove (coreGrove core)).cluster.read p =
        match (activeList m k).reverse.find? (fun j => decide (g.base + (off j).toNat ≤ p ∧ p < g.base + (off j).toNat + 4)) with
        | some j => (lane (m.getV d) j).extractLsb' (8 * (p - (g.base + (off j).toNat))) 8
        | none => (s.grove (coreGrove core)).cluster.read p := by
  let ps := fun j => [(g.base + (off j).toNat, 4)]
  have hlanes : lanesAccess s core e m true (activeList m k) = (s, .ok ((activeList m k).map fun j => (j, [], ps j))) := by
    refine lanesAccess_still fun j hj => ?_
    obtain ⟨-, -, hsa, hoff⟩ := ha
    rw [hsa, hoff]
    exact laneAccess_store_cluster hs hk (h j hj)
  have hrun := vmemRun_store ha hlanes
  rw [State.storeLanes_runs fun _ _ => .inl hk] at hrun
  simp only [if_pos hk] at hrun
  refine ⟨_, hrun, State.OnlyBanks.bankWrites .., fun p => ?_⟩
  obtain ⟨-, hpair⟩ := laneRuns_inLines (laneStores m d (activeList m k) ps)
  obtain ⟨hin, hout⟩ := read_foldl_writes hpair (hinv.cluster_wf (coreGrove core)) p
  have hbyte := fun x => runByte_laneRuns (laneStores m d (activeList m k) ps) p x
  simp only [storeCells_laneStores, ps, lastByte_lanes (fun j => g.base + (off j).toNat) (lane (m.getV d))] at hbyte
  rw [State.cluster_bankWrites]
  cases hfind : (activeList m k).reverse.find? fun j => decide (g.base + (off j).toNat ≤ p ∧ p < g.base + (off j).toNat + 4) with
  | some j => exact hin _ ((hbyte _).2 (by rw [hfind]; rfl))
  | none => exact hout fun x hx => absurd ((hbyte x).1 hx) (by rw [hfind]; simp)

end

end Sys2Proof.Machine
end

section /-! PROOF. Each vector memory instruction (R156 to R158). -/
namespace Sys2Proof.Machine
open Sys2Proof

/-- Settles O25: each instruction is dispatched, its entry makes the accesses of R156, and loads and stores do what is said above. -/
theorem vectorMemoryInCluster : Obligations.VectorMemoryInCluster := by
  intro s cid core c d xo e seg imm k h _ hs hroom hgood hearly m g base on runs faults loads stores
  have hfaults : ∀ {i store off}, (mkEntry s c i 0).Accesses m d store k g off → faults i store off :=
    fun ha j hj f hf hlow hk => vmemRun_fault ha hs hgood hearly hk hj hf hlow
  have hloads : ∀ {i off}, exec i s = runRing noPrefix 8 i s → ringRegs i ⊆ [xo, e] → vFields i ⊆ [d, e] →
      (mkEntry s c i 0).Accesses m d false k g off → loads i off := by
    intro i off he hx hv ha
    refine ⟨exec_dispatched h hroom he hx hv, hfaults ha, fun st v hst hk hlanes => ?_,
      fun hk hchecks => vmemRun_loads_cluster ha hs hgood hearly hk hchecks⟩
    subst hst
    exact vmemRun_loads ha hs hk hlanes
  have hstores : ∀ {i off}, exec i s = runRing noPrefix 8 i s → ringRegs i ⊆ [xo, e] → vFields i ⊆ [d, e] →
      (mkEntry s c i 0).Accesses m d true k g off → stores i off := by
    intro i off he hx hv ha
    refine ⟨exec_dispatched h hroom he hx hv, hfaults ha, fun st ps hst hk hlanes => ?_,
      fun hinv hk hchecks => vmemRun_stores_cluster ha hs hinv hk hchecks⟩
    intro cells
    obtain ⟨hline, hpair⟩ := laneRuns_inLines (laneStores m d on ps)
    have hrun := vmemRun_stores ha hs hk hlanes
    rw [hst] at hrun
    refine ⟨_, hrun, hline, hpair, fun p b => ?_⟩
    have hbyte := runByte_laneRuns (laneStores m d on ps) p b
    rwa [storeCells_laneStores] at hbyte
  have hxo : [xo] ⊆ [xo, e] := by simp
  have hxoe : [xo, e] ⊆ [xo, e] := List.Subset.refl _
  have hd : [d] ⊆ [d, e] := by simp
  have hde : [d, e] ⊆ [d, e] := List.Subset.refl _
  exact ⟨hloads (exec_vld ..) hxo hd ⟨rfl, rfl, rfl, fun _ => rfl⟩, hloads (exec_vlds ..) hxoe hd ⟨rfl, rfl, rfl, fun _ => rfl⟩,
    hloads (exec_vldx ..) hxo hde ⟨rfl, rfl, rfl, fun _ => rfl⟩, hstores (exec_vst ..) hxo hd ⟨rfl, rfl, rfl, fun _ => rfl⟩,
    hstores (exec_vsts ..) hxoe hd ⟨rfl, rfl, rfl, fun _ => rfl⟩, hstores (exec_vstx ..) hxo hde ⟨rfl, rfl, rfl, fun _ => rfl⟩⟩

end Sys2Proof.Machine
end

section /-! PROOF. Vector moves (R8, R147, R148): lanes that are permuted, packed, and dealt out by a loop that sees its own writes. -/
namespace Sys2Proof.Machine
open Sys2Proof

variable {m : Image} {k : Mask} {d a : Reg}

/-- A vector register that is written whole, by what its lanes are. -/
theorem setV_bitsWise {v : BitVec 512} {f : Nat → BitVec 32}
    (hv : ∀ i, i < 16 → lane v i = if activeLane m k i then f i else if maskZ k then 0 else lane (m.getV d) i) :
    BitsWise m (m.setV d v) k d f := by
  refine ⟨fun i hi => ?_, fun r hr => m.getV_setV_ne hr v, rfl⟩
  rw [Image.getV_setV, hv i hi]

/-- The gathered lanes come first; the others are kept or zeroed (R148). -/
theorem vcompressEffect_bitsWise (m : Image) (k : Mask) (d a : Reg) :
    BitsWise m (vcompressEffect m k d a) .all d fun j =>
      match ((List.range 16).filter (activeLane m k))[j]? with
      | some i => lane (m.getV a) i
      | none => if maskZ k then 0 else lane (m.getV d) j := by
  refine setV_bitsWise fun j hj => ?_
  have hall : activeLane m .all j = true := rfl
  rw [lane_ofLanes _ hj, gathered, if_pos hall]
  cases h : ((List.range 16).filter (activeLane m k))[j]? with
  | none =>
    have hlen : ¬ j < ((List.range 16).filter (activeLane m k)).length := by simpa using h
    simp [hj, hlen]
  | some i =>
    obtain ⟨hlen, hget⟩ := List.getElem?_eq_some_iff.1 h
    simp [hj, hlen, hget]

/-- A vector with one lane written. -/
def putLane (v : BitVec 512) (i : Nat) (w : BitVec 32) : BitVec 512 := ofLanes ((lanes v).set i w)

theorem lane_putLane (v : BitVec 512) (i : Nat) (w : BitVec 32) {j : Nat} (hj : j < 16) :
    lane (putLane v i w) j = if i = j then w else lane v j := by
  rw [putLane, lane_ofLanes _ hj, List.getD_eq_getElem?_getD, List.getElem?_set]
  by_cases h : i = j
  · subst h
    simp [lanes, hj]
  · simp [lanes, hj, h]

/-- The number of active lanes below lane j. -/
def activeBelow (m : Image) (k : Mask) (j : Nat) : Nat := ((List.range j).filter (activeLane m k)).length

theorem activeBelow_succ (m : Image) (k : Mask) (j : Nat) :
    activeBelow m k (j + 1) = activeBelow m k j + if activeLane m k j then 1 else 0 := by
  rw [activeBelow, List.range_succ, List.filter_append, List.length_append, ← activeBelow]
  cases h : activeLane m k j <;> simp [h]

theorem activeBelow_le (m : Image) (k : Mask) (j : Nat) : activeBelow m k j ≤ j :=
  (List.length_filter_le ..).trans_eq List.length_range

/-- One iteration of the loop of `vexpand`: the vector so far, and the number of lanes dealt out. -/
def expandTurn (m : Image) (k : Mask) (d a : Reg) (p : BitVec 512 × Nat) (i : Nat) : BitVec 512 × Nat :=
  if activeLane m k i then (putLane p.1 i (lane (if a = d then p.1 else m.getV a) p.2), p.2 + 1)
  else (if maskZ k then putLane p.1 i 0 else p.1, p.2)

/-- The loop of `vexpand` after its first n iterations. -/
def expanded (m : Image) (k : Mask) (d a : Reg) (n : Nat) : BitVec 512 × Nat :=
  (List.range n).foldl (expandTurn m k d a) (m.getV d, 0)

theorem vexpandEffect_eq (m : Image) (k : Mask) (d a : Reg) : vexpandEffect m k d a = m.setV d (expanded m k d a 16).1 := rfl

theorem expanded_succ (m : Image) (k : Mask) (d a : Reg) (n : Nat) :
    expanded m k d a (n + 1) = expandTurn m k d a (expanded m k d a n) n := by
  rw [expanded, List.range_succ, List.foldl_concat, ← expanded]

/-- An active lane takes one lane of the source. -/
theorem expanded_count (m : Image) (k : Mask) (d a : Reg) (n : Nat) : (expanded m k d a n).2 = activeBelow m k n := by
  induction n with
  | zero => rfl
  | succ n ih =>
    rw [expanded_succ, activeBelow_succ, expandTurn, ← ih]
    cases activeLane m k n <;> rfl

/-- An iteration writes no lane but its own. -/
theorem lane_expanded_succ_ne {n j : Nat} (hj : j < 16) (hne : n ≠ j) :
    lane (expanded m k d a (n + 1)).1 j = lane (expanded m k d a n).1 j := by
  rw [expanded_succ, expandTurn]
  cases activeLane m k n with
  | true => exact (lane_putLane _ _ _ hj).trans (if_neg hne)
  | false =>
    cases maskZ k with
    | true => exact (lane_putLane _ _ _ hj).trans (if_neg hne)
    | false => rfl

/-- A lane whose iteration is still to come is as it was. -/
theorem lane_expanded_before {n j : Nat} (hj : j < 16) (hn : n ≤ j) : lane (expanded m k d a n).1 j = lane (m.getV d) j := by
  induction n with
  | zero => rfl
  | succ n ih => rw [lane_expanded_succ_ne hj (by omega), ih (by omega)]

/-- A lane keeps what its iteration has written. -/
theorem lane_expanded_after {n j : Nat} (hj : j < 16) (hn : j < n) :
    lane (expanded m k d a n).1 j = lane (expanded m k d a (j + 1)).1 j := by
  induction n, hn using Nat.le_induction with
  | base => rfl
  | succ n hn ih => rw [lane_expanded_succ_ne hj (by omega), ih]

/-- What the iteration of a lane writes there (R148). -/
theorem lane_expanded_self {j : Nat} (hj : j < 16) :
    lane (expanded m k d a (j + 1)).1 j =
      if activeLane m k j then lane (if a = d then (expanded m k d a j).1 else m.getV a) (activeBelow m k j)
      else if maskZ k then 0 else lane (m.getV d) j := by
  rw [expanded_succ, expandTurn, ← expanded_count m k d a]
  cases activeLane m k j with
  | true => exact (lane_putLane _ _ _ hj).trans (if_pos rfl)
  | false =>
    cases maskZ k with
    | true => exact (lane_putLane _ _ _ hj).trans (if_pos rfl)
    | false => exact lane_expanded_before hj (Nat.le_refl j)

/-- The lanes of `vexpand`; with the source as the destination a lane that an earlier iteration has written is read as it ends (R8, R148). -/
theorem vexpandEffect_bitsWise (m : Image) (k : Mask) (d a : Reg) :
    BitsWise m (vexpandEffect m k d a) k d fun j =>
      if a = d ∧ activeBelow m k j < j then lane ((vexpandEffect m k d a).getV d) (activeBelow m k j)
      else lane (m.getV a) (activeBelow m k j) := by
  simp only [vexpandEffect_eq, Image.getV_setV]
  refine setV_bitsWise fun j hj => ?_
  have hle := activeBelow_le m k j
  rw [lane_expanded_after hj hj, lane_expanded_self hj]
  refine if_congr Iff.rfl ?_ rfl
  by_cases had : a = d
  · subst had
    by_cases hlt : activeBelow m k j < j
    · rw [if_pos rfl, if_pos ⟨rfl, hlt⟩, lane_expanded_after (by omega) hlt,
        lane_expanded_after (n := 16) (by omega) (by omega)]
    · rw [if_pos rfl, if_neg fun h => hlt h.2, lane_expanded_before (by omega) (by omega)]
  · rw [if_neg had, if_neg fun h => had h.1]

/-- Settles O21: moves by `vecBits`, `vcompress` and `vexpand` by the lanes of their effects. -/
theorem vectorMoveResults : Obligations.VectorMoveResults := by
  intro s cid c d a b w l n k h hroom m x y on bits
  have hdab : [d, a, b] ⊆ [d, a, b] := List.Subset.refl _
  have hda : [d, a] ⊆ [d, a, b] := by simp
  have hd : [d] ⊆ [d, a, b] := by simp
  have ha : [a] ⊆ [d, a, b] := by simp
  have hnil : ([] : List Reg) ⊆ [d, a] := List.nil_subset _
  have hxa : [a] ⊆ [d, a] := by simp
  have hxd : [d] ⊆ [d, a] := by simp
  exact ⟨exec_bitsWise h hroom (exec_vperm ..) hnil hdab rfl, exec_bitsWise h hroom (exec_vbcast ..) hxa hd rfl,
    fun ty => exec_bitsWise h hroom (exec_vbcastLit ..) hnil hd rfl, exec_bitsWise h hroom (exec_vins ..) hxa hd rfl,
    exec_bitsWise h hroom (exec_vslide ..) hnil hdab rfl,
    ⟨exec_dispatched h hroom (exec_vcompress ..) hnil hda, vcompressEffect_bitsWise m k d a⟩,
    ⟨exec_dispatched h hroom (exec_vexpand ..) hnil hda, vexpandEffect_bitsWise m k d a⟩,
    exec_bitsWise h hroom (exec_vmov ..) hnil hda rfl,
    fun sgn => ⟨exec_dispatched h hroom (exec_vext ..) hxd ha, rfl⟩⟩

end Sys2Proof.Machine
end

section /-! PROOF. Commands of the engine and the matrix unit join the ring (R141, R193, R206). -/
namespace Sys2Proof.Machine
open Sys2Proof

/-- What the entry of a command holds: the registers of its fields and its slots as they stand (R141, R193). -/
theorem mkEntry_captures (s : State) (c : Ctx) {k : Cmd} {i : Instr} {z : Option Slot} (h : ringForm i = { Cmd.form k with sa := z }) (n : Nat) :
    let e := mkEntry s c i n
    e.xa = c.img.getX k.a ∧ e.xb = c.img.getX k.b ∧ e.xc = c.img.getX k.c ∧ e.xd = c.img.getX k.d ∧ e.sa = capS c.img z ∧
      e.sb = c.img.slot k.sb ∧ e.instr = i ∧ e.phase = .waiting ∧ e.seq = (s.core s.here).next ∧ e.pay = c.img.pending? := by
  unfold mkEntry
  rw [h]
  exact ⟨rfl, rfl, rfl, rfl, rfl, rfl, rfl, rfl, rfl, rfl⟩

/-- Settles O37: each command is dispatched by `runRing`, with what `mkEntry_captures` says of its entry. -/
theorem engineAndMatrixCommandsDispatch : Obligations.EngineAndMatrixCommandsDispatch := by
  intro s cid c k hat hroom hfree m runs
  have hring : s.Room c [] := ⟨hroom, rfl⟩
  have hruns : ∀ {accept : Prefix → Bool} {i : Instr} (z : Option Slot), pfxCheck m accept = none → exec i s = runRing accept 8 i s →
      ringRegs i = [k.a, k.b, k.c, k.d] → vFields i = [] → ringForm i = { Cmd.form k with sa := z } → runs i (capS m z) :=
    fun z hp he hx hv hform => ⟨he.trans (runRing_dispatched hat hp (hx ▸ hfree) (hv ▸ hring) 8), mkEntry_captures s c hform 0⟩
  refine ⟨fun hpp => ?_, fun hp => ?_⟩
  · have hp : pfxCheck m noPrefix = none := pfxCheck_free hpp noPrefix
    have hdfree : interlocked c.ring (ringRegs (.dfree k.a k.b)) = false :=
      interlocked_subset (us := [k.a, k.b]) (by simp) hfree
    exact ⟨fun _ => hruns (some k.sa) hp (exec_dcopy ..) rfl rfl rfl, fun _ => hruns (some k.sa) hp (exec_dfill ..) rfl rfl rfl,
      fun _ _ => hruns (some k.sa) hp (exec_gather ..) rfl rfl rfl, fun _ _ _ => hruns (some k.sa) hp (exec_scatter ..) rfl rfl rfl,
      fun _ _ => hruns (some k.sa) hp (exec_spwalk ..) rfl rfl rfl, fun _ => hruns (some k.sa) hp (exec_merge ..) rfl rfl rfl,
      fun _ _ _ => hruns none hp (exec_mldb ..) rfl rfl rfl,
      (exec_dfree ..).trans (runRing_dispatched hat hp hdfree hring 8), rfl, rfl⟩
  · exact ⟨fun _ _ _ _ => hruns (some k.sa) hp (exec_mmac ..) rfl rfl rfl,
      fun _ _ _ => hruns (some k.sa) hp (exec_mmacCoop ..) rfl rfl rfl⟩

end Sys2Proof.Machine
end

section /-! PROOF. An entry of a table after a write to it. -/
namespace Sys2Proof.Tab

theorem mem_set {α : Type} {t : Tab α} {k : Nat} {v : α} {p : Nat × α} (h : p ∈ t.set k v) : p = (k, v) ∨ p ∈ t := by
  induction t with
  | nil => exact .inl (List.mem_singleton.1 h)
  | cons q rest ih =>
    rw [Tab.set] at h
    split_ifs at h with heq hlt
    · exact (List.mem_cons.1 h).imp_right (List.mem_cons_of_mem q)
    · exact List.mem_cons.1 h
    · rcases List.mem_cons.1 h with rfl | h
      · exact .inr List.mem_cons_self
      · exact (ih h).imp_right (List.mem_cons_of_mem q)

end Sys2Proof.Tab
end

section /-! PROOF. Memory in canonical form (R161, log 2): appending, folds, and updates of a state that leave the memory fields alone. -/
namespace Sys2Proof.Machine
open Sys2Proof

/-- Memory above other memory joins it in canonical form. -/
theorem Memory.wf_append {m n : Memory} (hm : m.wf = true) (hn : n.wf = true) (h : ∀ c ∈ m, ∀ q ∈ n, c.1 < q.1) :
    Memory.wf (m ++ n) = true := by
  induction m with
  | nil => exact hn
  | cons c rest ih =>
    obtain ⟨hnz, habove, hrest⟩ := Memory.wf_cons.1 hm
    refine Memory.wf_cons.2 ⟨hnz, fun q hq => ?_, ih hrest fun d hd => h d (List.mem_cons_of_mem c hd)⟩
    rcases List.mem_append.1 hq with hq | hq
    · exact habove q hq
    · exact h c List.mem_cons_self q hq

namespace State.MemInv

theorem foldl {α : Type} {f : State → α → State} (hf : ∀ t a, t.MemInv → (f t a).MemInv) {s : State} (h : s.MemInv) {l : List α} :
    (l.foldl f s).MemInv := by
  induction l generalizing s with
  | nil => exact h
  | cons a l ih => exact ih (hf s a h)

theorem foldl_fst {α β : Type} {f : State × β → α → State × β} (hf : ∀ t a, t.1.MemInv → (f t a).1.MemInv) {p : State × β} (h : p.1.MemInv)
    {l : List α} : (l.foldl f p).1.MemInv := by
  induction l generalizing p with
  | nil => exact h
  | cons a l ih => exact ih (hf p a h)

/-- The state that a match has taken out of a pair. -/
theorem of_eq {β : Type} {p : State × β} (h : p.1.MemInv) {t : State} {b : β} (e : p = (t, b)) : t.MemInv := by
  subst e
  exact h

/-- Memory is canonical by what it holds alone. -/
theorem same {s t : State} (h : s.MemInv) (hd : t.dram = s.dram := by rfl) (hs : t.staging = s.staging := by rfl)
    (hg : t.groves = s.groves := by rfl) (hk : t.saves = s.saves := by rfl) : t.MemInv := by
  unfold State.MemInv State.Canonical
  rw [hd, hs, hg, hk]
  exact h

-- One after another: the case splits share what Lean generates for them.
set_option Elab.async false

variable {s : State}

theorem withSerial {x} (h : s.MemInv) : ({ s with serial := x } : State).MemInv := h

theorem withStalled {x} (h : s.MemInv) : ({ s with stalled := x } : State).MemInv := h

theorem withAgenda {x} (h : s.MemInv) : ({ s with agenda := x } : State).MemInv := h

theorem withBadSram {x} (h : s.MemInv) : ({ s with badSram := x } : State).MemInv := h

theorem withRecords {x} (h : s.MemInv) : ({ s with records := x } : State).MemInv := h

theorem withBad {x} (h : s.MemInv) : ({ s with bad := x } : State).MemInv := h

theorem withCombine {x} (h : s.MemInv) : ({ s with combine := x } : State).MemInv := h

theorem withWays {x} (h : s.MemInv) : ({ s with ways := x } : State).MemInv := h

theorem withShadows {x} (h : s.MemInv) : ({ s with shadows := x } : State).MemInv := h

theorem withGroups {x} (h : s.MemInv) : ({ s with groups := x } : State).MemInv := h

theorem withDfrees {x} (h : s.MemInv) : ({ s with dfrees := x } : State).MemInv := h

theorem withDfreeSets {x} (h : s.MemInv) : ({ s with dfreeSets := x } : State).MemInv := h

theorem withCtxs {x} (h : s.MemInv) : ({ s with ctxs := x } : State).MemInv := h

theorem withHalos {x} (h : s.MemInv) : ({ s with halos := x } : State).MemInv := h

theorem withMsgs {x} (h : s.MemInv) : ({ s with msgs := x } : State).MemInv := h

theorem withMsgRecvs {x} (h : s.MemInv) : ({ s with msgRecvs := x } : State).MemInv := h

theorem withLdcmd {x} (h : s.MemInv) : ({ s with ldcmd := x } : State).MemInv := h

theorem withLdsts {x} (h : s.MemInv) : ({ s with ldsts := x } : State).MemInv := h

theorem withPtroot {x} (h : s.MemInv) : ({ s with ptroot := x } : State).MemInv := h

theorem withHere {x} (h : s.MemInv) : ({ s with here := x } : State).MemInv := h

theorem withSerialXfers {x y} (h : s.MemInv) : ({ s with serial := x, xfers := y } : State).MemInv := h

theorem withRecvsMsgRecvs {x y} (h : s.MemInv) : ({ s with recvs := x, msgRecvs := y } : State).MemInv := h

theorem withNowSync {x y} (h : s.MemInv) : ({ s with now := x, sync := y } : State).MemInv := h

theorem withCkstsCkPhase {x y} (h : s.MemInv) : ({ s with cksts := x, ckPhase := y } : State).MemInv := h

theorem withCoresCkPhase {x y} (h : s.MemInv) : ({ s with cores := x, ckPhase := y } : State).MemInv := h

theorem grove (h : s.MemInv) (g : Nat) : (s.grove g).cluster.wf = true := by
  unfold State.grove
  cases hg : s.groves.get? g with
  | none => rfl
  | some v => exact h.1.2.2 _ (Tab.mem_of_get? hg)

end State.MemInv

end Sys2Proof.Machine
end

section /-! PROOF. Memory stays in canonical form under the setters (Machine/State). -/
namespace Sys2Proof.Machine
open Sys2Proof

namespace State.MemInv

-- One after another: the case splits share what Lean generates for them.
set_option Elab.async false

variable {s : State}

theorem reset : State.reset.MemInv := ⟨⟨rfl, rfl, nofun⟩, nofun⟩

end State.MemInv

end Sys2Proof.Machine
end

section /-! PROOF. Memory stays in canonical form under the units (Machine/Units). -/
namespace Sys2Proof.Machine
open Sys2Proof

namespace State.MemInv

-- One after another: the case splits share what Lean generates for them.
set_option Elab.async false

variable {s : State}

theorem setCore {k c} (h : s.MemInv) : (s.setCore k c).MemInv := h

theorem setGrove_wf {g v} (h : s.MemInv) (hv : v.cluster.wf = true) : (s.setGrove g v).MemInv := by
  obtain ⟨⟨hdram, hstaging, hgroves⟩, hsaves⟩ := h
  refine ⟨⟨hdram, hstaging, fun p hp => ?_⟩, hsaves⟩
  rcases Tab.mem_set hp with rfl | hp
  · exact hv
  · exact hgroves p hp

theorem setGrove {g v} (h : s.MemInv) (hv : v.cluster = (s.grove g).cluster := by rfl) : (s.setGrove g v).MemInv :=
  setGrove_wf h (hv ▸ h.grove g)

theorem setDie {d v} (h : s.MemInv) : (s.setDie d v).MemInv := h

theorem setCtx {cid c} (h : s.MemInv) : (s.setCtx cid c).MemInv := h

theorem updCtx {cid f} (h : s.MemInv) : (s.updCtx cid f).MemInv := by
  unfold State.updCtx
  split
  · exact setCtx h
  · exact h

theorem count {k sys ev n} (h : s.MemInv) : (s.count k sys ev n).MemInv := setCore h

theorem dropEarly {core} (h : s.MemInv) : (s.dropEarly core).MemInv := by
  unfold State.dropEarly
  split
  · exact h
  · exact setCore h

theorem logEngine {d src code info grove core} (h : s.MemInv) : (s.logEngine d src code info grove core).MemInv := setDie h

theorem logHost {d src info} (h : s.MemInv) : (s.logHost d src info).MemInv := setDie h

theorem logDie {d grove core src code info} (h : s.MemInv) : (s.logDie d grove core src code info).MemInv := setDie h

theorem machineCheck {d src mem info pa grove core} (h : s.MemInv) : (s.machineCheck d src mem info pa grove core).MemInv := by
  unfold State.machineCheck
  extract_lets die r
  split
  · exact setDie h
  · exact setDie h

end State.MemInv

end Sys2Proof.Machine
end

section /-! PROOF. Memory stays in canonical form under the memory (Machine/Mem). -/
namespace Sys2Proof.Machine
open Sys2Proof

namespace State.MemInv

-- One after another: the case splits share what Lean generates for them.
set_option Elab.async false

variable {s : State}

theorem latchPhys {pa n} (h : s.MemInv) : (s.latchPhys pa n).MemInv := by
  unfold State.latchPhys
  split
  · exact h
  · exact h

theorem latchBank {g off n} (h : s.MemInv) : (s.latchBank g off n).MemInv := by
  unfold State.latchBank
  split
  · exact h
  · exact h

theorem latchGrove {g pa n} (h : s.MemInv) : (s.latchGrove g pa n).MemInv := by
  unfold State.latchGrove
  split
  · exact h
  · exact h

theorem dropReg {cid line} (h : s.MemInv) : (s.dropReg cid line).MemInv := by
  unfold State.dropReg
  split
  · exact h
  · exact updCtx h

theorem recallImage {line} (h : s.MemInv) : (s.recallImage line).MemInv := by
  unfold State.recallImage
  split
  · exact h
  · split
    · exact h
    · exact dropReg (dropReg h)

theorem imageWrite {cid pa edits} (h : s.MemInv) : (s.imageWrite cid pa edits).MemInv := by
  unfold State.imageWrite
  split
  · exact h
  · split
    · exact machineCheck h
    · exact latchPhys (setCtx h)

theorem sweep (h : s.MemInv) : s.sweep.MemInv := by
  unfold State.sweep
  split
  · exact h
  · exact h

theorem dropL1 {g line} (h : s.MemInv) : (s.dropL1 g line).MemInv := sweep (setGrove h)

theorem spillSectors {line m} (h : s.MemInv) : (s.spillSectors line m).MemInv := by
  obtain ⟨⟨hdram, hstaging, hgroves⟩, hsaves⟩ := h
  refine ⟨⟨?_, hstaging, hgroves⟩, hsaves⟩
  unfold State.spillSectors
  dsimp only
  split
  · exact hdram
  · exact Memory.wf_foldr_write hdram _

theorem leaveSlice {g line} (h : s.MemInv) : (s.leaveSlice g line).MemInv := by
  unfold State.leaveSlice
  extract_lets t ws
  have ht : t.MemInv := by
    unfold t
    split
    · exact spillSectors h
    · exact h
  exact sweep ht

theorem spill {line} (h : s.MemInv) : (s.spill line).MemInv := leaveSlice h

theorem hold {g line m streaming} (h : s.MemInv) : (s.hold g line m streaming).MemInv := by
  unfold State.hold
  extract_lets key ws isHome put plan cap mine
  split
  · exact h
  · split
    · exact h
    · split
      · split
        · exact h
        · exact withWays (leaveSlice h)
      · exact h

theorem holdHome {line m streaming} (h : s.MemInv) : (s.holdHome line m streaming).MemInv := by
  unfold State.holdHome
  extract_lets m'
  split
  · exact h
  · exact hold h

theorem spillUnheld {line} (h : s.MemInv) : (s.spillUnheld line).MemInv := by
  unfold State.spillUnheld
  extract_lets m
  split
  · exact spillSectors h
  · exact h

theorem touch {d line m streaming} (h : s.MemInv) : (s.touch d line m streaming).MemInv := by
  unfold State.touch
  split
  · extract_lets g have_ s1 s2
    have hs1 : s1.MemInv := by
      unfold s1
      split
      · exact h
      · exact holdHome h
    have hs2 : s2.MemInv := hold hs1
    split
    · exact hs2
    · exact hs2
  · exact holdHome h

theorem touchRange {d pa n streaming} (h : s.MemInv) : (s.touchRange d pa n streaming).MemInv := foldl (fun _ _ h1 => touch h1) h

theorem dropProxies {line keep} (h : s.MemInv) : (s.dropProxies line keep).MemInv := by
  unfold State.dropProxies
  split
  · exact h
  · exact foldl (fun _ _ h2 => leaveSlice h2) h

theorem placeBytes {line bs keep streaming} (h : s.MemInv) : (s.placeBytes line bs keep streaming).MemInv := by
  unfold State.placeBytes
  extract_lets g has whole some_ m s1 s2
  have hs2 : s2.MemInv := dropProxies (s := s) h
  exact spillUnheld (holdHome hs2)

theorem rawWriteAs {pa bs streaming} (h : s.MemInv) : (s.rawWriteAs pa bs streaming).MemInv :=
  latchPhys (foldl (fun _ _ h1 => placeBytes h1) h)

theorem rawWrite {pa bs} (h : s.MemInv) : (s.rawWrite pa bs).MemInv := rawWriteAs h

theorem roundWords {line hit} (h : s.MemInv) : (s.roundWords line hit).MemInv := by
  unfold State.roundWords
  split
  · exact h
  · exact withCombine (foldl (fun _ _ h2 => rawWrite h2) h)

theorem roundSums {pa n} (h : s.MemInv) : (s.roundSums pa n).MemInv := foldl (fun _ _ h1 => roundWords h1) h

theorem yieldSums {line writes} (h : s.MemInv) : (s.yieldSums line writes).MemInv := by
  unfold State.yieldSums
  split
  · exact h
  · exact withCombine (roundWords h)

theorem keepHeads {s t : State} {pa n} (h : t.MemInv) : (s.keepHeads t pa n).MemInv := by
  unfold State.keepHeads
  refine foldl (fun u p hu => ?_) h
  split
  · exact hu
  · split
    · exact hu
    · refine foldl (fun v i hv => ?_) hu
      dsimp only
      split
      · exact hv
      · exact logHost (rawWrite hv)

theorem homeWriteAs {pa bs streaming} (h : s.MemInv) : (s.homeWriteAs pa bs streaming).MemInv := by
  unfold State.homeWriteAs
  split
  · exact imageWrite h
  · extract_lets s1
    have hs1 : s1.MemInv := by
      unfold s1
      split
      · exact h
      · exact foldl (fun _ _ h4 => yieldSums h4) h
    exact keepHeads (rawWriteAs hs1)

theorem homeWrite {pa bs} (h : s.MemInv) : (s.homeWrite pa bs).MemInv := homeWriteAs h

theorem homeWritesAs {ps streaming} (h : s.MemInv) : (s.homeWritesAs ps streaming).MemInv := foldl (fun _ _ h1 => homeWriteAs h1) h

theorem homeWrites {ps} (h : s.MemInv) : (s.homeWrites ps).MemInv := homeWritesAs h

theorem homeMasked {g line data mask streaming} (h : s.MemInv) : (s.homeMasked g line data mask streaming).MemInv := by
  unfold State.homeMasked
  split
  · exact h
  · extract_lets bs s1
    have hs1 : s1.MemInv := by
      unfold s1
      split
      · exact h
      · exact yieldSums h
    split
    · exact imageWrite h
    · exact keepHeads (latchPhys (placeBytes hs1))

theorem combRoom {line} (h : s.MemInv) : (s.combRoom line).MemInv := by
  unfold State.combRoom
  split
  · exact roundSums h
  · exact h

theorem combinePartial {r l} (h : s.MemInv) : (s.combinePartial r l).MemInv := by
  unfold State.combinePartial
  extract_lets w t old sums
  have ht : t.MemInv := holdHome (combRoom h)
  split
  · exact latchPhys ht
  · exact foldl (fun _ _ h2 => homeWriteAs h2) h

theorem writeBackLine {g l} (h : s.MemInv) : (s.writeBackLine g l).MemInv := by
  unfold State.writeBackLine
  split
  · exact homeMasked h
  · split
    · split
      · exact combinePartial h
      · exact h
    · exact h

theorem recallLine {line} (h : s.MemInv) : (s.recallLine line).MemInv := by
  unfold State.recallLine
  refine foldl (fun _ _ h1 => ?_) (recallImage h)
  split
  · split
    · exact dropL1 (writeBackLine h1)
    · exact h1
  · exact h1

theorem settle {pa n} (h : s.MemInv) : (s.settle pa n).MemInv := roundSums (foldl (fun _ _ h1 => recallLine h1) h)

theorem readHomeAs {d pa n streaming} (h : s.MemInv) : (s.readHomeAs d pa n streaming).1.MemInv := by
  unfold State.readHomeAs
  extract_lets s1
  have hs1 : s1.MemInv := settle h
  split
  · exact hs1
  · exact touchRange hs1

theorem readHome {d pa n} (h : s.MemInv) : (s.readHome d pa n).1.MemInv := readHomeAs h

theorem l1Room {g line} (h : s.MemInv) : (s.l1Room g line).MemInv := by
  unfold State.l1Room
  extract_lets inSet
  split
  · split
    · exact dropL1 (writeBackLine h)
    · exact h
  · exact h

theorem pend {core es} (h : s.MemInv) : (s.pend core es).MemInv := by
  unfold State.pend
  split
  · exact h
  · exact setCore h

theorem takeRecord {core line} (h : s.MemInv) : (s.takeRecord core line).MemInv := pend h

theorem l1Load {core pa n streaming} (h : s.MemInv) : (s.l1Load core pa n streaming).1.MemInv := by
  unfold State.l1Load
  extract_lets g d line k s0 l miss s1 m recs s2 l'
  have hs0 : s0.MemInv := recallLine h
  have hs1 : s1.MemInv := foldl (fun _ _ h1 => roundSums h1) hs0
  have hs2 : s2.MemInv := touch (pend (l1Room hs1))
  split
  · exact hs0
  · split
    · exact pend (setGrove hs0)
    · split
      · exact hs0
      · exact setGrove hs2

theorem l1Put {core pa bs streaming atomic} (h : s.MemInv) : (s.l1Put core pa bs streaming atomic).MemInv := by
  unfold State.l1Put
  extract_lets g line k s0 s1 l data m l' s2 s3
  have hs0 : s0.MemInv := recallLine h
  have hs1 : s1.MemInv := by
    unfold s1
    split
    · exact hs0
    · exact l1Room hs0
  have hs2 : s2.MemInv := setGrove hs1
  have hs3 : s3.MemInv := by
    unfold s3
    split
    · exact hs2
    · exact hs2
  exact latchGrove hs3

theorem l1Store {core pa bs streaming} (h : s.MemInv) : (s.l1Store core pa bs streaming).MemInv := l1Put h

theorem ncLoad {core grove? pa n streaming} (h : s.MemInv) : (s.ncLoad core grove? pa n streaming).1.MemInv := by
  unfold State.ncLoad
  extract_lets line d s0 own dirty byte badOwn
  have hs0 : s0.MemInv := settle h
  split
  · exact hs0
  · exact touchRange (takeRecord hs0)

theorem pushLine {g line} (h : s.MemInv) : (s.pushLine g line).MemInv := by
  unfold State.pushLine
  split
  · exact dropL1 (writeBackLine h)
  · exact h

theorem recallRange {pa n} (h : s.MemInv) : (s.recallRange pa n).MemInv := foldl (fun _ _ h1 => recallLine h1) h

theorem homeStore {grove? pa bs streaming} (h : s.MemInv) : (s.homeStore grove? pa bs streaming).MemInv := by
  unfold State.homeStore
  extract_lets s0 s1
  have hs0 : s0.MemInv := recallRange h
  have hs1 : s1.MemInv := by
    unfold s1
    split
    · exact pushLine hs0
    · exact hs0
  exact homeWriteAs hs1

theorem drainLines {g hit} (h : s.MemInv) : (s.drainLines g hit).MemInv := sweep (setGrove (foldl (fun _ _ h1 => homeMasked h1) h))

theorem drain {g cores} (h : s.MemInv) : (s.drain g cores).MemInv := drainLines h

theorem drainGrove {g} (h : s.MemInv) : (s.drainGrove g).MemInv := drainLines h

theorem invalidate {g} (h : s.MemInv) : (s.invalidate g).MemInv := sweep (setGrove h)

theorem addRecord {core line sc} (h : s.MemInv) : (s.addRecord core line sc).MemInv := by
  unfold State.addRecord
  split
  · exact h
  · extract_lets es e
    split
    · exact h
    · clear_value es
      split
      · split
        · exact withRecords (drain h)
        · exact h
      · exact h

theorem acquireLine {core line sc} (h : s.MemInv) : (s.acquireLine core line sc).MemInv := by
  unfold State.acquireLine
  extract_lets own d es sel s1 keep s2
  have hs1 : s1.MemInv := foldl (fun _ _ h1 => drain h1) h
  have hs2 : s2.MemInv := hs1
  clear_value own
  split
  · exact invalidate hs2
  · exact hs2

theorem drainPending {core sc} (h : s.MemInv) : (s.drainPending core sc).MemInv := by
  unfold State.drainPending
  extract_lets own d
  split
  · exact foldl (fun _ _ h2 => drain h2) h
  · exact foldl (fun _ _ h2 => drain h2) h

theorem acquireFence {core sc} (h : s.MemInv) : (s.acquireFence core sc).MemInv := by
  unfold State.acquireFence
  extract_lets s1 k s2
  have hs1 : s1.MemInv := drainPending h
  have hs2 : s2.MemInv := setCore hs1
  split
  · exact invalidate hs2
  · exact hs2

theorem releaseFence {core} (h : s.MemInv) : (s.releaseFence core).MemInv := by
  unfold State.releaseFence
  split
  · exact drainLines h
  · exact h

theorem rewayed {d} (h : s.MemInv) : (s.rewayed d).MemInv := by
  unfold State.rewayed
  split
  · exact h
  · dsimp only
    refine foldl (fun _ _ h2 => ?_) (setDie h)
    refine foldl (fun _ _ h3 => ?_) h2
    refine leaveSlice ?_
    split
    · exact roundSums h3
    · exact h3

theorem rewayDue (h : s.MemInv) : s.rewayDue.MemInv := foldl (fun _ _ h1 => rewayed h1) h

theorem bankWrite {g off bs} (h : s.MemInv) : (s.bankWrite g off bs).MemInv := by
  obtain ⟨⟨hdram, hstaging, hgroves⟩, hsaves⟩ := id h
  unfold State.bankWrite
  extract_lets gr s1 s2
  have hs1 : s1.MemInv := by
    refine ⟨⟨hdram, hstaging, fun p hp => ?_⟩, hsaves⟩
    rcases Tab.mem_set hp with rfl | hp
    · exact Memory.wf_writes (h.grove g) _ _
    · exact hgroves p hp
  have hs2 : s2.MemInv := by
    unfold s2
    split
    · exact hs1
    · exact hs1
  exact latchBank hs2

end State.MemInv

end Sys2Proof.Machine
end

section /-! PROOF. Memory stays in canonical form under the management registers (Machine/Regs). -/
namespace Sys2Proof.Machine
open Sys2Proof

namespace State.MemInv

-- One after another: the case splits share what Lean generates for them.
set_option Elab.async false

variable {s : State}

theorem postReg {d off bs} (h : s.MemInv) : (s.postReg d off bs).MemInv := h

end State.MemInv

end Sys2Proof.Machine
end

section /-! PROOF. Memory stays in canonical form under the operand accesses (Machine/Operands). -/
namespace Sys2Proof.Machine
open Sys2Proof

namespace State.MemInv

-- One after another: the case splits share what Lean generates for them.
set_option Elab.async false

variable {s : State}

theorem reportBad {g? d pa n core} (h : s.MemInv) : (s.reportBad g? d pa n core).MemInv := machineCheck h

theorem readEntry {d pa} (h : s.MemInv) : (s.readEntry d pa).1.MemInv := by
  unfold State.readEntry
  split
  next heq => exact of_eq (readHome h) heq
  next heq => exact reportBad (of_eq (readHome h) heq)

theorem walkFrom {d plan table asid va} (h : s.MemInv) : (s.walkFrom d plan table asid va).1.MemInv := by
  induction plan generalizing s table with
  | nil => exact h
  | cons p rest ih =>
    unfold State.walkFrom
    split
    next heq =>
      extract_lets addr leaf
      split
      · exact of_eq (readEntry h) heq
      · split
        · exact of_eq (readEntry h) heq
        · split
          · split
            · exact of_eq (readEntry h) heq
            · exact of_eq (readEntry h) heq
          · split
            · exact of_eq (readEntry h) heq
            · exact ih (of_eq (readEntry h) heq)

theorem walk {d asid va} (h : s.MemInv) : (s.walk d asid va).1.MemInv := by
  unfold State.walk
  extract_lets root
  split
  · exact h
  · exact walkFrom h

theorem coreLeaf {core asid va} (h : s.MemInv) : (s.coreLeaf core asid va).1.MemInv := by
  unfold State.coreLeaf
  extract_lets c
  split
  · exact h
  · split
    · split
      next heq2 => exact of_eq (walk h) heq2
      next heq2 => exact setCore (of_eq (walk h) heq2)
    · split
      · exact setCore h
      · split
        next heq3 => exact of_eq (walk h) heq3
        next heq3 =>
          dsimp only
          exact setGrove (setCore (of_eq (walk h) heq3))

theorem translate {core asid va acc} (h : s.MemInv) : (s.translate core asid va acc).1.MemInv := by
  unfold State.translate
  split
  next heq => exact of_eq (coreLeaf h) heq
  next heq => exact of_eq (coreLeaf h) heq

theorem accessPa {core d off acc wr} (h : s.MemInv) : (s.accessPa core d off acc wr).1.MemInv := by
  unfold State.accessPa
  extract_lets va f
  split
  next heq => exact of_eq (translate h) heq
  next heq =>
    split
    · exact of_eq (translate h) heq
    · exact of_eq (translate h) heq

theorem accessParts {core d off n acc wr} (h : s.MemInv) : (s.accessParts core d off n acc wr).1.MemInv := by
  unfold State.accessParts
  extract_lets k
  split
  next heq => exact of_eq (accessPa h) heq
  next heq =>
    split
    · exact of_eq (accessPa h) heq
    · split
      next heq2 => exact of_eq (accessPa (of_eq (accessPa h) heq)) heq2
      next heq2 => exact of_eq (accessPa (of_eq (accessPa h) heq)) heq2

theorem reportBank {g off core} (h : s.MemInv) : (s.reportBank g off core).MemInv := machineCheck h

theorem countMiss {core pa n store} (h : s.MemInv) : (s.countMiss core pa n store).MemInv := by
  unfold State.countMiss
  extract_lets sys hit
  split
  · exact h
  · exact count h

theorem readAt {core d pa n slice} (h : s.MemInv) : (s.readAt core d pa n slice).1.MemInv := by
  unfold State.readAt
  split
  · exact h
  · split
    · exact ncLoad h
    · split
      · exact ncLoad h
      · split
        · exact ncLoad h
        · exact l1Load (countMiss h)

theorem readParts {core d parts slice} (h : s.MemInv) : (s.readParts core d parts slice).1.MemInv := by
  induction parts generalizing s with
  | nil => exact h
  | cons p rest ih =>
    unfold State.readParts
    split
    next heq => exact of_eq (readAt h) heq
    next heq =>
      have hrest := ih (of_eq (readAt h) heq)
      split
      next heq2 => exact of_eq hrest heq2
      next heq2 => exact of_eq hrest heq2

theorem takeEarly {core p plain bs} (h : s.MemInv) : (s.takeEarly core p plain bs).1.MemInv := by
  unfold State.takeEarly
  extract_lets c t
  have ht : t.MemInv := setCore h
  split
  · exact h
  · split
    · exact ht
    · exact ht

theorem takeEarlyParts {core parts plain bs} (h : s.MemInv) : (s.takeEarlyParts core parts plain bs).1.MemInv := by
  unfold State.takeEarlyParts
  split
  · exact takeEarly h
  · exact dropEarly h

theorem loadPast {core d off n nc acq} (h : s.MemInv) : (s.loadPast core d off n nc acq).1.MemInv := by
  unfold State.loadPast
  extract_lets far g g?
  split
  · split
    · exact reportBank h
    · extract_lets r
      have hr : r.1.MemInv := takeEarly h
      split
      · exact invalidate hr
      · exact hr
  · split
    next heq1 => exact of_eq (accessParts h) heq1
    next heq1 =>
      extract_lets s2
      have hs2 : s2.MemInv := by
        unfold s2
        split
        · split
          · exact foldl (fun _ _ h6 => acquireLine h6) (of_eq (accessParts h) heq1)
          · exact of_eq (accessParts h) heq1
        · exact of_eq (accessParts h) heq1
      split
      next heq2 => exact reportBad (of_eq (readParts hs2) heq2)
      next heq2 =>
        extract_lets r
        have hr : r.1.MemInv := takeEarlyParts (of_eq (readParts hs2) heq2)
        exact hr

theorem segLoad {core d off n nc acq} (h : s.MemInv) : (s.segLoad core d off n nc acq).1.MemInv := by
  unfold State.segLoad
  split
  · exact h
  · exact loadPast h

theorem writeAt {core d pa bs rel} (h : s.MemInv) : (s.writeAt core d pa bs rel).MemInv := by
  unfold State.writeAt
  extract_lets far s1
  have hs1 : s1.MemInv := by
    unfold s1
    split
    · exact homeStore h
    · exact l1Store (countMiss h)
  split
  · exact postReg h
  · split
    · split
      · exact addRecord hs1
      · exact hs1
    · exact hs1

theorem writeParts {core d parts bs rel} (h : s.MemInv) : (s.writeParts core d parts bs rel).MemInv := by
  induction parts generalizing s bs with
  | nil => exact h
  | cons p rest ih => exact ih (writeAt h)

theorem segStore {core d off bs rel} (h : s.MemInv) : (s.segStore core d off bs rel).1.MemInv := by
  unfold State.segStore
  split
  · exact h
  · split
    · exact bankWrite h
    · split
      next heq2 => exact of_eq (accessParts h) heq2
      next heq2 => exact writeParts (of_eq (accessParts h) heq2)

end State.MemInv

end Sys2Proof.Machine
end

section /-! PROOF. Memory stays in canonical form under commits, traps and counters (Machine/Ops). -/
namespace Sys2Proof.Machine
open Sys2Proof

namespace State.MemInv

-- One after another: the case splits share what Lean generates for them.
set_option Elab.async false

variable {s : State}

theorem switchCore {k} (h : s.MemInv) : (s.switchCore k).MemInv := by
  unfold State.switchCore
  extract_lets c from_
  split
  · exact count (setCore h)
  · exact setCore h

theorem wakeCore {k} (h : s.MemInv) : (s.wakeCore k).MemInv := by
  unfold State.wakeCore
  extract_lets c
  split
  · exact h
  · split
    · exact count (setCore h)
    · exact h

theorem takeLine {core cid line} (h : s.MemInv) : (s.takeLine core cid line).MemInv := by
  unfold State.takeLine
  dsimp only
  refine count (setCore (updCtx ?_))
  split
  · exact touchRange (dropReg h)
  · split
    · exact dropReg (touchRange (dropReg h))
    · exact touchRange (dropReg h)

theorem touchLine {core cid line} (h : s.MemInv) : (s.touchLine core cid line).1.MemInv := by
  unfold State.touchLine
  split
  · exact machineCheck h
  · extract_lets k
    exact setCore h

theorem useLine {core cid line} (h : s.MemInv) : (s.useLine core cid line).1.MemInv := by
  unfold State.useLine
  split
  · exact touchLine h
  · extract_lets pa d
    split
    · exact reportBad h
    · exact takeLine h

theorem useLines {core cid lines} (h : s.MemInv) : (s.useLines core cid lines).1.MemInv := by
  unfold State.useLines
  split
  · exact h
  · refine foldl_fst (fun _ _ h2 => ?_) h
    split
    · exact h2
    · exact useLine h2

theorem fetchLines {core cid lines} (h : s.MemInv) : (s.fetchLines core cid lines).MemInv := by
  unfold State.fetchLines
  split
  · exact h
  · exact foldl (fun _ _ h2 => useLine h2) h

theorem wakeCtx {cid} (h : s.MemInv) : (s.wakeCtx cid).MemInv := by
  unfold State.wakeCtx
  split
  · exact wakeCore h
  · exact h

theorem makeAllReady {cids} (h : s.MemInv) : (s.makeAllReady cids).MemInv :=
  foldl (fun _ _ h1 => wakeCtx h1) (foldl (fun _ _ h1 => updCtx h1) h)

theorem makeReady {cid} (h : s.MemInv) : (s.makeReady cid).MemInv := makeAllReady h

theorem block {cid w} (h : s.MemInv) : (s.block cid w).MemInv := by
  unfold State.block
  split
  · exact h
  · extract_lets s1
    have hs1 : s1.MemInv := setCtx h
    split
    · exact withStalled (switchCore hs1)
    · exact hs1

theorem setHolding {k b} (h : s.MemInv) : (s.setHolding k b).MemInv := by
  unfold State.setHolding
  split
  · exact h
  · exact setCore h

theorem fetchPart0 {core va n} (h : s.MemInv) : (s.fetchPart0 core va n).1.MemInv := by
  unfold State.fetchPart0
  split
  next heq => exact of_eq (translate h) heq
  next heq =>
    split
    · exact of_eq (translate h) heq
    · split
      next heq2 => exact of_eq (readHome (of_eq (translate h) heq)) heq2
      next heq2 => exact reportBad (of_eq (readHome (of_eq (translate h) heq)) heq2)

theorem fetchWord0 {core va} (h : s.MemInv) : (s.fetchWord0 core va).1.MemInv := by
  unfold State.fetchWord0
  extract_lets k
  split
  next heq => exact of_eq (fetchPart0 h) heq
  next heq =>
    split
    · exact of_eq (fetchPart0 h) heq
    · split
      next heq2 => exact of_eq (fetchPart0 (of_eq (fetchPart0 h) heq)) heq2
      next heq2 => exact of_eq (fetchPart0 (of_eq (fetchPart0 h) heq)) heq2

theorem vector {core code} (h : s.MemInv) : (s.vector core code).1.MemInv := by
  unfold State.vector
  extract_lets base
  split
  next heq => exact of_eq (fetchWord0 h) heq
  next heq =>
    extract_lets h'
    split
    · exact of_eq (fetchWord0 h) heq
    · split
      next heq2 => exact of_eq (fetchPart0 (of_eq (fetchWord0 h) heq)) heq2
      next heq2 => exact of_eq (fetchPart0 (of_eq (fetchWord0 h) heq)) heq2

theorem takeTrap {cid core f epc} (h : s.MemInv) : (s.takeTrap cid core f epc).MemInv := by
  unfold State.takeTrap
  split
  · exact h
  · split
    next heq1 => exact withStalled (setHolding (updCtx (fetchLines (of_eq (vector h) heq1))))
    next heq1 => exact withStalled (switchCore (updCtx (machineCheck (fetchLines (of_eq (vector h) heq1)))))

theorem raiseCause {d cause} (h : s.MemInv) : (s.raiseCause d cause).MemInv := by
  unfold State.raiseCause
  dsimp only
  split
  · exact updCtx h
  · exact setDie h

theorem issued {k} (h : s.MemInv) : (s.issued k).MemInv := by
  unfold State.issued
  extract_lets c other
  split
  · exact setCore h
  · exact h

theorem commit {cid img} (h : s.MemInv) : (s.commit cid img).MemInv := by
  unfold State.commit
  split
  · exact h
  · exact withStalled (setHolding (issued (count (setCtx h))))

theorem pushRing {cid e} (h : s.MemInv) : (s.pushRing cid e).MemInv := withSerial (setCore (updCtx h))

end State.MemInv

end Sys2Proof.Machine
end

section /-! PROOF. Memory stays in canonical form under the vector registers (Machine/Vector). -/
namespace Sys2Proof.Machine
open Sys2Proof

namespace State.MemInv

-- One after another: the case splits share what Lean generates for them.
set_option Elab.async false

variable {s : State}

theorem laneAccess {core d store off} (h : s.MemInv) : (Machine.laneAccess s core d store off).1.MemInv := by
  unfold Machine.laneAccess
  split
  · exact h
  · split
    · split
      · exact h
      · split
        next heq3 => exact of_eq (accessParts h) heq3
        next heq3 => exact of_eq (accessParts h) heq3
    · split
      next heq2 => exact of_eq (loadPast h) heq2
      next heq2 => exact of_eq (loadPast h) heq2

theorem lanesAccess {core e m store ls} (h : s.MemInv) : (Machine.lanesAccess s core e m store ls).1.MemInv := by
  induction ls generalizing s with
  | nil => exact h
  | cons i rest ih =>
    unfold Machine.lanesAccess
    split
    next heq => exact of_eq (laneAccess h) heq
    next heq =>
      have hrest := ih (of_eq (laneAccess h) heq)
      split
      next heq2 => exact of_eq hrest heq2
      next heq2 => exact of_eq hrest heq2

theorem storeLanes {core d ws} (h : s.MemInv) : (s.storeLanes core d ws).MemInv := by
  unfold State.storeLanes
  extract_lets regs mem s1
  have hs1 : s1.MemInv := foldl (fun _ _ h1 => writeAt h1) h
  refine foldl (fun _ _ h1 => ?_) hs1
  split
  · exact bankWrite h1
  · exact writeAt h1

theorem vmemRun {core e m} (h : s.MemInv) : (Machine.vmemRun s core e m).1.MemInv := by
  unfold Machine.vmemRun
  split
  · exact h
  · extract_lets k
    split
    next heq1 => exact of_eq (lanesAccess h) heq1
    next heq1 =>
      split
      · exact storeLanes (of_eq (lanesAccess h) heq1)
      · exact of_eq (lanesAccess h) heq1

end State.MemInv

end Sys2Proof.Machine
end

section /-! PROOF. Memory stays in canonical form under the exchange (Machine/Exchange). -/
namespace Sys2Proof.Machine
open Sys2Proof

namespace State.MemInv

-- One after another: the case splits share what Lean generates for them.
set_option Elab.async false

variable {s : State}

theorem deliver {src dst k w v} (h : s.MemInv) : (s.deliver src dst k w v).MemInv := by
  unfold State.deliver
  extract_lets d
  split
  · exact h
  · exact setCore h

theorem sendRest {core m older e} (h : s.MemInv) : (s.sendRest core m older e).MemInv := by
  unfold State.sendRest
  split
  · exact foldl (fun _ _ h2 => deliver h2) h
  · exact h

theorem sendRests {core m older ring} (h : s.MemInv) : (s.sendRests core m older ring).MemInv := by
  induction ring generalizing s older with
  | nil => exact h
  | cons e rest ih => exact ih (sendRest h)

end State.MemInv

end Sys2Proof.Machine
end

section /-! PROOF. Memory stays in canonical form under the ring (Machine/Ring). -/
namespace Sys2Proof.Machine
open Sys2Proof

namespace State.MemInv

-- One after another: the case splits share what Lean generates for them.
set_option Elab.async false

variable {s : State}

theorem setEntry {cid seq e} (h : s.MemInv) : (s.setEntry cid seq e).MemInv := updCtx h

theorem failLate {core cid m older e} (h : s.MemInv) : (s.failLate core cid m older e).MemInv := by
  unfold State.failLate
  split
  · exact setEntry (sendRest h)
  · exact h

theorem completeEntry {cid seq} (h : s.MemInv) : (s.completeEntry cid seq).MemInv := by
  unfold State.completeEntry
  split
  · exact h
  · split
    · split
      · exact h
      · extract_lets fin
        split
        · split
          · exact h
          · split
            · exact setEntry (updCtx (sendRest h))
            · exact h
        · split
          · split
            next heq5 => exact setEntry (updCtx (of_eq (vmemRun h) heq5))
            · exact h
          · exact setEntry (updCtx h)
        · exact h
    · exact h

theorem contribute {src dst k} (h : s.MemInv) : (s.contribute src dst k).MemInv := by
  unfold State.contribute
  split
  · exact h
  · split
    · exact deliver h
    · split
      · exact h
      · exact deliver (setEntry h)
    · exact h

theorem exchangeExpire {cid seq} (h : s.MemInv) : (s.exchangeExpire cid seq).MemInv := by
  unfold State.exchangeExpire
  split
  · exact h
  · split
    · exact failLate h
    · exact h

theorem redispatch {cid m prv vs} (h : s.MemInv) : (s.redispatch cid m prv vs).MemInv := by
  induction vs generalizing s with
  | nil => exact h
  | cons v rest ih =>
    unfold State.redispatch
    split
    · exact ih (count (pushRing h))
    · exact ih h

theorem acknowledge {core} (h : s.MemInv) : (s.acknowledge core).MemInv := by
  unfold State.acknowledge
  split
  · exact setCore h
  · exact h

end State.MemInv

end Sys2Proof.Machine
end

section /-! PROOF. Memory stays in canonical form under the caches and their drains (Machine/Cache). -/
namespace Sys2Proof.Machine
open Sys2Proof

namespace State.MemInv

-- One after another: the case splits share what Lean generates for them.
set_option Elab.async false

variable {s : State}

theorem pieces {fuel core d off len acc wr} (h : s.MemInv) : (State.pieces fuel s core d off len acc wr).1.MemInv := by
  induction fuel generalizing s off len with
  | zero => exact h
  | succ k ih =>
    unfold State.pieces
    split
    · exact h
    · extract_lets va f
      split
      next heq1 => exact of_eq (coreLeaf h) heq1
      next heq1 =>
        split
        · exact of_eq (coreLeaf h) heq1
        · split
          · exact of_eq (coreLeaf h) heq1
          · exact ih (of_eq (coreLeaf h) heq1)

theorem settleRange {pa n} (h : s.MemInv) : (s.settleRange pa n).MemInv :=
  foldl (fun _ _ h1 => roundWords h1) (foldl (fun _ _ h1 => recallLine h1) h)

theorem present {pa n} (h : s.MemInv) : (s.present pa n).MemInv := h

theorem discard {g? pa n} (h : s.MemInv) : (s.discard g? pa n).1.MemInv := by
  unfold State.discard
  split
  · exact h
  · extract_lets lo hi inRange waiting dirtyHome cut s1 mask
    have hs1 : s1.MemInv := present h
    split
    · exact sweep hs1
    · extract_lets gr own kept
      exact sweep (setGrove hs1)

theorem discardAll {g? ps} (h : s.MemInv) : (s.discardAll g? ps).1.MemInv := by
  unfold State.discardAll
  refine foldl_fst (fun _ _ h1 => ?_) h
  extract_lets r
  have hr : r.1.MemInv := discard h1
  exact hr

theorem writeBackRange {g pa n} (h : s.MemInv) : (s.writeBackRange g pa n).MemInv := by
  unfold State.writeBackRange
  extract_lets ls
  refine foldl (fun _ _ h1 => ?_) h
  split
  · exact dropL1 (writeBackLine h1)
  · exact sweep (setGrove (homeMasked h1))

theorem flushRange {g pa n} (h : s.MemInv) : (s.flushRange g pa n).MemInv := foldl (fun _ _ h1 => pushLine h1) h

theorem overPieces {core ps} {f : State → Nat → Nat → Nat → State} (hf : ∀ t g pa n, t.MemInv → (f t g pa n).MemInv) (h : s.MemInv) :
    (s.overPieces core ps f).MemInv := by
  unfold State.overPieces
  split
  · exact h
  · exact foldl (fun _ _ h2 => hf _ _ _ _ h2) h

theorem prefetchSector {core d off n} (h : s.MemInv) : (s.prefetchSector core d off n).MemInv := by
  unfold State.prefetchSector
  split
  · exact h
  · split
    next heq1 => exact of_eq (accessPa h) heq1
    next heq1 =>
      split
      · split
        next heq3 => exact reportBad (of_eq (readHome (of_eq (accessPa h) heq1)) heq3)
        next heq3 => exact of_eq (readHome (of_eq (accessPa h) heq1)) heq3
      · split
        · exact of_eq (accessPa h) heq1
        · split
          next heq4 => exact reportBad (of_eq (l1Load (countMiss (of_eq (accessPa h) heq1))) heq4)
          next heq4 => exact of_eq (l1Load (countMiss (of_eq (accessPa h) heq1))) heq4

end State.MemInv

end Sys2Proof.Machine
end

section /-! PROOF. Memory stays in canonical form under lent state (Machine/Lend). -/
namespace Sys2Proof.Machine
open Sys2Proof

namespace State.MemInv

-- One after another: the case splits share what Lean generates for them.
set_option Elab.async false

variable {s : State}

theorem countGrant {cid} (h : s.MemInv) : (s.countGrant cid).MemInv := by
  unfold State.countGrant
  split
  · split
    · exact h
    · exact count h
  · exact h

theorem grantOne {c} (h : s.MemInv) : (s.grantOne c).MemInv := by
  unfold State.grantOne
  extract_lets t s1
  have ht : t.MemInv := by
    unfold t
    split
    · exact fetchLines h
    · exact h
  have hs1 : s1.MemInv := by
    unfold s1
    split
    · exact h
    · exact countGrant (updCtx ht)
  exact updCtx hs1

theorem grantFrom {g q} (h : s.MemInv) : (s.grantFrom g q).1.MemInv := by
  induction q generalizing s with
  | nil => exact setGrove h
  | cons c rest ih =>
    unfold State.grantFrom
    split
    · exact ih (grantOne h)
    · exact setGrove h

theorem grantClaims {g} (h : s.MemInv) : (s.grantClaims g).MemInv := foldl (fun _ _ h1 => wakeCtx h1) (grantFrom h)

theorem releaseLent {cid} (h : s.MemInv) : (s.releaseLent cid).MemInv := by
  unfold State.releaseLent
  split
  · exact h
  · extract_lets s1
    have hs1 : s1.MemInv := setCtx h
    split
    · split
      · exact hs1
      · exact grantClaims hs1
    · exact hs1

theorem withdrawClaim {cid g} (h : s.MemInv) : (s.withdrawClaim cid g).MemInv := setGrove h

end State.MemInv

end Sys2Proof.Machine
end

section /-! PROOF. Memory stays in canonical form under the task pool (Machine/Pool). -/
namespace Sys2Proof.Machine
open Sys2Proof

namespace State.MemInv

-- One after another: the case splits share what Lean generates for them.
set_option Elab.async false

variable {s : State}

theorem dslotSet {d n v} (h : s.MemInv) : (s.dslotSet d n v).MemInv := setDie h

theorem dslotDec {d n amount} (h : s.MemInv) : (s.dslotDec d n amount).MemInv := by
  unfold State.dslotDec
  extract_lets old
  split
  · exact logEngine (dslotSet h)
  · split
    · exact h
    · exact dslotSet h

theorem dslotInc {d n amount} (h : s.MemInv) : (s.dslotInc d n amount).MemInv := by
  unfold State.dslotInc
  extract_lets v
  split
  · exact logEngine (dslotSet h)
  · exact dslotSet h

theorem signalDec {sig} (h : s.MemInv) : (s.signalDec sig).MemInv := by
  unfold State.signalDec
  split
  · exact dslotDec h
  · exact h

theorem killIndices {d sig n} (h : s.MemInv) : (s.killIndices d sig n).MemInv := foldl (fun _ _ h1 => signalDec h1) (setDie h)

theorem poolRemove {d id} (h : s.MemInv) : (s.poolRemove d id).MemInv := setDie h

theorem discardEntry {d e} (h : s.MemInv) : (s.discardEntry d e).MemInv := killIndices (poolRemove h)

theorem discardBeaten {d k} (h : s.MemInv) : (s.discardBeaten d k).MemInv := foldl (fun _ _ h1 => discardEntry h1) h

theorem checkKp {cid} (h : s.MemInv) : (s.checkKp cid).MemInv := by
  unfold State.checkKp
  split
  · exact h
  · split
    · split
      · exact setCtx h
      · exact h
    · exact h

theorem place {cid core} (h : s.MemInv) : (s.place cid core).MemInv := by
  unfold State.place
  split
  · dsimp only
    split
    · exact wakeCore (grantClaims (setGrove (checkKp (withSerial (setCtx (setCore h))))))
    · exact wakeCore (checkKp (withSerial (setCtx (setCore h))))
  · exact h

theorem acquireDispatch {core acq} (h : s.MemInv) : (s.acquireDispatch core acq).MemInv := by
  unfold State.acquireDispatch
  split
  · exact h
  · split
    · exact h
    · extract_lets s1
      have hs1 : s1.MemInv := by
        unfold s1
        split
        · split
          · split
            · exact drain h
            · exact h
          · exact h
        · exact h
      exact invalidate hs1

theorem dispatchTo {d e core} (h : s.MemInv) : (s.dispatchTo d e core).MemInv := by
  unfold State.dispatchTo
  split
  · exact place (poolRemove h)
  · split
    · exact h
    · dsimp only
      refine place (acquireDispatch ?_)
      split
      · exact setDie (withSerial (setCtx h))
      · exact poolRemove (withSerial (setCtx h))

theorem dispatchFirst {d es} (h : s.MemInv) : (s.dispatchFirst d es).MemInv := by
  induction es generalizing s with
  | nil => exact h
  | cons e rest ih =>
    unfold State.dispatchFirst
    split
    · exact discardEntry h
    · split
      · split
        · exact ih h
        · exact dispatchTo h
      · exact ih h

theorem freeSlotOf {cid w} (h : s.MemInv) : (s.freeSlotOf cid w).MemInv := by
  unfold State.freeSlotOf
  split
  · exact h
  · extract_lets s1
    have hs1 : s1.MemInv := setCtx h
    split
    · extract_lets k k' s2
      have hs2 : s2.MemInv := setCore hs1
      split
      · exact switchCore hs2
      · exact hs2
    · exact hs1

theorem retire {cid killed} (h : s.MemInv) : (s.retire cid killed).MemInv := by
  unfold State.retire
  split
  · exact h
  · split
    · exact h
    · dsimp only
      refine freeSlotOf (updCtx ?_)
      split
      · refine signalDec (releaseFence ?_)
        split
        · exact setDie (releaseLent (setCtx (sendRests h)))
        · exact releaseLent (setCtx (sendRests h))
      · split
        · exact setDie (releaseLent (setCtx (sendRests h)))
        · exact releaseLent (setCtx (sendRests h))

end State.MemInv

end Sys2Proof.Machine
end

section /-! PROOF. Memory stays in canonical form under translation (Machine/Translate). -/
namespace Sys2Proof.Machine
open Sys2Proof

namespace State.MemInv

-- One after another: the case splits share what Lean generates for them.
set_option Elab.async false

variable {s : State}

theorem setLeaves {a ls} (h : s.MemInv) : (s.setLeaves a ls).MemInv := by
  unfold State.setLeaves
  split
  · exact setCore h
  · exact setGrove h
  · exact setGrove h
  · exact setGrove h
  · exact setGrove h

theorem leafAt {a asid va} (h : s.MemInv) : (s.leafAt a asid va).1.MemInv := by
  unfold State.leafAt
  split
  · exact coreLeaf h
  · extract_lets c
    split
    · exact h
    · split
      next heq2 => exact of_eq (walk h) heq2
      next heq2 => exact setLeaves (of_eq (walk h) heq2)

theorem unitPieces {fuel a d off len acc wr} (h : s.MemInv) : (State.unitPieces fuel s a d off len acc wr).1.MemInv := by
  induction fuel generalizing s off len with
  | zero => exact h
  | succ k ih =>
    unfold State.unitPieces
    split
    · exact h
    · extract_lets va f
      split
      next heq1 => exact of_eq (leafAt h) heq1
      next heq1 =>
        split
        · exact of_eq (leafAt h) heq1
        · split
          · exact of_eq (leafAt h) heq1
          · extract_lets n
            split
            next heq4 => exact of_eq (ih (of_eq (leafAt h) heq1)) heq4
            next heq4 => exact of_eq (ih (of_eq (leafAt h) heq1)) heq4

theorem places {a grove d off len acc wr} (h : s.MemInv) : (s.places a grove d off len acc wr).1.MemInv := by
  unfold State.places
  split
  · exact h
  · exact unitPieces h

theorem unitRead {d pa n streaming} (h : s.MemInv) : (s.unitRead d pa n streaming).1.MemInv := by
  unfold State.unitRead
  split
  next heq => exact of_eq (readHomeAs h) heq
  next heq => exact reportBad (of_eq (readHomeAs h) heq)

theorem writeHomeAs {pa bs streaming} (h : s.MemInv) : (s.writeHomeAs pa bs streaming).MemInv := homeWriteAs (recallRange h)

theorem writeHome {pa bs} (h : s.MemInv) : (s.writeHome pa bs).MemInv := writeHomeAs h

theorem readPlaces {d ps streaming} (h : s.MemInv) : (s.readPlaces d ps streaming).1.MemInv := by
  unfold State.readPlaces
  refine foldl_fst (fun _ _ h1 => ?_) h
  split
  · exact h1
  · split
    · split
      · exact h1
      · exact reportBank h1
    · split
      next heq3 => exact of_eq (unitRead h1) heq3
      · exact unitRead h1

theorem writePlace {p bs streaming} (h : s.MemInv) : (s.writePlace p bs streaming).MemInv := by
  unfold State.writePlace
  split
  · exact bankWrite h
  · exact writeHomeAs h

theorem commandAcquire {core acq} (h : s.MemInv) : (s.commandAcquire core acq).MemInv := by
  unfold State.commandAcquire
  split
  · exact h
  · extract_lets s1
    have hs1 : s1.MemInv := by
      unfold s1
      split
      · exact drainGrove h
      · exact h
    split
    · exact drainPending hs1
    · exact hs1

theorem complete {grove cw xd status ds dep} (h : s.MemInv) : (s.complete grove cw xd status ds dep).MemInv := by
  unfold State.complete
  extract_lets w s1 s2
  have hs1 : s1.MemInv := by
    unfold s1
    split
    · split
      · exact h
      · exact bankWrite h
    · exact h
  have hs2 : s2.MemInv := by
    unfold s2
    split
    · exact hs1
    · exact bankWrite hs1
    · exact bankWrite hs1
  split
  · exact signalDec hs2
  · exact hs2

end State.MemInv

end Sys2Proof.Machine
end

section /-! PROOF. Memory stays in canonical form under the engine queue (Machine/Engine). -/
namespace Sys2Proof.Machine
open Sys2Proof

namespace State.MemInv

-- One after another: the case splits share what Lean generates for them.
set_option Elab.async false

variable {s : State}

theorem acceptWalk {grove core e wide pos comp ds} (h : s.MemInv) : (s.acceptWalk grove core e wide pos comp ds).1.MemInv := by
  unfold State.acceptWalk
  split
  · exact h
  · dsimp only
    split
    · exact reportBank h
    · split
      · exact h
      · exact h

theorem acceptMerge {grove core e comp ds} (h : s.MemInv) : (s.acceptMerge grove core e comp ds).1.MemInv := by
  unfold State.acceptMerge
  split
  · exact h
  · dsimp only
    split
    next heq1 => exact of_eq (places h) heq1
    next heq1 =>
      split
      next heq2 => exact of_eq (readPlaces (of_eq (places h) heq1)) heq2
      next heq2 =>
        split
        · exact of_eq (readPlaces (of_eq (places h) heq1)) heq2
        · exact of_eq (readPlaces (of_eq (places h) heq1)) heq2

theorem acceptCheck {grove core e} (h : s.MemInv) : (s.acceptCheck grove core e).1.MemInv := by
  unfold State.acceptCheck
  split
  · exact h
  · extract_lets comp ds plain start ms
    have hplain (f : Option FaultRec) (c : EngCmd) : (plain f c).1.MemInv := by
      unfold plain
      split
      · exact h
      · exact h
    split
    · exact hplain _ _
    · exact hplain _ _
    · exact hplain _ _
    · exact hplain _ _
    · exact acceptWalk h
    · exact acceptMerge (commandAcquire h)
    · exact h

theorem sendDfree {cid grove e} (h : s.MemInv) : (s.sendDfree cid grove e).MemInv := by
  unfold State.sendDfree
  dsimp only
  split
  · exact setEntry h
  · exact withDfrees (setEntry h)

theorem engineAccept {cid seq} (h : s.MemInv) : (s.engineAccept cid seq).MemInv := by
  unfold State.engineAccept
  split
  · exact h
  · split
    · extract_lets grove
      split
      · exact h
      · split
        · split
          · exact h
          · exact sendDfree h
        · split
          next heq4 => exact setEntry (of_eq (acceptCheck h) heq4)
          next heq4 =>
            dsimp only
            refine withSerial (setGrove (setEntry ?_))
            split
            · exact commandAcquire (of_eq (acceptCheck h) heq4)
            · exact of_eq (acceptCheck h) heq4
    · exact h

theorem setEngine {grove id c} (h : s.MemInv) : (s.setEngine grove id c).MemInv := setGrove h

theorem putEngine {grove id c} (h : s.MemInv) : (s.putEngine grove id c).MemInv := setEngine h

theorem payload {grove c off bs} (h : s.MemInv) : (s.payload grove c off bs).1.MemInv := by
  unfold State.payload
  split
  · exact bankWrite h
  · exact h

theorem landPayload {grove id idx} (h : s.MemInv) : (s.landPayload grove id idx).MemInv := by
  unfold State.landPayload
  split
  · exact h
  · split
    · exact h
    · split
      · exact h
      · exact putEngine (bankWrite h)

theorem destPlaces {grove c lo n} (h : s.MemInv) : (s.destPlaces grove c lo n).1.MemInv := by
  unfold State.destPlaces
  split
  · extract_lets d
    split
    next heq1 => exact of_eq (places h) heq1
    next heq1 => exact of_eq (places h) heq1
  · exact h
  · exact h

theorem chunkIssue {grove id} (h : s.MemInv) : (s.chunkIssue grove id).MemInv := by
  unfold State.chunkIssue
  split
  · exact h
  · extract_lets lo len n stop
    split
    · exact h
    · split
      next heq2 => exact setEngine (of_eq (places h) heq2)
      next heq2 =>
        split
        next heq3 => exact setEngine (of_eq (destPlaces (of_eq (places h) heq2)) heq3)
        next heq3 =>
          split
          next heq4 => exact setEngine (of_eq (readPlaces (of_eq (destPlaces (of_eq (places h) heq2)) heq3)) heq4)
          next heq4 => exact setEngine (of_eq (readPlaces (of_eq (destPlaces (of_eq (places h) heq2)) heq3)) heq4)

theorem chunkAck {grove id chunk} (h : s.MemInv) : (s.chunkAck grove id chunk).MemInv := by
  unfold State.chunkAck
  split
  · exact h
  · split
    · exact h
    · exact putEngine (foldl (fun _ _ h3 => writePlace h3) h)

theorem memberDelivery {grove id member} (h : s.MemInv) : (s.memberDelivery grove id member).MemInv := by
  unfold State.memberDelivery
  split
  · exact h
  · split
    · split
      · exact h
      · extract_lets off s1
        have hs1 : s1.MemInv := by
          unfold s1
          split
          · exact bankWrite h
          · exact h
        exact putEngine hs1
    · exact h

theorem dfreeArrive {idx} (h : s.MemInv) : (s.dfreeArrive idx).MemInv := by
  unfold State.dfreeArrive
  split
  · exact h
  · extract_lets s1 same k put heard
    have hs1 : s1.MemInv := h
    split
    · split
      · exact logEngine hs1
      · exact hs1
    · split
      · exact withDfreeSets (bankWrite hs1)
      · exact hs1

end State.MemInv

end Sys2Proof.Machine
end

section /-! PROOF. Memory stays in canonical form under the matrix unit (Machine/Matrix). -/
namespace Sys2Proof.Machine
open Sys2Proof

namespace State.MemInv

-- One after another: the case splits share what Lean generates for them.
set_option Elab.async false

variable {s : State}

theorem setMat {g u} (h : s.MemInv) : (s.setMat g u).MemInv := setGrove h

theorem setMatCmd {g stamp c} (h : s.MemInv) : (s.setMatCmd g stamp c).MemInv := setMat h

theorem noteReady {g} (h : s.MemInv) : (s.noteReady g).MemInv := setMat h

theorem enterMat {g cid c core e0 members} (h : s.MemInv) : (s.enterMat g cid c core e0 members).MemInv :=
  noteReady (withSerial (setMat (setEntry h)))

theorem matAccept {cid seq loads} (h : s.MemInv) : (s.matAccept cid seq loads).MemInv := by
  unfold State.matAccept
  split
  · exact h
  · split
    · extract_lets g u aq blocked fail
      split
      · exact h
      · split
        · exact h
        · split
          · split
            · exact setEntry h
            · exact enterMat (setMat h)
          · split
            · exact setEntry h
            · split
              · split
                · exact enterMat h
                · exact setEntry h
              · exact enterMat h
    · exact h

theorem leaveMat {g c} (h : s.MemInv) : (s.leaveMat g c).MemInv := by
  unfold State.leaveMat
  dsimp only
  refine noteReady (setMat ?_)
  split
  · exact setMat (foldl (fun _ _ h3 => setMat h3) (setMatCmd h))
  · exact foldl (fun _ _ h3 => setMat h3) (setMatCmd h)

theorem matEnd {g c o} (h : s.MemInv) : (s.matEnd g c o).MemInv := by
  unfold State.matEnd
  extract_lets s1
  have hs1 : s1.MemInv := complete (leaveMat h)
  split
  · exact setEntry hs1
  · exact hs1

theorem matFail {gr c o f} (h : s.MemInv) : (s.matFail gr c o f).MemInv := by
  unfold State.matFail
  dsimp only
  split
  · exact setEntry (foldl (fun _ _ h2 => setEntry (leaveMat h2)) (leaveMat h))
  · exact complete (logEngine (leaveMat h))

theorem matRead {unit grove core d off n} (h : s.MemInv) : (s.matRead unit grove core d off n).1.MemInv := by
  unfold State.matRead
  split
  next heq => exact of_eq (places h) heq
  next heq =>
    extract_lets parts
    refine foldl_fst (fun _ _ h2 => ?_) (of_eq (places h) heq)
    split
    · exact h2
    · extract_lets bad
      split
      · split
        · exact h2
        · exact reportBank h2
      · split
        next heq4 => exact of_eq (ncLoad h2) heq4
        next heq4 =>
          extract_lets m
          exact reportBad (of_eq (ncLoad h2) heq4)

theorem tileRows {k unit grove core src} (h : s.MemInv) : (State.tileRows k s unit grove core src).1.MemInv := by
  induction k with
  | zero => exact h
  | succ k ih =>
    unfold State.tileRows
    split
    next heq => exact of_eq ih heq
    next heq =>
      split
      next heq1 => exact of_eq (matRead (of_eq ih heq)) heq1
      next heq1 => exact of_eq (matRead (of_eq ih heq)) heq1

theorem readTile {unit grove core src} (h : s.MemInv) : (s.readTile unit grove core src).1.MemInv := by
  unfold State.readTile
  split
  next heq => exact of_eq (tileRows h) heq
  next heq =>
    split
    · split
      next heq2 => exact of_eq (matRead (of_eq (tileRows h) heq)) heq2
      next heq2 => exact of_eq (matRead (of_eq (tileRows h) heq)) heq2
    · exact of_eq (tileRows h) heq

theorem fillBank {g k b} (h : s.MemInv) : (s.fillBank g k b).MemInv := withBadSram (setMat h)

theorem bankLoad {g core} (h : s.MemInv) : (s.bankLoad g core).MemInv := by
  unfold State.bankLoad
  split
  · exact h
  · split
    · exact h
    · split
      · exact h
      · split
        · exact h
        · extract_lets src s0
          have hs0 : s0.MemInv := commandAcquire h
          split
          next heq4 => exact matFail (setMat (of_eq (readTile hs0) heq4))
          next heq4 => exact matEnd (fillBank (of_eq (readTile hs0) heq4))

theorem readRows {unit grove core e len ms} (h : s.MemInv) : (s.readRows unit grove core e len ms).1.MemInv := by
  induction ms generalizing s with
  | nil => exact h
  | cons m rest ih =>
    unfold State.readRows
    split
    next heq => exact of_eq (matRead h) heq
    next heq =>
      have hrest := ih (of_eq (matRead h) heq)
      split
      next heq2 => exact of_eq hrest heq2
      next heq2 => exact of_eq hrest heq2

theorem badC {g core e o ts step t f} (h : s.MemInv) (eq : s.badC g core e o ts step = some (t, f)) : t.MemInv := by
  unfold State.badC at eq
  split at eq
  · cases eq
  · dsimp only at eq
    split at eq
    · cases eq
      exact reportBank h
    · cases eq

theorem writeWords {g ws} (h : s.MemInv) : (s.writeWords g ws).MemInv := foldl (fun _ _ h1 => bankWrite h1) h

theorem badCim {unit core ks e t f} (h : s.MemInv) (eq : s.badCim unit core ks e = some (t, f)) : t.MemInv := by
  unfold State.badCim at eq
  split at eq
  · cases eq
    exact machineCheck h
  · cases eq

theorem runStep {unit g c o} (h : s.MemInv) : (s.runStep unit g c o).MemInv := by
  unfold State.runStep
  extract_lets begun
  have hbegun : ∀ t k, begun = .ok (t, k) → t.MemInv := by
    intro t k e
    unfold begun at e
    split at e
    · cases e
      exact h
    · split at e
      · cases e
      · cases e
        exact commandAcquire h
  clear_value begun
  split
  · exact matFail h
  next s0 c0 =>
    have h0 : s0.MemInv := hbegun _ _ rfl
    split
    next heq => exact matFail (of_eq (readRows h0) heq)
    next heq _ => exact matFail (badCim h0 heq)
    next heq =>
      have h1 := of_eq (readRows h0) heq
      split
      next heq2 => exact matFail (badC h1 heq2)
      · extract_lets ws s2 c1
        have hs2 : s2.MemInv := count (writeWords h1)
        split
        · exact matEnd hs2
        · exact setMatCmd hs2

theorem runStrip {unit g c o} (h : s.MemInv) : (s.runStrip unit g c o).MemInv := by
  unfold State.runStrip
  extract_lets begun
  have hbegun : ∀ t k, begun = .ok (t, k) → t.MemInv := by
    intro t k e
    unfold begun at e
    split at e
    · cases e
      exact h
    · split at e
      · cases e
      · cases e
        exact commandAcquire h
  clear_value begun
  split
  · exact matFail h
  next s0 c0 =>
    have h0 : s0.MemInv := hbegun _ _ rfl
    extract_lets got
    have hgot : got.1.MemInv := by
      unfold got
      split
      · exact h0
      · exact readRows h0
    clear_value got
    split
    · exact matFail hgot
    next heq _ => exact matFail (badCim h0 heq)
    · extract_lets ts ws c1 s2 c2
      split
      next heq => exact matFail (badC hgot heq)
      · have hs2 : s2.MemInv := count (foldl (fun _ _ ht => writeWords ht) hgot)
        split
        · exact setMatCmd hgot
        · split
          · exact matEnd hs2
          · exact setMatCmd hs2

theorem noteTurn {g r home stamp} (h : s.MemInv) : (s.noteTurn g r home stamp).MemInv := setMat h

theorem matStepRun {g} (h : s.MemInv) : (s.matStepRun g).MemInv := by
  unfold State.matStepRun
  split
  · exact h
  · split
    · exact h
    · split
      · exact h
      · dsimp only
        refine noteTurn (noteReady ?_)
        split
        · exact runStrip (setMat h)
        · exact runStep (setMat h)

theorem claimSlot {g core} (h : s.MemInv) : (s.claimSlot g core).MemInv := by
  unfold State.claimSlot
  split
  · exact h
  · split
    · exact h
    · split
      · exact h
      · exact setMatCmd (setMat h)

theorem migrate {g core target bank} (h : s.MemInv) : (s.migrate g core target bank).MemInv := by
  unfold State.migrate
  split
  · exact h
  · split
    · exact h
    · extract_lets waited first u lent
      split
      · exact h
      · exact setMatCmd (setMat h)

theorem guestLoad {target} (h : s.MemInv) : (s.guestLoad target).MemInv := by
  unfold State.guestLoad
  split
  · exact h
  · split
    · exact h
    · split
      · exact h
      · split
        · exact h
        · extract_lets srcs r
          have hr : r.1.MemInv := by
            refine foldl_fst (fun acc q hacc => ?_) h
            split
            · exact hacc
            · split
              next heq => exact of_eq (readTile hacc) heq
              next heq => exact of_eq (readTile hacc) heq
          clear_value r
          split
          · exact setMatCmd (withBadSram hr)
          · exact noteReady (setMatCmd (setMat hr))

theorem restoreBank {g k} (h : s.MemInv) : (s.restoreBank g k).MemInv := by
  unfold State.restoreBank
  extract_lets u b
  split
  · exact h
  · split
    · split
      next heq2 => exact noteReady (fillBank (of_eq (readTile h) heq2))
      next heq2 => exact noteReady (logEngine (setMat (of_eq (readTile h) heq2)))
    · exact noteReady (setMat h)

end State.MemInv

end Sys2Proof.Machine
end

section /-! PROOF. Memory stays in canonical form under the system operations (Machine/System). -/
namespace Sys2Proof.Machine
open Sys2Proof

namespace State.MemInv

-- One after another: the case splits share what Lean generates for them.
set_option Elab.async false

variable {s : State}

theorem unparkDie {d} (h : s.MemInv) : (s.unparkDie d).MemInv := foldl (fun _ _ h1 => wakeCtx h1) (foldl (fun _ _ h1 => updCtx h1) h)

theorem writeCreg {k m r w} (h : s.MemInv) : (s.writeCreg k m r w).1.MemInv := by
  unfold State.writeCreg
  dsimp only
  split
  · exact h
  · exact h
  · exact h
  · exact h
  · exact h
  · exact h
  · exact unparkDie (setDie h)
  · exact setDie h
  · split
    · exact h
    · exact grantClaims (setGrove h)
  · exact setCore h
  · exact setCore h
  · exact h

end State.MemInv

end Sys2Proof.Machine
end

section /-! PROOF. Memory stays in canonical form under the uses of a line (Machine/Uses). -/
namespace Sys2Proof.Machine
open Sys2Proof

namespace State.MemInv

-- One after another: the case splits share what Lean generates for them.
set_option Elab.async false

variable {s : State}

theorem lineFill {core cid line} (h : s.MemInv) : (s.lineFill core cid line).MemInv := by
  unfold State.lineFill
  split
  · exact h
  · split
    · exact h
    · extract_lets pa d s1
      have hs1 : s1.MemInv := reportBad h
      split
      · split
        · exact takeTrap hs1
        · exact hs1
      · exact takeLine h

end State.MemInv

end Sys2Proof.Machine
end

section /-! PROOF. Memory stays in canonical form under the checks (Machine/Checks). -/
namespace Sys2Proof.Machine
open Sys2Proof

namespace State.MemInv

-- One after another: the case splits share what Lean generates for them.
set_option Elab.async false

variable {s : State}

theorem loadEarly {core cid seg off n} (h : s.MemInv) : (s.loadEarly core cid seg off n).MemInv := by
  unfold State.loadEarly
  split
  · exact h
  · extract_lets d k
    split
    · exact h
    · split
      · split
        · exact h
        · exact setCore h
      · exact h

end State.MemInv

end Sys2Proof.Machine
end

section /-! PROOF. Memory stays in canonical form under the atomics (Machine/Atomic). -/
namespace Sys2Proof.Machine
open Sys2Proof

namespace State.MemInv

-- One after another: the case splits share what Lean generates for them.
set_option Elab.async false

variable {s : State}

theorem matching {core pa n k r op v streaming} (h : s.MemInv) : (s.matching core pa n k r op v streaming).1.MemInv := by
  unfold State.matching
  dsimp only
  split
  · split
    · split
      · split
        · exact h
        · exact latchGrove (setGrove h)
      · split
        · exact l1Room h
        · exact latchGrove (setGrove (l1Room h))
    · split
      · split
        · exact dropL1 (writeBackLine h)
        · exact latchGrove (setGrove (dropL1 (writeBackLine h)))
      · split
        · exact l1Room (dropL1 (writeBackLine h))
        · exact latchGrove (setGrove (l1Room (dropL1 (writeBackLine h))))
  · split
    · split
      · exact h
      · exact latchGrove (setGrove h)
    · split
      · exact l1Room h
      · exact latchGrove (setGrove (l1Room h))

theorem amoL1 {core pa n streaming f} (h : s.MemInv) : (s.amoL1 core pa n streaming f).1.MemInv := by
  unfold State.amoL1
  split
  next heq => exact of_eq (l1Load h) heq
  next heq => exact l1Put (of_eq (l1Load h) heq)

theorem amoHome {core own pa n acq rel sc streaming f} (h : s.MemInv) : (s.amoHome core own pa n acq rel sc streaming f).1.MemInv := by
  unfold State.amoHome
  extract_lets line s0 s1 s2 old s3
  have hs0 : s0.MemInv := by
    unfold s0
    split
    · exact pushLine h
    · exact h
  have hs1 : s1.MemInv := by
    unfold s1
    split
    · exact acquireLine hs0
    · exact hs0
  have hs2 : s2.MemInv := settle hs1
  have hs3 : s3.MemInv := homeWriteAs (takeRecord hs2)
  split
  · exact hs2
  · split
    · exact addRecord hs3
    · exact hs3

theorem amoAt {core d va pa n duo acq rel sc op v e} (h : s.MemInv) : (s.amoAt core d va pa n duo acq rel sc op v e).1.MemInv := by
  unfold State.amoAt
  extract_lets out f
  split
  · extract_lets t
    have ht : t.1.MemInv := matching h
    exact ht
  · exact amoL1 (countMiss h)
  · exact amoHome h

end State.MemInv

end Sys2Proof.Machine
end

section /-! PROOF. Memory stays in canonical form under tasks and incumbents (Machine/Tasks). -/
namespace Sys2Proof.Machine
open Sys2Proof

namespace State.MemInv

-- One after another: the case splits share what Lean generates for them.
set_option Elab.async false

variable {s : State}

theorem poolEnter {d t acq} (h : s.MemInv) : (s.poolEnter d t acq).MemInv := withSerial (setDie h)

theorem armed {t undo} (h : s.MemInv) : (s.armed t undo).MemInv := by
  unfold State.armed
  split
  · exact h
  · extract_lets n
    split
    · exact dslotDec h
    · exact dslotInc h

theorem spawn {core t rel} (h : s.MemInv) : (s.spawn core t rel).1.MemInv := by
  unfold State.spawn
  extract_lets n k i s1
  have hs1 : s1.MemInv := armed h
  split
  · exact h
  · split
    · exact armed hs1
    · split
      · exact armed hs1
      · split
        · exact killIndices hs1
        · exact poolEnter hs1

theorem evictTask {cid core c} (h : s.MemInv) : (s.evictTask cid core c).MemInv :=
  withSerial (setDie (grantClaims (freeSlotOf (setCtx (setCore (withdrawClaim h))))))

theorem preempt {cid} (h : s.MemInv) : (s.preempt cid).MemInv := by
  unfold State.preempt
  split
  · exact h
  · split
    · exact h
    · extract_lets for?
      clear_value for?
      split
      · exact h
      · split
        · exact evictTask h
        · exact setCtx h

end State.MemInv

end Sys2Proof.Machine
end

section /-! PROOF. Memory stays in canonical form under the counters and dependency slots (Machine/Counters). -/
namespace Sys2Proof.Machine
open Sys2Proof

namespace State.MemInv

-- One after another: the case splits share what Lean generates for them.
set_option Elab.async false

variable {s : State}

theorem setArrival {core g a} (h : s.MemInv) : (s.setArrival core g a).MemInv := setCore h

theorem setIncumbent {k i} (h : s.MemInv) : (s.setIncumbent k i).MemInv := h

theorem writeIncctl {k w} (h : s.MemInv) : (s.writeIncctl k w).MemInv := by
  unfold State.writeIncctl
  extract_lets i s0
  have hs0 : s0.MemInv := by
    unfold s0
    split
    · exact logHost h
    · exact h
  split
  · exact logHost hs0
  · exact setIncumbent hs0

theorem reinitDone {k} (h : s.MemInv) : (s.reinitDone k).MemInv := by
  unfold State.reinitDone
  dsimp only
  split
  · exact withShadows (setIncumbent h)
  · exact h

theorem updateShadow {at_ k} (h : s.MemInv) : (s.updateShadow at_ k).MemInv := by
  unfold State.updateShadow
  extract_lets agent
  split
  · exact h
  · extract_lets s1
    have hs1 : s1.MemInv := h
    split
    · exact discardBeaten hs1
    · exact foldl (fun _ _ h3 => checkKp h3) hs1

theorem catchUp {k} (h : s.MemInv) : (s.catchUp k).MemInv := by
  unfold State.catchUp
  extract_lets i
  split
  · exact h
  · split
    · exact h
    · exact foldl (fun _ _ h3 => checkKp h3) (foldl (fun _ _ h3 => discardBeaten h3) (withShadows (setIncumbent h)))

theorem countCycles {n} (h : s.MemInv) : (s.countCycles n).MemInv := by
  unfold State.countCycles
  refine foldl (fun _ _ h1 => ?_) h
  extract_lets t1 held
  have ht1 : t1.MemInv := by
    unfold t1
    split
    · split
      · exact count h1
      · exact h1
    · exact h1
  split
  · exact ht1
  · exact count ht1

theorem endEpisode {g v f} (h : s.MemInv) : (s.endEpisode g v f).MemInv := by
  unfold State.endEpisode
  refine foldl (fun _ _ h1 => ?_) h
  split
  · exact setArrival h1
  · exact h1

theorem episode {g} (h : s.MemInv) : (s.episode g).MemInv := by
  unfold State.episode
  split
  · exact h
  · split
    · extract_lets ended
      have hended : ended.MemInv := h
      split
      · exact endEpisode hended
      · split
        · exact endEpisode hended
        · split
          · exact h
          · exact h
    · exact h

end State.MemInv

end Sys2Proof.Machine
end

section /-! PROOF. Memory stays in canonical form under records (Machine/Records). -/
namespace Sys2Proof.Machine
open Sys2Proof

namespace State.MemInv

-- One after another: the case splits share what Lean generates for them.
set_option Elab.async false

variable {s : State}

theorem setSpace {n sp} (h : s.MemInv) : (s.setSpace n sp).MemInv := h

theorem reportStore {pa n core} (h : s.MemInv) : (s.reportStore pa n core).MemInv := reportBad h

theorem takeRecords {core pa n} (h : s.MemInv) : (s.takeRecords core pa n).MemInv := foldl (fun _ _ h1 => takeRecord h1) h

theorem storeRead {core pa n} (h : s.MemInv) : (s.storeRead core pa n).1.MemInv := by
  unfold State.storeRead
  split
  next heq => exact takeRecords (of_eq (readHome h) heq)
  · exact readHome h

theorem queryReads {core sp box q seen} (h : s.MemInv) : (s.queryReads core sp box q seen).MemInv := by
  unfold State.queryReads
  refine foldl (fun _ _ h1 => ?_) h
  split
  · exact takeRecords h1
  · exact h1

theorem applyWords {sp} (h : s.MemInv) : (s.applyWords sp).MemInv := by
  unfold State.applyWords
  refine foldl (fun _ _ h1 => ?_) h
  extract_lets e
  split
  · exact homeWrite h1
  · exact h1

theorem sweepRecord {w : Sweep} {serial} (h : w.state.MemInv) : (w.record serial).state.MemInv := by
  unfold Sweep.record
  extract_lets e pa xyz o flags
  split
  · exact reportStore h
  · split
    · exact reportStore h
    · split
      · exact homeWrite h
      · split
        · exact homeWrite h
        · extract_lets dest s1 s2 k
          split
          · exact homeWrite (reportStore h)
          · exact setCore (homeWrite (homeWrite h))

theorem sweepRecords {w : Sweep} {live : List Nat} (h : w.state.MemInv) : (live.foldl Sweep.record w).state.MemInv := by
  induction live generalizing w with
  | nil => exact h
  | cons serial rest ih => exact ih (sweepRecord h)

theorem spaceBoundary {n sp} (h : s.MemInv) : (s.spaceBoundary n sp).MemInv := setSpace (sweepRecords (applyWords h))

theorem superstep {g} (h : s.MemInv) : (s.superstep g).MemInv := by
  unfold State.superstep
  split
  · exact h
  · split
    · exact withGroups (foldl (fun _ _ h3 => spaceBoundary h3) h)
    · exact h

theorem stepIncrement {g} (h : s.MemInv) : (s.stepIncrement g).MemInv := by
  unfold State.stepIncrement
  split
  · exact h
  · split
    · exact endEpisode h
    · exact h

end State.MemInv

end Sys2Proof.Machine
end

section /-! PROOF. Memory stays in canonical form under grids (Machine/Grids). -/
namespace Sys2Proof.Machine
open Sys2Proof

namespace State.MemInv

-- One after another: the case splits share what Lean generates for them.
set_option Elab.async false

variable {s : State}

theorem setStamp {g b strip step} (h : s.MemInv) : (s.setStamp g b strip step).MemInv := homeWrites h

theorem setGrid {n g} (h : s.MemInv) : (s.setGrid n g).MemInv := h

theorem landStrip {g b strip src step} (h : s.MemInv) : (s.landStrip g b strip src step).1.MemInv := by
  unfold State.landStrip
  extract_lets r
  split
  · exact setStamp h
  · exact h

theorem writeLocal {g b step} (h : s.MemInv) : (s.writeLocal g b step).MemInv := homeWrites h

theorem refresh {n g b step} (h : s.MemInv) : (s.refresh n g b step).1.MemInv := by
  unfold State.refresh
  refine foldl_fst ?_ ?_
  · exact fun r q hr => landStrip hr
  · exact writeLocal h

theorem landCells {g b strip src step cells} (h : s.MemInv) : (s.landCells g b strip src step cells).MemInv := by
  unfold State.landCells
  split
  · exact h
  · exact homeWrites h

theorem landPart {p core} (h : s.MemInv) : (s.landPart p core).MemInv := by
  unfold State.landPart
  split
  · exact logEngine h
  · extract_lets s1 r
    have hs1 : s1.MemInv := landCells h
    have hr : r.1.MemInv := landStrip hs1
    split
    · exact hs1
    · exact setGrid hr

theorem landPacket {n g b strip src step first cells} (h : s.MemInv) : (s.landPacket n g b strip src step first cells).MemInv := by
  unfold State.landPacket
  split
  · exact h
  · extract_lets key mine came count s1 others r
    have hs1 : s1.MemInv := landCells h
    have hr : r.1.MemInv := landStrip hs1
    split
    · exact setGrid hr
    · exact setGrid hs1

theorem chargeSent {core} (h : s.MemInv) : (s.chargeSent core).MemInv := setCore h

theorem chargeLanded {core} (h : s.MemInv) : (s.chargeLanded core).MemInv := setCore h

theorem partArrival {i} (h : s.MemInv) : (s.partArrival i).MemInv := by
  unfold State.partArrival
  split
  · exact h
  · exact chargeLanded (landPart h)

theorem stallLimit {cid} (h : s.MemInv) : (s.stallLimit cid).MemInv := by
  unfold State.stallLimit
  split
  · exact h
  · split
    · split
      · exact makeReady h
      · exact h
    · exact h

end State.MemInv

end Sys2Proof.Machine
end

section /-! PROOF. Memory stays in canonical form under the fabric (Machine/Fabric). -/
namespace Sys2Proof.Machine
open Sys2Proof

namespace State.MemInv

-- One after another: the case splits share what Lean generates for them.
set_option Elab.async false

variable {s : State}

theorem bump {d i high n} (h : s.MemInv) : (s.bump d i high n).MemInv := setDie h

theorem countDup {d} (h : s.MemInv) : (s.countDup d).MemInv := bump h

theorem countStale {d} (h : s.MemInv) : (s.countStale d).MemInv := bump h

theorem countUnknown {d} (h : s.MemInv) : (s.countUnknown d).MemInv := bump h

theorem countLate {d} (h : s.MemInv) : (s.countLate d).MemInv := bump h

theorem setSend {die dev q} (h : s.MemInv) : (s.setSend die dev q).MemInv := h

theorem setRecv {dev die r} (h : s.MemInv) : (s.setRecv dev die r).MemInv := h

theorem portSend {p ch n} (h : s.MemInv) : (s.portSend p ch n).MemInv := h

theorem portGot {p ch n} (h : s.MemInv) : (s.portGot p ch n).MemInv := h

theorem atPort {p ch n} {f : State → State} (hf : ∀ t, t.MemInv → (f t).MemInv) (h : s.MemInv) : (s.atPort p ch n f).MemInv := by
  unfold State.atPort
  split
  · exact hf _ (portGot h)
  · exact h

theorem leave {ch n} (h : s.MemInv) : (s.leave ch n).MemInv := by
  unfold State.leave
  split
  · exact portSend h
  · exact h

theorem sendWrite {srcEp dst xfer body owner} (h : s.MemInv) : (s.sendWrite srcEp dst xfer body owner).1.MemInv := by
  unfold State.sendWrite
  extract_lets die dev q pkt s1 s2
  have hs1 : s1.MemInv := setSend h
  have hs2 : s2.MemInv := by
    unfold s2
    split
    · exact hs1
    · exact leave hs1
  exact hs2

theorem noteWindow {core id} (h : s.MemInv) : (s.noteWindow core id).MemInv := withCtxs (setCore h)

theorem pace {core dst bytes} (h : s.MemInv) : (s.pace core dst bytes).MemInv := by
  unfold State.pace
  extract_lets c
  split
  · exact setCore h
  · exact h

theorem echo {core dev die} (h : s.MemInv) : (s.echo core dev die).MemInv := by
  unfold State.echo
  extract_lets c free top slot
  split
  · split
    · split
      · exact setCore h
      · exact setCore h
    · split
      · exact setCore h
      · exact setCore h
  · exact setCore h

theorem rateRecover {core slot} (h : s.MemInv) : (s.rateRecover core slot).MemInv := by
  unfold State.rateRecover
  extract_lets c
  split
  · exact h
  · split
    · exact h
    · split
      · exact setCore h
      · exact setCore h

theorem setXfer {id x} (h : s.MemInv) : (s.setXfer id x).MemInv := h

theorem psuTo {cid uid core f} (h : s.MemInv) : (s.psuTo cid uid core f).MemInv := by
  unfold State.psuTo
  extract_lets live
  split
  · exact updCtx h
  · exact logEngine h

theorem finishXfer {x} (h : s.MemInv) : (s.finishXfer x).MemInv := by
  unfold State.finishXfer
  extract_lets g bad status lost
  split
  · split
    · exact machineCheck h
    · exact h
  · extract_lets s1 s2
    have hs1 : s1.MemInv := by
      unfold s1
      split
      · exact bankWrite h
      · exact h
    have hs2 : s2.MemInv := complete hs1
    clear_value lost
    split
    · exact psuTo hs2
    · exact hs2

theorem leaveLeg {x i f} (h : s.MemInv) : (s.leaveLeg x i f).MemInv := by
  unfold State.leaveLeg
  extract_lets s1 y s2 c
  have hs1 : s1.MemInv := by
    unfold s1
    split
    · exact chargeSent h
    · exact h
  have hs2 : s2.MemInv := setXfer hs1
  split
  · exact setCore hs2
  · exact hs2

theorem progressLeg {id i} (h : s.MemInv) : (s.progressLeg id i).MemInv := by
  unfold State.progressLeg
  split
  · exact h
  · split
    · exact h
    · split
      · exact h
      · extract_lets s1 s2
        have hs1 : s1.MemInv := by
          unfold s1
          split
          · exact h
          · exact leaveLeg h
        have hs2 : s2.MemInv := by
          unfold s2
          split
          · exact chargeLanded hs1
          · exact hs1
        exact setXfer hs2

theorem progress {id} (h : s.MemInv) : (s.progress id).MemInv := by
  unfold State.progress
  split
  · exact h
  · extract_lets s1
    have hs1 : s1.MemInv := foldl (fun _ _ h2 => progressLeg h2) h
    split
    · exact hs1
    · split
      · exact finishXfer (setXfer hs1)
      · exact hs1

theorem leaveQueue {x i f} (h : s.MemInv) : (s.leaveQueue x i f).MemInv := progress (leaveLeg h)

theorem noteSent {id} (h : s.MemInv) : (s.noteSent id).MemInv := by
  unfold State.noteSent
  split
  · split
    · exact h
    · exact withSerial (setXfer h)
  · exact h

theorem sendPacket {x i l body} (h : s.MemInv) : (s.sendPacket x i l body).1.MemInv := by
  unfold State.sendPacket
  extract_lets r
  have hr : r.1.MemInv := sendWrite h
  exact pace (noteWindow hr)

theorem sendNext {x i l} (h : s.MemInv) : (s.sendNext x i l).MemInv := by
  unfold State.sendNext
  split
  · extract_lets req s1
    have hs1 : s1.MemInv := by
      unfold s1
      split
      · exact h
      · exact leave h
    exact leaveQueue (pace hs1)
  · split
    · split
      · exact leaveQueue h
      · exact leaveQueue (sendPacket h)
    · extract_lets n failed
      split
      next heq2 => exact leaveQueue (of_eq (places h) heq2)
      next heq2 =>
        split
        next heq3 => exact leaveQueue (of_eq (readPlaces (of_eq (places h) heq2)) heq3)
        next heq3 =>
          extract_lets r upd
          have hr : r.1.MemInv := sendPacket (of_eq (readPlaces (of_eq (places h) heq2)) heq3)
          split
          · exact leaveQueue hr
          · exact setXfer hr

theorem setInj {core idx e} (h : s.MemInv) : (s.setInj core idx e).MemInv := setCore h

theorem sendMsg {core idx m} (h : s.MemInv) : (s.sendMsg core idx m).MemInv := by
  unfold State.sendMsg
  dsimp only
  refine setInj (pace ?_)
  split
  · split
    · exact h
    · exact leave h
  · refine noteWindow ?_
    split
    · exact withMsgs (withSerial (setSend h))
    · exact leave (withSerial (setSend h))

theorem injSend {core idx} (h : s.MemInv) : (s.injSend core idx).MemInv := by
  unfold State.injSend
  split
  · exact h
  · split
    · exact h
    · exact sendMsg h
  · split
    · exact h
    · split
      · exact h
      · extract_lets t
        have ht : t.MemInv := noteSent h
        split
        · exact sendNext ht
        · exact h

theorem pagesOf {fuel a asid va len acc} (h : s.MemInv) : (State.gatewayPlaces.pagesOf fuel s a asid va len acc).1.MemInv := by
  induction fuel generalizing s va len with
  | zero => exact h
  | succ k ih =>
    unfold State.gatewayPlaces.pagesOf
    split
    · exact h
    · split
      next heq1 => exact of_eq (leafAt h) heq1
      next heq1 =>
        split
        · exact of_eq (leafAt h) heq1
        · split
          · exact of_eq (leafAt h) heq1
          · extract_lets n
            split
            next heq4 => exact of_eq (ih (of_eq (leafAt h) heq1)) heq4
            next heq4 => exact of_eq (ih (of_eq (leafAt h) heq1)) heq4

theorem gatewayPlaces {gw addr len acc} (h : s.MemInv) : (s.gatewayPlaces gw addr len acc).1.MemInv := pagesOf h

theorem writePlaces {ps bs streaming} (h : s.MemInv) : (s.writePlaces ps bs streaming).MemInv := foldl (fun _ _ h1 => writePlace h1) h

theorem landReply {id off bs} (h : s.MemInv) : (s.landReply id off bs).MemInv := by
  unfold State.landReply
  split
  · exact h
  · split
    · split
      · exact h
      · split
        next heq3 => exact progress (setXfer (of_eq (places h) heq3))
        next heq3 => exact progress (setXfer (writePlaces (of_eq (places h) heq3)))
    · exact h

theorem placePart {p n decl block strip src step first cells} (h : s.MemInv) : (s.placePart p n decl block strip src step first cells).1.MemInv := by
  unfold State.placePart
  split
  · split
    · exact landPacket h
    · exact h
  · exact logEngine h

theorem placeBody {gw p} (h : s.MemInv) : (s.placeBody gw p).1.MemInv := by
  unfold State.placeBody
  extract_lets g put
  have hput (virt : Bool) (base len off : Nat) (bs : List Byte) : (put virt base len off bs).1.MemInv := by
    unfold put
    split
    · split
      next heq1 => exact of_eq (gatewayPlaces h) heq1
      next heq1 => exact writePlaces (of_eq (gatewayPlaces h) heq1)
    · split
      · exact h
      · exact bankWrite h
  split
  · exact hput _ _ _ _ _
  · exact hput _ _ _ _ _
  · split
    · exact h
    · exact bankWrite h
  · exact landReply h
  · exact placePart h

theorem answer {kind srcEp seq refusal} (h : s.MemInv) : (s.answer kind srcEp seq refusal).MemInv := by
  unfold State.answer
  split
  · exact h
  · exact leave h

theorem writeArrival {gw p} (h : s.MemInv) : (s.writeArrival gw p).MemInv := by
  unfold State.writeArrival
  extract_lets die dev src q r r1
  split
  · exact h
  · split
    · exact countStale h
    · split
      · exact answer (countDup h)
      · exact answer h
      · exact countLate h
      · exact setRecv h
      · split
        · exact countLate (setRecv h)
        · split
          next heq4 => exact answer (setRecv (of_eq (placeBody h) heq4))
          next heq4 => exact answer (setRecv (of_eq (placeBody h) heq4))
          next heq4 => exact setRecv (of_eq (placeBody h) heq4)

theorem writeAnswered {a} (h : s.MemInv) : (s.writeAnswered a).MemInv := by
  unfold State.writeAnswered
  extract_lets q
  split
  · exact h
  · extract_lets s1
    have hs1 : s1.MemInv := setSend h
    split
    · exact hs1
    · split
      · exact hs1
      · extract_lets s2
        have hs2 : s2.MemInv := by
          unfold s2
          split
          · exact echo hs1
          · exact hs1
        exact progress (setXfer hs2)

theorem getAnswered {a} (h : s.MemInv) : (s.getAnswered a).MemInv := by
  unfold State.getAnswered
  split
  · exact h
  · split
    · extract_lets s1
      have hs1 : s1.MemInv := by
        unfold s1
        split
        · exact echo h
        · exact h
      split
      · exact h
      · split
        · exact progress (setXfer hs1)
        · exact hs1
    · exact h

theorem msgAnswered {a} (h : s.MemInv) : (s.msgAnswered a).MemInv := by
  unfold State.msgAnswered
  split
  · exact h
  · dsimp only
    split
    · refine setInj ?_
      split
      · exact echo h
      · exact h
    · refine setCore ?_
      split
      · exact echo h
      · exact h

theorem answered {a} (h : s.MemInv) : (s.answered a).MemInv := by
  unfold State.answered
  split
  · exact writeAnswered h
  · exact getAnswered h
  · exact msgAnswered h
  · exact setSend h

theorem ackArrival {a} (h : s.MemInv) : (s.ackArrival a).MemInv := by
  unfold State.ackArrival
  split
  · split
    · extract_lets s1
      have hs1 : s1.MemInv := h
      split
      · exact countStale hs1
      · exact answered hs1
    · exact h
  · refine atPort (fun _ h2 => ?_) h
    split
    · exact countStale h2
    · exact answered h2

theorem resend {die dev seq port} (h : s.MemInv) : (s.resend die dev seq port).MemInv := by
  unfold State.resend
  extract_lets q
  split
  · split
    · exact h
    · extract_lets ch t
      have ht : t.MemInv := setSend h
      split
      · exact ht
      · split
        · exact portSend ht
        · exact h
  · split
    · exact h
    · split
      · exact portSend (setSend h)
      · exact h

theorem dropHeld {p} (h : s.MemInv) : (s.dropHeld p).MemInv := by
  unfold State.dropHeld
  split
  · exact setGrid h
  · exact h

theorem legUnknown {id i q} (h : s.MemInv) : (s.legUnknown id i q).MemInv := by
  unfold State.legUnknown
  split
  · exact h
  · split
    · exact h
    · extract_lets upd
      split
      · exact progress (setXfer h)
      · refine leaveQueue ?_
        split
        · exact dropHeld h
        · exact h

theorem unknown {die dev seq} (h : s.MemInv) : (s.unknown die dev seq).MemInv := by
  unfold State.unknown
  split
  · extract_lets q
    split
    · exact h
    · extract_lets s1
      have hs1 : s1.MemInv := countUnknown (setSend h)
      split
      · exact legUnknown hs1
      · exact hs1
  · split
    · exact h
    · split
      · split
        · exact legUnknown h
        · exact h
      · exact h

theorem endOverdue (h : s.MemInv) : s.endOverdue.MemInv := foldl (fun _ _ h1 => unknown h1) h

theorem pass {cycles ps} (h : s.MemInv) : (s.pass cycles ps).MemInv :=
  foldl (fun _ _ h1 => catchUp h1) (endOverdue (rewayDue (withNowSync (countCycles h))))

theorem reportSend {die dev} (h : s.MemInv) : (s.reportSend die dev).MemInv := by
  unfold State.reportSend
  extract_lets q
  split
  · exact h
  · exact leave h

theorem reported {die r} (h : s.MemInv) : (s.reported die r).MemInv := by
  unfold State.reported
  split
  · exact countStale h
  · exact setRecv h

theorem reportArrival {r} (h : s.MemInv) : (s.reportArrival r).MemInv := by
  unfold State.reportArrival
  split
  · split
    · exact reported h
    · exact h
  · exact atPort (fun _ h2 => reported h2) h

theorem seqClose {srcdie srcdev} (h : s.MemInv) : (s.seqClose srcdie srcdev).MemInv := by
  unfold State.seqClose
  extract_lets r ripe r1
  split
  · exact h
  · exact setRecv h

theorem serveGet {gw r} (h : s.MemInv) : (s.serveGet gw r).MemInv := by
  unfold State.serveGet
  extract_lets die g refuse found
  split
  · exact countStale h
  · have hfound : found.1.MemInv := by
      unfold found
      split
      · exact gatewayPlaces h
      · split <;> exact h
    clear_value found
    split
    · exact answer hfound
    · split
      next heq => exact answer (of_eq (readPlaces hfound) heq)
      next heq => exact foldl (fun _ _ ht => sendWrite ht) (of_eq (readPlaces hfound) heq)

theorem partXfer {core dst p} (h : s.MemInv) : (s.partXfer core dst p).1.MemInv := by
  unfold State.partXfer
  split
  · exact h
  · extract_lets l x
    exact h

theorem partPacket {g core dst p} (h : s.MemInv) : (s.partPacket g core dst p).MemInv := by
  unfold State.partPacket
  extract_lets r x next cells body w last s1
  have hr : r.1.MemInv := partXfer h
  have hw : w.1.MemInv := sendWrite hr
  have hs1 : s1.MemInv := setXfer (pace (noteWindow hw))
  split
  · exact progress (chargeSent (dropHeld hs1))
  · exact hs1

theorem partSend {i} (h : s.MemInv) : (s.partSend i).MemInv := by
  unfold State.partSend
  extract_lets all
  split
  · exact h
  · split
    · exact h
    · split
      · exact h
      · split
        · exact withHalos (chargeSent (dropHeld h))
        · exact h
      · extract_lets dst
        split
        · exact partPacket h
        · exact h

end State.MemInv

end Sys2Proof.Machine
end

section /-! PROOF. Memory stays in canonical form under gather, scatter, walk and merge (Machine/Gather). -/
namespace Sys2Proof.Machine
open Sys2Proof

namespace State.MemInv

-- One after another: the case splits share what Lean generates for them.
set_option Elab.async false

variable {s : State}

theorem gatherElement {grove id i} (h : s.MemInv) : (s.gatherElement grove id i).MemInv := by
  unfold State.gatherElement
  split
  · exact h
  · split
    · exact h
    · split
      · exact h
      · extract_lets put fail from_
        split
        · exact setEngine (reportBank h)
        · extract_lets off
          split
          · exact setEngine h
          · split
            next heq5 => exact setEngine (of_eq (places h) heq5)
            next heq5 =>
              split
              · exact setEngine (reportBank (of_eq (places h) heq5))
              · exact setEngine (of_eq (places h) heq5)

theorem addWord {mode e k} (h : s.MemInv) : (s.addWord mode e k).MemInv := by
  unfold State.addWord
  extract_lets w places s1 old v new
  have hs1 : s1.MemInv := foldl (fun _ _ h1 => settle h1) h
  split
  · exact homeWrite hs1
  · exact foldl (fun _ _ h2 => homeWrite h2) hs1

theorem performPiece {core o streaming e p} (h : s.MemInv) : (s.performPiece core o streaming e p).1.MemInv := by
  unfold State.performPiece
  split
  · split
    next heq1 => exact of_eq (readHomeAs h) heq1
    next heq1 => exact takeRecord (of_eq (readHomeAs h) heq1)
  · extract_lets w words
    exact foldl (fun _ _ h2 => addWord h2) h

theorem performElem {core o streaming sector e} (h : s.MemInv) : (s.performElem core o streaming sector e).1.MemInv := by
  unfold State.performElem
  refine foldl_fst (fun _ _ h1 => ?_) h
  split
  · dsimp only
    exact performPiece h1
  · exact h1

theorem performGroup {core o streaming sector es top} (h : s.MemInv) : (s.performGroup core o streaming sector es top).1.MemInv := by
  unfold State.performGroup
  extract_lets ps d ws mark s1 r
  have hs1 : s1.MemInv := foldl (fun _ _ h1 => settle h1) h
  have hr : r.1.MemInv := by
    unfold r
    refine foldl_fst (fun _ _ h2 => ?_) hs1
    extract_lets u
    have hu : u.1.MemInv := performElem h2
    exact hu
  split
  · exact homeWritesAs (foldl (fun _ _ h2 => recallRange h2) h)
  · split
    · exact reportBad hs1
    · exact hr

theorem groupAccess {grove id sector elem} (h : s.MemInv) : (s.groupAccess grove id sector elem).MemInv := by
  unfold State.groupAccess
  split
  · exact h
  · split
    · exact h
    · extract_lets lowest in_ group r elems
      have hr : r.1.MemInv := performGroup h
      split
      · exact h
      · exact putEngine hr

theorem lineReturn {grove id line} (h : s.MemInv) : (s.lineReturn grove id line).MemInv := by
  unfold State.lineReturn
  split
  · exact h
  · split
    · exact h
    · extract_lets total lo n
      split
      · exact h
      · split
        · exact h
        · exact putEngine (bankWrite h)

theorem walkRead {grove c off n} (h : s.MemInv) : (s.walkRead grove c off n).1.MemInv := by
  unfold State.walkRead
  split
  · exact h
  · split
    next heq1 => exact of_eq (places h) heq1
    next heq1 =>
      split
      next heq2 => exact of_eq (readPlaces (of_eq (places h) heq1)) heq2
      next heq2 => exact of_eq (readPlaces (of_eq (places h) heq1)) heq2

theorem payloadBit {grove c off i} (h : s.MemInv) : (s.payloadBit grove c off i).1.MemInv := payload h

theorem walkEntries {k grove c pos row p nent} (h : s.MemInv) : (State.walkEntries k s grove c pos row p nent).1.MemInv := by
  induction k generalizing s c p nent with
  | zero => exact h
  | succ k ih =>
    unfold State.walkEntries
    extract_lets d
    split
    next heq => exact of_eq (walkRead h) heq
    next heq => exact ih (payload (of_eq (walkRead h) heq))

theorem walkRow {grove id} (h : s.MemInv) : (s.walkRow grove id).MemInv := by
  unfold State.walkRow
  split
  · exact h
  · split
    · extract_lets j nr d pw row z c halt first
      split
      · exact h
      · have hz : z.1.MemInv := by
          unfold z
          split
          · exact payload h
          · exact h
        have hhalt (t code) (ht : t.MemInv) : (halt t code).MemInv := putEngine ht
        have hfirst : first.1.MemInv := by
          unfold first
          split
          · exact hz
          · split
            next heq => exact of_eq (walkRead hz) heq
            next heq => exact of_eq (walkRead hz) heq
        clear_value first halt
        split
        · exact hhalt _ _ hfirst
        · split
          next heq => exact hhalt _ _ (of_eq (walkRead hfirst) heq)
          next s2 _ heq =>
            have h2 : s2.MemInv := of_eq (walkRead hfirst) heq
            extract_lets pb fin
            have hfin (t n) (ht : t.1.MemInv) : (fin t n).MemInv := putEngine (payload ht)
            clear_value fin
            split
            · exact hfin _ _ (payloadBit h2)
            · split
              · exact putEngine h2
              · split
                next heq3 => exact hhalt _ _ (setGrove_wf (of_eq (walkEntries h2) heq3) (h2.grove grove))
                next heq3 => exact hfin _ _ (of_eq (walkEntries h2) heq3)
    · exact h

theorem fibreHead {k grove c f bad} (h : s.MemInv) : (State.fibreHead k s grove c f bad).1.MemInv := by
  induction k generalizing s f bad with
  | zero => exact h
  | succ k ih =>
    unfold State.fibreHead
    split
    · exact h
    · split
      next heq1 => exact of_eq (walkRead h) heq1
      next heq1 =>
        extract_lets x
        split
        · split
          · exact ih (of_eq (walkRead h) heq1)
          · exact of_eq (walkRead h) heq1
        · split
          · exact ih (of_eq (walkRead h) heq1)
          · exact of_eq (walkRead h) heq1

theorem fibreHeads {grove c fs bad} (h : s.MemInv) : (s.fibreHeads grove c fs bad).1.MemInv := by
  induction fs generalizing s bad with
  | nil => exact h
  | cons f rest ih =>
    unfold State.fibreHeads
    split
    next heq => exact of_eq (fibreHead h) heq
    next heq => exact ih (of_eq (fibreHead h) heq)

theorem mergeStep {grove id} (h : s.MemInv) : (s.mergeStep grove id).MemInv := by
  unfold State.mergeStep
  split
  · exact h
  · split
    · split
      · exact h
      · extract_lets halt
        split
        next heq3 => exact setEngine (of_eq (fibreHeads h) heq3)
        next heq3 =>
          split
          · exact setEngine (of_eq (fibreHeads h) heq3)
          · extract_lets v c'
            split
            · exact setEngine (of_eq (fibreHeads h) heq3)
            · split
              · exact setEngine (of_eq (fibreHeads h) heq3)
              · split
                next heq7 => exact setEngine (of_eq (fibreHeads (of_eq (fibreHeads h) heq3)) heq7)
                next heq7 => exact putEngine (payload (of_eq (fibreHeads (of_eq (fibreHeads h) heq3)) heq7))
    · exact h

theorem engineEnd {grove id} (h : s.MemInv) : (s.engineEnd grove id).MemInv := by
  unfold State.engineEnd
  split
  · exact h
  · split
    · exact h
    · split
      · exact h
      · dsimp only
        refine putEngine (complete ?_)
        split
        · refine logEngine ?_
          split
          · exact payload h
          · exact h
        · split
          · exact payload h
          · exact h

end State.MemInv

end Sys2Proof.Machine
end

section /-! PROOF. Memory stays in canonical form under bindings (Machine/Bindings). -/
namespace Sys2Proof.Machine
open Sys2Proof

namespace State.MemInv

-- One after another: the case splits share what Lean generates for them.
set_option Elab.async false

variable {s : State}

theorem ncReads {core d ps} (h : s.MemInv) : (s.ncReads core d ps).1.MemInv := by
  unfold State.ncReads
  refine foldl_fst (fun _ _ h1 => ?_) h
  split
  · exact h1
  · split
    next heq2 => exact reportBad (of_eq (ncLoad h1) heq2)
    next heq2 => exact of_eq (ncLoad h1) heq2

theorem groupBytes {core d off} (h : s.MemInv) : (s.groupBytes core d off).1.MemInv := by
  unfold State.groupBytes
  split
  · exact h
  · split
    · split
      · exact h
      · exact reportBank h
    · split
      next heq2 => exact of_eq (pieces h) heq2
      next heq2 =>
        split
        next heq3 => exact of_eq (ncReads (of_eq (pieces h) heq2)) heq3
        next heq3 => exact of_eq (ncReads (of_eq (pieces h) heq2)) heq3

theorem writeGroup {g bs} (h : s.MemInv) : (s.writeGroup g bs).MemInv := by
  unfold State.writeGroup
  split
  · exact h
  · exact h

theorem gtw {core g m d off} (h : s.MemInv) : (s.gtw core g m d off).1.MemInv := by
  unfold State.gtw
  split
  next heq => exact of_eq (groupBytes h) heq
  next heq =>
    split
    · exact of_eq (groupBytes h) heq
    · exact writeGroup (of_eq (groupBytes h) heq)

theorem dropLeaves {asid lo len} (h : s.MemInv) : (s.dropLeaves asid lo len).MemInv := by
  refine ⟨⟨h.1.1, h.1.2.1, fun p hp => ?_⟩, h.2⟩
  obtain ⟨q, hq, rfl⟩ := List.mem_map.1 hp
  exact h.1.2.2 q hq

theorem dropLines {pa n} (h : s.MemInv) : (s.dropLines pa n).MemInv := foldl (fun _ _ h1 => flushRange h1) h

theorem invalReply {grove cmd} (h : s.MemInv) : (s.invalReply grove cmd).MemInv := h

theorem zeroUnits {us} (h : s.MemInv) : (s.zeroUnits us).MemInv :=
  ⟨⟨Memory.wf_filter h.1.1 _, h.1.2⟩, h.2⟩

theorem arraysFault {d as} (h : s.MemInv) : (s.arraysFault d as).1.MemInv := by
  unfold State.arraysFault
  split
  · exact h
  · extract_lets g
    split
    · exact reportBank h
    · exact h

theorem unbindSpace {n} (h : s.MemInv) : (s.unbindSpace n).MemInv := h

theorem unbindGrid {n} (h : s.MemInv) : (s.unbindGrid n).MemInv := h

theorem bindSpace {m g n h'} (h : s.MemInv) : (s.bindSpace m g n h').1.MemInv := by
  unfold State.bindSpace
  extract_lets bsz osz at_ bounds eps s1 owners
  have hs1 : s1.MemInv := unbindSpace h
  split
  next heq => exact of_eq (arraysFault h) heq
  · split
    · exact h
    · split
      · exact h
      · exact setSpace hs1

theorem bindGrid {m g n h'} (h : s.MemInv) : (s.bindGrid m g n h').1.MemInv := by
  unfold State.bindGrid
  extract_lets osz at_ consts eps epBad s1
  have hs1 : s1.MemInv := unbindGrid h
  split
  next heq => exact of_eq (arraysFault h) heq
  · split
    · exact h
    · split
      · exact h
      · exact setGrid (zeroUnits hs1)

end State.MemInv

end Sys2Proof.Machine
end

section /-! PROOF. Memory stays in canonical form under faults (Machine/Faults). -/
namespace Sys2Proof.Machine
open Sys2Proof

namespace State.MemInv

-- One after another: the case splits share what Lean generates for them.
set_option Elab.async false

variable {s : State}

theorem raiseLate {cid core c e young f} (h : s.MemInv) : (s.raiseLate cid core c e young f).MemInv := by
  unfold State.raiseLate
  extract_lets g stay out s1 s2 saved late s3
  have hs1 : s1.MemInv := by
    unfold s1
    refine foldl (fun _ _ h2 => ?_) h
    split
    · exact leaveMat h2
    · exact h2
  have hs2 : s2.MemInv := sendRests hs1
  have hs3 : s3.MemInv := fetchLines hs2
  exact wakeCore (updCtx hs3)

theorem lateFault {cid seq} (h : s.MemInv) : (s.lateFault cid seq).MemInv := by
  unfold State.lateFault
  split
  · exact h
  · split
    · split
      · exact h
      · split
        · exact h
        · extract_lets s1
          have hs1 : s1.MemInv := by
            unfold s1
            split
            · split
              · exact vmemRun h
              · exact h
            · exact h
          exact raiseLate hs1
    · exact h

theorem takePending {core} (h : s.MemInv) : (s.takePending core).MemInv := by
  unfold State.takePending
  split
  · exact h
  · split
    · exact h
    · split
      · exact h
      · refine takeTrap ?_
        split
        · exact setCtx h
        · exact h

end State.MemInv

end Sys2Proof.Machine
end

section /-! PROOF. Memory stays in canonical form under fences (Machine/Fence). -/
namespace Sys2Proof.Machine
open Sys2Proof

namespace State.MemInv

-- One after another: the case splits share what Lean generates for them.
set_option Elab.async false

variable {s : State}

theorem fenceActs {core k sc} (h : s.MemInv) : (s.fenceActs core k sc).MemInv := by
  unfold State.fenceActs
  split
  · exact h
  · extract_lets s1
    have hs1 : s1.MemInv := by
      unfold s1
      split
      · exact releaseFence h
      · exact h
    split
    · exact acquireFence hs1
    · exact hs1

theorem waitPlace {core d off} (h : s.MemInv) : (s.waitPlace core d off).1.MemInv := by
  unfold State.waitPlace
  split
  · exact h
  · split
    · exact h
    · split
      next heq2 => exact of_eq (accessPa h) heq2
      next heq2 => exact of_eq (accessPa h) heq2

theorem arm {cid w} (h : s.MemInv) : (s.arm cid w).MemInv := updCtx h

theorem disarm {cid} (h : s.MemInv) : (s.disarm cid).MemInv := updCtx h

end State.MemInv

end Sys2Proof.Machine
end

section /-! PROOF. Memory stays in canonical form under the events of the homes (Machine/Home). -/
namespace Sys2Proof.Machine
open Sys2Proof

namespace State.MemInv

-- One after another: the case splits share what Lean generates for them.
set_option Elab.async false

variable {s : State}

theorem l1RoomFor {g line victim} (h : s.MemInv) : (s.l1RoomFor g line victim).MemInv := by
  unfold State.l1RoomFor
  extract_lets full
  split
  · split
    · split
      · exact dropL1 (writeBackLine h)
      · exact l1Room h
    · exact l1Room h
  · exact l1Room h

theorem l1Fill {g line sectors victim} (h : s.MemInv) : (s.l1Fill g line sectors victim).MemInv := by
  unfold State.l1Fill
  extract_lets cores kind s0 l miss s1 s2 recs s3 l'
  have hs0 : s0.MemInv := recallLine h
  have hs1 : s1.MemInv := foldl (fun _ _ h1 => roundSums h1) hs0
  have hs2 : s2.MemInv := by
    unfold s2
    split
    · exact hs1
    · exact l1RoomFor hs1
  have hs3 : s3.MemInv := touch (foldl (fun _ _ h1 => pend h1) hs2)
  split
  · exact h
  · exact setGrove hs3

theorem performWriteBack {g line drop} (h : s.MemInv) : (s.performWriteBack g line drop).MemInv := by
  unfold State.performWriteBack
  split
  · exact h
  · split
    · exact h
    · dsimp only
      split
      · exact dropL1 (writeBackLine h)
      · exact sweep (setGrove (writeBackLine h))

theorem askWriteBack {g line drop} (h : s.MemInv) : (s.askWriteBack g line drop).MemInv := by
  unfold State.askWriteBack
  split
  · exact h
  · split
    · exact h
    · split
      · split
        · exact h
        · exact h
      · exact performWriteBack h

theorem foundBad {pa} (h : s.MemInv) : (s.foundBad pa).MemInv := by
  unfold State.foundBad
  extract_lets q g
  split
  · exact machineCheck h
  · exact machineCheck h

theorem logCorrected {d w} (h : s.MemInv) : (s.logCorrected d w).MemInv := setDie h

theorem sramError {p bad} (h : s.MemInv) : (s.sramError p bad).MemInv := by
  unfold State.sramError
  extract_lets at_ code
  split
  · exact logCorrected h
  · split
    · exact h
    · exact machineCheck h

theorem homeDo {r} (h : s.MemInv) : (s.homeDo r).MemInv := by
  unfold State.homeDo
  split
  · exact askWriteBack h
  · split
    · exact h
    · exact spill h
  · split
    · exact h
    · exact logCorrected h
  · split
    · exact h
    · exact foundBad h
  · exact sramError h

end State.MemInv

end Sys2Proof.Machine
end

section /-! PROOF. Memory stays in canonical form under messages (Machine/Messages). -/
namespace Sys2Proof.Machine
open Sys2Proof

namespace State.MemInv

-- One after another: the case splits share what Lean generates for them.
set_option Elab.async false

variable {s : State}

theorem enqueue {x} (h : s.MemInv) : (s.enqueue x).MemInv := withSerialXfers (setCore h)

theorem divert {cid c w} (h : s.MemInv) : (s.divert cid c w).MemInv := updCtx (homeWrite h)

theorem divertMsg {die cid c w} (h : s.MemInv) : (s.divertMsg die cid c w).1.MemInv := by
  unfold State.divertMsg
  split
  · extract_lets s1 s2
    have hs1 : s1.MemInv := bump h
    have hs2 : s2.MemInv := raiseCause hs1
    split
    · exact hs1
    · exact setCtx hs2
  · exact divert h

theorem deliverMsg {p} (h : s.MemInv) : (s.deliverMsg p).1.MemInv := by
  unfold State.deliverMsg
  extract_lets k die core room t active cid
  split
  · exact setCore h
  · split
    · exact h
    · split
      · exact bump h
      · split
        · exact bump h
        · exact divertMsg h

theorem msgArrival {gw p} (h : s.MemInv) : (s.msgArrival gw p).MemInv := by
  unfold State.msgArrival
  extract_lets die key q r
  split
  · exact h
  · split
    · exact countStale h
    · split
      · split
        next heq3 => exact answer (withMsgRecvs (of_eq (deliverMsg h) heq3))
        next heq3 => exact answer (of_eq (deliverMsg h) heq3)
      · split
        · exact answer (countDup h)
        · exact countLate h

theorem msgRetry {core idx} (h : s.MemInv) : (s.msgRetry core idx).MemInv := by
  unfold State.msgRetry
  split
  · extract_lets due
    split
    · exact sendMsg h
    · exact h
  · exact h

theorem msgSilence {die dev seq} (h : s.MemInv) : (s.msgSilence die dev seq).MemInv := by
  unfold State.msgSilence
  split
  · exact h
  · dsimp only
    refine psuTo ?_
    split
    · exact setSend (countUnknown (setCore h))
    · exact leave (setSend (countUnknown (setCore h)))

theorem closed {die n} (h : s.MemInv) : (s.closed die n).MemInv := by
  unfold State.closed
  split
  · exact countStale h
  · extract_lets q key r s1
    have hs1 : s1.MemInv := by
      unfold s1
      split
      · exact h
      · exact h
    exact answer hs1

theorem closeNotice {n} (h : s.MemInv) : (s.closeNotice n).MemInv := by
  unfold State.closeNotice
  split
  · split
    · exact closed h
    · exact h
  · split
    · exact h
    · exact atPort (fun _ h3 => closed h3) h

theorem resetPair {dev} (h : s.MemInv) : (s.resetPair dev).MemInv := withRecvsMsgRecvs (foldl (fun _ _ h1 => setSend h1) h)

theorem bringup {port ver feat win devid} (h : s.MemInv) : (s.bringup port ver feat win devid).MemInv := by
  unfold State.bringup
  split
  · exact h
  · split
    · exact logDie h
    · split
      · exact logDie h
      · exact h

theorem creditArrival {port sent freed} (h : s.MemInv) : (s.creditArrival port sent freed).MemInv := by
  unfold State.creditArrival
  extract_lets p n
  split
  · exact h
  · exact bump h

theorem writeFabwin {w} (h : s.MemInv) : (s.writeFabwin w).MemInv := by
  unfold State.writeFabwin
  extract_lets s0 len
  have hs0 : s0.MemInv := by
    unfold s0
    split
    · exact logHost h
    · exact h
  split
  · exact hs0
  · split
    · exact logHost hs0
    · exact hs0

end State.MemInv

end Sys2Proof.Machine
end

section /-! PROOF. Memory stays in canonical form under mailboxes and host queues (Machine/Mailbox). -/
namespace Sys2Proof.Machine
open Sys2Proof

namespace State.MemInv

-- One after another: the case splits share what Lean generates for them.
set_option Elab.async false

variable {s : State}

theorem setMbox {m b} (h : s.MemInv) : (s.setMbox m b).MemInv := h

theorem mbLook {m} (h : s.MemInv) : (s.mbLook m).MemInv := by
  unfold State.mbLook
  split
  · exact recallRange h
  · exact h

theorem post {m} (h : s.MemInv) : (s.post m).MemInv := by
  unfold State.post
  extract_lets t refuse tail
  have ht : t.MemInv := mbLook h
  split
  · split
    · exact setMbox ht
    · exact raiseCause (writeHome (writeHome ht))
  · exact setMbox ht

theorem mailSpawn {m} (h : s.MemInv) : (s.mailSpawn m).MemInv := by
  unfold State.mailSpawn
  extract_lets d bind t head
  have ht : t.MemInv := mbLook h
  split
  · split
    · exact h
    · exact writeHome (poolEnter (recallRange ht))
  · exact h

theorem hqPost {d c} (h : s.MemInv) : (s.hqPost d c).MemInv := by
  unfold State.hqPost
  extract_lets cid
  split
  · exact logHost h
  · split
    · exact logHost h
    · split
      · exact bump (updCtx h)
      · exact raiseCause (divert h)

theorem callBind {m} (h : s.MemInv) : (s.callBind m).1.MemInv := by
  unfold State.callBind
  dsimp only
  split
  · exact h
  · exact setMbox h

theorem callGroup {core m} (h : s.MemInv) : (s.callGroup core m).1.MemInv := by
  unfold State.callGroup
  extract_lets g n
  split
  · exact h
  · split
    next heq1 => exact of_eq (gtw h) heq1
    next heq1 => exact of_eq (gtw h) heq1

theorem callReinit {m} (h : s.MemInv) : (s.callReinit m).1.MemInv := by
  unfold State.callReinit
  dsimp only
  split
  · exact h
  · exact writeIncctl (setIncumbent h)

theorem callQueue {cid m} (h : s.MemInv) : (s.callQueue cid m).1.MemInv := by
  unfold State.callQueue
  extract_lets n c
  split
  · exact h
  · split
    · exact h
    · exact updCtx h

theorem firmwareCall {cid core n m} (h : s.MemInv) : (s.firmwareCall cid core n m).1.MemInv := by
  unfold State.firmwareCall
  split
  · exact callBind h
  · exact callGroup h
  · exact callReinit h
  · exact callQueue h
  · exact h

theorem finishCall {cid} (h : s.MemInv) : (s.finishCall cid).MemInv := by
  unfold State.finishCall
  split
  · exact h
  · split
    · exact h
    · dsimp only
      split
      · exact h
      · exact updCtx (redispatch (withHere (firmwareCall h)))

end State.MemInv

end Sys2Proof.Machine
end

section /-! PROOF. Memory stays in canonical form under tables (Machine/Tables). -/
namespace Sys2Proof.Machine
open Sys2Proof

namespace State.MemInv

-- One after another: the case splits share what Lean generates for them.
set_option Elab.async false

variable {s : State}

theorem recallEntry {k} (h : s.MemInv) : (s.recallEntry k).MemInv := foldl (fun _ _ h1 => pushLine h1) h

end State.MemInv

end Sys2Proof.Machine
end

section /-! PROOF. Memory stays in canonical form under the host, registers and CXL (Machine/Host). -/
namespace Sys2Proof.Machine
open Sys2Proof

namespace State.MemInv

-- One after another: the case splits share what Lean generates for them.
set_option Elab.async false

variable {s : State}

theorem countBad {d off bad} (h : s.MemInv) : (s.countBad d off bad).MemInv := by
  unfold State.countBad
  split
  · exact logHost h
  · exact h

theorem writeMbver {w} (h : s.MemInv) : (s.writeMbver w).MemInv := by
  unfold State.writeMbver
  extract_lets s0 sel
  have hs0 : s0.MemInv := countBad h
  split
  · exact logHost hs0
  · exact hs0

theorem writeLdcmd {w} (h : s.MemInv) : (s.writeLdcmd w).MemInv := withLdcmd (countBad h)

theorem writeCkcmd {w} (h : s.MemInv) : (s.writeCkcmd w).MemInv := by
  unfold State.writeCkcmd
  extract_lets s0 fields s1
  have hs0 : s0.MemInv := countBad h
  have hs1 : s1.MemInv := hs0
  split
  · exact hs1
  · split
    · exact hs1
    · exact hs1

theorem writePwrcap {w} (h : s.MemInv) : (s.writePwrcap w).MemInv := by
  unfold State.writePwrcap
  extract_lets n out s0
  have hs0 : s0.MemInv := countBad h
  split
  · exact hs0
  · exact hs0

theorem writeRasid {w} (h : s.MemInv) : (s.writeRasid w).MemInv := by
  unfold State.writeRasid
  split
  · exact logHost h
  · extract_lets s0
    have hs0 : s0.MemInv := countBad h
    split
    · exact hs0
    · exact hs0

theorem attest {value} (h : s.MemInv) : (s.attest value).MemInv := by
  have hstaging (bs : List Byte) : (s.staging.writes 0 bs).wf = true := Memory.wf_writes h.1.2.1 0 bs
  unfold State.attest
  split
  · exact h
  · split
    · extract_lets bs
      generalize bs ++ signature bs = cs
      exact ⟨⟨h.1.1, hstaging cs, h.1.2.2⟩, h.2⟩
    · exact h

theorem commandLoad {w} (h : s.MemInv) : (s.commandLoad w).MemInv := by
  unfold State.commandLoad
  split
  · exact logHost h
  · split
    · exact withLdsts (writeLdcmd h)
    · exact writeLdcmd h

theorem writeAttcmd {w} (h : s.MemInv) : (s.writeAttcmd w).MemInv := attest (countBad h)

theorem writeModule {i w} (h : s.MemInv) : (s.writeModule i w).MemInv := by
  unfold State.writeModule
  split
  · exact commandLoad h
  · exact countBad h
  · exact writeCkcmd h
  · exact countBad h
  · exact writeMbver h
  · exact writePwrcap h
  · exact writeFabwin h
  · exact writeRasid h
  · exact writeAttcmd h
  · split
    · exact writeIncctl h
    · split
      · exact setIncumbent h
      · exact h

theorem writePoolcfg {d w} (h : s.MemInv) : (s.writePoolcfg d w).MemInv := setDie (countBad h)

theorem clearKills {d} (h : s.MemInv) : (s.clearKills d).MemInv := setDie h

theorem popRecord {d} (h : s.MemInv) : (s.popRecord d).MemInv := by
  unfold State.popRecord
  split
  · exact h
  · dsimp only
    refine setCore ?_
    split
    · exact machineCheck (setDie (setDie h))
    · exact setDie h

theorem writeRgarea {d w} (h : s.MemInv) : (s.writeRgarea d w).MemInv := by
  unfold State.writeRgarea
  split
  · exact logHost h
  · exact setDie (countBad h)

theorem writeDie {d i w} (h : s.MemInv) : (s.writeDie d i w).MemInv := by
  unfold State.writeDie
  dsimp only
  split
  · exact writePoolcfg h
  · exact countBad h
  · exact clearKills h
  · exact setDie h
  · exact setDie h
  · exact setDie h
  · exact setDie (countBad h)
  · split
    · exact setDie (countBad h)
    · exact countBad h
  · exact countBad h
  · exact countBad h
  · exact popRecord h
  · exact writeRgarea h

theorem writeTemplate {d off n i w} (h : s.MemInv) : (s.writeTemplate d off n i w).MemInv := by
  unfold State.writeTemplate
  dsimp only
  split
  · exact countBad h
  · exact setDie (countBad h)

theorem clearLog {d which} (h : s.MemInv) : (s.clearLog d which).MemInv := setDie h

theorem writeQueue {d c i w} (h : s.MemInv) : (s.writeQueue d c i w).MemInv := by
  unfold State.writeQueue
  extract_lets off cid s1 s0
  have hs1 : s1.MemInv := updCtx h
  have hs0 : s0.MemInv := countBad h
  split
  · split
    · exact hqPost hs1
    · exact hs1
  · split
    · split
      · exact updCtx hs0
      · exact hs0
    · exact countBad h

theorem writeMailbox {d m i w} (h : s.MemInv) : (s.writeMailbox d m i w).MemInv := by
  unfold State.writeMailbox
  dsimp only
  split
  · split
    · exact post (setMbox h)
    · exact setMbox h
  · split
    · exact setMbox (countBad h)
    · exact countBad h

theorem writeReg {d off w} (h : s.MemInv) : (s.writeReg d off w).MemInv := by
  unfold State.writeReg
  split
  · split
    · exact writeModule h
    · exact h
  · split
    · exact withPtroot (countBad h)
    · exact h
  · exact writeDie h
  · exact writeTemplate h
  · exact clearLog h
  · exact logHost h
  · exact logHost h
  · exact logHost h
  · exact writeQueue h
  · exact writeMailbox h
  · exact logHost h

theorem appendRecord {d grove core src code info} (h : s.MemInv) : (s.appendRecord d grove core src code info).MemInv := by
  unfold State.appendRecord
  split
  · exact logDie h
  · exact h

theorem serviceTrap {k code data t} (h : s.MemInv) (e : s.serviceTrap k code data = some t) : t.MemInv := by
  unfold State.serviceTrap at e
  split at e
  · cases e
  · split at e
    · cases e
    · split at e
      · cases e
        exact takeTrap h
      · cases e

theorem serviceMc {d} (h : s.MemInv) : (s.serviceMc d).MemInv := by
  unfold State.serviceMc
  extract_lets k n
  split
  · exact h
  · split
    next heq1 => exact setCore (serviceTrap h heq1)
    · exact h

theorem serviceInt {d} (h : s.MemInv) : (s.serviceInt d).MemInv := by
  unfold State.serviceInt
  extract_lets k data
  split
  · exact h
  · split
    next heq1 => exact setCore (setDie (serviceTrap h heq1))
    · exact h

theorem spillRange {pa n} (h : s.MemInv) : (s.spillRange pa n).MemInv := by
  unfold State.spillRange
  refine foldl (fun _ _ h1 => ?_) h
  split
  · exact h1
  · exact spill h1

theorem hostAccess {base bytes a} (h : s.MemInv) : (s.hostAccess base bytes a).MemInv := by
  unfold State.hostAccess
  split
  · split
    · exact spillRange (settleRange h)
    · exact h
  · split
    · exact writeHome h
    · exact h

theorem islandServe {a} (h : s.MemInv) : (s.islandServe a).MemInv := by
  unfold State.islandServe
  split
  · exact h
  · dsimp only
    split
    · exact h
    · exact ⟨⟨Memory.wf_writes h.1.1 _ _, h.1.2⟩, h.2⟩

theorem memAccess {a} (h : s.MemInv) : (s.memAccess a).MemInv := by
  unfold State.memAccess
  split
  · exact islandServe h
  · split
    · exact hostAccess h
    · exact h

theorem islandAccess {a} (h : s.MemInv) : (s.islandAccess a).MemInv := by
  unfold State.islandAccess
  split
  · exact h
  · exact islandServe h

theorem reopenTier (h : s.MemInv) : s.reopenTier.MemInv := by
  unfold State.reopenTier
  split
  · exact h
  · exact h

theorem stage {off bs} (h : s.MemInv) : (s.stage off bs).MemInv := by
  unfold State.stage
  split
  · exact ⟨⟨h.1.1, Memory.wf_writes h.1.2.1 _ _, h.1.2.2⟩, h.2⟩
  · exact h

end State.MemInv

end Sys2Proof.Machine
end

section /-! PROOF. Memory stays in canonical form under loading and checkpoints (Machine/Load). -/
namespace Sys2Proof.Machine
open Sys2Proof

namespace State.MemInv

-- One after another: the case splits share what Lean generates for them.
set_option Elab.async false

variable {s : State}

theorem dieReset (h : s.MemInv) : s.dieReset.MemInv :=
  ⟨⟨Memory.wf_filter h.1.1 _, h.1.2.1, nofun⟩, h.2⟩

theorem clockStep (h : s.MemInv) : s.clockStep.MemInv := by
  unfold State.clockStep
  extract_lets n sum t
  have ht : t.MemInv := h
  split
  · exact h
  · split
    · exact ht
    · split
      · exact ht
      · split
        · exact ht
        · exact ht

theorem startFirmware {d n} (h : s.MemInv) : (s.startFirmware d n).MemInv := setCore (setCtx h)

theorem accept {d image} (h : s.MemInv) : (s.accept d image).MemInv := by
  unfold State.accept
  split
  · exact h
  · dsimp only
    split
    · exact reopenTier (foldl (fun _ _ h3 => foldl (fun _ _ h4 => startFirmware h4) h3) (setDie h))
    · exact setDie h

theorem pokeWord {pa w} (h : s.MemInv) : (s.pokeWord pa w).MemInv :=
  ⟨⟨Memory.wf_writes h.1.1 _ _, h.1.2⟩, h.2⟩

theorem mapLeaf {plan free table va pa shift flags t f} (h : s.MemInv)
    (e : State.mapLeaf plan s free table va pa shift flags = some (t, f)) : t.MemInv := by
  induction plan generalizing s free table with
  | nil => cases e
  | cons p rest ih =>
    unfold State.mapLeaf at e
    dsimp only at e
    split at e
    · cases e
      exact pokeWord h
    · split at e
      · exact ih h e
      · split at e
        · cases e
        · exact ih (pokeWord h) e

theorem mapAll {free root ms t f} (h : s.MemInv) (e : s.mapAll free root ms = some (t, f)) : t.MemInv := by
  induction ms generalizing s free with
  | nil =>
    cases e
    exact h
  | cons m rest ih =>
    unfold State.mapAll at e
    split at e
    next heq => exact ih (mapLeaf h heq) e
    · cases e

theorem loadDie {p ss heap rga d} (h : s.MemInv) : (s.loadDie p ss heap rga d).MemInv := setDie h

theorem loadProgram {plan hd ss t} (h : s.MemInv) (e : s.loadProgram plan hd ss = some t) : t.MemInv := by
  unfold State.loadProgram at e
  extract_lets heap rga files s1 put s2 at e
  have hput (u q) (hu : u.MemInv) : (put u q).MemInv := by
    unfold put
    split
    · exact ⟨⟨Memory.wf_writes hu.1.1 _ _, hu.1.2⟩, hu.2⟩
    · exact hu
  have hs2 : s2.MemInv := foldl hput (dieReset (withLdsts h))
  split at e
  · cases e
  · split at e
    · cases e
    next s3 _ heq =>
      have hs4 : ((List.range Config.dies).foldl (fun (t : State) d => t.loadDie plan ss heap rga d) s3).MemInv :=
        foldl (fun t d ht => loadDie ht) (mapAll hs2 heq)
      have hs5 := reopenTier hs4
      cases e
      exact poolEnter hs5

theorem carryLoad {plan} (h : s.MemInv) : (s.carryLoad plan).MemInv := by
  unfold State.carryLoad
  split
  · exact h
  · extract_lets hd ss own with_
    have hown : ∀ t, with_ = some t → t.MemInv := by
      intro t e
      unfold with_ at e
      split at e
      · exact loadProgram h e
      · cases e
    clear_value with_
    split
    · exact hown _ rfl
    · cases hl : s.loadProgram own hd ss with
      | none => exact h
      | some t => exact loadProgram h hl

theorem load {value plan} (h : s.MemInv) : (s.load value plan).MemInv := by
  unfold State.load
  split
  · exact logHost h
  · extract_lets s0
    have hs0 : s0.MemInv := writeLdcmd h
    split
    · exact hs0
    · exact carryLoad hs0

theorem pauseAll {b} (h : s.MemInv) : (s.pauseAll b).MemInv := foldl (fun _ _ h1 => setDie h1) h

theorem ckBegin (h : s.MemInv) : s.ckBegin.MemInv := by
  unfold State.ckBegin
  split
  · exact withCkstsCkPhase (pauseAll h)
  · exact h

theorem spillAll (h : s.MemInv) : s.spillAll.MemInv := foldl (fun _ _ h1 => spillSectors h1) h

theorem writeBackAll (h : s.MemInv) : s.writeBackAll.MemInv :=
  spillAll (foldl (fun _ _ h1 => roundSums h1) (foldl (fun _ _ h1 => drainGrove (foldl (fun _ _ h2 => dropL1 (writeBackLine h2)) h1)) h))

theorem putStateBlock (h : s.MemInv) : s.putStateBlock.MemInv := by
  unfold State.putStateBlock
  dsimp only
  split
  · exact ⟨⟨Memory.wf_writes h.1.1 _ _, h.1.2⟩, h.2⟩
  · exact h

theorem ckQuiesced (h : s.MemInv) : s.ckQuiesced.MemInv := by
  unfold State.ckQuiesced
  split
  · exact withCoresCkPhase (putStateBlock (writeBackAll h))
  · exact h

theorem toCheckpoint (h : s.MemInv) : s.toCheckpoint.Canonical := by
  refine ⟨Memory.wf_filter h.1.1 _, fun c hc => ?_, fun p hp => ?_⟩
  · simpa [inHbm] using (List.mem_filter.1 hc).2
  · obtain ⟨q, hq, rfl⟩ := List.mem_map.1 hp
    exact h.1.2.2 q hq

theorem ckDone (h : s.MemInv) : s.ckDone.MemInv := by
  unfold State.ckDone
  split
  · exact h
  · extract_lets t base k cells
    have ht : t.MemInv := spillAll h
    have hpause : (t.pauseAll false).MemInv := pauseAll ht
    have hdram : (Memory.put (t.dram.filter fun c => !inRegion s.ckOff c.1) cells).wf = true := Memory.wf_put (Memory.wf_filter ht.1.1 _) cells
    have hk : k.Canonical := toCheckpoint ht
    clear_value k cells
    exact ⟨⟨hdram, hpause.1.2⟩, List.forall_mem_cons.2 ⟨hk, ht.2⟩⟩

/-- A checkpoint's HBM lies below the memory that a restore keeps (R424). -/
theorem reload {k : Checkpoint} (h : s.MemInv) (hk : k.Canonical) : (s.reload k).MemInv := by
  obtain ⟨hdram, hlow, hgroves⟩ := hk
  refine ⟨⟨Memory.wf_append hdram (Memory.wf_filter h.1.1 _) fun c hc q hq => ?_, h.1.2.1, hgroves⟩, h.2⟩
  have hq2 := (List.mem_filter.1 hq).2
  have hc2 := hlow c hc
  simp only [inHbm, Bool.not_eq_true', decide_eq_false_iff_not, Nat.not_lt] at hq2
  omega

theorem carryRestore (h : s.MemInv) : s.carryRestore.MemInv := by
  unfold State.carryRestore
  split
  next k heq =>
    have hk : k ∈ s.saves := by
      unfold State.regionSave at heq
      split at heq
      · exact List.mem_of_find?_eq_some heq
      · cases heq
    exact withLdsts (reopenTier (reload (dieReset h) (h.2 k hk)))
  · exact h

theorem restore {value} (h : s.MemInv) : (s.restore value).MemInv := by
  unfold State.restore
  split
  · exact logHost h
  · extract_lets s0
    have hs0 : s0.MemInv := writeLdcmd h
    split
    · exact hs0
    · exact carryRestore hs0

theorem carryOn {plan} (h : s.MemInv) : (s.carryOn plan).MemInv := by
  unfold State.carryOn
  split
  · exact h
  · split
    · exact carryRestore h
    · exact carryLoad h

end State.MemInv

end Sys2Proof.Machine
end

section /-! PROOF. Memory stays in canonical form under a step (Machine/Step). -/
namespace Sys2Proof.Machine
open Sys2Proof

namespace State.MemInv

-- One after another: the case splits share what Lean generates for them.
set_option Elab.async false

variable {s : State}

theorem fetch {core m} (h : s.MemInv) : (s.fetch core m).1.MemInv := by
  unfold State.fetch
  split
  next heq => exact of_eq (translate h) heq
  next heq =>
    split
    · exact of_eq (translate h) heq
    · extract_lets d
      split
      next heq2 => exact reportBad (of_eq (readHome (of_eq (translate h) heq)) heq2)
      next heq2 => exact of_eq (readHome (of_eq (translate h) heq)) heq2

theorem keepEarly {c} (h : s.MemInv) : (s.keepEarly c).MemInv := by
  unfold State.keepEarly
  split
  · exact h
  · exact dropEarly h

theorem serviceDue {t} (h : s.MemInv) (e : s.serviceDue = some t) : t.MemInv := by
  unfold State.serviceDue at e
  dsimp only at e
  split at e
  · cases e
  · split at e
    · split at e
      · cases e
      · cases e
        exact serviceMc h
    · split at e
      · split at e
        · cases e
        · cases e
          exact serviceInt h
      · cases e

theorem elapse {n} (h : s.MemInv) : (s.elapse n).MemInv := pass h

theorem idle (h : s.MemInv) : s.idle.MemInv := withStalled (makeAllReady (elapse h))

end State.MemInv

end Sys2Proof.Machine
end

section /-! PROOF. Memory stays in canonical form under what an instruction does, by the shape of its execution. -/
namespace Sys2Proof.Machine
open Sys2Proof

/-- The state that an instruction leaves before its end (commit, trap, wait) has canonical memory. -/
def Eff.MemInv (e : Eff) : Prop :=
  match e with
  | .done s _ => s.MemInv
  | .trap s _ => s.MemInv
  | .after s _ _ => s.MemInv
  | .block s _ => s.MemInv
  | .stall s => s.MemInv
  | .hold s => s.MemInv
  | .left s => s.MemInv

/-- An answer with a next state leaves memory canonical. -/
def Out.MemInv (o : Out) : Prop :=
  match o with
  | .next t => t.MemInv
  | _ => True

theorem Eff.MemInv.state {e : Eff} {cid c} (h : e.MemInv) : (e.state cid c).MemInv := by
  cases e with
  | done s img => exact State.MemInv.commit h
  | trap s f => exact State.MemInv.takeTrap h
  | after s img f => exact State.MemInv.takeTrap (State.MemInv.commit h)
  | block s w => exact State.MemInv.block h
  | stall s => exact h
  | hold s => exact State.MemInv.setHolding h
  | left s => exact h

namespace State.MemInv

-- One after another: the case splits share what Lean generates for them.
set_option Elab.async false

variable {s : State}

theorem runInstr {sys accept regs f} (h : s.MemInv) (hf : ∀ cid c, (f s cid c).MemInv) : (runInstr sys accept regs f s).MemInv := by
  unfold Machine.runInstr
  split
  · trivial
  · refine Eff.MemInv.state ?_
    split
    · exact h
    · split
      · exact h
      · split
        · exact h
        · exact hf _ _

theorem runRegs {rmTaken regs f} (h : s.MemInv) : (runRegs rmTaken regs f s).MemInv := by
  refine runInstr h fun cid c => ?_
  split
  · exact h
  · exact h

theorem runAlu {len d srcs f} (h : s.MemInv) : (runAlu len d srcs f s).MemInv := runRegs h

theorem runBranch {w len cc a b} {off : BitVec w} (h : s.MemInv) : (runBranch len cc a b off s).MemInv := runRegs h

theorem runJal {w len d} {off : BitVec w} (h : s.MemInv) : (runJal len d off s).MemInv := runRegs h

theorem runLoop {w len a} {off : BitVec w} (h : s.MemInv) : (runLoop len a off s).MemInv := runRegs h

theorem runFp {len d srcs f} (h : s.MemInv) : (runFp len d srcs f s).MemInv := runRegs h

theorem runFpBits {d srcs f} (h : s.MemInv) : (runFpBits d srcs f s).MemInv := runRegs h

theorem runToInt {dst d a} (h : s.MemInv) : (runToInt dst d a s).MemInv := runRegs h

theorem runOfInt {src d a} (h : s.MemInv) : (runOfInt src d a s).MemInv := runRegs h

theorem runLea {len d xo seg disp} (h : s.MemInv) : (runLea len d xo seg disp s).MemInv := runRegs h

theorem runMem {sys regs f} (h : s.MemInv) (hf : ∀ cid c, (f s cid c).MemInv) : (runMem sys regs f s).MemInv := by
  refine runInstr h fun cid c => ?_
  split_ifs
  · exact h
  · exact hf cid c

theorem runRing {accept len i} (h : s.MemInv) : (runRing accept len i s).MemInv := by
  refine runInstr h fun cid c => ?_
  split
  · exact h
  · split_ifs
    · exact h
    · exact count (pushRing h)

end State.MemInv

end Sys2Proof.Machine
end

section /-! PROOF. Memory stays in canonical form under each instruction and event. -/
namespace Sys2Proof.Machine
open Sys2Proof

namespace State.MemInv

-- One after another: the case splits share what Lean generates for them.
set_option Elab.async false

variable {s : State}

theorem execInstructionFetchFault {code detail} (h : s.MemInv) : (Machine.execInstructionFetchFault code detail s).MemInv := by
  unfold Machine.execInstructionFetchFault
  split
  · exact trivial
  · exact takeTrap h

theorem execIllegalInstruction {w} (h : s.MemInv) : (Machine.execIllegalInstruction w s).MemInv := by
  unfold Machine.execIllegalInstruction
  split
  · exact trivial
  · exact takeTrap h

theorem execCrd {d r} (h : s.MemInv) : (Machine.execCrd d r s).MemInv := by
  unfold Machine.execCrd
  refine runInstr h (fun _ _ => ?_)
  split
  · exact h
  · exact h

theorem execCwr {r a} (h : s.MemInv) : (Machine.execCwr r a s).MemInv := by
  unfold Machine.execCwr
  refine runInstr h (fun _ _ => ?_)
  extract_lets w t
  have ht : t.1.MemInv := writeCreg h
  split
  · exact h
  · split
    · exact h
    · exact ht

theorem execSys {n} (h : s.MemInv) : (Machine.execSys n s).MemInv := runInstr h (fun _ _ => h)

theorem execBrk {n} (h : s.MemInv) : (Machine.execBrk n s).MemInv := runInstr h (fun _ _ => h)

theorem execEret (h : s.MemInv) : (Machine.execEret s).MemInv := by
  unfold Machine.execEret
  refine runInstr h (fun _ _ => ?_)
  split
  · exact h
  · split
    · exact h
    · exact acknowledge (redispatch h)

theorem execExit (h : s.MemInv) : (Machine.execExit s).MemInv := by
  unfold Machine.execExit
  refine runInstr h (fun _ _ => ?_)
  split
  · exact h
  · split
    · exact h
    · exact retire (commit h)

theorem execVmaxx {d a w} (h : s.MemInv) : (Machine.execVmaxx d a w s).MemInv := by
  unfold Machine.execVmaxx
  refine runInstr h (fun _ _ => ?_)
  split
  · exact h
  · split
    · exact h
    · exact setCore (count (pushRing h))

theorem execVclaim {nm1} (h : s.MemInv) : (Machine.execVclaim nm1 s).MemInv := by
  unfold Machine.execVclaim
  refine runInstr h (fun _ _ => ?_)
  dsimp only
  split
  · exact h
  · split
    · split
      · exact h
      · split
        · split
          · exact grantClaims (setGrove (updCtx h))
          · exact grantClaims (setGrove (updCtx h))
        · exact grantClaims (setGrove (updCtx h))
    · split
      · exact h
      · split
        · split
          · exact grantClaims (setGrove (updCtx h))
          · exact grantClaims (setGrove (updCtx h))
        · exact grantClaims (setGrove (updCtx h))

theorem execVrelease (h : s.MemInv) : (Machine.execVrelease s).MemInv := by
  unfold Machine.execVrelease
  refine runInstr h (fun _ _ => ?_)
  split
  · exact h
  · exact releaseLent h

theorem runLoad {signed n len d xo seg disp nc acq} (h : s.MemInv) : (Machine.runLoad signed n len d xo seg disp nc acq s).MemInv := by
  unfold Machine.runLoad
  refine runMem h (fun _ _ => ?_)
  split
  next heq1 => exact of_eq (segLoad h) heq1
  next heq1 => exact of_eq (segLoad h) heq1

theorem runStore {n len d xo seg disp rel} (h : s.MemInv) : (Machine.runStore n len d xo seg disp rel s).MemInv := by
  unfold Machine.runStore
  refine runMem h (fun _ _ => ?_)
  split
  · exact h
  · split
    next heq2 => exact of_eq (segStore h) heq2
    next heq2 => exact of_eq (segStore h) heq2

theorem runAmo {op wide d xo b seg disp acq rel sc} (h : s.MemInv) : (Machine.runAmo op wide d xo b seg disp acq rel sc s).MemInv := by
  refine runMem h fun cid c => ?_
  extract_lets g n off v e fin
  have hfin {t w} (ht : t.MemInv) : (fin t w).MemInv := ht
  clear_value fin
  split
  · exact h
  · split
    · exact h
    · split
      · exact h
      · split
        · split
          · exact reportBank h
          · extract_lets s1
            have hs1 : s1.MemInv := bankWrite h
            refine hfin ?_
            split
            · exact invalidate hs1
            · exact hs1
        · split
          next heq4 => exact of_eq (accessPa h) heq4
          next heq4 =>
            split
            next heq5 => exact reportBad (of_eq (amoAt (of_eq (accessPa h) heq4)) heq5)
            next heq5 => exact hfin (of_eq (amoAt (of_eq (accessPa h) heq4)) heq5)

theorem runFence {k sc} (h : s.MemInv) : (Machine.runFence k sc s).MemInv := by
  unfold Machine.runFence
  refine runMem h (fun _ _ => ?_)
  split
  · exact h
  · exact fenceActs h

theorem execFenceW (h : s.MemInv) : (Machine.execFenceW s).MemInv := by
  unfold Machine.execFenceW
  refine runInstr h (fun _ _ => ?_)
  extract_lets w k t
  have ht : t.MemInv := setCore h
  split
  · exact setCtx h
  · exact setCtx ht

theorem execWaita {cc d xo b seg disp acq} (h : s.MemInv) : (Machine.execWaita cc d xo b seg disp acq s).MemInv := by
  unfold Machine.execWaita
  refine runMem h (fun _ _ => ?_)
  extract_lets m g off
  split
  next heq1 => exact of_eq (waitPlace h) heq1
  next heq1 =>
    split
    · exact retire (of_eq (waitPlace h) heq1)
    · split
      next heq3 => exact of_eq (loadPast (arm (of_eq (waitPlace h) heq1))) heq3
      next heq3 =>
        split
        · exact of_eq (loadPast (arm (of_eq (waitPlace h) heq1))) heq3
        · split
          · exact disarm (of_eq (loadPast (arm (of_eq (waitPlace h) heq1))) heq3)
          · split
            next heq6 => exact of_eq (loadPast (of_eq (loadPast (arm (of_eq (waitPlace h) heq1))) heq3)) heq6
            next heq6 =>
              extract_lets w
              split
              · exact disarm (of_eq (loadPast (of_eq (loadPast (arm (of_eq (waitPlace h) heq1))) heq3)) heq6)
              · exact of_eq (loadPast (of_eq (loadPast (arm (of_eq (waitPlace h) heq1))) heq3)) heq6

theorem execCinv {d xo b seg disp} (h : s.MemInv) : (Machine.execCinv d xo b seg disp s).MemInv := by
  unfold Machine.execCinv
  refine runMem h (fun _ _ => ?_)
  extract_lets g len off fin
  split
  · exact h
  · split
    · exact h
    · split
      · exact h
      · split
        · exact h
        · split
          next heq5 =>
            extract_lets r
            have hr : r.1.MemInv := discardAll (of_eq (pieces h) heq5)
            split
            · exact hr
            · exact hr

theorem runCleaning {f xo b seg disp} (h : s.MemInv) (hf : ∀ t g pa n, t.MemInv → (f t g pa n).MemInv) :
    (Machine.runCleaning f xo b seg disp s).MemInv := by
  unfold Machine.runCleaning
  refine runMem h (fun _ _ => ?_)
  extract_lets d len off
  split
  · exact h
  · split
    · exact h
    · split
      · exact h
      · split
        · exact h
        · split
          next heq5 =>
            extract_lets s2
            have hs2 : s2.MemInv := overPieces (fun _ _ _ _ h7 => hf _ _ _ _ h7) (of_eq (pieces h) heq5)
            split
            · exact hs2
            · exact hs2

theorem execCwb {xo b seg disp} (h : s.MemInv) : (Machine.execCwb xo b seg disp s).MemInv :=
  runCleaning h (fun _ _ _ _ h1 => writeBackRange h1)

theorem execCflush {xo b seg disp} (h : s.MemInv) : (Machine.execCflush xo b seg disp s).MemInv :=
  runCleaning h (fun _ _ _ _ h1 => flushRange (writeBackRange h1))

theorem execCpref {xo b seg disp} (h : s.MemInv) : (Machine.execCpref xo b seg disp s).MemInv := by
  unfold Machine.execCpref
  refine runMem h (fun _ _ => ?_)
  extract_lets d len off
  split
  · exact h
  · split
    · exact h
    · exact foldl (fun _ _ h4 => prefetchSector h4) h

theorem recEff {n f c} (h : s.MemInv) (hf : ∀ sp, (f s c n sp).MemInv) : (Machine.recEff n f s c).MemInv := by
  unfold Machine.recEff
  split
  · exact h
  · split
    · exact h
    · exact hf _

theorem runRec {regs spaceOf f} (h : s.MemInv) (hf : ∀ c n sp, (f s c n sp).MemInv) : (Machine.runRec regs spaceOf f s).MemInv :=
  runMem h fun _ _ => recEff h fun _ => hf _ _ _

theorem saBad {d off n e} (h : s.MemInv) (eq : s.saBad d off n = some e) : e.MemInv := by
  unfold State.saBad at eq
  split at eq
  · cases eq
    exact reportBank h
  · cases eq

theorem storeTrap {m pa n} (h : s.MemInv) : (s.storeTrap m pa n).MemInv := reportStore h

theorem execRnew {d a c sa sp} (h : s.MemInv) : (Machine.execRnew d a c sa sp s).MemInv := by
  unfold Machine.execRnew
  refine runRec h (fun _ _ _ => ?_)
  extract_lets m g bs xyz part full o
  split
  · exact h
  · split
    next heq2 => exact saBad h heq2
    · split
      · exact h
      · split
        · exact h
        · split
          · exact storeTrap h
          · split
            · exact h
            · exact homeWrite (setSpace h)

theorem runHandle {regs b stale pre f} (h : s.MemInv) (hf : ∀ c n sp k e, (f s c n sp k e).MemInv) :
    (Machine.runHandle regs b stale pre f s).MemInv := by
  unfold Machine.runHandle
  refine runMem h (fun _ _ => ?_)
  split
  · exact h
  · refine recEff h (fun _ => ?_)
    split
    · exact h
    · extract_lets h'
      split
      · exact storeTrap h
      · split
        · exact h
        · exact hf _ _ _ _ _

theorem execRdel {b c} (h : s.MemInv) : (Machine.execRdel b c s).MemInv := runHandle h (fun _ _ _ _ _ => setSpace h)

theorem execRld {a b c sa acq} (h : s.MemInv) : (Machine.execRld a b c sa acq s).MemInv := by
  unfold Machine.execRld
  refine runHandle h (fun _ _ _ _ _ => ?_)
  extract_lets m pa s1
  have hs1 : s1.MemInv := by
    unfold s1
    split
    · split
      · exact acquireLine h
      · exact h
    · exact h
  split
  · exact h
  · split
    next heq2 => exact storeTrap (of_eq (storeRead hs1) heq2)
    next heq2 => exact bankWrite (of_eq (storeRead hs1) heq2)

theorem execRst {d a b c sa rel} (h : s.MemInv) : (Machine.execRst d a b c sa rel s).MemInv := by
  unfold Machine.execRst
  refine runHandle h (fun _ _ _ _ _ => ?_)
  extract_lets m w o l bs staged fin
  split
  next heq1 => exact saBad h heq1
  · split
    · split
      · split
        · exact h
        · refine setSpace (s := ite _ _ _) ?_
          split
          · exact releaseFence h
          · exact h
      · exact setSpace h
    · split
      · exact h
      · exact writeAt h

theorem execRloc {d b c} (h : s.MemInv) : (Machine.execRloc d b c s).MemInv := by
  unfold Machine.execRloc
  refine runHandle h (fun _ _ _ _ _ => ?_)
  extract_lets m pa
  split
  next heq1 => exact storeTrap (of_eq (storeRead h) heq1)
  next heq1 => exact of_eq (storeRead h) heq1

theorem runQuery {box d a b c sa sp} (h : s.MemInv) : (Machine.runQuery box d a b c sa sp s).MemInv := by
  unfold Machine.runQuery
  refine runRec h (fun _ _ _ => ?_)
  extract_lets m g cap size mis q seen hits out
  split
  · exact h
  · exact h
  · split
    · exact h
    · split
      · exact h
      · split
        · exact h
        · split
          next heq5 => exact saBad h heq5
          · split
            · exact h
            · split
              · exact storeTrap h
              · exact bankWrite (queryReads h)

theorem runGrid {regs n f} (h : s.MemInv) (hf : ∀ cid c g b, (f s cid c g b).MemInv) : (Machine.runGrid regs n f s).MemInv := by
  unfold Machine.runGrid
  refine runMem h (fun _ _ => ?_)
  split
  · exact h
  · split
    · exact h
    · exact hf _ _ _ _

theorem staleGld {cid c g b xs} (h : s.MemInv) : (Machine.staleGld s cid c g b xs).MemInv := by
  unfold Machine.staleGld
  extract_lets first
  split
  · exact setCtx h
  · exact setCtx h

theorem execGld {d a b c sa n} (h : s.MemInv) : (Machine.execGld d a b c sa n s).MemInv := by
  unfold Machine.execGld
  refine runGrid h (fun _ _ _ _ => ?_)
  extract_lets m r cs pas
  split
  · exact setCtx h
  · split
    · exact storeTrap (setCtx h)
    · exact staleGld h
    · split
      · exact storeTrap (setCtx h)
      · exact bankWrite h

theorem execGst {d a b c sa n} (h : s.MemInv) : (Machine.execGst d a b c sa n s).MemInv := by
  unfold Machine.execGst
  refine runGrid h (fun _ _ _ _ => ?_)
  extract_lets m r bs
  split
  · exact h
  · split
    next heq2 => exact saBad h heq2
    · exact homeWrites h

theorem execGstep {c n} (h : s.MemInv) : (Machine.execGstep c n s).MemInv := by
  unfold Machine.execGstep
  refine runGrid h (fun _ _ _ _ => ?_)
  dsimp only
  split
  · exact h
  · split
    · split
      · exact h
      · split
        · split
          · exact h
          · split
            · exact storeTrap h
            · exact setGrid (refresh h)
        · exact setGrid h
    · split
      · exact h
      · split
        · split
          · exact h
          · split
            · exact storeTrap h
            · exact setGrid (refresh h)
        · exact setGrid h

theorem runXfer {isPut k} (h : s.MemInv) : (Machine.runXfer isPut k s).MemInv := by
  unfold Machine.runXfer
  refine runMem h (fun _ _ => ?_)
  extract_lets m xa len cnt x
  split
  · exact h
  · split
    · exact finishXfer h
    · split
      · exact h
      · exact enqueue (commandAcquire h)

theorem execMsg {d a b c} (h : s.MemInv) : (Machine.execMsg d a b c s).MemInv := by
  unfold Machine.execMsg
  refine runMem h (fun _ _ => ?_)
  dsimp only
  split
  · exact h
  · split
    · exact h
    · split
      · exact h
      · exact withSerial (setCore h)

theorem execRecv {d a sa nb} (h : s.MemInv) : (Machine.execRecv d a sa nb s).MemInv := by
  unfold Machine.execRecv
  refine runMem h (fun _ _ => ?_)
  dsimp only
  split
  · exact h
  · split
    · split
      next heq3 => exact storeTrap (of_eq (storeRead h) heq3)
      next heq3 => exact updCtx (bankWrite (of_eq (storeRead h) heq3))
    · split
      · exact bankWrite (setCore h)
      · split
        · exact h
        · exact h

theorem execPub {d a b c sb cw ds} (h : s.MemInv) : (Machine.execPub d a b c sb cw ds s).MemInv := by
  unfold Machine.execPub
  refine runMem h (fun _ _ => ?_)
  extract_lets m xa n len list subs x
  split
  · exact h
  · split
    · exact reportBank h
    · split
      · exact h
      · split
        · exact h
        · split
          · exact h
          · exact enqueue (releaseFence h)

theorem execRblk {d} (h : s.MemInv) : (Machine.execRblk d s).MemInv := by
  unfold Machine.execRblk
  refine runMem h (fun _ _ => ?_)
  split
  · exact h
  · extract_lets k g
    split
    · exact setGrove h
    · exact h

theorem execRblkSet {a b} (h : s.MemInv) : (Machine.execRblkSet a b s).MemInv := by
  unfold Machine.execRblkSet
  refine runMem h (fun _ _ => ?_)
  split
  · exact h
  · extract_lets x y k g
    split
    · exact h
    · exact setGrove h

theorem execBaddq {ty a b c sa sb} (h : s.MemInv) : (Machine.execBaddq ty a b c sa sb s).MemInv := by
  unfold Machine.execBaddq
  refine runMem h (fun _ _ => ?_)
  extract_lets m da db g x y
  split
  · exact h
  · exact h
  · exact h
  · split
    next heq2 => exact saBad h heq2
    next heq2 heq2_1 => exact saBad h heq2_1
    · exact bankWrite h

theorem runSset {a sa f} (h : s.MemInv) (hf : ∀ m d, (f s m d).1.MemInv) : (Machine.runSset a sa f s).MemInv := by
  unfold Machine.runSset
  refine runMem h (fun _ _ => ?_)
  extract_lets g off d r
  have hr : r.1.MemInv := hf _ _
  split
  · exact h
  · split
    next heq2 => exact saBad h heq2
    · split
      · exact h
      · exact hr

theorem execSset {a sa sb} (h : s.MemInv) : (Machine.execSset a sa sb s).MemInv := runSset h (fun _ _ => h)

theorem execSsetT {a sa sb} (h : s.MemInv) : (Machine.execSsetT a sa sb s).MemInv := by
  unfold Machine.execSsetT
  refine runSset h (fun _ _ => ?_)
  dsimp only
  exact setDie h

theorem execTlbinv {wb d a b c} (h : s.MemInv) : (Machine.execTlbinv wb d a b c s).MemInv := by
  unfold Machine.execTlbinv
  refine runMem h (fun _ _ => ?_)
  extract_lets m lo len asid fin s1 s2 w
  have hfin {t : State} (ht : t.MemInv) : (fin t).MemInv := by
    unfold fin
    dsimp only
    split
    · exact dropLines ht
    · exact ht
  clear_value fin
  have hs1 : s1.MemInv := releaseFence h
  have hs2 : s2.MemInv := dropLeaves hs1
  split
  · exact h
  · split
    · split
      · exact hfin h
      · exact h
    · split
      · exact h
      · split
        · exact hs1
        · split
          · exact hfin hs2
          · exact hs2

theorem execGtw {a sa g} (h : s.MemInv) : (Machine.execGtw a sa g s).MemInv := by
  unfold Machine.execGtw
  refine runMem h (fun _ _ => ?_)
  split
  next heq1 => exact of_eq (gtw h) heq1
  next heq1 => exact of_eq (gtw h) heq1

theorem execPbind {gd a sa n} (h : s.MemInv) : (Machine.execPbind gd a sa n s).MemInv := by
  unfold Machine.execPbind
  refine runMem h (fun _ _ => ?_)
  extract_lets m g off h'
  split
  · exact h
  · split
    next heq2 => exact saBad h heq2
    · split
      · split
        · exact h
        · split
          next heq5 => exact of_eq (bindGrid h) heq5
          next heq5 =>
            split
            · exact h
            · exact of_eq (bindGrid h) heq5
      · split
        · exact h
        · split
          next heq5 => exact of_eq (bindSpace h) heq5
          next heq5 =>
            split
            · exact h
            · exact of_eq (bindSpace h) heq5

theorem execPbindU {gd n} (h : s.MemInv) : (Machine.execPbindU gd n s).MemInv := by
  unfold Machine.execPbindU
  refine runMem h (fun _ _ => ?_)
  split
  · exact h
  · split
    · exact unbindGrid h
    · exact unbindSpace h

theorem execCrange {clr a b k} (h : s.MemInv) : (Machine.execCrange clr a b k s).MemInv := by
  have hrecall {r} : ({ s.recallEntry k.toNat with ranges := r } : State).MemInv := recallEntry (s := s) h
  unfold Machine.execCrange
  refine runMem h (fun _ _ => ?_)
  split
  · exact hrecall
  · extract_lets w r reserved s1
    split
    · exact h
    · split
      · exact h
      · exact hrecall

theorem execSpawn {d a sa rel} (h : s.MemInv) : (Machine.execSpawn d a sa rel s).MemInv := by
  unfold Machine.execSpawn
  refine runMem h (fun _ _ => ?_)
  extract_lets g off t
  split
  · exact h
  · split
    · exact h
    · split
      next heq3 => exact saBad h heq3
      · split
        · exact h
        · split
          next heq5 => exact of_eq (spawn h) heq5
          next heq5 => exact of_eq (spawn h) heq5

theorem execKchk (h : s.MemInv) : (Machine.execKchk s).MemInv := by
  unfold Machine.execKchk
  refine runInstr h (fun _ _ => ?_)
  split
  · exact retire h
  · exact h

theorem execIupd {d a b k} (h : s.MemInv) : (Machine.execIupd d a b k s).MemInv := by
  unfold Machine.execIupd
  refine runMem h (fun _ _ => ?_)
  extract_lets i key s1 m
  have hs1 : s1.MemInv := releaseFence h
  split
  · exact h
  · split
    · exact h
    · split
      · exact h
      · split
        · exact h
        · split
          · exact setIncumbent hs1
          · exact hs1

theorem execIrd {d a k} (h : s.MemInv) : (Machine.execIrd d a k s).MemInv := by
  unfold Machine.execIrd
  refine runMem h (fun _ _ => ?_)
  extract_lets i
  split
  · exact h
  · split
    · exact h
    · exact acquireFence h

theorem runArrive {sstep d a} (h : s.MemInv) : (Machine.runArrive sstep d a s).MemInv := by
  unfold Machine.runArrive
  refine runMem h (fun _ _ => ?_)
  extract_lets n
  split
  · exact h
  · split
    · split
      · exact h
      · exact setArrival (releaseFence h)
    · split
      · exact setArrival (acquireFence h)
      · exact h
    · split
      · exact setArrival h
      · exact h
    · exact h

theorem runDslot {d a b} {f : State → Nat → Nat → Nat → State} (h : s.MemInv) (hf : ∀ t die slot v, t.MemInv → (f t die slot v).MemInv) :
    (Machine.runDslot d a b f s).MemInv := by
  unfold Machine.runDslot
  refine runMem h (fun _ _ => ?_)
  extract_lets n v die slot s1
  have hs1 : s1.MemInv := releaseFence h
  split
  · exact h
  · split
    · exact h
    · exact hf _ _ _ _ hs1

theorem execDset {d a b} (h : s.MemInv) : (Machine.execDset d a b s).MemInv := runDslot h (fun _ _ _ _ h1 => dslotSet h1)

theorem execDdec {d a b} (h : s.MemInv) : (Machine.execDdec d a b s).MemInv := runDslot h (fun _ _ _ _ h1 => dslotDec h1)

theorem execContextSwitch {core} (h : s.MemInv) : (Machine.execContextSwitch core s).MemInv := by
  unfold Machine.execContextSwitch
  split
  · exact wakeCore h
  · split
    · exact h
    · exact switchCore h

theorem execAccessWaitBlock {core} (h : s.MemInv) : (Machine.execAccessWaitBlock core s).MemInv := by
  unfold Machine.execAccessWaitBlock
  split
  · exact h
  · split
    · exact h
    · split
      · exact h
      · exact block h

theorem execFairnessSwitch {core} (h : s.MemInv) : (Machine.execFairnessSwitch core s).MemInv := by
  unfold Machine.execFairnessSwitch
  split
  · exact switchCore h
  · exact h

theorem execContextReady {cid} (h : s.MemInv) : (Machine.execContextReady cid s).MemInv := by
  unfold Machine.execContextReady
  split
  · exact h
  · split
    · exact makeAllReady h
    · exact h

theorem execTaskDispatch {die} (h : s.MemInv) : (Machine.execTaskDispatch die s).MemInv := by
  unfold Machine.execTaskDispatch
  split
  · exact h
  · exact dispatchFirst h

theorem execMailboxPost {m msg} (h : s.MemInv) : (Machine.execMailboxPost m msg s).MemInv := by
  unfold Machine.execMailboxPost
  split
  · exact post (setMbox h)
  · exact h

theorem execHostQueuePost {die tag msg} (h : s.MemInv) : (Machine.execHostQueuePost die tag msg s).MemInv := by
  unfold Machine.execHostQueuePost
  split
  · exact h
  · exact hqPost (updCtx h)

theorem execProxyInvalidateDone {line} (h : s.MemInv) : (Machine.execProxyInvalidateDone line s).MemInv := by
  have hdrop : ({ s with waiting := s.waiting.filter fun w => w.2.1 != line } : State).dropProxies line none |>.MemInv :=
    dropProxies (s := { s with waiting := _ }) h
  exact foldl (fun _ _ ht => performWriteBack ht) hdrop

theorem execUpdateOnlyEviction {grove line} (h : s.MemInv) : (Machine.execUpdateOnlyEviction grove line s).MemInv := by
  unfold Machine.execUpdateOnlyEviction
  split
  · split
    · exact dropL1 (writeBackLine h)
    · exact h
  · exact h

theorem execAcquireComplete {core line sc} (h : s.MemInv) : (Machine.execAcquireComplete core line sc s).MemInv := by
  unfold Machine.execAcquireComplete
  split
  · exact acquireLine h
  · exact h

theorem execFabricWriteArrival {p} (h : s.MemInv) : (Machine.execFabricWriteArrival p s).MemInv := by
  unfold Machine.execFabricWriteArrival
  split
  · split
    · exact writeArrival h
    · exact h
  · split
    · exact h
    · refine atPort (fun _ h3 => ?_) h
      split
      · exact h3
      · exact writeArrival h3

theorem execCreditUpdateSend {port} (h : s.MemInv) : (Machine.execCreditUpdateSend port s).MemInv := by
  unfold Machine.execCreditUpdateSend
  split
  · exact portSend h
  · exact h

theorem execMsgArrival {p} (h : s.MemInv) : (Machine.execMsgArrival p s).MemInv := by
  unfold Machine.execMsgArrival
  split
  · split
    · exact msgArrival h
    · exact h
  · split
    · exact h
    · refine atPort (fun _ h3 => ?_) h
      split
      · exact h3
      · exact msgArrival h3

theorem execGetRequestServe {r} (h : s.MemInv) : (Machine.execGetRequestServe r s).MemInv := by
  unfold Machine.execGetRequestServe
  split
  · split
    · split
      · exact serveGet h
      · exact h
    · exact h
  · split
    · exact h
    · exact atPort (fun _ h3 => serveGet h3) h

theorem execRegisterWrite {die off value} (h : s.MemInv) : (Machine.execRegisterWrite die off value s).MemInv := by
  unfold Machine.execRegisterWrite
  split
  · exact writeReg h
  · exact h

theorem execPowerOnReset (h : s.MemInv) : (Machine.execPowerOnReset s).MemInv :=
  ⟨⟨Memory.wf_filter h.1.1 _, rfl, nofun⟩, h.2⟩

theorem execStagedImageCheck {die len} (h : s.MemInv) : (Machine.execStagedImageCheck die len s).MemInv := by
  unfold Machine.execStagedImageCheck
  split
  · exact accept h
  · exact h

theorem execClockDriftRecovery (h : s.MemInv) : (Machine.execClockDriftRecovery s).MemInv := by
  unfold Machine.execClockDriftRecovery
  refine foldl (fun _ _ h1 => ?_) h
  split
  · exact setDie h1
  · exact h1

theorem execTierIslandPowerLoss {die} (h : s.MemInv) : (Machine.execTierIslandPowerLoss die s).MemInv :=
  ⟨⟨Memory.wf_filter h.1.1 _, h.1.2⟩, h.2⟩

/-- What an instruction or event answers leaves all memory canonical. -/
theorem exec {i : Instr} (h : s.MemInv) : Out.MemInv (Machine.exec i s) := by
  cases i with
  | vaddF32 | vsubF32 | vmulF32 | vdiv | vsqrt | vrsqrt | vexp2 | vminF32 | vmaxF32 | vabsF32 | vneg | vfma | vfms | vfnma | vaddF32Lit
  | vsubF32Lit | vmulF32Lit | vdivLit | vminF32Lit | vmaxF32Lit | vaddInt | vsubInt | vmulInt | vmulh | vand | vor | vxor | vandn
  | vsll | vsrl | vsra | vminInt | vmaxInt | vabsI32 | vadds | vsubs | vaddIntLit | vsubIntLit | vmulIntLit | vmulhLit | vandLit
  | vorLit | vxorLit | vandnLit | vsllLit | vsrlLit | vsraLit | vminIntLit | vmaxIntLit | vaddsLit | vsubsLit | vcmpF32 | vcmpI32
  | vsel | vmcnt | vfirst | vmand | vmor | vmxor | vmnot | vperm | vbcast | vbcastLit | vext | vins | vslide | vcompress | vexpand
  | vmov | vredAdd | vredMin | vredMax | vredAnd | vredOr | vredXor | vscanAdd | vscanMin | vscanMax | vcvt | vpack | vunpack | vqnt
  | vld | vst | vlds | vsts | vldx | vstx | dcopy | dfill | dfree | gather | scatter | spwalk | merge | mldb | mmac | mmacCoop =>
    exact runRing h
  | add | sub | mul | mulh | mulhn | div | divn | rem | remn | and_ | or_ | xor_ | andn | sll | srl | sra | rol | ror | min_ | max_
  | minn | maxn | clz | ctz | popc | setCc | ext | extn | ins | sel | addImm | andImm | orImm | xorImm | sllImm | srlImm | sraImm
  | mulImm | addImmQ | andImmQ | orImmQ | xorImmQ | sllImmQ | srlImmQ | sraImmQ | mulImmQ | li | liQ | lih | lpc | lpcQ =>
    unfold Machine.exec
    exact runAlu h
  | ldI8 | ldN8 | ldI16 | ldN16 | ldI32 | ldN32 | ldI64 | ldI8Mk | ldN8Mk | ldI16Mk | ldN16Mk | ldI32Mk | ldN32Mk | ldI64Mk | ldI8Mkl
  | ldN8Mkl | ldI16Mkl | ldN16Mkl | ldI32Mkl | ldN32Mkl | ldI64Mkl =>
    exact runLoad h
  | amoAdd | amoAnd | amoOr | amoXor | amoMin | amoMax | amoMinn | amoMaxn | amoSwap | amoCas | amoFadd | amoFmin | amoFmax =>
    exact runAmo h
  | stI8 | stI16 | stI32 | stI64 | stI8Mk | stI16Mk | stI32Mk | stI64Mk | stI8Mkl | stI16Mkl | stI32Mkl | stI64Mkl =>
    exact runStore h
  | fadd | fsub | fmul | fdiv | fsqrt | fma =>
    unfold Machine.exec
    exact runFp h
  | fmin | fmax | fsgn | fsgnn | fsgnx | fcmpCc =>
    unfold Machine.exec
    exact runFpBits h
  | peerLinkLoss | portReset | powerSample | portLinkFailure | thermalHold | thermalHoldRelease =>
    exact h
  | fcvtI32F32 | fcvtN32F32 | fcvtI64F32 | fcvtN64F32 =>
    unfold Machine.exec
    exact runToInt h
  | fcvtF32I32 | fcvtF32N32 | fcvtF32I64 | fcvtF32N64 =>
    unfold Machine.exec
    exact runOfInt h
  | jr | fmt | nop =>
    unfold Machine.exec
    exact runRegs h
  | lea | leaMk | leaMkl =>
    unfold Machine.exec
    exact runLea h
  | fence | fenceAcq | fenceRel =>
    exact runFence h
  | bCc | bCcQ =>
    unfold Machine.exec
    exact runBranch h
  | jal | jalQ =>
    unfold Machine.exec
    exact runJal h
  | loop | loopQ =>
    unfold Machine.exec
    exact runLoop h
  | qbox | qrad =>
    exact runQuery h
  | put | get =>
    exact runXfer h
  | bar | sstep =>
    exact runArrive h
  | mldbAccept | matrixAccept =>
    exact matAccept h
  | computeDieReset | thermalTrip =>
    exact dieReset h
  | crd => exact execCrd h
  | cwr => exact execCwr h
  | sys => exact execSys h
  | brk => exact execBrk h
  | vmaxx => exact execVmaxx h
  | vclaim => exact execVclaim h
  | waita => exact execWaita h
  | cinv => exact execCinv h
  | cwb => exact execCwb h
  | cflush => exact execCflush h
  | cpref => exact execCpref h
  | rnew => exact execRnew h
  | rdel => exact execRdel h
  | rld => exact execRld h
  | rst => exact execRst h
  | rloc => exact execRloc h
  | gld => exact execGld h
  | gst => exact execGst h
  | gstep => exact execGstep h
  | msg => exact execMsg h
  | recv => exact execRecv h
  | pub => exact execPub h
  | rblk => exact execRblk h
  | rblkSet => exact execRblkSet h
  | baddq => exact execBaddq h
  | sset => exact execSset h
  | ssetT => exact execSsetT h
  | tlbinv => exact execTlbinv h
  | gtw => exact execGtw h
  | pbind => exact execPbind h
  | pbindU => exact execPbindU h
  | crange => exact execCrange h
  | spawn => exact execSpawn h
  | iupd => exact execIupd h
  | ird => exact execIrd h
  | dset => exact execDset h
  | ddec => exact execDdec h
  | contextSwitch => exact execContextSwitch h
  | accessWaitBlock => exact execAccessWaitBlock h
  | fairnessSwitch => exact execFairnessSwitch h
  | contextReady => exact execContextReady h
  | imageLineFill => exact lineFill h
  | ringEntryComplete => exact completeEntry h
  | lateFault => exact lateFault h
  | pendingTrapTaken => exact takePending h
  | preemption => exact preempt h
  | vmaxxContribution => exact contribute h
  | exchangeTimeout => exact exchangeExpire h
  | taskDispatch => exact execTaskDispatch h
  | agingPromotion => exact setDie h
  | shadowUpdate => exact updateShadow h
  | incctlWrite => exact writeIncctl h
  | incumbentReinitDone => exact reinitDone h
  | mailboxPost => exact execMailboxPost h
  | mailboxSpawn => exact mailSpawn h
  | hostQueuePost => exact execHostQueuePost h
  | syncEpisode => exact episode h
  | superstepBoundary => exact superstep h
  | stepCounterIncrement => exact stepIncrement h
  | l1Fill => exact l1Fill h
  | homeRequest => exact homeDo h
  | proxyInvalidateDone => exact execProxyInvalidateDone h
  | updateOnlyEviction => exact execUpdateOnlyEviction h
  | drainRequest => exact drain h
  | acquireComplete => exact execAcquireComplete h
  | rwaysReconfiguration => exact rewayed h
  | translationWalk => exact leafAt h
  | tlbinvAgentReply => exact invalReply h
  | engineAccept => exact engineAccept h
  | chunkIssue => exact chunkIssue h
  | chunkAck => exact chunkAck h
  | engineCompletion => exact engineEnd h
  | gatherElement => exact gatherElement h
  | agentGroupAccess => exact groupAccess h
  | packedLineReturn => exact lineReturn h
  | spwalkRow => exact walkRow h
  | mergeResult => exact mergeStep h
  | dfillMemberDelivery => exact memberDelivery h
  | dfreeArrival => exact dfreeArrive h
  | bankLoadComplete => exact bankLoad h
  | matrixStep => exact matStepRun h
  | coopSlotClaim => exact claimSlot h
  | matrixMigration => exact migrate h
  | migrationLoadComplete => exact guestLoad h
  | bankRestore => exact restoreBank h
  | haloPartSend => exact partSend h
  | haloPartArrival => exact partArrival h
  | injectionSend => exact injSend h
  | fabricWriteArrival => exact execFabricWriteArrival h
  | fabricAckArrival => exact ackArrival h
  | rateRecovery => exact rateRecover h
  | retransmit => exact resend h
  | putStatusUnknown => exact unknown h
  | sequenceReportSend => exact reportSend h
  | sequenceReportArrival => exact reportArrival h
  | sequenceClose => exact seqClose h
  | creditUpdateSend => exact execCreditUpdateSend h
  | creditUpdateArrival => exact creditArrival h
  | msgArrival => exact execMsgArrival h
  | msgRetry => exact msgRetry h
  | msgSilenceTimeout => exact msgSilence h
  | closeNoticeArrival => exact closeNotice h
  | getRequestServe => exact execGetRequestServe h
  | peerRejoin => exact resetPair h
  | portBringup => exact bringup h
  | clockDrift => exact setDie (machineCheck h)
  | ldcmdLoad => exact load h
  | ldcmdRestore => exact restore h
  | ckcmdCheckpoint => exact writeCkcmd h
  | attestation => exact attest h
  | mbverSelect => exact writeMbver h
  | fabwinWrite => exact writeFabwin h
  | logCountClear => exact clearLog h
  | killcntClear => exact clearKills h
  | mcpop => exact popRecord h
  | registerWrite => exact execRegisterWrite h
  | serviceMachineCheck => exact serviceMc h
  | serviceInterrupt => exact serviceInt h
  | bootImageCheck => exact accept h
  | stagedImageCheck => exact execStagedImageCheck h
  | cxlMemAccess => exact memAccess h
  | cxlMemDuringReset => exact islandAccess h
  | cxlCacheAccess => exact hostAccess h
  | illegalInstruction => exact execIllegalInstruction h
  | instructionFetchFault => exact execInstructionFetchFault h
  | haloStallLimit => exact stallLimit h
  | tierIslandPowerLoss => exact execTierIslandPowerLoss h
  | eret => exact execEret h
  | exit => exact execExit h
  | vrelease => exact execVrelease h
  | fenceW => exact execFenceW h
  | kchk => exact execKchk h
  | checkpointBegin => exact ckBegin h
  | checkpointQuiesced => exact ckQuiesced h
  | checkpointStreamDone => exact ckDone h
  | powerOnReset => exact execPowerOnReset h
  | clockStep => exact clockStep h
  | visibilityWindowBegin => exact pass h
  | clockDriftRecovery => exact execClockDriftRecovery h

end State.MemInv

end Sys2Proof.Machine
end

section /-! PROOF. Memory stays in canonical form under each step (O59). -/
namespace Sys2Proof.Machine
open Sys2Proof

/-- Each event of a list leaves memory canonical from every state that has it so. -/
def AllKeep (l : List (State → Out)) : Prop := ∀ f ∈ l, ∀ s : State, s.MemInv → (f s).MemInv

namespace AllKeep

theorem nil : AllKeep [] := nofun

theorem cons {f : State → Out} {l : List (State → Out)} (hf : ∀ s : State, s.MemInv → (f s).MemInv) (hl : AllKeep l) : AllKeep (f :: l) :=
  List.forall_mem_cons.2 ⟨hf, hl⟩

theorem append {l m : List (State → Out)} (hl : AllKeep l) (hm : AllKeep m) : AllKeep (l ++ m) := List.forall_mem_append.2 ⟨hl, hm⟩

theorem map {α : Type} {f : α → State → Out} {l : List α} (h : ∀ a (s : State), s.MemInv → (f a s).MemInv) : AllKeep (l.map f) :=
  List.forall_mem_map.2 fun a _ => h a

theorem flatMap {α : Type} {f : α → List (State → Out)} {l : List α} (h : ∀ a, AllKeep (f a)) : AllKeep (l.flatMap f) := by
  intro g hg
  obtain ⟨a, -, hg⟩ := List.mem_flatMap.1 hg
  exact h a g hg

theorem filterMap {α : Type} {f : α → Option (State → Out)} {l : List α} (h : ∀ a g, f a = some g → ∀ s : State, s.MemInv → (g s).MemInv) :
    AllKeep (l.filterMap f) := by
  intro g hg
  obtain ⟨a, -, hg⟩ := List.mem_filterMap.1 hg
  exact h a g hg

theorem filterMap_ite {α : Type} {p : α → Prop} [DecidablePred p] {f : α → State → Out} {l : List α}
    (h : ∀ a (s : State), s.MemInv → (f a s).MemInv) : AllKeep (l.filterMap fun a => if p a then some (f a) else none) := by
  refine filterMap fun a g e => ?_
  obtain ⟨-, hg⟩ := Option.ite_none_right_eq_some.1 e
  exact Option.some.inj hg ▸ h a

/-- An event of the machine leaves memory canonical. -/
theorem ofExec (i : Instr) (s : State) (h : s.MemInv) : Out.MemInv (exec i s) := State.MemInv.exec h

theorem entryMoves (core cid : Nat) (e : RingEntry) : AllKeep (entryMoves core cid e) := by
  refine append ?_ (cons (ofExec (.ringEntryComplete ..)) (cons (ofExec (.lateFault ..)) (cons (ofExec (.exchangeTimeout ..))
    (cons (ofExec (.engineAccept ..)) (cons (ofExec (.mldbAccept ..)) (cons (ofExec (.matrixAccept ..)) nil))))))
  split
  · exact map fun _ => ofExec (.vmaxxContribution ..)
  · exact nil

theorem ctxMoves (cid : Nat) (c : Ctx) : AllKeep (ctxMoves cid c) := by
  unfold Machine.ctxMoves
  split
  · exact nil
  · refine append (append ?_ (flatMap fun e => entryMoves _ cid e)) (cons (ofExec (.preemption ..)) nil)
    split
    · exact nil
    · exact cons (ofExec (.haloStallLimit ..)) nil
    · exact cons (ofExec (.contextReady ..)) nil
    · exact nil

theorem engineMoves (g : Nat) (c : EngCmd) : AllKeep (engineMoves g c) := by
  refine append (append (append (append (map fun _ => ofExec (.chunkAck ..)) (flatMap fun p => filterMap fun q f e => ?_))
    (map fun _ => ofExec (.dfillMemberDelivery ..))) ?_) (cons (ofExec (.chunkIssue ..)) (cons (ofExec (.gatherElement ..))
    (cons (ofExec (.packedLineReturn ..)) (cons (ofExec (.spwalkRow ..)) (cons (ofExec (.mergeResult ..))
    (cons (ofExec (.engineCompletion ..)) nil))))))
  · obtain ⟨-, hf⟩ := Option.ite_none_left_eq_some.1 e
    exact Option.some.inj hf ▸ ofExec (.agentGroupAccess ..)
  · split
    · exact nil
    · exact cons (fun _ h => h.landPayload) nil

theorem groveMoves (g : Nat) (v : Grove) : AllKeep (groveMoves g v) := by
  refine append (append (flatMap fun c => engineMoves g c) ?_) (cons (ofExec (.migrationLoadComplete ..)) (cons (ofExec (.matrixStep ..))
    (cons (ofExec (.bankRestore ..)) (cons (ofExec (.bankRestore ..)) (cons (ofExec (.bankRestore ..))
    (cons (ofExec (.bankRestore ..)) nil))))))
  split
  · exact nil
  · exact flatMap fun _ => cons (ofExec (.coopSlotClaim ..)) (cons (ofExec (.bankLoadComplete ..)) nil)

theorem dieMoves (d : Nat) (v : Die) : AllKeep (dieMoves d v) :=
  append (map fun _ => ofExec (.agingPromotion ..)) (cons (ofExec (.taskDispatch ..)) (cons (ofExec (.serviceMachineCheck ..))
    (cons (ofExec (.serviceInterrupt ..)) (cons (ofExec (.rwaysReconfiguration ..)) nil))))

theorem incumbentMoves (s : State) (k : BitVec 3) : AllKeep (s.incumbentMoves k) := by
  refine append (append ?_ (filterMap_ite fun _ => ofExec (.shadowUpdate ..))) (filterMap_ite fun _ => ofExec (.shadowUpdate ..))
  split
  · exact cons (ofExec (.incumbentReinitDone ..)) nil
  · exact nil

theorem sendMoves (key : Nat) (q : SendSeq) : AllKeep (sendMoves key q) :=
  append (flatMap fun _ => cons (ofExec (.retransmit ..)) (cons (ofExec (.putStatusUnknown ..)) nil))
    (map fun _ => ofExec (.retransmit ..))

theorem injMoves (core : Nat) (c : Core) : AllKeep (injMoves core c) := by
  refine flatMap fun p => cons (ofExec (.injectionSend ..)) ?_
  split
  · split
    · exact cons (ofExec (.msgRetry ..)) (cons (ofExec (.msgSilenceTimeout ..)) nil)
    · exact nil
  · exact nil

theorem fabricMoves (s : State) : AllKeep s.fabricMoves :=
  append (append (append (append (append (append (append (append (append (append
    (flatMap fun p => injMoves p.1 p.2)
    (map fun _ => ofExec (.fabricWriteArrival (.own _))))
    (map fun _ => ofExec (.fabricAckArrival ..)))
    (map fun _ => ofExec (.getRequestServe (.own _))))
    (map fun _ => ofExec (.msgArrival (.own _))))
    (map fun _ => ofExec (.sequenceReportArrival ..)))
    (map fun _ => ofExec (.closeNoticeArrival ..)))
    (map fun _ => ofExec (.sequenceClose 0 ..)))
    (flatMap fun p => sendMoves p.1 p.2))
    (map fun _ => ofExec (.putStatusUnknown ..)))
    (flatMap fun _ => map fun _ => ofExec (.rateRecovery ..))

theorem groupMoves (s : State) : AllKeep s.groupMoves :=
  append (append (map fun _ => ofExec (.haloPartSend ..)) (map fun _ => ofExec (.haloPartArrival ..)))
    (flatMap fun _ => cons (ofExec (.syncEpisode ..)) (cons (ofExec (.superstepBoundary ..)) (cons (ofExec (.stepCounterIncrement ..)) nil)))

theorem moves (s : State) : AllKeep s.moves :=
  append (append (append (append (append (append (append (append
    (cons (fun _ h => h.carryOn) (cons (ofExec .checkpointBegin) (cons (ofExec .checkpointQuiesced) (cons (ofExec .checkpointStreamDone) nil))))
    (flatMap fun p => ctxMoves p.1 p.2))
    (flatMap fun p => append (groveMoves p.1 p.2) (map fun _ => ofExec (.tlbinvAgentReply ..))))
    (map fun _ => ofExec (.dfreeArrival ..)))
    (groupMoves s))
    (flatMap fun _ => incumbentMoves s _))
    (flatMap fun p => dieMoves p.1 p.2))
    (map fun _ => ofExec (.mailboxSpawn ..)))
    (fabricMoves s)

end AllKeep

namespace State.MemInv

-- One after another: the case splits share what Lean generates for them.
set_option Elab.async false

variable {s : State}

theorem after {f : State → Out} {t : State} (h : (f s).MemInv) (e : s.after f = some t) : t.MemInv := by
  unfold State.after at e
  split at e
  next heq =>
    rw [heq] at h
    obtain ⟨-, hu⟩ := Option.ite_none_left_eq_some.1 e
    exact Option.some.inj hu ▸ h
  · cases e

theorem runCode {c : Code} (h : s.MemInv) : (Machine.runCode c s).MemInv := by
  rw [runCode_eq]
  exact exec h

theorem runNext (h : s.MemInv) : s.runNext.MemInv := by
  unfold State.runNext
  split
  · exact h
  · split
    next heq => exact execInstructionFetchFault (of_eq (fetch h) heq)
    next heq =>
      have hfetch := of_eq (fetch h) heq
      split
      · exact execIllegalInstruction hfetch
      · split
        next r _ =>
          have hkeep := keepEarly (c := r.1) hfetch
          dsimp only
          split
          · exact runCode hkeep
          · split
            next huse => exact runCode (of_eq (useLines hkeep) huse)
            next huse => exact execInstructionFetchFault (of_eq (useLines hkeep) huse)
        · exact execIllegalInstruction hfetch

theorem issue (h : s.MemInv) : s.issue.MemInv := by
  unfold State.issue
  split
  · exact ckBegin h
  · split
    next heq => exact serviceDue h heq
    · split
      · exact switchCore h
      · split
        · exact takePending h
        · exact runNext h

theorem coreTurn {core} (h : s.MemInv) : (s.coreTurn core).MemInv := by
  unfold State.coreTurn
  split
  · exact issue h
  · exact h

theorem runTurn {t : Turn} (h : s.MemInv) : (Machine.runTurn t s).MemInv := by
  cases t with
  | core c => exact coreTurn h
  | event i =>
    unfold Machine.runTurn
    dsimp only
    split
    · exact exec h
    · exact h
  | elapse n => exact elapse h
  | write d off v =>
    unfold Machine.runTurn
    dsimp only
    split
    · exact writeReg h
    · exact h
  | call cid => exact finishCall h
  | record => exact appendRecord h
  | stage => exact stage h
  | load => exact carryOn h
  | reopen => exact reopenTier h
  | land => exact landPayload h
  | early => exact loadEarly h

theorem background (h : s.MemInv) : s.background.MemInv := by
  unfold State.background
  split
  next t heq =>
    obtain ⟨f, hmem, hafter⟩ := List.exists_of_findSome?_eq_some heq
    have ht : t.MemInv := after (AllKeep.moves s f hmem s h) hafter
    exact withStalled ht
  · split
    · exact coreTurn h
    · exact idle h

theorem step (h : s.MemInv) : Out.MemInv (Machine.step s) := by
  unfold Machine.step
  split
  · exact runTurn h
  · split
    · exact issue h
    · exact background h

end State.MemInv

/-- Settles O59: `State.MemInv.exec` of the instructions and events, `State.MemInv.step` of the steps. -/
theorem memoryInvariantKept : Obligations.MemoryInvariantKept := by
  intro s t h e
  have hstep := h.step
  rw [e] at hstep
  exact hstep

end Sys2Proof.Machine
end

section /-! PROOF. The segment checks in their order (R164, O28). -/
namespace Sys2Proof.Machine
open Sys2Proof

/-- Check 1 (R164) refuses an invalid slot, a kind that the instruction does not take, and on a service core a cluster segment. -/
theorem badKind_iff (d : Desc) (service : Bool) :
    (!kindsAll.contains d.kind || (service && d.kind == kCluster)) = true ↔
      ¬ d.kind ∈ [kGlobal, kCluster, kHostm, kTier] ∨ (service = true ∧ d.kind = kCluster) := by
  simp only [kindsAll, Bool.or_eq_true, Bool.not_eq_true', Bool.and_eq_true, beq_iff_eq, ← Bool.not_eq_true, List.contains_iff_mem]

/-- Check 2 (R164) refuses an offset that is no multiple of the access's size. -/
theorem badAlign_iff (off : Int) (n : Nat) : (off % (n : Int) != 0) = true ↔ ¬ (n : Int) ∣ off := by
  rw [bne_iff_ne, ne_eq, Int.dvd_iff_emod_eq_zero]

/-- Check 3 (R164) refuses an access that leaves the segment. -/
theorem badBounds_iff (len n : Nat) (off : Int) :
    (decide (off < 0) || decide ((len : Int) < off + n)) = true ↔ off < 0 ∨ (len : Int) < off + n := by
  rw [Bool.or_eq_true, decide_eq_true_eq, decide_eq_true_eq]

/-- Check 4 (R164) refuses a slot without the permission. -/
theorem badPerm_iff (needR needW canR canW : Bool) :
    ((needR && !canR) || (needW && !canW)) = true ↔ (needR = true ∧ canR = false) ∨ (needW = true ∧ canW = false) := by
  simp only [Bool.or_eq_true, Bool.and_eq_true, Bool.not_eq_true']

/-- Settles O28: the branches of `segChecks` are the checks of R164. -/
theorem segmentChecksInOrder : Obligations.SegmentChecksInOrder := by
  intro d service off n needR needW wr _ va fault r badKind badAlign badBounds badPerm
  have hr : r = if d.kind = 0 then fault 8 1
      else if ¬ d.kind ∈ [kGlobal, kCluster, kHostm, kTier] ∨ (service = true ∧ d.kind = kCluster) then fault 8 2
      else if badAlign then fault 9 0 else if badBounds then fault 8 3 else if badPerm then fault 8 4 else none := by
    unfold r segCheck segChecks
    simp only [badKind_iff, badAlign_iff, badBounds_iff, badPerm_iff]
    rfl
  rw [hr]
  refine ⟨fun h0 => if_pos h0, fun hk h0 => ?_, fun hk ha => ?_, fun hk ha hb => ?_, fun hk ha hb hp => ?_, fun hk ha hb hp => ?_⟩
  · rw [if_neg h0, if_pos (hk.resolve_left h0)]
  all_goals
    obtain ⟨h0, hk⟩ := not_or.1 hk
    rw [if_neg h0, if_neg hk]
  · rw [if_pos ha]
  · rw [if_neg ha, if_pos hb]
  · rw [if_neg ha, if_neg hb, if_pos hp]
  · rw [if_neg ha, if_neg hb, if_neg hp]

end Sys2Proof.Machine
end

section /-! PROOF. The cache-control instructions act on their range and commit (R177, R192, O35). -/
namespace Sys2Proof.Machine
open Sys2Proof

section
variable {s : State} {cid : Nat} {c : Ctx} {xo b : Reg} {seg : Slot} {disp : Int}

/-- The kinds that a cleaning or a discarding takes (R192). -/
theorem cleansKind {k : Nat} (h : k = kGlobal ∨ k = kTier) : k ≠ 0 ∧ (k == kGlobal || k == kTier) = true := by
  rcases h with rfl | rfl
  · decide
  · decide

/-- An empty range is cleaned with nothing done (R192). -/
theorem runCleaning_empty (f : State → Nat → Nat → Nat → State) (hr : s.Ready cid c [xo, b]) (hm : ringHasMem (s.coreRing s.here) = false)
    (hk : (c.img.slot seg).kind = kGlobal ∨ (c.img.slot seg).kind = kTier) (hlen : (c.img.getX b).toNat = 0) :
    runCleaning f xo b seg disp s = s.goes cid (c.img.next 8) := by
  obtain ⟨h0, hkinds⟩ := cleansKind hk
  unfold runCleaning
  rw [runMem_ready hr (.inl rfl) hm]
  simp only [h0, hkinds, hlen]
  rfl

/-- A cleaning whose range passes its checks and translates does the pages in order and commits (R192). -/
theorem runCleaning_pages (f : State → Nat → Nat → Nat → State) (hr : s.Ready cid c [xo, b]) (hm : ringHasMem (s.coreRing s.here) = false)
    (hk : (c.img.slot seg).kind = kGlobal ∨ (c.img.slot seg).kind = kTier) (hpos : 0 < (c.img.getX b).toNat) (hlen : (c.img.getX b).toNat ≤ 2 ^ 40)
    (hc : segCheck (c.img.slot seg) [kGlobal, kTier] false (nOf (c.img.getX xo) + disp) (c.img.getX b).toNat 1 true false false = none)
    {t : State} {ps : List (Nat × Nat)}
    (ht : s.pieces (pageFuel (c.img.getX b).toNat) s.here (c.img.slot seg) (nOf (c.img.getX xo) + disp) (c.img.getX b).toNat .read false =
      (t, ps, none)) :
    runCleaning f xo b seg disp s = (t.overPieces s.here ps f).goes cid (c.img.next 8) := by
  obtain ⟨h0, hkinds⟩ := cleansKind hk
  unfold runCleaning
  rw [runMem_ready hr (.inl rfl) hm]
  simp only [h0, hkinds, decide_eq_false (Nat.not_lt.2 hlen), hc, ht, Nat.ne_of_gt hpos]
  rfl

end

section
variable {s : State} {cid : Nat} {c : Ctx} {d xo b : Reg} {seg : Slot} {disp : BitVec 20}

/-- What `cinv` leaves: the count of dirty sectors in X(d) and in DATA (R192). -/
def Image.counted (m : Image) (d : Reg) (n : Nat) : Image :=
  ({ m.setX d (BitVec.ofNat 64 n) with
     faultinfo := (m.faultinfo &&& 0xFFFFFFFF#64) ||| BitVec.ofNat 64 (min n (2 ^ 32 - 1) * 2 ^ 32) } : Image).next 8

/-- The checks of `cinv` before the segment's pass on a range of whole sectors (R192). -/
theorem execCinv_empty (hr : s.Ready cid c [d, xo, b]) (hm : ringHasMem (s.coreRing s.here) = false) (hprv : c.img.prv = true)
    (hk : (c.img.slot seg).kind = kGlobal ∨ (c.img.slot seg).kind = kTier) (hoff : (nOf (c.img.getX xo) + disp.toInt) % 32 = 0)
    (hlen : (c.img.getX b).toNat = 0) :
    execCinv d xo b seg disp s = s.goes cid (c.img.counted d 0) := by
  obtain ⟨h0, hkinds⟩ := cleansKind hk
  unfold execCinv
  rw [runMem_ready hr (.inr hprv) hm]
  simp only [h0, hkinds, hlen, hoff]
  rfl

theorem execCinv_pages (hr : s.Ready cid c [d, xo, b]) (hm : ringHasMem (s.coreRing s.here) = false) (hprv : c.img.prv = true)
    (hk : (c.img.slot seg).kind = kGlobal ∨ (c.img.slot seg).kind = kTier) (hoff : (nOf (c.img.getX xo) + disp.toInt) % 32 = 0)
    (hpos : 0 < (c.img.getX b).toNat) (hlen : (c.img.getX b).toNat ≤ 2 ^ 40) (hwhole : (c.img.getX b).toNat % 32 = 0)
    (hc : segCheck (c.img.slot seg) [kGlobal, kTier] false (nOf (c.img.getX xo) + disp.toInt) (c.img.getX b).toNat 1 false true true = none)
    {t : State} {ps : List (Nat × Nat)}
    (ht : s.pieces (pageFuel (c.img.getX b).toNat) s.here (c.img.slot seg) (nOf (c.img.getX xo) + disp.toInt) (c.img.getX b).toNat .write true =
      (t, ps, none)) :
    execCinv d xo b seg disp s = (t.discardAll (groveOf s.here) ps).1.goes cid (c.img.counted d (t.discardAll (groveOf s.here) ps).2) := by
  obtain ⟨h0, hkinds⟩ := cleansKind hk
  unfold execCinv
  rw [runMem_ready hr (.inr hprv) hm]
  simp only [h0, hkinds, hoff, hwhole, decide_eq_false (Nat.not_lt.2 hlen), hc, ht, Nat.ne_of_gt hpos]
  rfl

/-- `cpref` requests its sectors and commits (R192). -/
theorem execCpref_sectors (hr : s.Ready cid c [xo, b]) (hm : ringHasMem (s.coreRing s.here) = false) (h0 : (c.img.slot seg).kind ≠ 0)
    (hcl : (c.img.slot seg).kind ≠ kCluster) :
    execCpref xo b seg disp s =
      ((sectorParts 2050 (segVa (c.img.slot seg) (nOf (c.img.getX xo) + disp.toInt)) (nOf (c.img.getX xo) + disp.toInt)
        (min 65536 (c.img.getX b).toNat)).foldl (fun (t : State) p => t.prefetchSector t.here (c.img.slot seg) p.1 p.2) s).goes cid
          (c.img.next 8) := by
  unfold execCpref
  rw [runMem_ready hr (.inl rfl) hm]
  simp only [h0, hcl]
  rfl

end

/-- Settles O35: the empty range, the pages of `cwb`, `cflush` and `cinv`, and the sectors of `cpref`. -/
theorem cacheControlResults : Obligations.CacheControlResults := by
  intro s cid c d xo b seg disp hready hmem m g off len counted
  have htwo : s.Ready cid c [xo, b] := hready.subset (List.subset_cons_self _ _)
  refine ⟨fun hk h0 => ⟨runCleaning_empty _ htwo hmem hk h0, runCleaning_empty _ htwo hmem hk h0, fun hprv hoff => ?_⟩,
    fun hk hpos hlen hc t ps ht => ⟨runCleaning_pages _ htwo hmem hk hpos hlen hc ht, runCleaning_pages _ htwo hmem hk hpos hlen hc ht⟩,
    fun hk hpos hlen hwhole hoff hprv hc t ps ht => ?_, fun h0 hcl => ?_⟩
  · exact execCinv_empty hready hmem hprv hk hoff h0
  · exact execCinv_pages hready hmem hprv hk hoff hpos hlen hwhole hc ht
  · exact execCpref_sectors htwo hmem h0 hcl

end Sys2Proof.Machine
end
section /-! PROOF. What work at the homes leaves of the groves and the cores, and what drains and invalidations leave in a grove's L1 (R167 to R169). -/
set_option Elab.async false
namespace Sys2Proof.Machine
open Sys2Proof

/-- A state comes from another by work at the homes alone: every grove and every core is the same. -/
structure State.OffCores (s t : State) : Prop where
  groves : t.groves = s.groves
  cores : t.cores = s.cores

namespace State.OffCores

variable {s t u : State}

theorem refl (s : State) : s.OffCores s := ⟨rfl, rfl⟩

theorem trans (h : s.OffCores t) (k : t.OffCores u) : s.OffCores u := ⟨k.groves.trans h.groves, k.cores.trans h.cores⟩

theorem foldl {α : Type} {f : State → α → State} (hf : ∀ (t : State) (a : α), t.OffCores (f t a)) (s : State) (l : List α) :
    s.OffCores (l.foldl f s) :=
  List.foldlRecOn (motive := s.OffCores) _ _ (refl s) fun t ht a _ => ht.trans (hf t a)

/-- A change of neither. -/
theorem quiet (hg : t.groves = s.groves := by rfl) (hc : t.cores = s.cores := by rfl) : s.OffCores t := ⟨hg, hc⟩

theorem of_onlySlices (h : s.OnlySlices t) : s.OffCores t := ⟨h.groves, h.cores⟩

/-- A grove of the state. -/
theorem grove (h : s.OffCores t) (g : Nat) : t.grove g = s.grove g := by rw [State.grove, State.grove, h.groves]

/-- A core of the state. -/
theorem core (h : s.OffCores t) (k : Nat) : t.core k = s.core k := by rw [State.core, State.core, h.cores]

theorem setDie (s : State) (d : Nat) (v : Die) : s.OffCores (s.setDie d v) := ⟨rfl, rfl⟩

theorem logHost (s : State) (d src info : Nat) : s.OffCores (s.logHost d src info) := setDie _ _ _

theorem machineCheck (s : State) (d src mem info pa grove core : Nat) : s.OffCores (s.machineCheck d src mem info pa grove core) := by
  unfold State.machineCheck
  dsimp only
  split
  · exact setDie _ _ _
  · exact setDie _ _ _

theorem latchPhys (s : State) (pa n : Nat) : s.OffCores (s.latchPhys pa n) := by
  unfold State.latchPhys
  split
  · exact refl s
  · exact ⟨rfl, rfl⟩

theorem imageWrite (s : State) (cid pa : Nat) (edits : List (Nat × Byte)) : s.OffCores (s.imageWrite cid pa edits) := by
  unfold State.imageWrite
  split
  · exact refl s
  · split
    · exact machineCheck _ _ _ _ _ _ _ _
    · exact trans quiet (latchPhys _ _ _)

theorem dropProxies (s : State) (line : Nat) (keep : Option Nat) : s.OffCores (s.dropProxies line keep) := by
  unfold State.dropProxies
  split
  · exact refl s
  · exact foldl (fun t d => of_onlySlices (.leaveSlice t _ _)) _ _

theorem spillUnheld (s : State) (line : Nat) : s.OffCores (s.spillUnheld line) := by
  unfold State.spillUnheld
  extract_lets m
  split
  · exact of_onlySlices (.spillSectors _ _ _)
  · exact refl s

theorem placeBytes (s : State) (line : Nat) (bs : List (Nat × Byte)) (keep : Option Nat) (streaming : Bool) :
    s.OffCores (s.placeBytes line bs keep streaming) :=
  (((dropProxies s line keep).trans quiet).trans (of_onlySlices (.holdHome _ _ _ _))).trans (spillUnheld _ _)

theorem rawWriteAs (s : State) (pa : Nat) (bs : List Byte) (streaming : Bool) : s.OffCores (s.rawWriteAs pa bs streaming) :=
  (foldl (fun t line => placeBytes t line _ _ _) _ _).trans (latchPhys _ _ _)

theorem roundWords (s : State) (line : Nat) (hit : Nat → Bool) : s.OffCores (s.roundWords line hit) := by
  unfold State.roundWords
  split
  · exact refl s
  · exact (foldl (fun t p => rawWriteAs t _ _ _) _ _).trans quiet

theorem roundSums (s : State) (pa n : Nat) : s.OffCores (s.roundSums pa n) := foldl (fun t line => roundWords t line _) _ _

theorem yieldSums (s : State) (line : Nat) (writes : Nat → Bool) : s.OffCores (s.yieldSums line writes) := by
  unfold State.yieldSums
  split
  · exact refl s
  · exact (roundWords _ _ _).trans quiet

theorem keepHeads (s t : State) (pa n : Nat) : t.OffCores (s.keepHeads t pa n) := by
  refine foldl (fun u p => ?_) _ _
  split
  · exact refl u
  · split
    · exact refl u
    · refine foldl (fun v i => ?_) _ _
      dsimp only
      split
      · exact refl v
      · exact (rawWriteAs _ _ _ _).trans (logHost _ _ _ _)

/-- The sums of the words that a write touches give way, where there are any. -/
theorem ifSums (h : s.OffCores t) : s.OffCores (if s.combine.isEmpty then s else t) := by
  split
  · exact refl s
  · exact h

theorem homeMasked (s : State) (g line : Nat) (data : BitVec 1024) (mask : BitVec 128) (streaming : Bool) :
    s.OffCores (s.homeMasked g line data mask streaming) := by
  unfold State.homeMasked
  dsimp only
  split
  · exact refl s
  · split
    · exact imageWrite _ _ _ _
    · exact (((ifSums (yieldSums _ _ _)).trans (placeBytes _ _ _ _ _)).trans (latchPhys _ _ _)).trans (keepHeads _ _ _ _)

theorem homeWriteAs (s : State) (pa : Nat) (bs : List Byte) (streaming : Bool) : s.OffCores (s.homeWriteAs pa bs streaming) := by
  unfold State.homeWriteAs
  split
  · exact imageWrite _ _ _ _
  · exact ((ifSums (foldl (fun t line => yieldSums t line _) _ _)).trans (rawWriteAs _ _ _ _)).trans (keepHeads _ _ _ _)

theorem combRoom (s : State) (line : Nat) : s.OffCores (s.combRoom line) := by
  unfold State.combRoom
  split
  · exact roundSums _ _ _
  · exact refl s

theorem combinePartial (s : State) (r : CRange) (l : L1Line) : s.OffCores (s.combinePartial r l) := by
  unfold State.combinePartial
  dsimp only
  split
  · exact (((combRoom s l.line).trans (of_onlySlices (.holdHome _ _ _ _))).trans quiet).trans (latchPhys _ _ _)
  · exact foldl (fun t i => homeWriteAs t _ _ _) _ _

theorem writeBackLine (s : State) (g : Nat) (l : L1Line) : s.OffCores (s.writeBackLine g l) := by
  unfold State.writeBackLine
  split
  · exact homeMasked _ _ _ _ _ _
  · split
    · split
      · exact combinePartial _ _ _
      · exact refl s
    · exact refl s

end State.OffCores

/-! What a drain and an invalidation leave in a grove's L1, and in the other groves (R169 steps 3 and 4). -/

@[simp] theorem State.sweep_groves (s : State) : s.sweep.groves = s.groves := (State.OnlySlices.sweep s).groves

@[simp] theorem State.sweep_cores (s : State) : s.sweep.cores = s.cores := (State.OnlySlices.sweep s).cores

@[simp] theorem State.grove_sweep (s : State) (g : Nat) : s.sweep.grove g = s.grove g := by rw [State.grove, State.grove, State.sweep_groves]

variable {s : State} {g : Nat}

/-- The L1 of a grove after a drain of some of its lines: those lines are clean. -/
theorem State.l1_drainLines (s : State) (g : Nat) (hit : L1Line → Bool) : ∃ bad : Nat → BitVec 128,
    ((s.drainLines g hit).grove g).l1 = (s.grove g).l1.map fun l => if hit l then l.clean (bad l.line) else l := by
  unfold State.drainLines
  extract_lets out s1 gr
  have h1 : s.OffCores s1 := .foldl (fun t l => .homeMasked t _ _ _ _ _) _ _
  have hgr : gr = s.grove g := h1.grove g
  refine ⟨s1.badL1 g, ?_⟩
  rw [State.grove_sweep, State.grove_setGrove, hgr]

theorem State.grove_drainLines_ne (s : State) {g h : Nat} (hit : L1Line → Bool) (hne : h ≠ g) : (s.drainLines g hit).grove h = s.grove h := by
  unfold State.drainLines
  extract_lets out s1 gr
  have h1 : s.OffCores s1 := .foldl (fun t l => .homeMasked t _ _ _ _ _) _ _
  rw [State.grove_sweep, State.grove_setGrove_ne _ _ hne.symm, h1.grove h]

theorem State.cores_drainLines (s : State) (g : Nat) (hit : L1Line → Bool) : (s.drainLines g hit).cores = s.cores := by
  rw [State.drainLines, State.sweep_cores]
  exact (State.OffCores.foldl (fun t l => .homeMasked t _ _ _ _ _) _ _).cores

/-- No dirty byte, no dirty-by-core bit. -/
theorem L1Line.clean_byCore (l : L1Line) (bad : BitVec 128) : (l.clean bad).byCore = 0 := by
  simp [L1Line.clean, L1Line.written]

theorem L1Line.clean_byAtom (l : L1Line) (bad : BitVec 128) : (l.clean bad).byAtom = 0 := by
  simp [L1Line.clean, L1Line.written]

@[simp] theorem L1Line.clean_upd (l : L1Line) (bad : BitVec 128) : (l.clean bad).upd = l.upd := rfl

/-- In a grove's L1, no line that holds data is dirty by the cores of a mask, stores and atomics told apart (R169 step 6, R301). -/
def Grove.CleanBy (v : Grove) (stores atomics : BitVec 8) : Prop :=
  ∀ l ∈ v.l1, l.upd = none → l.byCore &&& stores = 0 ∧ l.byAtom &&& atomics = 0

/-- A drain cleans the lines that it names, and makes none dirty. -/
theorem State.cleanBy_drainLines {s : State} {g : Nat} {hit : L1Line → Bool} {stores atomics : BitVec 8}
    (h : ∀ l ∈ (s.grove g).l1, l.upd = none → hit l = false → l.byCore &&& stores = 0 ∧ l.byAtom &&& atomics = 0) :
    ((s.drainLines g hit).grove g).CleanBy stores atomics := by
  obtain ⟨bad, hl1⟩ := s.l1_drainLines g hit
  intro l hl hupd
  rw [hl1] at hl
  obtain ⟨m, hm, rfl⟩ := List.mem_map.1 hl
  by_cases hhit : hit m = true
  · rw [if_pos hhit, L1Line.clean_byCore, L1Line.clean_byAtom]
    exact ⟨BitVec.zero_and, BitVec.zero_and⟩
  · rw [if_neg hhit] at hupd ⊢
    exact h m hm hupd (Bool.not_eq_true _ ▸ hhit)

/-- A drain of any grove leaves a grove clean that was so. -/
theorem State.CleanBy.drain {s : State} {g : Nat} {stores atomics : BitVec 8} (h : (s.grove g).CleanBy stores atomics) (q : Nat)
    (cores : BitVec 8) : ((s.drain q cores).grove g).CleanBy stores atomics := by
  by_cases hq : g = q
  · subst hq
    exact State.cleanBy_drainLines fun l hl hupd _ => h l hl hupd
  · rw [State.drain, State.grove_drainLines_ne _ _ hq]
    exact h

/-- The drains of an acquire fence leave a grove clean that was so. -/
theorem State.CleanBy.drainPending {s : State} {g : Nat} {stores atomics : BitVec 8} (h : (s.grove g).CleanBy stores atomics) (core : Nat)
    (sc : Scope) : ((s.drainPending core sc).grove g).CleanBy stores atomics := by
  unfold State.drainPending
  dsimp only
  split
  · exact List.foldlRecOn (motive := fun t : State => (t.grove g).CleanBy stores atomics) _ _ h fun t ht e _ => State.CleanBy.drain ht _ _
  · exact List.foldlRecOn (motive := fun t : State => (t.grove g).CleanBy stores atomics) _ _ h fun t ht e _ => State.CleanBy.drain ht _ _

theorem State.cores_drainPending (s : State) (core : Nat) (sc : Scope) : (s.drainPending core sc).cores = s.cores := by
  unfold State.drainPending
  dsimp only
  split
  · exact List.foldlRecOn (motive := fun t : State => t.cores = s.cores) _ _ rfl fun t ht e _ => (t.cores_drainLines _ _).trans ht
  · exact List.foldlRecOn (motive := fun t : State => t.cores = s.cores) _ _ rfl fun t ht e _ => (t.cores_drainLines _ _).trans ht

/-- In a grove's L1, of a line that holds data only the dirty bytes are valid (R169 step 4). -/
def Grove.DirtyOnly (v : Grove) : Prop := ∀ l ∈ v.l1, l.upd = none → l.valid = l.dirty

/-- A line that an invalidation has kept. -/
theorem State.mem_l1_invalidate {s : State} {g : Nat} {l : L1Line} (hl : l ∈ ((s.invalidate g).grove g).l1) (hupd : l.upd = none) :
    ∃ m ∈ (s.grove g).l1, m.upd = none ∧ l = { m with valid := m.dirty, recs := [] } := by
  rw [State.invalidate, State.grove_sweep, State.grove_setGrove] at hl
  obtain ⟨m, hm, rfl⟩ := List.mem_map.1 (List.mem_of_mem_filter hl)
  by_cases hsome : m.upd.isSome = true
  · rw [if_pos hsome] at hupd
    exact absurd hupd (Option.isSome_iff_ne_none.1 hsome)
  · rw [if_neg hsome] at hupd ⊢
    exact ⟨m, hm, hupd, rfl⟩

theorem State.dirtyOnly_invalidate (s : State) (g : Nat) : ((s.invalidate g).grove g).DirtyOnly := by
  intro l hl hupd
  obtain ⟨m, -, -, rfl⟩ := State.mem_l1_invalidate hl hupd
  rfl

theorem State.CleanBy.invalidate {s : State} {g : Nat} {stores atomics : BitVec 8} (h : (s.grove g).CleanBy stores atomics) :
    ((s.invalidate g).grove g).CleanBy stores atomics := by
  intro l hl hupd
  obtain ⟨m, hm, hnone, rfl⟩ := State.mem_l1_invalidate hl hupd
  exact h m hm hnone

theorem State.cores_invalidate (s : State) (g : Nat) : (s.invalidate g).cores = s.cores := State.sweep_cores _

end Sys2Proof.Machine
end
section /-! PROOF. The fences (R169, R187 to R189, O33). -/
set_option Elab.async false
namespace Sys2Proof.Machine
open Sys2Proof

section
variable {s : State} {cid : Nat} {c : Ctx} {k : FenceKind} {sc : Scope}

/-- What a fence waits for (R169 step 5, R280). -/
def State.fenceWaits (s : State) (k : FenceKind) (sc : Scope) : Bool :=
  acceptWait (s.coreRing s.here) || (k.rels && s.fabricWait s.here sc)

theorem runFence_stalls (hr : s.Ready cid c []) (hm : ringHasMem (s.coreRing s.here) = false) (hw : s.fenceWaits k sc = true) :
    runFence k sc s = .next { s with stalled := true } := by
  unfold State.fenceWaits at hw
  rw [runFence, runMem_ready hr (.inl rfl) hm]
  simp only [hw]
  rfl

theorem runFence_goes (hr : s.Ready cid c []) (hm : ringHasMem (s.coreRing s.here) = false) (hw : s.fenceWaits k sc = false) :
    runFence k sc s = (s.fenceActs s.here k sc).goes cid (c.img.next 4) := by
  unfold State.fenceWaits at hw
  rw [runFence, runMem_ready hr (.inl rfl) hm]
  simp only [hw]
  rfl

/-- Below die scope a fence has no effect (R187). -/
theorem State.fenceActs_near (s : State) (core : Nat) (k : FenceKind) (h : scopeWide sc = false) : s.fenceActs core k sc = s := by
  rw [State.fenceActs, h]
  rfl

theorem State.fenceActs_wide (s : State) (core : Nat) (k : FenceKind) (h : scopeWide sc = true) :
    s.fenceActs core k sc =
      let t := if k.rels then s.releaseFence core else s
      if k.acqs then t.acquireFence core sc else t := by
  rw [State.fenceActs, h]
  rfl

theorem scopeWide_iff : scopeWide sc = true ↔ sc = .die ∨ sc = .device ∨ sc = .fabric := by
  cases sc <;> decide

/-- A compute core has a grove (R441). -/
theorem groveOf_compute {core : Nat} (h : isService core = false) : groveOf core = some (coreGrove core) := by
  rw [groveOf, h]
  rfl

/-- The release part of a fence leaves no line dirty by the core (R169 step 6). -/
theorem State.cleanBy_releaseFence (s : State) {core : Nat} (h : isService core = false) :
    ((s.releaseFence core).grove (coreGrove core)).CleanBy (coreBit core) (coreBit core) := by
  rw [State.releaseFence, groveOf_compute h]
  refine State.cleanBy_drainLines fun l _ hupd hhit => ?_
  have hzero : (l.byCore ||| l.byAtom) &&& coreBit core = 0 := by simpa [hupd] using hhit
  exact BitVec.or_eq_zero_iff.1 (by rwa [BitVec.and_or_distrib_right] at hzero)

theorem State.cores_releaseFence (s : State) (core : Nat) : (s.releaseFence core).cores = s.cores := by
  unfold State.releaseFence
  split
  · exact State.cores_drainLines _ _ _
  · rfl

/-- A core whose acquire fence has cleared its pending-drain set, but for what lies outside the scope (R169 step 5). -/
def Core.fenced (c : Core) (core : Nat) (sc : Scope) : Core :=
  { c with pending := .listed [], beyond := c.undrained.outside sc (groveOf core) (coreDie core) }

/-- The state in which an acquire fence invalidates: its drains done, its set cleared (R169 step 5). -/
def State.fenceCleared (s : State) (core : Nat) (sc : Scope) : State :=
  (s.drainPending core sc).setCore core (((s.drainPending core sc).core core).fenced core sc)

theorem State.acquireFence_compute (s : State) {core : Nat} (sc : Scope) (h : isService core = false) :
    s.acquireFence core sc = (s.fenceCleared core sc).invalidate (coreGrove core) := by
  unfold State.acquireFence
  rw [groveOf_compute h]
  dsimp only
  rw [State.fenceCleared, Core.fenced, groveOf_compute h]

theorem State.cores_acquireFence (s : State) (core : Nat) (sc : Scope) : (s.acquireFence core sc).cores = (s.fenceCleared core sc).cores := by
  unfold State.acquireFence
  dsimp only
  split
  · exact State.cores_invalidate _ _
  · rfl

theorem State.core_fenceCleared (s : State) (core : Nat) (sc : Scope) :
    (s.fenceCleared core sc).core core = (s.core core).fenced core sc := by
  have hcore : (s.drainPending core sc).core core = s.core core := by
    rw [State.core, State.core, State.cores_drainPending]
  rw [State.fenceCleared, State.core_setCore, hcore]

theorem State.core_acquireFence (s : State) (core : Nat) (sc : Scope) :
    (s.acquireFence core sc).core core = (s.core core).fenced core sc := by
  rw [← State.core_fenceCleared, State.core, State.core, State.cores_acquireFence]

theorem State.dirtyOnly_acquireFence (s : State) {core : Nat} (sc : Scope) (h : isService core = false) :
    ((s.acquireFence core sc).grove (coreGrove core)).DirtyOnly := by
  rw [State.acquireFence_compute s sc h]
  exact State.dirtyOnly_invalidate _ _

theorem State.CleanBy.acquireFence {core : Nat} (sc : Scope) (h : isService core = false) {stores atomics : BitVec 8}
    (hc : (s.grove (coreGrove core)).CleanBy stores atomics) : ((s.acquireFence core sc).grove (coreGrove core)).CleanBy stores atomics := by
  rw [State.acquireFence_compute s sc h]
  exact State.CleanBy.invalidate (State.CleanBy.drainPending hc core sc)

/-- The window of `fence.w` (R189): it stalls while its window lasts, and then commits; the boundary that it waits for stays the same. -/
theorem execFenceW_window (hr : s.Ready cid c []) :
    let w := c.fenceWait s
    let k := s.core w.core
    (s.windowWait w = true → exec .fenceW s = .next { s.setCtx cid { c with winWait := some w } with stalled := true }) ∧
    (s.windowWait w = false → exec .fenceW s =
      ((s.setCore w.core { k with lastWin := if k.lastWin = w.win then none else k.lastWin }).setCtx cid
        { c with winWait := none }).goes cid (c.img.next 4)) ∧
    (∀ n, w.win = some n → s.writesQueued w.core w.serial = false → s.drifted = false → (s.windowWait w = true ↔ s.window < n + 2)) ∧
    (c.winWait = some w → w.pc = c.img.pc → ∀ u : State, c.fenceWait u = w) := by
  intro w k
  have hrun := runInstr_ready hr (sys := false) (.inl rfl) noPrefix
  refine ⟨fun hw => ?_, fun hw => ?_, fun n hn hq hd => ?_, fun hwin hpc u => ?_⟩
  · rw [exec_fenceW, execFenceW, hrun]
    dsimp only
    rw [if_pos hw]
    rfl
  · rw [exec_fenceW, execFenceW, hrun]
    dsimp only
    rw [if_neg (Bool.eq_false_iff.1 hw)]
    rfl
  · simp [State.windowWait, hq, hn, hd]
  · rw [Ctx.fenceWait, hwin]
    exact if_pos hpc

end

/-- Settles O33: what a fence waits for, its release and acquire parts, and the window of `fence.w`. -/
theorem fencesOrderAndWait : Obligations.FencesOrderAndWait := by
  intro s cid c sc hready go wide ring waitsA waitsR g clean fresh left
  have hwide : wide ↔ scopeWide sc = true := scopeWide_iff.symm
  have hnear (h : ¬ wide) : scopeWide sc = false := Bool.not_eq_true _ ▸ mt hwide.2 h
  have hR (h : waitsR) {k : FenceKind} (hk : k.rels = true) : s.fenceWaits k sc = true := by
    rw [State.fenceWaits, hk]
    exact Bool.or_eq_true_iff.2 h
  have hnotR (h : ¬ waitsR) (k : FenceKind) : s.fenceWaits k sc = false := by
    obtain ⟨ha, hf⟩ := not_or.1 h
    rw [State.fenceWaits, Bool.eq_false_of_not_eq_true ha, Bool.eq_false_of_not_eq_true hf, Bool.and_false]
    rfl
  have hnotA (h : ¬ waitsA) : s.fenceWaits .acq sc = false := by
    rw [State.fenceWaits, Bool.eq_false_of_not_eq_true h]
    rfl
  have hclean {t : State} (h : isService s.here = false → (t.grove g).CleanBy (coreBit s.here) (coreBit s.here)) : clean t := by
    intro hservice l hl hupd
    obtain ⟨hcore, hatom⟩ := h hservice l hl hupd
    rw [BitVec.and_or_distrib_right, hcore, hatom]
    rfl
  have hleft {t : State} (h : t.core s.here = (s.core s.here).fenced s.here sc) : left t := by
    unfold left
    rw [h]
    exact ⟨rfl, rfl⟩
  refine ⟨fun hm h => ⟨runFence_stalls hready hm (hR h rfl), runFence_stalls hready hm (hR h rfl)⟩,
    fun hm h => runFence_stalls hready hm (Bool.or_eq_true_iff.2 (.inl h)),
    fun hm h hw => ⟨?_, ?_⟩, fun hm h hw => ?_, fun hm h hw => ⟨⟨_, runFence_goes hready hm (hnotR h _), ?_, ?_, ?_⟩, _,
      runFence_goes hready hm (hnotR h _), ?_⟩, fun hm h hw => ⟨_, runFence_goes hready hm (hnotA h), ?_, ?_⟩, ?_⟩
  · rw [exec_fence, execFence, runFence_goes hready hm (hnotR h _), State.fenceActs_near _ _ _ (hnear hw)]
  · rw [exec_fenceRel, execFenceRel, runFence_goes hready hm (hnotR h _), State.fenceActs_near _ _ _ (hnear hw)]
  · rw [exec_fenceAcq, execFenceAcq, runFence_goes hready hm (hnotA h), State.fenceActs_near _ _ _ (hnear hw)]
  all_goals try rw [State.fenceActs_wide _ _ _ (hwide.1 hw)]
  · exact hclean fun hservice => State.CleanBy.acquireFence sc hservice (State.cleanBy_releaseFence s hservice)
  · exact fun hservice => State.dirtyOnly_acquireFence _ sc hservice
  · have hcore : (s.releaseFence s.here).core s.here = s.core s.here := by
      rw [State.core, State.core, State.cores_releaseFence]
    exact hleft ((State.core_acquireFence _ _ _).trans (congrArg (Core.fenced · s.here sc) hcore))
  · exact hclean fun hservice => State.cleanBy_releaseFence s hservice
  · exact fun hservice => State.dirtyOnly_acquireFence _ sc hservice
  · exact hleft (State.core_acquireFence s s.here sc)
  · obtain ⟨hat, hpp, -⟩ := hready
    exact execFenceW_window ⟨hat, hpp, interlocked_nil _⟩
end Sys2Proof.Machine
end
section /-! PROOF. A store through the L1 that writes an image back (R94, R165, O30). -/
set_option Elab.async false
namespace Sys2Proof.Machine
open Sys2Proof

/-- A context that is not resident, with a bit of its pc that the image does not define (R92), and line 127 of its image at its home. -/
def oddImage : Ctx :=
  { Ctx.start { Image.zero with pc := 0xFF00000000000000#64 } 0
      { cls := 0, place := 0, placeArg := 0, srch := false, inc := 0, signal := none, elig := 0, promo := 0 } with homes := [(127, 0)] }

/-- Its image begins in the middle of a line, so that it ends in the middle of line 64; core 0 still holds line 127 of it, uncorrectable. -/
def oddState : State :=
  { State.reset with
    ctxs := [(0, oddImage)]
    cores := [(0, { Core.fresh with lines := [(0, 127)], utlb := [⟨1, 0, 30, 0, false, true, true⟩] })]
    dies := [(0, { Die.fresh with imgBase := 64, imgCount := 1 })]
    badSram := [.regs 0 0 127] }

/-- A `global` segment of 64 KiB at 0 under ASID 1. -/
def oddSegment : Desc := ⟨0, 0x10000, 0x1C1, 0⟩

/-- The store falls beside the image. -/
theorem plainRange_oddState : oddState.PlainRange 8256 1 := by
  refine ⟨⟨rfl, fun g l h => nomatch h⟩, by decide, rfl, fun k hk => ?_, fun p hp a ha => ?_⟩
  · obtain rfl : k = 0 := by omega
    rfl
  · obtain rfl := List.mem_singleton.1 hp
    cases ha

theorem hasRoom_oddState : oddState.HasRoom 0 64 := .inr (by decide)

/-- The store recalls the line, and with it the uncorrectable one of the image, whose bytes are written from the home again (R94, R179): the
undefined bit of the pc is gone. -/
theorem homeByte_oddState : oddState.homeByte 0x1147 = 0xFF#8 ∧ (oddState.segStore 0 oddSegment 8256 [1] none).1.homeByte 0x1147 = 0#8 := by
  decide +kernel

/-- Refutes O30: a store through the L1 into a line in whose first half an image ends recalls the image's last lines. Where one of them is
uncorrectable in a register cache, the image is patched, and a reserved bit of its pc reads as 0 at its home from then on. -/
theorem not_plainStoresLandInTheirPlace : ¬ Obligations.PlainStoresLandInTheirPlace := by
  intro h
  obtain ⟨-, -, -, hline⟩ := h oddState 0 oddSegment 8256 [1] (by decide) (by decide)
  obtain ⟨hthrough, -⟩ := hline (by decide) (by decide) oddState 8256 (by decide +kernel) plainRange_oddState
  obtain ⟨t, ht, hsame, -⟩ := hthrough (by decide) hasRoom_oddState
  obtain ⟨hbefore, hafter⟩ := homeByte_oddState
  have hbyte := hsame 0x1147
  rw [ht] at hafter
  rw [hbefore, hafter] at hbyte
  exact absurd hbyte (by decide)

end Sys2Proof.Machine
end

section /-! PROOF. Bytes at the homes, and the images there, under moves and writes (R94, R166). -/
set_option Elab.async false
namespace Sys2Proof.Machine
open Sys2Proof

/-! More work that moves bytes between slices and memory only (R166, R167). -/

namespace State.OnlySlices

theorem dropProxies (s : State) (line : Nat) (keep : Option Nat) : s.OnlySlices (s.dropProxies line keep) := by
  unfold State.dropProxies
  split
  · exact refl s
  · exact foldl (fun t d => leaveSlice t _ _) _ _

theorem spillUnheld (s : State) (line : Nat) : s.OnlySlices (s.spillUnheld line) := by
  unfold State.spillUnheld
  extract_lets m
  split
  · exact spillSectors _ _ _
  · exact refl s

end State.OnlySlices

/-! The images that the homes hold (R94). -/

/-- The contexts' images are the same, and in the same places. -/
structure State.SameImages (s t : State) : Prop where
  place : ∀ pa, t.imageAt? pa = s.imageAt? pa
  img : ∀ cid, (t.ctx? cid).map Ctx.img = (s.ctx? cid).map Ctx.img

namespace State.SameImages

variable {s t u : State}

theorem refl (s : State) : s.SameImages s := ⟨fun _ => rfl, fun _ => rfl⟩

theorem trans (h : s.SameImages t) (k : t.SameImages u) : s.SameImages u :=
  ⟨fun pa => (k.place pa).trans (h.place pa), fun cid => (k.img cid).trans (h.img cid)⟩

/-- Where the images lie is a matter of the dies, and of which contexts there are. -/
theorem of_dies (hd : ∀ d, (t.die d).imgBase = (s.die d).imgBase ∧ (t.die d).imgCount = (s.die d).imgCount)
    (hx : ∀ cid, (t.ctx? cid).map Ctx.img = (s.ctx? cid).map Ctx.img) : s.SameImages t := by
  refine ⟨fun pa => ?_, hx⟩
  have hsome (cid : Nat) : (t.ctx? cid).isSome = (s.ctx? cid).isSome := by
    rw [← Option.isSome_map (f := Ctx.img), hx cid, Option.isSome_map]
  obtain ⟨hbase, hcount⟩ := hd (homeDie pa)
  simp only [State.imageAt?, hbase, hcount, hsome]

/-- A change of neither the dies nor the contexts. -/
theorem quiet (hd : t.dies = s.dies := by rfl) (hx : t.ctxs = s.ctxs := by rfl) : s.SameImages t :=
  of_dies (fun d => by rw [State.die_of_dies hd]; exact ⟨rfl, rfl⟩) fun cid => by rw [State.ctx?, hx]; rfl

/-- A change of every context that keeps its image. -/
theorem ctxs {f : Nat × Ctx → Nat × Ctx} (hk : ∀ p, (f p).1 = p.1) (hi : ∀ p, (f p).2.img = p.2.img) (hd : t.dies = s.dies := by rfl)
    (hx : t.ctxs = s.ctxs.map f := by rfl) : s.SameImages t := by
  refine of_dies (fun d => by rw [State.die_of_dies hd]; exact ⟨rfl, rfl⟩) fun cid => ?_
  rw [State.ctx?, State.ctx?, hx, Tab.get?_map hk, Option.map_map]
  exact congrArg (Option.map · _) (funext fun c => hi (cid, c))

end State.SameImages

/-! What a list of bytes with their addresses leaves at an address, the last of them winning. -/

/-- The last byte of a list for an address. -/
def lastByte (bs : List (Nat × Byte)) (pa : Nat) : Option Byte := bs.foldl (fun b q => if q.1 = pa then some q.2 else b) none

theorem get?_foldl_set (bs : List (Nat × Byte)) (t : Tab Byte) (pa : Nat) :
    Tab.get? (bs.foldl (fun (t : Tab Byte) p => t.set p.1 p.2) t) pa =
      bs.foldl (fun b q => if q.1 = pa then some q.2 else b) (t.get? pa) := by
  induction bs generalizing t with
  | nil => rfl
  | cons q rest ih =>
    rw [List.foldl_cons, List.foldl_cons, ih]
    by_cases hq : q.1 = pa
    · rw [if_pos hq, ← hq, Tab.get?_set]
    · rw [if_neg hq, Tab.get?_set_ne _ _ hq]

theorem foldl_lastByte (bs : List (Nat × Byte)) (pa : Nat) (b : Option Byte) :
    bs.foldl (fun b q => if q.1 = pa then some q.2 else b) b = (lastByte bs pa).or b := by
  induction bs using List.reverseRecOn with
  | nil => rfl
  | append_singleton rest q ih =>
    simp only [lastByte, List.foldl_append, List.foldl_cons, List.foldl_nil] at ih ⊢
    split
    · rfl
    · exact ih

/-- Bytes at numbered places from a base: what an address gets is the byte of its number. -/
theorem lastByte_map (base : Nat) (g : Nat → Byte) (l : List Nat) (pa : Nat) :
    lastByte (l.map fun i => (base + i, g i)) pa = if base ≤ pa ∧ pa - base ∈ l then some (g (pa - base)) else none := by
  induction l using List.reverseRecOn with
  | nil => simp [lastByte]
  | append_singleton rest i ih =>
    simp only [lastByte, List.map_append, List.map_cons, List.map_nil, List.foldl_append, List.foldl_cons, List.foldl_nil] at ih ⊢
    by_cases hi : base + i = pa
    · subst hi
      simp
    · have hne : ¬ (base ≤ pa ∧ pa - base = i) := by omega
      rw [if_neg hi, ih]
      simp only [List.mem_append, List.mem_singleton, and_or_left, hne, or_false]

/-! Writes at the homes. -/

/-- Bytes are put at the homes, by address: what a home holds else stays, images included, where nothing is uncorrectable in SRAM and every tier
island has power. -/
def State.Puts (s t : State) (f : Nat → Option Byte) : Prop :=
  s.Steady → t.Steady ∧ s.SameImages t ∧ ∀ pa, t.stored pa = (f pa).getD (s.stored pa)

/-- No byte at a home changes, where nothing is uncorrectable in SRAM and every tier island has power. -/
def State.KeepsBytes (s t : State) : Prop := s.Puts t fun _ => none

namespace State.Puts

variable {s t u : State} {f g : Nat → Option Byte}

theorem refl (s : State) : s.KeepsBytes s := fun hs => ⟨hs, .refl s, fun _ => rfl⟩

theorem trans (h : s.Puts t f) (k : t.Puts u g) : s.Puts u fun pa => (g pa).or (f pa) := by
  intro hs
  obtain ⟨ht, himg, hst⟩ := h hs
  obtain ⟨hu, kimg, kst⟩ := k ht
  refine ⟨hu, himg.trans kimg, fun pa => ?_⟩
  rw [kst, hst]
  cases hg : g pa with
  | none => simp [hg]
  | some b => simp [hg]

/-- Bytes are put, and then nothing changes. -/
theorem thenKeeps (h : s.Puts t f) (k : t.KeepsBytes u) : s.Puts u f := h.trans k

/-- Nothing changes, and then bytes are put. -/
theorem afterKeeps (h : s.KeepsBytes t) (k : t.Puts u f) : s.Puts u f := by
  have := h.trans k
  simpa using this

theorem foldl {α : Type} {h : State → α → State} (hh : ∀ (t : State) (a : α), t.KeepsBytes (h t a)) (s : State) (l : List α) :
    s.KeepsBytes (l.foldl h s) :=
  List.foldlRecOn (motive := s.KeepsBytes) _ _ (refl s) fun t ht a _ => ht.trans (hh t a)

theorem of_onlySlices (h : s.OnlySlices t) : s.KeepsBytes t := fun hs =>
  ⟨h.steady hs, .quiet h.dies h.ctxs, (h.stored hs).2⟩

/-- A change of groves, cores and the like. -/
theorem quiet (hi : s.SameImages t) (hd : t.dram = s.dram := by rfl) (hl : t.slice = s.slice := by rfl)
    (hp : t.tierPower = s.tierPower := by rfl) (hb : ∀ q ∈ t.badSram, q ∈ s.badSram := by exact fun _ h => h) : s.KeepsBytes t := by
  intro hs
  refine ⟨⟨List.eq_nil_iff_forall_not_mem.2 fun q hq => ?_, hp.trans hs.2.1, hd ▸ hs.2.2⟩, hi, fun pa => ?_⟩
  · have := hb q hq
    rw [hs.1] at this
    exact List.not_mem_nil this
  · rw [State.stored, State.stored, hd, hl]
    rfl

/-- A byte at its home after the write of bytes that are no image's. -/
theorem homeByte (h : s.Puts t f) (hs : s.Steady) (hf : ∀ pa, (f pa).isSome = true → s.imageAt? pa = none) (pa : Nat) :
    t.homeByte pa = (f pa).getD (s.homeByte pa) := by
  obtain ⟨-, himg, hst⟩ := h hs
  cases hi : s.imageAt? pa with
  | none => rw [State.homeByte_stored hi, State.homeByte_stored ((himg.place pa).trans hi), hst]
  | some p =>
    have hnone : f pa = none := by
      cases hfp : f pa with
      | none => rfl
      | some b => exact absurd ((hf pa (by rw [hfp]; rfl)).symm.trans hi) nofun
    rw [hnone, State.homeByte, State.homeByte, himg.place, hi]
    have hmap := himg.img p.1
    cases hc : s.ctx? p.1 with
    | none =>
      rw [hc, Option.map_none, Option.map_eq_none_iff] at hmap
      simp [hmap, hc]
    | some c =>
      rw [hc, Option.map_some, Option.map_eq_some_iff] at hmap
      obtain ⟨x, hx, hximg⟩ := hmap
      simp [hx, hc, hximg]

end State.Puts

/-- No byte at a home changes. -/
theorem State.KeepsBytes.homeByte {s t : State} (h : s.KeepsBytes t) (hs : s.Steady) (pa : Nat) : t.homeByte pa = s.homeByte pa :=
  State.Puts.homeByte h hs (by simp) pa

theorem State.KeepsBytes.trans {s t u : State} (h : s.KeepsBytes t) (k : t.KeepsBytes u) : s.KeepsBytes u := State.Puts.thenKeeps h k

theorem State.KeepsBytes.homeBytes {s t : State} (h : s.KeepsBytes t) (hs : s.Steady) (pa n : Nat) : t.homeBytes pa n = s.homeBytes pa n :=
  List.map_congr_left fun k _ => h.homeByte hs (pa + k)

namespace State.Puts

variable {s t u : State} {f g : Nat → Option Byte}

theorem setGrove (s : State) (g : Nat) (v : Grove) : s.KeepsBytes (s.setGrove g v) := quiet .quiet

theorem setCore (s : State) (k : Nat) (v : Core) : s.KeepsBytes (s.setCore k v) := quiet .quiet

theorem pend (s : State) (core : Nat) (es : List (Nat × BitVec 8)) : s.KeepsBytes (s.pend core es) := by
  unfold State.pend
  split
  · exact refl s
  · exact setCore _ _ _

theorem count (s : State) (k : Nat) (sys : Bool) (ev n : Nat) : s.KeepsBytes (s.count k sys ev n) := setCore _ _ _

theorem countMiss (s : State) (core pa n : Nat) (store : Bool) : s.KeepsBytes (s.countMiss core pa n store) := by
  unfold State.countMiss
  extract_lets sys hit
  split
  · exact refl s
  · exact count _ _ _ _ _

theorem sweep (s : State) : s.KeepsBytes s.sweep := of_onlySlices (.sweep s)

theorem dropL1 (s : State) (g line : Nat) : s.KeepsBytes (s.dropL1 g line) := (setGrove _ _ _).trans (sweep _)

theorem latchPhys (s : State) (pa n : Nat) : s.KeepsBytes (s.latchPhys pa n) := by
  unfold State.latchPhys
  split
  · exact refl s
  · refine quiet (.ctxs (f := fun p => match p.2.watch with
        | some (.phys r) => if pa / 64 ≤ r ∧ r ≤ (pa + n - 1) / 64 then (p.1, { p.2 with latch := true }) else p
        | _ => p) (fun p => ?_) fun p => ?_)
    · dsimp only
      split
      · split
        · rfl
        · rfl
      · rfl
    · dsimp only
      split
      · split
        · rfl
        · rfl
      · rfl

theorem latchGrove (s : State) (g pa n : Nat) : s.KeepsBytes (s.latchGrove g pa n) := by
  unfold State.latchGrove
  split
  · exact refl s
  · refine quiet (.ctxs (f := _) (fun p => ?_) (fun p => ?_) rfl rfl)
    · dsimp only
      split
      · split
        · rfl
        · rfl
      · rfl
    · dsimp only
      split
      · split
        · rfl
        · rfl
      · rfl

/-- A line leaves the register caches: with no error in SRAM the image stays (R94). -/
theorem dropReg (s : State) (cid line : Nat) : s.KeepsBytes (s.dropReg cid line) := by
  intro hs
  have hkeep := State.KeepsHomes.dropReg s cid line
  have hregs : s.RegsSound := fun core c l hq => by
    rw [hs.1] at hq
    exact List.not_mem_nil hq
  refine ⟨hkeep.steady hs, .of_dies (fun d => by rw [State.die_of_dies hkeep.dies]; exact ⟨rfl, rfl⟩) fun o => ?_, (hkeep.stored hs).2⟩
  cases hc : s.ctx? o with
  | none =>
    have hsome := (State.KeepsFocus.dropReg s cid line).ctxs o
    rw [hc] at hsome
    rw [Option.isNone_iff_eq_none.1 (Option.isSome_eq_false_iff.1 hsome)]
  | some c =>
    obtain ⟨x, hx, -, hxkeep⟩ := (State.KeepsCtx.dropReg (p := True) (cid := o) s cid line).ctx hc
    rw [hx, Option.map_some, Option.map_some, (hxkeep trivial).2 hregs]

theorem recallImage (s : State) (line : Nat) : s.KeepsBytes (s.recallImage line) := by
  unfold State.recallImage
  split
  · exact refl s
  · split
    · exact refl s
    · exact (dropReg _ _ _).trans (dropReg _ _ _)

theorem touch (s : State) (d line : Nat) (m : BitVec 4) (streaming : Bool) : s.KeepsBytes (s.touch d line m streaming) :=
  of_onlySlices (.touch ..)

theorem touchRange (s : State) (d pa n : Nat) (streaming : Bool) : s.KeepsBytes (s.touchRange d pa n streaming) :=
  of_onlySlices (.touchRange ..)

/-- Bytes of a line are put at its home (R166). -/
theorem placeBytes (s : State) (line : Nat) (bs : List (Nat × Byte)) (keep : Option Nat) (streaming : Bool) :
    s.Puts (s.placeBytes line bs keep streaming) (lastByte bs) := by
  unfold State.placeBytes
  extract_lets g has whole some_ m s1 s2
  have h1 : s.KeepsBytes s1 := of_onlySlices (.dropProxies ..)
  have h2 : s1.Puts s2 (lastByte bs) := by
    intro hs
    refine ⟨⟨?_, hs.2.1, hs.2.2⟩, .quiet, fun pa => ?_⟩
    · unfold s2
      rw [hs.1]
      rfl
    · unfold s2 State.stored
      rw [get?_foldl_set, foldl_lastByte]
      cases lastByte bs pa with
      | none => rfl
      | some b => rfl
  have h3 : s2.KeepsBytes ((s2.holdHome line m streaming).spillUnheld line) :=
    of_onlySlices ((State.OnlySlices.holdHome s2 line m streaming).trans (.spillUnheld ..))
  exact thenKeeps (afterKeeps h1 h2) h3

end State.Puts
end Sys2Proof.Machine
end

section /-! PROOF. Work beside plain lines, and where their data is good (R94, R173, R179). -/
set_option Elab.async false
namespace Sys2Proof.Machine
open Sys2Proof

/-! Work beside the lines of memory: an image comes back, a count, a set of groves to drain, a slice that takes a line. -/

/-- Nothing differs but contexts, cores (not their early loads), and what the slices hold of memory. -/
structure State.Beside (s t : State) : Prop where
  eq : t = { s with cores := t.cores, ctxs := t.ctxs, dram := t.dram, slice := t.slice, ways := t.ways, proxies := t.proxies, badSram := t.badSram }
  early : ∀ k, (t.core k).early = (s.core k).early

namespace State.Beside

variable {s t u : State}

theorem refl (s : State) : s.Beside s := ⟨rfl, fun _ => rfl⟩

theorem trans (h : s.Beside t) (k : t.Beside u) : s.Beside u :=
  ⟨k.eq.trans (congrArg (fun x : State =>
    { x with cores := u.cores, ctxs := u.ctxs, dram := u.dram, slice := u.slice, ways := u.ways, proxies := u.proxies, badSram := u.badSram })
    h.eq), fun c => (k.early c).trans (h.early c)⟩

theorem of_onlySlices (h : s.OnlySlices t) : s.Beside t := by
  refine ⟨h.eq.trans ?_, fun k => by rw [State.core, State.core, h.cores]⟩
  rw [h.cores, h.ctxs]

theorem setCore {k : Nat} {v : Core} (hv : v.early = (s.core k).early) : s.Beside (s.setCore k v) := by
  refine ⟨rfl, fun j => ?_⟩
  by_cases hj : k = j
  · subst hj
    rw [State.core_setCore, hv]
  · rw [State.core_setCore_ne _ _ hj]

theorem pend (s : State) (core : Nat) (es : List (Nat × BitVec 8)) : s.Beside (s.pend core es) := by
  unfold State.pend
  split
  · exact refl s
  · exact setCore rfl

theorem count (s : State) (k : Nat) (sys : Bool) (ev n : Nat) : s.Beside (s.count k sys ev n) := setCore rfl

theorem countMiss (s : State) (core pa n : Nat) (store : Bool) : s.Beside (s.countMiss core pa n store) := by
  unfold State.countMiss
  extract_lets sys hit
  split
  · exact refl s
  · exact count _ _ _ _ _

theorem dropReg (s : State) (cid line : Nat) : s.Beside (s.dropReg cid line) := by
  refine ⟨?_, fun k => by rw [State.core_dropReg]; rfl⟩
  unfold State.dropReg State.updCtx
  split
  · rfl
  · split
    · rfl
    · rfl

theorem recallImage (s : State) (line : Nat) : s.Beside (s.recallImage line) := by
  unfold State.recallImage
  split
  · exact refl s
  · split
    · exact refl s
    · exact (dropReg _ _ _).trans (dropReg _ _ _)

theorem touch (s : State) (d line : Nat) (m : BitVec 4) (streaming : Bool) : s.Beside (s.touch d line m streaming) :=
  of_onlySlices (.touch ..)

theorem touchRange (s : State) (d pa n : Nat) (streaming : Bool) : s.Beside (s.touchRange d pa n streaming) :=
  of_onlySlices (.touchRange ..)

section
variable (h : s.Beside t)
include h

theorem groves : t.groves = s.groves := (congrArg State.groves h.eq :)
theorem combine : t.combine = s.combine := (congrArg State.combine h.eq :)
theorem bad : t.bad = s.bad := (congrArg State.bad h.eq :)
theorem records : t.records = s.records := (congrArg State.records h.eq :)
theorem ranges : t.ranges = s.ranges := (congrArg State.ranges h.eq :)
theorem dies : t.dies = s.dies := (congrArg State.dies h.eq :)

theorem grove (g : Nat) : t.grove g = s.grove g := by rw [State.grove, State.grove, h.groves]

theorem comb? (line : Nat) : t.comb? line = s.comb? line := by rw [State.comb?, State.comb?, h.combine]

theorem plain {line : Nat} (hp : s.Plain line) : t.Plain line := by
  obtain ⟨hc, hu⟩ := hp
  exact ⟨(h.comb? line).trans hc, fun g l hl => hu g l (by rwa [h.grove] at hl)⟩

end

end State.Beside

/-! A plain line within which an access lies: nothing waits to be combined, so only an image comes back. -/

/-- An access within a line touches that line only. -/
theorem linesOf_within {pa n : Nat} (hn : 0 < n) (h : pa % 128 + n ≤ 128) : linesOf pa n = [lineOf pa] := by
  have hone : (pa + n - 1) / 128 + 1 - pa / 128 = 1 := by omega
  rw [linesOf, if_neg (by omega), hone]
  rfl

section
variable {s : State} {line pa n : Nat}

theorem State.recallLine_of_plain (hp : s.Plain line) : s.recallLine line = s.recallImage line := by
  have hi := (State.Beside.recallImage s line).plain hp
  unfold State.recallLine
  refine List.foldlRecOn (motive := (· = s.recallImage line)) _ _ rfl fun t ht g _ => ?_
  subst ht
  split
  next l hl => simp [hi.2 g l hl]
  next => rfl

theorem State.roundWords_of_comb? (hc : s.comb? line = none) (hit : Nat → Bool) : s.roundWords line hit = s := by
  rw [State.roundWords, hc]

theorem State.roundSums_within (hc : s.comb? (lineOf pa) = none) (hn : 0 < n) (h : pa % 128 + n ≤ 128) : s.roundSums pa n = s := by
  rw [State.roundSums, linesOf_within hn h, List.foldl_cons, List.foldl_nil, State.roundWords_of_comb? hc]

theorem State.settle_within (hp : s.Plain (lineOf pa)) (hn : 0 < n) (h : pa % 128 + n ≤ 128) :
    s.settle pa n = s.recallImage (lineOf pa) := by
  rw [State.settle, linesOf_within hn h, List.foldl_cons, List.foldl_nil, State.recallLine_of_plain hp]
  exact State.roundSums_within ((State.Beside.recallImage s _).plain hp).1 hn h

theorem State.l1Room_of_hasRoom {g : Nat} (hnone : (s.grove g).line? line = none) (hr : s.HasRoom g line) : s.l1Room g line = s := by
  have hlt := hr.resolve_left (by simp [hnone])
  unfold State.l1Room
  extract_lets inSet
  split
  · exact if_neg (Nat.not_le.2 hlt)
  · rfl

end

/-! Where data is good (R179). -/

theorem State.ways_dropReg (s : State) (cid line : Nat) : (s.dropReg cid line).ways = s.ways := by
  unfold State.dropReg State.updCtx
  split
  · rfl
  · split
    · rfl
    · rfl

theorem State.ways_recallImage (s : State) (line : Nat) : (s.recallImage line).ways = s.ways := by
  unfold State.recallImage
  split
  · rfl
  · split
    · rfl
    · rw [State.ways_dropReg, State.ways_dropReg]

section
variable {s : State} (hb : s.badSram = [])
include hb

theorem State.badSlice_clean (d pa n : Nat) : s.badSlice d pa n = false := by rw [State.badSlice, hb]; rfl

theorem State.badL1_clean (g line : Nat) : s.badL1 g line = 0 := by simp [State.badL1, hb]

theorem State.badInL1_clean (g line k n : Nat) : s.badInL1 g line k n = false := by rw [State.badInL1, hb]; rfl

theorem State.badAt_clean (d pa n : Nat) : s.badAt d pa n = s.badMemory pa n := by
  rw [State.badAt, State.badSlice_clean hb, Bool.or_false]

/-- A sector that an access touches is good where the access meets no bad data. -/
theorem State.badAt_sector {d pa n q : Nat} (h : s.badAt d pa n = false) (hlo : pa / 32 ≤ q) (hhi : q ≤ (pa + n - 1) / 32) :
    s.badAt d (32 * q) 32 = false := by
  rw [State.badAt_clean hb, State.badMemory, List.any_eq_false] at h ⊢
  intro p hp
  have := h p hp
  simp only [Bool.and_eq_true, decide_eq_true_eq] at this ⊢
  rintro ⟨⟨h1, h2⟩, h3⟩
  exact this ⟨⟨by omega, by omega⟩, h3⟩

end

/-- An image that comes back makes no data bad. -/
theorem State.badAt_recallImage {s : State} (hs : s.Steady) (line d pa n : Nat) : (s.recallImage line).badAt d pa n = s.badAt d pa n := by
  have hb := (State.Puts.recallImage s line hs).1.1
  rw [State.badAt_clean hb, State.badAt_clean hs.1, State.badMemory, State.badMemory, (State.Beside.recallImage s line).bad]
  simp only [State.holdsSector, State.way?, State.ways_recallImage]

/-- The count of a miss makes no data bad. -/
theorem State.badAt_countMiss (s : State) (core a m : Nat) (store : Bool) (d pa n : Nat) :
    (s.countMiss core a m store).badAt d pa n = s.badAt d pa n := by
  unfold State.countMiss
  extract_lets sys hit
  split
  · rfl
  · rfl

end Sys2Proof.Machine
end

section /-! PROOF. The bytes of an L1 line, and its fill from the home (R165). -/
set_option Elab.async false
namespace Sys2Proof.Machine
open Sys2Proof

/-! The bytes of an L1 line (R165). -/

theorem getLsbD_ones8 (i : Nat) : (0xFF#1024).getLsbD i = decide (i < 8) := by
  rw [show (0xFF#1024) = BitVec.ofNat 1024 (2 ^ 8 - 1) from rfl, BitVec.getLsbD_ofNat, Nat.testBit_two_pow_sub_one]
  by_cases hi : i < 8
  · simp [hi]
    omega
  · simp [hi]

/-- A byte of a line after one of its bytes is set. -/
theorem lineByte_setLineByte (d : BitVec 1024) {j k : Nat} (hj : j < 128) (hk : k < 128) (b : Byte) :
    lineByte (setLineByte d k b) j = if j = k then b else lineByte d j := by
  refine BitVec.eq_of_getLsbD_eq fun i hi => ?_
  have hlt : 8 * j + i < 1024 := by omega
  simp only [lineByte, setLineByte, BitVec.getLsbD_extractLsb', hi, decide_true, Bool.true_and, BitVec.getLsbD_or, BitVec.getLsbD_and,
    BitVec.getLsbD_not, BitVec.getLsbD_shiftLeft, getLsbD_ones8, BitVec.getLsbD_setWidth, hlt]
  by_cases hjk : j = k
  · subst hjk
    simp [hi, show i < 1024 by omega]
  · rw [if_neg hjk]
    rcases Nat.lt_or_gt_of_ne hjk with hlt' | hgt
    · simp [show 8 * j + i < 8 * k by omega, hi]
    · have hge : 8 ≤ 8 * j + i - 8 * k := by omega
      simp [show ¬ 8 * j + i - 8 * k < 8 by omega, hi, BitVec.getLsbD_of_ge b _ hge]

/-- A byte of a line after a list of its bytes is set, each to a byte of its own number. -/
theorem lineByte_foldl_set (keep : Nat → Bool) (f : Nat → Byte) (ks : List Nat) (d : BitVec 1024) {j : Nat} (hj : j < 128)
    (hks : ∀ k ∈ ks, k < 128) :
    lineByte (ks.foldl (fun d k => if keep k then d else setLineByte d k (f k)) d) j =
      if j ∈ ks ∧ keep j = false then f j else lineByte d j := by
  induction ks using List.reverseRecOn with
  | nil => simp
  | append_singleton rest k ih =>
    have ih := ih fun x hx => hks x (List.mem_append_left _ hx)
    rw [List.foldl_append, List.foldl_cons, List.foldl_nil]
    by_cases hjk : j = k
    · subst hjk
      cases hkeep : keep j with
      | true => simp [ih, hkeep]
      | false => simp [lineByte_setLineByte _ hj hj]
    · cases hkeep : keep k with
      | true => simp [ih, hjk]
      | false =>
        have hk : k < 128 := hks k (List.mem_append_right _ (List.mem_singleton_self k))
        simp [ih, hjk, lineByte_setLineByte _ hj hk]

/-! The fill of a line from its home, under its dirty bytes (R165). -/

/-- Nothing of a line but its data and what of it is valid differs. -/
def L1Line.SameMarks (l m : L1Line) : Prop := m = { l with data := m.data, valid := m.valid }

theorem getLsbD_byteMask (k n j : Nat) : (byteMask k n).getLsbD j = decide (j < 128 ∧ k ≤ j ∧ j < k + n) := by
  rw [byteMask, BitVec.getLsbD_shiftLeft, BitVec.getLsbD_ofNat, Nat.testBit_two_pow_sub_one]
  by_cases hj : j < 128 ∧ k ≤ j ∧ j < k + n
  · obtain ⟨h1, h2, h3⟩ := hj
    simp [h1, h2, h3, show ¬ j < k by omega, show j - k < n by omega, show j - k < 128 by omega]
  · simp only [hj, decide_false, Bool.and_eq_false_imp, Bool.and_eq_true, decide_eq_true_eq, Bool.not_eq_true', decide_eq_false_iff_not]
    rintro ⟨h1, h2⟩ -
    exact fun h3 => hj ⟨h1, by omega, by omega⟩

namespace State

variable (s : State) (l : L1Line)

theorem getLsbD_valid_fillSector (q j : Nat) :
    (s.fillSector l q).valid.getLsbD j = (l.valid.getLsbD j || decide (j < 128 ∧ j / 32 = q)) := by
  rw [fillSector, BitVec.getLsbD_or, getLsbD_byteMask]
  refine congrArg (l.valid.getLsbD j || ·) (decide_eq_decide.2 ?_)
  omega

theorem lineByte_fillSector {q j : Nat} (hq : q < 4) (hj : j < 128) :
    lineByte (s.fillSector l q).data j =
      if j / 32 = q ∧ l.dirty.getLsbD j = false then s.homeByte (128 * l.line + j) else lineByte l.data j := by
  have h := lineByte_foldl_set (fun k => l.dirty.getLsbD k) (fun k => s.homeByte (128 * l.line + k))
    ((List.range 32).map (32 * q + ·)) l.data hj (by simp; omega)
  rw [List.foldl_map] at h
  rw [fillSector]
  refine h.trans (if_congr (and_congr_left' ?_) rfl rfl)
  simp only [List.mem_map, List.mem_range]
  exact ⟨by rintro ⟨i, hi, rfl⟩; omega, fun h => ⟨j - 32 * q, by omega, by omega⟩⟩

/-- A line after the fill of some sectors. -/
def fillSectors (qs : List Nat) : L1Line := qs.foldl (fun l q => s.fillSector l q) l

theorem fillSectors_sameMarks (qs : List Nat) : l.SameMarks (s.fillSectors l qs) := by
  induction qs using List.reverseRecOn with
  | nil => rfl
  | append_singleton rest q ih =>
    rw [fillSectors, List.foldl_append]
    exact congrArg (fun m : L1Line => { m with data := (s.fillSector (s.fillSectors l rest) q).data,
                                               valid := (s.fillSector (s.fillSectors l rest) q).valid }) ih

theorem fillSectors_append (qs : List Nat) (q : Nat) : s.fillSectors l (qs ++ [q]) = s.fillSector (s.fillSectors l qs) q := by
  rw [fillSectors, List.foldl_append]
  rfl

theorem dirty_fillSectors (qs : List Nat) : (s.fillSectors l qs).dirty = l.dirty :=
  (congrArg L1Line.dirty (s.fillSectors_sameMarks l qs) :)

theorem line_fillSectors (qs : List Nat) : (s.fillSectors l qs).line = l.line :=
  (congrArg L1Line.line (s.fillSectors_sameMarks l qs) :)

theorem getLsbD_valid_fillSectors (qs : List Nat) {j : Nat} (hj : j < 128) :
    (s.fillSectors l qs).valid.getLsbD j = (l.valid.getLsbD j || decide (j / 32 ∈ qs)) := by
  induction qs using List.reverseRecOn with
  | nil => simp [fillSectors]
  | append_singleton rest q ih =>
    rw [fillSectors_append, getLsbD_valid_fillSector, ih, Bool.or_assoc, ← Bool.decide_or]
    refine congrArg (l.valid.getLsbD j || ·) (decide_eq_decide.2 ?_)
    simp [hj]

theorem lineByte_fillSectors {qs : List Nat} (hqs : ∀ q ∈ qs, q < 4) {j : Nat} (hj : j < 128) :
    lineByte (s.fillSectors l qs).data j =
      if j / 32 ∈ qs ∧ l.dirty.getLsbD j = false then s.homeByte (128 * l.line + j) else lineByte l.data j := by
  induction qs using List.reverseRecOn with
  | nil => simp [fillSectors]
  | append_singleton rest q ih =>
    rw [fillSectors_append, lineByte_fillSector _ _ (hqs q (by simp)) hj, ih fun x hx => hqs x (by simp [hx]), dirty_fillSectors, line_fillSectors]
    by_cases hd : l.dirty.getLsbD j = false
    · by_cases hq : j / 32 = q
      · simp [hd, hq]
      · simp [hd, hq]
    · simp [hd]

end State

theorem mem_missingSectors {l : L1Line} {k n q : Nat} (hin : k + n ≤ 128) :
    q ∈ missingSectors l k n ↔ ∃ i, i < n ∧ (k + i) / 32 = q ∧ l.valid.getLsbD (k + i) = false := by
  simp only [missingSectors, List.mem_filter, List.mem_range, List.any_eq_true, Bool.and_eq_true, beq_iff_eq, Bool.not_eq_true']
  refine ⟨fun h => h.2, fun h => ⟨?_, h⟩⟩
  obtain ⟨i, hi, rfl, -⟩ := h
  omega

end Sys2Proof.Machine
end

section /-! PROOF. Loads through the L1 of a plain line (R165). -/
set_option Elab.async false
namespace Sys2Proof.Machine
open Sys2Proof

/-! A line that joins a grove's L1 as the most or the least recently used (R163, R165). -/

namespace Grove

variable (g : Grove) (l : L1Line) (streaming : Bool)

theorem find?_others : (g.l1.filter fun m => m.line != l.line).find? (fun m => m.line == l.line) = none := by
  simp

theorem line?_putLine : (g.putLine l streaming).line? l.line = some { l with stream := streaming } := by
  cases streaming with
  | true => simp only [putLine, line?, if_true, List.find?_append, find?_others]; simp
  | false => simp [putLine, line?]

theorem line?_putLine_ne {line : Nat} (h : line ≠ l.line) : (g.putLine l streaming).line? line = g.line? line := by
  have hrest : (g.l1.filter fun m => m.line != l.line).find? (fun m => m.line == line) = g.l1.find? fun m => m.line == line := by
    rw [List.find?_filter]
    refine congrArg (List.find? · g.l1) (funext fun m => ?_)
    by_cases hm : m.line = line
    · simp [hm, h]
    · simp [hm]
  have hl : (l.line == line) = false := beq_eq_false_iff_ne.2 (Ne.symm h)
  cases streaming with
  | true => simp only [putLine, line?, if_true, List.find?_append, hrest, List.find?_cons, hl]; simp
  | false => simpa [putLine, line?, hl] using hrest

end Grove

/-- A byte of a line as cores see it over its home's, where its valid bytes count (R165). -/
def L1Line.over (l : L1Line) (s : State) (p : Nat) : Byte := if l.valid.getLsbD (p % 128) then lineByte l.data (p % 128) else s.homeByte p

theorem State.seen_line {s : State} {g p : Nat} {l : L1Line} (h : (s.grove g).line? (lineOf p) = some l) : s.seen g p = l.over s p := by
  rw [State.seen, h]
  rfl

theorem State.seen_noLine {s : State} {g p : Nat} (h : (s.grove g).line? (lineOf p) = none) : s.seen g p = s.homeByte p := by
  rw [State.seen, h]

/-- A line joins a grove's L1, where no home byte and no other grove changes. -/
structure State.PutsLine (s t : State) (g : Nat) (l : L1Line) (streaming : Bool) : Prop where
  groves : t.groves = (s.setGrove g ((s.grove g).putLine l streaming)).groves
  bytes : s.KeepsBytes t

namespace State.PutsLine

variable {s t u : State} {g : Nat} {l : L1Line} {streaming : Bool}

theorem thenKeeps (h : s.PutsLine t g l streaming) (hg : u.groves = t.groves) (hb : t.KeepsBytes u) : s.PutsLine u g l streaming :=
  ⟨hg.trans h.groves, h.bytes.trans hb⟩

theorem afterKeeps (h : t.PutsLine u g l streaming) (hg : t.groves = s.groves) (hb : s.KeepsBytes t) : s.PutsLine u g l streaming := by
  refine ⟨h.groves.trans ?_, hb.trans h.bytes⟩
  simp only [State.setGrove, State.grove, hg]

theorem of_setGrove (s : State) (g : Nat) (l : L1Line) (streaming : Bool) :
    s.PutsLine (s.setGrove g ((s.grove g).putLine l streaming)) g l streaming :=
  ⟨rfl, .setGrove _ _ _⟩

section
variable (h : s.PutsLine t g l streaming)
include h

theorem grove : t.grove g = (s.grove g).putLine l streaming := by
  rw [State.grove, h.groves]
  exact State.grove_setGrove _ _ _

theorem grove_ne {q : Nat} (hq : q ≠ g) : t.grove q = s.grove q := by
  rw [State.grove, h.groves]
  exact State.grove_setGrove_ne _ _ (Ne.symm hq)

theorem line? : (t.grove g).line? l.line = some { l with stream := streaming } := by
  rw [h.grove, Grove.line?_putLine]

theorem line?_ne {line : Nat} (hl : line ≠ l.line) : (t.grove g).line? line = (s.grove g).line? line := by
  rw [h.grove, Grove.line?_putLine_ne _ _ _ hl]

/-- What the cores of the grove see then: the line where it is valid, and elsewhere what they saw. -/
theorem seen (hs : s.Steady) (p : Nat) : t.seen g p = if lineOf p = l.line then l.over s p else s.seen g p := by
  by_cases hp : lineOf p = l.line
  · rw [if_pos hp, State.seen_line (l := { l with stream := streaming }) (by rw [hp, h.line?])]
    unfold L1Line.over
    rw [h.bytes.homeByte hs]
  · rw [if_neg hp, State.seen, State.seen, h.line?_ne hp]
    cases (s.grove g).line? (lineOf p) with
    | none => exact h.bytes.homeByte hs p
    | some m => simp only [h.bytes.homeByte hs]

end

end State.PutsLine

/-- A line shows a grove what it saw of the line's bytes. -/
def L1Line.Shows (l : L1Line) (s : State) (g : Nat) : Prop := ∀ p, lineOf p = l.line → l.over s p = s.seen g p

/-! A load through the L1 of bytes of a plain line (R165, R179). -/

section
variable {s : State} {core pa n : Nat} (hs : s.Steady) (hp : s.Plain (lineOf pa)) (streaming : Bool)
include hs hp

/-- A read through the L1 of bytes that are valid there. -/
theorem State.l1Load_hit {l : L1Line} (hl : (s.grove (coreGrove core)).line? (lineOf pa) = some l)
    (hv : ∀ k, k < n → l.valid.getLsbD (pa % 128 + k) = true) :
    ∃ t, s.PutsLine t (coreGrove core) l streaming ∧ t.combine = s.combine ∧ (∀ k, (t.core k).early = (s.core k).early) ∧
      s.l1Load core pa n streaming = (t, some (l.bytes (pa % 128) n)) := by
  have hbeside := State.Beside.recallImage s (lineOf pa)
  have hkeep := State.Puts.recallImage s (lineOf pa)
  have hmiss : missingSectors l (pa % 128) n = [] := by
    refine List.filter_eq_nil_iff.2 fun q _ => ?_
    simp only [List.any_eq_true, not_exists, List.mem_range, Bool.and_eq_true, Bool.not_eq_true']
    rintro i ⟨hi, -, hnot⟩
    exact absurd ((hv i hi).symm.trans hnot) nofun
  have hput := State.PutsLine.of_setGrove (s.recallImage (lineOf pa)) (coreGrove core) l streaming
  have hpend := State.Beside.pend ((s.recallImage (lineOf pa)).setGrove (coreGrove core)
    (((s.recallImage (lineOf pa)).grove (coreGrove core)).putLine l streaming)) core l.recs
  refine ⟨_, (hput.thenKeeps hpend.groves (.pend _ _ _)).afterKeeps hbeside.groves hkeep, hpend.combine.trans hbeside.combine,
    fun k => (hpend.early k).trans (hbeside.early k), ?_⟩
  unfold State.l1Load
  simp only [State.recallLine_of_plain hp, State.badInL1_clean (hkeep hs).1.1, hbeside.grove, hl, Option.getD_some, hmiss]
  rfl

variable (hn : 0 < n) (hin : pa % 128 + n ≤ 128)
include hn hin

/-- A read through the L1 of a line that is not there fetches it from its home. -/
theorem State.l1Load_absent (hnone : (s.grove (coreGrove core)).line? (lineOf pa) = none) (hroom : s.HasRoom (coreGrove core) (lineOf pa))
    (hbad : s.badAt (coreDie core) pa n = false) :
    ∃ t l, s.PutsLine t (coreGrove core) l streaming ∧ l.line = lineOf pa ∧ l.upd = none ∧ l.Shows s (coreGrove core) ∧
      t.combine = s.combine ∧ (∀ k, (t.core k).early = (s.core k).early) ∧
      s.l1Load core pa n streaming = (t, some (s.homeBytes pa n)) := by
  have hbeside := State.Beside.recallImage s (lineOf pa)
  have hkeep := State.Puts.recallImage s (lineOf pa)
  have hplain := hbeside.plain hp
  obtain ⟨miss, hmissing⟩ : ∃ ms, missingSectors (L1Line.fresh (lineOf pa)) (pa % 128) n = ms := ⟨_, rfl⟩
  have hmem (q : Nat) : q ∈ miss ↔ ∃ i, i < n ∧ (pa % 128 + i) / 32 = q := by
    rw [← hmissing, mem_missingSectors hin]
    exact exists_congr fun i => and_congr_right fun _ => and_iff_left (BitVec.getLsbD_zero ..)
  have hsector (q : Nat) (hq : q ∈ miss) : q < 4 := by
    obtain ⟨i, hi, rfl⟩ := (hmem q).1 hq
    omega
  have hmiss : miss.isEmpty = false := List.isEmpty_eq_false_iff_exists_mem.2 ⟨_, (hmem _).2 ⟨0, hn, rfl⟩⟩
  have hgood : (miss.any fun q => (s.recallImage (lineOf pa)).badAt (coreDie core) (128 * lineOf pa + 32 * q) 32) = false := by
    refine List.any_eq_false.2 fun q hq => Bool.not_eq_true _ ▸ ?_
    obtain ⟨i, hi, rfl⟩ := (hmem q).1 hq
    rw [State.badAt_recallImage hs, show 128 * lineOf pa + 32 * ((pa % 128 + i) / 32) = 32 * ((pa + i) / 32) by unfold lineOf; omega]
    exact State.badAt_sector hs.1 hbad (by omega) (by omega)
  have hround : miss.foldl (fun (t : State) q => t.roundSums (128 * lineOf pa + 32 * q) 32) (s.recallImage (lineOf pa)) =
      s.recallImage (lineOf pa) := by
    refine List.foldlRecOn (motive := (· = s.recallImage (lineOf pa))) _ _ rfl fun t ht q hq => ?_
    have hq := hsector q hq
    have hline : lineOf (128 * lineOf pa + 32 * q) = lineOf pa := by unfold lineOf; omega
    rw [ht]
    exact State.roundSums_within (by rw [hline]; exact hplain.1) (by decide) (by omega)
  have hroom0 : (s.recallImage (lineOf pa)).l1Room (coreGrove core) (lineOf pa) = s.recallImage (lineOf pa) :=
    State.l1Room_of_hasRoom (by rw [hbeside.grove, hnone]) (by rw [State.HasRoom, hbeside.grove]; exact hroom)
  let recs := joinRecs [] ((s.recallImage (lineOf pa)).recordOf (lineOf pa))
  let u := ((s.recallImage (lineOf pa)).pend core recs).touch (coreDie core) (lineOf pa) (BitVec.ofNat 4 ((miss.map fun q => 2 ^ q).sum)) streaming
  have hu : s.KeepsBytes u := (hkeep.trans (.pend _ _ _)).trans (.touch _ _ _ _ _)
  have hub : s.Beside u := (hbeside.trans (.pend _ _ _)).trans (.touch _ _ _ _ _)
  let l : L1Line := { L1Line.fresh (lineOf pa) with recs := recs }
  have hsame := u.fillSectors_sameMarks l miss
  have hdata {j : Nat} (hj : j < 128) (hjm : j / 32 ∈ miss) : lineByte (u.fillSectors l miss).data j = s.homeByte (128 * lineOf pa + j) := by
    rw [State.lineByte_fillSectors _ _ hsector hj, if_pos ⟨hjm, BitVec.getLsbD_zero ..⟩, hu.homeByte hs]
    rfl
  refine ⟨u.setGrove (coreGrove core) ((u.grove (coreGrove core)).putLine (u.fillSectors l miss) streaming), u.fillSectors l miss,
    (State.PutsLine.of_setGrove _ _ _ _).afterKeeps hub.groves hu, (congrArg L1Line.line hsame :), (congrArg L1Line.upd hsame :),
    fun p hline => ?_, hub.combine, hub.early, ?_⟩
  · have hline : lineOf p = lineOf pa := hline.trans (congrArg L1Line.line hsame :)
    rw [State.seen_noLine (by rw [hline, hnone]), L1Line.over]
    split
    next hv =>
      rw [State.getLsbD_valid_fillSectors _ _ _ (Nat.mod_lt _ (by decide))] at hv
      rw [hdata (Nat.mod_lt _ (by decide)) (by simpa [l, L1Line.fresh] using hv), ← hline, lineOf, Nat.div_add_mod]
    next => rfl
  · have hbytes : (u.fillSectors l miss).bytes (pa % 128) n = s.homeBytes pa n := by
      refine List.map_congr_left fun k hk => ?_
      have hk : k < n := List.mem_range.1 hk
      rw [hdata (by omega) ((hmem _).2 ⟨k, hk, rfl⟩)]
      exact congrArg _ (show 128 * (pa / 128) + (pa % 128 + k) = pa + k by omega)
    unfold State.l1Load
    simp only [State.recallLine_of_plain hp, State.badInL1_clean (hkeep hs).1.1, hbeside.grove, hnone, Option.getD_none, hmissing, hmiss,
      hgood, hround, hroom0, ← hbytes]
    rfl

end

end Sys2Proof.Machine
end

section /-! PROOF. Loads (R181, O29). -/
set_option Elab.async false
namespace Sys2Proof.Machine
open Sys2Proof

/-! A core with no load performed ahead of its turn (R283 case 4). -/

section
variable {s : State} {core : Nat} (he : (s.core core).early = [])
include he

theorem State.takeEarly_none (p : Place) (plain : Bool) (bs : List Byte) : s.takeEarly core p plain bs = (s, bs) := by
  simp [State.takeEarly, he]

theorem State.dropEarly_none : s.dropEarly core = s := by simp [State.dropEarly, he]

theorem State.takeEarlyParts_none (ps : List (Nat × Nat)) (plain : Bool) (bs : List Byte) :
    s.takeEarlyParts core ps plain bs = (s, bs) := by
  unfold State.takeEarlyParts
  split
  · exact State.takeEarly_none he _ _ _
  · rw [State.dropEarly_none he]

end

/-! A load past its segment checks, by the way its translation goes (R164, R181). -/

section
variable {s s1 s2 t : State} {core n : Nat} {d : Desc} {off : Int} {nc : Bool} {pa pb : Nat} {bs : List Byte} {e : FaultRec}
  (hc : segCheck d kindsAll (isService core) off n n true false false = none)

include hc in
theorem segLoad_loadPast : s.segLoad core d off n nc none = s.loadPast core d off n nc none := by rw [State.segLoad, hc]

/-- The distance from the accessed address to the next line. -/
def toNextLine (d : Desc) (off : Int) : Nat := 128 - segVa d off % 128

include hc in
theorem segLoad_bank (hk : d.kind = kCluster) (he : (s.core core).early = [])
    (hb : s.badBank (coreGrove core) (d.base + off.toNat) n = false) :
    s.segLoad core d off n nc none = (s, .ok (s.bankBytes (coreGrove core) (d.base + off.toNat) n)) := by
  rw [segLoad_loadPast hc]
  simp [State.loadPast, hk, State.readBank, hb, State.takeEarly_none he]

include hc in
theorem segLoad_bank_bad (hk : d.kind = kCluster) (hb : s.badBank (coreGrove core) (d.base + off.toNat) n = true) :
    s.segLoad core d off n nc none = (s.reportBank (coreGrove core) (d.base + off.toNat) core, .error (uncorr d off 1 false)) := by
  rw [segLoad_loadPast hc]
  simp [State.loadPast, hk, State.readBank, hb]

theorem accessParts_error {acc : Access} {wr : Bool} (ha : s.accessPa core d off acc wr = (s1, .error e)) :
    s.accessParts core d off n acc wr = (s1, .error e) := by
  simp [State.accessParts, ha]

theorem accessParts_within {acc : Access} {wr : Bool} (ha : s.accessPa core d off acc wr = (s1, .ok pa)) (hn : n ≤ toNextLine d off) :
    s.accessParts core d off n acc wr = (s1, .ok [(pa, n)]) := by
  simp [State.accessParts, ha, show n ≤ 128 - segVa d off % 128 from hn]

section
variable {acc : Access} {wr : Bool} (ha : s.accessPa core d off acc wr = (s1, .ok pa)) (hn : toNextLine d off < n)
include ha hn

theorem accessParts_second_error (hb : s1.accessPa core d (off + toNextLine d off) acc wr = (s2, .error e)) :
    s.accessParts core d off n acc wr = (s2, .error e) := by
  simp only [State.accessParts, ha, if_neg (show ¬ n ≤ 128 - segVa d off % 128 from Nat.not_le.2 hn)]
  rw [show ((128 - segVa d off % 128 : Nat) : Int) = (toNextLine d off : Nat) from rfl, hb]

theorem accessParts_two (hb : s1.accessPa core d (off + toNextLine d off) acc wr = (s2, .ok pb)) :
    s.accessParts core d off n acc wr = (s2, .ok [(pa, toNextLine d off), (pb, n - toNextLine d off)]) := by
  simp only [State.accessParts, ha, if_neg (show ¬ n ≤ 128 - segVa d off % 128 from Nat.not_le.2 hn)]
  rw [show ((128 - segVa d off % 128 : Nat) : Int) = (toNextLine d off : Nat) from rfl, hb]
  rfl

end

theorem readParts_cons {p : Nat × Nat} {ps : List (Nat × Nat)} {more : List Byte} (h : s.readAt core d p.1 p.2 nc = (s1, some bs))
    (hr : s1.readParts core d ps nc = (t, .ok more)) : s.readParts core d (p :: ps) nc = (t, .ok (bs ++ more)) := by
  simp only [State.readParts, h, hr]

theorem readParts_single {p : Nat × Nat} (h : s.readAt core d p.1 p.2 nc = (s1, some bs)) :
    s.readParts core d [p] nc = (s1, .ok bs) := by
  rw [readParts_cons h rfl, List.append_nil]

variable (hk : d.kind ≠ kCluster)
include hc hk

theorem segLoad_parts_error (ha : s.accessParts core d off n .read false = (s1, .error e)) :
    s.segLoad core d off n nc none = (s1, .error e) := by
  rw [segLoad_loadPast hc]
  simp [State.loadPast, hk, ha]

theorem segLoad_parts {ps : List (Nat × Nat)} (ha : s.accessParts core d off n .read false = (s1, .ok ps))
    (hr : s1.readParts core d ps nc = (t, .ok bs)) (he : (t.core core).early = []) :
    s.segLoad core d off n nc none = (t, .ok bs) := by
  rw [segLoad_loadPast hc]
  simp [State.loadPast, hk, ha, hr, State.takeEarlyParts_none he]

/-- An access within a line reads its one part. -/
theorem segLoad_within (ha : s.accessPa core d off .read false = (s1, .ok pa)) (hn : n ≤ toNextLine d off)
    (hr : s1.readAt core d pa n nc = (t, some bs)) (he : (t.core core).early = []) :
    s.segLoad core d off n nc none = (t, .ok bs) :=
  segLoad_parts hc hk (accessParts_within ha hn) (readParts_single hr) he

end

/-! Reads of a plain line within which the access lies (R165, R166, R179). -/

/-- A byte of a line as an agent sees it over the home's, where only its dirty bytes count. -/
def dirtyOver (own : Option L1Line) (k : Nat) (b : Byte) : Byte :=
  match own with
  | some l => if l.dirty.getLsbD k then lineByte l.data k else b
  | none => b

section
variable {s : State} {core pa n : Nat} (hs : s.Steady) (hp : s.Plain (lineOf pa)) (hn : 0 < n) (hin : pa % 128 + n ≤ 128)
  (streaming : Bool)
include hs hp hn hin

/-- A read at the slice level merges the dirty bytes of the grove named over the home's, and changes no grove and no home byte. -/
theorem State.ncLoad_plain (hbad : s.badAt (coreDie core) pa n = false) (grove? : Option Nat) :
    ∃ t, s.Beside t ∧ s.KeepsBytes t ∧ s.ncLoad core grove? pa n streaming = (t, some ((List.range n).map fun k =>
      dirtyOver (grove?.bind fun g => (s.grove g).line? (lineOf pa)) (pa % 128 + k) (s.homeByte (pa + k)))) := by
  have hbeside := State.Beside.recallImage s (lineOf pa)
  have hkeep := State.Puts.recallImage s (lineOf pa)
  refine ⟨((s.recallImage (lineOf pa)).takeRecord core (lineOf pa)).touchRange (coreDie core) pa n streaming,
    (hbeside.trans (.pend ..)).trans (.touchRange ..), (hkeep.trans (.pend _ _ _)).trans (.touchRange _ _ _ _ _), ?_⟩
  have hclean := (hkeep hs).1.1
  have hbad0 : (s.recallImage (lineOf pa)).badAt (coreDie core) pa n = false := by rw [State.badAt_recallImage hs, hbad]
  unfold State.ncLoad
  simp only [State.settle_within hp hn hin, hbeside.grove, hbad0, Bool.and_false, Bool.or_false]
  rw [if_neg]
  · refine congrArg (Prod.mk _ ∘ some) (List.map_congr_left fun k _ => ?_)
    unfold dirtyOver
    cases grove?.bind fun g => (s.grove g).line? (lineOf pa) with
    | none => exact State.KeepsBytes.homeByte hkeep hs _
    | some l => rw [State.KeepsBytes.homeByte hkeep hs]
  · rw [Bool.not_eq_true]
    cases grove? with
    | none => rfl
    | some g => rw [hclean]; rfl

end

/-! The place of a read (R163, R165, R181, R410). -/

section
variable {s : State} {core pa n : Nat} {d : Desc} {nc : Bool} (hm : mgmtAt? pa = none)

/-- Whose dirty bytes a read at the slice level merges. -/
def mergedGrove (core : Nat) (d : Desc) : Option Nat := if d.kind = kHostm then none else groveOf core

/-- The own grove's dirty bytes show but for a hostm segment and on a service core. -/
theorem dirtyOver_merged (s : State) (core line k : Nat) (d : Desc) (b : Byte) :
    dirtyOver ((mergedGrove core d).bind fun g => (s.grove g).line? line) k b =
      match (s.grove (coreGrove core)).line? line with
      | some l => if l.dirty.getLsbD k = true ∧ d.kind ≠ kHostm ∧ isService core = false then lineByte l.data k else b
      | none => b := by
  unfold mergedGrove groveOf
  by_cases hk : d.kind = kHostm
  · rw [if_pos hk]
    cases (s.grove (coreGrove core)).line? line with
    | none => rfl
    | some l => simp [dirtyOver, hk]
  · rw [if_neg hk]
    cases hsv : isService core with
    | true =>
      cases (s.grove (coreGrove core)).line? line with
      | none => rfl
      | some l => simp [dirtyOver]
    | false =>
      simp only [Bool.false_eq_true, if_false, Option.bind_some]
      cases (s.grove (coreGrove core)).line? line with
      | none => rfl
      | some l => simp [dirtyOver, hk]

include hm

theorem readAt_slice (h : nc = true ∨ d.pol = 2 ∨ d.kind = kHostm ∨ isService core = true) :
    ∃ streaming, s.readAt core d pa n nc = s.ncLoad core (mergedGrove core d) pa n streaming := by
  unfold State.readAt mergedGrove
  rw [hm]
  by_cases hk : d.kind = kHostm
  · exact ⟨false, by simp only [hk, if_true]⟩
  · refine ⟨d.streams, ?_⟩
    simp only [hk, if_false]
    cases hg : groveOf core with
    | none => rfl
    | some g =>
      have hsv : isService core ≠ true := fun hsv => by simp [groveOf, hsv] at hg
      have hsl : (nc || d.pol == 2) = true := by simpa [hk, hsv] using h
      dsimp only
      rw [if_pos hsl]

theorem readAt_l1 (h : ¬ (nc = true ∨ d.pol = 2 ∨ d.kind = kHostm ∨ isService core = true)) :
    s.readAt core d pa n nc = (s.countMiss core pa n false).l1Load core pa n d.streams := by
  simp only [not_or] at h
  obtain ⟨hnc, hpol, hk, hsv⟩ := h
  unfold State.readAt
  rw [hm]
  simp [hk, groveOf, hsv, hnc, hpol]

end

/-- Settles O29: each clause is one way through a load's checks, and a plain line leaves nothing to be combined before it is read. -/
theorem plainLoadsReadTheirPlace : Obligations.PlainLoadsReadTheirPlace := by
  unfold Obligations.PlainLoadsReadTheirPlace
  intro s core d off n nc hn hc g k
  refine ⟨fun hk he hb => segLoad_bank hc hk he hb, fun hk hb => segLoad_bank_bad hc hk hb,
    fun hk s1 e ha => segLoad_parts_error hc hk (accessParts_error ha), fun hk hin s1 pa dd o ha hm he => ?_,
    fun hk hlt s1 pa s2 r ha hb => ⟨?_, ?_⟩, fun hk hin s1 pa ha hp hinv he hpow hsram hgood hfit hm => ?_⟩
  · exact segLoad_within hc hk ha hin (by rw [State.readAt, hm]) he
  · rintro e rfl
    exact segLoad_parts_error hc hk (accessParts_second_error ha hlt hb)
  · rintro pb rfl t1 b1 t2 b2 h1 h2 he
    exact segLoad_parts hc hk (accessParts_two ha hlt hb) (readParts_cons h1 (readParts_single h2)) he
  · have hs : s1.Steady := ⟨hsram, hpow, hinv.1.1⟩
    have hcount := State.Beside.countMiss s1 core pa n false
    have hkeep := State.Puts.countMiss s1 core pa n false
    intro line? sliceLevel
    refine ⟨fun hsl => ?_, fun hsl l hl hv => ?_, fun hsl hnone hroom => ?_⟩
    · obtain ⟨st, hread⟩ := readAt_slice (s := s1) (n := n) hm hsl
      obtain ⟨t, hbeside, hbytes, hload⟩ := State.ncLoad_plain hs hp hn hfit st hgood (mergedGrove core d)
      refine ⟨t, hbeside.groves, hbytes.homeByte hs, ?_⟩
      rw [segLoad_within hc hk ha hin (hread.trans hload) ((hbeside.early core).trans he)]
      refine congrArg (fun bs => (t, Except.ok bs)) (List.map_congr_left fun k _ => ?_)
      obtain ⟨own, hown⟩ : ∃ o, line? = o := ⟨_, rfl⟩
      rw [dirtyOver_merged, show (s1.grove (coreGrove core)).line? (lineOf pa) = own from hown, hown]
      cases own with
      | none => rfl
      | some l => rfl
    · obtain ⟨t, hput, -, hearly, hload⟩ := State.l1Load_hit (hkeep hs).1 (hcount.plain hp) d.streams (by rw [hcount.grove]; exact hl) hv
      exact ⟨t, (hkeep.trans hput.bytes).homeByte hs,
        segLoad_within hc hk ha hin ((readAt_l1 hm hsl).trans hload) ((hearly core).trans ((hcount.early core).trans he))⟩
    · have hgood' : (s1.countMiss core pa n false).badAt (coreDie core) pa n = false := by rw [State.badAt_countMiss, hgood]
      obtain ⟨t, _, hput, -, -, -, -, hearly, hload⟩ := State.l1Load_absent (hkeep hs).1 (hcount.plain hp) d.streams hn hfit (by rw [hcount.grove]; exact hnone)
        (by rw [State.HasRoom, hcount.grove]; exact hroom) hgood'
      refine ⟨t, (hkeep.trans hput.bytes).homeByte hs, ?_⟩
      rw [segLoad_within hc hk ha hin ((readAt_l1 hm hsl).trans hload) ((hearly core).trans ((hcount.early core).trans he)),
        hkeep.homeBytes hs]
      rfl

end Sys2Proof.Machine
end

section /-! PROOF. Writes at the homes and into the L1 on plain lines (R165, R166). -/
set_option Elab.async false
namespace Sys2Proof.Machine
open Sys2Proof

/-! Writes at the homes within a line that no sum, image or mailbox index is concerned with (R94, R166, R173, R325). -/

/-- What a run of bytes puts at an address. -/
def bytesAt (pa : Nat) (bs : List Byte) (p : Nat) : Option Byte := if pa ≤ p ∧ p < pa + bs.length then some (bs.getD (p - pa) 0) else none

theorem bytesAt_getD (pa : Nat) (bs : List Byte) (p : Nat) (b : Byte) :
    (bytesAt pa bs p).getD b = if pa ≤ p ∧ p < pa + bs.length then bs.getD (p - pa) 0 else b := by
  unfold bytesAt
  split
  · rfl
  · rfl

/-- A list with its places, as a list over its places. -/
theorem zipIdx_map_range {α : Type} (bs : List Byte) (f : Byte × Nat → α) :
    bs.zipIdx.map f = (List.range bs.length).map fun i => f (bs.getD i 0, i) := by
  refine List.ext_getElem (by simp) fun i h1 h2 => ?_
  have hi : i < bs.length := by simpa using h1
  simp [hi]

theorem lastByte_zipIdx (pa : Nat) (bs : List Byte) : lastByte (bs.zipIdx.map fun p => (pa + p.2, p.1)) = bytesAt pa bs := by
  funext p
  rw [zipIdx_map_range, lastByte_map, bytesAt]
  refine if_congr (and_congr_right fun h => ?_) rfl rfl
  rw [List.mem_range]
  omega

namespace State

theorem dies_placeBytes (s : State) (line : Nat) (bs : List (Nat × Byte)) (keep : Option Nat) (streaming : Bool) :
    (s.placeBytes line bs keep streaming).dies = s.dies := by
  unfold placeBytes
  extract_lets g has whole some_ m s1 s2
  have h1 : s1.dies = s.dies := (OnlySlices.dropProxies s line keep).dies
  exact ((OnlySlices.holdHome s2 line m streaming).trans (.spillUnheld _ line)).dies.trans h1

theorem dies_latchPhys (s : State) (pa n : Nat) : (s.latchPhys pa n).dies = s.dies := by
  unfold latchPhys
  split
  · rfl
  · rfl

theorem dies_rawWriteAs (s : State) (pa : Nat) (bs : List Byte) (streaming : Bool) : (s.rawWriteAs pa bs streaming).dies = s.dies := by
  unfold rawWriteAs
  rw [dies_latchPhys]
  exact List.foldlRecOn (motive := fun t : State => t.dies = s.dies) _ _ rfl fun t ht line _ => (dies_placeBytes _ _ _ _ _).trans ht

theorem combine_placeBytes (s : State) (line : Nat) (bs : List (Nat × Byte)) (keep : Option Nat) (streaming : Bool) :
    (s.placeBytes line bs keep streaming).combine = s.combine := by
  unfold placeBytes
  extract_lets g has whole some_ m s1 s2
  have h1 : s1.combine = s.combine := (congrArg State.combine (OnlySlices.dropProxies s line keep).eq :)
  exact (congrArg State.combine ((OnlySlices.holdHome s2 line m streaming).trans (.spillUnheld _ line)).eq :).trans h1

theorem combine_latchPhys (s : State) (pa n : Nat) : (s.latchPhys pa n).combine = s.combine := by
  unfold latchPhys
  split
  · rfl
  · rfl

theorem combine_rawWriteAs (s : State) (pa : Nat) (bs : List Byte) (streaming : Bool) : (s.rawWriteAs pa bs streaming).combine = s.combine := by
  unfold rawWriteAs
  rw [combine_latchPhys]
  exact List.foldlRecOn (motive := fun t : State => t.combine = s.combine) _ _ rfl fun t ht line _ => (combine_placeBytes _ _ _ _ _).trans ht

theorem keepHeads_of_noHeads {t : State} {pa n : Nat} (h : t.NoHeads pa n) (s : State) : s.keepHeads t pa n = t := by
  unfold keepHeads
  refine List.foldlRecOn (motive := (· = t)) _ _ rfl fun u hu p hp => ?_
  subst hu
  cases ha : p.2.mbArea with
  | none => rfl
  | some a =>
    have hfar := h p hp a ha
    simp only [Bool.or_eq_true, decide_eq_true_eq, hfar, if_true]

/-- No sum waits on the line of a range, and none of its bytes is an image's or a mailbox index's. -/
structure Unwatched (s : State) (pa n : Nat) : Prop where
  comb : s.comb? (lineOf pa) = none
  image : ∀ k, k < n → s.imageAt? (pa + k) = none
  heads : s.NoHeads pa n

end State

theorem State.PlainRange.unwatched {s : State} {pa n : Nat} (h : s.PlainRange pa n) : s.Unwatched pa n := by
  obtain ⟨hp, -, -, hi, hh⟩ := h
  exact ⟨hp.1, hi, hh⟩

section
variable {s t : State} {pa n : Nat}

theorem State.Unwatched.of_same (h : s.Unwatched pa n) (hi : s.SameImages t) (hd : t.dies = s.dies := by rfl) (hc : t.combine = s.combine := by rfl) :
    t.Unwatched pa n := by
  obtain ⟨hcomb, himg, hheads⟩ := h
  exact ⟨by rw [State.comb?, hc]; exact hcomb, fun k hk => (hi.place _).trans (himg k hk), by rw [State.NoHeads, hd]; exact hheads⟩

theorem State.Unwatched.within {a m : Nat} (h : s.Unwatched pa n) (hlo : pa ≤ a) (hhi : a + m ≤ pa + n) (hline : lineOf a = lineOf pa) :
    s.Unwatched a m := by
  obtain ⟨hcomb, himg, hheads⟩ := h
  refine ⟨by rw [hline, hcomb], fun k hk => ?_, fun p hp b hb => ?_⟩
  · have := himg (a - pa + k) (by omega)
    rwa [show pa + (a - pa + k) = a + k by omega] at this
  · have := hheads p hp b hb
    omega

variable {bs : List Byte} (hin : pa % 128 + bs.length ≤ 128) (streaming : Bool)
include hin

/-- Bytes of one line are put at their homes (R166). -/
theorem State.Puts.rawWriteAs (s : State) : s.Puts (s.rawWriteAs pa bs streaming) (bytesAt pa bs) := by
  by_cases hn : bs.length = 0
  · have hnone : bytesAt pa bs = fun _ => none := funext fun p => if_neg (by omega)
    rw [hnone]
    unfold State.rawWriteAs linesOf
    rw [if_pos hn]
    exact State.Puts.latchPhys _ _ _
  · have hline : ((bs.zipIdx.map fun p => (pa + p.2, p.1)).filter fun p => lineOf p.1 == lineOf pa) = bs.zipIdx.map fun p => (pa + p.2, p.1) := by
      refine List.filter_eq_self.2 fun q hq => beq_iff_eq.2 ?_
      obtain ⟨p, hp, rfl⟩ := List.mem_map.1 hq
      have hlt : p.2 < bs.length := by
        have := List.snd_lt_of_mem_zipIdx hp
        omega
      show (pa + p.2) / 128 = pa / 128
      omega
    unfold State.rawWriteAs
    rw [linesOf_within (Nat.pos_of_ne_zero hn) hin, List.foldl_cons, List.foldl_nil, hline, ← lastByte_zipIdx]
    exact State.Puts.thenKeeps (.placeBytes _ _ _ _ _) (.latchPhys _ _ _)

variable (h : s.Unwatched pa bs.length) (hn : 0 < bs.length)
include h hn

theorem State.homeWriteAs_unwatched : s.homeWriteAs pa bs streaming = s.rawWriteAs pa bs streaming := by
  obtain ⟨hcomb, himg, hheads⟩ := h
  have hyield (f : Nat → Bool) : s.yieldSums (lineOf pa) f = s := by rw [State.yieldSums, hcomb]
  unfold State.homeWriteAs
  rw [show s.imageAt? pa = none from himg 0 hn, linesOf_within hn hin]
  simp only [List.foldl_cons, List.foldl_nil, hyield, ite_self]
  exact State.keepHeads_of_noHeads (by rw [State.NoHeads, State.dies_rawWriteAs]; exact hheads) _

/-- A write at the home that nothing watches puts its bytes there, and only there (R166). -/
theorem State.Puts.homeWriteAs : s.Puts (s.homeWriteAs pa bs streaming) (bytesAt pa bs) := by
  rw [State.homeWriteAs_unwatched hin streaming h hn]
  exact .rawWriteAs hin streaming s

/-- The bytes at their homes after such a write. -/
theorem State.homeByte_homeWriteAs (hs : s.Steady) (p : Nat) :
    (s.homeWriteAs pa bs streaming).homeByte p = (bytesAt pa bs p).getD (s.homeByte p) := by
  refine State.Puts.homeByte (State.Puts.homeWriteAs hin streaming h hn) hs (fun q hq => ?_) p
  unfold bytesAt at hq
  split at hq
  next hr => rw [← Nat.add_sub_cancel' hr.1]; exact h.image _ (by omega)
  next => simp at hq

end

/-! A write into a line of a grove's L1 (R165). -/

theorem State.groves_latchGrove (s : State) (g pa n : Nat) : (s.latchGrove g pa n).groves = s.groves := by
  unfold State.latchGrove
  split
  · rfl
  · rfl

theorem lineByte_foldl_zipIdx (k : Nat) (bs : List Byte) (d : BitVec 1024) (hin : k + bs.length ≤ 128) {j : Nat} (hj : j < 128) :
    lineByte (bs.zipIdx.foldl (fun d p => setLineByte d (k + p.2) p.1) d) j = if k ≤ j ∧ j < k + bs.length then bs.getD (j - k) 0 else lineByte d j := by
  have hmap : bs.zipIdx.foldl (fun d p => setLineByte d (k + p.2) p.1) d =
      ((List.range bs.length).map (k + ·)).foldl (fun d i => if false then d else setLineByte d i (bs.getD (i - k) 0)) d := by
    have h := zipIdx_map_range bs fun p => (k + p.2, p.1)
    rw [← List.foldl_map (f := fun p : Byte × Nat => (k + p.2, p.1)) (g := fun d q => setLineByte d q.1 q.2), h, List.foldl_map, List.foldl_map]
    simp
  rw [hmap, lineByte_foldl_set (fun _ => false) _ _ _ hj (by simp; omega)]
  refine if_congr ?_ rfl rfl
  simp only [List.mem_map, List.mem_range, and_true]
  exact ⟨by rintro ⟨i, hi, rfl⟩; omega, fun h => ⟨j - k, by omega, by omega⟩⟩

section
variable {s : State} {core pa : Nat} {bs : List Byte} {l : L1Line} (hs : s.Steady) (hp : s.Plain (lineOf pa)) (hin : pa % 128 + bs.length ≤ 128)
  (hl : (s.grove (coreGrove core)).line? (lineOf pa) = some l) (streaming atomic : Bool)
include hs hp hin hl

/-- A write into a plain line that is there changes its bytes there, and nothing at a home. -/
theorem State.l1Put_line : ∃ m, s.PutsLine (s.l1Put core pa bs streaming atomic) (coreGrove core) m streaming ∧ m.line = lineOf pa ∧
    ∀ p, lineOf p = lineOf pa → m.over s p = (bytesAt pa bs p).getD (l.over s p) := by
  have hbeside := State.Beside.recallImage s (lineOf pa)
  have hkeep := State.Puts.recallImage s (lineOf pa)
  have hsome := List.find?_some hl
  have hline : l.line = lineOf pa := by simpa using hsome
  refine ⟨{ l with
    data := bs.zipIdx.foldl (fun d p => setLineByte d (pa % 128 + p.2) p.1) l.data
    valid := l.valid ||| byteMask (pa % 128) bs.length, dirty := l.dirty ||| byteMask (pa % 128) bs.length
    byCore := if atomic then l.byCore else l.byCore ||| coreBit core
    byAtom := if atomic then l.byAtom ||| coreBit core else l.byAtom }, ?_, hline, fun p hpl => ?_⟩
  · refine State.PutsLine.afterKeeps (t := s.recallImage (lineOf pa)) ?_ hbeside.groves hkeep
    unfold State.l1Put
    simp only [State.recallLine_of_plain hp, hbeside.grove, hl, Option.isSome_some, if_true, Option.getD_some]
    rw [if_pos (by rw [State.setGrove, (hkeep hs).1.1]; rfl)]
    rw [← hbeside.grove (coreGrove core)]
    exact (State.PutsLine.of_setGrove _ _ _ _).thenKeeps (State.groves_latchGrove _ _ _ _) (.latchGrove _ _ _ _)
  · have hj : p % 128 < 128 := Nat.mod_lt _ (by decide)
    have hplace : pa % 128 ≤ p % 128 ∧ p % 128 < pa % 128 + bs.length ↔ pa ≤ p ∧ p < pa + bs.length := by
      unfold lineOf at hpl
      omega
    have hnum : p % 128 - pa % 128 = p - pa := by
      unfold lineOf at hpl
      omega
    rw [bytesAt_getD]
    unfold L1Line.over
    dsimp only
    rw [BitVec.getLsbD_or, getLsbD_byteMask, lineByte_foldl_zipIdx _ _ _ hin hj, hnum]
    simp only [hplace, hj, true_and]
    by_cases hr : pa ≤ p ∧ p < pa + bs.length
    · simp only [hr, and_self, decide_true, Bool.or_true, if_true]
    · simp only [hr, decide_false, Bool.or_false, if_false]

end

end Sys2Proof.Machine
end

section /-! PROOF. Atomics (R184 to R186, O31). -/
set_option Elab.async false
namespace Sys2Proof.Machine
open Sys2Proof

/-! The order of an atomic's checks (R184, R186), and its place in the banks. -/

/-- The bytes of an atomic's word (R185). -/
def amoBytes (wide : Bool) : Nat := if wide then 8 else 4

section
variable {s s1 t : State} {cid : Nat} {c : Ctx} {op : AmoOp} {wide : Bool} {d xo b : Reg} {seg : Slot} {disp : Int} {acq rel : Bool} {sc : Scope}
  {f : FaultRec} {pa : Nat} {w : Word}
  (hr : s.Ready cid c [d, xo, b]) (hm : ringHasMem (s.coreRing s.here) = false)

/-- The offset, the operand and the compared value of an atomic. -/
def amoOff (m : Image) (xo : Reg) (disp : Int) : Int := nOf (m.getX xo) + disp

/-- The low bytes of a register that an atomic takes. -/
def amoArg (m : Image) (wide : Bool) (r : Reg) : Nat := (m.getX r).toNat % 2 ^ (8 * amoBytes wide)

/-- A hostm slot takes no scope below the device (R186). -/
def amoRefused (g : Desc) (sc : Scope) : Bool := decide (g.kind = kHostm) && !(sc == .device || sc == .fabric)

include hr hm

theorem runAmo_refused (h : amoRefused (c.img.slot seg) sc = true) :
    runAmo op wide d xo b seg disp acq rel sc s = s.traps cid c (operandFault c.img 0) := by
  unfold runAmo
  rw [runMem_ready hr (.inl rfl) hm]
  simp only [show (decide ((c.img.slot seg).kind = kHostm) && !(sc == .device || sc == .fabric)) = true from h]
  rfl

variable (h : amoRefused (c.img.slot seg) sc = false)
include h

theorem runAmo_waits (hw : rel = true) (hq : relWait (s.coreRing s.here) = true) :
    runAmo op wide d xo b seg disp acq rel sc s = .next { s with stalled := true } := by
  unfold runAmo
  rw [runMem_ready hr (.inl rfl) hm]
  simp only [show (decide ((c.img.slot seg).kind = kHostm) && !(sc == .device || sc == .fabric)) = false from h, hw, hq]
  rfl

variable (hw : rel = false ∨ relWait (s.coreRing s.here) = false)
include hw

theorem runAmo_check (hc : segCheckWord (c.img.slot seg) (isService s.here) (amoOff c.img xo disp) (amoBytes wide) true true true = some f) :
    runAmo op wide d xo b seg disp acq rel sc s = s.traps cid c f := by
  have hwait : (rel && relWait (s.coreRing s.here)) = false := by rcases hw with hw | hw <;> simp [hw]
  unfold amoBytes amoOff at hc
  unfold runAmo
  rw [runMem_ready hr (.inl rfl) hm]
  simp only [show (decide ((c.img.slot seg).kind = kHostm) && !(sc == .device || sc == .fabric)) = false from h, hwait, hc]
  rfl

variable (hc : segCheckWord (c.img.slot seg) (isService s.here) (amoOff c.img xo disp) (amoBytes wide) true true true = none)
include hc

/-- What an atomic does past its checks 1 to 4. -/
def amoPast (op : AmoOp) (wide : Bool) (d xo b : Reg) (seg : Slot) (disp : Int) (acq rel : Bool) (sc : Scope) (s : State) (c : Ctx) : Eff :=
  let g := c.img.slot seg
  let n := amoBytes wide
  let off := amoOff c.img xo disp
  let v := amoArg c.img wide b
  let e := amoArg c.img wide d
  let fin := fun (t : State) (w : Word) => Eff.done t ((c.img.setX d w).next 8)
  if g.kind = kCluster then
    let h := coreGrove s.here
    let a := g.base + off.toNat
    match s.readBank h a n with
    | none => .trap (s.reportBank h a s.here) (uncorr g off 1 true)
    | some bs =>
      let s1 := s.bankWrite h a (leBytes n (amoNew op n (leNat bs) v e))
      fin (if acq && scopeWide sc then s1.invalidate h else s1) (amoOld op n (leNat bs))
  else
    match s.accessPa s.here g off .atomic true with
    | (s1, .error f) => .trap s1 f
    | (s1, .ok pa) =>
      match s1.amoAt s.here g (segVa g off) pa n c.img.duo acq rel sc op v e with
      | (s2, none) =>
        let near := match s1.amoPlace s.here g (segVa g off) n c.img.duo acq rel sc op with | .home _ => false | _ => true
        let g? := if near then groveOf s.here else none
        let dd := if near then coreDie s.here else homeDie pa
        .trap (s2.reportBad g? dd pa n s.here) (uncorr g off (s2.badCode g? dd pa n) true)
      | (s2, some w) => fin s2 w

theorem runAmo_past : runAmo op wide d xo b seg disp acq rel sc s = .next ((amoPast op wide d xo b seg disp acq rel sc s c).state cid c) := by
  have hwait : (rel && relWait (s.coreRing s.here)) = false := by rcases hw with hw | hw <;> simp [hw]
  unfold amoBytes amoOff at hc
  unfold runAmo
  rw [runMem_ready hr (.inl rfl) hm]
  simp only [show (decide ((c.img.slot seg).kind = kHostm) && !(sc == .device || sc == .fabric)) = false from h, hwait, hc]
  rfl

theorem runAmo_bank (hk : (c.img.slot seg).kind = kCluster)
    (hb : s.badBank (coreGrove s.here) ((c.img.slot seg).base + (amoOff c.img xo disp).toNat) (amoBytes wide) = false) :
    let a := (c.img.slot seg).base + (amoOff c.img xo disp).toNat
    let old := leNat (s.bankBytes (coreGrove s.here) a (amoBytes wide))
    let t := s.bankWrite (coreGrove s.here) a (leBytes (amoBytes wide) (amoNew op (amoBytes wide) old (amoArg c.img wide b) (amoArg c.img wide d)))
    runAmo op wide d xo b seg disp acq rel sc s =
      (if acq && scopeWide sc then t.invalidate (coreGrove s.here) else t).goes cid ((c.img.setX d (amoOld op (amoBytes wide) old)).next 8) := by
  intro a old t
  rw [runAmo_past hr hm h hw hc, amoPast]
  simp only [hk, if_true, State.readBank, hb]
  rfl

theorem runAmo_bank_bad (hk : (c.img.slot seg).kind = kCluster)
    (hb : s.badBank (coreGrove s.here) ((c.img.slot seg).base + (amoOff c.img xo disp).toNat) (amoBytes wide) = true) :
    runAmo op wide d xo b seg disp acq rel sc s =
      (s.reportBank (coreGrove s.here) ((c.img.slot seg).base + (amoOff c.img xo disp).toNat) s.here).traps cid c
        (uncorr (c.img.slot seg) (amoOff c.img xo disp) 1 true) := by
  rw [runAmo_past hr hm h hw hc, amoPast]
  simp only [hk, if_true, State.readBank, hb]
  rfl

variable (hk : (c.img.slot seg).kind ≠ kCluster)
include hk

theorem runAmo_untranslated (ha : s.accessPa s.here (c.img.slot seg) (amoOff c.img xo disp) .atomic true = (s1, .error f)) :
    runAmo op wide d xo b seg disp acq rel sc s = s1.traps cid c f := by
  rw [runAmo_past hr hm h hw hc, amoPast]
  simp only [hk, if_false, ha]
  rfl

theorem runAmo_at (ha : s.accessPa s.here (c.img.slot seg) (amoOff c.img xo disp) .atomic true = (s1, .ok pa))
    (hat : s1.amoAt s.here (c.img.slot seg) (segVa (c.img.slot seg) (amoOff c.img xo disp)) pa (amoBytes wide) c.img.duo acq rel sc op
      (amoArg c.img wide b) (amoArg c.img wide d) = (t, some w)) :
    runAmo op wide d xo b seg disp acq rel sc s = t.goes cid ((c.img.setX d w).next 8) := by
  rw [runAmo_past hr hm h hw hc, amoPast]
  simp only [hk, if_false, ha, hat]
  rfl

end

/-! The place of an atomic outside cluster memory (R171, R172, R175). -/

section
variable {s t : State} {core va n pa k v e : Nat} {d : Desc} {duo acq rel : Bool} {sc : Scope} {op : AmoOp} {r : CRange}

/-- An access of a core to its grove's L1. -/
def ownL1 (core : Nat) (d : Desc) : Prop := d.kind ≠ kHostm ∧ isService core = false

/-- May an atomic be performed on a partial, by its scope and order (R171)? -/
def mayMatch (core : Nat) (d : Desc) (duo acq rel : Bool) (sc : Scope) : Prop :=
  ownL1 core d ∧ d.pol ≠ 2 ∧ (sc = .grove ∨ (sc = .device ∧ duo = true)) ∧ acq = false ∧ rel = false

theorem amoPlace_partials (hm : mayMatch core d duo acq rel sc) (hr : s.rangeAt d.asid va = some (k, r)) (ht : rangeTakes r op n = true) :
    s.amoPlace core d va n duo acq rel sc op = .partials k r := by
  obtain ⟨⟨hk, hsv⟩, hpol, hsc, hacq, hrel⟩ := hm
  have hscope : (sc == .grove || (sc == .device && duo)) = true := by
    rcases hsc with rfl | ⟨rfl, rfl⟩
    · rfl
    · rfl
  simp [State.amoPlace, hk, groveOf, hsv, hpol, hr, ht, hacq, hrel, hscope]

/-- What no partial takes (R171): the scope or the order forbids it, or no range at the address has the operation and the format. -/
def noMatch (s : State) (core : Nat) (d : Desc) (va n : Nat) (duo acq rel : Bool) (sc : Scope) (op : AmoOp) : Prop :=
  ¬ mayMatch core d duo acq rel sc ∨ ∀ k r, s.rangeAt d.asid va = some (k, r) → rangeTakes r op n = false

theorem amoPlace_plain (ho : ownL1 core d) (hpol : d.pol ≠ 2) (hn : noMatch s core d va n duo acq rel sc op) :
    s.amoPlace core d va n duo acq rel sc op = if sc == .grove then .copy else .home (some (coreGrove core)) := by
  have ⟨hk, hsv⟩ := ho
  have hno (k : Nat) (r : CRange) (hr : s.rangeAt d.asid va = some (k, r)) :
      ((sc == .grove || (sc == .device && duo)) && rangeTakes r op n && !acq && !rel) = false := by
    rcases hn with hn | hn
    · rw [Bool.eq_false_iff]
      intro hall
      simp only [Bool.and_eq_true, Bool.or_eq_true, beq_iff_eq, Bool.not_eq_true'] at hall
      obtain ⟨⟨⟨hsc, -⟩, hacq⟩, hrel⟩ := hall
      exact hn ⟨ho, hpol, hsc, hacq, hrel⟩
    · rw [hn k r hr]
      simp
  unfold State.amoPlace groveOf
  simp only [hk, hsv, hpol, if_false, Bool.false_eq_true]
  cases hr : s.rangeAt d.asid va with
  | none => rfl
  | some p =>
    obtain ⟨k, r⟩ := p
    simp only [hno k r hr]
    rfl

/-- The grove whose copy goes before an atomic at the home. -/
def amoOwn (core : Nat) (d : Desc) : Option Nat := if d.kind ≠ kHostm ∧ isService core = false then some (coreGrove core) else none

theorem amoPlace_home (hn : noMatch s core d va n duo acq rel sc op) (hfar : ownL1 core d → d.pol = 2 ∨ sc ≠ .grove) :
    s.amoPlace core d va n duo acq rel sc op = .home (amoOwn core d) := by
  by_cases ho : ownL1 core d
  · have ⟨hk, hsv⟩ := ho
    have hown : amoOwn core d = some (coreGrove core) := if_pos ho
    by_cases hpol : d.pol = 2
    · rw [hown]
      simp [State.amoPlace, hk, groveOf, hsv, hpol]
    · have hsc := (hfar ho).resolve_left hpol
      rw [amoPlace_plain ho hpol hn, if_neg (by simpa using hsc), hown]
  · have hown : amoOwn core d = none := if_neg ho
    rw [hown]
    unfold State.amoPlace groveOf
    by_cases hk : d.kind = kHostm
    · simp [hk]
    · have hsv : isService core = true := by
        rw [← Bool.not_eq_false]
        exact fun h => ho ⟨hk, h⟩
      simp [hk, hsv]

end

/-! What an atomic leaves at a plain word (R175). -/

/-- Before an atomic at the home the own grove's copy goes, and an acquire beyond the grove drains (R175, R186). -/
def State.beforeHome (s : State) (core : Nat) (own : Option Nat) (line : Nat) (acq : Bool) (sc : Scope) : State :=
  let s0 := match own with | some g => s.pushLine g line | none => s
  if acq && scopeWide sc then s0.acquireLine core line sc else s0

theorem State.amoHome_eq (s : State) (core : Nat) (own : Option Nat) (pa n : Nat) (acq rel : Bool) (sc : Scope) (streaming : Bool) (f : Nat → Nat) :
    s.amoHome core own pa n acq rel sc streaming f =
      let s2 := (s.beforeHome core own (lineOf pa) acq sc).settle pa n
      if s2.badAt (homeDie pa) pa n then (s2, none)
      else
        let old := leNat (s2.homeBytes pa n)
        let s3 := (s2.takeRecord core (lineOf pa)).homeWriteAs pa (leBytes n (f old)) streaming
        (if rel && scopeWide sc then s3.addRecord core (lineOf pa) sc else s3, some old) := rfl

section
variable {s : State} {core pa n : Nat} (hs : s.Steady) (hn : 0 < n) (hin : pa % 128 + n ≤ 128) (streaming : Bool) (f : Nat → Nat)
include hs hn hin

/-- A load through the L1 of a plain word that is there or can come: the grove sees what it saw. -/
theorem State.l1Load_shows (hp : s.Plain (lineOf pa)) (hbad : s.badAt (coreDie core) pa n = false)
    (hl : (∃ l, (s.grove (coreGrove core)).line? (lineOf pa) = some l ∧ ∀ k, k < n → l.valid.getLsbD (pa % 128 + k) = true) ∨
      ((s.grove (coreGrove core)).line? (lineOf pa) = none ∧ s.HasRoom (coreGrove core) (lineOf pa))) :
    ∃ t l, s.PutsLine t (coreGrove core) l streaming ∧ l.line = lineOf pa ∧ l.upd = none ∧ l.Shows s (coreGrove core) ∧ t.combine = s.combine ∧
      s.l1Load core pa n streaming = (t, some ((List.range n).map fun k => s.seen (coreGrove core) (pa + k))) := by
  have hplace {k : Nat} (hk : k < n) : lineOf (pa + k) = lineOf pa ∧ (pa + k) % 128 = pa % 128 + k := by
    unfold lineOf
    omega
  rcases hl with ⟨l, hl, hv⟩ | ⟨hnone, hroom⟩
  · obtain ⟨t, hput, hcomb, -, hload⟩ := State.l1Load_hit hs hp streaming hl hv
    have hline : l.line = lineOf pa := by simpa using List.find?_some hl
    refine ⟨t, l, hput, hline, hp.2 _ _ hl, fun p hpl => (State.seen_line (by rw [hpl, hline, hl])).symm, hcomb, hload.trans ?_⟩
    refine congrArg (fun bs => (t, some bs)) (List.map_congr_left fun k hk => ?_)
    obtain ⟨hlk, hmk⟩ := hplace (List.mem_range.1 hk)
    rw [State.seen_line (by rw [hlk, hl]), L1Line.over, hmk, if_pos (hv k (List.mem_range.1 hk))]
  · obtain ⟨t, l, hput, hline, hupd, hshows, hcomb, -, hload⟩ := State.l1Load_absent hs hp streaming hn hin hnone hroom hbad
    refine ⟨t, l, hput, hline, hupd, hshows, hcomb, hload.trans ?_⟩
    refine congrArg (fun bs => (t, some bs)) (List.map_congr_left fun k hk => ?_)
    rw [State.seen_noLine (by rw [(hplace (List.mem_range.1 hk)).1, hnone])]

/-- In the L1 copy of its grove, where the bytes are there or can come: the grove sees the new word, and no home byte changes. -/
theorem State.amoL1_plain (hp : s.Plain (lineOf pa)) (hbad : s.badAt (coreDie core) pa n = false)
    (hl : (∃ l, (s.grove (coreGrove core)).line? (lineOf pa) = some l ∧ ∀ k, k < n → l.valid.getLsbD (pa % 128 + k) = true) ∨
      ((s.grove (coreGrove core)).line? (lineOf pa) = none ∧ s.HasRoom (coreGrove core) (lineOf pa))) :
    ∃ t, s.amoL1 core pa n streaming f = (t, some (leNat ((List.range n).map fun k => s.seen (coreGrove core) (pa + k)))) ∧
      (∀ p, t.homeByte p = s.homeByte p) ∧ (∀ q, q ≠ coreGrove core → t.grove q = s.grove q) ∧
      ∀ p, t.seen (coreGrove core) p =
        (bytesAt pa (leBytes n (f (leNat ((List.range n).map fun k => s.seen (coreGrove core) (pa + k))))) p).getD (s.seen (coreGrove core) p) := by
  obtain ⟨t, l, hput, hline, hupd, hshows, hcomb, hload⟩ := State.l1Load_shows hs hn hin streaming hp hbad hl
  have ht := (hput.bytes hs).1
  have hthere : (t.grove (coreGrove core)).line? (lineOf pa) = some { l with stream := streaming } := by rw [← hline, hput.line?]
  have hplain : t.Plain (lineOf pa) := by
    refine ⟨by rw [State.comb?, hcomb]; exact hp.1, fun q m hm => ?_⟩
    by_cases hq : q = coreGrove core
    · subst hq
      rw [← Option.some.inj (hthere.symm.trans hm), hupd]
    · exact hp.2 q m (by rwa [hput.grove_ne hq] at hm)
  generalize hold : leNat ((List.range n).map fun k => s.seen (coreGrove core) (pa + k)) = old at hload ⊢
  obtain ⟨m, hput2, hmline, hmover⟩ := State.l1Put_line (bs := leBytes n (f old)) ht hplain (by simpa using hin) hthere streaming true
  refine ⟨t.l1Put core pa (leBytes n (f old)) streaming true, by rw [State.amoL1, hload]; simp only [hold], fun p => ?_, fun q hq => ?_, fun p => ?_⟩
  · rw [hput2.bytes.homeByte ht, hput.bytes.homeByte hs]
  · rw [hput2.grove_ne hq, hput.grove_ne hq]
  · by_cases hpl : lineOf p = lineOf pa
    · have hover : L1Line.over { l with stream := streaming } t p = s.seen (coreGrove core) p := by
        rw [← hshows p (hpl.trans hline.symm), L1Line.over, L1Line.over, hput.bytes.homeByte hs]
      rw [hput2.seen ht, if_pos (hpl.trans hmline.symm), hmover p hpl, hover]
    · have hout : bytesAt pa (leBytes n (f old)) p = none := by
        refine if_neg fun h => hpl ?_
        rw [length_leBytes] at h
        unfold lineOf
        omega
      rw [hput2.seen ht, if_neg (by rw [hmline]; exact hpl), hout, hput.seen hs, if_neg (by rw [hline]; exact hpl)]
      rfl

omit hs

/-- At its home: the home has the new word, and no grove changes. -/
theorem State.amoHome_plain {own : Option Nat} {acq : Bool} {sc : Scope} {u : State} (hue : s.beforeHome core own (lineOf pa) acq sc = u)
    (hu : u.Steady) (hplain : u.PlainRange pa n) (hbad : u.badAt (homeDie pa) pa n = false) (rel : Bool) :
    ∃ t, s.amoHome core own pa n acq rel sc streaming f =
        (if rel && scopeWide sc then t.addRecord core (lineOf pa) sc else t, some (leNat (u.homeBytes pa n))) ∧
      t.groves = u.groves ∧ ∀ p, t.homeByte p = (bytesAt pa (leBytes n (f (leNat (u.homeBytes pa n)))) p).getD (u.homeByte p) := by
  have hbeside := State.Beside.recallImage u (lineOf pa)
  have hkeep := State.Puts.recallImage u (lineOf pa)
  have hbeside2 := hbeside.trans (State.Beside.pend _ core ((u.recallImage (lineOf pa)).recordOf (lineOf pa)))
  have hkeep2 : u.KeepsBytes ((u.recallImage (lineOf pa)).takeRecord core (lineOf pa)) := hkeep.trans (.pend _ _ _)
  have hold : leNat ((u.recallImage (lineOf pa)).homeBytes pa n) = leNat (u.homeBytes pa n) := congrArg leNat (hkeep.homeBytes hu pa n)
  generalize leNat (u.homeBytes pa n) = old at hold ⊢
  have hlen : (leBytes n (f old)).length = n := length_leBytes _ _
  have hfree := hplain.unwatched.of_same (hkeep2 hu).2.1 hbeside2.dies hbeside2.combine
  refine ⟨((u.recallImage (lineOf pa)).takeRecord core (lineOf pa)).homeWriteAs pa (leBytes n (f old)) streaming, ?_, ?_, fun p => ?_⟩
  · rw [State.amoHome_eq, hue]
    simp only [State.settle_within hplain.1 hn hin, State.badAt_recallImage hu, hbad, hold]
    rfl
  · exact (State.OffCores.homeWriteAs _ _ _ _).groves.trans hbeside2.groves
  · rw [State.homeByte_homeWriteAs (by rwa [hlen]) streaming (by rwa [hlen]) (by rwa [hlen]) (hkeep2 hu).1, hkeep2.homeByte hu]

end

/-! The same as the outcome of an atomic (R184). -/

section
variable {s t : State} {core va n pa k v e : Nat} {d : Desc} {duo acq rel : Bool} {sc : Scope} {op : AmoOp}

theorem amoAt_partials {r : CRange} (hplace : s.amoPlace core d va n duo acq rel sc op = .partials k r)
    (hok : (s.matching core pa n k r op v d.streams).2 = true) :
    s.amoAt core d va pa n duo acq rel sc op v e = ((s.matching core pa n k r op v d.streams).1, some 0) := by
  simp only [State.amoAt, hplace, hok, if_true]

variable (hn : 0 < n) (hin : pa % 128 + n ≤ 128)
include hn hin

theorem amoAt_copy_plain (hs : s.Steady) (hplace : s.amoPlace core d va n duo acq rel sc op = .copy) (hp : s.Plain (lineOf pa))
    (hbad : s.badAt (coreDie core) pa n = false)
    (hl : (∃ l, (s.grove (coreGrove core)).line? (lineOf pa) = some l ∧ ∀ k, k < n → l.valid.getLsbD (pa % 128 + k) = true) ∨
      ((s.grove (coreGrove core)).line? (lineOf pa) = none ∧ s.HasRoom (coreGrove core) (lineOf pa))) :
    let old := leNat ((List.range n).map fun k => s.seen (coreGrove core) (pa + k))
    ∃ t, s.amoAt core d va pa n duo acq rel sc op v e = (t, some (amoOld op n old)) ∧
      (∀ p, t.homeByte p = s.homeByte p) ∧ (∀ q, q ≠ coreGrove core → t.grove q = s.grove q) ∧
      ∀ p, t.seen (coreGrove core) p = (bytesAt pa (leBytes n (amoNew op n old v e)) p).getD (s.seen (coreGrove core) p) := by
  have hcount := State.Beside.countMiss s core pa n false
  have hkeep := State.Puts.countMiss s core pa n false
  have hseen (p : Nat) : (s.countMiss core pa n false).seen (coreGrove core) p = s.seen (coreGrove core) p := by
    simp only [State.seen, hcount.grove, hkeep.homeByte hs]
  obtain ⟨t, hat, hhome, hother, hnew⟩ := State.amoL1_plain (core := core) (hkeep hs).1 hn hin d.streams (fun m => amoNew op n m v e)
    (hcount.plain hp) (by rw [State.badAt_countMiss, hbad]) (by simpa only [State.HasRoom, hcount.grove] using hl)
  simp only [hseen] at hat hnew
  refine ⟨t, ?_, fun p => (hhome p).trans (hkeep.homeByte hs p), fun q hq => (hother q hq).trans (hcount.grove q), hnew⟩
  simp only [State.amoAt, hplace, hat, Option.map_some]

theorem amoAt_home_plain {own : Option Nat} {u : State} (hplace : s.amoPlace core d va n duo acq rel sc op = .home own)
    (hue : s.beforeHome core own (lineOf pa) acq sc = u) (hu : u.Steady) (hplain : u.PlainRange pa n) (hbad : u.badAt (homeDie pa) pa n = false) :
    let old := leNat (u.homeBytes pa n)
    ∃ t, s.amoAt core d va pa n duo acq rel sc op v e =
        (if rel && scopeWide sc then t.addRecord core (lineOf pa) sc else t, some (amoOld op n old)) ∧
      t.groves = u.groves ∧ ∀ p, t.homeByte p = (bytesAt pa (leBytes n (amoNew op n old v e)) p).getD (u.homeByte p) := by
  obtain ⟨t, hat, hgroves, hhome⟩ := State.amoHome_plain (core := core) hn hin d.streams (fun m => amoNew op n m v e) hue hu hplain hbad rel
  refine ⟨t, ?_, hgroves, hhome⟩
  simp only [State.amoAt, hplace, hat, Option.map_some]

end

/-! The words of an atomic (R185). -/

theorem scopeWide_iff_beyond (sc : Scope) : scopeWide sc = true ↔ ¬ (sc = .core ∨ sc = .grove) := by
  cases sc <;> simp [scopeWide]

/-- The own copy goes but for a hostm segment and on a service core, and an acquire beyond the grove drains. -/
theorem beforeHome_amoOwn (s : State) (core : Nat) (d : Desc) (line : Nat) (acq : Bool) (sc : Scope) :
    s.beforeHome core (amoOwn core d) line acq sc =
      let s2 := if d.kind ≠ kHostm ∧ isService core = false then s.pushLine (coreGrove core) line else s
      if acq = true ∧ ¬ (sc = .core ∨ sc = .grove) then s2.acquireLine core line sc else s2 := by
  have hwide : (acq && scopeWide sc) = true ↔ acq = true ∧ ¬ (sc = .core ∨ sc = .grove) := by rw [Bool.and_eq_true, scopeWide_iff_beyond]
  unfold State.beforeHome amoOwn
  by_cases ho : d.kind ≠ kHostm ∧ isService core = false
  · rw [if_pos ho, if_pos ho]
    exact if_congr hwide rfl rfl
  · rw [if_neg ho, if_neg ho]
    exact if_congr hwide rfl rfl

theorem amoRefused_iff (g : Desc) (sc : Scope) : amoRefused g sc = true ↔ g.kind = kHostm ∧ ((sc = .core ∨ sc = .grove) ∨ sc = .die) := by
  cases sc <;> simp [amoRefused]

/-- The number of a word of w bits, where the bits above them are none. -/
theorem toSigned_of_lt {w k : Nat} (h : k < 2 ^ w) : toSigned w k = if k < 2 ^ (w - 1) then (k : Int) else (k : Int) - 2 ^ w := by
  rw [toSigned, Nat.mod_eq_of_lt h]

theorem amoOld_signed {op : AmoOp} {n : Nat} (hn : 0 < n) (h : op ≠ .minn ∧ op ≠ .maxn ∧ op ≠ .fadd ∧ op ≠ .fmin ∧ op ≠ .fmax) (m : Nat) :
    amoOld op n m = BitVec.ofInt 64 (BitVec.ofNat (8 * n) m).toInt := by
  rw [← toSigned_eq_toInt (by omega)]
  cases op <;> simp_all [amoOld]

theorem bankBytes_lt (s : State) (g off n : Nat) : leNat (s.bankBytes g off n) < 2 ^ (8 * n) := by
  have h := leNat_lt (s.bankBytes g off n)
  rwa [show (s.bankBytes g off n).length = n by simp [State.bankBytes, Memory.reads]] at h

theorem leNat_map_lt (f : Nat → Byte) (n : Nat) : leNat ((List.range n).map f) < 2 ^ (8 * n) := by
  have h := leNat_lt ((List.range n).map f)
  rwa [List.length_map, List.length_range] at h

/-- Settles O31: the checks in their order, and then the place that R171 and R175 give the atomic. -/
theorem atomicResults : Obligations.AtomicResults := by
  unfold Obligations.AtomicResults
  intro s cid c d xo b seg disp acq rel wide sc hr hm m g off va h near does n sg
  have hdoes (i : Instr) (op : AmoOp) (wd sgn : Bool) (new : Nat → Nat → Nat → Nat)
      (hexec : exec i s = runAmo op wd d xo b seg disp.toInt acq rel sc s)
      (hext : ∀ old, (if sgn then BitVec.ofInt 64 (BitVec.ofNat (8 * amoBytes wd) old).toInt else BitVec.ofNat 64 old) = amoOld op (amoBytes wd) old)
      (hnew : ∀ p v e, p < 2 ^ (8 * amoBytes wd) → v < 2 ^ (8 * amoBytes wd) → new p v e = amoNew op (amoBytes wd) p v e) :
      does i op (amoBytes wd) sgn new := by
    unfold does
    intro v e ext ends refused check replaced
    have hv : v < 2 ^ (8 * amoBytes wd) := Nat.mod_lt _ (Nat.two_pow_pos _)
    have hpos : 0 < amoBytes wd := by cases wd <;> decide
    have hwide : (acq && scopeWide sc) = true ↔ acq = true ∧ ¬ near := by rw [Bool.and_eq_true, scopeWide_iff_beyond]
    rw [hexec]
    refine ⟨fun href => runAmo_refused hr hm ((amoRefused_iff _ _).2 href), fun href hrel hq => ?_, fun href hq => ?_⟩
    · exact runAmo_waits hr hm (Bool.eq_false_iff.2 fun hh => href ((amoRefused_iff _ _).1 hh)) hrel hq
    · have hno : amoRefused (c.img.slot seg) sc = false := Bool.eq_false_iff.2 fun hh => href ((amoRefused_iff _ _).1 hh)
      refine ⟨fun f hf => runAmo_check hr hm hno hq hf, fun hc hk => ?_, fun hc hk => ⟨fun s1 f ha => ?_, fun s1 pa ha => ?_⟩⟩
      · intro a old t
        refine ⟨fun hb => ?_, fun hb => ?_⟩
        · refine (runAmo_bank (acq := acq) hr hm hno hq hc hk hb).trans ?_
          show _ = State.goes (if acq = true ∧ ¬ near then (s.bankWrite h a (leBytes _ (new old v e))).invalidate h
            else s.bankWrite h a (leBytes _ (new old v e))) cid ((c.img.setX d (ext old)).next 8)
          rw [hnew old v e (bankBytes_lt ..) hv, show ext old = _ from hext old]
          exact congrArg (fun u => State.goes u cid _) (if_congr hwide rfl rfl)
        · exact runAmo_bank_bad hr hm hno hq hc hk hb
      · exact runAmo_untranslated hr hm hno hq hc hk ha
      · intro own mayMatch noMatch
        have hends {t : State} {old : Nat} (hat : s1.amoAt s.here g va pa (amoBytes wd) m.duo acq rel sc op v e = (t, some (amoOld op (amoBytes wd) old))) :
            runAmo op wd d xo b seg disp.toInt acq rel sc s = ends t old := by
          rw [show ends t old = t.goes cid ((m.setX d (amoOld op (amoBytes wd) old)).next 8) from
            congrArg (fun w => t.goes cid ((m.setX d w).next 8)) (hext old)]
          exact runAmo_at hr hm hno hq hc hk ha hat
        refine ⟨fun hmay k r hrange htakes hok => ?_, fun hnm hown hpol hsc hp hin hinv hsram hpow hgood hl => ?_, fun hnm hfar => ?_⟩
        · exact runAmo_at hr hm hno hq hc hk ha (amoAt_partials (amoPlace_partials hmay hrange htakes) hok)
        · intro old
          have hs1 : s1.Steady := ⟨hsram, hpow, hinv.1.1⟩
          obtain ⟨t, hat, hhome, hother, hseen⟩ := amoAt_copy_plain (v := v) (e := e) hpos hin hs1
            ((amoPlace_plain hown hpol hnm).trans (if_pos (by simp [hsc]))) hp hgood hl
          refine ⟨t, hends hat, hhome, hother, fun p => ?_⟩
          rw [hseen p, bytesAt_getD, length_leBytes, hnew _ v e (leNat_map_lt _ _) hv]
        · intro s2 u hplain hinv hsram hpow hgood old
          have hu : u.Steady := ⟨hsram, hpow, hinv.1.1⟩
          have hbefore : s1.beforeHome s.here (amoOwn s.here g) (lineOf pa) acq sc = u := beforeHome_amoOwn ..
          obtain ⟨t, hat, hgroves, hhome⟩ := amoAt_home_plain (v := v) (e := e) hpos hplain.2.1 (amoPlace_home hnm hfar) hbefore hu hplain hgood
          refine ⟨t, ?_, hgroves, fun p => ?_⟩
          · have hrelw : (rel && scopeWide sc) = true ↔ rel = true ∧ ¬ near := by rw [Bool.and_eq_true, scopeWide_iff_beyond]
            rw [if_congr hrelw rfl rfl] at hat
            exact hends hat
          · rw [hhome p, bytesAt_getD, length_leBytes, hnew old v e (leNat_map_lt _ _) hv]
  clear_value does
  have hsigned (op : AmoOp) (hop : op ≠ .minn ∧ op ≠ .maxn ∧ op ≠ .fadd ∧ op ≠ .fmin ∧ op ≠ .fmax) (old : Nat) :
      BitVec.ofInt 64 (BitVec.ofNat (8 * amoBytes wide) old).toInt = amoOld op (amoBytes wide) old :=
    (amoOld_signed (by cases wide <;> decide) hop old).symm
  have hsg {k : Nat} (hk : k < 2 ^ (8 * amoBytes wide)) : toSigned (8 * amoBytes wide) k = sg k := toSigned_of_lt hk
  refine ⟨hdoes _ .add wide true _ (exec_amoAdd ..) (hsigned _ (by decide)) fun _ _ _ _ _ => rfl,
    hdoes _ .and wide true _ (exec_amoAnd ..) (hsigned _ (by decide)) fun _ _ _ _ _ => rfl,
    hdoes _ .or wide true _ (exec_amoOr ..) (hsigned _ (by decide)) fun _ _ _ _ _ => rfl,
    hdoes _ .xor wide true _ (exec_amoXor ..) (hsigned _ (by decide)) fun _ _ _ _ _ => rfl,
    hdoes _ .min wide true _ (exec_amoMin ..) (hsigned _ (by decide)) fun p v _ hp hv => ?_,
    hdoes _ .max wide true _ (exec_amoMax ..) (hsigned _ (by decide)) fun p v _ hp hv => ?_,
    hdoes _ .minn wide false _ (exec_amoMinn ..) (fun _ => rfl) fun p v _ _ _ => ?_,
    hdoes _ .maxn wide false _ (exec_amoMaxn ..) (fun _ => rfl) fun p v _ _ _ => ?_,
    hdoes _ .swap wide true _ (exec_amoSwap ..) (hsigned _ (by decide)) fun _ _ _ _ _ => rfl,
    hdoes _ .cas wide true _ (exec_amoCas ..) (hsigned _ (by decide)) fun _ _ _ _ _ => rfl,
    hdoes _ .fadd false false _ (exec_amoFadd ..) (fun _ => rfl) fun _ _ _ _ _ => rfl,
    hdoes _ .fmin false false _ (exec_amoFmin ..) (fun _ => rfl) fun _ _ _ _ _ => rfl,
    hdoes _ .fmax false false _ (exec_amoFmax ..) (fun _ => rfl) fun _ _ _ _ _ => rfl⟩
  · simp only [amoNew, hsg hp, hsg hv]
  · simp only [amoNew, hsg hp, hsg hv]
  · show min p v = if v < p then v else p
    split
    · omega
    · omega
  · show max p v = if p < v then v else p
    split
    · omega
    · omega

end Sys2Proof.Machine
end

section /-! PROOF. Words of a line, and the operations of commutative ranges (R1, R171). -/
set_option Elab.async false
namespace Sys2Proof.Machine
open Sys2Proof

/-! Words of a line as numbers (R1, R171). -/

/-- A field of whole bytes is the number of its bytes. -/
theorem toNat_extract_bytes (d : BitVec 1024) (k n : Nat) :
    (d.extractLsb' (8 * k) (8 * n)).toNat = leNat ((List.range n).map fun i => lineByte d (k + i)) := by
  induction n with
  | zero => simp [leNat]
  | succ n ih =>
    have hlast : leNat [lineByte d (k + n)] = d.toNat / 2 ^ (8 * k) / 2 ^ (8 * n) % 2 ^ 8 := by
      rw [leNat_cons, show leNat [] = 0 from rfl, Nat.zero_mul, Nat.zero_add, lineByte, BitVec.extractLsb'_toNat, Nat.shiftRight_eq_div_pow,
        Nat.div_div_eq_div_mul, ← Nat.pow_add, Nat.mul_add]
    rw [List.range_succ, List.map_append, leNat_append, ← ih, List.length_map, List.length_range, List.map_cons, List.map_nil, hlast,
      BitVec.extractLsb'_toNat, BitVec.extractLsb'_toNat, Nat.shiftRight_eq_div_pow, Nat.mul_succ, Nat.pow_add, Nat.mod_mul]
    ring

/-- A sum of one word at each place, as a range's empty line is made (R172). -/
def repeated (w x m : Nat) : Nat := (List.range m).foldl (fun acc i => acc + x * 2 ^ (w * i)) 0

theorem repeated_succ (w x m : Nat) : repeated w x (m + 1) = repeated w x m + x * 2 ^ (w * m) := by
  rw [repeated, List.range_succ, List.foldl_append]
  rfl

theorem repeated_lt {w x : Nat} (hx : x < 2 ^ w) (m : Nat) : repeated w x m < 2 ^ (w * m) := by
  induction m with
  | zero => exact Nat.one_pos
  | succ m ih =>
    calc repeated w x (m + 1) < 2 ^ (w * m) + x * 2 ^ (w * m) := by rw [repeated_succ]; omega
      _ = (x + 1) * 2 ^ (w * m) := by rw [Nat.add_mul, Nat.one_mul, Nat.add_comm]
      _ ≤ 2 ^ w * 2 ^ (w * m) := Nat.mul_le_mul_right _ hx
      _ = 2 ^ (w * (m + 1)) := by rw [← Nat.pow_add, Nat.mul_succ, Nat.add_comm]

theorem repeated_word {w x : Nat} (hx : x < 2 ^ w) {m j : Nat} (hj : j < m) : repeated w x m / 2 ^ (w * j) % 2 ^ w = x := by
  induction m with
  | zero => omega
  | succ m ih =>
    rw [repeated_succ]
    rcases Nat.lt_or_eq_of_le (Nat.le_of_lt_succ hj) with hlt | rfl
    · have hpow : x * 2 ^ (w * m) = (x * 2 ^ (w * (m - j - 1)) * 2 ^ w) * 2 ^ (w * j) := by
        rw [Nat.mul_assoc, Nat.mul_assoc, ← Nat.pow_add, ← Nat.pow_add, show w * m = w * (m - j - 1 + 1 + j) by rw [show m - j - 1 + 1 + j = m by omega]]
        ring_nf
      rw [hpow, Nat.add_mul_div_right _ _ (Nat.two_pow_pos _), Nat.add_mul_mod_self_right, ih hlt]
    · rw [Nat.add_mul_div_right _ _ (Nat.two_pow_pos _), Nat.div_eq_of_lt (repeated_lt hx j), Nat.zero_add, Nat.mod_eq_of_lt hx]

/-! The operations of a range, one by one (R171). -/

/-- The width of a range's words. -/
def rangeWidth (fmt : Nat) : Nat := if fmt = 13 then 64 else 32

theorem rangeOp_add (fmt a b : Nat) : rangeOp 0 fmt a b = (a + b) % 2 ^ rangeWidth fmt := rfl

theorem rangeOp_min (fmt a b : Nat) : rangeOp 2 fmt a b =
    if fmt = 1 then (minF32 (BitVec.ofNat 32 a) (BitVec.ofNat 32 b)).toNat
    else if toSigned (rangeWidth fmt) a ≤ toSigned (rangeWidth fmt) b then a else b := rfl

theorem rangeOp_max (fmt a b : Nat) : rangeOp 3 fmt a b =
    if fmt = 1 then (maxF32 (BitVec.ofNat 32 a) (BitVec.ofNat 32 b)).toNat
    else if toSigned (rangeWidth fmt) a ≤ toSigned (rangeWidth fmt) b then b else a := rfl

theorem rangeOp_or (fmt a b : Nat) : rangeOp 4 fmt a b = a ||| b := rfl

theorem rangeOp_fadd {o : Nat} (h : o = 1) (fmt a b : Nat) :
    rangeOp o fmt a b = (addRne (BitVec.ofNat 32 a) (BitVec.ofNat 32 b)).toNat := by
  unfold rangeOp
  extract_lets w
  split
  · omega
  · rfl
  · omega
  · omega
  next _ h1 _ _ => exact absurd h h1

/-! A range of an atomic's operation and format (R171). -/

section
variable {r : CRange} {op : AmoOp} {n : Nat} (hn : n = 4 ∨ n = 8) (ht : rangeTakes r op n = true)
  (hf : (op = .fadd ∨ op = .fmin ∨ op = .fmax) → n = 4)
include hn ht hf

/-- The operations and the formats that a range can have, with the atomics' own (R171). -/
theorem rangeTakes_cases : (r.op = 0 ∧ op = .add ∨ r.op = 2 ∧ op = .min ∨ r.op = 3 ∧ op = .max ∨ r.op = 4 ∧ op = .or) ∧
      (n = 4 ∧ r.fmt = 11 ∨ n = 8 ∧ r.fmt = 13) ∨
    (r.op = 1 ∧ op = .fadd ∨ r.op = 2 ∧ op = .fmin ∨ r.op = 3 ∧ op = .fmax) ∧ n = 4 ∧ r.fmt = 1 := by
  rcases hn with rfl | rfl <;> cases op <;> simp_all [rangeTakes]

theorem rangeBytes_of_takes : rangeBytes r.fmt = n := by
  rcases rangeTakes_cases hn ht hf with ⟨-, ⟨rfl, h⟩ | ⟨rfl, h⟩⟩ | ⟨-, rfl, h⟩ <;> simp [rangeBytes, h]

theorem rangeIdentity_lt : rangeIdentity r.op r.fmt < 2 ^ (8 * n) := by
  rcases rangeTakes_cases hn ht hf with ⟨⟨ho, -⟩ | ⟨ho, -⟩ | ⟨ho, -⟩ | ⟨ho, -⟩, ⟨rfl, h⟩ | ⟨rfl, h⟩⟩ | ⟨⟨ho, -⟩ | ⟨ho, -⟩ | ⟨ho, -⟩, rfl, h⟩ <;>
    simp [rangeIdentity, ho, h]

/-- An FP32 add is of words of four bytes. -/
theorem fadd_words (h : r.op = 1) : n = 4 := by
  rcases rangeTakes_cases hn ht hf with ⟨⟨h0, -⟩ | ⟨h0, -⟩ | ⟨h0, -⟩ | ⟨h0, -⟩, -⟩ | ⟨-, h4, -⟩ <;> omega

/-- What an atomic makes of the identity is a word. -/
theorem amoNew_identity_lt {v : Nat} (hv : v < 2 ^ (8 * n)) : amoNew op n (rangeIdentity r.op r.fmt) v 0 < 2 ^ (8 * n) := by
  have hid := rangeIdentity_lt hn ht hf
  rcases rangeTakes_cases hn ht hf with ⟨⟨-, rfl⟩ | ⟨-, rfl⟩ | ⟨-, rfl⟩ | ⟨-, rfl⟩, -⟩ | ⟨⟨-, rfl⟩ | ⟨-, rfl⟩ | ⟨-, rfl⟩, rfl, -⟩
  · exact Nat.mod_lt _ (Nat.two_pow_pos _)
  · unfold amoNew
    dsimp only
    split
    · exact hv
    · exact hid
  · unfold amoNew
    dsimp only
    split
    · exact hv
    · exact hid
  · exact Nat.or_lt_two_pow hid hv
  · exact BitVec.isLt _
  · exact BitVec.isLt _
  · exact BitVec.isLt _

/-- A range's operation on two words is a word. -/
theorem rangeOp_lt {a b : Nat} (ha : a < 2 ^ (8 * n)) (hb : b < 2 ^ (8 * n)) : rangeOp r.op r.fmt a b < 2 ^ (8 * n) := by
  have hpick (p : Prop) [Decidable p] : (if p then a else b) < 2 ^ (8 * n) ∧ (if p then b else a) < 2 ^ (8 * n) := by
    split
    · exact ⟨ha, hb⟩
    · exact ⟨hb, ha⟩
  rcases rangeTakes_cases hn ht hf with ⟨hop, hw⟩ | ⟨hop, rfl, hfmt⟩
  · have hfp : r.fmt ≠ 1 := by rcases hw with ⟨-, h⟩ | ⟨-, h⟩ <;> simp [h]
    have hwidth : rangeWidth r.fmt = 8 * n := by rcases hw with ⟨rfl, h⟩ | ⟨rfl, h⟩ <;> simp [rangeWidth, h]
    rcases hop with ⟨h, -⟩ | ⟨h, -⟩ | ⟨h, -⟩ | ⟨h, -⟩ <;> rw [h]
    · rw [rangeOp_add, hwidth]
      exact Nat.mod_lt _ (Nat.two_pow_pos _)
    · rw [rangeOp_min, if_neg hfp]
      exact (hpick _).1
    · rw [rangeOp_max, if_neg hfp]
      exact (hpick _).2
    · rw [rangeOp_or]
      exact Nat.or_lt_two_pow ha hb
  · rcases hop with ⟨h, -⟩ | ⟨h, -⟩ | ⟨h, -⟩
    · rw [rangeOp_fadd h]
      exact BitVec.isLt _
    · rw [h, rangeOp_min, if_pos hfmt]
      exact BitVec.isLt _
    · rw [h, rangeOp_max, if_pos hfmt]
      exact BitVec.isLt _

end

/-- A range that takes an integer add has the operation and the width. -/
theorem add_range {r : CRange} {n : Nat} (hn : n = 4 ∨ n = 8) (ht : rangeTakes r .add n = true) : r.op = 0 ∧ rangeWidth r.fmt = 8 * n := by
  simp only [rangeTakes, Bool.and_eq_true, beq_iff_eq] at ht
  obtain ⟨hop, hfmt⟩ := ht
  refine ⟨hop, ?_⟩
  rcases hn with rfl | rfl <;> simp [rangeWidth, hfmt]

end Sys2Proof.Machine
end

section /-! PROOF. Partials and sums at the homes (R173). -/
set_option Elab.async false
namespace Sys2Proof.Machine
open Sys2Proof

/-! Words written one after another at the homes (R173). -/

theorem State.homeBytes_eq {s : State} {pa n : Nat} {bs : List Byte} (hlen : bs.length = n) (h : ∀ k, k < n → s.homeByte (pa + k) = bs.getD k 0) :
    s.homeBytes pa n = bs := by
  refine List.ext_getElem (by simp [State.homeBytes, hlen]) fun k h1 h2 => ?_
  have hk : k < n := hlen ▸ h2
  simp [State.homeBytes, h k hk, h2]

theorem State.homeBytes_congr {s t : State} {pa n : Nat} (h : ∀ k, k < n → t.homeByte (pa + k) = s.homeByte (pa + k)) :
    t.homeBytes pa n = s.homeBytes pa n :=
  List.map_congr_left fun k hk => h k (List.mem_range.1 hk)

/-- A step that writes word i of a run from a base, as a function of what the word held, and keeps what such steps need. -/
def WritesWord (inv : State → Prop) (base w N : Nat) (G : Nat → Nat → Nat) (h : State → Nat → State) : Prop :=
  ∀ t i, i < N → inv t → inv (h t i) ∧
    ∀ p, (h t i).homeByte p = (bytesAt (base + w * i) (leBytes w (G i (leNat (t.homeBytes (base + w * i) w)))) p).getD (t.homeByte p)

section
variable {inv : State → Prop} {base w N : Nat} {G : Nat → Nat → Nat} {h : State → Nat → State} (hh : WritesWord inv base w N G h) {s : State} (hs : inv s)
include hh hs

/-- After the steps each word is the function of what it held, and no byte beside them has changed. -/
theorem WritesWord.foldl {m : Nat} (hm : m ≤ N) :
    inv ((List.range m).foldl h s) ∧
    (∀ j, j < m → ((List.range m).foldl h s).homeBytes (base + w * j) w = leBytes w (G j (leNat (s.homeBytes (base + w * j) w)))) ∧
    ∀ p, p < base ∨ base + w * m ≤ p → ((List.range m).foldl h s).homeByte p = s.homeByte p := by
  induction m with
  | zero => exact ⟨hs, fun j hj => absurd hj (by omega), fun _ _ => rfl⟩
  | succ m ih =>
    obtain ⟨hinv, hwords, hrest⟩ := ih (by omega)
    rw [List.range_succ, List.foldl_append, List.foldl_cons, List.foldl_nil]
    generalize (List.range m).foldl h s = t at hinv hwords hrest ⊢
    obtain ⟨hinv', hbyte⟩ := hh t m (by omega) hinv
    have hout (p : Nat) (hp : p < base + w * m ∨ base + w * (m + 1) ≤ p) : (h t m).homeByte p = t.homeByte p := by
      have hno : ¬ (base + w * m ≤ p ∧ p < base + w * m + w) := by
        rw [Nat.mul_succ] at hp
        omega
      rw [hbyte, bytesAt_getD, length_leBytes, if_neg hno]
    refine ⟨hinv', fun j hj => ?_, fun p hp => ?_⟩
    · rcases Nat.lt_or_eq_of_le (Nat.le_of_lt_succ hj) with hlt | rfl
      · rw [← hwords j hlt]
        refine State.homeBytes_congr fun k hk => hout _ (.inl ?_)
        have : w * j + w ≤ w * m := by rw [← Nat.mul_succ]; exact Nat.mul_le_mul_left w hlt
        omega
      · have hold : t.homeBytes (base + w * j) w = s.homeBytes (base + w * j) w :=
          State.homeBytes_congr fun k _ => hrest _ (.inr (by omega))
        refine State.homeBytes_eq (length_leBytes _ _) fun k hk => ?_
        rw [hbyte, hold, bytesAt_getD, length_leBytes, if_pos ⟨by omega, by omega⟩, Nat.add_sub_cancel_left]
    · rw [hout p (by rw [Nat.mul_succ] at hp ⊢; omega)]
      exact hrest p (by rw [Nat.mul_succ] at hp; omega)

end

/-! The words of a line at its home. -/

/-- Work at the homes that changes bytes only: sums, images and mailbox areas stay where they were, and groves as they were. -/
structure State.Follows (s t : State) : Prop where
  steady : t.Steady
  images : s.SameImages t
  dies : t.dies = s.dies
  combine : t.combine = s.combine
  groves : t.groves = s.groves

theorem State.Follows.refl {s : State} (hs : s.Steady) : s.Follows s := ⟨hs, .refl s, rfl, rfl, rfl⟩

section
variable {s : State} {line w N : Nat} (hw : w * N ≤ 128) (streaming : Bool)
include hw

theorem follows_rawWriteAs (hi : ∀ k, k < 128 → s.imageAt? (128 * line + k) = none) {t : State} (ht : s.Follows t) {i : Nat} (hlt : i < N)
    {bs : List Byte} (hbs : bs.length = w) :
    s.Follows (t.rawWriteAs (128 * line + w * i) bs streaming) ∧
    ∀ p, (t.rawWriteAs (128 * line + w * i) bs streaming).homeByte p = (bytesAt (128 * line + w * i) bs p).getD (t.homeByte p) := by
  have hend : w * i + w ≤ 128 := le_trans (by rw [← Nat.mul_succ]; exact Nat.mul_le_mul_left w hlt) hw
  have hput := State.Puts.rawWriteAs (pa := 128 * line + w * i) (bs := bs) (by omega) streaming t
  obtain ⟨hsteady, himages, -⟩ := hput ht.steady
  refine ⟨⟨hsteady, ht.images.trans himages, (State.dies_rawWriteAs ..).trans ht.dies, (State.combine_rawWriteAs ..).trans ht.combine,
    (State.OffCores.rawWriteAs _ _ _ _).groves.trans ht.groves⟩, fun p => ?_⟩
  refine hput.homeByte ht.steady (fun q hq => ?_) p
  unfold bytesAt at hq
  split at hq
  next hr =>
    rw [ht.images.place, show q = 128 * line + (q - 128 * line) by omega]
    exact hi _ (by omega)
  next => simp at hq

theorem writesWord_raw (hi : ∀ k, k < 128 → s.imageAt? (128 * line + k) = none) (F : Nat → Nat) :
    WritesWord s.Follows (128 * line) w N (fun i _ => F i) fun t i => t.rawWriteAs (128 * line + w * i) (leBytes w (F i)) streaming :=
  fun _ _ hlt ht => follows_rawWriteAs hw streaming hi ht hlt (length_leBytes _ _)

theorem writesWord_home (hu : s.Unwatched (128 * line) 128) (hpos : 0 < w) (G : Nat → Nat → Nat) :
    WritesWord s.Follows (128 * line) w N G fun t i =>
      t.homeWriteAs (128 * line + w * i) (leBytes w (G i (leNat (t.homeBytes (128 * line + w * i) w)))) streaming := by
  intro t i hlt ht
  have hend : w * i + w ≤ 128 := le_trans (by rw [← Nat.mul_succ]; exact Nat.mul_le_mul_left w hlt) hw
  have hfree : t.Unwatched (128 * line + w * i) w :=
    (hu.of_same ht.images ht.dies ht.combine).within (by omega) (by omega) (by unfold lineOf; omega)
  dsimp only
  rw [State.homeWriteAs_unwatched (by rw [length_leBytes]; omega) streaming (by rwa [length_leBytes]) (by rwa [length_leBytes])]
  exact follows_rawWriteAs hw streaming hu.image ht hlt (length_leBytes _ _)

end

/-! A partial reaches its home (R173). -/

section
variable {s : State} {r : CRange} {l : L1Line}

/-- The words of a partial other than an FP32 add's are combined at once. -/
theorem combinePartial_words {n N : Nat} (hop : r.op ≠ 1) (hs : s.Steady) (hu : s.Unwatched (128 * l.line) 128) (hn : rangeBytes r.fmt = n) (hpos : 0 < n)
    (hN : 128 / n = N) :
    s.Follows (s.combinePartial r l) ∧
    (∀ j, j < N → (s.combinePartial r l).homeBytes (128 * l.line + n * j) n =
      leBytes n (rangeOp r.op r.fmt (leNat (s.homeBytes (128 * l.line + n * j) n)) (l.data.extractLsb' (8 * n * j) (8 * n)).toNat)) ∧
    ∀ p, p < 128 * l.line ∨ 128 * l.line + n * N ≤ p → (s.combinePartial r l).homeByte p = s.homeByte p := by
  have hle : n * N ≤ 128 := by rw [← hN]; exact Nat.mul_div_le 128 n
  have h := (writesWord_home hle l.stream hu hpos fun j old => rangeOp r.op r.fmt old (l.data.extractLsb' (8 * n * j) (8 * n)).toNat).foldl
    (State.Follows.refl hs) (Nat.le_refl N)
  have heq : s.combinePartial r l = (List.range N).foldl (fun t i => t.homeWriteAs (128 * l.line + n * i)
      (leBytes n (rangeOp r.op r.fmt (leNat (t.homeBytes (128 * l.line + n * i) n)) (l.data.extractLsb' (8 * n * i) (8 * n)).toNat)) l.stream) s := by
    rw [State.combinePartial, if_neg hop, hn, hN]
  rw [heq]
  exact h

/-- What a word waits as at the home: its sum, or the number that the home holds. -/
def State.waitingSum (s : State) (line i : Nat) : FV :=
  let old := match s.comb? line with | some c => c.sums | none => []
  match old.find? fun p => p.1 == 4 * i with
  | some p => p.2
  | none => valF32 (BitVec.ofNat 32 (leNat (s.homeBytes (128 * line + 4 * i) 4)))

/-- The sums of a line with a partial added. -/
def State.sumsWith (s : State) (l : L1Line) : List (Nat × FV) :=
  (List.range 32).map fun i => (4 * i, (FV.add .rne (s.waitingSum l.line i) (valF32 (l.data.extractLsb' (32 * i) 32))).1)

theorem State.mem_sumsWith (s : State) (l : L1Line) {i : Nat} (hi : i < 32) :
    (4 * i, (FV.add .rne (s.waitingSum l.line i) (valF32 (l.data.extractLsb' (32 * i) 32))).1) ∈ s.sumsWith l :=
  List.mem_map.2 ⟨i, List.mem_range.2 hi, rfl⟩

theorem waitingSum_none {line : Nat} (h : s.comb? line = none) (i : Nat) :
    s.waitingSum line i = valF32 (BitVec.ofNat 32 (leNat (s.homeBytes (128 * line + 4 * i) 4))) := by
  simp [State.waitingSum, h]

theorem waitingSum_some {line : Nat} {F : Nat → FV} (h : s.comb? line = some ⟨line, (List.range 32).map fun i => (4 * i, F i)⟩) {i : Nat} (hi : i < 32) :
    s.waitingSum line i = F i := by
  have hfind : ((List.range 32).map fun i => (4 * i, F i)).find? (fun p => p.1 == 4 * i) = some (4 * i, F i) := by
    have hkey : ((fun p : Nat × FV => p.1 == 4 * i) ∘ fun i => (4 * i, F i)) = fun j => j == i := by
      funext j
      simp
    have hplace : (List.range 32).find? (fun j => j == i) = some i :=
      List.find?_range_eq_some.2 ⟨beq_self_eq_true i, List.mem_range.2 hi, fun j hj => by simp; omega⟩
    rw [List.find?_map, hkey, hplace]
    rfl
  simp [State.waitingSum, h, hfind]

variable (hop : r.op = 1) (hs : s.Steady) (ho : s.combOldest l.line = none)
include hop hs ho

/-- The partial of an FP32 add joins the sums that wait at the home, and no byte changes. -/
theorem combinePartial_sums :
    s.KeepsBytes (s.combinePartial r l) ∧ (s.combinePartial r l).groves = s.groves ∧ (s.combinePartial r l).dies = s.dies ∧
    (s.combinePartial r l).combine = ⟨l.line, s.sumsWith l⟩ :: s.combine.filter fun q => q.line != l.line := by
  have hroom : s.combRoom l.line = s := by rw [State.combRoom, ho]
  have hslices := State.OnlySlices.holdHome s l.line 0xF l.stream
  have hkeep : s.KeepsBytes (s.holdHome l.line 0xF l.stream) := .of_onlySlices hslices
  have hcomb : (s.holdHome l.line 0xF l.stream).combine = s.combine := (congrArg State.combine hslices.eq :)
  have hwait (i : Nat) : (s.holdHome l.line 0xF l.stream).waitingSum l.line i = s.waitingSum l.line i := by
    simp only [State.waitingSum, State.comb?, hcomb, hkeep.homeBytes hs]
  have heq : s.combinePartial r l = State.latchPhys { s.holdHome l.line 0xF l.stream with
      combine := ⟨l.line, (s.holdHome l.line 0xF l.stream).sumsWith l⟩ :: (s.holdHome l.line 0xF l.stream).combine.filter fun q => q.line != l.line }
      (128 * l.line) 128 := by
    rw [State.combinePartial, if_pos hop, hroom]
    rfl
  have hsums : (s.holdHome l.line 0xF l.stream).sumsWith l = s.sumsWith l := by
    simp only [State.sumsWith, hwait]
  rw [heq, hsums, hcomb]
  refine ⟨(hkeep.trans (State.Puts.quiet .quiet)).trans (.latchPhys _ _ _), ?_, ?_, ?_⟩
  · exact (State.OffCores.latchPhys _ _ _).groves.trans hslices.groves
  · exact (State.dies_latchPhys _ _ _).trans hslices.dies
  · exact State.combine_latchPhys _ _ _

theorem comb?_combinePartial : (s.combinePartial r l).comb? l.line = some ⟨l.line, s.sumsWith l⟩ := by
  rw [State.comb?, (combinePartial_sums hop hs ho).2.2.2]
  simp

theorem combOldest_combinePartial : (s.combinePartial r l).combOldest l.line = none := by
  rw [← ho]
  unfold State.combOldest
  rw [(combinePartial_sums hop hs ho).2.2.2]
  simp only [List.filter_cons, bne_self_eq_false, Bool.and_false, Bool.false_eq_true, if_false, List.filter_filter]
  simp only [Bool.and_assoc, Bool.and_self]

end

/-- The sums of a line are rounded into its words (R173). -/
theorem roundSums_line {s : State} {line : Nat} {F : Nat → FV} (hs : s.Steady) (hi : ∀ k, k < 128 → s.imageAt? (128 * line + k) = none)
    (hc : s.comb? line = some ⟨line, (List.range 32).map fun i => (4 * i, F i)⟩) :
    (∀ j, j < 32 → (s.roundSums (128 * line) 128).homeBytes (128 * line + 4 * j) 4 = leBytes 4 (roundF32 .rne (F j)).1.toNat) ∧
    ∀ p, p < 128 * line ∨ 128 * line + 128 ≤ p → (s.roundSums (128 * line) 128).homeByte p = s.homeByte p := by
  have h := (writesWord_raw (w := 4) (N := 32) (by decide) false hi fun i => (roundF32 .rne (F i)).1.toNat).foldl
    (State.Follows.refl hs) (Nat.le_refl 32)
  have hline : lineOf (128 * line) = line := by unfold lineOf; omega
  have hhit : (((List.range 32).map fun i => (4 * i, F i)).filter fun p =>
      decide (128 * line < 128 * line + p.1 + 4) && decide (128 * line + p.1 < 128 * line + 128)) = (List.range 32).map fun i => (4 * i, F i) := by
    refine List.filter_eq_self.2 fun p hp => ?_
    obtain ⟨i, hi, rfl⟩ := List.mem_map.1 hp
    have := List.mem_range.1 hi
    simp
    omega
  rw [State.roundSums, linesOf_within (by decide) (by omega), List.foldl_cons, List.foldl_nil, hline, State.roundWords, hc]
  simp only [hhit, List.foldl_map, State.rawWrite]
  obtain ⟨-, hwords, hrest⟩ := h
  generalize (List.range 32).foldl _ s = t at hwords hrest ⊢
  exact ⟨hwords, hrest⟩

end Sys2Proof.Machine
end

section /-! PROOF. A matching atomic reaches its home (R172, R173, O32). -/
set_option Elab.async false
namespace Sys2Proof.Machine
open Sys2Proof

/-! A matching atomic on a line that its grove does not hold (R172). -/

/-- The line that a matching atomic makes: every word at the identity, but for its own. -/
def partialLine (r : CRange) (op : AmoOp) (k n pa v : Nat) : L1Line :=
  { L1Line.fresh (lineOf pa) with
    data := (leBytes n (amoNew op n (rangeIdentity r.op r.fmt) v 0)).zipIdx.foldl (fun d p => setLineByte d (pa % 128 + p.2) p.1) (rangeLine r)
    upd := some k }

section
variable {r : CRange} {n : Nat} (hw : rangeBytes r.fmt = n) (hn : n = 4 ∨ n = 8) (hid : rangeIdentity r.op r.fmt < 2 ^ (8 * n))
include hw hn hid

/-- Each word of an empty line of a range is the identity. -/
theorem rangeLine_word {j : Nat} (hj : j < 128 / n) : ((rangeLine r).extractLsb' (8 * n * j) (8 * n)).toNat = rangeIdentity r.op r.fmt := by
  have hlt := repeated_lt hid (128 / n)
  rw [show 8 * n * (128 / n) = 1024 by rcases hn with rfl | rfl <;> rfl] at hlt
  have hline : rangeLine r = BitVec.ofNat 1024 (repeated (8 * n) (rangeIdentity r.op r.fmt) (128 / n)) := by
    rw [rangeLine, hw]
    rfl
  rw [hline, BitVec.extractLsb'_toNat, BitVec.toNat_ofNat, Nat.mod_eq_of_lt hlt, Nat.shiftRight_eq_div_pow, repeated_word hid hj]

theorem rangeLine_bytes {j : Nat} (hj : j < 128 / n) :
    leNat ((List.range n).map fun i => lineByte (rangeLine r) (n * j + i)) = rangeIdentity r.op r.fmt := by
  rw [← toNat_extract_bytes, ← Nat.mul_assoc, rangeLine_word hw hn hid hj]

variable {op : AmoOp} {v pa : Nat} (hv : amoNew op n (rangeIdentity r.op r.fmt) v 0 < 2 ^ (8 * n)) (hpa : pa % n = 0) (k : Nat)
include hv hpa

/-- Each word of the line of a matching atomic. -/
theorem partialLine_word {j : Nat} (hj : j < 128 / n) :
    ((partialLine r op k n pa v).data.extractLsb' (8 * n * j) (8 * n)).toNat =
      if 128 * lineOf pa + n * j = pa then amoNew op n (rangeIdentity r.op r.fmt) v 0 else rangeIdentity r.op r.fmt := by
  have hin : pa % 128 + n ≤ 128 := by rcases hn with rfl | rfl <;> omega
  have hend : n * j + n ≤ 128 := by rcases hn with rfl | rfl <;> omega
  have hbyte (i : Nat) (hi : i < n) : lineByte (partialLine r op k n pa v).data (n * j + i) =
      if 128 * lineOf pa + n * j = pa then (leBytes n (amoNew op n (rangeIdentity r.op r.fmt) v 0)).getD i 0 else lineByte (rangeLine r) (n * j + i) := by
    rw [show (partialLine r op k n pa v).data = (leBytes n (amoNew op n (rangeIdentity r.op r.fmt) v 0)).zipIdx.foldl
      (fun d p => setLineByte d (pa % 128 + p.2) p.1) (rangeLine r) from rfl, lineByte_foldl_zipIdx _ _ _ (by rwa [length_leBytes]) (by omega), length_leBytes]
    have hplace : pa % 128 ≤ n * j + i ∧ n * j + i < pa % 128 + n ↔ 128 * lineOf pa + n * j = pa := by
      unfold lineOf
      rcases hn with rfl | rfl <;> omega
    by_cases hp : 128 * lineOf pa + n * j = pa
    · rw [if_pos (hplace.2 hp), if_pos hp, show n * j + i - pa % 128 = i by unfold lineOf at hp; omega]
    · rw [if_neg fun h => hp (hplace.1 h), if_neg hp]
  rw [Nat.mul_assoc, toNat_extract_bytes]
  by_cases hp : 128 * lineOf pa + n * j = pa
  · have hbytes : (List.range n).map (fun i => lineByte (partialLine r op k n pa v).data (n * j + i)) =
        leBytes n (amoNew op n (rangeIdentity r.op r.fmt) v 0) := by
      refine List.ext_getElem (by simp) fun i h1 h2 => ?_
      have hi : i < n := by simpa using h1
      rw [List.getElem_map, List.getElem_range, hbyte i hi, if_pos hp]
      simp [hi]
    rw [hbytes, leNat_leBytes, Nat.mod_eq_of_lt hv, if_pos hp]
  · rw [if_neg hp, ← rangeLine_bytes hw hn hid hj]
    refine congrArg leNat (List.map_congr_left fun i hi => ?_)
    rw [hbyte i (List.mem_range.1 hi), if_neg hp]

end

section
variable {s : State} {core pa n k v : Nat} {r : CRange} {op : AmoOp} (hw : rangeBytes r.fmt = n) (hn : n = 4 ∨ n = 8)
  (hid : rangeIdentity r.op r.fmt < 2 ^ (8 * n)) (hpa : pa % n = 0) (hs : s.Steady)
  (hnone : (s.grove (coreGrove core)).line? (lineOf pa) = none) (hroom : s.HasRoom (coreGrove core) (lineOf pa)) (streaming : Bool)
include hw hn hid hpa hs hnone hroom

theorem matching_absent :
    s.matching core pa n k r op v streaming =
      ((s.setGrove (coreGrove core) ((s.grove (coreGrove core)).putLine (partialLine r op k n pa v) streaming)).latchGrove (coreGrove core) pa n, true) := by
  have hj : pa % 128 / n < 128 / n := by rcases hn with rfl | rfl <;> omega
  have hold : leNat (L1Line.bytes { L1Line.fresh (lineOf pa) with data := rangeLine r, upd := some k } (pa % 128) n) = rangeIdentity r.op r.fmt := by
    rw [← rangeLine_bytes hw hn hid hj, show n * (pa % 128 / n) = pa % 128 by rcases hn with rfl | rfl <;> omega]
    rfl
  unfold State.matching
  simp only [hnone, Option.isSome_none, Bool.false_eq_true, if_false, State.l1Room_of_hasRoom hnone hroom, Option.getD_none, hold,
    State.badInL1_clean hs.1]
  rfl

theorem matching_putsLine :
    s.PutsLine (s.matching core pa n k r op v streaming).1 (coreGrove core) (partialLine r op k n pa v) streaming := by
  rw [matching_absent hw hn hid hpa hs hnone hroom]
  exact (State.PutsLine.of_setGrove _ _ _ _).thenKeeps (State.groves_latchGrove _ _ _ _) (.latchGrove _ _ _ _)

end

/-! The recall of a line that one grove holds a partial of (R173). -/

/-- A fold in which one element takes the first state to a state that all keep. -/
theorem foldl_once {α : Type} {h : State → α → State} {a : α} {s t : State} (ha : h s a = t) (hs : ∀ b, b ≠ a → h s b = s) (ht : ∀ b, h t b = t)
    [DecidableEq α] (l : List α) : l.foldl h s = if a ∈ l then t else s := by
  have hstay (l : List α) : l.foldl h t = t := List.foldlRecOn (motive := (· = t)) _ _ rfl fun u hu b _ => by rw [hu, ht]
  induction l with
  | nil => rfl
  | cons b rest ih =>
    rw [List.foldl_cons]
    by_cases hb : b = a
    · subst hb
      rw [ha, hstay]
      simp
    · rw [hs b hb, ih]
      simp [Ne.symm hb]

theorem mem_keys_set {α : Type} (t : Tab α) (k : Nat) (v : α) : k ∈ (t.set k v).keys :=
  List.mem_map.2 ⟨(k, v), Tab.mem_of_get? (Tab.get?_set _ _ _), rfl⟩

theorem Grove.line?_dropLine (g : Grove) (line : Nat) : (g.dropLine line).line? line = none := by
  simp [Grove.dropLine, Grove.line?]

theorem State.grove_dropL1 (s : State) (g line : Nat) : (s.dropL1 g line).grove g = (s.grove g).dropLine line := by
  rw [State.dropL1, State.grove_sweep, State.grove_setGrove]

theorem State.grove_dropL1_ne (s : State) {g q : Nat} (line : Nat) (h : q ≠ g) : (s.dropL1 g line).grove q = s.grove q := by
  rw [State.dropL1, State.grove_sweep, State.grove_setGrove_ne _ _ (Ne.symm h)]

section
variable {s : State} {g line k : Nat} {l : L1Line} {r : CRange} (hl : (s.grove g).line? line = some l) (hupd : l.upd = some k)
  (hr : s.ranges.get? k = some r) (hb : s.badSram = [])
include hl hupd hr hb

theorem recallLine_partial (hi : s.imageAt? (128 * line) = none) (hkey : g ∈ s.groves.keys)
    (hother : ∀ q, q ≠ g → ∀ m, (s.grove q).line? line = some m → m.upd = none) :
    s.recallLine line = (s.combinePartial r l).dropL1 g line := by
  have himage : s.recallImage line = s := by rw [State.recallImage, hi]
  have hback : s.writeBackLine g l = s.combinePartial r l := by
    rw [State.writeBackLine, hupd]
    simp only [hr, State.badL1_clean hb, if_true]
  have hgroves (q : Nat) : (s.combinePartial r l).grove q = s.grove q := (State.OffCores.combinePartial s r l).grove q
  have hnone (q : Nat) (m : L1Line) (hm : (((s.combinePartial r l).dropL1 g line).grove q).line? line = some m) : m.upd = none := by
    by_cases hq : q = g
    · subst hq
      rw [State.grove_dropL1, Grove.line?_dropLine] at hm
      exact absurd hm nofun
    · rw [State.grove_dropL1_ne _ _ hq, hgroves] at hm
      exact hother q hq m hm
  unfold State.recallLine
  rw [himage]
  refine (foldl_once (a := g) (t := (s.combinePartial r l).dropL1 g line) ?_ (fun q hq => ?_) (fun q => ?_) _).trans (if_pos hkey)
  · simp only [hl, hupd, Option.isSome_some, if_true, hback]
  · split
    next m hm => simp [hother q hq m hm]
    next => rfl
  · split
    next m hm => simp [hnone q m hm]
    next => rfl

end

theorem State.combine_dropL1 (s : State) (g line : Nat) : (s.dropL1 g line).combine = s.combine := by
  unfold State.dropL1 State.sweep
  split
  · rfl
  · rfl

/-- One grove of a state holds a partial of a line on which nothing else waits. -/
structure State.HoldsPartial (s : State) (g : Nat) (l : L1Line) (k : Nat) (r : CRange) : Prop where
  line : (s.grove g).line? l.line = some l
  upd : l.upd = some k
  range : s.ranges.get? k = some r
  key : g ∈ s.groves.keys
  others : ∀ q, q ≠ g → ∀ m, (s.grove q).line? l.line = some m → m.upd = none
  unwatched : s.Unwatched (128 * l.line) 128
  room : s.combOldest l.line = none

section
variable {s : State} {g k n : Nat} {l : L1Line} {r : CRange} (h : s.HoldsPartial g l k r) (hs : s.Steady) (hw : rangeBytes r.fmt = n)
  (hn : n = 4 ∨ n = 8) (hfadd : r.op = 1 → n = 4)
include h hs

theorem State.HoldsPartial.settle :
    s.settle (128 * l.line) 128 = ((s.combinePartial r l).dropL1 g l.line).roundSums (128 * l.line) 128 := by
  have hline : lineOf (128 * l.line) = l.line := by unfold lineOf; omega
  rw [State.settle, linesOf_within (by decide) (by omega), List.foldl_cons, List.foldl_nil, hline,
    recallLine_partial h.line h.upd h.range hs.1 (h.unwatched.image 0 (by decide)) h.key h.others]

include hw hn hfadd

/-- A read at the home finds each word combined with the partial's, and no byte beside the line changed. -/
theorem State.HoldsPartial.words :
    (∀ j, j < 128 / n → (s.settle (128 * l.line) 128).homeBytes (128 * l.line + n * j) n =
      leBytes n (rangeOp r.op r.fmt (leNat (s.homeBytes (128 * l.line + n * j) n)) (l.data.extractLsb' (8 * n * j) (8 * n)).toNat)) ∧
    ∀ p, p < 128 * l.line ∨ 128 * l.line + 128 ≤ p → (s.settle (128 * l.line) 128).homeByte p = s.homeByte p := by
  have hline : lineOf (128 * l.line) = l.line := by unfold lineOf; omega
  have hnone : s.comb? l.line = none := by rw [← hline]; exact h.unwatched.comb
  have hdrop : (s.combinePartial r l).KeepsBytes ((s.combinePartial r l).dropL1 g l.line) := .dropL1 _ _ _
  rw [h.settle hs]
  by_cases hop : r.op = 1
  · obtain rfl := hfadd hop
    obtain ⟨hkeep, -, -, -⟩ := combinePartial_sums hop hs h.room
    have hdkeep := hkeep.trans hdrop
    have hcomb : ((s.combinePartial r l).dropL1 g l.line).comb? l.line = some ⟨l.line, s.sumsWith l⟩ := by
      rw [State.comb?, State.combine_dropL1]
      exact comb?_combinePartial hop hs h.room
    obtain ⟨hwords, hrest⟩ := roundSums_line (hdkeep hs).1 (fun i hi => ((hdkeep hs).2.1.place _).trans (h.unwatched.image i hi)) hcomb
    refine ⟨fun j hj => (hwords j hj).trans ?_, fun p hp => (hrest p hp).trans (hdkeep.homeByte hs p)⟩
    rw [waitingSum_none hnone, rangeOp_fadd hop, BitVec.ofNat_toNat, BitVec.setWidth_eq, addRne]
  · have hpos : 0 < n := by omega
    have hfull : n * (128 / n) = 128 := by rcases hn with rfl | rfl <;> rfl
    obtain ⟨hfol, hwords, hrest⟩ := combinePartial_words hop hs h.unwatched hw hpos rfl
    have hquiet : ((s.combinePartial r l).dropL1 g l.line).roundSums (128 * l.line) 128 = (s.combinePartial r l).dropL1 g l.line :=
      State.roundSums_within (by rw [hline, State.comb?, State.combine_dropL1, hfol.combine]; exact hnone) (by decide) (by omega)
    rw [hquiet, hfull] at *
    exact ⟨fun j hj => (hdrop.homeBytes hfol.steady _ _).trans (hwords j hj), fun p hp => (hdrop.homeByte hfol.steady p).trans (hrest p hp)⟩

end

theorem State.latchGrove_eq (s : State) (g pa n : Nat) : ∃ cs, s.latchGrove g pa n = { s with ctxs := cs } := by
  unfold State.latchGrove
  split
  · exact ⟨s.ctxs, rfl⟩
  · exact ⟨_, rfl⟩

theorem homeBytes_lt (s : State) (pa n : Nat) : leNat (s.homeBytes pa n) < 2 ^ (8 * n) := by
  have h := leNat_lt (s.homeBytes pa n)
  rwa [show (s.homeBytes pa n).length = n by simp [State.homeBytes]] at h

theorem State.homeByte_of_homeBytes {s t : State} {pa n k : Nat} (h : t.homeBytes pa n = s.homeBytes pa n) (hk : k < n) :
    t.homeByte (pa + k) = s.homeByte (pa + k) := by
  have := congrArg (fun l : List Byte => l.getD k 0) h
  simpa [State.homeBytes, hk] using this

/-- Bytes are told by their number. -/
theorem leNat_injective {xs ys : List Byte} (hlen : xs.length = ys.length) (h : leNat xs = leNat ys) : xs = ys := by
  induction xs generalizing ys with
  | nil => exact (List.length_eq_zero_iff.1 hlen.symm).symm
  | cons x xs ih =>
    cases ys with
    | nil => simp at hlen
    | cons y ys =>
      rw [leNat_cons, leNat_cons] at h
      have hx := x.isLt
      have hy := y.isLt
      have hhead : x = y := BitVec.eq_of_toNat_eq (by omega)
      rw [hhead, ih (by simpa using hlen) (by omega)]

theorem leBytes_leNat {bs : List Byte} {n : Nat} (h : bs.length = n) : leBytes n (leNat bs) = bs := by
  refine leNat_injective (by rw [length_leBytes, h]) ?_
  rw [leNat_leBytes, ← h, Nat.mod_eq_of_lt (leNat_lt bs)]

/-! A matching atomic and the recall of its line (R172, R173). -/

section
variable {s : State} {core pa n k v : Nat} {r : CRange} {op : AmoOp} (hn : n = 4 ∨ n = 8) (htakes : rangeTakes r op n = true)
  (hf : (op = .fadd ∨ op = .fmin ∨ op = .fmax) → n = 4) (hr : s.ranges.get? k = some r)
  (hnone : (s.grove (coreGrove core)).line? (lineOf pa) = none) (hroom : s.HasRoom (coreGrove core) (lineOf pa)) (hpa : pa % n = 0)
  (hv : v < 2 ^ (8 * n)) (hplain : s.PlainRange (128 * lineOf pa) 128) (hs : s.Steady) (hold : s.combOldest (lineOf pa) = none) (streaming : Bool)
include hn htakes hf hnone hroom hpa hs

theorem matching_puts : s.PutsLine (s.matching core pa n k r op v streaming).1 (coreGrove core) (partialLine r op k n pa v) streaming :=
  matching_putsLine (rangeBytes_of_takes hn htakes hf) hn (rangeIdentity_lt hn htakes hf) hpa hs hnone hroom streaming

include hr hplain hold

theorem matching_holdsPartial :
    (s.matching core pa n k r op v streaming).1.HoldsPartial (coreGrove core) { partialLine r op k n pa v with stream := streaming } k r := by
  have hput := matching_puts (k := k) (v := v) hn htakes hf hnone hroom hpa hs streaming
  have hmatch := matching_absent (op := op) (k := k) (v := v) (rangeBytes_of_takes hn htakes hf) hn (rangeIdentity_lt hn htakes hf) hpa hs hnone
    hroom streaming
  obtain ⟨cs, hcs⟩ := State.latchGrove_eq (s.setGrove (coreGrove core) ((s.grove (coreGrove core)).putLine (partialLine r op k n pa v) streaming))
    (coreGrove core) pa n
  have ht := (congrArg Prod.fst hmatch).trans hcs
  generalize (s.matching core pa n k r op v streaming).1 = t at hput ht ⊢
  have hplain0 : s.Plain (lineOf pa) := by
    have h := hplain.1
    rwa [show lineOf (128 * lineOf pa) = lineOf pa by unfold lineOf; omega] at h
  have hcombine : t.combine = s.combine := by rw [ht]; rfl
  exact
    { line := hput.line?
      upd := rfl
      range := by rw [ht]; exact hr
      key := by rw [hput.groves]; exact mem_keys_set _ _ _
      others := fun q hq m hm => hplain0.2 q m (by rwa [hput.grove_ne hq] at hm)
      unwatched := hplain.unwatched.of_same (hput.bytes hs).2.1 (by rw [ht]; rfl) hcombine
      room := by rw [← hold, State.combOldest, State.combOldest, hcombine]; rfl }

/-- No byte beside the line changes. -/
theorem settle_matching_beside {p : Nat} (hp : lineOf p ≠ lineOf pa) :
    ((s.matching core pa n k r op v streaming).1.settle (128 * lineOf pa) 128).homeByte p = s.homeByte p := by
  have hput := matching_puts (k := k) (v := v) hn htakes hf hnone hroom hpa hs streaming
  obtain ⟨-, hrest⟩ := (matching_holdsPartial (v := v) hn htakes hf hr hnone hroom hpa hplain hs hold streaming).words (hput.bytes hs).1
    (rangeBytes_of_takes hn htakes hf) hn (fadd_words hn htakes hf)
  refine (hrest p ?_).trans (hput.bytes.homeByte hs p)
  show p < 128 * lineOf pa ∨ 128 * lineOf pa + 128 ≤ p
  unfold lineOf at hp ⊢
  omega

include hv

/-- Each word of the line is combined with the partial's. -/
theorem settle_matching_word {j : Nat} (hj : j < 128 / n) :
    ((s.matching core pa n k r op v streaming).1.settle (128 * lineOf pa) 128).homeBytes (128 * lineOf pa + n * j) n =
      leBytes n (rangeOp r.op r.fmt (leNat (s.homeBytes (128 * lineOf pa + n * j) n))
        (if 128 * lineOf pa + n * j = pa then amoNew op n (rangeIdentity r.op r.fmt) v 0 else rangeIdentity r.op r.fmt)) := by
  have hput := matching_puts (k := k) (v := v) hn htakes hf hnone hroom hpa hs streaming
  have hw := rangeBytes_of_takes hn htakes hf
  obtain ⟨hwords, -⟩ := (matching_holdsPartial (v := v) hn htakes hf hr hnone hroom hpa hplain hs hold streaming).words (hput.bytes hs).1 hw hn
    (fadd_words hn htakes hf)
  rw [← partialLine_word hw hn (rangeIdentity_lt hn htakes hf) (amoNew_identity_lt hn htakes hf hv) hpa k hj, ← hput.bytes.homeBytes hs]
  exact hwords j hj

theorem settle_matching_value {j : Nat} (hj : j < 128 / n) :
    leNat (((s.matching core pa n k r op v streaming).1.settle (128 * lineOf pa) 128).homeBytes (128 * lineOf pa + n * j) n) =
      rangeOp r.op r.fmt (leNat (s.homeBytes (128 * lineOf pa + n * j) n))
        (if 128 * lineOf pa + n * j = pa then amoNew op n (rangeIdentity r.op r.fmt) v 0 else rangeIdentity r.op r.fmt) := by
  have hpart : (if 128 * lineOf pa + n * j = pa then amoNew op n (rangeIdentity r.op r.fmt) v 0 else rangeIdentity r.op r.fmt) < 2 ^ (8 * n) := by
    split
    · exact amoNew_identity_lt hn htakes hf hv
    · exact rangeIdentity_lt hn htakes hf
  rw [settle_matching_word hn htakes hf hr hnone hroom hpa hv hplain hs hold streaming hj, leNat_leBytes,
    Nat.mod_eq_of_lt (rangeOp_lt hn htakes hf (homeBytes_lt _ _ _) hpart)]

/-- An integer add has increased its word, and left every other byte. -/
theorem settle_matching_add (hadd : op = .add) :
    let u := (s.matching core pa n k r op v streaming).1.settle (128 * lineOf pa) 128
    leNat (u.homeBytes pa n) = (leNat (s.homeBytes pa n) + v) % 2 ^ (8 * n) ∧ ∀ p, p < pa ∨ pa + n ≤ p → u.homeByte p = s.homeByte p := by
  intro u
  subst hadd
  obtain ⟨hop, hwidth⟩ := add_range hn htakes
  have hzero : rangeIdentity r.op r.fmt = 0 := by rw [hop]; rfl
  have hplace (p : Nat) (hp : lineOf p = lineOf pa) : ∃ j, j < 128 / n ∧ 128 * lineOf pa + n * j ≤ p ∧ p < 128 * lineOf pa + n * j + n := by
    refine ⟨p % 128 / n, ?_⟩
    unfold lineOf at hp ⊢
    rcases hn with rfl | rfl <;> omega
  refine ⟨?_, fun p hp => ?_⟩
  · obtain ⟨j, hj, hlo, hhi⟩ := hplace pa rfl
    have ha : 128 * lineOf pa + n * j = pa := by unfold lineOf at hlo hhi ⊢; rcases hn with rfl | rfl <;> omega
    have h := settle_matching_value hn htakes hf hr hnone hroom hpa hv hplain hs hold streaming hj
    rw [ha, if_pos rfl, hop, rangeOp_add, hwidth] at h
    rw [h, show amoNew .add n (rangeIdentity 0 r.fmt) v 0 = (0 + v) % 2 ^ (8 * n) from rfl, Nat.zero_add, Nat.mod_eq_of_lt hv]
  · by_cases hpl : lineOf p = lineOf pa
    · obtain ⟨j, hj, hlo, hhi⟩ := hplace p hpl
      have ha : 128 * lineOf pa + n * j ≠ pa := by omega
      have h := settle_matching_word hn htakes hf hr hnone hroom hpa hv hplain hs hold streaming hj
      rw [if_neg ha, hzero, hop, rangeOp_add, hwidth, Nat.add_zero, Nat.mod_eq_of_lt (homeBytes_lt _ _ _),
        leBytes_leNat (by simp [State.homeBytes])] at h
      have hbyte := State.homeByte_of_homeBytes h (k := p - (128 * lineOf pa + n * j)) (by omega)
      rwa [Nat.add_sub_cancel' hlo] at hbyte
    · exact settle_matching_beside hn htakes hf hr hnone hroom hpa hplain hs hold streaming hpl

end

/-- The sums of an FP32 add wait exactly, one partial after another (R173). -/
theorem combinePartial_waits {s : State} {r : CRange} {l : L1Line} (hop : r.op = 1) (hs : s.Steady) (hold : s.combOldest l.line = none)
    (hnone : s.comb? l.line = none) : ∃ c, (s.combinePartial r l).comb? l.line = some c ∧ ∀ i, i < 32 →
      (4 * i, (FV.add .rne (valF32 (BitVec.ofNat 32 (leNat (s.homeBytes (128 * l.line + 4 * i) 4))))
        (valF32 (l.data.extractLsb' (32 * i) 32))).1) ∈ c.sums ∧
      ∀ l2 : L1Line, l2.line = l.line → ∃ c2, ((s.combinePartial r l).combinePartial r l2).comb? l.line = some c2 ∧
        (4 * i, (FV.add .rne (FV.add .rne (valF32 (BitVec.ofNat 32 (leNat (s.homeBytes (128 * l.line + 4 * i) 4))))
          (valF32 (l.data.extractLsb' (32 * i) 32))).1 (valF32 (l2.data.extractLsb' (32 * i) 32))).1) ∈ c2.sums := by
  obtain ⟨hkeep, -, -, -⟩ := combinePartial_sums hop hs hold
  have hc := comb?_combinePartial hop hs hold
  refine ⟨_, hc, fun i hi => ⟨by rw [← waitingSum_none hnone]; exact State.mem_sumsWith s l hi, fun l2 hl2 => ?_⟩⟩
  have hold2 : (s.combinePartial r l).combOldest l2.line = none := by rw [hl2, combOldest_combinePartial hop hs hold]
  refine ⟨_, by rw [← hl2]; exact comb?_combinePartial hop (hkeep hs).1 hold2, ?_⟩
  rw [← waitingSum_none hnone, ← waitingSum_some hc hi, ← hl2]
  exact State.mem_sumsWith _ l2 hi

/-- Settles O32: the partial starts from the identity, and the recall combines each word of it at the home. -/
theorem commutativeAddReachesHome : Obligations.CommutativeAddReachesHome := by
  unfold Obligations.CommutativeAddReachesHome
  intro s core pa n k v r op streaming hn htakes hf hr hnone hroom hpa hv hplain hinv hsram hpow hold t u id
  have hs : s.Steady := ⟨hsram, hpow, hinv.1.1⟩
  have hcomb : s.comb? (lineOf pa) = none := by
    have h := hplain.1.1
    rwa [show lineOf (128 * lineOf pa) = lineOf pa by unfold lineOf; omega] at h
  refine ⟨?_, (matching_puts hn htakes hf hnone hroom hpa hs streaming).bytes.homeByte hs,
    fun j hj => settle_matching_value hn htakes hf hr hnone hroom hpa hv hplain hs hold streaming hj,
    fun p hp => settle_matching_beside hn htakes hf hr hnone hroom hpa hplain hs hold streaming hp,
    settle_matching_add hn htakes hf hr hnone hroom hpa hv hplain hs hold streaming, fun l hl hop => ?_⟩
  · rw [matching_absent (rangeBytes_of_takes hn htakes hf) hn (rangeIdentity_lt hn htakes hf) hpa hs hnone hroom]
  · exact combinePartial_waits hop hs (by rw [hl, hold]) (by rw [hl, hcomb])

end Sys2Proof.Machine
end

section /-! PROOF. An eviction from a combine buffer (R173, O51). -/
set_option Elab.async false
namespace Sys2Proof.Machine
open Sys2Proof

/-- A combine buffer of home slice 0 with 64 entries, all of line 257; a sum of the first has an offset behind the line, the others are empty. -/
def crowdedBuffer : List CombLine := ⟨257, [(128, FV.zero)]⟩ :: List.replicate 63 ⟨257, []⟩

/-- Grove 0 holds a partial of line 0, of an FP32 add, and the buffer of its home is crowded. -/
def crowdedState : State :=
  { State.reset with
    combine := crowdedBuffer
    ranges := [(0, ⟨0, 7, 1, 1⟩)]
    groves := [(0, { Grove.fresh with l1 := [{ L1Line.fresh 0 with upd := some 0 }] })] }

/-- The entry that is to make room for line 0 is empty, but the first entry of its line keeps its sum. -/
theorem crowdedState_evicts :
    crowdedState.combOldest 0 = some ⟨257, []⟩ ∧
    (match exec (.updateOnlyEviction 0 0) crowdedState with | .next t => (t.comb? 257).isSome | _ => false) = true := by
  refine ⟨by decide +kernel, by decide +kernel⟩

/-- Refutes O51: nothing in the statement says that the buffer holds one entry to a line, with sums inside the line. Where another entry of the
evicted line has a sum behind its line, rounding the line leaves that sum, and with it an entry of the line, in the buffer. -/
theorem not_cacheAndHomeEvents : ¬ Obligations.CacheAndHomeEvents := by
  intro h
  obtain ⟨-, -, hhome, -⟩ := h
  obtain ⟨-, -, -, hevict, -⟩ := hhome crowdedState 0
  obtain ⟨hpartial, -⟩ := hevict 0 { L1Line.fresh 0 with upd := some 0 } 0 rfl
  obtain ⟨t, ht, -, -, hroom⟩ := hpartial rfl
  obtain ⟨hold, hkept⟩ := crowdedState_evicts
  obtain ⟨-, hgone⟩ := hroom ⟨0, 7, 1, 1⟩ ⟨257, []⟩ rfl rfl rfl hold nofun
  rw [ht] at hkept
  simp only at hkept
  rw [hgone] at hkept
  exact absurd hkept (by decide)

end Sys2Proof.Machine
end
